-- ==== Sys2Proof/Word.lean ====
section
/-! DEFINITION. The word types of the machine (R5) and the sparse finite maps its state is written with. -/

namespace Sys2Proof

/-- A byte (R5). -/
abbrev Byte := BitVec 8
/-- A word: one lane of a vector register, a scalar register, an instruction word (R5). -/
abbrev Word := BitVec 32
/-- A double: a program counter or an address as a register holds it (R5). -/
abbrev Double := BitVec 64

/-- A finite map from numbers, as a list of pairs in rising key order. -/
abbrev FMap (α : Type) := List (Nat × α)

/-- Memory: rising addresses, no byte equal to what an unlisted address reads as (log 1). -/
abbrev Mem := List (Nat × BitVec 8)

end Sys2Proof
end

