-- ==== Sys2Proof/Syntax.lean ====
section
/-! DEFINITION. The syntax: the word formats of Table 9.2, the operands of the steps that no word encodes, and
`Instr`, one constructor per row of spec/opcode_table.json. -/

namespace Sys2Proof

/-- F3: three 7-bit register fields and a guard predicate (R182). -/
structure F3 where
  d : BitVec 7
  a : BitVec 7
  b : BitVec 7
  pr : BitVec 3
  pn : BitVec 1
  deriving DecidableEq, Repr

/-- F2I: two register fields, a 7-bit immediate and a guard predicate (R182). -/
structure F2I where
  d : BitVec 7
  a : BitVec 7
  imm : BitVec 7
  pr : BitVec 3
  pn : BitVec 1
  deriving DecidableEq, Repr

/-- FS: three 5-bit scalar fields and a 10-bit immediate (R182). -/
structure FS where
  d : BitVec 5
  a : BitVec 5
  b : BitVec 5
  imm : BitVec 10
  deriving DecidableEq, Repr

/-- FB: a predicate and a signed word offset (R182). -/
structure FB where
  pr : BitVec 3
  pn : BitVec 1
  off : BitVec 21
  deriving DecidableEq, Repr

/-- FQ: two sequencer registers, two 4-bit fields and a mode (R182). -/
structure FQ where
  qa : BitVec 5
  qb : BitVec 5
  x : BitVec 4
  y : BitVec 4
  mode : BitVec 7
  deriving DecidableEq, Repr

/-- XM, the extension word of Table 9.3 (R183). -/
structure XM where
  c : BitVec 7
  round : BitVec 3
  sat : BitVec 1
  scope : BitVec 3
  size : BitVec 3
  off : BitVec 15
  deriving DecidableEq, Repr

/-- The FIFO queues of Brine a workgroup has (R81, R357). -/
inductive BrineQ where
  | lane | copy | channel | append
  deriving DecidableEq, Repr

/-- An inner node of the Vesper tree (R97). -/
inductive VNode where
  | die (d : Nat) | dev (k : Nat) | pod (k : Nat)
  deriving DecidableEq, Repr

/-- An allocation that carries a generation (Table 5.1): a workgroup's scratchpad, or the base blocks, the
extended blocks or the private scratch of the warp in a slot. -/
inductive AllocId where
  | wg (id : Nat) | base (slot : Nat) | ext (slot : Nat) | priv (slot : Nat)
  deriving DecidableEq, Repr

/-- What a debug-path command reads or writes (R118, R363). -/
inductive DbgUnit where
  | row (slot reg : Nat)
  | granule (off : Nat)
  deriving DecidableEq, Repr

/-- What an inbound access asks of one location (R77, R91, R393). -/
inductive InboundKind where
  | read
  | write (data : List Byte)
  | atomicAdd (size : Nat) (y : Double)
  | cas (size : Nat) (old new : Double)
  deriving DecidableEq, Repr

/-- An access arriving over UCL or a peer link: where, how many bytes, what, and its order mark (R91). -/
structure InboundAccess where
  addr : Nat
  size : Nat
  kind : InboundKind
  marked : Bool
  deriving DecidableEq, Repr

/-- The register fields with no behaviour of their own (Tables 20.3 to 24.4). `k` is a logical device, `d` a die. -/
inductive Reg where
  | pcfgRole (k : Nat)
  | qbase (k q : Nat) | qslice (k q : Nat) | qnosteal (k q : Nat) | qhomedie (k q : Nat)
  | qprio (k q : Nat) | qlog2n (k q : Nat) | qridx (k q : Nat)
  | wqtbase (k : Nat) | savebase (k : Nat) | savesize (k : Nat) | ckptbase (k : Nat) | ckptsize (k : Nat)
  | stagebase (k pos : Nat) | spillbase (k pos : Nat) | poolqbase (k pos : Nat) | poolqlog2n (k pos : Nat)
  | sptbase (k : Nat) | ftbase (k : Nat) | fqbase (k : Nat) | fqlog2n (k : Nat) | fqenClear (k : Nat)
  | rqbase (k : Nat) | rqlog2n (k : Nat) | pools (k pos : Nat)
  | repout | elbase (d : Nat) | elen (d : Nat) | ellog2n (d : Nat) | elcons (d : Nat)
  | susthr (d : Nat) | strthr (d : Nat) | monFreeze (d m : Nat)
  | rootdev (k : Nat) | span (k : Nat) | devnum (k : Nat) | route (k n : Nat) | pwrcap
  | readOnly (offset : Nat)
  deriving DecidableEq, Repr

/-- One constructor per row of spec/opcode_table.json. The first carry the words of Tables 9.8 to 9.14; the
others are the steps of engines and of the outside, whose arguments say which unit acts and with what. -/
inductive Instr where
  | iadd (f : F3) (x : XM)
  | isub (f : F3) (x : XM)
  | imul (f : F3) (x : XM)
  | imulhi (f : F3) (x : XM)
  | imad (f : F3) (x : XM)
  | imin (f : F3) (x : XM)
  | imax (f : F3) (x : XM)
  | iaddc (f : F3) (x : XM)
  | and_ (f : F3)
  | or_ (f : F3)
  | xor_ (f : F3)
  | andn (f : F3)
  | shl (f : F3)
  | shr (f : F3)
  | sar (f : F3)
  | rotl (f : F3)
  | bfx (f : F3) (x : XM)
  | bfi (f : F3) (x : XM)
  | prmt (f : F3) (x : XM)
  | lea (f : F3) (x : XM)
  | icmp (f : F3) (x : XM)
  | sel (f : F3) (x : XM)
  | mov (f : F3)
  | hash32 (f : F3) (x : XM)
  | fadd (f : F3) (x : XM)
  | fsub (f : F3) (x : XM)
  | fmul (f : F3) (x : XM)
  | ffma (f : F3) (x : XM)
  | fmin (f : F3) (x : XM)
  | fmax (f : F3) (x : XM)
  | fcmp (f : F3) (x : XM)
  | fscale (f : F3) (x : XM)
  | padd (f : F3) (x : XM)
  | pmul (f : F3) (x : XM)
  | pfma (f : F3) (x : XM)
  | cvt (f : F3) (x : XM)
  | iabs (f : F3) (x : XM)
  | ineg (f : F3) (x : XM)
  | not_ (f : F3)
  | popc (f : F3)
  | clz (f : F3)
  | brev (f : F3)
  | fclass (f : F3) (x : XM)
  | frnd (f : F3) (x : XM)
  | frcp (f : F3) (x : XM)
  | frsq (f : F3) (x : XM)
  | fsqrt (f : F3) (x : XM)
  | fexp2 (f : F3) (x : XM)
  | flog2 (f : F3) (x : XM)
  | fsin (f : F3) (x : XM)
  | fcos (f : F3) (x : XM)
  | ftanh (f : F3) (x : XM)
  | movi (f : F2I)
  | qnt (f : F3) (x : XM)
  | dqnt (f : F3) (x : XM)
  | pack (f : F3) (x : XM)
  | unpk (f : F3) (x : XM)
  | shfl (f : F3) (x : XM)
  | bcast (f : F3) (x : XM)
  | vote (f : F3) (x : XM)
  | redadd (f : F3) (x : XM)
  | redmin (f : F3) (x : XM)
  | redmax (f : F3) (x : XM)
  | redmini (f : F3) (x : XM)
  | redmaxi (f : F3) (x : XM)
  | scan (f : F3) (x : XM)
  | match_ (f : F3) (x : XM)
  | iaddLiteral (f : F3) (x : XM) (l : Word)
  | isubLiteral (f : F3) (x : XM) (l : Word)
  | imulLiteral (f : F3) (x : XM) (l : Word)
  | imulhiLiteral (f : F3) (x : XM) (l : Word)
  | imadLiteral (f : F3) (x : XM) (l : Word)
  | iminLiteral (f : F3) (x : XM) (l : Word)
  | imaxLiteral (f : F3) (x : XM) (l : Word)
  | iaddcLiteral (f : F3) (x : XM) (l : Word)
  | andLiteral (f : F3) (l : Word)
  | orLiteral (f : F3) (l : Word)
  | xorLiteral (f : F3) (l : Word)
  | andnLiteral (f : F3) (l : Word)
  | shlLiteral (f : F3) (l : Word)
  | shrLiteral (f : F3) (l : Word)
  | sarLiteral (f : F3) (l : Word)
  | rotlLiteral (f : F3) (l : Word)
  | bfxLiteral (f : F3) (x : XM) (l : Word)
  | bfiLiteral (f : F3) (x : XM) (l : Word)
  | prmtLiteral (f : F3) (x : XM) (l : Word)
  | leaLiteral (f : F3) (x : XM) (l : Word)
  | icmpLiteral (f : F3) (x : XM) (l : Word)
  | selLiteral (f : F3) (x : XM) (l : Word)
  | movLiteral (f : F3) (l : Word)
  | hash32Literal (f : F3) (x : XM) (l : Word)
  | faddLiteral (f : F3) (x : XM) (l : Word)
  | fsubLiteral (f : F3) (x : XM) (l : Word)
  | fmulLiteral (f : F3) (x : XM) (l : Word)
  | ffmaLiteral (f : F3) (x : XM) (l : Word)
  | fminLiteral (f : F3) (x : XM) (l : Word)
  | fmaxLiteral (f : F3) (x : XM) (l : Word)
  | fcmpLiteral (f : F3) (x : XM) (l : Word)
  | fscaleLiteral (f : F3) (x : XM) (l : Word)
  | paddLiteral (f : F3) (x : XM) (l : Word)
  | pmulLiteral (f : F3) (x : XM) (l : Word)
  | pfmaLiteral (f : F3) (x : XM) (l : Word)
  | cvtLiteral (f : F3) (x : XM) (l : Word)
  | sadd (f : FS)
  | ssub (f : FS)
  | smul (f : FS)
  | sand (f : FS)
  | sor (f : FS)
  | sxor (f : FS)
  | sshl (f : FS)
  | sshr (f : FS)
  | ssar (f : FS)
  | smin (f : FS)
  | smax (f : FS)
  | scmp (f : FS)
  | ssel (f : FS)
  | smov (f : FS)
  | smovi (f : FS)
  | sld (f : FS)
  | readlane (f : FS)
  | sbcast (f : FS)
  | saddLiteral (f : FS) (l : Word)
  | ssubLiteral (f : FS) (l : Word)
  | smulLiteral (f : FS) (l : Word)
  | sandLiteral (f : FS) (l : Word)
  | sorLiteral (f : FS) (l : Word)
  | sxorLiteral (f : FS) (l : Word)
  | sshlLiteral (f : FS) (l : Word)
  | sshrLiteral (f : FS) (l : Word)
  | ssarLiteral (f : FS) (l : Word)
  | sminLiteral (f : FS) (l : Word)
  | smaxLiteral (f : FS) (l : Word)
  | scmpLiteral (f : FS) (l : Word)
  | sselLiteral (f : FS) (l : Word)
  | smovLiteral (f : FS) (l : Word)
  | bra (f : FB)
  | brp (f : FB)
  | call (f : FB)
  | jmpi (f : F3)
  | ret (f : F3)
  | exit (f : F3)
  | trap (f : F2I)
  | rconv (f : F3)
  | yield (f : F3)
  | nop (f : F3)
  | sleep (f : F3)
  | fork (f : F3) (x : XM)
  | join_ (f : F3)
  | spawn (f : F3) (x : XM)
  | ldPair (f : F3) (x : XM)
  | stPair (f : F3) (x : XM)
  | ldaPair (f : F3) (x : XM)
  | stlPair (f : F3) (x : XM)
  | atomPair (f : F3) (x : XM)
  | atomnPair (f : F3) (x : XM)
  | casPair (f : F3) (x : XM)
  | pref (f : F3) (x : XM)
  | ldLocal (f : F3) (x : XM)
  | stLocal (f : F3) (x : XM)
  | ldaLocal (f : F3) (x : XM)
  | stlLocal (f : F3) (x : XM)
  | atomLocal (f : F3) (x : XM)
  | atomnLocal (f : F3) (x : XM)
  | casLocal (f : F3) (x : XM)
  | publish (f : F3) (x : XM)
  | fence (f : F3) (x : XM)
  | fencex (f : F3) (x : XM)
  | rdenter (f : F3)
  | rdexit (f : F3)
  | retire (f : F3) (x : XM)
  | grace (f : F3)
  | append (f : F3) (x : XM)
  | acommit (f : F3) (x : XM)
  | ahead (f : F3) (x : XM)
  | bara (f : F2I)
  | barw (f : F2I)
  | bar (f : F2I)
  | wqpush (f : F3) (x : XM)
  | wqpop (f : F3) (x : XM)
  | chopenTx (f : F2I)
  | chopenRx (f : F2I)
  | chclose (f : F2I)
  | send (f : F2I)
  | recv (f : F2I)
  | chfence (f : F2I)
  | cpld (f : F3) (x : XM)
  | cpst (f : F3) (x : XM)
  | cpgather (f : F3) (x : XM)
  | cpscatter (f : F3) (x : XM)
  | cpfill (f : F3) (x : XM)
  | cppagein (f : F3) (x : XM)
  | cpstat (f : F3) (x : XM)
  | cphand (f : F3) (x : XM)
  | cpcancel (f : F3) (x : XM)
  | mclaim (f : FQ)
  | mrel (f : FQ)
  | mfill (f : FQ)
  | mfillArg (f : FQ)
  | mzero (f : FQ)
  | mdrain (f : FQ)
  | mwait (f : FQ)
  | mstat (f : FQ)
  | mscl (f : FQ)
  | mscacc (f : FQ)
  | mhad (f : FQ)
  | mmb (f : FQ)
  | mmaBf16 (f : FQ)
  | mmaF16 (f : FQ)
  | mmaI8 (f : FQ)
  | mmaP8 (f : FQ)
  | mmaE2m1 (f : FQ)
  | mmaMxp8 (f : FQ)
  | mmaMxe2m1 (f : FQ)
  | csrrd (f : F3) (x : XM)
  | csrwr (f : F3) (x : XM)
  | treturn (f : F3)
  | cycle (f : F3)
  | genq (f : F3)
  | dbgbrk (f : F2I)
  | ckpt (f : F3)
  | rollbk (f : F3)
  | sigrd (f : F3)
  | suspq (f : F3)
  | spstat (f : F3)
  | regacq (f : FS)
  | regrel (f : FS)
  | spbegin (f : FS)
  | spguess (f : FS)
  | spcmp (f : FS)
  | spend (f : FS)
  | powerOn (idOk bistOk : Bool) (bad : List (Nat × Nat × Nat))
  | registerWrite (r : Reg) (v : BitVec 64)
  | strikeReport (die : Nat) (pos : Nat × Nat) (residue : Bool)
  | replayRestore (launch : Nat)
  | rollbackSheadRestore (wg : Nat)
  | agedEntryToHead (core slot entry : Nat)
  | overflowRejoin (core slot : Nat)
  | faultRejoin (core slot : Nat)
  | workgroupAdmission (launch : Nat) (cores : List Nat)
  | regacqGrant (core quad : Nat)
  | poolRootPush (launch : Nat)
  | poolWarpForm (core bin : Nat)
  | sequencerProgramStart (cluster : Nat)
  | translationWalkDone (core walk : Nat)
  | remoteWindowAccess (req : Nat)
  | homeSliceServe (req : Nat)
  | brineEntryLeave (wg : Nat) (q : BrineQ)
  | writeAck (msg : Nat)
  | loadResponse (msg : Nat)
  | errorCompletion (msg : Nat)
  | requestTimeoutExpiry (req : Nat)
  | inboundAccess (a : InboundAccess)
  | inboundPeerAccess (dev exp : Nat) (key : BitVec 16) (initiator : Nat) (a : InboundAccess)
  | channelDelivery (req : Nat)
  | copyCommandComplete (core cmd : Nat)
  | pageInComplete (dev page : Nat)
  | copyAsideComplete (dev page : Nat)
  | arrayOpStart (cluster : Nat)
  | gracePeriodStart (dev : Nat)
  | flipAdopt (core : Nat)
  | flipAck (node : VNode) (child : Nat)
  | drainPoll (node : VNode)
  | gracePeriodComplete (dev : Nat)
  | retireEntryAppend (req : Nat)
  | retireAction (dev : Nat)
  | tagSweep (core : Nat)
  | generationRenewal (core : Nat) (a : AllocId)
  | debugHalt (core slot : Nat)
  | debugResume (core slot : Nat)
  | debugRelease (core slot : Nat)
  | debugRead (core : Nat) (u : DbgUnit) (dst : Nat)
  | debugWrite (core : Nat) (u : DbgUnit) (data : List (Nat × BitVec 32)) (tag : Option (BitVec 16))
  | checkpointTake (wg : Nat)
  | checkpointTaken (wg : Nat)
  | checkpointDeltaAck (wg : Nat)
  | checkpointCommit (wg : Nat)
  | checkpointIntervalExpiry (wg : Nat)
  | externalOpIssue (wg : Nat)
  | twinVote (wg : Nat)
  | thirdCopyStart (wg core : Nat)
  | preempt (wg : Nat)
  | contextSave (wg : Nat)
  | contextRestore (wg core : Nat)
  | launchComplete (launch : Nat)
  | sleepExpiry (core slot : Nat)
  | meshArbitration (die x y out : Nat)
  | packetUrgent (die x y input vc : Nat)
  | pmodeModeWrite (mode : BitVec 2)
  | modeChangeDone
  | pmodeRefusedClear
  | clkptWrite (dev : Nat) (v : BitVec 3)
  | clockStretchDone (dev : Nat)
  | hcshareWrite (dev : Nat) (v : BitVec 2)
  | cxlPortEnable (port : Nat)
  | cxlPortDisable (port : Nat)
  | cxlTrainingDone (port : Nat) (type3 : Bool) (cap : Nat)
  | expWrite (dev exp : Nat) (v : BitVec 128)
  | pwinWrite (dev win : Nat) (v : BitVec 128)
  | queueEnable (dev q : Nat)
  | queueDisable (dev q : Nat)
  | queueKick (dev q : Nat) (v : BitVec 64)
  | packetFetch (dev q : Nat)
  | launchPacket (dev q : Nat)
  | waitPacket (dev q : Nat)
  | waitConditionMet (dev q : Nat)
  | signalPacket (dev q : Nat)
  | writeThenSignalPacket (dev q : Nat)
  | copyPacket (dev q : Nat)
  | handoverPacket (dev q : Nat)
  | fencePacket (dev q : Nat)
  | dawnPacket (dev q : Nat)
  | dawnRequest (dev : Nat) (addr : BitVec 64)
  | launchAbort (dev : Nat) (id : BitVec 32)
  | sliceExpiry (dev q : Nat)
  | stealRequest (thief dev q : Nat)
  | queueOwnershipPass (dev q : Nat)
  | queueReturnHome (dev q : Nat)
  | mailboxMessage (die : Nat) (msg : BitVec 128)
  | invalPage (dev : Nat) (va : BitVec 64) (space : BitVec 16) (size : BitVec 2)
  | invalSpace (dev : Nat) (space : BitVec 16)
  | invalAll (dev : Nat)
  | invalComplete (dev : Nat)
  | resolveResolved (dev : Nat) (va : BitVec 64) (space : BitVec 16)
  | resolveUnresolvable (dev : Nat) (va : BitVec 64) (space : BitVec 16)
  | faultQueueConsume (dev : Nat) (v : BitVec 64)
  | faultQueueEnable (dev : Nat)
  | poolReturnPush (dev : Nat)
  | repairApply
  | repairApplyDone
  | rasRefusedClear
  | imageLoad (addr : BitVec 64) (readable : Bool)
  | attestationRequest (addr : BitVec 64)
  | quoteWrite
  | attdropClear
  | pendretSet (die core : Nat)
  | monitorSample (die mon v : Nat)
  | monitorClear (die mon : Nat)
  | monitorConfigure (die mon : Nat) (qty : BitVec 4) (src : BitVec 10)
  | podReplay (dev : Nat) (id : BitVec 32)
  | podmemWrite (dev : Nat) (v : BitVec 1024)
  | peerLinkEnable (link : Nat)
  | peerLinkTrained (link peer : Nat)
  | heartbeatSend (die : Nat)
  | heartbeatTimeout (link : Nat)
  | powerControlTick (pwr : BitVec 16) (temps : List Nat)
  | thermalStop (die temp : Nat)
  | thermalRestart (die temp : Nat)
  | matrixOperationComplete (cluster : Nat)
  | heartbeatReceive (link : Nat)
  | peerLinkDisable (link : Nat)
  | peerTrafficRelay (dev link dest : Nat) (data : List (BitVec 8))
  deriving DecidableEq, Repr

end Sys2Proof
end

