-- ==== Sys2Proof/Machine/Shape.lean ====
section
/-! DEFINITION. What the fields of a word are for: the role each register field has (Tables 9.4, 12.1, 13.1), where
the word stands in the opcode maps (Tables 9.8 to 9.14), and which field values its description allows (R184 to R189,
R200, R254, R279, R299, R311). Well-formedness, the register-block and stale checks and the interlock all read it. -/

namespace Sys2Proof.Machine

/-- The role of a 7-bit register field (R185, R186, R203, R255, R280). `none` is a field the instruction does not
use, which is written zero and names no register. -/
inductive Role where
  | none | src | dst | psrc | pdst | qsrc | qdst | pred | block
  deriving DecidableEq, Repr

/-- The roles of d, a, b and XM c. -/
structure Roles where
  d : Role
  a : Role
  b : Role
  c : Role
  deriving DecidableEq, Repr

/-- No register field at all. -/
def noRoles : Roles := ⟨.none, .none, .none, .none⟩

/-- The fields of a word, by format, with its extension words (Table 9.2). -/
inductive Fields where
  | f3 (f : F3) | f3x (f : F3) (x : XM) | f3l (f : F3) (l : Word) | f3xl (f : F3) (x : XM) (l : Word)
  | f2i (f : F2I) | fs (f : FS) | fsl (f : FS) (l : Word) | fb (f : FB) | fq (f : FQ)
  deriving DecidableEq, Repr

/-- Where an instruction stands: a page and opcode with its fields, or an event that no word encodes. -/
inductive View where
  | word (page op : Nat) (fields : Fields)
  | event
  deriving DecidableEq, Repr

/-- The opcode maps (Tables 9.8 to 9.14). -/
def view : Instr → View
  | .iadd f x => .word 0 0x0 (.f3x f x)
  | .isub f x => .word 0 0x1 (.f3x f x)
  | .imul f x => .word 0 0x2 (.f3x f x)
  | .imulhi f x => .word 0 0x3 (.f3x f x)
  | .imad f x => .word 0 0x4 (.f3x f x)
  | .imin f x => .word 0 0x5 (.f3x f x)
  | .imax f x => .word 0 0x6 (.f3x f x)
  | .iaddc f x => .word 0 0x7 (.f3x f x)
  | .and_ f => .word 0 0x8 (.f3 f)
  | .or_ f => .word 0 0x9 (.f3 f)
  | .xor_ f => .word 0 0xa (.f3 f)
  | .andn f => .word 0 0xb (.f3 f)
  | .shl f => .word 0 0xc (.f3 f)
  | .shr f => .word 0 0xd (.f3 f)
  | .sar f => .word 0 0xe (.f3 f)
  | .rotl f => .word 0 0xf (.f3 f)
  | .bfx f x => .word 0 0x10 (.f3x f x)
  | .bfi f x => .word 0 0x11 (.f3x f x)
  | .prmt f x => .word 0 0x12 (.f3x f x)
  | .lea f x => .word 0 0x13 (.f3x f x)
  | .icmp f x => .word 0 0x14 (.f3x f x)
  | .sel f x => .word 0 0x15 (.f3x f x)
  | .mov f => .word 0 0x16 (.f3 f)
  | .hash32 f x => .word 0 0x17 (.f3x f x)
  | .fadd f x => .word 0 0x18 (.f3x f x)
  | .fsub f x => .word 0 0x19 (.f3x f x)
  | .fmul f x => .word 0 0x1a (.f3x f x)
  | .ffma f x => .word 0 0x1b (.f3x f x)
  | .fmin f x => .word 0 0x1c (.f3x f x)
  | .fmax f x => .word 0 0x1d (.f3x f x)
  | .fcmp f x => .word 0 0x1e (.f3x f x)
  | .fscale f x => .word 0 0x1f (.f3x f x)
  | .padd f x => .word 0 0x20 (.f3x f x)
  | .pmul f x => .word 0 0x21 (.f3x f x)
  | .pfma f x => .word 0 0x22 (.f3x f x)
  | .cvt f x => .word 0 0x23 (.f3x f x)
  | .iabs f x => .word 0 0x30 (.f3x f x)
  | .ineg f x => .word 0 0x31 (.f3x f x)
  | .not_ f => .word 0 0x32 (.f3 f)
  | .popc f => .word 0 0x33 (.f3 f)
  | .clz f => .word 0 0x34 (.f3 f)
  | .brev f => .word 0 0x35 (.f3 f)
  | .fclass f x => .word 0 0x36 (.f3x f x)
  | .frnd f x => .word 0 0x37 (.f3x f x)
  | .frcp f x => .word 0 0x38 (.f3x f x)
  | .frsq f x => .word 0 0x39 (.f3x f x)
  | .fsqrt f x => .word 0 0x3a (.f3x f x)
  | .fexp2 f x => .word 0 0x3b (.f3x f x)
  | .flog2 f x => .word 0 0x3c (.f3x f x)
  | .fsin f x => .word 0 0x3d (.f3x f x)
  | .fcos f x => .word 0 0x3e (.f3x f x)
  | .ftanh f x => .word 0 0x3f (.f3x f x)
  | .movi f => .word 0 0x70 (.f2i f)
  | .qnt f x => .word 0 0x71 (.f3x f x)
  | .dqnt f x => .word 0 0x72 (.f3x f x)
  | .pack f x => .word 0 0x73 (.f3x f x)
  | .unpk f x => .word 0 0x74 (.f3x f x)
  | .shfl f x => .word 0 0x75 (.f3x f x)
  | .bcast f x => .word 0 0x76 (.f3x f x)
  | .vote f x => .word 0 0x77 (.f3x f x)
  | .redadd f x => .word 0 0x78 (.f3x f x)
  | .redmin f x => .word 0 0x79 (.f3x f x)
  | .redmax f x => .word 0 0x7a (.f3x f x)
  | .redmini f x => .word 0 0x7b (.f3x f x)
  | .redmaxi f x => .word 0 0x7c (.f3x f x)
  | .scan f x => .word 0 0x7d (.f3x f x)
  | .match_ f x => .word 0 0x7e (.f3x f x)
  | .iaddLiteral f x l => .word 0 0x40 (.f3xl f x l)
  | .isubLiteral f x l => .word 0 0x41 (.f3xl f x l)
  | .imulLiteral f x l => .word 0 0x42 (.f3xl f x l)
  | .imulhiLiteral f x l => .word 0 0x43 (.f3xl f x l)
  | .imadLiteral f x l => .word 0 0x44 (.f3xl f x l)
  | .iminLiteral f x l => .word 0 0x45 (.f3xl f x l)
  | .imaxLiteral f x l => .word 0 0x46 (.f3xl f x l)
  | .iaddcLiteral f x l => .word 0 0x47 (.f3xl f x l)
  | .andLiteral f l => .word 0 0x48 (.f3l f l)
  | .orLiteral f l => .word 0 0x49 (.f3l f l)
  | .xorLiteral f l => .word 0 0x4a (.f3l f l)
  | .andnLiteral f l => .word 0 0x4b (.f3l f l)
  | .shlLiteral f l => .word 0 0x4c (.f3l f l)
  | .shrLiteral f l => .word 0 0x4d (.f3l f l)
  | .sarLiteral f l => .word 0 0x4e (.f3l f l)
  | .rotlLiteral f l => .word 0 0x4f (.f3l f l)
  | .bfxLiteral f x l => .word 0 0x50 (.f3xl f x l)
  | .bfiLiteral f x l => .word 0 0x51 (.f3xl f x l)
  | .prmtLiteral f x l => .word 0 0x52 (.f3xl f x l)
  | .leaLiteral f x l => .word 0 0x53 (.f3xl f x l)
  | .icmpLiteral f x l => .word 0 0x54 (.f3xl f x l)
  | .selLiteral f x l => .word 0 0x55 (.f3xl f x l)
  | .movLiteral f l => .word 0 0x56 (.f3l f l)
  | .hash32Literal f x l => .word 0 0x57 (.f3xl f x l)
  | .faddLiteral f x l => .word 0 0x58 (.f3xl f x l)
  | .fsubLiteral f x l => .word 0 0x59 (.f3xl f x l)
  | .fmulLiteral f x l => .word 0 0x5a (.f3xl f x l)
  | .ffmaLiteral f x l => .word 0 0x5b (.f3xl f x l)
  | .fminLiteral f x l => .word 0 0x5c (.f3xl f x l)
  | .fmaxLiteral f x l => .word 0 0x5d (.f3xl f x l)
  | .fcmpLiteral f x l => .word 0 0x5e (.f3xl f x l)
  | .fscaleLiteral f x l => .word 0 0x5f (.f3xl f x l)
  | .paddLiteral f x l => .word 0 0x60 (.f3xl f x l)
  | .pmulLiteral f x l => .word 0 0x61 (.f3xl f x l)
  | .pfmaLiteral f x l => .word 0 0x62 (.f3xl f x l)
  | .cvtLiteral f x l => .word 0 0x63 (.f3xl f x l)
  | .sadd f => .word 1 0x0 (.fs f)
  | .ssub f => .word 1 0x1 (.fs f)
  | .smul f => .word 1 0x2 (.fs f)
  | .sand f => .word 1 0x3 (.fs f)
  | .sor f => .word 1 0x4 (.fs f)
  | .sxor f => .word 1 0x5 (.fs f)
  | .sshl f => .word 1 0x6 (.fs f)
  | .sshr f => .word 1 0x7 (.fs f)
  | .ssar f => .word 1 0x8 (.fs f)
  | .smin f => .word 1 0x9 (.fs f)
  | .smax f => .word 1 0xa (.fs f)
  | .scmp f => .word 1 0xb (.fs f)
  | .ssel f => .word 1 0xc (.fs f)
  | .smov f => .word 1 0xd (.fs f)
  | .smovi f => .word 1 0xe (.fs f)
  | .sld f => .word 1 0xf (.fs f)
  | .readlane f => .word 1 0x10 (.fs f)
  | .sbcast f => .word 1 0x11 (.fs f)
  | .saddLiteral f l => .word 1 0x40 (.fsl f l)
  | .ssubLiteral f l => .word 1 0x41 (.fsl f l)
  | .smulLiteral f l => .word 1 0x42 (.fsl f l)
  | .sandLiteral f l => .word 1 0x43 (.fsl f l)
  | .sorLiteral f l => .word 1 0x44 (.fsl f l)
  | .sxorLiteral f l => .word 1 0x45 (.fsl f l)
  | .sshlLiteral f l => .word 1 0x46 (.fsl f l)
  | .sshrLiteral f l => .word 1 0x47 (.fsl f l)
  | .ssarLiteral f l => .word 1 0x48 (.fsl f l)
  | .sminLiteral f l => .word 1 0x49 (.fsl f l)
  | .smaxLiteral f l => .word 1 0x4a (.fsl f l)
  | .scmpLiteral f l => .word 1 0x4b (.fsl f l)
  | .sselLiteral f l => .word 1 0x4c (.fsl f l)
  | .smovLiteral f l => .word 1 0x4d (.fsl f l)
  | .bra f => .word 2 0x0 (.fb f)
  | .brp f => .word 2 0x1 (.fb f)
  | .call f => .word 2 0x2 (.fb f)
  | .jmpi f => .word 2 0x3 (.f3 f)
  | .ret f => .word 2 0x4 (.f3 f)
  | .exit f => .word 2 0x5 (.f3 f)
  | .trap f => .word 2 0x6 (.f2i f)
  | .rconv f => .word 2 0x7 (.f3 f)
  | .yield f => .word 2 0x8 (.f3 f)
  | .nop f => .word 2 0x9 (.f3 f)
  | .sleep f => .word 2 0xa (.f3 f)
  | .fork f x => .word 2 0xb (.f3x f x)
  | .join_ f => .word 2 0xc (.f3 f)
  | .spawn f x => .word 2 0xd (.f3x f x)
  | .ldPair f x => .word 3 0x0 (.f3x f x)
  | .stPair f x => .word 3 0x1 (.f3x f x)
  | .ldaPair f x => .word 3 0x2 (.f3x f x)
  | .stlPair f x => .word 3 0x3 (.f3x f x)
  | .atomPair f x => .word 3 0x4 (.f3x f x)
  | .atomnPair f x => .word 3 0x5 (.f3x f x)
  | .casPair f x => .word 3 0x6 (.f3x f x)
  | .pref f x => .word 3 0x7 (.f3x f x)
  | .ldLocal f x => .word 3 0x8 (.f3x f x)
  | .stLocal f x => .word 3 0x9 (.f3x f x)
  | .ldaLocal f x => .word 3 0xa (.f3x f x)
  | .stlLocal f x => .word 3 0xb (.f3x f x)
  | .atomLocal f x => .word 3 0xc (.f3x f x)
  | .atomnLocal f x => .word 3 0xd (.f3x f x)
  | .casLocal f x => .word 3 0xe (.f3x f x)
  | .publish f x => .word 3 0x10 (.f3x f x)
  | .fence f x => .word 3 0x11 (.f3x f x)
  | .fencex f x => .word 3 0x12 (.f3x f x)
  | .rdenter f => .word 3 0x13 (.f3 f)
  | .rdexit f => .word 3 0x14 (.f3 f)
  | .retire f x => .word 3 0x15 (.f3x f x)
  | .grace f => .word 3 0x16 (.f3 f)
  | .append f x => .word 3 0x17 (.f3x f x)
  | .acommit f x => .word 3 0x18 (.f3x f x)
  | .ahead f x => .word 3 0x19 (.f3x f x)
  | .bara f => .word 3 0x1a (.f2i f)
  | .barw f => .word 3 0x1b (.f2i f)
  | .bar f => .word 3 0x1c (.f2i f)
  | .wqpush f x => .word 3 0x1d (.f3x f x)
  | .wqpop f x => .word 3 0x1e (.f3x f x)
  | .chopenTx f => .word 3 0x20 (.f2i f)
  | .chopenRx f => .word 3 0x20 (.f2i f)
  | .chclose f => .word 3 0x21 (.f2i f)
  | .send f => .word 3 0x22 (.f2i f)
  | .recv f => .word 3 0x23 (.f2i f)
  | .chfence f => .word 3 0x24 (.f2i f)
  | .cpld f x => .word 4 0x0 (.f3x f x)
  | .cpst f x => .word 4 0x1 (.f3x f x)
  | .cpgather f x => .word 4 0x2 (.f3x f x)
  | .cpscatter f x => .word 4 0x3 (.f3x f x)
  | .cpfill f x => .word 4 0x4 (.f3x f x)
  | .cppagein f x => .word 4 0x5 (.f3x f x)
  | .cpstat f x => .word 4 0x6 (.f3x f x)
  | .cphand f x => .word 4 0x7 (.f3x f x)
  | .cpcancel f x => .word 4 0x8 (.f3x f x)
  | .mclaim f => .word 5 0x0 (.fq f)
  | .mrel f => .word 5 0x1 (.fq f)
  | .mfill f => .word 5 0x2 (.fq f)
  | .mfillArg f => .word 5 0x2 (.fq f)
  | .mzero f => .word 5 0x3 (.fq f)
  | .mdrain f => .word 5 0x4 (.fq f)
  | .mwait f => .word 5 0x5 (.fq f)
  | .mstat f => .word 5 0x6 (.fq f)
  | .mscl f => .word 5 0x7 (.fq f)
  | .mscacc f => .word 5 0x8 (.fq f)
  | .mhad f => .word 5 0x9 (.fq f)
  | .mmb f => .word 5 0xa (.fq f)
  | .mmaBf16 f => .word 5 0x10 (.fq f)
  | .mmaF16 f => .word 5 0x11 (.fq f)
  | .mmaI8 f => .word 5 0x12 (.fq f)
  | .mmaP8 f => .word 5 0x13 (.fq f)
  | .mmaE2m1 f => .word 5 0x14 (.fq f)
  | .mmaMxp8 f => .word 5 0x15 (.fq f)
  | .mmaMxe2m1 f => .word 5 0x16 (.fq f)
  | .csrrd f x => .word 6 0x0 (.f3x f x)
  | .csrwr f x => .word 6 0x1 (.f3x f x)
  | .treturn f => .word 6 0x2 (.f3 f)
  | .cycle f => .word 6 0x3 (.f3 f)
  | .genq f => .word 6 0x4 (.f3 f)
  | .dbgbrk f => .word 6 0x5 (.f2i f)
  | .ckpt f => .word 6 0x6 (.f3 f)
  | .rollbk f => .word 6 0x7 (.f3 f)
  | .sigrd f => .word 6 0x8 (.f3 f)
  | .suspq f => .word 6 0x9 (.f3 f)
  | .spstat f => .word 6 0xa (.f3 f)
  | .regacq f => .word 6 0x10 (.fs f)
  | .regrel f => .word 6 0x11 (.fs f)
  | .spbegin f => .word 6 0x12 (.fs f)
  | .spguess f => .word 6 0x13 (.fs f)
  | .spcmp f => .word 6 0x14 (.fs f)
  | .spend f => .word 6 0x15 (.fs f)
  | .powerOn .. | .registerWrite .. | .strikeReport .. | .replayRestore .. | .rollbackSheadRestore .. |
    .agedEntryToHead .. | .overflowRejoin .. | .faultRejoin .. | .workgroupAdmission .. | .regacqGrant .. |
    .poolRootPush .. | .poolWarpForm .. | .sequencerProgramStart .. | .translationWalkDone .. |
    .remoteWindowAccess .. | .homeSliceServe .. | .brineEntryLeave .. | .writeAck .. | .loadResponse .. |
    .errorCompletion .. | .requestTimeoutExpiry .. | .inboundAccess .. | .inboundPeerAccess .. |
    .channelDelivery .. | .copyCommandComplete .. | .pageInComplete .. | .copyAsideComplete .. | .arrayOpStart
    .. | .gracePeriodStart .. | .flipAdopt .. | .flipAck .. | .drainPoll .. | .gracePeriodComplete .. |
    .retireEntryAppend .. | .retireAction .. | .tagSweep .. | .generationRenewal .. | .debugHalt .. |
    .debugResume .. | .debugRelease .. | .debugRead .. | .debugWrite .. | .checkpointTake .. |
    .checkpointTaken .. | .checkpointDeltaAck .. | .checkpointCommit .. | .checkpointIntervalExpiry .. |
    .externalOpIssue .. | .twinVote .. | .thirdCopyStart .. | .preempt .. | .contextSave .. | .contextRestore
    .. | .launchComplete .. | .sleepExpiry .. | .meshArbitration .. | .packetUrgent .. | .pmodeModeWrite .. |
    .modeChangeDone | .pmodeRefusedClear | .clkptWrite .. | .clockStretchDone .. | .hcshareWrite .. |
    .cxlPortEnable .. | .cxlPortDisable .. | .cxlTrainingDone .. | .expWrite .. | .pwinWrite .. | .queueEnable
    .. | .queueDisable .. | .queueKick .. | .packetFetch .. | .launchPacket .. | .waitPacket .. |
    .waitConditionMet .. | .signalPacket .. | .writeThenSignalPacket .. | .copyPacket .. | .handoverPacket ..
    | .fencePacket .. | .dawnPacket .. | .dawnRequest .. | .launchAbort .. | .sliceExpiry .. | .stealRequest
    .. | .queueOwnershipPass .. | .queueReturnHome .. | .mailboxMessage .. | .invalPage .. | .invalSpace .. |
    .invalAll .. | .invalComplete .. | .resolveResolved .. | .resolveUnresolvable .. | .faultQueueConsume .. |
    .faultQueueEnable .. | .poolReturnPush .. | .repairApply | .repairApplyDone | .rasRefusedClear |
    .imageLoad .. | .attestationRequest .. | .quoteWrite | .attdropClear | .pendretSet .. | .monitorSample ..
    | .monitorClear .. | .monitorConfigure .. | .podReplay .. | .podmemWrite .. | .peerLinkEnable .. |
    .peerLinkTrained .. | .heartbeatSend .. | .heartbeatTimeout .. | .powerControlTick .. | .thermalStop .. |
    .thermalRestart .. | .matrixOperationComplete .. | .heartbeatReceive .. | .peerLinkDisable .. |
    .peerTrafficRelay .. => .event

/-- The register group that carries data of an access size (Table 12.2), as a source. -/
def groupSrc (x : XM) : Role :=
  if x.size.toNat = 3 then .psrc else if x.size.toNat = 4 then .qsrc else .src

/-- The same as a destination. -/
def groupDst (x : XM) : Role :=
  if x.size.toNat = 3 then .pdst else if x.size.toNat = 4 then .qdst else .dst

/-- The role of each register field. -/
def roles : Instr → Roles
  | .iadd _ _ => ⟨.dst, .src, .src, .none⟩
  | .isub _ _ => ⟨.dst, .src, .src, .none⟩
  | .imul _ _ => ⟨.dst, .src, .src, .none⟩
  | .imulhi _ _ => ⟨.dst, .src, .src, .none⟩
  | .imad _ _ => ⟨.dst, .src, .src, .src⟩
  | .imin _ _ => ⟨.dst, .src, .src, .none⟩
  | .imax _ _ => ⟨.dst, .src, .src, .none⟩
  | .iaddc _ _ => ⟨.dst, .src, .src, .none⟩
  | .and_ _ => ⟨.dst, .src, .src, .none⟩
  | .or_ _ => ⟨.dst, .src, .src, .none⟩
  | .xor_ _ => ⟨.dst, .src, .src, .none⟩
  | .andn _ => ⟨.dst, .src, .src, .none⟩
  | .shl _ => ⟨.dst, .src, .src, .none⟩
  | .shr _ => ⟨.dst, .src, .src, .none⟩
  | .sar _ => ⟨.dst, .src, .src, .none⟩
  | .rotl _ => ⟨.dst, .src, .src, .none⟩
  | .bfx _ _ => ⟨.dst, .src, .src, .none⟩
  | .bfi _ _ => ⟨.dst, .src, .src, .src⟩
  | .prmt _ _ => ⟨.dst, .src, .src, .src⟩
  | .lea _ _ => ⟨.pdst, .psrc, .src, .none⟩
  | .icmp _ _ => ⟨.pred, .src, .src, .none⟩
  | .sel _ _ => ⟨.dst, .src, .src, .none⟩
  | .mov _ => ⟨.dst, .src, .none, .none⟩
  | .hash32 _ _ => ⟨.dst, .src, .src, .src⟩
  | .fadd _ _ => ⟨.dst, .src, .src, .none⟩
  | .fsub _ _ => ⟨.dst, .src, .src, .none⟩
  | .fmul _ _ => ⟨.dst, .src, .src, .none⟩
  | .ffma _ _ => ⟨.dst, .src, .src, .src⟩
  | .fmin _ _ => ⟨.dst, .src, .src, .none⟩
  | .fmax _ _ => ⟨.dst, .src, .src, .none⟩
  | .fcmp _ _ => ⟨.pred, .src, .src, .none⟩
  | .fscale _ _ => ⟨.dst, .src, .src, .none⟩
  | .padd _ _ => ⟨.dst, .src, .src, .none⟩
  | .pmul _ _ => ⟨.dst, .src, .src, .none⟩
  | .pfma _ _ => ⟨.dst, .src, .src, .src⟩
  | .cvt _ _ => ⟨.dst, .src, .none, .none⟩
  | .iabs _ _ => ⟨.dst, .src, .none, .none⟩
  | .ineg _ _ => ⟨.dst, .src, .none, .none⟩
  | .not_ _ => ⟨.dst, .src, .none, .none⟩
  | .popc _ => ⟨.dst, .src, .none, .none⟩
  | .clz _ => ⟨.dst, .src, .none, .none⟩
  | .brev _ => ⟨.dst, .src, .none, .none⟩
  | .fclass _ _ => ⟨.dst, .src, .none, .none⟩
  | .frnd _ _ => ⟨.dst, .src, .none, .none⟩
  | .frcp _ _ => ⟨.dst, .src, .none, .none⟩
  | .frsq _ _ => ⟨.dst, .src, .none, .none⟩
  | .fsqrt _ _ => ⟨.dst, .src, .none, .none⟩
  | .fexp2 _ _ => ⟨.dst, .src, .none, .none⟩
  | .flog2 _ _ => ⟨.dst, .src, .none, .none⟩
  | .fsin _ _ => ⟨.dst, .src, .none, .none⟩
  | .fcos _ _ => ⟨.dst, .src, .none, .none⟩
  | .ftanh _ _ => ⟨.dst, .src, .none, .none⟩
  | .movi _ => ⟨.dst, .none, .none, .none⟩
  | .qnt _ x => ⟨.dst, .src, (if x.off.toNat / 128 % 2 = 1 then .src else .none), (if x.round.toNat = 4 then .src else .none)⟩
  | .dqnt _ _ => ⟨.dst, .src, .src, .none⟩
  | .pack _ _ => ⟨.dst, .src, .none, .none⟩
  | .unpk _ _ => ⟨.dst, .src, .none, .none⟩
  | .shfl _ _ => ⟨.dst, .src, .src, .none⟩
  | .bcast _ _ => ⟨.dst, .src, .none, .none⟩
  | .vote _ x => ⟨(if x.off.toNat = 3 then .dst else .pred), .pred, .none, .none⟩
  | .redadd _ _ => ⟨.dst, .src, .none, .none⟩
  | .redmin _ _ => ⟨.dst, .src, .none, .none⟩
  | .redmax _ _ => ⟨.dst, .src, .none, .none⟩
  | .redmini _ _ => ⟨.pdst, .src, .src, .none⟩
  | .redmaxi _ _ => ⟨.pdst, .src, .src, .none⟩
  | .scan _ _ => ⟨.dst, .src, .none, .none⟩
  | .match_ _ _ => ⟨.dst, .src, .none, .none⟩
  | .iaddLiteral _ _ _ => ⟨.dst, .src, .src, .none⟩
  | .isubLiteral _ _ _ => ⟨.dst, .src, .src, .none⟩
  | .imulLiteral _ _ _ => ⟨.dst, .src, .src, .none⟩
  | .imulhiLiteral _ _ _ => ⟨.dst, .src, .src, .none⟩
  | .imadLiteral _ _ _ => ⟨.dst, .src, .src, .src⟩
  | .iminLiteral _ _ _ => ⟨.dst, .src, .src, .none⟩
  | .imaxLiteral _ _ _ => ⟨.dst, .src, .src, .none⟩
  | .iaddcLiteral _ _ _ => ⟨.dst, .src, .src, .none⟩
  | .andLiteral _ _ => ⟨.dst, .src, .src, .none⟩
  | .orLiteral _ _ => ⟨.dst, .src, .src, .none⟩
  | .xorLiteral _ _ => ⟨.dst, .src, .src, .none⟩
  | .andnLiteral _ _ => ⟨.dst, .src, .src, .none⟩
  | .shlLiteral _ _ => ⟨.dst, .src, .src, .none⟩
  | .shrLiteral _ _ => ⟨.dst, .src, .src, .none⟩
  | .sarLiteral _ _ => ⟨.dst, .src, .src, .none⟩
  | .rotlLiteral _ _ => ⟨.dst, .src, .src, .none⟩
  | .bfxLiteral _ _ _ => ⟨.dst, .src, .src, .none⟩
  | .bfiLiteral _ _ _ => ⟨.dst, .src, .src, .src⟩
  | .prmtLiteral _ _ _ => ⟨.dst, .src, .src, .src⟩
  | .leaLiteral _ _ _ => ⟨.pdst, .psrc, .src, .none⟩
  | .icmpLiteral _ _ _ => ⟨.pred, .src, .src, .none⟩
  | .selLiteral _ _ _ => ⟨.dst, .src, .src, .none⟩
  | .movLiteral _ _ => ⟨.dst, .src, .none, .none⟩
  | .hash32Literal _ _ _ => ⟨.dst, .src, .src, .src⟩
  | .faddLiteral _ _ _ => ⟨.dst, .src, .src, .none⟩
  | .fsubLiteral _ _ _ => ⟨.dst, .src, .src, .none⟩
  | .fmulLiteral _ _ _ => ⟨.dst, .src, .src, .none⟩
  | .ffmaLiteral _ _ _ => ⟨.dst, .src, .src, .src⟩
  | .fminLiteral _ _ _ => ⟨.dst, .src, .src, .none⟩
  | .fmaxLiteral _ _ _ => ⟨.dst, .src, .src, .none⟩
  | .fcmpLiteral _ _ _ => ⟨.pred, .src, .src, .none⟩
  | .fscaleLiteral _ _ _ => ⟨.dst, .src, .src, .none⟩
  | .paddLiteral _ _ _ => ⟨.dst, .src, .src, .none⟩
  | .pmulLiteral _ _ _ => ⟨.dst, .src, .src, .none⟩
  | .pfmaLiteral _ _ _ => ⟨.dst, .src, .src, .src⟩
  | .cvtLiteral _ _ _ => ⟨.dst, .src, .none, .none⟩
  | .sadd _ => noRoles
  | .ssub _ => noRoles
  | .smul _ => noRoles
  | .sand _ => noRoles
  | .sor _ => noRoles
  | .sxor _ => noRoles
  | .sshl _ => noRoles
  | .sshr _ => noRoles
  | .ssar _ => noRoles
  | .smin _ => noRoles
  | .smax _ => noRoles
  | .scmp _ => noRoles
  | .ssel _ => noRoles
  | .smov _ => noRoles
  | .smovi _ => noRoles
  | .sld _ => noRoles
  | .readlane _ => noRoles
  | .sbcast _ => noRoles
  | .saddLiteral _ _ => noRoles
  | .ssubLiteral _ _ => noRoles
  | .smulLiteral _ _ => noRoles
  | .sandLiteral _ _ => noRoles
  | .sorLiteral _ _ => noRoles
  | .sxorLiteral _ _ => noRoles
  | .sshlLiteral _ _ => noRoles
  | .sshrLiteral _ _ => noRoles
  | .ssarLiteral _ _ => noRoles
  | .sminLiteral _ _ => noRoles
  | .smaxLiteral _ _ => noRoles
  | .scmpLiteral _ _ => noRoles
  | .sselLiteral _ _ => noRoles
  | .smovLiteral _ _ => noRoles
  | .bra _ => noRoles
  | .brp _ => noRoles
  | .call _ => noRoles
  | .jmpi _ => ⟨.pdst, .psrc, .none, .none⟩
  | .ret _ => ⟨.none, .psrc, .none, .none⟩
  | .exit _ => ⟨.none, .none, .none, .none⟩
  | .trap _ => ⟨.none, .none, .none, .none⟩
  | .rconv _ => ⟨.none, .none, .none, .none⟩
  | .yield _ => ⟨.none, .none, .none, .none⟩
  | .nop _ => ⟨.none, .none, .none, .none⟩
  | .sleep _ => ⟨.none, .src, .none, .none⟩
  | .fork _ _ => ⟨.none, .psrc, .psrc, .src⟩
  | .join_ _ => ⟨.dst, .src, .none, .none⟩
  | .spawn _ _ => ⟨.none, .psrc, .psrc, .psrc⟩
  | .ldPair _ x => ⟨(groupDst x), .psrc, .none, .none⟩
  | .stPair _ x => ⟨.none, .psrc, (groupSrc x), .none⟩
  | .ldaPair _ x => ⟨(groupDst x), .psrc, .none, .none⟩
  | .stlPair _ x => ⟨.none, .psrc, (groupSrc x), .none⟩
  | .atomPair _ x => ⟨(groupDst x), .psrc, (groupSrc x), .none⟩
  | .atomnPair _ x => ⟨.none, .psrc, (groupSrc x), .none⟩
  | .casPair _ x => ⟨(groupDst x), .psrc, (groupSrc x), (groupSrc x)⟩
  | .pref _ _ => ⟨.none, .psrc, .none, .none⟩
  | .ldLocal _ x => ⟨(groupDst x), .src, .none, .none⟩
  | .stLocal _ x => ⟨.none, .src, (groupSrc x), .none⟩
  | .ldaLocal _ x => ⟨(groupDst x), .src, .none, .none⟩
  | .stlLocal _ x => ⟨.none, .src, (groupSrc x), .none⟩
  | .atomLocal _ x => ⟨(groupDst x), .src, (groupSrc x), .none⟩
  | .atomnLocal _ x => ⟨.none, .src, (groupSrc x), .none⟩
  | .casLocal _ x => ⟨(groupDst x), .src, (groupSrc x), (groupSrc x)⟩
  | .publish _ _ => ⟨.none, .psrc, .psrc, .none⟩
  | .fence _ _ => ⟨.none, .none, .none, .none⟩
  | .fencex _ _ => ⟨.none, .none, .none, .none⟩
  | .rdenter _ => ⟨.none, .none, .none, .none⟩
  | .rdexit _ => ⟨.none, .none, .none, .none⟩
  | .retire _ _ => ⟨.dst, .psrc, .psrc, .src⟩
  | .grace _ => ⟨.none, .none, .none, .none⟩
  | .append _ x => ⟨.pdst, .psrc, (groupSrc x), .none⟩
  | .acommit _ _ => ⟨.none, .psrc, .psrc, .none⟩
  | .ahead _ _ => ⟨.pdst, .psrc, .none, .none⟩
  | .bara _ => ⟨.dst, .src, .none, .none⟩
  | .barw _ => ⟨.none, .src, .none, .none⟩
  | .bar _ => ⟨.none, .src, .none, .none⟩
  | .wqpush _ _ => ⟨.none, .src, .qsrc, .none⟩
  | .wqpop _ _ => ⟨.qdst, .src, .none, .none⟩
  | .chopenTx _ => ⟨.none, .psrc, .none, .none⟩
  | .chopenRx _ => ⟨.none, .psrc, .none, .none⟩
  | .chclose _ => ⟨.none, .none, .none, .none⟩
  | .send _ => ⟨.none, .src, .none, .none⟩
  | .recv _ => ⟨.dst, .none, .none, .none⟩
  | .chfence _ => ⟨.none, .none, .none, .none⟩
  | .cpld _ _ => ⟨.none, .psrc, .block, .none⟩
  | .cpst _ _ => ⟨.none, .psrc, .block, .none⟩
  | .cpgather _ _ => ⟨.none, .psrc, .block, .src⟩
  | .cpscatter _ _ => ⟨.none, .psrc, .block, .src⟩
  | .cpfill _ _ => ⟨.none, .psrc, .block, .none⟩
  | .cppagein _ _ => ⟨.none, .psrc, .none, .none⟩
  | .cpstat _ _ => ⟨.pdst, .none, .none, .none⟩
  | .cphand _ _ => ⟨.none, .psrc, .src, .src⟩
  | .cpcancel _ _ => ⟨.none, .none, .none, .none⟩
  | .mclaim _ => noRoles
  | .mrel _ => noRoles
  | .mfill _ => noRoles
  | .mfillArg _ => noRoles
  | .mzero _ => noRoles
  | .mdrain _ => noRoles
  | .mwait _ => noRoles
  | .mstat _ => noRoles
  | .mscl _ => noRoles
  | .mscacc _ => noRoles
  | .mhad _ => noRoles
  | .mmb _ => noRoles
  | .mmaBf16 _ => noRoles
  | .mmaF16 _ => noRoles
  | .mmaI8 _ => noRoles
  | .mmaP8 _ => noRoles
  | .mmaE2m1 _ => noRoles
  | .mmaMxp8 _ => noRoles
  | .mmaMxe2m1 _ => noRoles
  | .csrrd _ _ => ⟨.dst, .none, .none, .none⟩
  | .csrwr _ _ => ⟨.none, .src, .none, .none⟩
  | .treturn _ => ⟨.none, .none, .none, .none⟩
  | .cycle _ => ⟨.pdst, .none, .none, .none⟩
  | .genq _ => ⟨.pdst, .none, .none, .none⟩
  | .dbgbrk _ => ⟨.none, .none, .none, .none⟩
  | .ckpt _ => ⟨.none, .none, .none, .none⟩
  | .rollbk _ => ⟨.none, .none, .none, .none⟩
  | .sigrd _ => ⟨.pdst, .none, .none, .none⟩
  | .suspq _ => ⟨.dst, .none, .none, .none⟩
  | .spstat _ => ⟨.dst, .none, .none, .none⟩
  | .regacq _ => noRoles
  | .regrel _ => noRoles
  | .spbegin _ => noRoles
  | .spguess _ => noRoles
  | .spcmp _ => noRoles
  | .spend _ => noRoles
  | .powerOn .. | .registerWrite .. | .strikeReport .. | .replayRestore .. | .rollbackSheadRestore .. |
    .agedEntryToHead .. | .overflowRejoin .. | .faultRejoin .. | .workgroupAdmission .. | .regacqGrant .. |
    .poolRootPush .. | .poolWarpForm .. | .sequencerProgramStart .. | .translationWalkDone .. |
    .remoteWindowAccess .. | .homeSliceServe .. | .brineEntryLeave .. | .writeAck .. | .loadResponse .. |
    .errorCompletion .. | .requestTimeoutExpiry .. | .inboundAccess .. | .inboundPeerAccess .. |
    .channelDelivery .. | .copyCommandComplete .. | .pageInComplete .. | .copyAsideComplete .. | .arrayOpStart
    .. | .gracePeriodStart .. | .flipAdopt .. | .flipAck .. | .drainPoll .. | .gracePeriodComplete .. |
    .retireEntryAppend .. | .retireAction .. | .tagSweep .. | .generationRenewal .. | .debugHalt .. |
    .debugResume .. | .debugRelease .. | .debugRead .. | .debugWrite .. | .checkpointTake .. |
    .checkpointTaken .. | .checkpointDeltaAck .. | .checkpointCommit .. | .checkpointIntervalExpiry .. |
    .externalOpIssue .. | .twinVote .. | .thirdCopyStart .. | .preempt .. | .contextSave .. | .contextRestore
    .. | .launchComplete .. | .sleepExpiry .. | .meshArbitration .. | .packetUrgent .. | .pmodeModeWrite .. |
    .modeChangeDone | .pmodeRefusedClear | .clkptWrite .. | .clockStretchDone .. | .hcshareWrite .. |
    .cxlPortEnable .. | .cxlPortDisable .. | .cxlTrainingDone .. | .expWrite .. | .pwinWrite .. | .queueEnable
    .. | .queueDisable .. | .queueKick .. | .packetFetch .. | .launchPacket .. | .waitPacket .. |
    .waitConditionMet .. | .signalPacket .. | .writeThenSignalPacket .. | .copyPacket .. | .handoverPacket ..
    | .fencePacket .. | .dawnPacket .. | .dawnRequest .. | .launchAbort .. | .sliceExpiry .. | .stealRequest
    .. | .queueOwnershipPass .. | .queueReturnHome .. | .mailboxMessage .. | .invalPage .. | .invalSpace .. |
    .invalAll .. | .invalComplete .. | .resolveResolved .. | .resolveUnresolvable .. | .faultQueueConsume .. |
    .faultQueueEnable .. | .poolReturnPush .. | .repairApply | .repairApplyDone | .rasRefusedClear |
    .imageLoad .. | .attestationRequest .. | .quoteWrite | .attdropClear | .pendretSet .. | .monitorSample ..
    | .monitorClear .. | .monitorConfigure .. | .podReplay .. | .podmemWrite .. | .peerLinkEnable .. |
    .peerLinkTrained .. | .heartbeatSend .. | .heartbeatTimeout .. | .powerControlTick .. | .thermalStop .. |
    .thermalRestart .. | .matrixOperationComplete .. | .heartbeatReceive .. | .peerLinkDisable .. |
    .peerTrafficRelay .. => noRoles

/-- A source field (Table 9.4); the literal value only in a literal form (R188). -/
def srcField (lit : Bool) (n : BitVec 7) : Bool := decide (n.toNat ≤ 0x7D) || (lit && decide (n.toNat = 0x7F))

/-- A destination field (Table 9.4). -/
def dstField (n : BitVec 7) : Bool := decide (n.toNat < 0x60) || decide (n.toNat = 0x78)

/-- A field value is legal for its role (R184 to R186, R203, R255, R280). -/
def roleOk (lit : Bool) (r : Role) (n : BitVec 7) : Bool :=
  match r with
  | .none => decide (n = 0)
  | .src => srcField lit n
  | .dst => dstField n
  | .psrc => (decide (n.toNat < 0x78) && decide (n.toNat % 2 = 0)) || decide (n.toNat = 0x78)
  | .pdst => (decide (n.toNat < 0x60) && decide (n.toNat % 2 = 0)) || decide (n.toNat = 0x78)
  | .qsrc | .qdst => (decide (n.toNat < 0x60) && decide (n.toNat % 4 = 0)) || decide (n.toNat = 0x78)
  | .pred => decide (n.toNat < 8)
  | .block => decide (n.toNat < 0x78) && decide (n.toNat % 8 = 0)

/-- The guard predicate may be p0 to p7, but not the negation of p7 (R189). -/
def guardOk (pr : BitVec 3) (pn : BitVec 1) : Bool := !(decide (pr = 7) && decide (pn = 1))

/-- A 5-bit scalar destination of a warp stream (Table 9.5). -/
def sdst (n : BitVec 5) : Bool := decide (n.toNat ≤ 24)

/-- A 5-bit scalar source of a warp stream (Table 9.5). -/
def ssrc (lit : Bool) (n : BitVec 5) : Bool := decide (n.toNat ≤ 27) || (lit && decide (n.toNat = 31))

/-- A literal form of a scalar word holds the literal value in a or b (R188). -/
def litUsed (f : FS) : Bool := decide (f.a.toNat = 31) || decide (f.b.toNat = 31)

/-- The vector field imm10[6:0] of READLANE and SBCAST (R234). -/
def vecField (f : FS) : BitVec 7 := f.imm.setWidth 7

/-- off15 has no bit at or above `n`. -/
def offHi (x : XM) (n : Nat) : Bool := decide (x.off.toNat < 2 ^ n)
/-- The integer class of Table 10.1. -/
def intTy (x : XM) : Bool := decide (x.size.toNat ≤ 5)
/-- The float class of Table 10.1. -/
def floatTy (x : XM) : Bool := decide (x.size.toNat ≤ 2)
/-- The packed class of Table 10.1. -/
def packedTy (x : XM) : Bool := decide (x.size.toNat = 1 ∨ x.size.toNat = 2)
/-- The reduction class of Table 10.1. -/
def redTy (x : XM) : Bool := decide (x.size.toNat ≤ 2)
/-- Rounding codes 0 to 3 (Table 8.6). -/
def round4 (x : XM) : Bool := decide (x.round.toNat ≤ 3)
/-- The round field of a reduction: 0 unless the type is f32 (R227). -/
def redRound (x : XM) : Bool := if x.size.toNat = 2 then round4 x else decide (x.round = 0)
/-- SCAN: op 0 to 2, the exclusive bit, sat and round for add alone (R229). -/
def scanOk (x : XM) : Bool :=
  offHi x 3 && decide (x.off.toNat % 4 ≠ 3) &&
    (if x.off.toNat % 4 = 0 then redRound x else decide (x.round = 0) && decide (x.sat = 0))

/-- A binary8pP format code (Table 2.7). -/
def fmtP8 (n : Nat) : Bool := decide (0x11 ≤ n ∧ n ≤ 0x17) || decide (0x19 ≤ n ∧ n ≤ 0x1F)
/-- A format code CVT takes (R220). -/
def fmtCvt (n : Nat) : Bool := decide (n ≤ 9) || fmtP8 n
/-- The format and .inf fields of CVT (Table 10.7). -/
def cvtFmts (x : XM) : Bool :=
  let d := x.off.toNat % 64
  let s := x.off.toNat / 64 % 64
  offHi x 14 && fmtCvt d && fmtCvt s && (fmtP8 d || decide (x.off.toNat / 4096 % 2 = 0)) &&
    (fmtP8 s || decide (x.off.toNat / 8192 % 2 = 0))
/-- The format and .inf fields of QNT and DQNT (Table 10.8). -/
def quantFmt (x : XM) : Bool :=
  let d := x.off.toNat % 64
  (decide (d = 9) || fmtP8 d) && (fmtP8 d || decide (x.off.toNat / 64 % 2 = 0))

/-- ATOM and ATOMN: operation, size, round and scope together (R262). DEDUCED (log 81): scope 7, which R75 traps with
RESERVED_SCOPE at row 4 of Table 9.7, is one of R262's violations, at row 1. -/
def atomOk (x : XM) : Bool :=
  let op := x.off.toNat / 2048
  decide (op ≤ 13) && decide (x.scope ≠ 7) &&
    (if 11 ≤ op then decide (x.size.toNat = 2) && round4 x
     else decide (x.size.toNat = 2 ∨ x.size.toNat = 3) && decide (x.round = 0))
/-- CAS: OP is 0, the size is 4, 8 or 16 bytes and the scope is not 7 (R262; log 81 as in `atomOk`). -/
def casOk (x : XM) : Bool := decide (x.scope ≠ 7) && decide (x.off.toNat / 2048 = 0) && decide (2 ≤ x.size.toNat ∧ x.size.toNat ≤ 4)
/-- FENCEX names two of the four paths (R265). -/
def fencexOk (x : XM) : Bool := decide (x.off.toNat % 8 ≤ 3) && decide (x.off.toNat / 8 % 8 ≤ 3)
/-- WQPUSH and WQPOP: NB and its predicate (R273). -/
def wqOk (x : XM) : Bool := offHi x 4 && (decide (x.off.toNat % 2 = 1) || decide (x.off.toNat = 0))
/-- The CSR numbers Table 11.2 assigns. -/
def csrAssigned (n : Nat) : Bool := decide (n ≤ 0x00D) || decide (0x010 ≤ n ∧ n ≤ 0x019) || decide (n = 0x020)
/-- The CSR number of CSRRD and CSRWR (R250). -/
def csrOk (x : XM) : Bool := offHi x 12 && csrAssigned x.off.toNat
/-- A word that takes no guard but pr = 7, pn = 0 (R239, R247). -/
def always (f : F3) : Bool := decide (f.pr = 7) && decide (f.pn = 0)

/-- The fields of an FQ word a form does not use are zero; qb always is (R311). -/
def fq0 (f : FQ) (qa x y mode : Bool) : Bool :=
  decide (f.qb = 0) && (!qa || decide (f.qa = 0)) && (!x || decide (f.x = 0)) && (!y || decide (f.y = 0)) &&
    (!mode || decide (f.mode = 0))
/-- MDRAIN: format, round, sat and .inf (R324). -/
def mdrainOk (f : FQ) : Bool :=
  let fmt := f.mode.toNat % 64
  let inf := decide (f.mode.toNat / 64 = 1)
  let rnd := f.y.toNat % 8
  if fmt = 4 ∨ fmt = 5 then !inf && decide (f.y = 0)
  else if fmt = 6 then !inf && decide (rnd ≤ 3)
  else if fmt = 7 ∨ fmt = 8 ∨ fmt = 9 then !inf && decide (rnd ≤ 3)
  else fmtP8 fmt && decide (rnd ≤ 3)
/-- MHAD: target, format and size (R323). -/
def mhadOk (f : FQ) : Bool :=
  let size := f.mode.toNat % 4
  let f16 := decide (f.mode.toNat / 16 % 2 = 1)
  decide (f.mode.toNat / 4 % 4 = 0) && decide (f.mode.toNat / 32 % 2 = 0) && decide (size ≤ 2) &&
    (if f.mode.toNat / 64 = 1 then !f16 && decide (f.x.toNat < 2) else decide (size ≤ 1))

/-- What an instruction's description demands of its fields beside the roles (row 1 of Table 9.7). `seq` is a
sequencer's stream, whose scalar fields name q registers (R187, R188). -/
def fieldsOk (seq : Bool) : Instr → Bool
  | .iadd _ x => decide (x.round = 0) && decide (x.scope = 0) && decide (x.off = 0) && intTy x
  | .isub _ x => decide (x.round = 0) && decide (x.scope = 0) && decide (x.off = 0) && intTy x
  | .imul _ x => decide (x.round = 0) && decide (x.scope = 0) && decide (x.off = 0) && intTy x
  | .imulhi _ x => decide (x.round = 0) && decide (x.sat = 0) && decide (x.scope = 0) && decide (x.off = 0) && intTy x
  | .imad _ x => decide (x.round = 0) && decide (x.scope = 0) && decide (x.off = 0) && intTy x
  | .imin _ x => decide (x.round = 0) && decide (x.sat = 0) && decide (x.scope = 0) && decide (x.off = 0) && intTy x
  | .imax _ x => decide (x.round = 0) && decide (x.sat = 0) && decide (x.scope = 0) && decide (x.off = 0) && intTy x
  | .iaddc _ x => decide (x.round = 0) && decide (x.sat = 0) && decide (x.scope = 0) && decide (x.size = 0) && offHi x 4
  | .and_ _ => true
  | .or_ _ => true
  | .xor_ _ => true
  | .andn _ => true
  | .shl _ => true
  | .shr _ => true
  | .sar _ => true
  | .rotl _ => true
  | .bfx _ x => decide (x.round = 0) && decide (x.sat = 0) && decide (x.scope = 0) && decide (x.off = 0) && decide (x.size.toNat ≤ 1)
  | .bfi _ x => decide (x.round = 0) && decide (x.sat = 0) && decide (x.scope = 0) && decide (x.size = 0) && decide (x.off = 0)
  | .prmt _ x => decide (x.round = 0) && decide (x.sat = 0) && decide (x.scope = 0) && decide (x.size = 0) && decide (x.off = 0)
  | .lea _ x => decide (x.round = 0) && decide (x.sat = 0) && decide (x.scope = 0)
  | .icmp _ x => decide (x.round = 0) && decide (x.sat = 0) && decide (x.scope = 0) && intTy x && offHi x 3 && decide (x.off.toNat % 8 ≤ 5)
  | .sel _ x => decide (x.round = 0) && decide (x.sat = 0) && decide (x.scope = 0) && decide (x.size = 0) && offHi x 4
  | .mov _ => true
  | .hash32 _ x => decide (x.round = 0) && decide (x.sat = 0) && decide (x.scope = 0) && decide (x.size = 0) && decide (x.off = 0)
  | .fadd _ x => decide (x.scope = 0) && decide (x.off = 0) && floatTy x && round4 x
  | .fsub _ x => decide (x.scope = 0) && decide (x.off = 0) && floatTy x && round4 x
  | .fmul _ x => decide (x.scope = 0) && decide (x.off = 0) && floatTy x && round4 x
  | .ffma _ x => decide (x.scope = 0) && decide (x.off = 0) && floatTy x && round4 x
  | .fmin _ x => decide (x.round = 0) && decide (x.sat = 0) && decide (x.scope = 0) && decide (x.off = 0) && floatTy x
  | .fmax _ x => decide (x.round = 0) && decide (x.sat = 0) && decide (x.scope = 0) && decide (x.off = 0) && floatTy x
  | .fcmp _ x => decide (x.round = 0) && decide (x.sat = 0) && decide (x.scope = 0) && floatTy x && offHi x 3
  | .fscale _ x => decide (x.scope = 0) && decide (x.off = 0) && floatTy x && round4 x
  | .padd _ x => decide (x.scope = 0) && decide (x.off = 0) && packedTy x && round4 x
  | .pmul _ x => decide (x.scope = 0) && decide (x.off = 0) && packedTy x && round4 x
  | .pfma _ x => decide (x.scope = 0) && decide (x.off = 0) && packedTy x && round4 x
  | .cvt _ x => decide (x.scope = 0) && decide (x.size = 0) && round4 x && cvtFmts x
  | .iabs _ x => decide (x.round = 0) && decide (x.scope = 0) && decide (x.off = 0) && intTy x && decide (x.size.toNat % 2 = 1)
  | .ineg _ x => decide (x.round = 0) && decide (x.scope = 0) && decide (x.off = 0) && intTy x
  | .not_ _ => true
  | .popc _ => true
  | .clz _ => true
  | .brev _ => true
  | .fclass _ x => decide (x.round = 0) && decide (x.sat = 0) && decide (x.scope = 0) && decide (x.off = 0) && floatTy x
  | .frnd _ x => decide (x.sat = 0) && decide (x.scope = 0) && decide (x.off = 0) && floatTy x && round4 x
  | .frcp _ x => decide (x.scope = 0) && decide (x.off = 0) && floatTy x && round4 x
  | .frsq _ x => decide (x.scope = 0) && decide (x.off = 0) && floatTy x && round4 x
  | .fsqrt _ x => decide (x.scope = 0) && decide (x.off = 0) && floatTy x && round4 x
  | .fexp2 _ x => decide (x.round = 0) && decide (x.sat = 0) && decide (x.scope = 0) && decide (x.off = 0) && floatTy x
  | .flog2 _ x => decide (x.round = 0) && decide (x.sat = 0) && decide (x.scope = 0) && decide (x.off = 0) && floatTy x
  | .fsin _ x => decide (x.round = 0) && decide (x.sat = 0) && decide (x.scope = 0) && decide (x.off = 0) && floatTy x
  | .fcos _ x => decide (x.round = 0) && decide (x.sat = 0) && decide (x.scope = 0) && decide (x.off = 0) && floatTy x
  | .ftanh _ x => decide (x.round = 0) && decide (x.sat = 0) && decide (x.scope = 0) && decide (x.off = 0) && floatTy x
  | .movi _ => true
  | .qnt _ x => decide (x.scope = 0) && floatTy x && decide (x.round.toNat ≤ 4) && offHi x 8 && quantFmt x
  | .dqnt _ x => decide (x.round = 0) && decide (x.sat = 0) && decide (x.scope = 0) && decide (x.size = 0) && offHi x 7 && quantFmt x
  | .pack _ x => decide (x.round = 0) && decide (x.sat = 0) && decide (x.scope = 0) && decide (x.off = 0) && decide (x.size.toNat ≤ 2)
  | .unpk _ x => decide (x.round = 0) && decide (x.sat = 0) && decide (x.scope = 0) && decide (x.size.toNat ≤ 2) && offHi x 1
  | .shfl _ x => decide (x.round = 0) && decide (x.sat = 0) && decide (x.scope = 0) && decide (x.size = 0) && offHi x 2
  | .bcast _ x => decide (x.round = 0) && decide (x.sat = 0) && decide (x.scope = 0) && decide (x.size = 0) && offHi x 6 && decide (x.off.toNat = 0 ∨ 32 ≤ x.off.toNat)
  | .vote _ x => decide (x.round = 0) && decide (x.sat = 0) && decide (x.scope = 0) && decide (x.size = 0) && offHi x 2
  | .redadd _ x => decide (x.scope = 0) && decide (x.off = 0) && redTy x && redRound x
  | .redmin _ x => decide (x.round = 0) && decide (x.sat = 0) && decide (x.scope = 0) && decide (x.off = 0) && redTy x
  | .redmax _ x => decide (x.round = 0) && decide (x.sat = 0) && decide (x.scope = 0) && decide (x.off = 0) && redTy x
  | .redmini _ x => decide (x.round = 0) && decide (x.sat = 0) && decide (x.scope = 0) && redTy x && offHi x 3
  | .redmaxi _ x => decide (x.round = 0) && decide (x.sat = 0) && decide (x.scope = 0) && redTy x && offHi x 3
  | .scan _ x => decide (x.scope = 0) && redTy x && scanOk x
  | .match_ _ x => decide (x.round = 0) && decide (x.sat = 0) && decide (x.scope = 0) && decide (x.size = 0) && decide (x.off = 0)
  | .iaddLiteral _ x _ => decide (x.round = 0) && decide (x.scope = 0) && decide (x.off = 0) && intTy x
  | .isubLiteral _ x _ => decide (x.round = 0) && decide (x.scope = 0) && decide (x.off = 0) && intTy x
  | .imulLiteral _ x _ => decide (x.round = 0) && decide (x.scope = 0) && decide (x.off = 0) && intTy x
  | .imulhiLiteral _ x _ => decide (x.round = 0) && decide (x.sat = 0) && decide (x.scope = 0) && decide (x.off = 0) && intTy x
  | .imadLiteral _ x _ => decide (x.round = 0) && decide (x.scope = 0) && decide (x.off = 0) && intTy x
  | .iminLiteral _ x _ => decide (x.round = 0) && decide (x.sat = 0) && decide (x.scope = 0) && decide (x.off = 0) && intTy x
  | .imaxLiteral _ x _ => decide (x.round = 0) && decide (x.sat = 0) && decide (x.scope = 0) && decide (x.off = 0) && intTy x
  | .iaddcLiteral _ x _ => decide (x.round = 0) && decide (x.sat = 0) && decide (x.scope = 0) && decide (x.size = 0) && offHi x 4
  | .andLiteral _ _ => true
  | .orLiteral _ _ => true
  | .xorLiteral _ _ => true
  | .andnLiteral _ _ => true
  | .shlLiteral _ _ => true
  | .shrLiteral _ _ => true
  | .sarLiteral _ _ => true
  | .rotlLiteral _ _ => true
  | .bfxLiteral _ x _ => decide (x.round = 0) && decide (x.sat = 0) && decide (x.scope = 0) && decide (x.off = 0) && decide (x.size.toNat ≤ 1)
  | .bfiLiteral _ x _ => decide (x.round = 0) && decide (x.sat = 0) && decide (x.scope = 0) && decide (x.size = 0) && decide (x.off = 0)
  | .prmtLiteral _ x _ => decide (x.round = 0) && decide (x.sat = 0) && decide (x.scope = 0) && decide (x.size = 0) && decide (x.off = 0)
  | .leaLiteral _ x _ => decide (x.round = 0) && decide (x.sat = 0) && decide (x.scope = 0)
  | .icmpLiteral _ x _ => decide (x.round = 0) && decide (x.sat = 0) && decide (x.scope = 0) && intTy x && offHi x 3 && decide (x.off.toNat % 8 ≤ 5)
  | .selLiteral _ x _ => decide (x.round = 0) && decide (x.sat = 0) && decide (x.scope = 0) && decide (x.size = 0) && offHi x 4
  | .movLiteral _ _ => true
  | .hash32Literal _ x _ => decide (x.round = 0) && decide (x.sat = 0) && decide (x.scope = 0) && decide (x.size = 0) && decide (x.off = 0)
  | .faddLiteral _ x _ => decide (x.scope = 0) && decide (x.off = 0) && floatTy x && round4 x
  | .fsubLiteral _ x _ => decide (x.scope = 0) && decide (x.off = 0) && floatTy x && round4 x
  | .fmulLiteral _ x _ => decide (x.scope = 0) && decide (x.off = 0) && floatTy x && round4 x
  | .ffmaLiteral _ x _ => decide (x.scope = 0) && decide (x.off = 0) && floatTy x && round4 x
  | .fminLiteral _ x _ => decide (x.round = 0) && decide (x.sat = 0) && decide (x.scope = 0) && decide (x.off = 0) && floatTy x
  | .fmaxLiteral _ x _ => decide (x.round = 0) && decide (x.sat = 0) && decide (x.scope = 0) && decide (x.off = 0) && floatTy x
  | .fcmpLiteral _ x _ => decide (x.round = 0) && decide (x.sat = 0) && decide (x.scope = 0) && floatTy x && offHi x 3
  | .fscaleLiteral _ x _ => decide (x.scope = 0) && decide (x.off = 0) && floatTy x && round4 x
  | .paddLiteral _ x _ => decide (x.scope = 0) && decide (x.off = 0) && packedTy x && round4 x
  | .pmulLiteral _ x _ => decide (x.scope = 0) && decide (x.off = 0) && packedTy x && round4 x
  | .pfmaLiteral _ x _ => decide (x.scope = 0) && decide (x.off = 0) && packedTy x && round4 x
  | .cvtLiteral _ x _ => decide (x.scope = 0) && decide (x.size = 0) && round4 x && cvtFmts x
  | .sadd f => if seq then true && decide (f.imm = 0) else sdst f.d && ssrc false f.a && ssrc false f.b && decide (f.imm = 0)
  | .ssub f => if seq then true && decide (f.imm = 0) else sdst f.d && ssrc false f.a && ssrc false f.b && decide (f.imm = 0)
  | .smul f => if seq then true && decide (f.imm = 0) else sdst f.d && ssrc false f.a && ssrc false f.b && decide (f.imm = 0)
  | .sand f => if seq then true && decide (f.imm = 0) else sdst f.d && ssrc false f.a && ssrc false f.b && decide (f.imm = 0)
  | .sor f => if seq then true && decide (f.imm = 0) else sdst f.d && ssrc false f.a && ssrc false f.b && decide (f.imm = 0)
  | .sxor f => if seq then true && decide (f.imm = 0) else sdst f.d && ssrc false f.a && ssrc false f.b && decide (f.imm = 0)
  | .sshl f => if seq then true && decide (f.imm = 0) else sdst f.d && ssrc false f.a && ssrc false f.b && decide (f.imm = 0)
  | .sshr f => if seq then true && decide (f.imm = 0) else sdst f.d && ssrc false f.a && ssrc false f.b && decide (f.imm = 0)
  | .ssar f => if seq then true && decide (f.imm = 0) else sdst f.d && ssrc false f.a && ssrc false f.b && decide (f.imm = 0)
  | .smin f => if seq then true && decide (f.imm.toNat = 0 ∨ f.imm.toNat = 8) else sdst f.d && ssrc false f.a && ssrc false f.b && decide (f.imm.toNat = 0 ∨ f.imm.toNat = 8)
  | .smax f => if seq then true && decide (f.imm.toNat = 0 ∨ f.imm.toNat = 8) else sdst f.d && ssrc false f.a && ssrc false f.b && decide (f.imm.toNat = 0 ∨ f.imm.toNat = 8)
  | .scmp f => if seq then true && decide (f.imm.toNat < 16) && decide (f.imm.toNat % 8 ≤ 5) else sdst f.d && ssrc false f.a && ssrc false f.b && decide (f.imm.toNat < 16) && decide (f.imm.toNat % 8 ≤ 5)
  | .ssel f => if seq then true && decide (f.imm.toNat < 32) else sdst f.d && ssrc false f.a && ssrc false f.b && decide (f.imm.toNat ≤ 27)
  | .smov f => if seq then decide (f.b = 0) && decide (f.imm = 0) else sdst f.d && ssrc false f.a && decide (f.b = 0) && decide (f.imm = 0)
  | .smovi f => if seq then decide (f.a = 0) && decide (f.b = 0) else sdst f.d && decide (f.a = 0) && decide (f.b = 0)
  | .sld f => if seq then false else sdst f.d && decide (f.a.toNat ≤ 22) && decide (f.a.toNat % 2 = 0) && decide (f.b = 0)
  | .readlane f => if seq then false else sdst f.d && ssrc false f.a && decide (f.b = 0) && decide (f.imm.toNat < 128) && srcField false (vecField f)
  | .sbcast f => if seq then false else decide (f.d = 0) && ssrc false f.a && decide (f.b = 0) && decide (f.imm.toNat < 128) && dstField (vecField f)
  | .saddLiteral f _ => if seq then decide (f.b = 0) && decide (f.imm = 0) else sdst f.d && ssrc true f.a && ssrc true f.b && decide (f.imm = 0) && litUsed f
  | .ssubLiteral f _ => if seq then decide (f.b = 0) && decide (f.imm = 0) else sdst f.d && ssrc true f.a && ssrc true f.b && decide (f.imm = 0) && litUsed f
  | .smulLiteral f _ => if seq then decide (f.b = 0) && decide (f.imm = 0) else sdst f.d && ssrc true f.a && ssrc true f.b && decide (f.imm = 0) && litUsed f
  | .sandLiteral f _ => if seq then decide (f.b = 0) && decide (f.imm = 0) else sdst f.d && ssrc true f.a && ssrc true f.b && decide (f.imm = 0) && litUsed f
  | .sorLiteral f _ => if seq then decide (f.b = 0) && decide (f.imm = 0) else sdst f.d && ssrc true f.a && ssrc true f.b && decide (f.imm = 0) && litUsed f
  | .sxorLiteral f _ => if seq then decide (f.b = 0) && decide (f.imm = 0) else sdst f.d && ssrc true f.a && ssrc true f.b && decide (f.imm = 0) && litUsed f
  | .sshlLiteral f _ => if seq then decide (f.b = 0) && decide (f.imm = 0) else sdst f.d && ssrc true f.a && ssrc true f.b && decide (f.imm = 0) && litUsed f
  | .sshrLiteral f _ => if seq then decide (f.b = 0) && decide (f.imm = 0) else sdst f.d && ssrc true f.a && ssrc true f.b && decide (f.imm = 0) && litUsed f
  | .ssarLiteral f _ => if seq then decide (f.b = 0) && decide (f.imm = 0) else sdst f.d && ssrc true f.a && ssrc true f.b && decide (f.imm = 0) && litUsed f
  | .sminLiteral f _ => if seq then decide (f.b = 0) && decide (f.imm.toNat = 0 ∨ f.imm.toNat = 8) else sdst f.d && ssrc true f.a && ssrc true f.b && decide (f.imm.toNat = 0 ∨ f.imm.toNat = 8) && litUsed f
  | .smaxLiteral f _ => if seq then decide (f.b = 0) && decide (f.imm.toNat = 0 ∨ f.imm.toNat = 8) else sdst f.d && ssrc true f.a && ssrc true f.b && decide (f.imm.toNat = 0 ∨ f.imm.toNat = 8) && litUsed f
  | .scmpLiteral f _ => if seq then decide (f.b = 0) && decide (f.imm.toNat < 16) && decide (f.imm.toNat % 8 ≤ 5) else sdst f.d && ssrc true f.a && ssrc true f.b && decide (f.imm.toNat < 16) && decide (f.imm.toNat % 8 ≤ 5) && litUsed f
  | .sselLiteral f _ => if seq then decide (f.b = 0) && decide (f.imm.toNat < 32) else sdst f.d && ssrc true f.a && ssrc true f.b && decide (f.imm.toNat ≤ 27) && litUsed f
  | .smovLiteral f _ => if seq then decide (f.b = 0) && decide (f.imm = 0) else sdst f.d && ssrc true f.a && decide (f.b = 0) && decide (f.imm = 0) && decide (f.a.toNat = 31)
  | .bra f => guardOk f.pr f.pn && (!seq || decide (f.pr = 7))
  | .brp f => guardOk f.pr f.pn
  | .call f => guardOk f.pr f.pn && (!seq || decide (f.pr = 7))
  | .jmpi _ => true
  | .ret _ => true
  | .exit _ => true
  | .trap _ => true
  | .rconv f => always f
  | .yield f => always f
  | .nop _ => true
  | .sleep _ => true
  | .fork _ x => decide (x.round = 0) && decide (x.sat = 0) && decide (x.scope = 0) && decide (x.size = 0) && decide (x.off = 0)
  | .join_ _ => true
  | .spawn _ x => decide (x.round = 0) && decide (x.sat = 0) && decide (x.scope = 0) && decide (x.size = 0) && decide (x.off = 0)
  | .ldPair _ x => decide (x.round = 0) && decide (x.sat = 0) && decide (x.scope = 0) && decide (x.size.toNat ≤ 6)
  | .stPair _ x => decide (x.round = 0) && decide (x.sat = 0) && decide (x.scope = 0) && decide (x.size.toNat ≤ 4)
  | .ldaPair _ x => decide (x.round = 0) && decide (x.sat = 0) && decide (x.size.toNat ≤ 6)
  | .stlPair _ x => decide (x.round = 0) && decide (x.sat = 0) && decide (x.size.toNat ≤ 4)
  | .atomPair _ x => decide (x.sat = 0) && atomOk x
  | .atomnPair _ x => decide (x.sat = 0) && decide (x.scope = 0) && atomOk x && decide (x.off.toNat / 512 % 4 = 0)
  | .casPair _ x => decide (x.round = 0) && decide (x.sat = 0) && casOk x
  | .pref _ x => decide (x.round = 0) && decide (x.sat = 0) && decide (x.scope = 0) && decide (x.size = 0)
  | .ldLocal _ x => decide (x.round = 0) && decide (x.sat = 0) && decide (x.scope = 0) && decide (x.size.toNat ≤ 6)
  | .stLocal _ x => decide (x.round = 0) && decide (x.sat = 0) && decide (x.scope = 0) && decide (x.size.toNat ≤ 4)
  | .ldaLocal _ x => decide (x.round = 0) && decide (x.sat = 0) && decide (x.size.toNat ≤ 6)
  | .stlLocal _ x => decide (x.round = 0) && decide (x.sat = 0) && decide (x.size.toNat ≤ 4)
  | .atomLocal _ x => decide (x.sat = 0) && atomOk x
  | .atomnLocal _ x => decide (x.sat = 0) && decide (x.scope = 0) && atomOk x && decide (x.off.toNat / 512 % 4 = 0)
  | .casLocal _ x => decide (x.round = 0) && decide (x.sat = 0) && casOk x
  | .publish _ x => decide (x.round = 0) && decide (x.sat = 0) && decide (x.scope = 0) && decide (x.size = 0)
  | .fence _ x => decide (x.round = 0) && decide (x.sat = 0) && decide (x.size = 0) && decide (x.off = 0)
  | .fencex _ x => decide (x.round = 0) && decide (x.sat = 0) && decide (x.size = 0) && offHi x 6 && fencexOk x
  | .rdenter _ => true
  | .rdexit _ => true
  | .retire _ x => decide (x.round = 0) && decide (x.sat = 0) && decide (x.scope = 0) && decide (x.size = 0) && offHi x 2 && decide (x.off.toNat ≤ 2)
  | .grace _ => true
  | .append _ x => decide (x.round = 0) && decide (x.sat = 0) && decide (x.scope = 0) && decide (x.size.toNat ≤ 4)
  | .acommit _ x => decide (x.round = 0) && decide (x.sat = 0) && decide (x.size = 0)
  | .ahead _ x => decide (x.round = 0) && decide (x.sat = 0) && decide (x.size = 0)
  | .bara f => decide (f.imm.toNat < 16)
  | .barw f => decide (f.imm.toNat < 16)
  | .bar f => decide (f.imm.toNat < 16)
  | .wqpush _ x => decide (x.round = 0) && decide (x.sat = 0) && decide (x.size = 0) && wqOk x
  | .wqpop _ x => decide (x.round = 0) && decide (x.sat = 0) && decide (x.size = 0) && wqOk x
  | .chopenTx f => decide (f.imm.toNat < 64)
  | .chopenRx f => decide (64 ≤ f.imm.toNat)
  | .chclose f => decide (f.imm.toNat < 64)
  | .send f => decide (f.imm.toNat < 64)
  | .recv f => decide (f.imm.toNat < 64)
  | .chfence f => decide (f.imm.toNat < 64)
  | .cpld _ x => decide (x.round = 0) && decide (x.sat = 0) && decide (x.scope = 0) && decide (x.size = 0) && decide (x.off.toNat < 512) && (decide (x.off.toNat / 8 % 2 = 1) || decide (x.off.toNat / 16 % 16 = 0))
  | .cpst _ x => decide (x.round = 0) && decide (x.sat = 0) && decide (x.scope = 0) && decide (x.size = 0) && decide (x.off.toNat < 512) && decide (x.off.toNat / 8 % 32 = 0)
  | .cpgather _ x => decide (x.round = 0) && decide (x.sat = 0) && decide (x.scope = 0) && decide (x.size = 0) && decide (x.off.toNat / 512 % 2 = 0) && decide (x.off.toNat / 8 % 32 = 0)
  | .cpscatter _ x => decide (x.round = 0) && decide (x.sat = 0) && decide (x.scope = 0) && decide (x.size = 0) && decide (x.off.toNat / 512 % 2 = 0) && decide (x.off.toNat / 8 % 32 = 0)
  | .cpfill _ x => decide (x.round = 0) && decide (x.sat = 0) && decide (x.scope = 0) && decide (x.size = 0) && decide (x.off.toNat < 512) && decide (x.off.toNat / 8 % 32 = 0)
  | .cppagein _ x => decide (x.round = 0) && decide (x.sat = 0) && decide (x.scope = 0) && decide (x.size = 0) && offHi x 3
  | .cpstat _ x => decide (x.round = 0) && decide (x.sat = 0) && decide (x.scope = 0) && decide (x.size = 0) && decide (x.off.toNat < 1024) && decide (x.off.toNat / 8 % 64 = 0)
  | .cphand _ x => decide (x.round = 0) && decide (x.sat = 0) && decide (x.scope = 0) && decide (x.size = 0) && offHi x 3
  | .cpcancel _ x => decide (x.round = 0) && decide (x.sat = 0) && decide (x.scope = 0) && decide (x.size = 0) && offHi x 3
  | .mclaim f => fq0 f false true true true
  | .mrel f => fq0 f false true true true
  | .mfill f => fq0 f false false true true
  | .mfillArg f => fq0 f false false true false && decide (f.mode.toNat = 0x40) && decide (f.qa.toNat % 4 = 0)
  | .mzero f => fq0 f true true true false && decide (0 < f.mode.toNat ∧ f.mode.toNat < 16)
  | .mdrain f => fq0 f false false false false && decide (f.x.toNat < 2) && mdrainOk f
  | .mwait f => fq0 f true true true true
  | .mstat f => fq0 f false true true false && decide (f.mode.toNat < 2)
  | .mscl f => fq0 f false true true false && decide (f.mode.toNat < 16) && (decide (f.mode.toNat / 2 % 2 = 1) || decide (f.mode.toNat / 4 = 0))
  | .mscacc f => fq0 f true false false true && decide (f.x.toNat < 2) && decide (f.y.toNat < 2)
  | .mhad f => fq0 f true false true false && mhadOk f
  | .mmb f => fq0 f false false false false && decide (f.mode.toNat / 2 % 32 = 0)
  | .mmaBf16 f => fq0 f false false false false && decide (f.mode.toNat % 64 = 0)
  | .mmaF16 f => fq0 f false false false false && decide (f.mode.toNat % 64 = 0)
  | .mmaI8 f => fq0 f false false false false && decide (f.mode.toNat % 16 = 0)
  | .mmaP8 f => fq0 f false false false false && decide (f.mode.toNat % 2 = 0) && decide (f.mode.toNat / 2 % 8 ≠ 0)
  | .mmaE2m1 f => fq0 f false false false false && decide (f.mode.toNat % 64 = 0)
  | .mmaMxp8 f => fq0 f false false false false && decide (f.mode.toNat / 2 % 8 ≠ 0)
  | .mmaMxe2m1 f => fq0 f false false false false && decide (f.mode.toNat / 4 % 16 = 0)
  | .csrrd _ x => decide (x.round = 0) && decide (x.sat = 0) && decide (x.scope = 0) && decide (x.size = 0) && csrOk x
  | .csrwr _ x => decide (x.round = 0) && decide (x.sat = 0) && decide (x.scope = 0) && decide (x.size = 0) && csrOk x
  | .treturn f => always f
  | .cycle _ => true
  | .genq _ => true
  | .dbgbrk _ => true
  | .ckpt _ => true
  | .rollbk _ => true
  | .sigrd _ => true
  | .suspq _ => true
  | .spstat _ => true
  | .regacq f => if seq then false else decide (f.d = 0) && decide (f.a = 0) && decide (f.b = 0)
  | .regrel f => if seq then false else decide (f.d = 0) && decide (f.a = 0) && decide (f.b = 0) && decide (f.imm = 0)
  | .spbegin f => if seq then false else sdst f.d && ssrc false f.a && decide (f.b = 0)
  | .spguess f => if seq then false else decide (f.d = 0) && decide (f.a = 0) && decide (f.b = 0) && decide (f.imm.toNat < 16)
  | .spcmp f => if seq then false else decide (f.d = 0) && decide (f.a = 0) && decide (f.b = 0) && decide (f.imm = 0)
  | .spend f => if seq then false else decide (f.d = 0) && decide (f.a = 0) && decide (f.b = 0) && decide (f.imm = 0)
  | .powerOn .. | .registerWrite .. | .strikeReport .. | .replayRestore .. | .rollbackSheadRestore .. |
    .agedEntryToHead .. | .overflowRejoin .. | .faultRejoin .. | .workgroupAdmission .. | .regacqGrant .. |
    .poolRootPush .. | .poolWarpForm .. | .sequencerProgramStart .. | .translationWalkDone .. |
    .remoteWindowAccess .. | .homeSliceServe .. | .brineEntryLeave .. | .writeAck .. | .loadResponse .. |
    .errorCompletion .. | .requestTimeoutExpiry .. | .inboundAccess .. | .inboundPeerAccess .. |
    .channelDelivery .. | .copyCommandComplete .. | .pageInComplete .. | .copyAsideComplete .. | .arrayOpStart
    .. | .gracePeriodStart .. | .flipAdopt .. | .flipAck .. | .drainPoll .. | .gracePeriodComplete .. |
    .retireEntryAppend .. | .retireAction .. | .tagSweep .. | .generationRenewal .. | .debugHalt .. |
    .debugResume .. | .debugRelease .. | .debugRead .. | .debugWrite .. | .checkpointTake .. |
    .checkpointTaken .. | .checkpointDeltaAck .. | .checkpointCommit .. | .checkpointIntervalExpiry .. |
    .externalOpIssue .. | .twinVote .. | .thirdCopyStart .. | .preempt .. | .contextSave .. | .contextRestore
    .. | .launchComplete .. | .sleepExpiry .. | .meshArbitration .. | .packetUrgent .. | .pmodeModeWrite .. |
    .modeChangeDone | .pmodeRefusedClear | .clkptWrite .. | .clockStretchDone .. | .hcshareWrite .. |
    .cxlPortEnable .. | .cxlPortDisable .. | .cxlTrainingDone .. | .expWrite .. | .pwinWrite .. | .queueEnable
    .. | .queueDisable .. | .queueKick .. | .packetFetch .. | .launchPacket .. | .waitPacket .. |
    .waitConditionMet .. | .signalPacket .. | .writeThenSignalPacket .. | .copyPacket .. | .handoverPacket ..
    | .fencePacket .. | .dawnPacket .. | .dawnRequest .. | .launchAbort .. | .sliceExpiry .. | .stealRequest
    .. | .queueOwnershipPass .. | .queueReturnHome .. | .mailboxMessage .. | .invalPage .. | .invalSpace .. |
    .invalAll .. | .invalComplete .. | .resolveResolved .. | .resolveUnresolvable .. | .faultQueueConsume .. |
    .faultQueueEnable .. | .poolReturnPush .. | .repairApply | .repairApplyDone | .rasRefusedClear |
    .imageLoad .. | .attestationRequest .. | .quoteWrite | .attdropClear | .pendretSet .. | .monitorSample ..
    | .monitorClear .. | .monitorConfigure .. | .podReplay .. | .podmemWrite .. | .peerLinkEnable .. |
    .peerLinkTrained .. | .heartbeatSend .. | .heartbeatTimeout .. | .powerControlTick .. | .thermalStop .. |
    .thermalRestart .. | .matrixOperationComplete .. | .heartbeatReceive .. | .peerLinkDisable .. |
    .peerTrafficRelay .. => true

/-- The sources of a literal form that hold the literal value (R188). -/
def litInSource (r : Roles) (f : F3) (c : BitVec 7) : Bool :=
  (decide (r.a ≠ .none) && decide (f.a.toNat = 0x7F)) || (decide (r.b ≠ .none) && decide (f.b.toNat = 0x7F)) ||
    (decide (r.c ≠ .none) && decide (c.toNat = 0x7F))

/-- The control words a sequencer takes name q registers in bits [4:0] of d and a, and are unguarded (Table 9.15). -/
def seqControlOk (op : Nat) (f : F3) : Bool :=
  decide (f.pr = 7) && decide (f.pn = 0) && decide (f.b = 0) &&
    (if op = 3 then decide (f.d.toNat < 32) && decide (f.a.toNat < 32)
     else if op = 4 then decide (f.d = 0) && decide (f.a.toNat < 32)
     else (op == 5 || op == 9) && decide (f.d = 0) && decide (f.a = 0))

/-- The words a sequencer's stream accepts (Table 9.15). -/
def seqAccepts (page op : Nat) : Bool :=
  (page == 1 && (decide (op ≤ 0x0E) || decide (0x40 ≤ op ∧ op ≤ 0x4D))) ||
    (page == 2 && (op == 0 || op == 2 || op == 3 || op == 4 || op == 5 || op == 9)) || page == 5

/-- The register fields are legal for their roles and the guard is legal (R184 to R189). -/
def regsOk (seq : Bool) (i : Instr) : Bool :=
  let r := roles i
  match view i with
  | .word page op (.f3 f) =>
    if seq && page == 2 then seqControlOk op f
    else roleOk false r.d f.d && roleOk false r.a f.a && roleOk false r.b f.b && guardOk f.pr f.pn
  | .word _ _ (.f3x f x) =>
    roleOk false r.d f.d && roleOk false r.a f.a && roleOk false r.b f.b && roleOk false r.c x.c && guardOk f.pr f.pn
  | .word _ _ (.f3l f _) =>
    roleOk true r.d f.d && roleOk true r.a f.a && roleOk true r.b f.b && guardOk f.pr f.pn && litInSource r f 0
  | .word _ _ (.f3xl f x _) =>
    roleOk true r.d f.d && roleOk true r.a f.a && roleOk true r.b f.b && roleOk true r.c x.c && guardOk f.pr f.pn &&
      litInSource r f x.c
  | .word _ _ (.f2i f) => roleOk false r.d f.d && roleOk false r.a f.a && guardOk f.pr f.pn
  | .word _ _ _ => true
  | .event => true

/-- The stream a page belongs to: a MATRIX word in a warp's stream, or another page in a sequencer's, is refused
(R194). -/
def streamOk (seq : Bool) (i : Instr) : Bool :=
  match view i with
  | .word page op _ => if seq then seqAccepts page op else !(page == 5)
  | .event => true

/-- Row 1 of Table 9.7 for the instruction's own words. -/
def wellFormedIn (seq : Bool) (i : Instr) : Bool := streamOk seq i && regsOk seq i && fieldsOk seq i

/-- The words an instruction takes, extension words included (R177). -/
def wordCount (i : Instr) : Nat :=
  match view i with
  | .word _ _ (.f3x ..) | .word _ _ (.f3l ..) | .word _ _ (.fsl ..) => 2
  | .word _ _ (.f3xl ..) => 3
  | .word .. => 1
  | .event => 0

/-- The v registers a field names under its role (R185, R186, R255, R280). -/
def roleRegs (r : Role) (n : BitVec 7) : List Nat :=
  if n.toNat < 0x60 then
    match r with
    | .src | .dst => [n.toNat]
    | .psrc | .pdst => [n.toNat, n.toNat + 1]
    | .qsrc | .qdst => [n.toNat, n.toNat + 1, n.toNat + 2, n.toNat + 3]
    | .block => (List.range 8).map (n.toNat + ·)
    | .none | .pred => []
  else []

/-- Is a role a destination? -/
def roleIsDst : Role → Bool
  | .dst | .pdst | .qdst => true
  | .none | .src | .psrc | .qsrc | .pred | .block => false

/-- The register fields of a word with their roles. -/
def fieldRoles (i : Instr) : List (Role × BitVec 7) :=
  let r := roles i
  match view i with
  | .word _ _ (.f3 f) | .word _ _ (.f3l f _) => [(r.d, f.d), (r.a, f.a), (r.b, f.b)]
  | .word _ _ (.f3x f x) | .word _ _ (.f3xl f x _) => [(r.d, f.d), (r.a, f.a), (r.b, f.b), (r.c, x.c)]
  | .word _ _ (.f2i f) => [(r.d, f.d), (r.a, f.a)]
  | .word 1 0x10 (.fs f) => [(.src, vecField f)]
  | .word 1 0x11 (.fs f) => [(.dst, vecField f)]
  | .word .. => []
  | .event => []

/-- The v registers an instruction reads. -/
def srcRegs (i : Instr) : List Nat :=
  (fieldRoles i).flatMap fun p => if roleIsDst p.1 then [] else roleRegs p.1 p.2

/-- The v registers an instruction writes. CALL writes v14:v15 (R235). -/
def dstRegs (i : Instr) : List Nat :=
  ((fieldRoles i).flatMap fun p => if roleIsDst p.1 then roleRegs p.1 p.2 else []) ++
    (match view i with | .word 2 2 _ => [14, 15] | _ => [])

/-- The guard of an instruction: predicate number and sense (R189); FS and FQ words have none. -/
def guardOf (i : Instr) : Option (BitVec 3 × BitVec 1) :=
  match view i with
  | .word _ _ (.f3 f) | .word _ _ (.f3x f _) | .word _ _ (.f3l f _) | .word _ _ (.f3xl f _ _) => some (f.pr, f.pn)
  | .word _ _ (.f2i f) => some (f.pr, f.pn)
  | .word _ _ (.fb f) => some (f.pr, f.pn)
  | .word .. => none
  | .event => none

/-- The scope field an instruction carries (R75). -/
def scopeOf (i : Instr) : Option (BitVec 3) :=
  match view i with
  | .word _ _ (.f3x _ x) | .word _ _ (.f3xl _ x _) => some x.scope
  | _ => none

/-- The literal of a literal form (R188). -/
def literalOf (i : Instr) : Word :=
  match view i with
  | .word _ _ (.f3l _ l) | .word _ _ (.f3xl _ _ l) | .word _ _ (.fsl _ l) => l
  | _ => 0

end Sys2Proof.Machine
end

