-- ==== Sys2Proof/WellFormed.lean ====
section
/-! DEFINITION. Well-formed instructions: those whose fields every check of row 1 of Table 9.7 accepts, in a warp's or
a sequencer's stream, and events whose unit numbers name units of the package. -/

namespace Sys2Proof

/-- A logical device number (R367). -/
def devOk (k : Nat) : Bool := decide (k < 4)
/-- A physical die number (R1). -/
def dieOk (d : Nat) : Bool := decide (d < 4)
/-- A core of the package, 160 to a die (R2). -/
def coreOk (c : Nat) : Bool := decide (c < 640)
/-- A warp slot of a core (R25). -/
def slotOk (s : Nat) : Bool := decide (s < 48)
/-- A mesh position (R349, R372). -/
def meshOk (d x y : Nat) : Bool := decide (d < 4) && decide (x < 17) && decide (y < 10)

/-- A register of a unit of the package. -/
def regOk : Reg → Bool
  | .qbase k q | .qslice k q | .qnosteal k q | .qhomedie k q | .qprio k q | .qlog2n k q | .qridx k q => devOk k && decide (q < 256)
  | .stagebase k p | .spillbase k p | .poolqbase k p | .poolqlog2n k p | .pools k p => devOk k && decide (p < 4)
  | .pcfgRole k | .wqtbase k | .savebase k | .savesize k | .ckptbase k | .ckptsize k | .sptbase k | .ftbase k | .fqbase k
  | .fqlog2n k | .fqenClear k | .rqbase k | .rqlog2n k | .rootdev k | .span k | .devnum k => devOk k
  | .route k n => devOk k && decide (n < 1024)
  | .elbase d | .elen d | .ellog2n d | .elcons d | .susthr d | .strthr d => dieOk d
  | .monFreeze d m => dieOk d && decide (m < 16)
  | .repout | .pwrcap | .readOnly _ => true

/-- The unit numbers of a step that no word encodes name units of the package (R2, R361, R373, R387, R406, R415). -/
def eventOk : Instr → Bool
  | .registerWrite r _ => regOk r
  | .strikeReport d p _ => dieOk d && decide (p.1 < 17 ∧ p.2 < 10)
  | .powerOn _ _ bad => bad.all fun b => dieOk b.1 && decide (b.2.1 < 17 ∧ b.2.2 < 10)
  | .agedEntryToHead c s _ | .overflowRejoin c s | .faultRejoin c s | .sleepExpiry c s | .debugHalt c s
  | .debugResume c s | .debugRelease c s => coreOk c && slotOk s
  | .workgroupAdmission _ cs => cs.all coreOk
  | .regacqGrant c q => coreOk c && decide (q < 4)
  | .poolWarpForm c b => coreOk c && decide (b < 16)
  | .sequencerProgramStart c | .arrayOpStart c | .matrixOperationComplete c => decide (c < 160)
  | .translationWalkDone c _ | .copyCommandComplete c _ | .flipAdopt c | .tagSweep c | .generationRenewal c _
  | .debugRead c _ _ | .debugWrite c _ _ _ | .thirdCopyStart _ c | .contextRestore _ c => coreOk c
  | .inboundPeerAccess k e _ _ _ | .expWrite k e _ => devOk k && decide (e < 4096)
  | .pageInComplete k _ | .copyAsideComplete k _ | .gracePeriodStart k | .gracePeriodComplete k | .retireAction k
  | .clkptWrite k _ | .clockStretchDone k | .hcshareWrite k _ | .dawnRequest k _ | .launchAbort k _
  | .invalPage k _ _ _ | .invalSpace k _ | .invalAll k | .invalComplete k | .resolveResolved k _ _
  | .resolveUnresolvable k _ _ | .faultQueueConsume k _ | .faultQueueEnable k | .poolReturnPush k | .podReplay k _
  | .podmemWrite k _ => devOk k
  | .pwinWrite k w _ => devOk k && decide (w < 64)
  | .queueEnable k q | .queueDisable k q | .queueKick k q _ | .packetFetch k q | .launchPacket k q | .waitPacket k q
  | .waitConditionMet k q | .signalPacket k q | .writeThenSignalPacket k q | .copyPacket k q | .handoverPacket k q
  | .fencePacket k q | .dawnPacket k q | .sliceExpiry k q | .queueOwnershipPass k q | .queueReturnHome k q =>
    devOk k && decide (q < 256)
  | .stealRequest d k q => dieOk d && devOk k && decide (q < 256)
  | .meshArbitration d x y o => meshOk d x y && decide (o < 5)
  | .packetUrgent d x y i v => meshOk d x y && decide (i < 5) && decide (v < 4)
  | .cxlPortEnable p | .cxlPortDisable p | .cxlTrainingDone p _ _ => decide (p < 4)
  | .mailboxMessage d _ | .heartbeatSend d | .thermalStop d _ | .thermalRestart d _ => dieOk d
  | .pendretSet d j => dieOk d && decide (j < 160)
  | .monitorSample d m _ | .monitorClear d m | .monitorConfigure d m _ _ => dieOk d && decide (m < 16)
  | .peerLinkEnable l | .peerLinkDisable l | .peerLinkTrained l _ | .heartbeatTimeout l | .heartbeatReceive l =>
    decide (l < 16)
  | .peerTrafficRelay k l n _ => devOk k && decide (l < 16) && decide (n < 1024)
  | _ => true

/-- A well-formed instruction. -/
def wellFormed (i : Instr) : Bool :=
  match Machine.view i with
  | .word .. => Machine.wellFormedIn false i || Machine.wellFormedIn true i
  | .event => eventOk i

end Sys2Proof
end

