-- ==== Sys2Proof/Decode.lean ====
section
/-! DEFINITION. The decoder: from the words of a clause to an instruction or a named refusal (R177, R184 to R194), and
after it the encoder, from the same tables. A word means something only with its clause's page (R174). -/

namespace Sys2Proof

/-- Why words decode to nothing: the opcode is unassigned (R192), the extension words pass the end of the clause
(R177), or a field has a value its instruction does not take (R184 to R189, R194). -/
inductive DecodeError where
  | unassigned | overrun | fields
  deriving DecidableEq, Repr

/-- The fields of an F3 word (Table 9.2). -/
def f3Of (w : Word) : F3 :=
  ⟨w.extractLsb' 18 7, w.extractLsb' 11 7, w.extractLsb' 4 7, w.extractLsb' 1 3, w.extractLsb' 0 1⟩
/-- The fields of an F2I word. -/
def f2iOf (w : Word) : F2I :=
  ⟨w.extractLsb' 18 7, w.extractLsb' 11 7, w.extractLsb' 4 7, w.extractLsb' 1 3, w.extractLsb' 0 1⟩
/-- The fields of an FS word. -/
def fsOf (w : Word) : FS := ⟨w.extractLsb' 20 5, w.extractLsb' 15 5, w.extractLsb' 10 5, w.extractLsb' 0 10⟩
/-- The fields of an FB word. -/
def fbOf (w : Word) : FB := ⟨w.extractLsb' 22 3, w.extractLsb' 21 1, w.extractLsb' 0 21⟩
/-- The fields of an FQ word. -/
def fqOf (w : Word) : FQ :=
  ⟨w.extractLsb' 20 5, w.extractLsb' 15 5, w.extractLsb' 11 4, w.extractLsb' 7 4, w.extractLsb' 0 7⟩
/-- The fields of an XM word (Table 9.3). -/
def xmOf (w : Word) : XM :=
  ⟨w.extractLsb' 25 7, w.extractLsb' 22 3, w.extractLsb' 21 1, w.extractLsb' 18 3, w.extractLsb' 15 3,
    w.extractLsb' 0 15⟩

/-- The opcode of a word, bits [31:25] in every format. -/
def opOf (w : Word) : Nat := (w.extractLsb' 25 7).toNat

/-- The VALU page (Table 9.8): the instruction of an opcode, its word and its extension words. -/
def buildValu (op : Nat) (w x l : Word) : Option Instr :=
  match op with
  | 0x0 => some (.iadd (f3Of w) (xmOf x))
  | 0x1 => some (.isub (f3Of w) (xmOf x))
  | 0x2 => some (.imul (f3Of w) (xmOf x))
  | 0x3 => some (.imulhi (f3Of w) (xmOf x))
  | 0x4 => some (.imad (f3Of w) (xmOf x))
  | 0x5 => some (.imin (f3Of w) (xmOf x))
  | 0x6 => some (.imax (f3Of w) (xmOf x))
  | 0x7 => some (.iaddc (f3Of w) (xmOf x))
  | 0x8 => some (.and_ (f3Of w))
  | 0x9 => some (.or_ (f3Of w))
  | 0xa => some (.xor_ (f3Of w))
  | 0xb => some (.andn (f3Of w))
  | 0xc => some (.shl (f3Of w))
  | 0xd => some (.shr (f3Of w))
  | 0xe => some (.sar (f3Of w))
  | 0xf => some (.rotl (f3Of w))
  | 0x10 => some (.bfx (f3Of w) (xmOf x))
  | 0x11 => some (.bfi (f3Of w) (xmOf x))
  | 0x12 => some (.prmt (f3Of w) (xmOf x))
  | 0x13 => some (.lea (f3Of w) (xmOf x))
  | 0x14 => some (.icmp (f3Of w) (xmOf x))
  | 0x15 => some (.sel (f3Of w) (xmOf x))
  | 0x16 => some (.mov (f3Of w))
  | 0x17 => some (.hash32 (f3Of w) (xmOf x))
  | 0x18 => some (.fadd (f3Of w) (xmOf x))
  | 0x19 => some (.fsub (f3Of w) (xmOf x))
  | 0x1a => some (.fmul (f3Of w) (xmOf x))
  | 0x1b => some (.ffma (f3Of w) (xmOf x))
  | 0x1c => some (.fmin (f3Of w) (xmOf x))
  | 0x1d => some (.fmax (f3Of w) (xmOf x))
  | 0x1e => some (.fcmp (f3Of w) (xmOf x))
  | 0x1f => some (.fscale (f3Of w) (xmOf x))
  | 0x20 => some (.padd (f3Of w) (xmOf x))
  | 0x21 => some (.pmul (f3Of w) (xmOf x))
  | 0x22 => some (.pfma (f3Of w) (xmOf x))
  | 0x23 => some (.cvt (f3Of w) (xmOf x))
  | 0x30 => some (.iabs (f3Of w) (xmOf x))
  | 0x31 => some (.ineg (f3Of w) (xmOf x))
  | 0x32 => some (.not_ (f3Of w))
  | 0x33 => some (.popc (f3Of w))
  | 0x34 => some (.clz (f3Of w))
  | 0x35 => some (.brev (f3Of w))
  | 0x36 => some (.fclass (f3Of w) (xmOf x))
  | 0x37 => some (.frnd (f3Of w) (xmOf x))
  | 0x38 => some (.frcp (f3Of w) (xmOf x))
  | 0x39 => some (.frsq (f3Of w) (xmOf x))
  | 0x3a => some (.fsqrt (f3Of w) (xmOf x))
  | 0x3b => some (.fexp2 (f3Of w) (xmOf x))
  | 0x3c => some (.flog2 (f3Of w) (xmOf x))
  | 0x3d => some (.fsin (f3Of w) (xmOf x))
  | 0x3e => some (.fcos (f3Of w) (xmOf x))
  | 0x3f => some (.ftanh (f3Of w) (xmOf x))
  | 0x40 => some (.iaddLiteral (f3Of w) (xmOf x) l)
  | 0x41 => some (.isubLiteral (f3Of w) (xmOf x) l)
  | 0x42 => some (.imulLiteral (f3Of w) (xmOf x) l)
  | 0x43 => some (.imulhiLiteral (f3Of w) (xmOf x) l)
  | 0x44 => some (.imadLiteral (f3Of w) (xmOf x) l)
  | 0x45 => some (.iminLiteral (f3Of w) (xmOf x) l)
  | 0x46 => some (.imaxLiteral (f3Of w) (xmOf x) l)
  | 0x47 => some (.iaddcLiteral (f3Of w) (xmOf x) l)
  | 0x48 => some (.andLiteral (f3Of w) x)
  | 0x49 => some (.orLiteral (f3Of w) x)
  | 0x4a => some (.xorLiteral (f3Of w) x)
  | 0x4b => some (.andnLiteral (f3Of w) x)
  | 0x4c => some (.shlLiteral (f3Of w) x)
  | 0x4d => some (.shrLiteral (f3Of w) x)
  | 0x4e => some (.sarLiteral (f3Of w) x)
  | 0x4f => some (.rotlLiteral (f3Of w) x)
  | 0x50 => some (.bfxLiteral (f3Of w) (xmOf x) l)
  | 0x51 => some (.bfiLiteral (f3Of w) (xmOf x) l)
  | 0x52 => some (.prmtLiteral (f3Of w) (xmOf x) l)
  | 0x53 => some (.leaLiteral (f3Of w) (xmOf x) l)
  | 0x54 => some (.icmpLiteral (f3Of w) (xmOf x) l)
  | 0x55 => some (.selLiteral (f3Of w) (xmOf x) l)
  | 0x56 => some (.movLiteral (f3Of w) x)
  | 0x57 => some (.hash32Literal (f3Of w) (xmOf x) l)
  | 0x58 => some (.faddLiteral (f3Of w) (xmOf x) l)
  | 0x59 => some (.fsubLiteral (f3Of w) (xmOf x) l)
  | 0x5a => some (.fmulLiteral (f3Of w) (xmOf x) l)
  | 0x5b => some (.ffmaLiteral (f3Of w) (xmOf x) l)
  | 0x5c => some (.fminLiteral (f3Of w) (xmOf x) l)
  | 0x5d => some (.fmaxLiteral (f3Of w) (xmOf x) l)
  | 0x5e => some (.fcmpLiteral (f3Of w) (xmOf x) l)
  | 0x5f => some (.fscaleLiteral (f3Of w) (xmOf x) l)
  | 0x60 => some (.paddLiteral (f3Of w) (xmOf x) l)
  | 0x61 => some (.pmulLiteral (f3Of w) (xmOf x) l)
  | 0x62 => some (.pfmaLiteral (f3Of w) (xmOf x) l)
  | 0x63 => some (.cvtLiteral (f3Of w) (xmOf x) l)
  | 0x70 => some (.movi (f2iOf w))
  | 0x71 => some (.qnt (f3Of w) (xmOf x))
  | 0x72 => some (.dqnt (f3Of w) (xmOf x))
  | 0x73 => some (.pack (f3Of w) (xmOf x))
  | 0x74 => some (.unpk (f3Of w) (xmOf x))
  | 0x75 => some (.shfl (f3Of w) (xmOf x))
  | 0x76 => some (.bcast (f3Of w) (xmOf x))
  | 0x77 => some (.vote (f3Of w) (xmOf x))
  | 0x78 => some (.redadd (f3Of w) (xmOf x))
  | 0x79 => some (.redmin (f3Of w) (xmOf x))
  | 0x7a => some (.redmax (f3Of w) (xmOf x))
  | 0x7b => some (.redmini (f3Of w) (xmOf x))
  | 0x7c => some (.redmaxi (f3Of w) (xmOf x))
  | 0x7d => some (.scan (f3Of w) (xmOf x))
  | 0x7e => some (.match_ (f3Of w) (xmOf x))
  | _ => none

/-- The SCALAR page (Table 9.9): the instruction of an opcode, its word and its extension words. -/
def buildScalar (op : Nat) (w x _l : Word) : Option Instr :=
  match op with
  | 0x0 => some (.sadd (fsOf w))
  | 0x1 => some (.ssub (fsOf w))
  | 0x2 => some (.smul (fsOf w))
  | 0x3 => some (.sand (fsOf w))
  | 0x4 => some (.sor (fsOf w))
  | 0x5 => some (.sxor (fsOf w))
  | 0x6 => some (.sshl (fsOf w))
  | 0x7 => some (.sshr (fsOf w))
  | 0x8 => some (.ssar (fsOf w))
  | 0x9 => some (.smin (fsOf w))
  | 0xa => some (.smax (fsOf w))
  | 0xb => some (.scmp (fsOf w))
  | 0xc => some (.ssel (fsOf w))
  | 0xd => some (.smov (fsOf w))
  | 0xe => some (.smovi (fsOf w))
  | 0xf => some (.sld (fsOf w))
  | 0x10 => some (.readlane (fsOf w))
  | 0x11 => some (.sbcast (fsOf w))
  | 0x40 => some (.saddLiteral (fsOf w) x)
  | 0x41 => some (.ssubLiteral (fsOf w) x)
  | 0x42 => some (.smulLiteral (fsOf w) x)
  | 0x43 => some (.sandLiteral (fsOf w) x)
  | 0x44 => some (.sorLiteral (fsOf w) x)
  | 0x45 => some (.sxorLiteral (fsOf w) x)
  | 0x46 => some (.sshlLiteral (fsOf w) x)
  | 0x47 => some (.sshrLiteral (fsOf w) x)
  | 0x48 => some (.ssarLiteral (fsOf w) x)
  | 0x49 => some (.sminLiteral (fsOf w) x)
  | 0x4a => some (.smaxLiteral (fsOf w) x)
  | 0x4b => some (.scmpLiteral (fsOf w) x)
  | 0x4c => some (.sselLiteral (fsOf w) x)
  | 0x4d => some (.smovLiteral (fsOf w) x)
  | _ => none

/-- The CONTROL page (Table 9.10): the instruction of an opcode, its word and its extension words. -/
def buildControl (op : Nat) (w x _l : Word) : Option Instr :=
  match op with
  | 0x0 => some (.bra (fbOf w))
  | 0x1 => some (.brp (fbOf w))
  | 0x2 => some (.call (fbOf w))
  | 0x3 => some (.jmpi (f3Of w))
  | 0x4 => some (.ret (f3Of w))
  | 0x5 => some (.exit (f3Of w))
  | 0x6 => some (.trap (f2iOf w))
  | 0x7 => some (.rconv (f3Of w))
  | 0x8 => some (.yield (f3Of w))
  | 0x9 => some (.nop (f3Of w))
  | 0xa => some (.sleep (f3Of w))
  | 0xb => some (.fork (f3Of w) (xmOf x))
  | 0xc => some (.join_ (f3Of w))
  | 0xd => some (.spawn (f3Of w) (xmOf x))
  | _ => none

/-- The MEMORY page (Table 9.11): the instruction of an opcode, its word and its extension words. -/
def buildMemory (op : Nat) (w x _l : Word) : Option Instr :=
  match op with
  | 0x0 => some (.ldPair (f3Of w) (xmOf x))
  | 0x1 => some (.stPair (f3Of w) (xmOf x))
  | 0x2 => some (.ldaPair (f3Of w) (xmOf x))
  | 0x3 => some (.stlPair (f3Of w) (xmOf x))
  | 0x4 => some (.atomPair (f3Of w) (xmOf x))
  | 0x5 => some (.atomnPair (f3Of w) (xmOf x))
  | 0x6 => some (.casPair (f3Of w) (xmOf x))
  | 0x7 => some (.pref (f3Of w) (xmOf x))
  | 0x8 => some (.ldLocal (f3Of w) (xmOf x))
  | 0x9 => some (.stLocal (f3Of w) (xmOf x))
  | 0xa => some (.ldaLocal (f3Of w) (xmOf x))
  | 0xb => some (.stlLocal (f3Of w) (xmOf x))
  | 0xc => some (.atomLocal (f3Of w) (xmOf x))
  | 0xd => some (.atomnLocal (f3Of w) (xmOf x))
  | 0xe => some (.casLocal (f3Of w) (xmOf x))
  | 0x10 => some (.publish (f3Of w) (xmOf x))
  | 0x11 => some (.fence (f3Of w) (xmOf x))
  | 0x12 => some (.fencex (f3Of w) (xmOf x))
  | 0x13 => some (.rdenter (f3Of w))
  | 0x14 => some (.rdexit (f3Of w))
  | 0x15 => some (.retire (f3Of w) (xmOf x))
  | 0x16 => some (.grace (f3Of w))
  | 0x17 => some (.append (f3Of w) (xmOf x))
  | 0x18 => some (.acommit (f3Of w) (xmOf x))
  | 0x19 => some (.ahead (f3Of w) (xmOf x))
  | 0x1a => some (.bara (f2iOf w))
  | 0x1b => some (.barw (f2iOf w))
  | 0x1c => some (.bar (f2iOf w))
  | 0x1d => some (.wqpush (f3Of w) (xmOf x))
  | 0x1e => some (.wqpop (f3Of w) (xmOf x))
  | 0x21 => some (.chclose (f2iOf w))
  | 0x22 => some (.send (f2iOf w))
  | 0x23 => some (.recv (f2iOf w))
  | 0x24 => some (.chfence (f2iOf w))
  | 0x20 => some (if w.getLsbD 10 then .chopenRx (f2iOf w) else .chopenTx (f2iOf w))
  | _ => none

/-- The COPY page (Table 9.12): the instruction of an opcode, its word and its extension words. -/
def buildCopy (op : Nat) (w x _l : Word) : Option Instr :=
  match op with
  | 0x0 => some (.cpld (f3Of w) (xmOf x))
  | 0x1 => some (.cpst (f3Of w) (xmOf x))
  | 0x2 => some (.cpgather (f3Of w) (xmOf x))
  | 0x3 => some (.cpscatter (f3Of w) (xmOf x))
  | 0x4 => some (.cpfill (f3Of w) (xmOf x))
  | 0x5 => some (.cppagein (f3Of w) (xmOf x))
  | 0x6 => some (.cpstat (f3Of w) (xmOf x))
  | 0x7 => some (.cphand (f3Of w) (xmOf x))
  | 0x8 => some (.cpcancel (f3Of w) (xmOf x))
  | _ => none

/-- The MATRIX page (Table 9.13): the instruction of an opcode, its word and its extension words. -/
def buildMatrix (op : Nat) (w _x _l : Word) : Option Instr :=
  match op with
  | 0x0 => some (.mclaim (fqOf w))
  | 0x1 => some (.mrel (fqOf w))
  | 0x3 => some (.mzero (fqOf w))
  | 0x4 => some (.mdrain (fqOf w))
  | 0x5 => some (.mwait (fqOf w))
  | 0x6 => some (.mstat (fqOf w))
  | 0x7 => some (.mscl (fqOf w))
  | 0x8 => some (.mscacc (fqOf w))
  | 0x9 => some (.mhad (fqOf w))
  | 0xa => some (.mmb (fqOf w))
  | 0x10 => some (.mmaBf16 (fqOf w))
  | 0x11 => some (.mmaF16 (fqOf w))
  | 0x12 => some (.mmaI8 (fqOf w))
  | 0x13 => some (.mmaP8 (fqOf w))
  | 0x14 => some (.mmaE2m1 (fqOf w))
  | 0x15 => some (.mmaMxp8 (fqOf w))
  | 0x16 => some (.mmaMxe2m1 (fqOf w))
  | 0x2 => some (if w.getLsbD 6 then .mfillArg (fqOf w) else .mfill (fqOf w))
  | _ => none

/-- The SYSTEM page (Table 9.14): the instruction of an opcode, its word and its extension words. -/
def buildSystem (op : Nat) (w x _l : Word) : Option Instr :=
  match op with
  | 0x0 => some (.csrrd (f3Of w) (xmOf x))
  | 0x1 => some (.csrwr (f3Of w) (xmOf x))
  | 0x2 => some (.treturn (f3Of w))
  | 0x3 => some (.cycle (f3Of w))
  | 0x4 => some (.genq (f3Of w))
  | 0x5 => some (.dbgbrk (f2iOf w))
  | 0x6 => some (.ckpt (f3Of w))
  | 0x7 => some (.rollbk (f3Of w))
  | 0x8 => some (.sigrd (f3Of w))
  | 0x9 => some (.suspq (f3Of w))
  | 0xa => some (.spstat (f3Of w))
  | 0x10 => some (.regacq (fsOf w))
  | 0x11 => some (.regrel (fsOf w))
  | 0x12 => some (.spbegin (fsOf w))
  | 0x13 => some (.spguess (fsOf w))
  | 0x14 => some (.spcmp (fsOf w))
  | 0x15 => some (.spend (fsOf w))
  | _ => none

/-- The instruction that a page, a first word and two following words would make, before any check. -/
def build (page : Nat) (w x l : Word) : Option Instr :=
  match page with
  | 0 => buildValu (opOf w) w x l
  | 1 => buildScalar (opOf w) w x l
  | 2 => buildControl (opOf w) w x l
  | 3 => buildMemory (opOf w) w x l
  | 4 => buildCopy (opOf w) w x l
  | 5 => buildMatrix (opOf w) w x l
  | 6 => buildSystem (opOf w) w x l
  | _ => none

/-- Decode the first instruction of the words that remain in a clause of a page: the instruction and how many words
it takes, or why there is none. `seq` is a sequencer's stream. Total on any words. -/
def decode (seq : Bool) (page : Nat) (ws : List Word) : Except DecodeError (Instr × Nat) :=
  match build page (ws.getD 0 0) (ws.getD 1 0) (ws.getD 2 0) with
  | none => .error .unassigned
  | some i =>
    if ws.length < Machine.wordCount i then .error .overrun
    else if Machine.wellFormedIn seq i then .ok (i, Machine.wordCount i)
    else .error .fields

/-- A 32-bit word of the little-endian bytes of memory (R5). -/
def wordOfBytes (b : List Byte) : Word := b.getD 3 0 ++ b.getD 2 0 ++ b.getD 1 0 ++ b.getD 0 0

/-- The first word of an F3 instruction. -/
def f3Word (op : Nat) (f : F3) : Word := BitVec.ofNat 7 op ++ f.d ++ f.a ++ f.b ++ f.pr ++ f.pn
/-- The word of an F2I instruction. -/
def f2iWord (op : Nat) (f : F2I) : Word := BitVec.ofNat 7 op ++ f.d ++ f.a ++ f.imm ++ f.pr ++ f.pn
/-- The word of an FS instruction. -/
def fsWord (op : Nat) (f : FS) : Word := BitVec.ofNat 7 op ++ f.d ++ f.a ++ f.b ++ f.imm
/-- The word of an FB instruction. -/
def fbWord (op : Nat) (f : FB) : Word := BitVec.ofNat 7 op ++ f.pr ++ f.pn ++ f.off
/-- The word of an FQ instruction. -/
def fqWord (op : Nat) (f : FQ) : Word := BitVec.ofNat 7 op ++ f.qa ++ f.qb ++ f.x ++ f.y ++ f.mode
/-- An XM word. -/
def xmWord (x : XM) : Word := x.c ++ x.round ++ x.sat ++ x.scope ++ x.size ++ x.off

/-- The words of an instruction (Tables 9.2, 9.8 to 9.14); an event has none. -/
def encode (i : Instr) : List Word :=
  match Machine.view i with
  | .word _ op (.f3 f) => [f3Word op f]
  | .word _ op (.f3x f x) => [f3Word op f, xmWord x]
  | .word _ op (.f3l f l) => [f3Word op f, l]
  | .word _ op (.f3xl f x l) => [f3Word op f, xmWord x, l]
  | .word _ op (.f2i f) => [f2iWord op f]
  | .word _ op (.fs f) => [fsWord op f]
  | .word _ op (.fsl f l) => [fsWord op f, l]
  | .word _ op (.fb f) => [fbWord op f]
  | .word _ op (.fq f) => [fqWord op f]
  | .event => []

/-- The page an instruction's word stands on (Table 9.1). -/
def pageOf (i : Instr) : Nat :=
  match Machine.view i with
  | .word page _ _ => page
  | .event => 7

/-- The clause header of a page and a word count, with no waits, at priority 0 (Table 9.1). -/
def plainHeader (page count : Nat) : Word := BitVec.ofNat 3 page ++ BitVec.ofNat 4 count ++ (0 : BitVec 25)

/-- How many bits spec/opcode_table.json fixes in a row's word. -/
def fixedBits (i : Instr) : Nat :=
  match Machine.view i with
  | .word 0 0x8 _ => 7
  | .word 0 0x9 _ => 7
  | .word 0 0xa _ => 7
  | .word 0 0xb _ => 7
  | .word 0 0xc _ => 7
  | .word 0 0xd _ => 7
  | .word 0 0xe _ => 7
  | .word 0 0xf _ => 7
  | .word 0 0x16 _ => 14
  | .word 0 0x32 _ => 14
  | .word 0 0x33 _ => 14
  | .word 0 0x34 _ => 14
  | .word 0 0x35 _ => 14
  | .word 0 0x70 _ => 14
  | .word 1 0x0 _ => 17
  | .word 1 0x1 _ => 17
  | .word 1 0x2 _ => 17
  | .word 1 0x3 _ => 17
  | .word 1 0x4 _ => 17
  | .word 1 0x5 _ => 17
  | .word 1 0x6 _ => 17
  | .word 1 0x7 _ => 17
  | .word 1 0x8 _ => 17
  | .word 1 0x9 _ => 16
  | .word 1 0xa _ => 16
  | .word 1 0xb _ => 13
  | .word 1 0xc _ => 12
  | .word 1 0xd _ => 22
  | .word 1 0xe _ => 17
  | .word 1 0xf _ => 12
  | .word 1 0x10 _ => 15
  | .word 1 0x11 _ => 20
  | .word 2 0x0 _ => 7
  | .word 2 0x1 _ => 7
  | .word 2 0x2 _ => 7
  | .word 2 0x3 _ => 14
  | .word 2 0x4 _ => 21
  | .word 2 0x5 _ => 28
  | .word 2 0x6 _ => 21
  | .word 2 0x7 _ => 32
  | .word 2 0x8 _ => 32
  | .word 2 0x9 _ => 28
  | .word 2 0xa _ => 21
  | .word 2 0xc _ => 14
  | .word 3 0x13 _ => 28
  | .word 3 0x14 _ => 28
  | .word 3 0x16 _ => 28
  | .word 3 0x1a _ => 10
  | .word 3 0x1b _ => 17
  | .word 3 0x1c _ => 17
  | .word 3 0x20 _ => 15
  | .word 3 0x21 _ => 22
  | .word 3 0x22 _ => 15
  | .word 3 0x23 _ => 15
  | .word 3 0x24 _ => 22
  | .word 5 0x0 _ => 27
  | .word 5 0x1 _ => 27
  | .word 5 0x2 _ => 23
  | .word 5 0x3 _ => 28
  | .word 5 0x4 _ => 15
  | .word 5 0x5 _ => 32
  | .word 5 0x6 _ => 26
  | .word 5 0x7 _ => 23
  | .word 5 0x8 _ => 30
  | .word 5 0x9 _ => 24
  | .word 5 0xa _ => 17
  | .word 5 0x10 _ => 18
  | .word 5 0x11 _ => 18
  | .word 5 0x12 _ => 16
  | .word 5 0x13 _ => 13
  | .word 5 0x14 _ => 18
  | .word 5 0x15 _ => 12
  | .word 5 0x16 _ => 16
  | .word 6 0x2 _ => 32
  | .word 6 0x3 _ => 21
  | .word 6 0x4 _ => 21
  | .word 6 0x5 _ => 21
  | .word 6 0x6 _ => 28
  | .word 6 0x7 _ => 28
  | .word 6 0x8 _ => 21
  | .word 6 0x9 _ => 21
  | .word 6 0xa _ => 21
  | .word 6 0x10 _ => 22
  | .word 6 0x11 _ => 32
  | .word 6 0x12 _ => 12
  | .word 6 0x13 _ => 28
  | .word 6 0x14 _ => 32
  | .word 6 0x15 _ => 32
  | .word .. => 7
  | .event => 0

/-- Of two readings of a word, the one whose row fixes more of its bits. -/
def moreFixed (a b : Option Instr) : Option Instr :=
  match a, b with
  | some i, some j => if fixedBits i < fixedBits j then some j else some i
  | some i, none => some i
  | none, b => b

/-- The instruction this decoder reads from words on a page, as the first of a clause that holds exactly the words
it takes: in a warp's stream where that takes it, else in a sequencer's. -/
def decodeOnPage (page : Nat) (ws : List Word) : Option Instr :=
  match decode false page ws with
  | .ok (i, _) => some i
  | .error _ =>
    match decode true page ws with
    | .ok (i, _) => some i
    | .error _ => none

/-- The words of an instruction whose bits are `w`, zero above `nbits`. -/
def tableWords (nbits w : Nat) : List Word :=
  (List.range 3).map fun n => BitVec.ofNat 32 ((w % 2 ^ nbits) / 2 ^ (32 * n))

/-- The instruction read from the bits of an opcode-table word. The table gives no page, and a word's meaning
depends on it (R174, R177): of the pages' readings the one whose row fixes most bits is taken (log 8). An
instruction with extension words is read only where the bits reach past the first word. -/
def decodeTableWord (nbits w : Nat) : Option Instr :=
  ((List.range 7).map fun p =>
    match decodeOnPage p (tableWords nbits w) with
    | some i => if 32 < nbits ∨ Machine.wordCount i = 1 then some i else none
    | none => none).foldl moreFixed none

end Sys2Proof
end

