-- ==== Sys2Proof/Machine/Num.lean ====
section
/-! DEFINITION. Number formats and rounding (R154 to R166): exact values, the one rounding of an exact value to a
format, and the exact operations from which every arithmetic instruction is built. -/

namespace Sys2Proof.Machine

/-- An exact value: a NaN (signalling or not), an infinity, or ± m × 2^e. A sign is kept for zero. -/
inductive Exact where
  | nan (signalling : Bool)
  | inf (neg : Bool)
  | fin (neg : Bool) (m : Nat) (e : Int)
  deriving DecidableEq, Repr

/-- A floating format (R155, R157 to R160). `p8` carries the precision, unsignedness and whether .inf is selected. -/
inductive Fmt where
  | f32 | f16 | bf16 | e2m1 | p8 (p : Nat) (unsigned inf : Bool)
  deriving DecidableEq, Repr

/-- Trailing significand bits t (Tables 8.1, 8.5, R157). -/
def Fmt.t : Fmt → Nat
  | .f32 => 23 | .f16 => 10 | .bf16 => 7 | .e2m1 => 1 | .p8 p _ _ => p - 1

/-- Exponent bias b (Table 8.1, R157, R158, R160). -/
def Fmt.bias : Fmt → Nat
  | .f32 => 127 | .f16 => 15 | .bf16 => 127 | .e2m1 => 1 | .p8 p u _ => 2 ^ ((if u then 8 else 7) - p)

/-- Bits of an element. -/
def Fmt.bits : Fmt → Nat
  | .f32 => 32 | .f16 => 16 | .bf16 => 16 | .e2m1 => 4 | .p8 .. => 8

/-- Does a code carry a sign bit? Unsigned binary8pP has none (R158). -/
def Fmt.signed : Fmt → Bool
  | .p8 _ u _ => !u
  | .f32 | .f16 | .bf16 | .e2m1 => true

/-- The magnitude code of the largest finite value (Tables 8.1, 8.3, 8.4, 8.5). -/
def Fmt.maxCode : Fmt → Nat
  | .f32 => 0x7F7F_FFFF | .f16 => 0x7BFF | .bf16 => 0x7F7F | .e2m1 => 7
  | .p8 _ u inf => (if u then 0xFE else 0x7F) - (if inf then 1 else 0)

/-- The canonical NaN; FP4 has none and takes 0 (R155, R157, R158, Table 8.7). -/
def Fmt.nanCode : Fmt → Nat
  | .f32 => 0x7FC0_0000 | .f16 => 0x7E00 | .bf16 => 0x7FC0 | .e2m1 => 0
  | .p8 _ u _ => if u then 0xFF else 0x80

/-- Does the format have infinities? -/
def Fmt.hasInf : Fmt → Bool
  | .f32 | .f16 | .bf16 => true
  | .e2m1 => false
  | .p8 _ _ inf => inf

/-- The exponent of one unit of the smallest subnormal, 1 − b − t. -/
def Fmt.umin (f : Fmt) : Int := 1 - (f.bias : Int) - (f.t : Int)

/-- Put the sign on a magnitude code; binary8pP has no negative zero (R157). -/
def Fmt.withSign (f : Fmt) (neg : Bool) (c : Nat) : Nat :=
  match f with
  | .p8 _ u _ => if neg && !u && c ≠ 0 then c + 128 else c
  | .f32 | .f16 | .bf16 | .e2m1 => if neg then c + 2 ^ (f.bits - 1) else c

/-- The code of an infinity. -/
def Fmt.infCode (f : Fmt) (neg : Bool) : Nat :=
  match f with
  | .p8 _ u _ => f.withSign neg (if u then 0xFE else 0x7F)
  | .f32 | .f16 | .bf16 | .e2m1 => f.withSign neg (f.maxCode + 1)

/-- The value of a finite magnitude code (R155, R157, R160). -/
def Fmt.magnitude (f : Fmt) (neg : Bool) (c : Nat) : Exact :=
  let e := c / 2 ^ f.t
  let tr := c % 2 ^ f.t
  if e = 0 then .fin neg tr f.umin else .fin neg (2 ^ f.t + tr) (f.umin + (e : Int) - 1)

/-- The exact value of a code (R155, R157 to R160). Bits above the format's are ignored (R201). -/
def Fmt.decode (f : Fmt) (x : Nat) : Exact :=
  let x := x % 2 ^ f.bits
  match f with
  | .p8 _ true inf =>
    if x = 0xFF then .nan false else if inf && x == 0xFE then .inf false else f.magnitude false x
  | .p8 _ false inf =>
    if x = 0x80 then .nan false
    else if inf && x % 128 == 0x7F then .inf (decide (128 ≤ x))
    else f.magnitude (decide (128 ≤ x)) (x % 128)
  | .e2m1 => f.magnitude (decide (8 ≤ x)) (x % 8)
  | .f32 | .f16 | .bf16 =>
    let m := x % 2 ^ (f.bits - 1)
    let neg := decide (2 ^ (f.bits - 1) ≤ x)
    if m ≤ f.maxCode then f.magnitude neg m
    else if m = f.maxCode + 1 then .inf neg
    else .nan (decide (m / 2 ^ (f.t - 1) % 2 = 0))

/-- The five flags of Table 8.8: NX, UF, OF, DZ, NV at bits 0 to 4. -/
abbrev Flags := BitVec 5
/-- NX. -/
def fNX : Flags := 1
/-- UF. -/
def fUF : Flags := 2
/-- OF. -/
def fOF : Flags := 4
/-- DZ. -/
def fDZ : Flags := 8
/-- NV. -/
def fNV : Flags := 16

/-- Rounding modes (Table 8.6). SR carries its random value (R164). -/
inductive RMode where
  | rne | rtz | rdn | rup | sr (u : Nat)
  deriving DecidableEq, Repr

/-- The mode of a round field code 0 to 3. -/
def RMode.ofCode (n : Nat) : RMode :=
  if n = 1 then .rtz else if n = 2 then .rdn else if n = 3 then .rup else .rne

/-- m × 2^e in units of 2^u: the floor and the rest as a 16-bit fraction with a sticky part. The shift is bounded by
the size of m, so a value far below one unit costs nothing. -/
def splitUnits (m : Nat) (e u : Int) : Nat × Nat × Bool :=
  if u ≤ e then (m * 2 ^ (e - u).toNat, 0, false)
  else
    let k := (u - e).toNat
    if m.log2 + 17 < k then (0, 0, decide (m ≠ 0))
    else
      let x := m * 65536
      let q := x / 2 ^ k
      (q / 65536, q % 65536, decide (x % 2 ^ k ≠ 0))

/-- Whether a magnitude with floor code `c`, fraction `f`/65536 and sticky part rounds up (Table 8.6, R164). -/
def roundsUp (mode : RMode) (neg : Bool) (c f : Nat) (sticky : Bool) : Bool :=
  match mode with
  | .rne => decide (32768 < f) || (decide (f = 32768) && (sticky || decide (c % 2 = 1)))
  | .rtz => false
  | .rdn => neg && (decide (f ≠ 0) || sticky)
  | .rup => !neg && (decide (f ≠ 0) || sticky)
  | .sr u => decide (65536 ≤ f + u)

/-- The exponent of the unit in which a nonzero m × 2^e of a format is counted: t below its leading bit, and not
below the smallest subnormal's. -/
def unitOf (f : Fmt) (m : Nat) (e : Int) : Int := max (e + (m.log2 : Int) - (f.t : Int)) f.umin

/-- A tie above the largest finite magnitude follows R163: it rounds up under RNE, whatever its code (R162). -/
def tieAbove (f : Fmt) (mode : RMode) (c part : Nat) (sticky : Bool) : Bool :=
  match mode with
  | .rne => decide (f.maxCode ≤ c ∧ part = 32768) && !sticky
  | .rtz | .rdn | .rup | .sr _ => false

/-- The magnitude code of m × 2^e rounded with no upper bound, and whether it was inexact. -/
def roundCode (f : Fmt) (mode : RMode) (neg : Bool) (m : Nat) (e : Int) : Nat × Bool :=
  if m = 0 then (0, false)
  else
    let u := unitOf f m e
    let s := splitUnits m e u
    let c := (u - f.umin).toNat * 2 ^ f.t + s.1
    (if roundsUp mode neg c s.2.1 s.2.2 || tieAbove f mode c s.2.1 s.2.2 then c + 1 else c, decide (s.2.1 ≠ 0) || s.2.2)

/-- Tiny after rounding (UF of Table 8.8): rounded with an unbounded exponent the magnitude is below the smallest
normal. With no trailing bit a tie just below that goes down, to the even exponent field 0 (R162). -/
def tinyAfter (f : Fmt) (mode : RMode) (neg : Bool) (m : Nat) (e : Int) : Bool :=
  if m = 0 then false
  else
    let u := e + (m.log2 : Int) - (f.t : Int)
    if f.umin ≤ u then false
    else
      let s := splitUnits m e u
      let q := if roundsUp mode neg (if f.t = 0 then 0 else s.1) s.2.1 s.2.2 then s.1 + 1 else s.1
      decide (u < f.umin - 1) || decide (q < 2 ^ (f.t + 1))

/-- What an overflowing magnitude becomes (R163), in the order of its steps. -/
def overflowCode (f : Fmt) (mode : RMode) (sat neg : Bool) : Nat :=
  let largest := f.withSign neg f.maxCode
  let infinity := if f.hasInf then f.infCode neg else f.nanCode
  if sat then largest
  else
    match f with
    | .e2m1 => largest
    | .f32 | .f16 | .bf16 | .p8 .. =>
      match mode with
      | .rne => infinity
      | .rtz => largest
      | .rdn => if neg then infinity else largest
      | .rup => if neg then largest else infinity
      | .sr _ => infinity

/-- Round(x, fmt, mode) of a finite exact value (R9, R162 to R164) with its flags (R166). -/
def roundFin (f : Fmt) (mode : RMode) (sat neg : Bool) (m : Nat) (e : Int) : Nat × Flags :=
  let r := roundCode f mode neg m e
  if f.maxCode < r.1 then (overflowCode f mode sat neg, fOF ||| fNX)
  else
    (f.withSign neg r.1,
      (if r.2 then fNX else 0) ||| (if r.2 && tinyAfter f mode neg m e then fUF else 0))

/-- The result of an arithmetic instruction from its exact result (R162, R163, R165, R166): a NaN is canonical and
raises nothing here (its cause already did), an infinite result stays infinite where the format has one. -/
def roundExact (f : Fmt) (mode : RMode) (sat : Bool) : Exact → Nat × Flags
  | .nan _ => (f.nanCode, 0)
  | .inf neg => (if f.hasInf then f.infCode neg else f.nanCode, 0)
  | .fin neg m e => roundFin f mode sat neg m e

/-- Conversion of an exact value to a floating format, special values by Table 8.7 (R165). -/
def convertFloat (f : Fmt) (mode : RMode) (sat : Bool) (x : Exact) : Nat × Flags :=
  match x with
  | .nan sg =>
    match f with
    | .e2m1 => (0, fNV)
    | .f32 | .f16 | .bf16 | .p8 .. => (f.nanCode, if sg then fNV else 0)
  | .inf neg =>
    match f with
    | .f32 | .f16 | .bf16 => (f.infCode neg, 0)
    | .e2m1 => (f.withSign neg f.maxCode, fNV)
    | .p8 _ u inf =>
      if u && neg then (if sat then 0 else f.nanCode, fNV)
      else if inf then (f.infCode neg, 0)
      else (if sat then f.withSign neg f.maxCode else f.nanCode, fNV)
  | .fin neg m e =>
    match f with
    | .p8 _ true _ =>
      if neg && m ≠ 0 then
        if (roundCode f mode neg m e).1 = 0 then (0, fUF ||| fNX)
        else (if sat then 0 else f.nanCode, fNV)
      else roundFin f mode sat false m e
    | .f32 | .f16 | .bf16 | .e2m1 | .p8 _ false _ => roundFin f mode sat neg m e

/-- m × 2^e rounded to an integer magnitude. -/
def roundInt (mode : RMode) (neg : Bool) (m : Nat) (e : Int) : Nat :=
  let s := splitUnits m e 0
  if roundsUp mode neg s.1 s.2.1 s.2.2 then s.1 + 1 else s.1

/-- A signed integer of a magnitude. -/
def signedInt (neg : Bool) (n : Nat) : Int := if neg then -(n : Int) else n

/-- Clamp to a range. -/
def clamp (lo hi x : Int) : Int := if x < lo then lo else if hi < x then hi else x

/-- An integer type: width and signedness (R154). -/
structure ITy where
  bits : Nat
  signed : Bool
  deriving DecidableEq, Repr

/-- Smallest value. -/
def ITy.lo (t : ITy) : Int := if t.signed then -(2 ^ (t.bits - 1) : Nat) else 0
/-- Largest value. -/
def ITy.hi (t : ITy) : Int := if t.signed then (2 ^ (t.bits - 1) : Nat) - 1 else (2 ^ t.bits : Nat) - 1

/-- Dec(x, T) for an integer type (R201). -/
def ITy.dec (t : ITy) (x : Word) : Int :=
  let n := x.toNat % 2 ^ t.bits
  if t.signed && decide (2 ^ (t.bits - 1) ≤ n) then (n : Int) - (2 ^ t.bits : Nat) else n

/-- Enc(y, T) of an exact integer: modulo 2^n or clamped, then extended to 32 bits (R154, R201). -/
def ITy.enc (t : ITy) (sat : Bool) (y : Int) : Word :=
  let y := if sat then clamp t.lo t.hi y else y
  let n := (y % (2 ^ t.bits : Nat)).toNat
  if t.signed && decide (2 ^ (t.bits - 1) ≤ n) then BitVec.ofInt 32 ((n : Int) - (2 ^ t.bits : Nat))
  else BitVec.ofNat 32 n

/-- Conversion of a float's exact value to an integer type (Table 8.7, R165): no NX. -/
def convertToInt (t : ITy) (mode : RMode) : Exact → Int × Flags
  | .nan _ => (0, fNV)
  | .inf neg => (if neg then t.lo else t.hi, fNV)
  | .fin neg m e =>
    let y := signedInt neg (roundInt mode neg m e)
    if y < t.lo then (t.lo, fNV) else if t.hi < y then (t.hi, fNV) else (y, 0)

/-- The exact value of an integer. -/
def Exact.ofInt (y : Int) : Exact := .fin (decide (y < 0)) y.natAbs 0

/-! ### Exact operations -/

/-- The integer a finite value is, in units of 2^u, for u not above its exponent. -/
def unitsAt (neg : Bool) (m : Nat) (e u : Int) : Int := signedInt neg (m * 2 ^ (e - u).toNat)

/-- The negative. -/
def Exact.neg : Exact → Exact
  | .nan s => .nan s
  | .inf n => .inf (!n)
  | .fin n m e => .fin (!n) m e

/-- Is it a signalling NaN? -/
def Exact.isSNaN : Exact → Bool
  | .nan s => s
  | .inf _ | .fin .. => false

/-- Is it a NaN? -/
def Exact.isNaN : Exact → Bool
  | .nan _ => true
  | .inf _ | .fin .. => false

/-- NV of a signalling operand (R166). -/
def nvOf (xs : List Exact) : Flags := if xs.any Exact.isSNaN then fNV else 0

/-- The exact sum of values with the flags of its special cases (R171, R213, R227): a NaN operand gives NaN, with NV
when signalling; infinities of both signs give NaN with NV; an exact zero is +0, or −0 under RDN, unless every operand
is a zero of one sign. DESIGN CHOICE (log 52): R227 and R229 name no sign of a zero, and of R171's bullets that of a NaN
operand comes before that of infinities of both signs. -/
def exactSum (mode : RMode) (xs : List Exact) : Exact × Flags :=
  if xs.any Exact.isNaN then (.nan false, nvOf xs)
  else
    let pos := xs.any fun x => decide (x = .inf false)
    let neg := xs.any fun x => decide (x = .inf true)
    if pos && neg then (.nan false, fNV)
    else if pos then (.inf false, 0)
    else if neg then (.inf true, 0)
    else
      let u := xs.foldl (fun u x => match x with | .fin _ m e => if m = 0 then u else min u e | _ => u) 0
      let s := xs.foldl (fun (a : Int) x => match x with | .fin n m e => if m = 0 then a else a + unitsAt n m e u | _ => a) 0
      if s = 0 then
        let allNeg := !xs.isEmpty && xs.all fun x => match x with | .fin n m _ => n && decide (m = 0) | _ => false
        let allPos := xs.all fun x => match x with | .fin n m _ => !n && decide (m = 0) | _ => false
        (.fin (allNeg || (!allPos && decide (mode = .rdn))) 0 0, 0)
      else (.fin (decide (s < 0)) s.natAbs u, 0)

/-- The exact product (R171, R213): 0 × infinity is NaN with NV. -/
def exactMul (x y : Exact) : Exact × Flags :=
  match x, y with
  | .nan a, .nan b => (.nan false, if a || b then fNV else 0)
  | .nan a, .inf _ | .nan a, .fin .. | .inf _, .nan a | .fin .., .nan a => (.nan false, if a then fNV else 0)
  | .inf a, .inf b => (.inf (a != b), 0)
  | .inf a, .fin b m _ | .fin b m _, .inf a => if m = 0 then (.nan false, fNV) else (.inf (a != b), 0)
  | .fin a m e, .fin b n f => (.fin (a != b) (m * n) (e + f), 0)

/-- x × y + z exactly (R213). 0 × infinity raises NV even with a NaN addend. -/
def exactFma (mode : RMode) (x y z : Exact) : Exact × Flags :=
  let p := exactMul x y
  let s := exactSum mode [p.1, z]
  (s.1, p.2 ||| s.2)

/-- Compare two values that are not NaN: −1, 0, 1, with −0 equal to +0. -/
def exactCmp (x y : Exact) : Int :=
  match x, y with
  | .inf a, .inf b => (if a then -1 else 1) - (if b then -1 else 1)
  | .inf a, _ => if a then -1 else 1
  | _, .inf b => if b then 1 else -1
  | .fin a m e, .fin b n f =>
    let d := unitsAt a m e (min e f) - unitsAt b n f (min e f)
    if d < 0 then -1 else if d = 0 then 0 else 1
  | _, _ => 0

/-- Is x below y for minimumNumber, where −0 is below +0 (R214)? -/
def numberLt (x y : Exact) : Bool :=
  let c := exactCmp x y
  if c = 0 then
    match x, y with
    | .fin a 0 _, .fin b 0 _ => a && !b
    | _, _ => false
  else decide (c < 0)

/-- minimumNumber or maximumNumber of codes of one format (R214): the code chosen and NV of a signalling operand. -/
def minMaxCode (f : Fmt) (isMax : Bool) (a b : Nat) : Nat × Flags :=
  let x := f.decode a
  let y := f.decode b
  let fl := nvOf [x, y]
  match x.isNaN, y.isNaN with
  | true, true => (f.nanCode, fl)
  | true, false => (b % 2 ^ f.bits, fl)
  | false, true => (a % 2 ^ f.bits, fl)
  | false, false => ((if (if isMax then numberLt x y else numberLt y x) then b else a) % 2 ^ f.bits, fl)

/-! ### Quotients and roots -/

/-- A positive rational n/d × 2^e as a value with a sticky last bit, fine enough for every rounding of a format. -/
def quotient (neg : Bool) (n d : Nat) (e : Int) : Exact :=
  let k := 96 + d.log2
  let q := n * 2 ^ k / d
  if n * 2 ^ k % d = 0 then .fin neg q (e - (k : Int)) else .fin neg (2 * q + 1) (e - (k : Int) - 1)

/-- The integer square root, bit by bit. -/
def isqrtGo : Nat → Nat → Nat → Nat
  | 0, _, r => r
  | b + 1, n, r => if (r + 2 ^ b) * (r + 2 ^ b) ≤ n then isqrtGo b n (r + 2 ^ b) else isqrtGo b n r

/-- ⌊√n⌋. -/
def isqrt (n : Nat) : Nat := isqrtGo (n.log2 / 2 + 1) n 0

/-- √(m × 2^e) with a sticky last bit. -/
def sqrtExact (m : Nat) (e : Int) : Exact :=
  let odd := e % 2 ≠ 0
  let m1 := (if odd then 2 * m else m) * 2 ^ 192
  let e1 := (if odd then e - 1 else e) - 192
  let s := isqrt m1
  if s * s = m1 then .fin false s (e1 / 2) else .fin false (2 * s + 1) (e1 / 2 - 1)

/-- 1/√(m × 2^e) with a sticky last bit, m not 0. -/
def rsqrtExact (m : Nat) (e : Int) : Exact :=
  let odd := e % 2 ≠ 0
  let m1 := if odd then 2 * m else m
  let e1 := if odd then e - 1 else e
  let k := 128 + m1.log2
  let s := isqrt (2 ^ (2 * k) / m1)
  if s * s * m1 = 2 ^ (2 * k) then .fin false s (-(e1 / 2) - (k : Int))
  else .fin false (2 * s + 1) (-(e1 / 2) - (k : Int) - 1)

/-! ### Block scales and packed elements -/

/-- The value of an S10 scale: NaN, or (4 + f) × 2^(e − 129) (R161). -/
def s10Decode (s : Nat) : Exact :=
  let e := s / 4 % 256
  if e = 255 then .nan false else .fin false (4 + s % 4) ((e : Int) - 129)

/-- The format of a code of Table 2.7 that is a float, with .inf as selected. -/
def fmtOfCode (n : Nat) (inf : Bool) : Option Fmt :=
  if n = 6 then some .f32 else if n = 7 then some .f16 else if n = 8 then some .bf16
  else if n = 9 then some .e2m1
  else if 0x11 ≤ n ∧ n ≤ 0x17 then some (.p8 (n - 0x10) false inf)
  else if 0x19 ≤ n ∧ n ≤ 0x1F then some (.p8 (n - 0x18) true inf)
  else none

/-- The integer type of a code of Table 2.7. -/
def ityOfCode (n : Nat) : Option ITy :=
  if n < 6 then some ⟨if n < 2 then 8 else if n < 4 then 16 else 32, n % 2 = 1⟩ else none

/-- Bits of an element of a tensor layout record's FMT (Table 2.7). -/
def fmtBits (n : Nat) : Option Nat :=
  if n = 0x0A then some 1
  else if n = 0x0B then some 16
  else
    match ityOfCode n, fmtOfCode n false with
    | some t, _ => some t.bits
    | none, some f => some f.bits
    | none, none => none

/-- x / s as an exact value fit for one rounding, s a finite scale (R167). -/
def divScale (x s : Exact) : Exact :=
  match x, s with
  | .fin n m e, .fin _ d f => if m = 0 then .fin n 0 0 else quotient n m d (e - f)
  | .inf n, _ => .inf n
  | x, _ => x

/-- Is x / s at most the largest finite value of a format, for finite positive x? -/
def fitsScale (f : Fmt) (m : Nat) (e : Int) (s : Nat) : Bool :=
  match s10Decode s, f.magnitude false f.maxCode with
  | .fin _ d g, .fin _ fm fe => decide (exactCmp (.fin false m e) (.fin false (d * fm) (g + fe)) ≤ 0)
  | _, _ => false

/-- The smallest S10 code at or above `lo` that the test accepts; codes are ordered as their values (R161). -/
def firstScale (ok : Nat → Bool) : Nat → Nat → Nat → Nat
  | 0, _, hi => hi
  | fuel + 1, lo, hi =>
    if hi ≤ lo then hi
    else
      let mid := (lo + hi) / 2
      if ok mid then firstScale ok fuel lo mid else firstScale ok fuel (mid + 1) hi

/-- The largest magnitude of a block of finite values. -/
def blockMax (xs : List Exact) : Exact :=
  xs.foldl (fun a x => match x with | .fin _ m e => if exactCmp a (.fin false m e) < 0 then .fin false m e else a | _ => a)
    (.fin false 0 0)

/-- The derived scale of a block (R167): its S10 code and whether it is the NaN scale. -/
def deriveScale (f : Fmt) (xs : List Exact) : Nat × Bool :=
  if xs.any fun x => match x with | .fin .. => false | _ => true then (0x3FC, true)
  else
    match blockMax xs with
    | .fin _ m e => if m = 0 then (0x1FC, false) else (firstScale (fitsScale f m e) 12 0 0x3FB, false)
    | _ => (0x1FC, false)

/-- One element of a block quantised with a finite scale, or with the NaN scale as supplied (R167, R221). -/
def quantElement (f : Fmt) (mode : RMode) (sat : Bool) (x : Exact) (s : Nat) : Nat × Flags :=
  match s10Decode s with
  | .nan _ => (f.nanCode, fNV)
  | sv => convertFloat f mode sat (divScale x sv)

end Sys2Proof.Machine
end

