-- ==== Sys2Proof/Config.lean ====
section
/-! DEFINITION. What an implementation fixes: the figures of the package (R2), and the values and functions the
manual leaves open, which are opaque constants: nothing can prove what they are. -/

namespace Sys2Proof.Config

/-- The strike window W in arithmetic cycles (R2, R81). -/
def strikeWindow : Nat := 256
/-- Cores per die (R2). -/
def coresPerDie : Nat := 160
/-- Clusters per die (R2). -/
def clustersPerDie : Nat := 40
/-- Bytes of one scratchpad slice, 704 KiB (R2, R55). -/
def sliceBytes : Nat := 720896
/-- Bytes of an operand slot (R52). -/
def slotBytes : Nat := 8192
/-- Warp slots of a quadrant (R25). -/
def slotsPerQuad : Nat := 12
/-- Register blocks of a quadrant (R25). -/
def blocksPerQuad : Nat := 24
/-- The ageing bound of a frontier entry (R17). -/
def ageBound : Nat := 1024
/-- Park records held on chip; later ones spill, with no effect a program sees (R21). -/
def parkOnChip : Nat := 512
/-- Cycles a bin's oldest record waits before a warp forms (R42). -/
def binWait : Nat := 256
/-- Records a bin holds (R41). -/
def binSize : Nat := 32
/-- On-chip Brine in bytes (R134). -/
def brineBytes : Nat := 16384
/-- Bytes of Brine and the staging area together (R140). -/
def brineStagedBytes : Nat := 16384 + 1048576
/-- The speculative share of Brine in bytes (R126). -/
def specShareBytes : Nat := 8192
/-- Held bytes at which guarded workgroups checkpoint, 780 KiB (R140). -/
def ckptOccupancy : Nat := 798720
/-- Cycles between checkpoints (R140). -/
def ckptInterval : Nat := 65536
/-- The age at which an allocation is renewed (R114). -/
def renewAge : Nat := 16384
/-- Losses after which a mesh packet is urgent (R352). -/
def urgentAge : Nat := 32
/-- Bytes one die's addresses span (Table 2.4). -/
def dieSpan : Nat := 0x20_0000_0000
/-- Bytes of stacked DRAM of a die, 96 GiB (Table 2.4). -/
def dieDram : Nat := 0x18_0000_0000
/-- First far-tier address (Table 2.4). -/
def farBase : Nat := 0x1000_0000_0000
/-- Bytes one CXL port's range spans (Table 2.4). -/
def farSpan : Nat := 0x100_0000_0000
/-- Default weights of the mesh channels (R351). -/
def meshWeights : List Nat := [4, 1, 4, 1]

/-- Core positions a die's configuration image may give (R372); the default map is the model's choice (log 13). -/
def corePos (j : Nat) : Nat × Nat × Nat × Nat :=
  let c := j / 4
  let p := j % 4
  (2 * (c % 8) + p % 2, 2 * (c / 8) + p / 2, c, p)

/-- The keyed hash of the twin sum (R149): the manual gives it no meaning but equality. The arguments are the
launch, an address or offset, a size and the data. FREE VALUE (log 6). -/
opaque twinHash : Nat → Nat → Nat → Nat → BitVec 64
/-- Umacy's root key as it comes with an image (R408). FREE VALUE (log 7). -/
opaque rootKey : BitVec 256
/-- The SHA-512 digest of Umacy's root key that the boot logic holds (R408). FREE VALUE (log 7). -/
opaque rootDigest : BitVec 512
/-- The stabilised response of the physical unclonable function (R407). FREE VALUE (log 7). -/
opaque pufResponse : List (BitVec 8)
/-- A register or container value the manual leaves undefined, one per number asked. FREE VALUE (log 5). -/
opaque freeWord : Nat → BitVec 32
/-- Whether an access that leaves the package fails at its target, one answer per number asked: what another package does is not
in this model (R65). FREE VALUE (log 5). -/
opaque peerFault : Nat → Bool
/-- What an image holds (R408): its kind, its payload's length, the key it is bound to, the signature, and the payload. -/
structure Image where
  kind : Nat
  length : Nat
  key : BitVec 256
  sig : BitVec 512
  payload : List (BitVec 8)
  deriving Inhabited

/-- The image at an address of companion memory; the manual does not lay its bytes out (R408). FREE VALUE (log 13). -/
opaque readImage : Mem → Nat → Image
/-- The bytes that the signature of an image covers: the header's other fields, its kind, length and bound key, and the payload
(R408). FREE VALUE (log 13). -/
opaque signedPart : Nat → Nat → BitVec 256 → List (BitVec 8) → List (BitVec 8)
/-- The bytes of an image with its signature. FREE VALUE (log 13). -/
opaque imageBytes : Nat → Nat → BitVec 256 → List (BitVec 8) → BitVec 512 → List (BitVec 8)
/-- The payload of a repair image: where each core of each die stands (R411). FREE VALUE (log 13). -/
opaque repairPayload : List (Nat × Nat × Nat × Nat) → List (BitVec 8)
/-- The spare positions a repair image leaves each die. FREE VALUE (log 13). -/
opaque imageSpares : List (BitVec 8) → Nat → Nat
/-- The corrected-error threshold of a configuration image (R411). FREE VALUE (log 13). -/
opaque imageDram : List (BitVec 8) → Nat
/-- The DRAM row of an aperture address (R411). FREE VALUE (log 13). -/
opaque dramRow : Nat → Nat
/-- The DRAM bank of an aperture address (R411). FREE VALUE (log 13). -/
opaque dramBank : Nat → Nat
/-- The logical memory channel of a DRAM address; the manual does not give the interleaving (log 90). -/
opaque dramChannel : Nat → Nat
/-- The layout of a configuration or repair image's payload, which the manual does not give: core j of die d
stands at (column, row, cluster, position) (R372, R408). FREE VALUE (log 13). -/
opaque imageCorePos : List (BitVec 8) → Nat → Nat → Nat × Nat × Nat × Nat
/-- The cfg fields a configuration image sets: suspect and strike thresholds per die, spares, power cap (R406,
R420). FREE VALUE (log 13). -/
opaque imageCfg : List (BitVec 8) → Nat → Nat × Nat × Nat × Nat

end Sys2Proof.Config
end

