-- ==== Sys2Proof/Machine/State.lean ====
section
/-! DEFINITION. The state of the package as plain data: every register, queue, table and engine the manual names
(INVENTORY.md lists them with their rules), the outcomes' reasons, and the state after power-on. -/

namespace Sys2Proof.Machine

/-- The model's own stop. -/
inductive Fault where
  /-- Raised by a meaning of an encoded instruction when no warp or sequencer is issuing (`State.cur`). Safe: the
  step never runs an instruction so. -/
  | noIssuer
  deriving DecidableEq, Repr

/-- Why an instruction has no meaning. -/
inductive Refusal where
  /-- Raised by the arm of an instruction not reached yet. Safe. -/
  | notModelled (mnemonic : String)
  deriving DecidableEq, Repr

/-! ### Warps -/

/-- The clause an entry is inside: its header's address, page and COUNT (R174). -/
structure Clause where
  hdr : Double
  page : Nat
  count : Nat
  deriving DecidableEq, Repr

/-- What keeps one frontier entry from issuing (R15): nothing, an instruction that could not go ahead and is tried
again in the next cycle, RCONV (R22), a barrier instruction (R271), or page walks in progress (R85). -/
inductive EntryWait where
  | run | retry | rconv | barrier | walk
  deriving DecidableEq, Repr

/-- A frontier entry (R14, R17). `clause` is none when the PC is at a header; `waits` says that the header's waits are
still to be evaluated (R13, R175); `aged` is the order in which the count reached 1,024; `mark` is the request number
below which a fence at the PC waits for everything (R84, R87). -/
structure Entry where
  pc : Double
  clause : Option Clause
  mask : Word
  prio : Nat
  age : Nat
  aged : Option Nat
  wait : EntryWait
  waits : Bool
  mark : Option Nat
  deriving DecidableEq, Repr

/-- Why lanes are parked (Table 1.1). -/
inductive ParkReason where
  | overflow | xlateFault | xlateError
  deriving DecidableEq, Repr

/-- A park record (R19): where the lanes resume, and for a fault the address, the access and whether the pager has
resolved it. `seq` orders the records of a warp; `spill` is its place in the spill area, none while it is on chip (R21). -/
structure Park where
  pc : Double
  clause : Option Clause
  mask : Word
  reason : ParkReason
  va : Double
  space : Nat
  access : Nat
  resolved : Bool
  seq : Nat
  spill : Option Nat
  deriving DecidableEq, Repr

/-- What holds a whole warp (R36). `retry`: the entry at a PC could not go ahead, and only it is tried again, once a
cycle (`tried` in this one); `grace`: so is the one at a GRACE, from its fence to the end of its wait (R103); `untilLive`: R130;
`ckpt`: the warp stands at CKPT (R303). -/
inductive Hold where
  | none | retry (pc : Double) (tried : Bool) | grace (pc : Double) (tried : Bool) | ckpt | sleep (until_ : Nat) | sleepForever | untilLive | regacq (n : Nat) | barrier (n phase : Nat)
  | debug
  deriving DecidableEq, Repr

/-- A token: outstanding commands, issue sequence, and the status word (R282, R283). -/
structure Token where
  count : Nat
  seq : Nat
  status : Nat
  resume : Nat
  sq : Nat
  more : Bool
  stale : Bool
  staleAddr : Double
  deriving DecidableEq, Repr

/-- A deferred-error record (R259). -/
structure DErr where
  cause : Nat
  addr : Double
  deriving DecidableEq, Repr

/-- What a returning access delivers: to a group of v registers, to a scalar register (SLD), or GSEQ. -/
inductive Dest where
  | group (reg : Option Nat) (bytes : Nat) (signed : Bool)
  | scalar (reg : Option Nat)
  deriving DecidableEq, Repr

/-- A returning access that has issued and not returned (R258). `want` are the lanes still without a value; `holds`
keeps the whole warp from issuing (R274). -/
structure Pending where
  id : Nat
  mask : Word
  act : Word
  pc : Double
  clause : Option Clause
  dest : Dest
  pred : Option Nat
  want : Word
  got : List (Nat × Nat)
  preds : List (Nat × Bool)
  fail : Option DErr
  acquire : Bool
  bytes : List (Nat × Nat)
  issued : Nat
  holds : Bool
  deriving DecidableEq, Repr

/-- An instance's state (Table 6.2); `none` outside RUNNING. -/
inductive InstState where
  | none | speculative | live | continuing
  deriving DecidableEq, Repr

/-- Where a round of a speculative loop stands (R120). -/
inductive RoundState where
  | idle | guessing | running
  deriving DecidableEq, Repr

/-- Clone resources SPBEGIN reserved: a slot, blocks and private scratch (R120). -/
structure Reserve where
  slot : Nat
  blocks : List Nat
  privBase : Nat
  deriving DecidableEq, Repr

/-- The speculative loop of a warp (R119 to R125, R302). `owner` numbers the round; `appended` and `passed` are the
descriptors the instance appended to and committed (R129), `atCmp` says that it stands at its SPCMP or SPEND until it is LIVE
(R129), `offsets` are the rows returned (descriptor, offset, end; R358). -/
structure Round where
  st : RoundState
  width : Nat
  entries : FMap (List Word)
  inst : Nat
  ist : InstState
  owner : Nat
  masks : List Word
  nc : Nat
  psize : Nat
  ret : Double
  privBase : Nat
  privGen : Nat
  committed : Nat
  cmpDone : Bool
  atCmp : Bool
  reserved : List Reserve
  appended : List Nat
  offsets : List (Nat × Nat × Nat)
  passed : List Nat
  deriving DecidableEq, Repr

/-- A warp in a slot. The trap frame and the CSRs of Table 11.2 that are state of their own are its fields; `copied` and
`waited` are completed copy commands (by token), and those the warp has waited for, whose writes Brine may hold (R298);
`grace` is the target of a GRACE the warp waits in, and `graceHeld` the place and target of one set aside while a handler runs
(R103, R244; log 62). -/
structure Warp where
  wg : Nat
  idx : Nat
  live : Word
  frontier : List Entry
  held : List Entry
  parks : List Park
  sregs : List Word
  preds : List Word
  base : Nat
  ext : Nat
  blocks : List Nat
  genBase : Nat
  genExt : Nat
  depth : List Nat
  phase : Word
  fpstat : BitVec 5
  rconvSplit : Bool
  tvec : Double
  tcause : BitVec 6
  tinfo : Word
  tpc : Double
  taddr : Double
  tmask : Word
  tact : Word
  tclause : Double
  timeoutCyc : Nat
  dbgatt : Bool
  handler : Word
  hold : Hold
  halted : Bool
  grace : Option Nat
  graceHeld : Option (Double × Option Nat)
  tokens : List Token
  copied : List (Nat × Nat)
  waited : List Nat
  derr : List (Option DErr)
  pend : List Pending
  round : Round
  waitCount : Nat
  lastIssue : Nat
  nextSeq : Nat
  poolThreads : FMap Nat
  deriving DecidableEq, Repr

/-! ### Requests -/

/-- What a request does at its serialisation point (R79, R263, R268, R269, R273, R44, R131, R277). -/
inductive ReqKind where
  | load | store | atom (op round : Nat) (ret : Bool) | cas | append | acommit | ahead
  | wqpush (nb : Bool) | wqpop (nb : Bool) | retire (act : Nat) | joinDec | sheadReset (slot : Nat) | spawn | message (chan : Nat)
  deriving DecidableEq, Repr

/-- A peer window (Table 20.4). -/
structure Window where
  size : Nat
  valid : Bool
  target : Nat
  exp : Nat
  key : BitVec 16
  deriving DecidableEq, Repr

/-- An export (Table 20.3). -/
structure Export where
  key : BitVec 16
  space : Nat
  valid : Bool
  ring : Bool
  size : Nat
  base : Nat
  deriving DecidableEq, Repr

/-- A peer access that has been checked at its target and waits there: the export as it was then, the implicit count it
holds as a reader, of a core and a phase (R105, R366; DEDUCED, log 92), and its number in the order of arrival (R91). -/
structure Checked where
  exp : Export
  core : Nat
  phase : Nat
  seq : Nat
  deriving DecidableEq, Repr

/-- Where a request is performed (R79): a line of device memory, a slice, an offset in a peer window of a device as the window was
bound at issue (R366), or the device node. -/
inductive Target where
  | mem (pa : Nat) | slice (core off : Nat) | peer (dev win : Nat) (to_ : Window) (off : Nat) | node (dev : Nat)
  deriving DecidableEq, Repr

/-- One lane's part of a request: its address in memory or slice terms, its operand and second operand, the virtual
address a fault names, and the bits written (for a merged byte, R70). -/
structure LaneOp where
  lane : Nat
  at_ : Nat
  data : Nat
  swap : Nat
  va : Nat
  keep : Nat
  deriving DecidableEq, Repr

/-- A request held in Brine, travelling or waiting at its serialisation point. `acc` is the cycle of acceptance, `waitReads`
the accesses a release waits for (R83, R84), `marks` the copy commands of R298, `owner` the round of the instance it is of,
`inMesh` that its packet has not arrived, `phase` the phase of the implicit count it holds (R105; 2 for an access that holds
none), `via` the check a peer access has passed (R366), `marked` that it arrives at a peer marked release or acquire (R91),
`unit` which 512 bytes of which box row a copy write is of (Table 17.5), `pc` and `hdr` the instruction and its header, for a
release that traps while it waits (R86). -/
structure Req where
  id : Nat
  pc : Double
  hdr : Double
  core : Nat
  slot : Nat
  wg : Nat
  launch : Nat
  space : Nat
  inst : Nat
  owner : Nat
  path : BrineQ
  kind : ReqKind
  target : Target
  size : Nat
  lanes : List LaneOp
  pend : Option Nat
  pred : Option Nat
  cmd : Option Nat
  acc : Nat
  release : Bool
  waitReads : List Nat
  marks : List Nat
  external : Bool
  sent : Nat
  inMesh : Bool
  phase : Nat
  marked : Bool
  via : Option Checked
  unit : Nat := 0
  deriving DecidableEq, Repr

/-- What comes back to a core (R88, R258, R259). -/
inductive MsgKind where
  | ack | value | error
  deriving DecidableEq, Repr

/-- A response or acknowledgement on VC2 (R77): `flits` is the length of its packet from core `src` until that has arrived,
then 0. -/
structure Msg where
  kind : MsgKind
  core : Nat
  slot : Nat
  wg : Nat
  req : Nat
  path : BrineQ
  pend : Option Nat
  cmd : Option Nat
  values : List (Nat × Nat)
  preds : List (Nat × Bool)
  lane : Nat
  cause : Nat
  addr : Nat
  src : Nat
  flits : Nat
  deriving DecidableEq, Repr

/-! ### Workgroups, checkpoints, launches -/

/-- A workgroup barrier (R270). `expect` is fixed by a phase's first arrival; none there means every warp that has
not ended. -/
structure Bar where
  phase : Nat
  arrived : Nat
  expect : Option (Option Nat)
  deriving DecidableEq, Repr

/-- A channel's state (Table 12.7). -/
inductive ChanState where
  | closed | tx | rx
  deriving DecidableEq, Repr

/-- An ordered channel (R275 to R277). `kept` is the receive count a rollback returns to (R146). -/
structure Chan where
  st : ChanState
  endpoint : Nat
  ring : Nat
  size : Nat
  delivered : Nat
  received : Nat
  kept : Nat
  err : Bool
  deriving DecidableEq, Repr

/-- What a rolled-back workgroup is to receive again of a channel it has closed since its last committed checkpoint (R146):
the request number at the close, the receive count that its messages begin at, and the messages received. -/
structure Heard where
  closed : Nat
  first : Nat
  msgs : List Nat
  deriving DecidableEq, Repr

/-- A record format of a partial tile (R317): the largest operand magnitudes' product bound is taken from it. -/
inductive MmaFmt where
  | bf16 | f16 | i8 (sa sb : Bool) | p8 (p : Nat) (unsigned inf : Bool) | e2m1
  deriving DecidableEq, Repr

/-- The matrix array of a core (R52, R307). Absent elements are zero bits. `fault` is an error of its arithmetic to come: an
element, and what is added to its next sum (R322). -/
structure MArray where
  slots : FMap Mem
  claims : List Nat
  acc : FMap (FMap Word)
  pb : FMap (FMap Word)
  pbFmt : FMap MmaFmt
  srow : FMap Nat
  scol : FMap Nat
  flags : BitVec 5
  suspect : Bool
  suspectAcc : Bool
  fault : Option (Nat × Int)
  deriving DecidableEq, Repr

/-- A forked program in the FIFO (R47, R89, R241): it starts when the reads and Brine entries FORK covers are done. -/
structure Fork where
  code : Double
  arg : Double
  core : Nat
  slot : Nat
  wg : Nat
  off : Nat
  pos : Nat
  waitReads : List Nat
  upto : Nat
  deriving DecidableEq, Repr

/-- A matrix operation in the issue queue: the instruction and the q register value it read at issue (R308). -/
structure MxOp where
  instr : Instr
  value : Nat
  deriving DecidableEq, Repr

/-- A 16-byte chunk that the operation about to run has read or written ahead of the rest (R326): the array's position, the
slot, or 16 for the scratchpad, the chunk's number and what it held. -/
structure MxChunk where
  pos : Nat
  src : Nat
  chunk : Nat
  data : List Byte
  deriving DecidableEq, Repr

/-- A cached translation (R391): the leaf entry and where it stands. -/
structure Tlb where
  space : Nat
  va : Nat
  size : Nat
  pte : Double
  pteAt : Nat
  deriving DecidableEq, Repr

/-- The sequencer of a cluster (Table 14.1). `members` are the workgroups of the resident cluster group by position;
`cur` the program running; `ending` its code once no more is issued; `argAt` is the number of an argument read across dies that
waits, and since when (R405). -/
structure Sequencer where
  members : FMap Nat
  q : FMap Word
  pc : Double
  clause : Option Clause
  argaddr : Double
  queue : List MxOp
  running : Option MxOp
  fifo : List Fork
  cur : Option Fork
  ending : Option Nat
  stalled : Option Nat
  argAt : Option (Nat × Nat)
  part : List MxChunk
  deriving DecidableEq, Repr

/-- What a context save or a checkpoint holds of a workgroup (R116, Table 7.2): the warps with the rows and granules
that were valid, barriers, channels, and for a cluster-group member its array. -/
structure WgImage where
  warps : FMap Warp
  rows : List (Nat × Nat × List Word)
  grans : FMap (List Byte)
  privs : List (Nat × Nat × List Byte)
  bars : FMap Bar
  chans : FMap Chan
  array : Option MArray
  seq : Option Sequencer
  deriving DecidableEq, Repr

/-- Where a checkpoint stands (R141, R142). -/
inductive CkPhase where
  | idle | stopping | capturing (until_ : Nat) | taken
  deriving DecidableEq, Repr

/-- The checkpoint state of a workgroup (R139 to R150, R304, R358). Requests numbered below `tauId` were accepted before the τ
of the last checkpoint taken, those below `freeId` before that of the last one committed. `ext` is the slot stopped at an
external operation; `extAt` counts its checkpoint taken and committed, `ready` lets it issue, and `extBusy` says that it has
(R144). `nextOffsets` are the first offsets returned since `tau`. `ackAt` is the cycle of the delta's acknowledgement,
`lapsed` says that the interval since the last checkpoint has been noted, `saving` that the one under way was begun for a
pre-emption (R140), `popped` that a pre-emption withdrew an external pop after some of its lanes had been served (R144, R274),
`die` is the die whose checkpoint counts hold the committed sections (R104). -/
structure Ckpt where
  phase : CkPhase
  number : Nat
  committed : WgImage
  pending : Option WgImage
  tau : Nat
  tauId : Nat
  freeId : Nat
  ackAt : Option Nat
  lapsed : Bool
  saving : Bool
  die : Nat
  lastTaken : Nat
  again : Bool
  rollbacks : Nat
  ext : Option Nat
  extWindow : Option Nat
  sigma : Double
  agreed : Double
  sigmaAt : Double
  mismatches : Nat
  unverified : List Nat
  written : List Nat
  firstOffsets : List (Nat × Nat)
  nextOffsets : List (Nat × Nat)
  extAt : Nat
  extBusy : Bool
  popped : Bool
  restoring : Bool
  pendingSave : Bool
  ready : Bool
  deriving DecidableEq, Repr

/-- Where a workgroup stands. -/
inductive WgPhase where
  | resident | stopping | saving | saved | ended
  deriving DecidableEq, Repr

/-- A workgroup (R25, R57, R81, R126, R270, R275). `left` are entries that left Brine and are not acknowledged; `blocked` is
the slot whose trap handler the lane queue waits for, `doomed` the queued releases that wait for a timed-out write (R86),
`reissue` are waiting pushes a save withdrew (R274). `ckAt` is the first unit of its checkpoint area (R374), `heard` and
`again` are the messages of closed channels that a rollback returns, and those to be returned to a channel's next openings
(R146). -/
structure Wg where
  launch : Nat
  index : Nat
  core : Nat
  cg : Option Nat
  pos : Nat
  pool : Bool
  slots : Nat
  nwarps : Nat
  ended : Nat
  phase : WgPhase
  base : Nat
  size : Nat
  gen : Nat
  bars : FMap Bar
  chans : FMap Chan
  laneQ : List Req
  copyQ : List Req
  chanQ : List Req
  appQ : List Req
  left : List Req
  blocked : Option Nat
  reissue : List Req
  doomed : List Nat
  sub : List Req
  ck : Ckpt
  twin : Option Nat
  third : Option Nat
  primary : Bool
  image : Option WgImage
  saveUnits : Nat
  ckUnits : Nat
  ckAt : Nat
  heard : FMap (List Heard)
  again : FMap (List (List Nat))
  deriving DecidableEq, Repr

/-- A launch record (Table 21.6). -/
structure LRec where
  roots : Double
  proots : Nat
  pncore : Nat
  pcore : Nat
  snapset : Double
  space : Nat
  cgsize : Nat
  dbgatt : Bool
  hand : Bool
  pclass : Nat
  genTrap : Bool
  mode : Nat
  kind : Nat
  base : Nat
  warps : Nat
  scratch : Nat
  grid2 : Nat
  grid1 : Nat
  grid0 : Nat
  tvec : Double
  args : Double
  code : Double
  deriving DecidableEq, Repr

/-- Where a launch stands. -/
inductive LaunchPhase where
  | pending | running | replaying | ended
  deriving DecidableEq, Repr

/-- A page a snapshot launch logged: its frame, the item it was copied to, the pool queue (R403). -/
structure SnapItem where
  page : Nat
  item : Nat
  queue : Nat
  deriving DecidableEq, Repr

/-- A launch (R380, R381, R402 to R404). `pages` are the snapshot set's pages (PTE address, frame). -/
structure Launch where
  dev : Nat
  id : Nat
  rec_ : LRec
  comp : Double
  tag : Nat
  queue : Nat
  slot : Nat
  attempt : Nat
  phase : LaunchPhase
  next : Nat
  rootsPushed : Bool
  pages : List (Nat × Nat)
  log : List SnapItem
  status : Nat
  cause : Nat
  double : Bool
  wgidx : Nat
  tpc : Double
  deriving DecidableEq, Repr

/-! ### Cores, dies, devices, package -/

/-- A register row: its tag, its 32 lanes (R107), and whether it was written since the last checkpoint (Table 7.2). -/
structure Row where
  tag : Nat
  data : List Word
  dirty : Bool
  deriving DecidableEq, Repr

/-- An instruction-cache line of 64 bytes (R181). -/
structure ILine where
  space : Nat
  va : Nat
  bytes : List Byte
  deriving DecidableEq, Repr

/-- A page walk in progress (R85): for the lanes of a frontier entry of a warp, named by the entry's PC. -/
structure Walk where
  slot : Nat
  entry : Nat
  space : Nat
  va : Nat
  access : Nat
  lanes : Word
  deriving DecidableEq, Repr

/-- The operands of a copy command as issued (R280, R281, R288, R295). -/
structure CopyArgs where
  op : Nat
  addr : Nat
  origin : List Int
  word5 : Nat
  start : Nat
  index : List Nat
  ops : Bool
  oslot : Nat
  hold : Bool
  count : Nat
  part : Nat
  deriving DecidableEq, Repr

/-- Why a copy command waits: held at a fault or a deferral (R290), for a copy-aside (R403), a page-in (R294), an earlier
command (R282), Brine or a slice (`busy`), or a grace period (R295). -/
inductive CopyWait where
  | no | fault (va : Nat) | defer (va : Nat) | aside (va : Nat) | pagein (va : Nat) | earlier | busy | grace (target : Nat)
  deriving DecidableEq, Repr

/-- A page a copy command has translated: its address, size, frame and tier (R106, R289). -/
structure CopyPage where
  va : Nat
  size : Nat
  pa : Nat
  tier : Nat
  deriving DecidableEq, Repr

/-- A copy command whose token has counted it off while Brine holds writes of it: the cycle of its issue (Table 23.6) and the
phases its translations hold (R105, R298). -/
structure CopyTrail where
  id : Nat
  issued : Nat
  slot : Nat
  wg : Nat
  phases : List Nat
  deriving DecidableEq, Repr

/-- A copy command in the engine (R281 to R296): its record once read, the next element, the pages translated, its outcome
once decided, the lowest failing row, and its writes not acknowledged. `ahead` are chunks, by their first element, whose reads ran
ahead with the value read, none once it has been written (R79, R282); `readAt` is since when a read of it across dies or at a peer
waits (R405), `via` the check that read has passed at the peer (R366). -/
structure CopyCmd where
  id : Nat
  slot : Nat
  wg : Nat
  tok : Nat
  seq : Nat
  args : CopyArgs
  rec_ : Option Nat
  pos : Nat
  pages : List CopyPage
  wait : CopyWait
  status : Option Nat
  resume : Nat
  rowBad : Option Nat
  werr : Bool
  stale : Bool
  staleAddr : Nat
  writes : List Nat
  issued : Nat
  phases : List Nat
  ahead : List (Nat × Option Nat)
  readAt : Option Nat
  via : Option Checked
  deriving DecidableEq, Repr

/-- A bin of the pool front end (R41): the launch and code pointer it is bound to and its records, oldest first, with their
arrival cycles. -/
structure Bin where
  launch : Nat
  code : Double
  recs : List (Nat × Double × Double)
  deriving DecidableEq, Repr

/-- A core (R25, R55, R93, R112, R251). `sweepPos` is how many tags the sweep under way has tested (R112), `quads` are the
quadrants that have issued in this cycle (R36), `staged` the bytes of Brine in its staging area (R134). Translations are
cached for its lanes (`tlb`), its copy engine's walk-ahead (`copyTlb`) and the fetches of its warps and the programs they fork
(`codeTlb`; R391). `badGrans` are the granules of its slice whose data is uncorrectable (R153, Table 23.4). -/
structure Core where
  gen : Nat
  sweepDone : Nat
  sweepNow : Nat
  sweepPos : Nat
  cycle : Nat
  data : Mem
  badGrans : List Nat
  tags : FMap Nat
  rows : FMap Row
  warps : FMap Warp
  regacq : FMap (List (Nat × Nat))
  cnt0 : Nat
  cnt1 : Nat
  phase : Nat
  f : Nat
  c : Nat
  tlb : List Tlb
  copyTlb : List Tlb
  codeTlb : List Tlb
  icache : List ILine
  walks : List Walk
  copies : List CopyCmd
  trails : List CopyTrail
  array : MArray
  mxSpace : Option Nat
  bins : FMap Bin
  frozen : Bool
  issueClock : Nat
  quads : List Nat
  staged : Nat
  deriving DecidableEq, Repr

/-- A packet in the mesh (R349 to R352): the request it carries, or that it answers, further writes of a box row, its channel,
length, destination, losses and, once urgent, when it became so. -/
structure Packet where
  req : Nat
  back : Bool
  more : List Nat
  vc : Nat
  flits : Nat
  dx : Nat
  dy : Nat
  age : Nat
  urgent : Option Nat
  deriving DecidableEq, Repr

/-- A router output: the holder (input, channel, flits still to pass), the current channel and its grants, the last
input granted per channel (R350, R351), and the cycle of its last arbitration. -/
structure RouterOut where
  holder : Option (Nat × Nat × Nat)
  vc : Nat
  grants : Nat
  last : List Nat
  cycle : Option Nat
  deriving DecidableEq, Repr

/-- A mesh router: its input queues, keyed input × 4 + channel, its outputs, and whether the slice behind it has 128 requests
queued, which stops requests to it (R264). -/
structure Router where
  inq : FMap (List Packet)
  outs : FMap RouterOut
  full : Bool
  deriving DecidableEq, Repr

/-- A node of the Vesper tree above the cores (R96 to R99). `acks` and `drained` are the children heard from; `poll`
the move sequence read at the poll's start. -/
structure Vesper where
  f : Nat
  c : Nat
  phase : Nat
  moves : Nat
  acks : List Nat
  drained : List Nat
  poll : Option Nat
  deriving DecidableEq, Repr

/-- A monitor (R412); `lastAt` is the die's cycle at its last sample of a temperature, `due` are the samples taken that it has
yet to count (Table 23.6). -/
structure Monitor where
  lastAt : Nat
  freeze : Bool
  src : Nat
  qty : Nat
  min : Nat
  max : Nat
  cnt : Nat
  bins : FMap Nat
  due : List Nat
  deriving DecidableEq, Repr

/-- CORESTAT of a core (Table 23.5). -/
structure CoreStat where
  suspects : Nat
  strikes : Nat
  pendret : Bool
  deriving DecidableEq, Repr

/-- A die: its Vesper node and parked and checkpoint counts (R97), mailbox (R385), mesh, RAS block (Table 23.2), clocks (R382,
R410, R421), pool-queue indices and the launch of each record between them (R46), and the scheduler core's 256 KiB of tightly
coupled memory (R382). `retired` are the mesh positions taken out of service, `spareRows` and `spareBanks` the DRAM rows and banks
that stand on spares (R411); `strikesAt` is its strike counter at the last boundary of 2^20 cycles and `flipAt` the cycle its node
last adopted a flip (Table 23.6). -/
structure Die where
  vesper : Vesper
  parked0 : Nat
  parked1 : Nat
  ck0 : Nat
  ck1 : Nat
  poolHead : Nat
  poolTail : Nat
  poolOwner : List Nat
  mailbox : List (BitVec 128)
  routers : FMap Router
  weights : List Nat
  cycle : Nat
  sched : Nat
  turn : Option Nat
  elbase : Nat
  elen : Bool
  ellog2n : Nat
  elprod : Nat
  elcons : Nat
  susthr : Nat
  strthr : Nat
  drops : Nat
  spareout : Bool
  spares : Nat
  ckpts : Nat
  rollbacks : Nat
  mismatches : Nat
  thirds : Nat
  replays : Nat
  strikes : Nat
  corestat : FMap CoreStat
  corrected : List Nat
  monitors : FMap Monitor
  stopped : Bool
  temp : Nat
  beatAt : Nat
  tcm : Mem
  retired : List (Nat × Nat)
  spareRows : List Nat
  spareBanks : List Nat
  strikesAt : Nat
  flipAt : Nat
  deriving DecidableEq, Repr

/-- A fault record (Table 22.5), before it is placed in its ring; `entry` is the retire entry of a notification. -/
structure FaultRec where
  addr : Nat
  launch : Nat
  space : Nat
  core : Nat
  info : Nat
  access : Nat
  sub : Nat
  kind : Nat
  entry : Option Nat
  deriving DecidableEq, Repr

/-- A retire entry (Table 4.2). -/
structure RetireEntry where
  space : Nat
  act : Nat
  ph : Nat
  gseq : Nat
  size : Nat
  arg : Nat
  addr : Nat
  deriving DecidableEq, Repr

/-- A page-in (R291, R400): the page, its size, the far frame, the near frame once popped, the entry it read. -/
structure PageIn where
  space : Nat
  va : Nat
  size : Nat
  far : Nat
  near : Option Nat
  queue : Nat
  pte : Double
  pteAt : Nat
  core : Nat
  deriving DecidableEq, Repr

/-- A copy-aside (R403): the page, its entry, the item (none until one is popped), its pool queue, the launch whose set
names the page, and the core, launch number and ACCESS bits of the access that met SNAP, for a POOL_EMPTY record. -/
structure Aside where
  space : Nat
  va : Nat
  pte : Double
  pteAt : Nat
  item : Option Nat
  queue : Nat
  launch : Nat
  core : Nat
  byLaunch : Nat
  access : Nat
  deriving DecidableEq, Repr

/-- Waiting pops and pushes at a work queue's home slice (R274). -/
structure WqWait where
  pops : List Req
  pushes : List Req
  deriving DecidableEq, Repr

/-- An invalidation request (R392). -/
structure Inval where
  kind : Nat
  va : Nat
  space : Nat
  size : Nat
  deriving DecidableEq, Repr

/-- What nodes of a pod-span domain in different packages tell each other on VC3 (R97, R98, R417): the root's flip, poll and
completion of a grace period, a member's acknowledgement and drain report, that it asks for one after the last it knows
complete, and that a device asked by a flip takes no part. -/
inductive PodMsg where
  | flip (f : Nat) | poll (f : Nat) | complete (f : Nat) | acked (f : Nat) | drained (f : Nat) | wants (c : Nat) | out (f : Nat)
  deriving DecidableEq, Repr

/-- A logical device (Tables 21.2, 22.1, 24.1). `ckptBad` are units of the checkpoint pool marked poisoned (R151), `podIn`
what other packages' nodes have sent to its node, by device number, and `podTold` what it has sent. -/
structure Dev where
  wqtbase : Nat
  savebase : Nat
  savesize : Nat
  ckptbase : Nat
  ckptsize : Nat
  stagebase : FMap Nat
  spillbase : FMap Nat
  poolqbase : FMap Nat
  poolqlog2n : FMap Nat
  launchCtr : Nat
  sptbase : Nat
  ftbase : Nat
  fqbase : Nat
  fqen : Bool
  fqlog2n : Nat
  fqprod : Nat
  fqcons : Nat
  fqwait : List FaultRec
  fqknown : List (Nat × Nat × Nat)
  rqbase : Nat
  rqlog2n : Nat
  rqtotal : Nat
  retire : List RetireEntry
  invalseq : Nat
  invals : List Inval
  pools : FMap (BitVec 60)
  returns : List (Nat × Nat × Nat)
  bounce : List (Nat × Nat)
  pageins : List PageIn
  asides : List Aside
  wq : FMap WqWait
  saveUsed : Nat
  ckptUsed : Nat
  ckptBad : List Nat
  podIn : List (Nat × PodMsg)
  podTold : List (Nat × PodMsg)
  vesper : Vesper
  pod : Vesper
  inTlb : List Tlb
  dawn : List Nat
  rootdev : Nat
  span : Bool
  devnum : Nat
  podmem : BitVec 1024
  route : FMap (BitVec 16)
  clkpt : Nat
  clkTarget : Nat
  eclkpt : Nat
  calm : Nat
  role : Nat
  hcshare : Nat
  deriving DecidableEq, Repr

/-- A packet a command queue is working on (Table 21.5): its type, first slot, length and bytes as a number, the launch it
started, and the grace period a HANDOVER waits for. -/
structure QPacket where
  type : Nat
  first : Nat
  slots : Nat
  body : Nat
  launch : Option Nat
  grace : Option Nat
  deriving DecidableEq, Repr

/-- A command queue (Table 21.1, R383, R385). `ready` says that it was ready when its scheduler last looked, `since` since when it
waits for its turn. -/
structure CQueue where
  qbase : Nat
  slice : Nat
  nosteal : Bool
  en : Bool
  homedie : Nat
  prio : Nat
  log2n : Nat
  kick : Nat
  ridx : Nat
  erridx : Nat
  err : Nat
  state : Nat
  owner : Nat
  since : Nat
  ready : Bool
  turnFrom : Option Nat
  lapsed : Bool
  thief : Option Nat
  cur : Option QPacket
  waiting : Bool
  open_ : List QPacket
  deriving DecidableEq, Repr

/-- A CXL port (Table 20.2). -/
structure Cxl where
  en : Bool
  state : Nat
  cap : Nat
  deriving DecidableEq, Repr

/-- A peer link (Table 24.1, R417). `heard` says that a heartbeat has come in the interval under way. -/
structure Link where
  en : Bool
  state : Nat
  peer : Nat
  missed : Nat
  heard : Bool
  deriving DecidableEq, Repr

/-- What is sent out of the package: heartbeats (R417), relayed traffic (R416), peer requests (R65) and Vesper's traffic
(R417) over a peer link, and answers to inbound accesses, of the companion or of a device (R361, R365): a value, none for a
write, or an error. -/
inductive LinkMsg where
  | answer (initiator : Option Nat) (value : Option Nat) (failed : Bool)
  | heartbeat (link : Nat)
  | relay (link dest : Nat) (data : List Byte)
  | request (link dest exp : Nat) (key : BitVec 16) (req : Req)
  | pod (link dest : Nat) (msg : PodMsg)
  deriving DecidableEq, Repr

/-- An inbound access that waits to be performed (R91): its initiator, none for the companion, the export it goes through with
the key it gives, the check it has passed there (R366), and the access. -/
structure Inbound where
  initiator : Option Nat
  via : Option (Nat × Nat × BitVec 16)
  checked : Option Checked
  access : InboundAccess
  deriving DecidableEq, Repr

/-- The package: PMODE, the RAS block (Table 23.1), links and power (Tables 20.5, 24.1, 24.4). `ctlAt` is the cycle of the
last power control step (R421), `badPos` the positions, by die, that the self-test found bad (R407). -/
structure Package where
  mode : Nat
  refused : Bool
  busy : Bool
  modeNext : Nat
  cxl : FMap Cxl
  coremap : FMap (Nat × Nat × Nat × Nat)
  rasBusy : Bool
  rasRefused : Bool
  repout : Nat
  booterr : Nat
  stage : Nat
  idkey : BitVec 256
  meas : BitVec 512
  repair : BitVec 512
  firmware : Nat
  attreqs : List Nat
  attdrop : Bool
  dramthr : Nat
  links : FMap Link
  pwr : Nat
  pwrcap : Nat
  ctlAt : Nat
  badPos : List (Nat × Nat × Nat)
  deriving DecidableEq, Repr

/-- A debug event posted to the companion (R249), or a command's result (R363). -/
inductive DbgEvent where
  | brk (core slot : Nat) (tpc : Double) (imm : Nat)
  | row (tag : Nat) (data : List Word)
  | granule (tag : Nat) (data : List Byte)
  | error
  deriving DecidableEq, Repr

/-- Who is issuing the instruction being executed: the frontier entry of the warp in a core's slot, a cluster's
sequencer, or nobody (log 4). -/
inductive Issuer where
  | nobody
  | warp (core slot entry : Nat)
  | sequencer (cluster : Nat)
  deriving DecidableEq, Repr

/-- A move of an agent (log 3): an event, an issue of a frontier entry, of a sequencer, or cycles of a die's arithmetic clock
or its scheduler's, data of a memory line or of a slice's granule becoming uncorrectable (R153) or being corrected at an
aperture address (R410, R411), scheduler firmware taking the oldest message of its mailbox (R385), chunks of a copy command in
order (R79, R82) or one of them ahead of its turn (R79, R282), an inbound access that waited (R91), a companion read of the
register aperture (R361) or write of an aligned word of its RAS blocks (R406) or of its own memory (R375), the driver setting
a die's mesh weights (R351), a read of a packet's slot failing (Table 21.4), a chunk of the next matrix operation moving ahead
of the rest (R326), an array's arithmetic going wrong (R322), or a pod node of another package reaching a device's (R417). -/
inductive Move where
  | event (i : Instr)
  | issue (core slot entry : Nat)
  | sequencer (cluster : Nat)
  | clock (die cycles : Nat)
  | schedClock (die cycles : Nat)
  | poison (line : Nat)
  | poisonSlice (core gran : Nat)
  | corrected (addr : Nat)
  | mailbox (die : Nat)
  | copyStep (core cmd chunks : Nat)
  | copyAhead (core cmd elem : Nat) (write : Bool)
  | inbound (place : Nat)
  | registerRead (off size : Nat)
  | rasWrite (off : Nat) (v : BitVec 64)
  | companionWrite (addr : Nat) (data : List Byte)
  | meshWeights (die : Nat) (weights : List Nat)
  | slotFault (dev queue : Nat)
  | matrixChunk (cluster pos src chunk : Nat)
  | faultySum (core elem : Nat) (err : Int)
  | pod (dev from_ : Nat) (msg : PodMsg)
  deriving DecidableEq, Repr

/-- The whole machine. Maps are keyed: cores by die × 160 + logical index, clusters by die × 40 + number, queues by
device × 256 + number, exports by device × 4096 + number, windows by device × 64 + number. An absent key stands for
the unit as it is after power-on. `nextId` numbers requests; `freeCtr` counts free values taken (log 5). -/
structure State where
  pkg : Package
  devs : FMap Dev
  dies : FMap Die
  cores : FMap Core
  seqs : FMap Sequencer
  queues : FMap CQueue
  exports : FMap Export
  windows : FMap Window
  launches : FMap Launch
  wgs : FMap Wg
  mem : Mem
  cmem : Mem
  poison : List Nat
  net : List Req
  aside : List Req
  msgs : List Msg
  inWait : List Inbound
  linkOut : List LinkMsg
  debug : List DbgEvent
  nextId : Nat
  nextWg : Nat
  nextLaunch : Nat
  freeCtr : Nat
  cur : Issuer
  agenda : List Move
  deriving DecidableEq, Repr

/-! ### After power-on -/

/-- No round (R120). -/
def Round.idle : Round :=
  { st := .idle, width := 0, entries := [], inst := 0, ist := .none, owner := 0, masks := [], nc := 0, psize := 0,
    ret := 0, privBase := 0, privGen := 0, committed := 0, cmpDone := false, atCmp := false, reserved := [], appended := [],
    offsets := [], passed := [] }

/-- A token when its warp is created (R282). -/
def Token.fresh : Token :=
  { count := 0, seq := 0, status := 0, resume := 0, sq := 0, more := false, stale := false, staleAddr := 0 }

/-- A barrier at admission (R270). -/
def Bar.fresh : Bar := { phase := 0, arrived := 0, expect := none }

/-- A channel at admission (R275). -/
def Chan.fresh : Chan :=
  { st := .closed, endpoint := 0, ring := 0, size := 0, delivered := 0, received := 0, kept := 0, err := false }

/-- A matrix array at power-on: nothing claimed, contents zero (log 2). -/
def MArray.reset : MArray :=
  { slots := [], claims := [], acc := [], pb := [], pbFmt := [], srow := [], scol := [], flags := 0, suspect := false,
    suspectAcc := false, fault := none }

/-- A core at power-on: every tag 0, G = 1 and the sweep starts 1 (R112), counters and phase 0 (R96). -/
def Core.reset : Core :=
  { gen := 1, sweepDone := 1, sweepNow := 1, sweepPos := 0, cycle := 0, data := [], badGrans := [], tags := [], rows := [], warps := [],
    regacq := [], cnt0 := 0, cnt1 := 0, phase := 0, f := 0, c := 0, tlb := [], copyTlb := [], codeTlb := [], icache := [], walks := [],
    copies := [], trails := [], array := MArray.reset, mxSpace := none, bins := [], frozen := false, issueClock := 0, quads := [], staged := 0 }

/-- A Vesper node at power-on (R96). -/
def Vesper.reset : Vesper :=
  { f := 0, c := 0, phase := 0, moves := 0, acks := [], drained := [], poll := none }

/-- A monitor at power-on (Table 23.7). -/
def Monitor.reset : Monitor :=
  { lastAt := 0, freeze := false, src := 0, qty := 0, min := 0xFFFF_FFFF, max := 0, cnt := 0, bins := [], due := [] }

/-- CORESTAT at power-on (Table 23.5). -/
def CoreStat.reset : CoreStat := { suspects := 0, strikes := 0, pendret := false }

/-- A router with nothing queued (R350, R351). -/
def Router.reset : Router := { inq := [], outs := [], full := false }

/-- A free router output (R351). DESIGN CHOICE (log 70): its turns begin at VC0 and at the local input. -/
def RouterOut.reset : RouterOut := { holder := none, vc := 0, grants := 0, last := [4, 4, 4, 4], cycle := none }

/-- A die at power-on (Table 23.2); thresholds 0 and ten spares until an image says otherwise (log 13), 40 degrees
until a sensor is sampled (log 16). -/
def Die.reset : Die :=
  { vesper := Vesper.reset, parked0 := 0, parked1 := 0, ck0 := 0, ck1 := 0, poolHead := 0, poolTail := 0, poolOwner := [],
    mailbox := [], routers := [], weights := Config.meshWeights, cycle := 0, sched := 0, turn := none, elbase := 0,
    elen := false, ellog2n := 0, elprod := 0, elcons := 0, susthr := 0, strthr := 0, drops := 0, spareout := false,
    spares := 10, ckpts := 0, rollbacks := 0, mismatches := 0, thirds := 0, replays := 0, strikes := 0,
    corestat := [], corrected := [], monitors := [], stopped := false, temp := 40, beatAt := 0, tcm := [],
    retired := [], spareRows := [], spareBanks := [], strikesAt := 0, flipAt := 0 }

/-- A logical device at power-on (Tables 21.2, 22.1, 24.1, 20.6). -/
def Dev.reset : Dev :=
  { wqtbase := 0, savebase := 0, savesize := 0, ckptbase := 0, ckptsize := 0, stagebase := [], spillbase := [],
    poolqbase := [], poolqlog2n := [], launchCtr := 0, sptbase := 0, ftbase := 0, fqbase := 0, fqen := false,
    fqlog2n := 0, fqprod := 0, fqcons := 0, fqwait := [], fqknown := [], rqbase := 0, rqlog2n := 0, rqtotal := 0, retire := [], invalseq := 0, invals := [], pools := [], returns := [], bounce := [], pageins := [],
    asides := [], wq := [], saveUsed := 0, ckptUsed := 0, ckptBad := [], podIn := [], podTold := [], vesper := Vesper.reset, pod := Vesper.reset,
    inTlb := [], dawn := [], rootdev := 0, span := false, devnum := 0, podmem := 0, route := [], clkpt := 0,
    clkTarget := 0, eclkpt := 0, calm := 0, role := 0, hcshare := 0 }

/-- A command queue at power-on (Table 21.1). -/
def CQueue.reset : CQueue :=
  { qbase := 0, slice := 0, nosteal := false, en := false, homedie := 0, prio := 0, log2n := 0, kick := 0, ridx := 0,
    erridx := 0, err := 0, state := 0, owner := 0, since := 0, ready := false, turnFrom := none, lapsed := false, thief := none,
    cur := none, waiting := false, open_ := [] }

/-- A sequencer with no cluster group (Table 14.1). -/
def Sequencer.reset : Sequencer :=
  { members := [], q := [], pc := 0, clause := none, argaddr := 0, queue := [], running := none, fifo := [],
    cur := none, ending := none, stalled := none, argAt := none, part := [] }

/-- A CXL port at power-on (Table 20.2). -/
def Cxl.reset : Cxl := { en := false, state := 0, cap := 0 }
/-- An export at power-on (Table 20.3). -/
def Export.reset : Export := { key := 0, space := 0, valid := false, ring := false, size := 0, base := 0 }
/-- A peer window at power-on (Table 20.4). -/
def Window.reset : Window := { size := 0, valid := false, target := 0, exp := 0, key := 0 }
/-- A peer link at power-on (Table 24.1). -/
def Link.reset : Link := { en := false, state := 0, peer := 0, missed := 0, heard := false }

/-- An image of nothing (R139: checkpoint 0 has no scratchpad content). -/
def WgImage.empty : WgImage :=
  { warps := [], rows := [], grans := [], privs := [], bars := [], chans := [], array := none, seq := none }

/-- Checkpoint state before any checkpoint (R139). -/
def Ckpt.fresh : Ckpt :=
  { phase := .idle, number := 0, committed := WgImage.empty, pending := none, tau := 0, tauId := 0, freeId := 0, ackAt := none, lapsed := false, saving := false, die := 0, lastTaken := 0,
    again := false, rollbacks := 0, ext := none, extWindow := none, sigma := 0, agreed := 0, sigmaAt := 0,
    mismatches := 0, unverified := [], written := [], firstOffsets := [], nextOffsets := [], extAt := 0, extBusy := false, popped := false, restoring := false, pendingSave := false,
    ready := false }

/-- The package at power-on (Tables 20.5, 23.1, 24.4); PWRCAP is the nominal power until an image says otherwise (log 13),
DRAM repair is off until one sets its threshold (R411; DESIGN CHOICE, log 13), and no identity key is derived before STAGE 1
(log 14). -/
def Package.reset : Package :=
  { mode := 0, refused := false, busy := false, modeNext := 0, cxl := [], coremap := [], rasBusy := false,
    rasRefused := false, repout := 0, booterr := 0, stage := 0, idkey := 0, meas := 0, repair := 0, firmware := 0,
    attreqs := [], attdrop := false, dramthr := 0, links := [], pwr := 0, pwrcap := 3600, ctlAt := 0, badPos := [] }

/-- The machine right after power-on: every unit at its reset value, nothing running, nothing in memory. -/
def State.reset : State :=
  { pkg := Package.reset, devs := [], dies := [], cores := [], seqs := [], queues := [], exports := [], windows := [],
    launches := [], wgs := [], mem := [], cmem := [], poison := [], net := [], aside := [], msgs := [], inWait := [], linkOut := [], debug := [],
    nextId := 0, nextWg := 0, nextLaunch := 0, freeCtr := 0, cur := .nobody, agenda := [] }

end Sys2Proof.Machine
end

