-- ==== Sys2Proof/Machine/Ops.lean ====
section
/-! DEFINITION. The named operations every meaning is built from: finite maps and memory, the units of the machine,
lanes, register rows and their tags, and the warp frontier. -/

namespace Sys2Proof.Machine

/-! ### Finite maps and memory -/

/-- Look a key up. -/
def fget {α : Type} : FMap α → Nat → Option α
  | [], _ => none
  | (k, v) :: m, i => if k = i then some v else if i < k then none else fget m i

/-- Put a value at a key, keeping the keys rising. -/
def fput {α : Type} : FMap α → Nat → α → FMap α
  | [], i, x => [(i, x)]
  | (k, v) :: m, i, x => if k = i then (i, x) :: m else if i < k then (i, x) :: (k, v) :: m else (k, v) :: fput m i x

/-- Remove a key. -/
def fdel {α : Type} : FMap α → Nat → FMap α
  | [], _ => []
  | (k, v) :: m, i => if k = i then m else if i < k then (k, v) :: m else (k, v) :: fdel m i

/-- Change the value at a key, if there is one. -/
def fupd {α : Type} (m : FMap α) (i : Nat) (f : α → α) : FMap α :=
  match fget m i with
  | some x => fput m i (f x)
  | none => m

/-- The byte at an address; an unlisted address reads 0 (log 1, log 2). -/
def memRead (m : Mem) (a : Nat) : Byte := (fget m a).getD 0

/-- Write one byte, keeping the canonical form. -/
def memWrite (m : Mem) (a : Nat) (b : Byte) : Mem := if b = 0 then fdel m a else fput m a b

/-- The keys from a lower bound on rise, and no byte is the one an unlisted address reads as. -/
def memWfFrom : Nat → Mem → Bool
  | _, [] => true
  | lo, (a, b) :: m => decide (lo ≤ a) && decide (b ≠ 0) && memWfFrom (a + 1) m

/-- The canonical form: rising addresses, no listed zero. -/
def memWf (m : Mem) : Bool := memWfFrom 0 m

/-- n bytes from an address, lowest first. -/
def memBytes (m : Mem) (a n : Nat) : List Byte := (List.range n).map fun i => memRead m (a + i)

/-- The little-endian number of a byte list (R5). -/
def natOfBytes : List Byte → Nat
  | [] => 0
  | b :: bs => b.toNat + 256 * natOfBytes bs

/-- n bytes of a number, lowest first (R5). -/
def bytesOfNat : Nat → Nat → List Byte
  | 0, _ => []
  | n + 1, x => BitVec.ofNat 8 x :: bytesOfNat n (x / 256)

/-- Read n bytes as a number. -/
def memNat (m : Mem) (a n : Nat) : Nat := natOfBytes (memBytes m a n)

/-- Write a byte list. -/
def memWriteBytes : Mem → Nat → List Byte → Mem
  | m, _, [] => m
  | m, a, b :: bs => memWriteBytes (memWrite m a b) (a + 1) bs

/-- Write n bytes of a number. -/
def memWriteNat (m : Mem) (a n x : Nat) : Mem := memWriteBytes m a (bytesOfNat n x)

/-- Write only the bits of `keep` in n bytes (a merged byte of R70 keeps the rest). -/
def memMerge (m : Mem) (a n x keep : Nat) : Mem :=
  let old := memNat m a n
  memWriteNat m a n ((old &&& (2 ^ (8 * n) - 1 - keep)) ||| (x &&& keep))

/-- Change the i-th element of a list. -/
def setAt {α : Type} : List α → Nat → α → List α
  | [], _, _ => []
  | _ :: xs, 0, y => y :: xs
  | x :: xs, n + 1, y => x :: setAt xs n y

/-- Remove the i-th element of a list. -/
def dropAt {α : Type} : List α → Nat → List α
  | [], _ => []
  | _ :: xs, 0 => xs
  | x :: xs, n + 1 => x :: dropAt xs n

/-- The smallest number below n that a test accepts. -/
def firstBelow (n : Nat) (p : Nat → Bool) : Option Nat := (List.range n).find? p

/-- Insert by a strict order into a sorted list, after its equals. -/
def insertBy {α : Type} (lt : α → α → Bool) (x : α) : List α → List α
  | [] => [x]
  | y :: ys => if lt x y then x :: y :: ys else y :: insertBy lt x ys

/-- A stable insertion sort. -/
def sortBy {α : Type} (lt : α → α → Bool) : List α → List α
  | [] => []
  | x :: xs => insertBy (fun a b => !(lt b a)) x (sortBy lt xs)

/-- Align up. -/
def alignUp (x a : Nat) : Nat := (x + a - 1) / a * a

/-! ### Units -/

/-- A die. -/
def State.die (s : State) (d : Nat) : Die := (fget s.dies d).getD Die.reset
/-- A core; an absent one is as at power-on, but for its cycle counter, which counts its die's arithmetic clock. -/
def State.core (s : State) (c : Nat) : Core :=
  match fget s.cores c with
  | some k => k
  | none => { Core.reset with cycle := (s.die (c / 160)).cycle }
/-- Write a core. -/
def State.setCore (s : State) (c : Nat) (k : Core) : State := { s with cores := fput s.cores c k }
/-- Change a core. -/
def State.updCore (s : State) (c : Nat) (f : Core → Core) : State := s.setCore c (f (s.core c))
/-- A logical device. -/
def State.dev (s : State) (k : Nat) : Dev := (fget s.devs k).getD Dev.reset
/-- Write a logical device. -/
def State.setDev (s : State) (k : Nat) (d : Dev) : State := { s with devs := fput s.devs k d }
/-- Change a logical device. -/
def State.updDev (s : State) (k : Nat) (f : Dev → Dev) : State := s.setDev k (f (s.dev k))
/-- Write a die. -/
def State.setDie (s : State) (d : Nat) (x : Die) : State := { s with dies := fput s.dies d x }
/-- Change a die. -/
def State.updDie (s : State) (d : Nat) (f : Die → Die) : State := s.setDie d (f (s.die d))
/-- A cluster's sequencer. -/
def State.seq (s : State) (c : Nat) : Sequencer := (fget s.seqs c).getD Sequencer.reset
/-- Change a cluster's sequencer. -/
def State.updSeq (s : State) (c : Nat) (f : Sequencer → Sequencer) : State :=
  { s with seqs := fput s.seqs c (f (s.seq c)) }
/-- A command queue of a device. -/
def State.queue (s : State) (k q : Nat) : CQueue := (fget s.queues (k * 256 + q)).getD CQueue.reset
/-- Change a command queue. -/
def State.updQueue (s : State) (k q : Nat) (f : CQueue → CQueue) : State :=
  { s with queues := fput s.queues (k * 256 + q) (f (s.queue k q)) }
/-- Change a workgroup, if it exists. -/
def State.updWg (s : State) (g : Nat) (f : Wg → Wg) : State := { s with wgs := fupd s.wgs g f }
/-- Change a launch, if it exists. -/
def State.updLaunch (s : State) (l : Nat) (f : Launch → Launch) : State := { s with launches := fupd s.launches l f }
/-- The warp in a slot. -/
def State.warp? (s : State) (c sl : Nat) : Option Warp := fget (s.core c).warps sl
/-- Write the warp in a slot. -/
def State.setWarp (s : State) (c sl : Nat) (w : Warp) : State :=
  s.updCore c fun k => { k with warps := fput k.warps sl w }
/-- Change the warp in a slot, if there is one. -/
def State.updWarp (s : State) (c sl : Nat) (f : Warp → Warp) : State :=
  s.updCore c fun k => { k with warps := fupd k.warps sl f }

/-- The die of a core (keys are die × 160 + index). -/
def dieOf (c : Nat) : Nat := c / 160
/-- The index of a core on its die (R55, field 0x7C and Table 9.5). -/
def coreIdx (c : Nat) : Nat := c % 160
/-- The cluster of a core by its COREMAP entry: column, row, cluster, position (R372). -/
def corePlace (s : State) (c : Nat) : Nat × Nat × Nat × Nat := (fget s.pkg.coremap c).getD (Config.corePos (coreIdx c))
/-- The cluster key of a core. -/
def clusterOf (s : State) (c : Nat) : Nat := dieOf c * 40 + (corePlace s c).2.2.1
/-- The quadrant of a slot (R25). -/
def quadOf (sl : Nat) : Nat := sl / 12

/-! ### Dies, logical devices and addresses -/

/-- The logical device a die belongs to, the die's position in it, and its dies, per PMODE.MODE (R367, R371, Table
20.4): one device of four dies, two of two, or four of one. -/
def devOfDie (mode d : Nat) : Nat := if mode = 0 then 0 else if mode = 1 then d / 2 else d
/-- The position of a die in its logical device. -/
def posOfDie (mode d : Nat) : Nat := if mode = 0 then d else if mode = 1 then d % 2 else 0
/-- The physical memory channel of a logical one of a die, which is rotated by as many quarter turns as its number (R371). -/
def physChannel (d c : Nat) : Nat := (c + 8 * d) % 32
/-- The number of dies of a logical device. -/
def devDies (mode : Nat) : Nat := if mode = 0 then 4 else if mode = 1 then 2 else 1
/-- The physical die at a position of a logical device. -/
def dieAt (mode k pos : Nat) : Nat := if mode = 0 then pos else if mode = 1 then 2 * k + pos else k
/-- The dies of a logical device. -/
def diesOfDev (mode k : Nat) : List Nat := (List.range (devDies mode)).map (dieAt mode k)
/-- The logical device of a core. -/
def devOfCore (s : State) (c : Nat) : Nat := devOfDie s.pkg.mode (dieOf c)
/-- The cores of a logical device. -/
def coresOfDev (s : State) (k : Nat) : List Nat :=
  (diesOfDev s.pkg.mode k).flatMap fun d => (List.range 160).map (d * 160 + ·)

/-! ### Lanes -/

/-- The lane numbers. -/
def lanes : List Nat := List.range 32
/-- A full mask. -/
def allLanes : Word := 0xFFFF_FFFF
/-- Is a lane in a mask? -/
def hasLane (m : Word) (l : Nat) : Bool := m.getLsbD l
/-- The mask of the lanes a test accepts. -/
def maskOf (p : Nat → Bool) : Word := lanes.foldl (fun m l => if p l then m ||| (1 <<< l) else m) 0
/-- The lanes of a mask, rising. -/
def lanesOf (m : Word) : List Nat := lanes.filter (hasLane m)
/-- The lowest lane of a mask. -/
def lowLane (m : Word) : Option Nat := (lanesOf m).head?
/-- How many lanes. -/
def laneCount (m : Word) : Nat := (lanesOf m).length

/-! ### Register rows and tags (R28, R107 to R110) -/

/-- The key of a warp's vector register in its core: quadrant, physical block, row (R25, R28). -/
def rowKey (sl : Nat) (w : Warp) (r : Nat) : Nat := quadOf sl * 384 + w.blocks.getD (r / 16) 0 * 16 + r % 16
/-- The generation a register is checked against (Table 5.1). -/
def rowGen (w : Warp) (r : Nat) : Nat := if r / 16 < w.base then w.genBase else w.genExt
/-- Does the warp hold a register's block (R29)? -/
def blockHeld (w : Warp) (r : Nat) : Bool := decide (r / 16 < w.base + w.ext)
/-- The row under a key; a row never written has tag 0 and data 0 (R112, log 2). -/
def rowAt (k : Core) (key : Nat) : Row := (fget k.rows key).getD { tag := 0, data := List.replicate 32 0, dirty := false }
/-- Is a register's row stale (R109)? -/
def rowStale (k : Core) (sl : Nat) (w : Warp) (r : Nat) : Bool := decide ((rowAt k (rowKey sl w r)).tag ≠ rowGen w r)
/-- A lane of a vector register; a stale row reads 0 (Table 5.2). -/
def readV (k : Core) (sl : Nat) (w : Warp) (r l : Nat) : Word :=
  if rowStale k sl w r then 0 else (rowAt k (rowKey sl w r)).data.getD l 0
/-- Write some lanes of a vector register: the row adopts its generation, and the lanes of a stale row that the write
does not cover become 0 (R110). -/
def writeV (k : Core) (sl : Nat) (w : Warp) (r : Nat) (m : Word) (f : Nat → Word) : Core :=
  if m = 0 then k
  else
    let data := lanes.map fun l => if hasLane m l then f l else readV k sl w r l
    { k with rows := fput k.rows (rowKey sl w r) { tag := rowGen w r, data := data, dirty := true } }

/-- Read a predicate in every lane; p7 reads 1. -/
def readP (w : Warp) (p : Nat) : Word := if p = 7 then allLanes else w.preds.getD p 0
/-- Write a predicate in some lanes; a write to p7 is discarded (R189). -/
def writeP (w : Warp) (p : Nat) (m : Word) (f : Nat → Bool) : Warp :=
  if p = 7 then w
  else { w with preds := setAt w.preds p ((w.preds.getD p 0 &&& ~~~m) ||| (maskOf f &&& m)) }
/-- Read a scalar register. -/
def readS (w : Warp) (n : Nat) : Word := w.sregs.getD n 0
/-- Write a scalar register; 24 and above discard (Table 9.5). -/
def writeS (w : Warp) (n : Nat) (v : Word) : Warp := if n < 24 then { w with sregs := setAt w.sregs n v } else w

/-! ### The frontier (R14 to R23) -/

/-- The order of R15 alone, which ageing does not change: priority, then PC. -/
def prioLt (a b : Entry) : Bool := decide (b.prio < a.prio) || (decide (a.prio = b.prio) && decide (a.pc.toNat < b.pc.toNat))

/-- The order of R15 with R17: aged entries first, as they aged; then priority, then PC. -/
def entryLt (a b : Entry) : Bool :=
  match a.aged, b.aged with
  | some x, some y => decide (x < y)
  | some _, none => true
  | none, some _ => false
  | none, none => prioLt a b

/-- Put an entry among others, merging with one at the same PC, which keeps the earlier entry's count (R16). A merged
entry that does not wait as both did issues again, so that the newcomers meet the instruction there (R22, R271); its clause's
waits are evaluated again when the newcomers' are to be (R13), and it stays in the earlier entry's clause (log 72). -/
def mergeEntry (es : List Entry) (e : Entry) : List Entry :=
  if e.mask = 0 then es
  else if es.any fun x => decide (x.pc = e.pc) then
    es.map fun x =>
      if x.pc = e.pc then
        { x with mask := x.mask ||| e.mask, mark := none, wait := if x.wait = e.wait then x.wait else .run, waits := x.waits || e.waits }
      else x
  else es ++ [e]

/-- Merge and sort entries (R15, R16). -/
def tidy (es : List Entry) : List Entry := sortBy entryLt (es.foldl mergeEntry [])

/-- A fresh entry at a header. -/
def Entry.at_ (pc : Double) (mask : Word) (prio : Nat) : Entry :=
  { pc := pc, clause := none, mask := mask, prio := prio, age := 0, aged := none, wait := .run, waits := true, mark := none }

/-- The overflow park record of an entry (R18). -/
def overflowPark (e : Entry) (seq : Nat) : Park :=
  { pc := e.pc, clause := e.clause, mask := e.mask, reason := .overflow, va := 0, space := 0, access := 0,
    resolved := false, seq := seq, spill := none }

/-- Give a warp these entries, merged and sorted. Entries held for a trap handler are entries too, so of all of them those after
the eighth in the order of R15 are parked, the highest of them first, whatever their age (R16, R18, R244). -/
def setFrontier (w : Warp) (es : List Entry) : Warp :=
  let all := sortBy (fun a b => prioLt a.1 b.1) ((es.foldl mergeEntry []).map (·, false) ++ w.held.map (·, true))
  let kept := all.take 8
  let rest := all.drop 8
  { w with
    frontier := sortBy entryLt ((kept.filter fun p => !p.2).map Prod.fst)
    held := sortBy entryLt ((kept.filter fun p => p.2).map Prod.fst)
    parks := w.parks ++ (rest.zipIdx.map fun p => overflowPark p.1.1 (w.nextSeq + p.2))
    nextSeq := w.nextSeq + rest.length }

/-- The frontier's entries are held while a handler runs; with the handler's own entry the warp has no more than eight, so
the last of eight held entries in the order of R15 is parked (R18, R244; DEDUCED, log 62). -/
def holdFrontier (w : Warp) : Warp :=
  let es := sortBy prioLt ((w.held ++ w.frontier).foldl mergeEntry [])
  let rest := es.drop 7
  { w with
    held := sortBy entryLt (es.take 7)
    frontier := []
    parks := w.parks ++ (rest.zipIdx.map fun p => overflowPark p.1 (w.nextSeq + p.2))
    nextSeq := w.nextSeq + rest.length }

/-- Replace the i-th entry by others (R16). -/
def replaceEntry (w : Warp) (i : Nat) (es : List Entry) : Warp := setFrontier w (dropAt w.frontier i ++ es)

/-- Is the warp converged (R34)? -/
def converged (w : Warp) : Bool :=
  match w.frontier with
  | [e] => decide (e.mask = w.live) && w.parks.isEmpty && w.held.isEmpty
  | _ => false

/-- Take lanes out of every frontier entry, held entry and park record (R244). -/
def withdraw (w : Warp) (m : Word) : Warp :=
  let cut (es : List Entry) := (es.map fun e => { e with mask := e.mask &&& ~~~m }).filter fun e => decide (e.mask ≠ 0)
  { w with
    frontier := cut w.frontier
    held := cut w.held
    parks := (w.parks.map fun p => { p with mask := p.mask &&& ~~~m }).filter fun p => decide (p.mask ≠ 0) }

/-- An entry after n words of its clause: past the last one it stands at the next clause's header (R177, R179). -/
def stepPast (e : Entry) (n : Nat) : Entry :=
  let pc := e.pc + BitVec.ofNat 64 (4 * n)
  match e.clause with
  | none => { e with pc := pc }
  | some c =>
    if c.hdr.toNat + 4 * (c.count + 1) ≤ pc.toNat then { e with pc := pc, clause := none, waits := true }
    else { e with pc := pc }

/-- Is an address one of a clause's words after the header (R247)? -/
def insideClause (c : Clause) (pc : Double) : Bool :=
  decide (c.hdr.toNat < pc.toNat ∧ (pc.toNat - c.hdr.toNat) % 4 = 0 ∧ pc.toNat - c.hdr.toNat ≤ 4 * c.count)

/-- The clause at a header not read yet, of page 7 and the longest COUNT (R247). -/
def unreadClause (hdr : Double) : Clause := { hdr := hdr, page := 7, count := 15 }

/-- Is a clause one whose header is not read yet? No clause that runs has page 7 (R176). -/
def unread (c : Clause) : Bool := decide (c.page = 7)

/-- RCONV's releases (R22, R23): when every live lane (in handler mode every handler lane, R244) waits at one RCONV
the entry proceeds; when all wait, but not at one, the first does and the split is noted. Lanes that have left the handler wait
for the end of handler mode. -/
def rconvRelease (w : Warp) : Warp :=
  let need := if w.handler = 0 then w.live else w.handler
  let waiting := w.frontier.filter fun e => decide (e.wait = .rconv ∧ e.mask &&& need ≠ 0)
  let m := waiting.foldl (fun m e => m ||| e.mask) 0
  if need = 0 ∨ m &&& need ≠ need then w
  else
    match waiting with
    | [] => w
    | e :: rest =>
      let others := w.frontier.filter fun x => decide (x.pc ≠ e.pc)
      let w := setFrontier w (others ++ [stepPast { e with wait := .run } 1])
      { w with rconvSplit := w.rconvSplit || !rest.isEmpty }

/-- A barrier instruction at which every live lane now waits, since the others have ended, issues again (R271). -/
def barRelease (w : Warp) : Warp :=
  { w with frontier := w.frontier.map fun e => if e.wait = .barrier ∧ e.mask = w.live then { e with wait := .run } else e }

end Sys2Proof.Machine
end

