-- ==== Sys2Proof/Machine/Xlate.lean ====
section
/-! DEFINITION. Addresses: the virtual map (R53), device physical addresses and home slices (R60, R63), the page walk
and its outcomes (R388 to R390), translation caches, and the fault queue (R394, R395). -/

namespace Sys2Proof.Machine

/-! ### Physical addresses -/

/-- Where a device physical address of logical device k lies, as an aperture address (Table 2.4, R361, R364): none in
a reserved range, on a die or a port the device does not have. -/
def apOf (s : State) (k pa : Nat) : Option Nat :=
  let mode := s.pkg.mode
  let d := pa / Config.dieSpan
  if d < devDies mode then
    if pa % Config.dieSpan < Config.dieDram then some (dieAt mode k d * Config.dieSpan + pa % Config.dieSpan) else none
  else if Config.farBase ≤ pa then
    let p := (pa - Config.farBase) / Config.farSpan
    if p < 4 ∧ devOfDie mode p = k then some pa else none
  else none

/-- Is a device physical address in the stacked DRAM of a device of this mode? -/
def nearPa (s : State) (pa : Nat) : Bool :=
  decide (pa / Config.dieSpan < devDies s.pkg.mode) && decide (pa % Config.dieSpan < Config.dieDram)

/-- Read n bytes of device physical memory as a number; a reserved address reads 0. -/
def physNat (s : State) (k pa n : Nat) : Nat :=
  match apOf s k pa with
  | some a => memNat s.mem a n
  | none => 0

/-- Write n bytes of device physical memory; a reserved address takes nothing. -/
def physWrite (s : State) (k pa n x : Nat) : State :=
  match apOf s k pa with
  | some a => { s with mem := memWriteNat s.mem a n x }
  | none => s

/-- The logical core index of a line's home slice (R60). -/
def homeIndex (pa : Nat) : Nat :=
  let h := (pa / 2 ^ 6 % 2 ^ 16) ^^^ (pa / 2 ^ 22 % 2 ^ 16) ^^^ (pa / 2 ^ 38 % 2 ^ 10)
  h * 160 / 2 ^ 16

/-- The die whose slices serve a device physical address (R60). -/
def homeDie (s : State) (k pa : Nat) : Nat :=
  if pa < Config.farBase then dieAt s.pkg.mode k (pa / Config.dieSpan) else (pa - Config.farBase) / Config.farSpan

/-- The core that is a line's home slice. -/
def homeCore (s : State) (k pa : Nat) : Nat := homeDie s k pa * 160 + homeIndex pa

/-! ### The virtual map (R53, R55, R57) -/

/-- A region of Table 2.2. -/
inductive Region where
  | paged | peer (win off : Nat) | slice (idx off : Nat) | local_ (off : Nat) | reserved
  deriving DecidableEq, Repr

/-- The region of an address; nonzero bits [63:56] are reserved. -/
def regionOf (va : Nat) : Region :=
  if va < 0xFD_0000_0000_0000 then .paged
  else if va < 0xFD_4000_0000_0000 then
    .peer ((va - 0xFD_0000_0000_0000) / 2 ^ 40) ((va - 0xFD_0000_0000_0000) % 2 ^ 40)
  else if va < 0xFE_0000_0000_0000 then .reserved
  else if va < 0xFE_0000_2800_0000 then
    .slice ((va - 0xFE_0000_0000_0000) / 2 ^ 20) ((va - 0xFE_0000_0000_0000) % 2 ^ 20)
  else if va < 0xFF_0000_0000_0000 then .reserved
  else if va < 0xFF_0001_0000_0000 then .local_ (va - 0xFF_0000_0000_0000)
  else .reserved

/-- The core behind a window slot of a logical device (R55): none beyond its cores. -/
def coreOfIdx (s : State) (k idx : Nat) : Option Nat :=
  if idx < 160 * devDies s.pkg.mode then some (dieAt s.pkg.mode k (idx / 160) * 160 + idx % 160) else none

/-- The logical core index of a core in its device (R55). -/
def idxOfCore (s : State) (c : Nat) : Nat := posOfDie s.pkg.mode (dieOf c) * 160 + coreIdx c

/-- The bytes of a slice programs address under the home-cache share (Table 2.3). -/
def addressable (share : Nat) : Nat := if share = 0 then 720896 else if share = 1 then 540672 else 360448

/-- Does a logical device exist in the current mode (R367)? -/
def devExists (s : State) (k : Nat) : Bool := decide (k < 4 / devDies s.pkg.mode)
/-- Has a boot failure stopped the package: only images are accepted (R407)? -/
def bootStopped (s : State) : Bool := decide (s.pkg.booterr ≠ 0 ∧ s.pkg.stage < 6)
/-- Does a device take register writes (R373, R407)? -/
def devOpen (s : State) (k : Nat) : Bool := devExists s k && !bootStopped s

/-- An export of a logical device. -/
def exportOf (s : State) (k e : Nat) : Export := (fget s.exports (k * 4096 + e)).getD Export.reset
/-- A peer window of a logical device. -/
def windowOf (s : State) (k w : Nat) : Window := (fget s.windows (k * 64 + w)).getD Window.reset

/-! ### Page tables (R388 to R390, R398) -/

/-- V. -/
def pteV (p : Double) : Bool := p.getLsbD 63
/-- W. -/
def pteW (p : Double) : Bool := p.getLsbD 62
/-- TIER. -/
def pteTier (p : Double) : Nat := (p.extractLsb' 60 2).toNat
/-- PROM. -/
def pteProm (p : Double) : Bool := p.getLsbD 59
/-- COW. -/
def pteCow (p : Double) : Bool := p.getLsbD 58
/-- OWNER. -/
def pteOwner (p : Double) : Nat := (p.extractLsb' 56 2).toNat
/-- LEAF. -/
def pteLeaf (p : Double) : Bool := p.getLsbD 55
/-- SNAP. -/
def pteSnap (p : Double) : Bool := p.getLsbD 54
/-- The physical address in bits [47:8]. -/
def pteAddr (p : Double) : Nat := (p.extractLsb' 8 40).toNat * 256
/-- Set or clear a bit of an entry. -/
def pteSet (p : Double) (b : Nat) (v : Bool) : Double := if v then p ||| (1#64 <<< b) else p &&& ~~~(1#64 <<< b)

/-- The frame-table word of the 64 KiB frame at a physical address (R398). -/
def frameWord (s : State) (k pa : Nat) : Nat × Nat :=
  let f := pa / 65536
  let i :=
    if pa < Config.farBase then 1572864 * (pa / Config.dieSpan) + f % 2097152
    else 6291456 + 16777216 * ((pa - Config.farBase) / Config.farSpan) + (pa - Config.farBase) % Config.farSpan / 65536
  let at_ := (s.dev k).ftbase + 4 * i
  (at_, physNat s k at_ 4)
/-- A frame's OWNER. -/
def frameOwner (s : State) (k pa : Nat) : Nat := (frameWord s k pa).2 / 1024 % 4
/-- A frame's REF. -/
def frameRef (s : State) (k pa : Nat) : Nat := (frameWord s k pa).2 % 256

/-- What a walk finds (Table 22.4): a usable leaf with its place and page size, or a record kind with SUB and the
offending entry. -/
inductive Walked where
  | leaf (pte : Double) (at_ size : Nat)
  | bad (kind sub : Nat) (entry : Double)
  deriving DecidableEq, Repr

/-- The checks of a leaf, in the order of Table 22.4. -/
def checkLeaf (s : State) (k va : Nat) (p : Double) (at_ size : Nat) : Walked :=
  if pteTier p = 3 then .bad 2 3 p
  else if (apOf s k (pteAddr p)).isNone || decide (pteAddr p % size ≠ 0) then .bad 2 4 p
  else if pteOwner p ≠ k ∨ (pteTier p ≠ 1 ∧ frameOwner s k (pteAddr p + va % size) ≠ k) then .bad 2 5 p
  else .leaf p at_ size

/-- The walk below the root's pointer: the levels' index position, index bits, page size and next table size. -/
def walkGo (s : State) (k va : Nat) : List (Nat × Nat × Nat × Nat) → Nat → Walked
  | [], _ => .bad 2 2 0
  | (lo, bits, size, next) :: ls, table =>
    let at_ := table + 8 * (va / 2 ^ lo % 2 ^ bits)
    let p := BitVec.ofNat 64 (physNat s k at_ 8)
    if !pteV p then .bad 1 0 p
    else if pteLeaf p then (if size = 0 then .bad 2 2 p else checkLeaf s k va p at_ size)
    else if ls = [] then .bad 2 2 p
    else if !nearPa s (pteAddr p) || decide (pteAddr p % next ≠ 0) then .bad 2 4 p
    else walkGo s k va ls (pteAddr p)

/-- The walk of a virtual address in a space (R388, R390). -/
def walkPage (s : State) (k space va : Nat) : Walked :=
  let e := BitVec.ofNat 64 (physNat s k ((s.dev k).sptbase + 8 * space) 8)
  if !e.getLsbD 0 then .bad 2 1 e
  else
    let root := (e.extractLsb' 12 36).toNat * 4096
    walkGo s k va [(39, 17, 0, 4096), (30, 9, 2 ^ 30, 4096), (21, 9, 2 ^ 21, 256), (16, 5, 65536, 0)] root

/-- What a leaf answers to an access (Table 22.4): it serves it, refuses the write, is shared, or is a snapshot
page. -/
inductive Permit where
  | ok | wprot | cow | snap
  deriving DecidableEq, Repr

/-- Table 22.4's last rows. -/
def permit (p : Double) (write : Bool) : Permit :=
  if !write then .ok
  else if !pteW p then .wprot
  else if pteCow p then .cow
  else if pteSnap p then .snap
  else .ok

/-! ### Translation caches (R391, R392) -/

/-- Does a cached translation cover an address? -/
def tlbCovers (space va : Nat) (t : Tlb) : Bool := decide (t.space = space ∧ t.va ≤ va ∧ va < t.va + t.size)

/-- Look a translation up. -/
def tlbFind (ts : List Tlb) (space va : Nat) : Option Tlb := ts.find? (tlbCovers space va)

/-- The cached form of a leaf. -/
def tlbOf (space va : Nat) (p : Double) (at_ size : Nat) : Tlb :=
  { space := space, va := va / size * size, size := size, pte := p, pteAt := at_ }

/-- Add a translation. -/
def tlbAdd (ts : List Tlb) (t : Tlb) : List Tlb := if ts.contains t then ts else t :: ts

/-- Where a cached translation puts an address. -/
def tlbPa (t : Tlb) (va : Nat) : Nat := pteAddr t.pte + (va - t.va)

/-- Does an invalidation cover a cached translation (R392)? -/
def invalCovers (q : Inval) (t : Tlb) : Bool :=
  let size := if q.size = 0 then 65536 else if q.size = 1 then 2 ^ 21 else 2 ^ 30
  let base := q.va / size * size
  match q.kind with
  | 0 => decide (t.space = q.space ∧ t.va < base + size ∧ base < t.va + t.size)
  | 1 => decide (t.space = q.space)
  | _ => true

/-- Keep what a test accepts of every translation cache of a logical device. -/
def keepTlbs (s : State) (k : Nat) (ok : Tlb → Bool) : State :=
  let s := s.updDev k fun d => { d with inTlb := d.inTlb.filter ok }
  { s with
    cores := s.cores.map fun p =>
      if devOfCore s p.1 = k then
        (p.1, { p.2 with tlb := p.2.tlb.filter ok, copyTlb := p.2.copyTlb.filter ok, codeTlb := p.2.codeTlb.filter ok })
      else p }

/-- Drop what an invalidation covers from every translation cache of a logical device (R392). -/
def dropTlbs (s : State) (k : Nat) (q : Inval) : State := keepTlbs s k fun t => !invalCovers q t

/-- Look an address up in a translation cache, else walk and keep what a walk finds (R391). -/
def cachedWalk (s : State) (k space va : Nat) (ts : List Tlb) : Walked × List Tlb :=
  match tlbFind ts space va with
  | some t => (.leaf t.pte t.pteAt t.size, ts)
  | none =>
    match walkPage s k space va with
    | .leaf p at_ size => (.leaf p at_ size, tlbAdd ts (tlbOf space va p at_ size))
    | .bad kind sub e => (.bad kind sub e, ts)

/-- A device's compare-and-swap of an entry, followed by its own page invalidation (R393). -/
def casPte (s : State) (k space va at_ : Nat) (old new : Double) : State × Bool :=
  if physNat s k at_ 8 = old.toNat then
    (dropTlbs (physWrite s k at_ 8 new.toNat) k { kind := 0, va := va, space := space, size := 0 }, true)
  else (s, false)

/-! ### The fault queue (R394, R395) -/

/-- Kinds of fault that share one record per page (R394, R395). -/
def pageKind (kind : Nat) : Bool := decide (1 ≤ kind ∧ kind ≤ 4)

/-- The words of a record (Table 22.5). -/
def faultWords (r : FaultRec) : Nat :=
  r.addr * 2 ^ 192 + r.launch * 2 ^ 160 + r.space * 2 ^ 144 + r.core * 2 ^ 128 + r.info * 2 ^ 64 + 2 ^ 31 +
    r.access * 2 ^ 16 + r.sub * 2 ^ 8 + r.kind

/-- Write what fits of the waiting records, in order (R394); a notification takes two (R394). -/
def fqDrainGo (s : State) (k : Nat) : Nat → State
  | 0 => s
  | fuel + 1 =>
    let d := s.dev k
    let n := 2 ^ d.fqlog2n
    match d.fqwait with
    | [] => s
    | r :: rest =>
      let take := if r.entry.isSome then 2 else 1
      if !d.fqen || decide (d.fqcons + n < d.fqprod + take) then s
      else
        let at_ (i : Nat) := d.fqbase + 32 * ((d.fqprod + i) % n)
        let m := memWriteNat s.cmem (at_ 0) 32 (faultWords r)
        let m := match r.entry with | some e => memWriteNat m (at_ 1) 32 e | none => m
        let s := { s with cmem := m }
        fqDrainGo (s.updDev k fun d => { d with fqwait := rest, fqprod := d.fqprod + take }) k fuel

/-- Write the records that fit. -/
def fqDrain (s : State) (k : Nat) : State := fqDrainGo s k (s.dev k).fqwait.length

/-- Post a fault record (R394): faults of one kind on one page share one until the page is resolved. -/
def postFault (s : State) (k : Nat) (r : FaultRec) : State :=
  let d := s.dev k
  let key := (r.kind, r.space, r.addr / 65536)
  let once := pageKind r.kind || decide (r.kind = 10)
  if once && d.fqknown.contains key then s
  else
    fqDrain (s.updDev k fun d =>
      { d with fqwait := d.fqwait ++ [r], fqknown := if once then key :: d.fqknown else d.fqknown }) k

/-- A record of an access of a launch on a core, or of no core. -/
def accessFault (s : State) (addr launch space : Nat) (core : Option Nat) (info access sub kind : Nat) : FaultRec :=
  { addr := addr, launch := launch, space := space, core := (core.map (idxOfCore s)).getD 0xFFFF, info := info, access := access,
    sub := sub, kind := kind, entry := none }

end Sys2Proof.Machine
end

