-- ==== Sys2Proof/Machine/Pool.lean ====
section
/-! DEFINITION. Pool front ends and the dies' pool queues (R40, R41, R44 to R46): bins, pushes, refills, and what goes with an
aborted launch. -/

namespace Sys2Proof.Machine

/-- The slots of a die's pool queue (R46). -/
def poolSlots (s : State) (d : Nat) : Nat :=
  2 ^ (fget (s.dev (devOfDie s.pkg.mode d)).poolqlog2n (posOfDie s.pkg.mode d)).getD 0
/-- The base of a die's pool queue, device physical; 0 when none is placed. -/
def poolBase (s : State) (d : Nat) : Nat :=
  (fget (s.dev (devOfDie s.pkg.mode d)).poolqbase (posOfDie s.pkg.mode d)).getD 0
/-- Where record i of a die's queue lies. -/
def poolAt (s : State) (d i : Nat) : Nat := poolBase s d + 32 * (i % poolSlots s d)

/-- A bin that takes a launch's record: the one bound to its code pointer if it has room, else an empty one (R41, log 34). -/
def binFor (k : Core) (lid : Nat) (code : Double) : Option Nat :=
  match firstBelow 16 fun i => match fget k.bins i with | some b => decide (b.code = code ∧ b.launch = lid) | none => false with
  | some i => (match fget k.bins i with | some b => if b.recs.length < Config.binSize then some i else none | none => none)
  | none => firstBelow 16 fun i => (fget k.bins i).isNone

/-- Put a record in a bin. -/
def binPut (k : Core) (i lid : Nat) (code frame join : Double) : Core :=
  let r := (k.cycle, frame, join)
  let b := match fget k.bins i with
    | some b => { b with recs := b.recs ++ [r] }
    | none => { launch := lid, code := code, recs := [r] }
  { k with bins := fput k.bins i b }

/-- Push a launch's record to a core's front end, or to the tail of the die's queue (R41, R46). -/
def frontPush (s : State) (c lid : Nat) (code frame join : Double) : State :=
  match binFor (s.core c) lid code with
  | some i => s.updCore c fun k => binPut k i lid code frame join
  | none =>
    let d := dieOf c
    let s := physWrite s (devOfDie s.pkg.mode d) (poolAt s d (s.die d).poolTail) 32
      (code.toNat + frame.toNat * 2 ^ 64 + join.toNat * 2 ^ 128)
    s.updDie d fun x => { x with poolTail := x.poolTail + 1, poolOwner := x.poolOwner ++ [lid] }

/-- Has a launch a pool workgroup on a core, be it resident or saved? -/
def poolHere (s : State) (c lid : Nat) : Bool :=
  s.wgs.any fun p => p.2.pool && decide (p.2.core = c ∧ p.2.launch = lid ∧ p.2.phase ≠ .ended)

/-- Record i leaves a die's queue; those before it move up one slot. -/
def queueTake (s : State) (d i : Nat) : State :=
  let x := s.die d
  let k := devOfDie s.pkg.mode d
  let early := (List.range i).map fun j => (j, physNat s k (poolAt s d (x.poolHead + j)) 32)
  let s := early.foldl (fun s p => physWrite s k (poolAt s d (x.poolHead + p.1 + 1)) 32 p.2) s
  s.updDie d fun x => { x with poolHead := x.poolHead + 1, poolOwner := dropAt x.poolOwner i }

/-- When a bin becomes empty, records move from the head of the die's queue into bins, up to the first that finds none
(R41). DESIGN CHOICE (log 34): a core's front end passes over the records of launches that have no pool workgroup on the core,
whose threads it could never run (R42, R51). -/
def binRefill (s : State) (c : Nat) : Nat → State
  | 0 => s
  | n + 1 =>
    let d := dieOf c
    let x := s.die d
    match x.poolOwner.zipIdx.find? fun p => poolHere s c p.1 with
    | none => s
    | some (lid, i) =>
      let k := devOfDie s.pkg.mode d
      let at_ := poolAt s d (x.poolHead + i)
      let word (i : Nat) : Double := BitVec.ofNat 64 (physNat s k (at_ + 8 * i) 8)
      match binFor (s.core c) lid (word 0) with
      | none => s
      | some b => binRefill (queueTake (s.updCore c fun k' => binPut k' b lid (word 0) (word 1) (word 2)) d i) c n

/-- The records of a launch leave a die's queue; the others move up in order (log 34). -/
def purgeQueue (s : State) (d lid : Nat) : State :=
  let x := s.die d
  let k := devOfDie s.pkg.mode d
  let kept := (x.poolOwner.zipIdx.filter fun p => decide (p.1 ≠ lid)).map fun p => (p.1, physNat s k (poolAt s d (x.poolHead + p.2)) 32)
  let s := kept.zipIdx.foldl (fun s p => physWrite s k (poolAt s d (x.poolHead + p.2)) 32 p.1.2) s
  s.updDie d fun x => { x with poolTail := x.poolHead + kept.length, poolOwner := kept.map Prod.fst }

/-- The records of a launch leave a core's bins; bins that become empty take records from the die's queue. -/
def purgeBins (lid : Nat) (s : State) (c : Nat) : State :=
  let k := s.core c
  let bins := k.bins.filter fun b => decide (b.2.launch ≠ lid)
  if bins.length = k.bins.length then s
  else binRefill (s.setCore c { k with bins := bins }) c (s.die (dieOf c)).poolOwner.length

/-- The records of a pool launch leave a die's queue and bins (R45). -/
def purgePool (s : State) (d lid : Nat) : State :=
  let s := if (s.die d).poolOwner.contains lid then purgeQueue s d lid else s
  ((s.cores.map Prod.fst).filter fun c => decide (dieOf c = d)).foldl (purgeBins lid) s

end Sys2Proof.Machine
end

