-- ==== Sys2Proof/Machine/Teardown.lean ====
section
/-! DEFINITION. What ends: lanes leaving their sections (R93, R94, R104), warps and their blocks (R24, R27), workgroups
and their slots (R27), launches and their completion (R244, R381, R384). -/

namespace Sys2Proof.Machine

/-! ### Section counts (R93, R105) -/

/-- Add to or take from a core's section counter of a phase. -/
def addCnt (k : Core) (ph : Nat) (d : Int) : Core :=
  if ph = 0 then { k with cnt0 := ((k.cnt0 : Int) + d).toNat } else { k with cnt1 := ((k.cnt1 : Int) + d).toNat }

/-- The section depth of a lane. -/
def depthOf (w : Warp) (l : Nat) : Nat := w.depth.getD l 0
/-- The section phase of a lane. -/
def phaseOf (w : Warp) (l : Nat) : Nat := if hasLane w.phase l then 1 else 0
/-- How many of some lanes are in a section of a phase. -/
def inSection (w : Warp) (m : Word) (ph : Nat) : Nat :=
  ((lanesOf m).filter fun l => decide (depthOf w l ≠ 0) && decide (phaseOf w l = ph)).length

/-- Some lanes leave their sections: their counts leave the core's counters (R94, R104). -/
def leaveSections (k : Core) (w : Warp) (m : Word) : Core :=
  addCnt (addCnt k 0 (-(inSection w m 0 : Int))) 1 (-(inSection w m 1 : Int))

/-- Requests of a core that hold an implicit count of a phase (R105): in Brine, travelling, or set aside. -/
def implicitIn (c ph : Nat) (rs : List Req) : Nat :=
  (rs.filter fun r => decide (r.core = c ∧ r.phase = ph)).foldl (fun n r => n + r.lanes.length) 0

/-- Peer accesses that have been checked and wait, which are readers of a core's phase (R366). -/
def checkedIn (c ph : Nat) (cs : List (Option Checked)) : Nat :=
  (cs.filter fun x => match x with | some x => decide (x.core = c ∧ x.phase = ph) | none => false).length

/-- The implicit counts of a core (R105, R366). -/
def implicitCnt (s : State) (c ph : Nat) : Nat :=
  implicitIn c ph s.net + implicitIn c ph s.aside +
    checkedIn c ph (s.net.map Req.via) + checkedIn c ph (s.inWait.map Inbound.checked) +
    checkedIn c ph (s.cores.flatMap fun p => p.2.copies.map CopyCmd.via) +
    s.wgs.foldl (fun n p => n + implicitIn c ph (p.2.laneQ ++ p.2.copyQ ++ p.2.chanQ ++ p.2.appQ ++ p.2.sub)) 0 +
    (s.core c).copies.foldl (fun n q => n + (q.phases.filter fun x => decide (x = ph)).length) 0 +
    (s.core c).trails.foldl (fun n q => n + (q.phases.filter fun x => decide (x = ph)).length) 0

/-- CNTφ of a core, implicit counts included (R93, R105). -/
def cntOf (s : State) (c ph : Nat) : Nat :=
  (if ph = 0 then (s.core c).cnt0 else (s.core c).cnt1) + implicitCnt s c ph

/-! ### Blocks and slots (R25, R28) -/

/-- The physical blocks in use in a quadrant: held by warps or reserved for clones (R120). -/
def usedBlocks (k : Core) (q : Nat) : List Nat :=
  k.warps.flatMap fun p =>
    if quadOf p.1 = q then p.2.blocks ++ p.2.round.reserved.flatMap Reserve.blocks else []

/-- The lowest free blocks of a quadrant (log 17). -/
def freeBlocks (k : Core) (q : Nat) : List Nat :=
  (List.range Config.blocksPerQuad).filter fun b => !(usedBlocks k q).contains b

/-- Slots in use: by warps or reserved for clones. -/
def usedSlots (k : Core) : List Nat := k.warps.flatMap fun p => p.1 :: p.2.round.reserved.map Reserve.slot

/-- The lowest free slots of a quadrant (log 17). -/
def freeSlots (k : Core) (q : Nat) : List Nat :=
  ((List.range Config.slotsPerQuad).map (q * Config.slotsPerQuad + ·)).filter fun sl => !(usedSlots k).contains sl

/-- A warp leaves its slot: its lanes leave their sections, its blocks, waits, copies and walks go (R27, R94). -/
def dropWarp (s : State) (c sl : Nat) : State :=
  match s.warp? c sl with
  | none => s
  | some w =>
    s.updCore c fun k =>
      let k := leaveSections k w w.live
      { k with
        warps := fdel k.warps sl
        regacq := k.regacq.map fun p => (p.1, p.2.filter fun r => decide (r.1 ≠ sl))
        copies := k.copies.filter fun q => decide (q.slot ≠ sl)
        walks := k.walks.filter fun q => decide (q.slot ≠ sl) }

/-- The slots of a workgroup's warps. -/
def wgSlots (k : Core) (g : Nat) : List Nat := (k.warps.filter fun p => decide (p.2.wg = g)).map Prod.fst

/-! ### Workgroups -/

/-- A move of counts passes a die's node (R99). -/
def addMove (s : State) (d : Nat) : State :=
  s.updDie d fun x => { x with vesper := { x.vesper with moves := x.vesper.moves + 1 } }

/-- Counts of a checkpoint's recorded sections leave or enter the die's checkpoint counts (Table 4.4). -/
def addCk (s : State) (d : Nat) (n0 n1 : Int) : State :=
  s.updDie d fun x => { x with ck0 := ((x.ck0 : Int) + n0).toNat, ck1 := ((x.ck1 : Int) + n1).toNat }

/-- The sections a saved image records, per phase. -/
def imageSections (im : WgImage) (ph : Nat) : Nat := im.warps.foldl (fun n p => n + inSection p.2 p.2.live ph) 0

/-- A cluster group's claims and sequencer go when its last member's slot is freed (R108, R309). -/
def releaseGroup (s : State) (cl : Nat) : State :=
  let d := cl / 40
  let mine := (List.range 160).filter fun j => decide (clusterOf s (d * 160 + j) = cl)
  let s := mine.foldl (fun s j => s.updCore (d * 160 + j) fun k => { k with array := { k.array with claims := [] } }) s
  { s with seqs := fdel s.seqs cl }

/-- Does a workgroup still hold its slot, scratchpad and generation (R27)? -/
def holdsSlot (x : Wg) : Bool := decide (x.phase = .resident ∨ x.phase = .stopping ∨ x.phase = .saving)

/-- Has a workgroup anything left in Brine? -/
def brineEmpty (x : Wg) : Bool :=
  x.laneQ.isEmpty && x.copyQ.isEmpty && x.chanQ.isEmpty && x.appQ.isEmpty && x.sub.isEmpty && x.left.isEmpty

/-- While a workgroup is rolled back, the sections of its committed checkpoint stand in its core's counters until its warps
take them (R99, R104): they enter, or leave with a restore that does not come. -/
def addRestoring (s : State) (x : Wg) (n : Int) : State :=
  let im := x.ck.committed
  s.updCore x.core fun k => addCnt (addCnt k 0 (n * imageSections im 0)) 1 (n * imageSections im 1)

/-- A workgroup's slot, allocation and generation are freed (R27); the counts of its committed checkpoint, and of a
saved context, leave their dies (Table 4.4), and its pool areas return (R374, R384). Its Brine entries stay until they
have performed. A cluster group that is saved has left its cluster already. -/
def freeWg (s : State) (g : Nat) : State :=
  match fget s.wgs g with
  | none => s
  | some x =>
    if x.phase = .ended then s
    else
      let s := if x.ck.restoring then addRestoring s x (-1) else s
      let s := addCk s x.ck.die (-(imageSections x.ck.committed 0 : Int)) (-(imageSections x.ck.committed 1 : Int))
      let s :=
        match x.phase, x.image with
        | .saved, some im =>
          s.updDie (dieOf x.core) fun d =>
            { d with parked0 := d.parked0 - imageSections im 0, parked1 := d.parked1 - imageSections im 1 }
        | _, _ => s
      let s := s.updDev (devOfCore s x.core) fun d =>
        { d with saveUsed := d.saveUsed - x.saveUnits, ckptUsed := d.ckptUsed - x.ckUnits }
      let s := s.updWg g fun x => { x with phase := .ended, saveUnits := 0, ckUnits := 0, image := none }
      match x.cg with
      | none => s
      | some cg =>
        if x.phase = .saved ∨ s.wgs.any fun p => decide (p.2.cg = some cg ∧ p.2.phase ≠ .ended) then s
        else releaseGroup s (clusterOf s x.core)

/-- Is a workgroup of a cluster group that still has a member with its slot? Its position stays in the group's array set
(R307). -/
def inLiveGroup (s : State) (x : Wg) : Bool :=
  match x.cg with
  | some cg => s.wgs.any fun p => decide (p.2.cg = some cg ∧ p.2.phase ≠ .ended)
  | none => false

/-- A freed workgroup with nothing left in Brine is forgotten. -/
def forgetWgs (s : State) : State :=
  { s with wgs := s.wgs.filter fun p => !(decide (p.2.phase = .ended) && brineEmpty p.2 && !inLiveGroup s p.2) }

/-- Pops and pushes of a workgroup that wait at work queues are withdrawn, but for those a test keeps (R274). -/
def withdrawWq (s : State) (g : Nat) (kept : Req → Bool) : State :=
  let keep (rs : List Req) := rs.filter fun r => decide (r.wg ≠ g) || kept r
  { s with
    devs := s.devs.map fun p =>
      (p.1, { p.2 with wq := p.2.wq.map fun q => (q.1, { pops := keep q.2.pops, pushes := keep q.2.pushes }) }) }

/-- A workgroup is torn down: its warps end without handlers, its held entries are discarded (R94, R138). -/
def tearWg (s : State) (g : Nat) : State :=
  match fget s.wgs g with
  | none => s
  | some x =>
    let s := (wgSlots (s.core x.core) g).foldl (fun s sl => dropWarp s x.core sl) s
    let s := s.updCore x.core fun k =>
      { k with copies := k.copies.filter fun q => decide (q.wg ≠ g), trails := k.trails.filter fun q => decide (q.wg ≠ g) }
    let s := withdrawWq s g fun _ => false
    let s := freeWg s g
    { s with wgs := fdel s.wgs g }

/-! ### Launches -/

/-- The workgroups of a launch. -/
def launchWgs (s : State) (l : Nat) : List Nat := (s.wgs.filter fun p => decide (p.2.launch = l)).map Prod.fst

/-- The records of a pool launch leave its dies' bins and queues (R45). -/
def clearBins (s : State) (l : Nat) : State :=
  match fget s.launches l with
  | none => s
  | some x => if x.rec_.kind ≠ 2 then s else (diesOfDev s.pkg.mode x.dev).foldl (fun s d => purgePool s d l) s

/-- End a launch with a status (R381): its workgroups are torn down; LAUNCH_COMPLETE writes the record. -/
def endLaunch (s : State) (l status cause : Nat) (tpc : Double) (wgidx : Nat) (double : Bool) : State :=
  let s := (launchWgs s l).foldl tearWg s
  let s := clearBins s l
  s.updLaunch l fun x =>
    { x with phase := .ended, status := status, cause := cause, tpc := tpc, wgidx := wgidx, double := double }

/-- A trap with no handler, or inside one, aborts the launch (R244). -/
def abortTrap (s : State) (g cause : Nat) (tpc : Double) (double : Bool) : State :=
  match fget s.wgs g with
  | none => s
  | some x => endLaunch s x.launch 1 cause tpc x.index double

end Sys2Proof.Machine
end

