-- ==== Sys2Proof/Machine/Replay.lean ====
section
/-! DEFINITION. The error log and a core's history (R409, R410), and launch replay's beginning (R137, R138, R153, R404). -/

namespace Sys2Proof.Machine

/-! ### The error log (R409, R410) -/

/-- An error record (Table 23.4) before it is placed in the log. SUB and DETAIL are none where the manual states no value,
`pos` is the mesh position of a record that no core's place gives. -/
structure ErrRec where
  kind : Nat
  sub : Option Nat := none
  core : Option Nat := none
  pos : Option (Nat × Nat) := none
  launch : Nat := 0
  addr : Nat := 0
  detail : Option Nat := none
  deriving DecidableEq, Repr

/-- The 256 bits of a record; what the manual does not state is a free value (log 5). -/
def errWords (s : State) (d : Nat) (r : ErrRec) : Nat :=
  let f := (Config.freeWord s.freeCtr).toNat
  let g := (Config.freeWord (s.freeCtr + 1)).toNat
  let at_ := match r.core with | some c => ((corePlace s c).1, (corePlace s c).2.1) | none => r.pos.getD (g % 32, g / 32 % 16)
  let idx := match r.core with | some c => idxOfCore s c | none => 0xFFFF
  (s.die d).cycle * 2 ^ 192 + r.addr * 2 ^ 128 + r.launch * 2 ^ 96 + idx * 2 ^ 80 + at_.2 * 2 ^ 76 + at_.1 * 2 ^ 71 +
    r.detail.getD f * 2 ^ 32 + 2 ^ 31 + r.sub.getD (g / 512 % 256) * 2 ^ 8 + r.kind

/-- Add to a saturating 32-bit counter. -/
def sat32 (n : Nat) : Nat := min (n + 1) 0xFFFF_FFFF

/-- Log a record on a die: a full or closed log drops it (R410). -/
def logError (s : State) (d : Nat) (r : ErrRec) : State :=
  let x := s.die d
  let n := 2 ^ x.ellog2n
  if x.elen && decide (x.elprod < x.elcons + n) then
    let s := { s with cmem := memWriteNat s.cmem (x.elbase + 32 * (x.elprod % n)) 32 (errWords s d r) }
    { s.updDie d fun x => { x with elprod := x.elprod + 1 } with freeCtr := s.freeCtr + 2 }
  else s.updDie d fun x => { x with drops := sat32 x.drops }

/-- CORESTAT of a core. -/
def coreStat (s : State) (c : Nat) : CoreStat := (fget (s.die (dieOf c)).corestat (coreIdx c)).getD CoreStat.reset

/-- Change a core's CORESTAT; a count that reaches its nonzero threshold sets PENDRET (R409). -/
def updStat (s : State) (c : Nat) (f : CoreStat → CoreStat) : State :=
  let x := s.die (dieOf c)
  let y := f (coreStat s c)
  let past (n thr : Nat) : Bool := decide (thr ≠ 0 ∧ thr ≤ n)
  let y := { y with pendret := y.pendret || past y.suspects x.susthr || past y.strikes x.strthr }
  s.updDie (dieOf c) fun x => { x with corestat := fput x.corestat (coreIdx c) y }

/-- A monitor of a die. -/
def monitorOf (s : State) (d m : Nat) : Monitor := (fget (s.die d).monitors m).getD Monitor.reset

/-- Does a monitor take samples of a quantity of a core, or of its die (R412, Table 23.7)? -/
def takesSample (qty : Nat) (core : Option Nat) (m : Monitor) : Bool :=
  decide (m.qty = qty) && !m.freeze && (core.isNone || decide (m.src = 0x3FF) || decide (core.map coreIdx = some m.src))

/-- A sample of a quantity is taken on a die: its monitors of that quantity and source have it to count (R412). -/
def noteSample (s : State) (d qty : Nat) (core : Option Nat) (v : Nat) : State :=
  if (s.die d).monitors.any fun p => takesSample qty core p.2 then
    s.updDie d fun x =>
      { x with monitors := x.monitors.map fun p =>
          if takesSample qty core p.2 then (p.1, { p.2 with due := p.2.due ++ [min v 0xFFFF_FFFF] }) else p }
  else s

/-- The bin of a sample (R412). -/
def monitorBin (v : Nat) : Nat := if v = 0 then 0 else min 31 (Nat.log2 v + 1)

/-- A monitor counts a sample, in one step (R412). -/
def countSample (m : Monitor) (v : Nat) : Monitor :=
  { m with
    min := min m.min v, max := max m.max v, cnt := (m.cnt + 1) % 2 ^ 64,
    bins := fput m.bins (monitorBin v) (sat32 ((fget m.bins (monitorBin v)).getD 0)) }

/-- A monitor has counted every sample taken so far. -/
def countDue (m : Monitor) : Monitor := { m.due.foldl countSample m with due := [] }

/-- A suspect operation is added to its core's history (R152, R409). -/
def noteSuspect (s : State) (c launch : Nat) : State :=
  let s := updStat s c fun y => { y with suspects := min (y.suspects + 1) 0xFFFF }
  logError s (dieOf c) { kind := 5, core := some c, launch := launch }

/-- A strike report of a mesh position is added to the die's counter and to the history of the core that stands there (R409). -/
def noteStrike (s : State) (d : Nat) (c : Option Nat) (pos : Nat × Nat) (residue : Bool) : State :=
  let s := s.updDie d fun x => { x with strikes := (x.strikes + 1) % 2 ^ 64 }
  let s := match c with
    | some c => updStat s c fun y => { y with strikes := min (y.strikes + 1) 0xFFFF }
    | none => s
  logError s d { kind := if residue then 2 else 1, core := c, pos := some pos }

/-! ### Replay (R138, R404) -/

/-- A launch is to be replayed, seen on a die, with the cause a fourth attempt's abort records (Table 22.7): it is torn
down, and REPLAY_RESTORE runs it again; an attempt 4 ends it with STATUS 2. -/
def startReplay (s : State) (l d cause : Nat) : State :=
  match fget s.launches l with
  | none => s
  | some x =>
    if x.phase ≠ .running then s
    else if 3 ≤ x.attempt then endLaunch s l 2 cause 0 0 false
    else
      let s := (launchWgs s l).foldl tearWg s
      let s := clearBins s l
      let s := s.updLaunch l fun x => { x with phase := .replaying, next := 0, rootsPushed := false }
      let s := s.updDie d fun y => { y with replays := (y.replays + 1) % 2 ^ 64 }
      logError s d { kind := 9, launch := x.id }

/-- The launch of a workgroup is to be replayed. -/
def replayWg (s : State) (g cause : Nat) : State :=
  match fget s.wgs g with
  | some x => startReplay s x.launch (dieOf x.core) cause
  | none => s

/-! ### Poison (R153) -/

/-- Is some line of n bytes at an aperture address uncorrectable? -/
def poisonedAt (s : State) (a n : Nat) : Bool :=
  (List.range ((a + n + 63) / 64 - a / 64)).any fun i => s.poison.contains (a / 64 + i)

/-- Is some line of n bytes at a device physical address uncorrectable? -/
def poisoned (s : State) (k pa n : Nat) : Bool :=
  !s.poison.isEmpty && (match apOf s k pa with | some a => poisonedAt s a n | none => false)

/-- The number of a launch. -/
def launchNo (s : State) (l : Nat) : Nat := match fget s.launches l with | some x => x.id | none => 0

/-- A read on behalf of a launch met uncorrectable data in DRAM: it is logged, and the launch is replayed (R153). -/
def poisonReplay (s : State) (l d pa : Nat) : State :=
  startReplay (logError s d { kind := 4, sub := some 2, launch := launchNo s l, addr := pa }) l d 0x12

/-- As `poisonReplay`, in a slice, whose bytes have no physical address that a record could give: a free value (log 5). -/
def slicePoisonReplay (s : State) (l c : Nat) : State :=
  let a := (Config.freeWord s.freeCtr).toNat + 2 ^ 32 * (Config.freeWord (s.freeCtr + 1)).toNat
  let s := { s with freeCtr := s.freeCtr + 2 }
  startReplay (logError s (dieOf c) { kind := 4, sub := some 1, core := some c, launch := launchNo s l, addr := a }) l (dieOf c) 0x12

/-- Where uncorrectable data was met: at a device physical address, or in the slice of a core. -/
inductive Bad where
  | mem (pa : Nat) | slice (core : Nat)
  deriving DecidableEq, Repr

/-- The replay that it starts, seen on a die (R153). -/
def badReplay (s : State) (l d : Nat) : Bad → State
  | .mem pa => poisonReplay s l d pa
  | .slice c => slicePoisonReplay s l c

end Sys2Proof.Machine
end

