-- ==== Sys2Proof/Machine/Slice.lean ====
section
/-! DEFINITION. A scratchpad slice: its granules and their tags (R109 to R111, R115), a workgroup's own reads and
writes of its allocation (R57), the generation counter (R112, R113) and free room in the slice (R57, R120). -/

namespace Sys2Proof.Machine

/-- The tag of a granule; 0 when never written (R112). -/
def granTag (k : Core) (g : Nat) : Nat := (fget k.tags g).getD 0
/-- Is the byte at a slice offset stale under a generation (R109)? -/
def sliceStale (k : Core) (gen off : Nat) : Bool := decide (granTag k (off / 64) ≠ gen)
/-- The byte at a slice offset under a generation: a stale granule reads 0 (Table 5.2). -/
def sliceByte (k : Core) (gen off : Nat) : Byte := if sliceStale k gen off then 0 else memRead k.data off
/-- n bytes under a generation. -/
def sliceBytes (k : Core) (gen off n : Nat) : List Byte := (List.range n).map fun i => sliceByte k gen (off + i)
/-- n bytes under a generation as a number. -/
def sliceNat (k : Core) (gen off n : Nat) : Nat := natOfBytes (sliceBytes k gen off n)
/-- Does a read of n bytes under a generation meet uncorrectable data (R153)? A stale granule reads 0. -/
def slicePoison (k : Core) (gen off n : Nat) : Bool :=
  !k.badGrans.isEmpty && (List.range ((off + n + 63) / 64 - off / 64)).any fun i =>
    decide (granTag k (off / 64 + i) = gen) && k.badGrans.contains (off / 64 + i)
/-- Is some granule of a range stale? -/
def rangeStale (k : Core) (gen off n : Nat) : Bool :=
  (List.range ((off + n + 63) / 64 - off / 64)).any fun i => decide (granTag k (off / 64 + i) ≠ gen)

/-- A granule adopts a generation: a stale one is zero-filled in the same event (R110, R111), which leaves nothing uncorrectable
in it (DEDUCED, log 95). -/
def adopt (k : Core) (gen g : Nat) : Core :=
  if granTag k g = gen then k
  else
    { k with tags := fput k.tags g gen, badGrans := k.badGrans.filter fun b => decide (b ≠ g), data := k.data.filter fun p => !(decide (g * 64 ≤ p.1) && decide (p.1 < g * 64 + 64)) }

/-- Write bytes at a slice offset under a generation (R110). -/
def sliceWrite (k : Core) (gen off : Nat) (bs : List Byte) : Core :=
  if bs.isEmpty then k
  else
    let k := (List.range ((off + bs.length + 63) / 64 - off / 64)).foldl (fun k i => adopt k gen (off / 64 + i)) k
    { k with data := memWriteBytes k.data off bs }

/-- Granules a guarded or twin workgroup wrote: dirty and unverified until a commit (R139, R145). -/
def noteWrite (x : Wg) (mode off n : Nat) : Wg :=
  if mode = 0 ∨ n = 0 then x
  else
    let gs := (List.range ((off + n + 63) / 64 - off / 64)).map (off / 64 + ·)
    let add (l : List Nat) := l ++ gs.filter fun g => !l.contains g
    { x with ck := { x.ck with unverified := add x.ck.unverified, written := add x.ck.written } }

/-- The mode of a workgroup's launch. -/
def modeOf (s : State) (x : Wg) : Nat := match fget s.launches x.launch with | some l => l.rec_.mode | none => 0

/-- Write bytes into a workgroup's allocation at a local offset. -/
def wgWrite (s : State) (g off : Nat) (bs : List Byte) : State :=
  match fget s.wgs g with
  | none => s
  | some x =>
    if !holdsSlot x then s
    else
    let s := s.updCore x.core fun k => sliceWrite k x.gen (x.base + off) bs
    s.updWg g fun y => noteWrite y (modeOf s x) (x.base + off) bs.length

/-- Read n bytes of a workgroup's allocation at a local offset as a number. -/
def wgNat (s : State) (g off n : Nat) : Nat :=
  match fget s.wgs g with
  | none => 0
  | some x => sliceNat (s.core x.core) x.gen (x.base + off) n

/-! ### Generations (R112 to R114) -/

/-- The counter's next value: 0 is never given (R112). -/
def nextGen (k : Core) : Nat := if (k.gen + 1) % 65536 = 0 then 1 else (k.gen + 1) % 65536

/-- The private scratch ranges of a core: (base, bytes, generation), instances' and reserved ones' (R120). -/
def privRanges (k : Core) : List (Nat × Nat × Nat) :=
  k.warps.flatMap fun p =>
    let r := p.2.round
    (if r.st = .idle then [] else [(r.privBase, r.psize * 1024, r.privGen)]) ++
      r.reserved.map fun q => (q.privBase, r.psize * 1024, 0)

/-- The generations of a core's live allocations (R113). -/
def liveGens (s : State) (c : Nat) : List Nat :=
  let k := s.core c
  (s.wgs.filter fun p => decide (p.2.core = c) && holdsSlot p.2).map (fun p => p.2.gen) ++
    k.warps.flatMap (fun p => p.2.genBase :: (if p.2.ext = 0 then [] else [p.2.genExt])) ++
    (k.warps.filter fun p => decide (p.2.round.st = .running) && decide (p.2.round.psize ≠ 0)).map fun p => p.2.round.privGen

/-- May a generation be taken now (R113)? -/
def genReady (s : State) (c : Nat) : Bool :=
  let k := s.core c
  let n := nextGen k
  decide ((n + 65536 - k.sweepDone) % 65536 ≤ 32768) &&
    (liveGens s c).all fun a => decide ((n + 65536 - a) % 65536 < 32768)

/-- Take the next generation. -/
def takeGen (k : Core) : Core × Nat := ({ k with gen := nextGen k }, nextGen k)

/-! ### Room in the slice (R57) -/

/-- The allocated ranges of a core's slice. -/
def sliceRanges (s : State) (c : Nat) : List (Nat × Nat) :=
  ((s.wgs.filter fun p => decide (p.2.core = c) && holdsSlot p.2).map fun p => (p.2.base, p.2.size)) ++
    (privRanges (s.core c)).map fun p => (p.1, p.2.1)

/-- The lowest 1 KiB boundary at which n bytes fit in the addressable slice (log 17). -/
def findRoom (s : State) (c n : Nat) : Option Nat :=
  let top := addressable (s.dev (devOfCore s c)).hcshare
  let used := sliceRanges s c
  let starts := 0 :: used.map fun p => alignUp (p.1 + p.2) 1024
  let ok (b : Nat) : Bool := decide (b + n ≤ top) && used.all fun p => decide (b + n ≤ p.1 ∨ p.1 + p.2 ≤ b ∨ p.2 = 0)
  (starts.filter ok).foldl (fun a b => match a with | some x => some (min x b) | none => some b) none

end Sys2Proof.Machine
end

