-- ==== Sys2Proof/Machine/SeqBase.lean ====
section
/-! DEFINITION. The matrix sequencer's registers and the end of a program (R48, R307, R309). -/

namespace Sys2Proof.Machine

/-- A q register; q0 reads zero (R187). -/
def seqQ (q : Sequencer) (n : Nat) : Word := if n = 0 then 0 else (fget q.q n).getD 0
/-- Write a q register; q0 discards. -/
def setQ (q : Sequencer) (n : Nat) (v : Word) : Sequencer := if n = 0 then q else { q with q := fput q.q n v }

/-- The rendezvous write of an ended program whose issued operations have completed; the sequencer is free again
(R48, R309). -/
def seqFinish (s : State) (cl : Nat) : State :=
  let q := s.seq cl
  match q.cur, q.ending with
  | some f, some code =>
    if q.queue.isEmpty && q.running.isNone then
      let s := wgWrite s f.wg f.off (bytesOfNat 8 code)
      s.updSeq cl fun q => { q with cur := none, ending := none, stalled := none, argAt := none, clause := none }
    else s
  | _, _ => s

/-- A program ends with a code: nothing more is issued (R309). -/
def seqEnd (s : State) (cl code : Nat) : State :=
  let q := s.seq cl
  if q.cur.isSome && q.ending.isNone then seqFinish (s.updSeq cl fun q => { q with ending := some code }) cl else s

/-- The sequencer's PC after n words: past its clause it stands at a header (R177). -/
def seqStep (q : Sequencer) (n : Nat) : Sequencer :=
  let pc := q.pc + BitVec.ofNat 64 (4 * n)
  match q.clause with
  | none => { q with pc := pc }
  | some c => if c.hdr.toNat + 4 * (c.count + 1) ≤ pc.toNat then { q with pc := pc, clause := none } else { q with pc := pc }

end Sys2Proof.Machine
end

