-- ==== Sys2Proof/Machine/Operands.lean ====
section
/-! DEFINITION. The issuing warp's context and its operands (Tables 9.4, 9.5, R186 to R189), and how lanes write their
results (R199, R203). -/

namespace Sys2Proof.Machine

/-- The issuing entry with everything its instruction reads: core, slot, entry index, the warp, the entry, the core's
state, the workgroup and its launch, the instruction and its active lanes (R189). -/
structure Ctx where
  core : Nat
  slot : Nat
  ei : Nat
  w : Warp
  e : Entry
  k : Core
  g : Nat
  wg : Wg
  l : Launch
  i : Instr
  act : Word
  deriving DecidableEq, Repr

/-- The lanes a guard leaves active (R189). -/
def guardLanes (w : Warp) (m : Word) (i : Instr) : Word :=
  match guardOf i with
  | none => m
  | some (pr, pn) => if pn = 0 then m &&& readP w pr.toNat else m &&& ~~~(readP w pr.toNat)

/-- The context of an issue, if the slot, entry, workgroup and launch exist. -/
def ctxOf (s : State) (c sl ei : Nat) (i : Instr) : Option Ctx :=
  match s.warp? c sl with
  | none => none
  | some w =>
    match w.frontier[ei]?, fget s.wgs w.wg with
    | some e, some g =>
      match fget s.launches g.launch with
      | some l =>
        some { core := c, slot := sl, ei := ei, w := w, e := e, k := s.core c, g := w.wg, wg := g, l := l, i := i,
               act := guardLanes w e.mask i }
      | none => none
    | _, _ => none

/-- A 7-bit source field in a lane (Table 9.4). Field 0x7C is the logical core index within the device (R55). -/
def srcLane (s : State) (x : Ctx) (n : Nat) (l : Nat) : Word :=
  if n < 0x60 then readV x.k x.slot x.w n l
  else if n < 0x78 then readS x.w (n - 0x60)
  else if n = 0x79 then BitVec.ofNat 32 l
  else if n = 0x7A then BitVec.ofNat 32 x.w.idx
  else if n = 0x7B then BitVec.ofNat 32 x.wg.index
  else if n = 0x7C then BitVec.ofNat 32 (idxOfCore s x.core)
  else if n = 0x7D then BitVec.ofNat 32 x.w.round.inst
  else if n = 0x7F then literalOf x.i
  else 0

/-- A pair source field in a lane: a v pair, an s pair or zero (R186). -/
def pairLane (s : State) (x : Ctx) (n : Nat) (l : Nat) : Double :=
  if n < 0x78 then srcLane s x (n + 1) l ++ srcLane s x n l else 0

/-- n bytes of a register group in a lane, the lowest register first (R255). -/
def groupLane (s : State) (x : Ctx) (n bytes : Nat) (l : Nat) : Nat :=
  if n < 0x60 ∧ 4 < bytes then
    ((List.range (bytes / 4)).map fun i => (srcLane s x (n + i) l).toNat * 2 ^ (32 * i)).sum
  else if n < 0x78 ∧ bytes = 8 then (pairLane s x n l).toNat
  else (srcLane s x n l).toNat % 2 ^ (8 * min bytes 4)

/-- A 5-bit scalar source of a warp stream (Table 9.5). -/
def scalarSrc (s : State) (x : Ctx) (n : Nat) : Word :=
  if n < 24 then readS x.w n
  else if n = 25 then BitVec.ofNat 32 (laneCount x.act)
  else if n = 26 then BitVec.ofNat 32 x.w.idx
  else if n = 27 then BitVec.ofNat 32 (idxOfCore s x.core)
  else if n = 31 then literalOf x.i
  else 0

/-- A predicate field's value in a lane. -/
def predLane (x : Ctx) (p l : Nat) : Bool := hasLane (readP x.w p) l

/-- Write a destination register in the active lanes; field 0x78 discards (Table 9.4). -/
def putLanes (x : Ctx) (k : Core) (d : Nat) (f : Nat → Word) : Core :=
  if d < 0x60 then writeV k x.slot x.w d x.act f else k

/-- Write a destination pair in the active lanes (R186). -/
def putPair (x : Ctx) (k : Core) (d : Nat) (f : Nat → Double) : Core :=
  if d < 0x60 then
    writeV (writeV k x.slot x.w d x.act fun l => (f l).setWidth 32) x.slot x.w (d + 1) x.act
      fun l => (f l).extractLsb' 32 32
  else k

end Sys2Proof.Machine
end

