-- ==== Sys2Proof/Machine/Flags.lean ====
section
/-! DEFINITION. The floating-point status flags (R166, R202): how the active lanes' flags reach the warp's FPSTAT. -/

namespace Sys2Proof.Machine

/-- OR the active lanes' flags into the warp's sticky field. -/
def raiseFlags (w : Warp) (m : Word) (f : Nat → Flags) : Warp :=
  { w with fpstat := (lanesOf m).foldl (fun a l => a ||| f l) w.fpstat }

end Sys2Proof.Machine
end

