-- ==== Sys2Proof/Machine/Issue.lean ====
section
/-! DEFINITION. The issue of one instruction of a warp: code and clause headers (R174 to R181), the precedence of trap
conditions (Table 9.7), the speculative instance's waits (R130), trap entry and return (R244 to R247), and the
bookkeeping of an issue (R16, R17, R36). -/

namespace Sys2Proof.Machine

open Host (Outcome)

/-! ### Code (R176, R181) -/

/-- A word of code as the core sees it: from its instruction cache, else translated as its fetch would be (R391). -/
def codeWord (s : State) (c space va : Nat) : Option Word :=
  let line := va / 64 * 64
  match (s.core c).icache.find? fun x => decide (x.space = space ∧ x.va = line) with
  | some x => some (BitVec.ofNat 32 (natOfBytes ((x.bytes.drop (va - line)).take 4)))
  | none =>
    let k := devOfCore s c
    match (cachedWalk s k space va (s.core c).codeTlb).1 with
    | .leaf p _ size =>
      match apOf s k (pteAddr p + va % size) with
      | some a => some (BitVec.ofNat 32 (memNat s.mem a 4))
      | none => none
    | .bad .. => none

/-- PAGE of a header (Table 9.1). -/
def hdrPage (h : Word) : Nat := (h.extractLsb' 29 3).toNat
/-- COUNT. -/
def hdrCount (h : Word) : Nat := (h.extractLsb' 25 4).toNat
/-- TWAIT. -/
def hdrTokens (h : Word) : BitVec 8 := h.extractLsb' 17 8
/-- WS. -/
def hdrWs (h : Word) : Bool := h.getLsbD 16
/-- WL. -/
def hdrWl (h : Word) : Bool := h.getLsbD 15
/-- WC. -/
def hdrWc (h : Word) : Bool := h.getLsbD 14
/-- PRIO. -/
def hdrPrio (h : Word) : Nat := (h.extractLsb' 5 8).toNat

/-- May a branch go there: bits [63:56] zero and paged memory (R180)? -/
def targetOk (t : Double) : Bool := decide (regionOf t.toNat = .paged)

/-- The header of the clause an entry is in, or stands at. -/
def hdrOf (e : Entry) : Double := match e.clause with | some c => c.hdr | none => e.pc

/-- The address space of a workgroup's launch. -/
def wgSpaceOf (s : State) (g : Nat) : Nat :=
  match fget s.wgs g with
  | some x => (match fget s.launches x.launch with | some l => l.rec_.space | none => 0)
  | none => 0

/-- The header whose priority an entry has: its clause's, or the one it stands at; a clause not read yet may turn out not to hold
the PC (R247). -/
def prioHdr (s : State) (c space : Nat) (e : Entry) : Double :=
  match e.clause with
  | none => e.pc
  | some k =>
    match if unread k then codeWord s c space k.hdr.toNat else none with
    | some h => if insideClause { k with count := hdrCount h } e.pc then k.hdr else e.pc
    | none => k.hdr

/-- An entry of a workgroup's warp with the priority of its clause's header (R12, R13, R16); one whose header cannot be read
keeps the priority it has, 0 when it is new (DESIGN CHOICE, log 18). -/
def withPrio (s : State) (c g : Nat) (e : Entry) : Entry :=
  match codeWord s c (wgSpaceOf s g) (prioHdr s c (wgSpaceOf s g) e).toNat with
  | some h => { e with prio := hdrPrio h }
  | none => e

/-- Give the entries of a warp the priority of their headers (R12, R16) and sort again. -/
def settle (s : State) (c sl : Nat) : State :=
  match s.warp? c sl with
  | none => s
  | some w => s.setWarp c sl { w with frontier := tidy (w.frontier.map (withPrio s c w.wg)) }

/-! ### Traps (R244, R245) -/

/-- A trap's cause, TADDR and TINFO. -/
structure TrapInfo where
  cause : Nat
  addr : Nat
  info : Nat
  deriving DecidableEq, Repr

/-- A trap with no address and no detail. -/
def trapOf (cause : Nat) : TrapInfo := { cause := cause, addr := 0, info := 0 }
/-- A trap at an address. -/
def trapAt (cause addr : Nat) : TrapInfo := { cause := cause, addr := addr, info := 0 }

/-- The causes of Table 9.6 that meanings raise. -/
def cILLEGAL : Nat := 1
/-- PRIVILEGE. -/
def cPRIVILEGE : Nat := 2
/-- SCALAR_DIVERGED. -/
def cDIVERGED : Nat := 3
/-- STALE_READ. -/
def cSTALE : Nat := 4
/-- MISALIGNED. -/
def cMISALIGNED : Nat := 5
/-- RESERVED_SCOPE. -/
def cSCOPE : Nat := 6
/-- REMOTE_FAULT. -/
def cREMOTE : Nat := 7
/-- REQUEST_TIMEOUT. -/
def cTIMEOUT : Nat := 8
/-- MATRIX_SUSPECT. -/
def cSUSPECT : Nat := 9
/-- SPEC_ILLEGAL. -/
def cSPEC : Nat := 10
/-- CHANNEL_ERROR. -/
def cCHANNEL : Nat := 11
/-- QUEUE_ERROR. -/
def cQUEUE : Nat := 12
/-- DEBUG_BREAK. -/
def cBREAK : Nat := 13
/-- USER_TRAP. -/
def cUSER : Nat := 14
/-- SLOT_MISUSE. -/
def cSLOT : Nat := 15
/-- REGISTER_BLOCK. -/
def cBLOCK : Nat := 16
/-- BOUNDS. -/
def cBOUNDS : Nat := 17
/-- SECTION_MISUSE. -/
def cSECTION : Nat := 19

/-- Forget the deferred errors of some lanes. -/
def clearDerr (w : Warp) (m : Word) : Warp :=
  { w with derr := w.derr.zipIdx.map fun p => if hasLane m p.2 then none else p.1 }

/-- Count the issue: the other entries age unless they wait at RCONV, the issued one starts again (R17). -/
def ageOthers (es : List Entry) (ei : Nat) : List Entry :=
  es.zipIdx.map fun p =>
    if p.2 = ei then { p.1 with age := 0, aged := none, waits := false, wait := .run }
    else if p.1.wait = .rconv then p.1
    else { p.1 with age := p.1.age + 1 }

/-- A warp that its quadrant selected in this cycle: it is the most recently issued, whatever its header's YH says (R36, R37). -/
def countIssue (k : Core) (ei : Nat) (w : Warp) : Warp :=
  { w with frontier := ageOthers w.frontier ei, waitCount := 0, lastIssue := k.issueClock + 1 }

/-- A core one of whose quadrants has selected a warp in this cycle. -/
def countCore (k : Core) (sl : Nat) : Core := { k with issueClock := k.issueClock + 1, quads := quadOf sl :: k.quads }

/-- The issue opportunity of a trapping instruction, which is one like any other (R17, R36). -/
def selected (s : State) (c sl ei : Nat) : State :=
  match s.warp? c sl with
  | none => s
  | some w => s.setCore c { countCore (s.core c) sl with warps := fput (s.core c).warps sl (countIssue (s.core c) ei w) }

/-- Has a warp lanes at a PC, in an entry that is not the handler's or in a park record? -/
def standsAt (w : Warp) (pc : Double) : Bool :=
  (w.frontier ++ w.held).any (fun e => decide (e.pc = pc)) || w.parks.any fun p => decide (p.pc = pc)

/-- The GRACE a warp waits in is set aside while a handler runs, if lanes of it remain (log 62). -/
def graceAside (w : Warp) : Option (Double × Option Nat) :=
  match w.hold with
  | .grace pc _ => if standsAt w pc then some (pc, w.grace) else none
  | _ => none

/-- Take a trap: abort the launch when the warp has no handler, or is in one, which is a double trap; otherwise write the frame,
hold the other entries, and send the lanes to TVEC as one entry (R244, R245); the deferred errors of the active lanes go (R259). A
REGACQ that waited is withdrawn and issues again; a GRACE is set aside. -/
def enterTrap (s : State) (c sl : Nat) (m : Word) (t : TrapInfo) (tpc hdr : Double) (act : Word) : State :=
  match s.warp? c sl with
  | none => s
  | some w =>
    if w.tvec = 0 ∨ w.handler ≠ 0 then abortTrap s w.wg t.cause tpc (decide (w.handler ≠ 0))
    else
      let w := holdFrontier (clearDerr (withdraw w m) act)
      let w := { w with
        hold := match w.hold with | .regacq _ | .grace .. => .none | h => h
        grace := none, graceHeld := graceAside w
        frontier := [Entry.at_ w.tvec m 0], handler := m,
        tcause := BitVec.ofNat 6 t.cause, tinfo := BitVec.ofNat 32 t.info, tpc := tpc,
        taddr := BitVec.ofNat 64 t.addr, tmask := m, tact := act, tclause := hdr }
      let s := s.updCore c fun k => { k with regacq := k.regacq.map fun p => (p.1, p.2.filter fun r => decide (r.1 ≠ sl)) }
      settle (s.setWarp c sl w) c sl

/-- Some lanes leave handler mode; when the last has, the held entries issue again, and a GRACE set aside waits on (R247). -/
def leaveHandler (w : Warp) (m : Word) : Warp :=
  let h := w.handler &&& ~~~m
  let w := { w with handler := h }
  if h = 0 then
    let hold : Hold := match w.graceHeld with | some p => .grace p.1 false | none => w.hold
    setFrontier { w with held := [], hold := hold, grace := w.graceHeld.bind Prod.snd, graceHeld := none } (w.held ++ w.frontier)
  else w

/-! ### The scoreboard (R178) -/

/-- The v registers an outstanding access will write (R258). -/
def pendRegs (p : Pending) : List Nat :=
  match p.dest with
  | .group (some r) n _ => (List.range (max 1 (n / 4))).map (r + ·)
  | .group none .. | .scalar _ => []

/-- Does an instruction name a predicate besides its guard (R203)? -/
def namesPred (i : Instr) : Bool :=
  match view i with
  | .word 0 op _ => op == 7 || op == 0x47 || op == 0x14 || op == 0x54 || op == 0x15 || op == 0x55 || op == 0x1E ||
      op == 0x5E || op == 0x77 || op == 0x7B || op == 0x7C
  | .word 3 op _ => op == 0x1D || op == 0x1E
  | _ => false

/-- Does an instruction read or write scalar registers? -/
def namesScalar (i : Instr) : Bool :=
  match view i with
  | .word 1 _ _ => true
  | .word _ _ (.fs _) => true
  | _ => (fieldRoles i).any fun p => decide (0x60 ≤ p.2.toNat ∧ p.2.toNat < 0x78)

/-- Does an instruction depend on the result of an outstanding access of the entry's lanes? -/
def waitsFor (w : Warp) (m : Word) (i : Instr) : Bool :=
  w.pend.any fun p =>
    (decide (p.mask &&& m ≠ 0) &&
      ((pendRegs p).any (fun r => (srcRegs i ++ dstRegs i).contains r) ||
        (match p.pred with
          | some q => (match guardOf i with | some (pr, _) => decide (pr.toNat = q) | none => false) || namesPred i
          | none => false))) ||
      (match p.dest with | .scalar (some _) => namesScalar i | _ => false)

/-! ### The gate (Table 9.7, R130) -/

/-- What makes an instruction not ready (R15, R36): the entry or the whole warp tries again, or the warp is held; `atCmp`
holds a speculative instance at its SPCMP or SPEND until it is LIVE, where lower instances' appends are known (R124, R129). -/
inductive Wait where
  | entry | warp | hold (h : Hold) | atCmp
  deriving DecidableEq, Repr

/-- What an instruction adds to the gate: its PRIVILEGE condition (row 2), whether a deferred error surfaces at it
(row 6), its own checks (row 7), whether a speculative instance waits at it until LIVE (Table 6.3), what it waits for,
and the state after it. -/
structure Plan where
  priv : Option TrapInfo := none
  surface : Bool := false
  own : Option TrapInfo := none
  live : Bool := false
  wait : Option Wait := none
  next : State

/-- Is it a SCALAR-page word, REGACQ, REGREL, FORK, SPBEGIN or another that is issued converged (R34, R121, R124,
R125)? -/
def needsConverged (i : Instr) : Bool :=
  match view i with
  | .word 1 _ _ => true
  | .word 2 0xB _ => true
  | .word 6 op (.fs _) => op == 0x10 || op == 0x11 || op == 0x12 || op == 0x13 || op == 0x14 || op == 0x15
  | _ => false

/-- Is it a control transfer (R179)? -/
def isTransfer (i : Instr) : Bool :=
  match view i with
  | .word 2 op _ => decide (op ≤ 6)
  | _ => false

/-- Row 1: the fields, the clause's bounds and the place of a control transfer (R177, R179, R184 to R194). -/
def row1 (x : Ctx) : Bool :=
  wellFormedIn false x.i &&
    (match x.e.clause with
      | none => true
      | some c =>
        let last := x.e.pc.toNat + 4 * wordCount x.i
        decide (last ≤ c.hdr.toNat + 4 * (c.count + 1)) &&
          (!isTransfer x.i || decide (last = c.hdr.toNat + 4 * (c.count + 1))))

/-- Does an instruction read no register: one of the COPY page with no active lane (R281)? -/
def readsNothing (x : Ctx) : Bool :=
  decide (x.act = 0) && (match view x.i with | .word p _ _ => p == 4 | .event => false)

/-- Rows 3 to 5. -/
def rows35 (x : Ctx) : Option TrapInfo :=
  if needsConverged x.i && !converged x.w then some (trapOf cDIVERGED)
  else if scopeOf x.i = some 7 then some (trapOf cSCOPE)
  else if (srcRegs x.i ++ dstRegs x.i).any fun r => !blockHeld x.w r then some (trapOf cBLOCK)
  else if x.l.rec_.genTrap && !readsNothing x && (srcRegs x.i).any fun r => rowStale x.k x.slot x.w r then some (trapOf cSTALE)
  else none

/-- Row 6: the deferred-error record of the lowest active lane that has one (R259). TADDR is the record's address, as R259
has it (DEDUCED, log 93). -/
def row6 (x : Ctx) : Option TrapInfo :=
  (lanesOf x.act).findSome? fun l =>
    match x.w.derr.getD l none with
    | some d => some (trapAt d.cause d.addr.toNat)
    | none => none

/-- The first condition that holds, in the order of Table 9.7. -/
def trapCond (x : Ctx) (p : Plan) : Option TrapInfo :=
  match p.priv with
  | some t => some t
  | none =>
    match rows35 x with
    | some t => some t
    | none =>
      match (if p.surface then row6 x else none) with
      | some t => some t
      | none => p.own

/-- Is the issuing warp a speculative instance (R123)? -/
def speculative (w : Warp) : Bool := decide (w.round.ist = .speculative)

/-- Hold the issuing warp or entry. -/
def hold (s : State) (x : Ctx) : Wait → State
  | .entry =>
    s.setWarp x.core x.slot
      { x.w with frontier := x.w.frontier.zipIdx.map fun p => if p.2 = x.ei then { p.1 with wait := .retry } else p.1 }
  | .warp => s.setWarp x.core x.slot { x.w with hold := .retry x.e.pc true }
  | .hold h => s.setWarp x.core x.slot { x.w with hold := h }
  | .atCmp => s.setWarp x.core x.slot { x.w with hold := .untilLive, round := { x.w.round with atCmp := true } }

/-- The issuing entry's lanes trap, to resume at a PC of a clause: an issue opportunity is spent (R17). -/
def trapTo (s : State) (x : Ctx) (t : TrapInfo) (pc hdr : Double) : State :=
  enterTrap (selected s x.core x.slot x.ei) x.core x.slot x.e.mask t pc hdr x.act

/-- Trap at the issuing instruction (R245: TPC is its first word). -/
def trapHere (s : State) (x : Ctx) (t : TrapInfo) : State := trapTo s x t x.e.pc (hdrOf x.e)

/-- The gate of Table 9.7 with R130 and R178 around it. -/
def gate (s : State) (x : Ctx) (p : Plan) : State :=
  if !row1 x then trapHere s x (trapOf cILLEGAL)
  else if waitsFor x.w x.e.mask x.i then hold s x .entry
  else
    match trapCond x p with
    | some t =>
      if speculative x.w then hold s x (.hold .untilLive) else trapHere s x t
    | none =>
      if p.live && speculative x.w then hold s x (.hold .untilLive)
      else
        match p.wait with
        | some q => hold s x q
        | none => p.next

/-- Row 1 for a sequencer's stream, which ends the program with 0x01 instead (R194, R309). -/
def seqRow1 (q : Sequencer) (i : Instr) : Bool :=
  wellFormedIn true i &&
    (match q.clause with
      | none => true
      | some c =>
        let last := q.pc.toNat + 4 * wordCount i
        decide (last ≤ c.hdr.toNat + 4 * (c.count + 1)) &&
          (!isTransfer i || decide (last = c.hdr.toNat + 4 * (c.count + 1))))

/-- Issue an instruction of a sequencer's stream; an idle, ending or stalled sequencer issues nothing. -/
def seqIssue (i : Instr) (s : State) (cl : Nat) (body : Sequencer → State) : State :=
  let q := s.seq cl
  if q.cur.isNone || q.ending.isSome || q.stalled.isSome then s
  else if seqRow1 q i then body q
  else seqEnd s cl 1

/-- Issue an instruction in the stream of whoever is issuing: a warp by its plan, a sequencer by its body. -/
def issueIn (i : Instr) (s : State) (plan : Ctx → Plan) (body : Nat → Sequencer → State) :
    Outcome State Fault Refusal :=
  match s.cur with
  | .warp c sl e =>
    match ctxOf s c sl e i with
    | some x => .next (gate s x (plan x))
    | none => .fault .noIssuer
  | .sequencer cl => .next (seqIssue i s cl (body cl))
  | .nobody => .fault .noIssuer

/-- Issue an instruction that only a warp's stream accepts: a sequencer's program ends with 0x01 (R194). -/
def issue (i : Instr) (s : State) (plan : Ctx → Plan) : Outcome State Fault Refusal :=
  issueIn i s plan fun cl _ => seqEnd s cl 1

/-! ### After an issue (R16, R17, R36) -/

/-- Finish an issue: core k and warp w as the instruction left them, the issued entry replaced by others, each with its
header's priority before the frontier is sorted and cut to eight (R16, R18). -/
def done (s : State) (x : Ctx) (k : Core) (w : Warp) (es : List Entry) : State :=
  let w := replaceEntry (countIssue k x.ei w) x.ei (es.map (withPrio s x.core x.g))
  settle (s.setCore x.core { countCore k x.slot with warps := fput k.warps x.slot w }) x.core x.slot

/-- The issued entry with its count and waits cleared. -/
def issued (e : Entry) : Entry := { e with age := 0, aged := none, waits := false, wait := .run, mark := none }

/-- The issued entry past the instruction's words. -/
def passed (x : Ctx) : Entry := stepPast (issued x.e) (wordCount x.i)

/-- Finish an instruction that goes on at the next word, having changed the core and the warp. -/
def goOn (s : State) (x : Ctx) (k : Core) (w : Warp) : State := done s x k w [passed x]

end Sys2Proof.Machine
end

