-- ==== Sys2Proof/Machine/Transc.lean ====
section
/-! DEFINITION. The one-source functions of Table 10.6 (R218): FRCP, FRSQ and FSQRT from exact quotients and roots, and
FEXP2, FLOG2, FSIN, FCOS and FTANH by fixed-point approximations of growing precision, until both ends of the error
interval round to the same value. -/

namespace Sys2Proof.Machine

/-- Sum of a Taylor series of e^y with y in units of 2^−p: `t` is the k-th term. -/
def expGo (p y : Nat) : Nat → Nat → Nat → Nat → Nat
  | 0, _, _, acc => acc
  | fuel + 1, k, t, acc => if t = 0 then acc else expGo p y fuel (k + 1) (t * y / (k * 2 ^ p)) (acc + t)

/-- e^y for 0 ≤ y < 1, in units of 2^−p. -/
def expFix (p y : Nat) : Nat := expGo p y p 1 (2 ^ p) 0

/-- Σ ± pw / (2k + 1) with pw divided by `n` each time; `alt` makes the signs alternate. -/
def invGo (n : Nat) (alt : Bool) : Nat → Nat → Int → Int → Int
  | 0, _, _, acc => acc
  | fuel + 1, k, pw, acc =>
    if pw = 0 then acc
    else
      let t := pw / ((2 * k + 1 : Nat) : Int)
      invGo n alt fuel (k + 1) (pw / (n : Int)) (if alt && k % 2 = 1 then acc - t else acc + t)

/-- ln 2 in units of 2^−p: 2 atanh(1/3). -/
def ln2Fix (p : Nat) : Int := 2 * invGo 9 false p 0 (2 ^ p / 3) 0

/-- π in units of 2^−p, by Machin's formula. -/
def piFix (p : Nat) : Int := 16 * invGo 25 true p 0 (2 ^ p / 5) 0 - 4 * invGo (239 * 239) true p 0 (2 ^ p / 239) 0

/-- Σ t^(2k+1)/(2k+1), the series of atanh, t in units of 2^−p. -/
def atanhGo (p : Nat) (t2 : Int) : Nat → Nat → Int → Int → Int
  | 0, _, _, acc => acc
  | fuel + 1, k, pw, acc =>
    if pw = 0 ∨ pw = -1 then acc
    else atanhGo p t2 fuel (k + 1) (pw * t2 / 2 ^ p) (acc + pw / ((2 * k + 1 : Nat) : Int))

/-- The alternating series of sine (from t = r, k = 1) and cosine (from t = 1, k = 0). -/
def trigGo (p : Nat) (r2 : Int) : Nat → Nat → Int → Int → Int
  | 0, _, _, acc => acc
  | fuel + 1, k, t, acc =>
    if t = 0 ∨ t = -1 then acc
    else trigGo p r2 fuel (k + 2) (-(t * r2 / (((k + 1) * (k + 2) : Nat) * 2 ^ p))) (acc + t)

/-- m × 2^e in units of 2^−p, rounded down. -/
def toFix (p m : Nat) (e : Int) : Nat :=
  if 0 ≤ e + (p : Int) then m * 2 ^ (e + p).toNat else m / 2 ^ (-(e + p)).toNat

/-- 2^r for 0 ≤ r < 1, both in units of 2^−p. -/
def exp2Fix (p r : Nat) : Nat := expFix p (r * (ln2Fix p).toNat / 2 ^ p)

/-- log2 of m × 2^e (not 1), in units of 2^−p. -/
def log2Fix (p m : Nat) (e : Int) : Int :=
  let l := m.log2
  let z : Int := m * 2 ^ p / 2 ^ l
  let n := e + (l : Int)
  let big := decide (3 * 2 ^ p < 2 * z)
  let z := if big then z / 2 else z
  let n := if big then n + 1 else n
  let t := (z - 2 ^ p) * 2 ^ p / (z + 2 ^ p)
  let ln := 2 * atanhGo p (t * t / 2 ^ p) p 0 t 0
  n * 2 ^ p + ln * 2 ^ p / ln2Fix p

/-- sin or cos of m × 2^e in units of 2^−p, after reduction by a π of 160 more bits. -/
def trigFix (cosine : Bool) (p m : Nat) (e : Int) : Int :=
  let q := p + 160
  let x : Int := toFix q m e
  let half := piFix q / 2
  let k := x / half
  let r := (x - k * half) / 2 ^ 160
  let r2 := r * r / 2 ^ p
  let k4 := ((k + if cosine then 1 else 0) % 4).toNat
  let v := if k4 % 2 = 0 then trigGo p r2 p 1 r 0 else trigGo p r2 p 0 (2 ^ p) 0
  if 2 ≤ k4 then -v else v

/-- Square n times, in units of 2^−p. -/
def squares (p : Nat) : Nat → Nat → Nat
  | 0, x => x
  | n + 1, x => squares p n (x * x / 2 ^ p)

/-- tanh of m × 2^e below 32, in units of 2^−p: 1 − 2 / (e^2x + 1). -/
def tanhFix (p m : Nat) (e : Int) : Int :=
  let ex := squares p 7 (expFix p (toFix p m (e - 6)))
  2 ^ p - 2 * 2 ^ (2 * p) / ((ex : Int) + 2 ^ p)

/-- Round an irrational value given by ever finer approximations, each within 2^24 units of 2^−p (R218: rounded once
to nearest even from the exact value). -/
def ziv (f : Fmt) (approx : Nat → Int) : List Nat → Nat × Flags
  | [] => (f.nanCode, 0)
  | p :: ps =>
    let v := approx p
    let neg := decide (v < 0)
    let a := v.natAbs
    let lo := 2 * (a - 2 ^ 24) + 1
    let hi := 2 * (a + 2 ^ 24) + 1
    let e := -(p : Int) - 1
    let rl := roundFin f .rne false neg lo e
    if ps = [] ∨ (2 ^ 24 < a ∧ rl = roundFin f .rne false neg hi e) then rl else ziv f approx ps

/-- The precisions tried. -/
def zivSteps : List Nat := [72, 128, 192, 320, 512, 1024]

/-- A value just below m × 2^e in magnitude, for rounding. -/
def below (f : Fmt) (neg : Bool) (m : Nat) (e : Int) : Nat × Flags := roundFin f .rne false neg (m * 2 ^ 64 - 1) (e - 64)

/-- The functions of Table 10.6. -/
inductive Fn where
  | rcp | rsq | sqrt | exp2 | log2 | sin | cos | tanh
  deriving DecidableEq, Repr

/-- FEXP2 of a finite nonzero operand. -/
def exp2Fin (f : Fmt) (neg : Bool) (m : Nat) (e : Int) : Nat × Flags :=
  if 10 ≤ e + (m.log2 : Int) then roundFin f .rne false false 1 (if neg then -1000 else 1000)
  else
    let fl := toFix 0 m e
    let exact := decide (0 ≤ e) || decide (m % 2 ^ (-e).toNat = 0)
    if exact then roundFin f .rne false false 1 (if neg then -(fl : Int) else fl)
    else
      let n : Int := if neg then -(fl : Int) - 1 else fl
      ziv f (fun p =>
        let r := toFix p m e - fl * 2 ^ p
        let r := if neg then 2 ^ p - 1 - r else r
        let v := exp2Fix p r
        if 0 ≤ n then (v * 2 ^ n.toNat : Nat) else (v * 2 ^ (p / 4) : Nat) / 2 ^ ((-n).toNat + p / 4))
        (if n < -20 then [320, 512, 1024] else zivSteps)

/-- FLOG2 of a positive finite operand. -/
def log2Fin (f : Fmt) (m : Nat) (e : Int) : Nat × Flags :=
  if m = 2 ^ m.log2 then
    let n := e + (m.log2 : Int)
    roundFin f .rne false (decide (n < 0)) n.natAbs 0
  else ziv f (fun p => log2Fix p m e) zivSteps

/-- FSIN, FCOS and FTANH of a positive finite operand m × 2^e. Below 2^−30 the first terms of the series decide. -/
def trigFin (f : Fmt) (fn : Fn) (m : Nat) (e : Int) : Nat × Flags :=
  let top := e + (m.log2 : Int)
  match fn with
  | .cos => if top < -30 then below f false 1 0 else ziv f (fun p => trigFix true p m e) zivSteps
  | .sin => if top < -30 then below f false m e else ziv f (fun p => trigFix false p m e) zivSteps
  | .tanh =>
    if top < -30 then below f false m e
    else if 5 ≤ top then below f false 1 0
    else ziv f (fun p => tanhFix p m e) zivSteps
  | .rcp | .rsq | .sqrt | .exp2 | .log2 => (0, 0)

/-- Put back the sign of an odd function's result. -/
def oddSign (f : Fmt) (neg : Bool) (r : Nat × Flags) : Nat × Flags :=
  if neg then (r.1 ^^^ 2 ^ (f.bits - 1), r.2) else r

/-- Table 10.6 for a decoded operand (R218). -/
def fnExact (f : Fmt) (fn : Fn) (mode : RMode) (sat : Bool) (x : Exact) : Nat × Flags :=
  let zero (neg : Bool) : Nat := f.withSign neg 0
  match x with
  | .nan s => (f.nanCode, if s then fNV else 0)
  | .inf neg =>
    match fn with
    | .rcp => (zero neg, 0)
    | .rsq => if neg then (f.nanCode, fNV) else (zero false, 0)
    | .sqrt | .log2 => if neg then (f.nanCode, fNV) else (f.infCode false, 0)
    | .exp2 => (if neg then zero false else f.infCode false, 0)
    | .sin | .cos => (f.nanCode, fNV)
    | .tanh => roundFin f .rne false neg 1 0
  | .fin neg m e =>
    if m = 0 then
      match fn with
      | .rcp | .rsq => (f.infCode neg, fDZ)
      | .sqrt | .sin | .tanh => (zero neg, 0)
      | .exp2 | .cos => roundFin f .rne false false 1 0
      | .log2 => (f.infCode true, fDZ)
    else
      match fn with
      | .rcp => roundExact f mode sat (quotient neg 1 m (-e))
      | .rsq => if neg then (f.nanCode, fNV) else roundExact f mode sat (rsqrtExact m e)
      | .sqrt => if neg then (f.nanCode, fNV) else roundExact f mode sat (sqrtExact m e)
      | .exp2 => exp2Fin f neg m e
      | .log2 => if neg then (f.nanCode, fNV) else log2Fin f m e
      | .sin | .tanh => oddSign f neg (trigFin f fn m e)
      | .cos => trigFin f .cos m e

end Sys2Proof.Machine
end

