-- ==== Sys2Proof/Machine/Lane.lean ====
section
/-! DEFINITION. What one lane computes: the functions of Tables 10.2 to 10.8 and the shapes of VALU instructions, which
the meanings of Valu.lean and ValuLiteral.lean share. -/

namespace Sys2Proof.Machine

open Host (Outcome)

/-- The integer class of Table 10.1. -/
def intType (n : Nat) : ITy := ⟨if n < 2 then 32 else if n < 4 then 16 else 8, decide (n % 2 = 1)⟩
/-- The float class of Table 10.1; code 2 is bf16x2's element in the packed class too. -/
def fltType (n : Nat) : Fmt := if n = 0 then .f32 else if n = 1 then .f16 else .bf16
/-- A natural number as a word. -/
def wd (n : Nat) : Word := BitVec.ofNat 32 n
/-- Sign extension of a bit field to an integer. -/
def sext (n : Nat) (x : Nat) : Int := if 2 ^ (n - 1) ≤ x % 2 ^ n then (x % 2 ^ n : Nat) - (2 ^ n : Nat) else (x % 2 ^ n : Nat)

/-! ### Shapes -/

/-- Each active lane's result goes to register d. -/
def laneOp (i : Instr) (s : State) (d : Nat) (f : Ctx → Nat → Word) : Outcome State Fault Refusal :=
  issue i s fun x => { next := goOn s x (putLanes x x.k d (f x)) x.w }

/-- Each active lane's result goes to register d, its flags to FPSTAT (R202). -/
def laneFlagOp (i : Instr) (s : State) (d : Nat) (f : Ctx → Nat → Nat × Flags) : Outcome State Fault Refusal :=
  issue i s fun x =>
    { next := goOn s x (putLanes x x.k d fun l => wd (f x l).1) (raiseFlags x.w x.act fun l => (f x l).2) }

/-- Each active lane's truth value goes to a predicate, its flags to FPSTAT (R203). -/
def lanePredOp (i : Instr) (s : State) (p : Nat) (f : Ctx → Nat → Bool × Flags) : Outcome State Fault Refusal :=
  issue i s fun x =>
    { next := goOn s x x.k (writeP (raiseFlags x.w x.act fun l => (f x l).2) p x.act fun l => (f x l).1) }

/-! ### Integers (R204 to R212) -/

/-- A one- or two-source integer operation under the type of the XM size field (R204). -/
def intOp (i : Instr) (f : F3) (m : XM) (s : State) (g : ITy → Int → Int → Int → Int) : Outcome State Fault Refusal :=
  laneOp i s f.d.toNat fun x l =>
    let t := intType m.size.toNat
    let v (n : BitVec 7) := t.dec (srcLane s x n.toNat l)
    t.enc (decide (m.sat = 1)) (g t (v f.a) (v f.b) (v m.c))

/-- A 32-bit logic or bit operation (R206). -/
def bitOp (i : Instr) (f : F3) (s : State) (g : Word → Word → Word) : Outcome State Fault Refusal :=
  laneOp i s f.d.toNat fun x l => g (srcLane s x f.a.toNat l) (srcLane s x f.b.toNat l)

/-- SHL (Table 10.3). -/
def shiftL (a b : Word) : Word := if 32 ≤ b.toNat then 0 else a <<< b.toNat
/-- SHR. -/
def shiftR (a b : Word) : Word := if 32 ≤ b.toNat then 0 else a >>> b.toNat
/-- SAR. -/
def shiftA (a b : Word) : Word := a.sshiftRight (min b.toNat 31)
/-- ROTL. -/
def rotateL (a b : Word) : Word := a.rotateLeft (b.toNat % 32)
/-- POPC. -/
def popCount (a : Word) : Word := wd ((List.range 32).filter a.getLsbD).length
/-- CLZ. -/
def leadZeros (a : Word) : Word := if a = 0 then 32 else wd (31 - a.toNat.log2)
/-- BREV. -/
def bitReverse (a : Word) : Word := maskOf fun i => a.getLsbD (31 - i)

/-- IADDC (R205): the sum and the carry-out. -/
def addCarry (a b : Word) (cin : Bool) : Nat := a.toNat + b.toNat + if cin then 1 else 0

/-- IADDC's shape: V[d] and P[k] of the active lanes. -/
def carryOp (i : Instr) (f : F3) (m : XM) (s : State) : Outcome State Fault Refusal :=
  issue i s fun x =>
    let k := m.off.toNat % 8
    let e (l : Nat) : Nat :=
      addCarry (srcLane s x f.a.toNat l) (srcLane s x f.b.toNat l) (decide (m.off.toNat / 8 % 2 = 0) && predLane x k l)
    { next := goOn s x (putLanes x x.k f.d.toNat fun l => wd (e l)) (writeP x.w k x.act fun l => decide (2 ^ 32 ≤ e l)) }

/-- BFX (R208). -/
def bitExtract (signed : Bool) (a w : Word) : Word :=
  let p := min (w.toNat % 256) 32
  let l := min (w.toNat / 256 % 256) (32 - p)
  let v := a.toNat / 2 ^ p % 2 ^ l
  if l = 0 then 0 else if signed then BitVec.ofInt 32 (sext l v) else wd v

/-- BFI (R208). -/
def bitInsert (a b w : Word) : Word :=
  let p := min (w.toNat % 256) 32
  let l := min (w.toNat / 256 % 256) (32 - p)
  let m := wd ((2 ^ l - 1) * 2 ^ p)
  (b &&& ~~~m) ||| (wd (a.toNat * 2 ^ p) &&& m)

/-- PRMT (R209). -/
def permute (a b c : Word) : Word :=
  let x := b.toNat * 2 ^ 32 + a.toNat
  let byte (k : Nat) : Nat :=
    let sl := c.toNat / 2 ^ (4 * k) % 16
    let j := x / 2 ^ (8 * (sl % 8)) % 256
    if 8 ≤ sl then (if 128 ≤ j then 255 else 0) else j
  wd (byte 0 + byte 1 * 2 ^ 8 + byte 2 * 2 ^ 16 + byte 3 * 2 ^ 24)

/-- LEA (R210). -/
def leaSum (m : XM) (a : Double) (b : Word) : Double :=
  let h := m.size.toNat % 4
  let idx : Int := if m.size.toNat / 4 = 1 then b.toInt else b.toNat
  BitVec.ofInt 64 ((a.toNat : Int) + idx * 2 ^ h + m.off.toInt)

/-- An integer condition (R211). -/
def intCond (cc : Nat) (x y : Int) : Bool :=
  match cc with
  | 0 => decide (x = y) | 1 => decide (x ≠ y) | 2 => decide (x < y) | 3 => decide (x ≤ y) | 4 => decide (y < x)
  | _ => decide (y ≤ x)

/-- One round of HASH32 (R212). -/
def hashRound (b : Word) (x : Word) (i : Nat) : Word :=
  let x := (x + b + wd i) * 0x85EB_CA6B
  x ^^^ (x >>> 15)

/-- HASH32. -/
def hash32 (a b c : Word) : Word := (List.range 3).foldl (hashRound b) (a ^^^ (c * 0x9E37_79B9))

/-- LEA's shape. -/
def leaOp (i : Instr) (f : F3) (m : XM) (s : State) : Outcome State Fault Refusal :=
  issue i s fun x =>
    { next := goOn s x (putPair x x.k f.d.toNat fun l => leaSum m (pairLane s x f.a.toNat l) (srcLane s x f.b.toNat l)) x.w }

/-- ICMP's shape. -/
def icmpOp (i : Instr) (f : F3) (m : XM) (s : State) : Outcome State Fault Refusal :=
  lanePredOp i s f.d.toNat fun x l =>
    let t := intType m.size.toNat
    (intCond (m.off.toNat % 8) (t.dec (srcLane s x f.a.toNat l)) (t.dec (srcLane s x f.b.toNat l)), 0)

/-- SEL's shape (R211). -/
def selOp (i : Instr) (f : F3) (m : XM) (s : State) : Outcome State Fault Refusal :=
  laneOp i s f.d.toNat fun x l =>
    if predLane x (m.off.toNat % 8) l != decide (m.off.toNat / 8 % 2 = 1) then srcLane s x f.a.toNat l
    else srcLane s x f.b.toNat l

/-- A three-source word operation with an XM c operand. -/
def wordOp3 (i : Instr) (f : F3) (m : XM) (s : State) (g : Word → Word → Word → Word) : Outcome State Fault Refusal :=
  laneOp i s f.d.toNat fun x l => g (srcLane s x f.a.toNat l) (srcLane s x f.b.toNat l) (srcLane s x m.c.toNat l)

/-! ### Floating point (R213 to R219) -/

/-- The four operations of Table 10.4 and Table 10.6's roundings: an exact result rounded once under R163. -/
def roundedOf (t : Fmt) (m : XM) (r : Exact × Flags) : Nat × Flags :=
  let q := roundExact t (RMode.ofCode m.round.toNat) (decide (m.sat = 1)) r.1
  (q.1, q.2 ||| r.2)

/-- A float operation on decoded operands a, b and XM c (R213). -/
def floatOp (i : Instr) (f : F3) (m : XM) (s : State) (g : RMode → Exact → Exact → Exact → Exact × Flags) :
    Outcome State Fault Refusal :=
  laneFlagOp i s f.d.toNat fun x l =>
    let t := fltType m.size.toNat
    let v (n : BitVec 7) := t.decode (srcLane s x n.toNat l).toNat
    roundedOf t m (g (RMode.ofCode m.round.toNat) (v f.a) (v f.b) (v m.c))

/-- FSCALE (R213). -/
def scaleExact (x : Exact) (k : Int) : Exact × Flags :=
  match x with
  | .nan sg => (.nan false, if sg then fNV else 0)
  | .inf n => (.inf n, 0)
  | .fin n m e => (.fin n m (if m = 0 then e else e + k), 0)

/-- FSCALE's shape: b is a signed integer. -/
def scaleOp (i : Instr) (f : F3) (m : XM) (s : State) : Outcome State Fault Refusal :=
  laneFlagOp i s f.d.toNat fun x l =>
    let t := fltType m.size.toNat
    roundedOf t m (scaleExact (t.decode (srcLane s x f.a.toNat l).toNat) (srcLane s x f.b.toNat l).toInt)

/-- FMIN and FMAX (R214). -/
def minMaxOp (i : Instr) (f : F3) (m : XM) (s : State) (isMax : Bool) : Outcome State Fault Refusal :=
  laneFlagOp i s f.d.toNat fun x l =>
    minMaxCode (fltType m.size.toNat) isMax (srcLane s x f.a.toNat l).toNat (srcLane s x f.b.toNat l).toNat

/-- A float condition and its flags (Table 10.5). -/
def floatCond (cc : Nat) (x y : Exact) : Bool × Flags :=
  let un := x.isNaN || y.isNaN
  let q := nvOf [x, y]
  let o := if un then fNV else 0
  let c := exactCmp x y
  match cc with
  | 0 => (!un && decide (c = 0), q)
  | 1 => (un || decide (c ≠ 0), q)
  | 2 => (!un && decide (c < 0), o)
  | 3 => (!un && decide (c ≤ 0), o)
  | 4 => (!un && decide (0 < c), o)
  | 5 => (!un && decide (0 ≤ c), o)
  | 6 => (un, q)
  | _ => (!un, q)

/-- FCMP's shape (R215). -/
def fcmpOp (i : Instr) (f : F3) (m : XM) (s : State) : Outcome State Fault Refusal :=
  lanePredOp i s f.d.toNat fun x l =>
    let t := fltType m.size.toNat
    floatCond (m.off.toNat % 8) (t.decode (srcLane s x f.a.toNat l).toNat) (t.decode (srcLane s x f.b.toNat l).toNat)

/-- FCLASS (R216): the number of the one bit set. -/
def classBit (t : Fmt) (v : Nat) : Nat :=
  match t.decode v with
  | .nan sg => if sg then 8 else 9
  | .inf n => if n then 0 else 7
  | .fin n m _ =>
    let sub := decide (m < 2 ^ t.t)
    if m = 0 then (if n then 3 else 4) else if n then (if sub then 2 else 1) else (if sub then 5 else 6)

/-- FRND (R217). -/
def roundIntegral (t : Fmt) (mode : RMode) (x : Exact) : Nat × Flags :=
  match x with
  | .nan sg => (t.nanCode, if sg then fNV else 0)
  | .inf n => (t.infCode n, 0)
  | .fin n m e => ((roundFin t .rne false n (roundInt mode n m e) 0).1, 0)

/-- A function of Table 10.6 (R218). -/
def fnOp (i : Instr) (f : F3) (m : XM) (s : State) (g : Fn) : Outcome State Fault Refusal :=
  laneFlagOp i s f.d.toNat fun x l =>
    let t := fltType m.size.toNat
    fnExact t g (RMode.ofCode m.round.toNat) (decide (m.sat = 1)) (t.decode (srcLane s x f.a.toNat l).toNat)

/-- PADD, PMUL and PFMA (R173, R219): each half rounded once. -/
def packedOp (i : Instr) (f : F3) (m : XM) (s : State) (g : RMode → Exact → Exact → Exact → Exact × Flags) :
    Outcome State Fault Refusal :=
  laneFlagOp i s f.d.toNat fun x l =>
    let t := fltType m.size.toNat
    let half (h : Nat) : Nat × Flags :=
      let v (n : BitVec 7) := t.decode ((srcLane s x n.toNat l).toNat / 2 ^ (16 * h) % 65536)
      roundedOf t m (g (RMode.ofCode m.round.toNat) (v f.a) (v f.b) (v m.c))
    ((half 0).1 + (half 1).1 * 65536, (half 0).2 ||| (half 1).2)

/-! ### Conversion and quantisation (R220 to R223) -/

/-- CVT of one element (R220). -/
def convert (m : XM) (v : Word) : Word × Flags :=
  let o := m.off.toNat
  let mode := RMode.ofCode m.round.toNat
  let sat := decide (m.sat = 1)
  match ityOfCode (o % 64), ityOfCode (o / 64 % 64) with
  | some d, some sr => (d.enc sat (sr.dec v), 0)
  | some d, none =>
    match fmtOfCode (o / 64 % 64) (decide (o / 8192 % 2 = 1)) with
    | some sr => let r := convertToInt d mode (sr.decode v.toNat); (d.enc false r.1, r.2)
    | none => (0, 0)
  | none, src =>
    match fmtOfCode (o % 64) (decide (o / 4096 % 2 = 1)) with
    | none => (0, 0)
    | some d =>
      match src, fmtOfCode (o / 64 % 64) (decide (o / 8192 % 2 = 1)) with
      | some sr, _ => let r := convertFloat d mode sat (Exact.ofInt (sr.dec v)); (wd r.1, r.2)
      | none, some sr => let r := convertFloat d mode sat (sr.decode v.toNat); (wd r.1, r.2)
      | none, none => (0, 0)

/-- CVT's shape. -/
def cvtOp (i : Instr) (f : F3) (m : XM) (s : State) : Outcome State Fault Refusal :=
  laneFlagOp i s f.d.toNat fun x l =>
    let r := convert m (srcLane s x f.a.toNat l)
    (r.1.toNat, r.2)

/-- QNT of a lane, given the block's derived scale (R221). -/
def quantLane (t d : Fmt) (m : XM) (derived : Nat × Bool) (a b c : Word) : Nat × Flags :=
  let supplied := decide (m.off.toNat / 128 % 2 = 1)
  let sc := if supplied then b.toNat % 1024 else derived.1
  let mode := if m.round = 4 then RMode.sr (c.toNat % 65536) else RMode.ofCode m.round.toNat
  let q := if !supplied && derived.2 then (0, fNV) else quantElement d mode (decide (m.sat = 1)) (t.decode a.toNat) sc
  (q.1 + sc * 65536, q.2)

/-! ### Across lanes (R224 to R229) -/

/-- A reduction of values in the reduction class (R227). `op`: 0 add, 1 min, 2 max. -/
def reduce (m : XM) (op : Nat) (vs : List Word) : Nat × Flags :=
  if m.size = 2 then
    if op = 0 then
      let mode := RMode.ofCode m.round.toNat
      roundedOf .f32 m (exactSum mode (vs.map fun v => Fmt.f32.decode v.toNat))
    else
      vs.foldl (fun a v => let r := minMaxCode .f32 (op == 2) a.1 v.toNat; (r.1, a.2 ||| r.2)) (Fmt.f32.nanCode, 0)
  else
    let t := intType m.size.toNat
    let xs := vs.map t.dec
    let r : Int :=
      if op = 0 then xs.foldl (fun a v => a + v) 0
      else xs.foldl (fun a v => if op = 1 then min a v else max a v) (if op = 1 then t.hi else t.lo)
    ((t.enc (decide (m.sat = 1)) r).toNat, 0)

/-- The value an exclusive scan's first lane takes (R229). -/
def scanIdentity (m : XM) (op : Nat) : Nat :=
  let ty := m.size.toNat
  if op = 0 then 0
  else if op = 1 then (if ty = 0 then 0xFFFF_FFFF else if ty = 1 then 0x7FFF_FFFF else 0x7F80_0000)
  else if ty = 0 then 0 else if ty = 1 then 0x8000_0000 else 0xFF80_0000

/-- A reduction's shape: one result for every active lane. -/
def reduceOp (i : Instr) (f : F3) (m : XM) (s : State) (op : Nat) : Outcome State Fault Refusal :=
  laneFlagOp i s f.d.toNat fun x _ => reduce m op ((lanesOf x.act).map fun l => srcLane s x f.a.toNat l)

/-- Is value a better than b for REDMINI or REDMAXI (R228)? -/
def betterVal (m : XM) (isMax : Bool) (a b : Word) : Bool :=
  if m.size = 2 then
    let x := Fmt.f32.decode a.toNat
    let y := Fmt.f32.decode b.toNat
    if isMax then numberLt y x else numberLt x y
  else
    let t := intType m.size.toNat
    if isMax then decide (t.dec b < t.dec a) else decide (t.dec a < t.dec b)

/-- REDMINI and REDMAXI: the winner's value and index, if there is a candidate (R228). Candidates stand in ascending
lane order. -/
def winner (m : XM) (isMax : Bool) : List (Word × Word) → Option (Word × Word)
  | [] => none
  | p :: ps =>
    match winner m isMax ps with
    | none => some p
    | some q =>
      if betterVal m isMax q.1 p.1 then some q
      else if betterVal m isMax p.1 q.1 then some p
      else if q.2.toNat < p.2.toNat then some q else some p

/-- REDMINI and REDMAXI's shape. -/
def indexReduceOp (i : Instr) (f : F3) (m : XM) (s : State) (isMax : Bool) : Outcome State Fault Refusal :=
  issue i s fun x =>
    let all := (lanesOf x.act).map fun l => (srcLane s x f.a.toNat l, srcLane s x f.b.toNat l)
    let isF := decide (m.size = 2)
    let cands := all.filter fun p => !(isF && (Fmt.f32.decode p.1.toNat).isNaN)
    let fl := if isF then nvOf (all.map fun p => Fmt.f32.decode p.1.toNat) else 0
    let win := winner m isMax cands
    let r := win.getD (if isF then 0x7FC0_0000 else 0, 0xFFFF_FFFF)
    { next := goOn s x (putPair x x.k f.d.toNat fun _ => r.2 ++ r.1)
        (writeP (raiseFlags x.w x.act fun _ => fl) (m.off.toNat % 8) x.act fun _ => win.isNone) }

end Sys2Proof.Machine
end

