-- ==== Sys2Proof/Machine/Scalar.lean ====
section
/-! DEFINITION. The meanings of the SCALAR page, SLD apart (Table 9.9; R230 to R234): once per warp, or in a sequencer's
stream on q registers. -/

namespace Sys2Proof.Machine

open Host (Outcome)

/-- Does the word carry a literal? -/
def hasLiteral (i : Instr) : Bool :=
  match view i with
  | .word _ _ (.fsl ..) => true
  | _ => false

/-- A scalar operation: warps read s registers, sequencers q registers with the literal in place of b (R188, R230). -/
def scalarOp (i : Instr) (f : FS) (s : State) (g : Word → Word → Word) : Outcome State Fault Refusal :=
  issueIn i s
    (fun x => { next := goOn s x x.k (writeS x.w f.d.toNat (g (scalarSrc s x f.a.toNat) (scalarSrc s x f.b.toNat))) })
    fun cl q =>
      let b := if hasLiteral i then literalOf i else seqQ q f.b.toNat
      s.updSeq cl fun q => seqStep (setQ q f.d.toNat (g (seqQ q f.a.toNat) b)) (wordCount i)

/-- SSEL: imm10 names the register that selects (Table 11.1). -/
def sselOp (i : Instr) (f : FS) (s : State) : Outcome State Fault Refusal :=
  let k := f.imm.toNat % 32
  issueIn i s
    (fun x =>
      let v := if scalarSrc s x k = 0 then scalarSrc s x f.b.toNat else scalarSrc s x f.a.toNat
      { next := goOn s x x.k (writeS x.w f.d.toNat v) })
    fun cl q =>
      let b := if hasLiteral i then literalOf i else seqQ q f.b.toNat
      s.updSeq cl fun q =>
        seqStep (setQ q f.d.toNat (if seqQ q k = 0 then b else seqQ q f.a.toNat)) (wordCount i)

/-- imm10[3]: signed (Table 11.1). -/
def scalarSigned (f : FS) : Bool := f.imm.getLsbD 3
/-- The integer a word is under a signedness. -/
def wordInt (signed : Bool) (x : Word) : Int := if signed then x.toInt else (x.toNat : Int)
/-- SMIN and SMAX. -/
def scalarMinMax (f : FS) (isMax : Bool) (x y : Word) : Word :=
  let lt := decide (wordInt (scalarSigned f) x < wordInt (scalarSigned f) y)
  if lt = isMax then y else x
/-- SCMP. -/
def scalarCmp (f : FS) (x y : Word) : Word :=
  if intCond (f.imm.toNat % 8) (wordInt (scalarSigned f) x) (wordInt (scalarSigned f) y) then 1 else 0

/-- SADD (R231). -/
def execSadd (f : FS) (s : State) : Outcome State Fault Refusal :=
  scalarOp (.sadd f) f s fun x y => x + y

/-- SSUB (R231). -/
def execSsub (f : FS) (s : State) : Outcome State Fault Refusal :=
  scalarOp (.ssub f) f s fun x y => x - y

/-- SMUL (R231). -/
def execSmul (f : FS) (s : State) : Outcome State Fault Refusal :=
  scalarOp (.smul f) f s fun x y => x * y

/-- SAND (R231). -/
def execSand (f : FS) (s : State) : Outcome State Fault Refusal :=
  scalarOp (.sand f) f s fun x y => x &&& y

/-- SOR (R231). -/
def execSor (f : FS) (s : State) : Outcome State Fault Refusal :=
  scalarOp (.sor f) f s fun x y => x ||| y

/-- SXOR (R231). -/
def execSxor (f : FS) (s : State) : Outcome State Fault Refusal :=
  scalarOp (.sxor f) f s fun x y => x ^^^ y

/-- SSHL (R231). -/
def execSshl (f : FS) (s : State) : Outcome State Fault Refusal :=
  scalarOp (.sshl f) f s shiftL

/-- SSHR (R231). -/
def execSshr (f : FS) (s : State) : Outcome State Fault Refusal :=
  scalarOp (.sshr f) f s shiftR

/-- SSAR (R231). -/
def execSsar (f : FS) (s : State) : Outcome State Fault Refusal :=
  scalarOp (.ssar f) f s shiftA

/-- SMIN (R231). -/
def execSmin (f : FS) (s : State) : Outcome State Fault Refusal :=
  scalarOp (.smin f) f s (scalarMinMax f false)

/-- SMAX (R231). -/
def execSmax (f : FS) (s : State) : Outcome State Fault Refusal :=
  scalarOp (.smax f) f s (scalarMinMax f true)

/-- SCMP (R231). -/
def execScmp (f : FS) (s : State) : Outcome State Fault Refusal :=
  scalarOp (.scmp f) f s (scalarCmp f)

/-- SSEL (R231). -/
def execSsel (f : FS) (s : State) : Outcome State Fault Refusal :=
  sselOp (.ssel f) f s

/-- SMOV (R231). -/
def execSmov (f : FS) (s : State) : Outcome State Fault Refusal :=
  scalarOp (.smov f) f s fun x _ => x

/-- SADD with a literal (R231). -/
def execSaddLiteral (f : FS) (l : Word) (s : State) : Outcome State Fault Refusal :=
  scalarOp (.saddLiteral f l) f s fun x y => x + y

/-- SSUB with a literal (R231). -/
def execSsubLiteral (f : FS) (l : Word) (s : State) : Outcome State Fault Refusal :=
  scalarOp (.ssubLiteral f l) f s fun x y => x - y

/-- SMUL with a literal (R231). -/
def execSmulLiteral (f : FS) (l : Word) (s : State) : Outcome State Fault Refusal :=
  scalarOp (.smulLiteral f l) f s fun x y => x * y

/-- SAND with a literal (R231). -/
def execSandLiteral (f : FS) (l : Word) (s : State) : Outcome State Fault Refusal :=
  scalarOp (.sandLiteral f l) f s fun x y => x &&& y

/-- SOR with a literal (R231). -/
def execSorLiteral (f : FS) (l : Word) (s : State) : Outcome State Fault Refusal :=
  scalarOp (.sorLiteral f l) f s fun x y => x ||| y

/-- SXOR with a literal (R231). -/
def execSxorLiteral (f : FS) (l : Word) (s : State) : Outcome State Fault Refusal :=
  scalarOp (.sxorLiteral f l) f s fun x y => x ^^^ y

/-- SSHL with a literal (R231). -/
def execSshlLiteral (f : FS) (l : Word) (s : State) : Outcome State Fault Refusal :=
  scalarOp (.sshlLiteral f l) f s shiftL

/-- SSHR with a literal (R231). -/
def execSshrLiteral (f : FS) (l : Word) (s : State) : Outcome State Fault Refusal :=
  scalarOp (.sshrLiteral f l) f s shiftR

/-- SSAR with a literal (R231). -/
def execSsarLiteral (f : FS) (l : Word) (s : State) : Outcome State Fault Refusal :=
  scalarOp (.ssarLiteral f l) f s shiftA

/-- SMIN with a literal (R231). -/
def execSminLiteral (f : FS) (l : Word) (s : State) : Outcome State Fault Refusal :=
  scalarOp (.sminLiteral f l) f s (scalarMinMax f false)

/-- SMAX with a literal (R231). -/
def execSmaxLiteral (f : FS) (l : Word) (s : State) : Outcome State Fault Refusal :=
  scalarOp (.smaxLiteral f l) f s (scalarMinMax f true)

/-- SCMP with a literal (R231). -/
def execScmpLiteral (f : FS) (l : Word) (s : State) : Outcome State Fault Refusal :=
  scalarOp (.scmpLiteral f l) f s (scalarCmp f)

/-- SSEL with a literal (R231). -/
def execSselLiteral (f : FS) (l : Word) (s : State) : Outcome State Fault Refusal :=
  sselOp (.sselLiteral f l) f s

/-- SMOV with a literal (R231). -/
def execSmovLiteral (f : FS) (l : Word) (s : State) : Outcome State Fault Refusal :=
  scalarOp (.smovLiteral f l) f s fun x _ => x

/-- SMOVI (R232). -/
def execSmovi (f : FS) (s : State) : Outcome State Fault Refusal := scalarOp (.smovi f) f s fun _ _ => f.imm.signExtend 32

/-- READLANE (R234). -/
def execReadlane (f : FS) (s : State) : Outcome State Fault Refusal :=
  issue (.readlane f) s fun x =>
    let v := srcLane s x (vecField f).toNat ((scalarSrc s x f.a.toNat).toNat % 32)
    { next := goOn s x x.k (writeS x.w f.d.toNat v) }

/-- SBCAST: every live lane (R234); the warp is converged, so the entry holds them all. -/
def execSbcast (f : FS) (s : State) : Outcome State Fault Refusal :=
  issue (.sbcast f) s fun x =>
    { next := goOn s x (putLanes x x.k (vecField f).toNat fun _ => scalarSrc s x f.a.toNat) x.w }

end Sys2Proof.Machine
end

