-- ==== Sys2Proof/Machine/Control.lean ====
section
/-! DEFINITION. Branches, calls, returns, traps and waits of the CONTROL page (Table 9.10; R235 to R240, R246), in a
warp's and in a sequencer's stream (R237). -/

namespace Sys2Proof.Machine

open Host (Outcome)

/-- The target of an FB branch: H + 4 × off21 (R180). -/
def branchTarget (hdr : Double) (off : BitVec 21) : Double := hdr + BitVec.ofInt 64 (4 * off.toInt)

/-- The check of a static target, whatever lanes move (R180, R235). -/
def targetTrap (t : Double) : Option TrapInfo := if targetOk t then none else some (trapAt cBOUNDS t.toNat)

/-- An entry of some lanes of the issued entry. -/
def part (e : Entry) (m : Word) : Entry := { e with mask := m }

/-- The active lanes go to a target, the others on (R16, R235). -/
def branchTo (s : State) (x : Ctx) (k : Core) (t : Nat → Double) : State :=
  done s x k x.w
    (part (passed x) (x.e.mask &&& ~~~x.act) :: (lanesOf x.act).map fun l => Entry.at_ (t l) (1 <<< l) 0)

/-- The header a sequencer's clause began at. -/
def seqHdr (q : Sequencer) : Double := match q.clause with | some c => c.hdr | none => q.pc

/-- A sequencer's transfer, or the code of its failure (R237). -/
def seqJump (s : State) (cl : Nat) (q : Sequencer) (t : Double) : State :=
  if t.toNat % 4 ≠ 0 then seqEnd s cl 5
  else if !targetOk t then seqEnd s cl 0x11
  else s.updSeq cl fun _ => { q with pc := t, clause := none }

/-- The return address, the next clause header (R235). -/
def retOf (x : Ctx) : Double := (passed x).pc

/-- BRA (R235). -/
def execBra (f : FB) (s : State) : Outcome State Fault Refusal :=
  issueIn (.bra f) s
    (fun x =>
      let t := branchTarget (hdrOf x.e) f.off
      { own := targetTrap t, next := branchTo s x x.k fun _ => t })
    fun cl q => seqJump s cl q (branchTarget (seqHdr q) f.off)

/-- BRP: the whole entry, when the guard holds in some lane (R235). -/
def execBrp (f : FB) (s : State) : Outcome State Fault Refusal :=
  issue (.brp f) s fun x =>
    let t := branchTarget (hdrOf x.e) f.off
    { own := targetTrap t
      next := if x.act = 0 then goOn s x x.k x.w else done s x x.k x.w [Entry.at_ t x.e.mask 0] }

/-- CALL: as BRA, with the return address in v14:v15, or in q31 (R235, R237). -/
def execCall (f : FB) (s : State) : Outcome State Fault Refusal :=
  issueIn (.call f) s
    (fun x =>
      let t := branchTarget (hdrOf x.e) f.off
      { own := targetTrap t, next := branchTo s x (putPair x x.k 14 fun _ => retOf x) fun _ => t })
    fun cl q => seqJump s cl (setQ q 31 ((seqStep q 1).pc.setWidth 32)) (branchTarget (seqHdr q) f.off)

/-- The lowest lane whose value a test refuses, as a trap at that value. -/
def firstBad (m : Word) (cause : Nat) (v : Nat → Nat) (bad : Nat → Bool) : Option TrapInfo :=
  ((lanesOf m).find? fun l => bad (v l)).map fun l => trapAt cause (v l)

/-- The checks of per-lane targets (R236). -/
def lanesTrap (x : Ctx) (t : Nat → Double) : Option TrapInfo :=
  (firstBad x.act cMISALIGNED (fun l => (t l).toNat) fun v => decide (v % 4 ≠ 0)).or
    (firstBad x.act cBOUNDS (fun l => (t l).toNat) fun v => decide (regionOf v ≠ .paged))

/-- A sequencer's register target: the code pointer with its low word replaced (R237). -/
def seqTarget (q : Sequencer) (a : BitVec 7) : Double :=
  (match q.cur with | some f => f.code.extractLsb' 32 32 | none => 0) ++ seqQ q a.toNat

/-- JMPI (R236, R237). -/
def execJmpi (f : F3) (s : State) : Outcome State Fault Refusal :=
  issueIn (.jmpi f) s
    (fun x =>
      let t (l : Nat) := pairLane s x f.a.toNat l
      { own := lanesTrap x t, next := branchTo s x (putPair x x.k f.d.toNat fun _ => retOf x) t })
    fun cl q => seqJump s cl (setQ q f.d.toNat ((seqStep q 1).pc.setWidth 32)) (seqTarget q f.a)

/-- RET (R236, R237). -/
def execRet (f : F3) (s : State) : Outcome State Fault Refusal :=
  issueIn (.ret f) s
    (fun x =>
      let t (l : Nat) := pairLane s x f.a.toNat l
      { own := lanesTrap x t, next := branchTo s x x.k t })
    fun cl q => seqJump s cl q (seqTarget q f.a)

/-- TRAP: USER_TRAP with TPC at the next clause header, unless no lane is active (R245, R246). -/
def execTrap (f : F2I) (s : State) : Outcome State Fault Refusal :=
  issue (.trap f) s fun x =>
    { live := true
      next :=
        if x.act = 0 then goOn s x x.k x.w
        else trapTo s x { cause := cUSER, addr := 0, info := f.imm.toNat } (retOf x) (retOf x) }

/-- RCONV: the entry waits at its PC until the barrier releases it (R22, R23, R239). -/
def execRconv (f : F3) (s : State) : Outcome State Fault Refusal :=
  issue (.rconv f) s fun x =>
    let s := done s x x.k x.w [{ issued x.e with wait := .rconv }]
    { next := settle (s.updWarp x.core x.slot rconvRelease) x.core x.slot }

/-- YIELD: the warp counts as most recently issued, which its issue makes it (R37, R239). -/
def execYield (f : F3) (s : State) : Outcome State Fault Refusal :=
  issue (.yield f) s fun x => { next := goOn s x x.k x.w }

/-- NOP (R239). -/
def execNop (f : F3) (s : State) : Outcome State Fault Refusal :=
  issueIn (.nop f) s (fun x => { next := goOn s x x.k x.w }) fun cl _ => s.updSeq cl fun q => seqStep q 1

/-- SLEEP: the count is V[a] in the lowest active lane; all ones sleeps until woken (R240). -/
def execSleep (f : F3) (s : State) : Outcome State Fault Refusal :=
  issue (.sleep f) s fun x =>
    let n := match lowLane x.act with | some l => (srcLane s x f.a.toNat l).toNat | none => 0
    let h : Hold := if n = 0 then .none else if n = 0xFFFF_FFFF then .sleepForever else .sleep (x.k.cycle + n)
    { live := true, next := goOn s x x.k { x.w with hold := h } }

end Sys2Proof.Machine
end

