-- ==== Sys2Proof/Machine/Access.lean ====
section
/-! DEFINITION. A lane's access before it leaves the core: where its address lies (R53 to R58, R65, R122), the checks of
R257, translation at issue with parking (R20, R85, R391, R399, R403). -/

namespace Sys2Proof.Machine

/-- Where an access goes: paged memory, the issuing core's own slice (an offset under a generation; `priv` for private
scratch), another core's slice, a peer window, or nowhere (BOUNDS). -/
inductive Loc where
  | paged | own (off gen : Nat) (priv : Bool) | slice (core off : Nat) | peer (win off : Nat) | bad
  deriving DecidableEq, Repr

/-- The workgroup of a launch whose allocation holds a range of a core's slice (R58). -/
def allocAt (s : State) (c launch off n : Nat) : Option (Nat × Wg) :=
  s.wgs.find? fun p =>
    decide (p.2.core = c ∧ p.2.launch = launch ∧ p.2.base ≤ off ∧ off + n ≤ p.2.base + p.2.size) && holdsSlot p.2

/-- Where an access of n bytes of the issuing warp lies. -/
def locate (s : State) (x : Ctx) (va n : Nat) : Loc :=
  match regionOf va with
  | .paged => .paged
  | .local_ o =>
    if 0x8000_0000 ≤ o then
      if x.w.round.st = .running ∧ o - 0x8000_0000 + n ≤ x.w.round.psize * 1024 then
        .own (x.w.round.privBase + (o - 0x8000_0000)) x.w.round.privGen true
      else .bad
    else if o + n ≤ x.wg.size then .own (x.wg.base + o) x.wg.gen false
    else .bad
  | .slice idx off =>
    let k := devOfCore s x.core
    match coreOfIdx s k idx with
    | none => .bad
    | some c =>
      if addressable (s.dev k).hcshare < off + n then .bad
      else if c = x.core then
        match allocAt s c x.wg.launch off n with
        | some (_, g) => .own off g.gen false
        | none => .bad
      else .slice c off
  | .peer w off =>
    let p := windowOf s (devOfCore s x.core) w
    if p.valid ∧ off + n ≤ p.size * 65536 then .peer w off else .bad
  | .reserved => .bad

/-- The address of a lane: the pair form adds off15 to a pair, the local form to a 32-bit offset (R256). -/
def laneAddr (s : State) (x : Ctx) (local_ : Bool) (a : Nat) (off : Int) (l : Nat) : Nat :=
  if local_ then 0xFF_0000_0000_0000 + (BitVec.ofInt 32 (((srcLane s x a l).toNat : Int) + off)).toNat
  else (BitVec.ofInt 64 (((pairLane s x a l).toNat : Int) + off)).toNat

/-- The first two checks of R257 over the active lanes: alignment, then the map. -/
def addrTrap (s : State) (x : Ctx) (e : Nat → Nat) (align n : Nat) : Option TrapInfo :=
  (firstBad x.act cMISALIGNED e fun v => decide (v % align ≠ 0)).or
    (firstBad x.act cBOUNDS e fun v => decide (locate s x v n = .bad))

/-! ### Work-queue descriptors (R272) -/

/-- A queue descriptor's fields: BASE, LOG2N, EN, SPACE, HEAD, TAIL (Table 12.6). -/
structure WqDesc where
  at_ : Nat
  base : Nat
  log2n : Nat
  en : Bool
  space : Nat
  head : Nat
  tail : Nat
  deriving DecidableEq, Repr

/-- Read descriptor q of a logical device. -/
def wqDesc (s : State) (k q : Nat) : WqDesc :=
  let at_ := (s.dev k).wqtbase + 64 * q
  let w := physNat s k (at_ + 8) 8
  { at_ := at_, base := physNat s k at_ 8, log2n := w % 32, en := decide (w / 32 % 2 = 1), space := w / 256 % 65536,
    head := physNat s k (at_ + 16) 8, tail := physNat s k (at_ + 24) 8 }

/-- Is a descriptor valid (R272)? TAIL − HEAD is taken modulo 2^64. -/
def wqOkDesc (d : WqDesc) : Bool :=
  d.en && decide (1 ≤ d.log2n ∧ d.log2n ≤ 24) && decide (d.base % 16 = 0) &&
    decide ((d.tail + 2 ^ 64 - d.head) % 2 ^ 64 ≤ 2 ^ d.log2n)

/-- Items in a queue. -/
def wqCount (d : WqDesc) : Nat := (d.tail + 2 ^ 64 - d.head) % 2 ^ 64
/-- The virtual address of item i's slot. -/
def wqSlot (d : WqDesc) (i : Nat) : Nat := d.base + 16 * (i % 2 ^ d.log2n)

/-- Set the map bit of the line a translated write touches in a bounce frame (R400). -/
def noteBounce (s : State) (k : Nat) (p : Double) (pa : Nat) : State :=
  if pteTier p ≠ 2 then s
  else
    match (s.dev k).bounce.find? fun b => decide (b.1 = pteAddr p) with
    | none => s
    | some b =>
      let n := (pa - b.1) / 64
      let at_ := b.2 + n / 8
      physWrite s k at_ 1 (physNat s k at_ 1 ||| 2 ^ (n % 8))

/-- The launch whose admitted snapshot set names the page of an entry (R403). -/
def snapLaunch (s : State) (k pteAt : Nat) : Option Nat :=
  (s.launches.find? fun p =>
    decide (p.2.dev = k) && decide (p.2.phase ≠ .ended) && p.2.pages.any fun q => decide (q.1 = pteAt)).map Prod.fst

/-- What a translation away from a lane answers (R423): a place, a copy-aside to wait for, or a failure posted. -/
inductive Away where
  | ok (pa : Nat) | wait | fail
  deriving DecidableEq, Repr

/-- The record of a failed walk or refused write. -/
def walkRecord (s : State) (c : Option Nat) (launch space va access kind sub : Nat) (info : Double) : FaultRec :=
  accessFault s va launch space c (if kind = 1 then 0 else info.toNat) access sub kind

/-- The pool queue numbers of the die at a position: PROMQ64, PROMQ2M, PROMQ1G, BOUNCEQ, SNAPQ (Table 22.1). -/
def poolQueue (s : State) (k die field : Nat) : Nat :=
  (((fget (s.dev k).pools (posOfDie s.pkg.mode die)).getD 0).toNat / 2 ^ (12 * field)) % 4096

/-- Start a copy-aside of a snapshot page, unless one runs. Its item comes from the SNAPQ of the die that the access names
(R397, R403); COPY_ASIDE_COMPLETE pops it. -/
def startAside (s : State) (k die : Nat) (c : Option Nat) (launch space va acc : Nat) (p : Double) (pteAt lid : Nat) : State :=
  if (s.dev k).asides.any fun a => decide (a.pteAt = pteAt) then s
  else
    s.updDev k fun d =>
      { d with asides := d.asides ++ [{ space := space, va := va / 65536 * 65536, pte := p, pteAt := pteAt,
                                        item := none, queue := poolQueue s k die 4, launch := lid,
                                        core := (c.map (idxOfCore s)).getD 0xFFFF, byLaunch := launch, access := acc }] }

/-- Translate a write-like access that met COW or SNAP, or any access its leaf serves (R399, R403). It waits for a copy-aside,
or to be translated anew when its entry has changed under it. -/
def serveLeaf (s : State) (k die : Nat) (c : Option Nat) (launch space va : Nat) (write : Bool) (acc : Nat) (p : Double)
    (pteAt size : Nat) : State × Away :=
  let pa := pteAddr p + va % size
  match permit p write with
  | .ok => (if write then noteBounce s k p pa else s, .ok pa)
  | .wprot => (postFault s k (walkRecord s c launch space va acc 3 0 p), .fail)
  | .cow =>
    if frameRef s k pa = 1 then
      let p' := pteSet (pteSet p 62 true) 58 false
      match casPte s k space va pteAt p p' with
      | (s, true) => (if pteSnap p' then s else noteBounce s k p' pa, if pteSnap p' then .wait else .ok pa)
      | (s, false) => (s, .wait)
    else (postFault s k (walkRecord s c launch space va acc 4 0 p), .fail)
  | .snap =>
    match snapLaunch s k pteAt with
    | some lid => (startAside s k die c launch space va acc p pteAt lid, .wait)
    | none =>
      match casPte s k space va pteAt p (pteSet p 54 false) with
      | (s, true) => (noteBounce s k p pa, .ok pa)
      | (s, false) => (s, .wait)

/-- A translation made away from any lane, by a walk (R423); its records name the core that makes it, none at the device node. -/
def awayXlate (s : State) (k die : Nat) (c : Option Nat) (launch space va : Nat) (write : Bool) (acc : Nat) : State × Away :=
  if regionOf va ≠ .paged then (s, .fail)
  else
    match walkPage s k space va with
    | .leaf p at_ size => serveLeaf s k die c launch space va write acc p at_ size
    | .bad kind sub info => (postFault s k (walkRecord s c launch space va acc kind sub info), .fail)

/-! ### Lanes at issue (R20, R85) -/

/-- A lane's translation at issue: where it goes, a walk to wait for, or a park. -/
inductive LaneX where
  | ok (pa : Nat) | walk | park
  deriving DecidableEq, Repr

/-- Translate one paged address through the core's TLB. A lane whose entry has changed under a cached translation walks again. -/
def laneXlate (s : State) (x : Ctx) (va : Nat) (write : Bool) (acc : Nat) : State × LaneX :=
  let k := devOfCore s x.core
  let sp := x.l.rec_.space
  match tlbFind (s.core x.core).tlb sp va with
  | none => (s, .walk)
  | some t =>
    match serveLeaf s k (dieOf x.core) (some x.core) x.l.id sp va write acc t.pte t.pteAt t.size with
    | (s, .ok pa) => (s, .ok pa)
    | (s, .fail) => (s, .park)
    | (s, .wait) =>
      if (s.dev k).asides.any fun a => decide (a.pteAt = t.pteAt) then (s, .park)
      else (s.updCore x.core fun c => { c with tlb := c.tlb.filter fun q => decide (q ≠ t) }, .walk)

/-- Translate the paged lanes of an instruction in lane order. -/
def lanesXlate (s : State) (x : Ctx) (e : Nat → Nat) (n : Nat) (write : Bool) (acc : Nat) :
    State × List (Nat × LaneX) :=
  (lanesOf x.act).foldl (fun (r : State × List (Nat × LaneX)) l =>
    match locate r.1 x (e l) n with
    | .paged => let q := laneXlate r.1 x (e l) write acc; (q.1, r.2 ++ [(l, q.2)])
    | _ => r) (s, [])

/-- Park lanes of one page at the instruction (R19, R20). -/
def parkLanes (w : Warp) (x : Ctx) (ls : List Nat) (va acc : Nat) : Warp :=
  { w with
    parks := w.parks ++ [{ pc := x.e.pc, clause := x.e.clause, mask := maskOf ls.contains, reason := .xlateFault, va := va,
                           space := x.l.rec_.space, access := acc, resolved := false, seq := w.nextSeq, spill := none }]
    nextSeq := w.nextSeq + 1 }

/-- The pages of some lanes, in order of their first lane. -/
def pagesOf (e : Nat → Nat) (ls : List Nat) : List Nat := (ls.map fun l => e l / 65536).eraseDups

/-- Park lanes page by page. -/
def parkAll (w : Warp) (x : Ctx) (e : Nat → Nat) (ls : List Nat) (acc : Nat) : Warp :=
  (pagesOf e ls).foldl (fun w pg =>
    let mine := ls.filter fun l => decide (e l / 65536 = pg)
    parkLanes w x mine (e (mine.headD 0)) acc) w

/-- Start the walks of the pages that missed; the entry waits for them (R85). -/
def startWalks (s : State) (x : Ctx) (e : Nat → Nat) (ls : List Nat) (acc : Nat) : State :=
  let new := (pagesOf e ls).map fun pg =>
    let mine := ls.filter fun l => decide (e l / 65536 = pg)
    ({ slot := x.slot, entry := x.e.pc.toNat, space := x.l.rec_.space, va := e (mine.headD 0), access := acc,
       lanes := maskOf mine.contains } : Walk)
  let w := { x.w with
    frontier := x.w.frontier.zipIdx.map fun p => if p.2 = x.ei then { p.1 with wait := .walk } else p.1 }
  s.updCore x.core fun k => { k with walks := k.walks ++ new, warps := fput k.warps x.slot w }

end Sys2Proof.Machine
end

