-- ==== Sys2Proof/Machine/Brine.lean ====
section
/-! DEFINITION. Requests and Brine: acceptance, room, forwarding and the waits of the consistency model (R58, R77, R80 to
R87, R126, R128, R134, R143), packets entering the mesh (R349), and external operations (R144). -/

namespace Sys2Proof.Machine

/-! ### Held entries -/

/-- Bytes an entry holds in Brine (log 21). -/
def reqBytes (r : Req) : Nat := r.lanes.length * r.size
/-- All entries of a workgroup that Brine holds, forwarding copies included. -/
def heldOf (x : Wg) : List Req := x.laneQ ++ x.copyQ ++ x.chanQ ++ x.appQ ++ x.sub ++ x.left
/-- Bytes held by a core's workgroups that a test accepts. -/
def heldBytes (s : State) (c : Nat) (p : Wg → Bool) : Nat :=
  s.wgs.foldl (fun n q => if q.2.core = c ∧ p q.2 then n + ((heldOf q.2).map reqBytes).sum else n) 0
/-- Bytes in the speculative sub-queues of a core (R126). -/
def subBytes (s : State) (c : Nat) : Nat :=
  s.wgs.foldl (fun n q => if q.2.core = c then n + (q.2.sub.map reqBytes).sum else n) 0

/-- Bytes that only the on-chip Brine of a core can hold: plain entries, and the sub-queues of every mode, which never spill
(R126, R134). -/
def onChipBytes (s : State) (c : Nat) : Nat :=
  heldBytes s c (fun g => decide (modeOf s g = 0)) +
    s.wgs.foldl (fun n q => if q.2.core = c ∧ modeOf s q.2 ≠ 0 then n + (q.2.sub.map reqBytes).sum else n) 0

/-- Is there room for n bytes more of a mode (R134, R143)? -/
def brineRoom (s : State) (c mode n : Nat) : Bool :=
  if mode = 0 then decide (onChipBytes s c + n ≤ Config.brineBytes)
  else decide (heldBytes s c (fun _ => true) + n ≤ Config.brineStagedBytes)

/-- Is there room for n bytes in the speculative share (R126)? -/
def subRoom (s : State) (c n : Nat) : Bool := decide (subBytes s c + n ≤ Config.specShareBytes)

/-! ### The mesh (R349) -/

/-- The mesh position of a core on its die. -/
def meshAt (s : State) (c : Nat) : Nat × Nat := ((corePlace s c).1, (corePlace s c).2.1)


/-- The core a request goes to, if its target is a slice of this package. -/
def reqHome (s : State) (r : Req) : Option Nat :=
  match r.target with
  | .mem pa => some (homeCore s (devOfCore s r.core) pa)
  | .slice c _ => some c
  | .peer .. | .node _ => none

/-- The line a request's target lies in. -/
def reqLine (s : State) (r : Req) : Option (Nat × Nat) :=
  match r.target with
  | .mem pa => some (devOfCore s r.core, pa / 64)
  | .slice .. | .peer .. | .node _ => none

/-- Does an operation set aside hold a line of n bytes at a device physical address (R423)? -/
def lineHeld (s : State) (k pa n : Nat) : Bool :=
  s.aside.any fun r =>
    match reqLine s r with
    | some (j, line) => decide (j = k ∧ pa / 64 ≤ line ∧ line < (pa + n + 63) / 64)
    | none => false

/-- Does a request travel in the mesh of its die (R349)? Any other route is passed as a whole (log 22). -/
def inDie (s : State) (r : Req) : Bool :=
  match reqHome s r with
  | some h => decide (dieOf h = dieOf r.core ∧ h ≠ r.core)
  | none => false

/-- A request leaves its core: within a die it waits for the local input of the core's router (R349, R350). -/
def sendReq (s : State) (r : Req) : State :=
  { s with net := s.net ++ [{ r with sent := (s.core r.core).cycle, inMesh := inDie s r }] }

/-! ### Requests -/

/-- Does a request's access hold an implicit count (R105)? -/
def countPhase (s : State) (c : Nat) (t : Target) : Nat :=
  match t with
  | .mem _ => (s.core c).phase
  | .slice .. | .peer .. | .node _ => 2

/-- A request of the issuing warp. -/
def mkReq (s : State) (x : Ctx) (path : BrineQ) (kind : ReqKind) (target : Target) (size : Nat) (ls : List LaneOp)
    (pend pred : Option Nat) (release : Bool) (waitReads : List Nat) : Req :=
  { id := s.nextId, pc := x.e.pc, hdr := hdrOf x.e, core := x.core, slot := x.slot, wg := x.g, launch := x.wg.launch, space := x.l.rec_.space,
    inst := x.w.round.inst, owner := if x.w.round.st = .running then x.w.round.owner else 0, path := path, kind := kind, target := target, size := size, lanes := ls, pend := pend,
    pred := pred, cmd := none, acc := (s.core x.core).cycle, release := release, waitReads := waitReads, marks := x.w.waited,
    external := false, sent := 0, inMesh := false, phase := countPhase s x.core target, marked := false, via := none }

/-- What a kept item adds to the twin sum (R149): its address, size and data, lane by lane. -/
def hashReq (l : Nat) (r : Req) : BitVec 64 :=
  r.lanes.foldl (fun a o => a + Config.twinHash l o.va r.size o.data) 0

/-- When the bytes that a core's guarded and twin workgroups hold reach three quarters of the room, each of them is to
take a checkpoint (Table 7.3), and so are the other copies of a twin's, which checkpoint at the same points (R149, R150; DEDUCED,
log 74). -/
def occupancyTrigger (s : State) (c before : Nat) : State :=
  let kept (g : Wg) : Bool := decide (modeOf s g ≠ 0)
  if before < Config.ckptOccupancy ∧ Config.ckptOccupancy ≤ heldBytes s c kept then
    let here (p : Nat × Wg) : Bool := decide (p.2.core = c) && kept p.2
    let asked := s.wgs.flatMap fun p => if here p then p.1 :: (p.2.twin.toList ++ p.2.third.toList) else []
    { s with
      wgs := s.wgs.map fun p => if asked.contains p.1 then (p.1, { p.2 with ck := { p.2.ck with again := true } }) else p }
  else s

/-- Put a request into its queue. -/
def enqueue (s : State) (g : Wg) (r : Req) (spec : Bool) : Wg :=
  let g := if modeOf s g = 2 ∧ !spec then { g with ck := { g.ck with sigma := g.ck.sigma + hashReq r.launch r } } else g
  if spec then { g with sub := g.sub ++ [r] }
  else
    match r.path with
    | .lane => { g with laneQ := g.laneQ ++ [r] }
    | .copy => { g with copyQ := g.copyQ ++ [r] }
    | .channel => { g with chanQ := g.chanQ ++ [r] }
    | .append => { g with appQ := g.appQ ++ [r] }

/-- What an external operation of a twin keeps counts in the sums of the copies that do not issue it, so that they resume
alike (R149, R150). -/
def hashForward (s : State) (r : Req) : State :=
  match fget s.wgs r.wg with
  | none => s
  | some x =>
    if modeOf s x = 2 ∧ r.external then
      (x.twin.toList ++ x.third.toList).foldl (fun s h => s.updWg h fun y =>
        { y with ck := { y.ck with sigma := y.ck.sigma + hashReq r.launch r } }) s
    else s

/-- Accept a request into its workgroup's queue of a path (R81), or into the instance's sub-queue (R126). -/
def accept (s : State) (r : Req) (spec : Bool) : State :=
  let before := heldBytes s r.core fun g => decide (modeOf s g ≠ 0)
  let s := { s with nextId := s.nextId + 1 }
  hashForward (occupancyTrigger (s.updWg r.wg fun g => enqueue s g r spec) r.core before) r

/-- Send a request at once: a load, which Brine does not hold. -/
def sendNow (s : State) (r : Req) : State := sendReq { s with nextId := s.nextId + 1 } r

/-! ### Overlap, acquire and release waits (Table 3.4) -/

/-- Do two byte ranges meet? -/
def meets (a n b m : Nat) : Bool := decide (a < b + m) && decide (b < a + n)

/-- Has an operation one event in which it reads and writes the bytes it names, so that nothing is forwarded from it (R79)? -/
def indivisible : ReqKind → Bool
  | .atom .. | .cas | .append => true
  | .load | .store | .acommit | .ahead | .wqpush _ | .wqpop _ | .retire _ | .joinDec | .sheadReset _ | .spawn | .message _ => false

/-- The bytes in its lane's memory that an entry names: from a virtual address, so many. An ACOMMIT names its descriptor's CHEAD,
an APPEND its BASE and CAP, and SHEAD with FULL (Table 2.5). What else an APPEND or a push writes is `farWrites`' to say. -/
def namedBytes (r : Req) (o : LaneOp) : List (Nat × Nat) :=
  match r.kind with
  | .acommit => [(o.va + 16, 8)]
  | .append => [(o.va, 16), (o.va + 24, 9)]
  | .wqpush _ | .message _ | .retire _ | .spawn | .sheadReset _ => []
  | .load | .store | .atom .. | .cas | .ahead | .wqpop _ | .joinDec => [(o.va, r.size)]

/-- Does an access of some lanes touch bytes of an outstanding access of those lanes, or, unless it queues behind them,
of a held operation of the warp's lanes that forwards nothing (Table 3.4 row 1)? -/
def overlaps (x : Ctx) (e : Nat → Nat) (n : Nat) (queued : Bool) : Bool :=
  let touch (a m : Nat) : Bool := (lanesOf x.act).any fun l => meets (e l) n a m
  x.w.pend.any (fun p => decide (p.act &&& x.act ≠ 0) && p.bytes.any fun b => touch b.1 b.2) ||
    !queued && (heldOf x.wg).any fun r =>
      decide (r.slot = x.slot) && indivisible r.kind &&
        r.lanes.any fun o => hasLane x.act o.lane && (namedBytes r o).any fun b => touch b.1 b.2

/-- Does Brine hold a lane-path entry of the workgroup over bytes of its core's own slice (R81)? A direct write waits
for it. -/
def ownHeld (g : Wg) (off n : Nat) : Bool :=
  (g.laneQ ++ g.left).any fun r =>
    match r.target with
    | .slice c _ => decide (r.path = .lane ∧ c = g.core) && r.lanes.any fun o => meets off n o.at_ r.size
    | .mem _ | .peer .. | .node _ => false

/-- The place a lane of the issuing warp accesses, as far as the core knows it before translation: a slice, a peer window, or a
physical address through its TLB. -/
def knownPlace (s : State) (x : Ctx) (va n : Nat) : Option (Target × Nat) :=
  match locate s x va n with
  | .paged => (tlbFind x.k.tlb x.l.rec_.space va).map fun t => (.mem (tlbPa t va), tlbPa t va)
  | .own off _ _ => some (.slice x.core off, off)
  | .slice c off => some (.slice c off, off)
  | .peer w off => some (.peer (devOfCore s x.core) w (windowOf s (devOfCore s x.core) w) off, off)
  | .bad => none

/-- Do two targets name the same memory: device memory, one slice, or one region of one target device? -/
def sameSpace (s : State) (c c' : Nat) : Target → Target → Bool
  | .mem _, .mem _ => decide (devOfCore s c = devOfCore s c')
  | .slice a _, .slice b _ => decide (a = b)
  | .peer _ _ w _, .peer _ _ v _ => decide (w.target = v.target ∧ w.exp = v.exp)
  | _, _ => false

/-- Do the bytes a lane reads meet those a held entry names: at their places, else at their virtual addresses (R80, R128)? -/
def heldMeets (s : State) (x : Ctx) (va n : Nat) (r : Req) (o : LaneOp) : Bool :=
  (namedBytes r o).any fun b =>
    (match knownPlace s x va n with
      | some (t, a) => sameSpace s x.core r.core t r.target && meets a n (o.at_ + (b.1 - o.va)) b.2
      | none => false) || meets va n b.1 b.2

/-- Bytes that an operation may write besides those it names: of device memory, or of an address space. -/
inductive Span where
  | phys (a n : Nat) | virt (space a n : Nat)
  deriving DecidableEq, Repr

/-- What an APPEND or a push may write when it performs, as its descriptor stands now: the APPEND's region; the push's descriptor
and its ring, of which its event finds the slot (R268, R273; DEDUCED, log 21). -/
def farWrites (s : State) (r : Req) (o : LaneOp) : List Span :=
  let k := devOfCore s r.core
  match r.kind with
  | .append => [.virt r.space (physNat s k o.at_ 8) (physNat s k (o.at_ + 8) 8)]
  | .wqpush _ =>
    let d := wqDesc s k ((o.at_ - (s.dev k).wqtbase) / 64)
    [.phys o.at_ 64, .virt d.space d.base (16 * 2 ^ d.log2n)]
  | _ => []

/-- Do the bytes a lane of the issuing warp accesses meet a span? -/
def laneMeets (s : State) (x : Ctx) (va n : Nat) : Span → Bool
  | .phys a m => (match knownPlace s x va n with | some (.mem _, p) => meets p n a m | _ => false)
  | .virt sp a m => decide (sp = x.l.rec_.space) && meets va n a m

/-- Do the bytes some lanes access meet what a lane of a held entry may write besides? -/
def farMeets (s : State) (x : Ctx) (e : Nat → Nat) (n : Nat) (r : Req) (o : LaneOp) : Bool :=
  (farWrites s r o).any fun sp => (lanesOf x.act).any fun l => laneMeets s x (e l) n sp

/-- Is an acquire of the active lanes outstanding (Table 3.4 row 4)? -/
def acquirePending (x : Ctx) : Bool := x.w.pend.any fun p => p.acquire && decide (p.act &&& x.act ≠ 0)

/-- The outstanding reads of the active lanes. -/
def readsOf (x : Ctx) : List Nat := (x.w.pend.filter fun p => decide (p.act &&& x.act ≠ 0)).map Pending.id

/-- Lane-queue entries numbered below a mark that have not performed and been acknowledged (R84). -/
def laneBefore (g : Wg) (n : Nat) : Bool :=
  (g.laneQ.any fun r => decide (r.id < n)) || g.left.any fun r => decide (r.path = .lane ∧ r.id < n)

/-- Does an access of some lanes meet bytes that a held APPEND or push of those lanes may write besides those it names
(Table 3.4 row 1)? -/
def farHeld (s : State) (x : Ctx) (e : Nat → Nat) (n : Nat) : Bool :=
  (heldOf x.wg).any fun r =>
    decide (r.slot = x.slot) && r.lanes.any fun o => hasLane x.act o.lane && farMeets s x e n r o

/-- Is a speculative write of an instance at or below this one held over bytes the access reads (R128)? -/
def specHeld (s : State) (x : Ctx) (e : Nat → Nat) (n : Nat) : Bool :=
  speculative x.w && x.wg.sub.any fun r =>
    decide (r.owner = x.w.round.owner ∧ r.inst ≤ x.w.round.inst) &&
      r.lanes.any fun o => ((lanesOf x.act).any fun l => heldMeets s x (e l) n r o) || farMeets s x e n r o

/-! ### Forwarding (R80) -/

/-- The committed head of the descriptor at a place once a held ACOMMIT has performed: what stands in memory, or the highest value
of the ones up to it (R67). -/
def headOver (s : State) (rs : List Req) (r : Req) (o : LaneOp) : Nat :=
  rs.foldl (fun m q =>
    if q.kind = .acommit ∧ q.id ≤ r.id then q.lanes.foldl (fun m p => if p.at_ = o.at_ then max m (p.data % 2 ^ 64) else m) m else m)
    (physNat s (devOfCore s r.core) (o.at_ + 16) 8)

/-- What a held entry writes of a lane, if it is forwarded: its place, bytes, value and bits. -/
def forwards (s : State) (rs : List Req) (r : Req) (o : LaneOp) : Option (Nat × Nat × Nat × Nat) :=
  match r.kind with
  | .store => some (o.at_, r.size, o.data, o.keep)
  | .acommit => some (o.at_ + 16, 8, headOver s rs r o, 2 ^ 64 - 1)
  | _ => none

/-- A byte with the bits a held write puts there (R70, R80). -/
def laid (old : Byte) (i data keep : Nat) : Byte :=
  let m : Byte := BitVec.ofNat 8 (keep / 2 ^ (8 * i))
  (old &&& ~~~m) ||| (BitVec.ofNat 8 (data / 2 ^ (8 * i)) &&& m)

/-- A byte at a place with one held entry's lanes laid over it, in order. -/
def layOver (s : State) (rs : List Req) (c : Nat) (t : Target) (a : Nat) (b : Byte) (r : Req) : Byte :=
  if sameSpace s c r.core t r.target then
    r.lanes.foldl (fun b o =>
      match forwards s rs r o with
      | some (at_, n, data, keep) => if at_ ≤ a ∧ a < at_ + n then laid b (a - at_) data keep else b
      | none => b) b
  else b

/-- The place of a byte in a lane operation of a request of the same memory. -/
def placeIn (t : Target) (a : Nat) (r : Req) (o : LaneOp) : Option Nat :=
  match t, r.target with
  | .mem _, .mem _ => if o.at_ ≤ a then some (a - o.at_) else none
  | .slice c _, .slice c' _ => if c = c' ∧ o.at_ ≤ a then some (a - o.at_) else none
  | .peer _ _ w _, .peer _ _ v _ => if w.target = v.target ∧ w.exp = v.exp ∧ o.at_ ≤ a then some (a - o.at_) else none
  | _, _ => none

/-- Bytes read by a workgroup on a core with what its Brine holds laid over them, oldest entry first: each byte is then the
youngest held write to it (R80). -/
def overlay (s : State) (wg : Nat) (t : Target) (a : Nat) (bs : List Byte) : List Byte :=
  match fget s.wgs wg with
  | none => bs
  | some g =>
    let rs := g.left ++ g.laneQ ++ g.copyQ
    if rs.isEmpty then bs
    else
      let rs := sortBy (fun p q => decide (p.id < q.id)) rs
      bs.zipIdx.map fun p => rs.foldl (layOver s rs g.core t (a + p.2)) p.1

/-- Does the workgroup's Brine hold every byte of a range of a slice, so that none of the slice's own is read (R80, R111)? -/
def allHeld (s : State) (wg c off n : Nat) : Bool :=
  let zero := overlay s wg (.slice c 0) off (List.replicate n 0)
  let ones := overlay s wg (.slice c 0) off (List.replicate n 0xFF)
  zero == ones

/-- The stale check of own-slice reads under policy trap (R257 item 4, Table 5.2). -/
def staleTrap (s : State) (x : Ctx) (e : Nat → Nat) (n : Nat) : Option TrapInfo :=
  if x.l.rec_.genTrap then
    firstBad x.act cSTALE e fun v =>
      match locate s x v n with
      | .own off gen _ => rangeStale x.k gen off n && !allHeld s x.g x.core off n
      | .paged | .slice .. | .peer .. | .bad => false
  else none

/-! ### External operations (R144) -/

/-- Is the external operation of a slot the one cleared to issue? -/
def extCleared (g : Wg) (slot : Nat) : Bool := decide (g.ck.ext = some slot) && g.ck.ready

/-- Ask for a checkpoint with the warp stopped at its external operation (R144 step 1). -/
def askExternal (s : State) (x : Ctx) : State :=
  let s := s.updWg x.g fun g => if g.ck.ext.isNone then { g with ck := { g.ck with ext := some x.slot, ready := false } } else g
  hold s x .warp

/-- An external operation in guarded or twin mode issues only once it is cleared; any other issues at once. -/
def externally (s : State) (x : Ctx) (ext : Bool) (go : State) : State :=
  if ext && decide (x.l.rec_.mode ≠ 0) && !extCleared x.wg x.slot then askExternal s x else go

/-- Mark a request external, so that W holds it alone (R144 step 2). -/
def asExternal (x : Ctx) (ext : Bool) (r : Req) : Req := { r with external := ext && decide (x.l.rec_.mode ≠ 0) }

end Sys2Proof.Machine
end

