-- ==== Sys2Proof/Machine/Memory.lean ====
section
/-! DEFINITION. The meanings of loads, stores and atomics (Table 9.11; R254 to R263), SLD (R233) and PREF (R261). -/

namespace Sys2Proof.Machine

open Host (Outcome)

/-- Bytes of a size code, and whether the result is sign-extended (Table 12.2). -/
def sizeBytes (n : Nat) : Nat := if n = 5 then 1 else if n = 6 then 2 else 2 ^ n

/-- Write a group of registers in some lanes (R255): one, two or four registers, a short value extended. -/
def writeGroup (k : Core) (sl : Nat) (w : Warp) (m : Word) (d : Option Nat) (n : Nat) (signed : Bool) (f : Nat → Nat) : Core :=
  match d with
  | none => k
  | some r =>
    if n < 4 then writeV k sl w r m fun l => if signed then BitVec.ofInt 32 (sext (8 * n) (f l)) else wd (f l)
    else (List.range (n / 4)).foldl (fun k i => writeV k sl w (r + i) m fun l => wd (f l / 2 ^ (32 * i))) k

/-- A destination field's register, none when it discards. -/
def destReg (d : BitVec 7) : Option Nat := if d.toNat < 0x60 then some d.toNat else none

/-- A value of a lane list. -/
def valueOf (vs : List (Nat × Nat)) (l : Nat) : Nat := match vs.find? fun p => decide (p.1 = l) with | some p => p.2 | none => 0

/-! ### From lanes to requests -/

/-- Continue an access once every paged lane is translated: parked lanes leave the entry, the others go on (R20, R85,
R257 item 5). -/
def withXlate (s : State) (x : Ctx) (e : Nat → Nat) (n : Nat) (write : Bool) (acc : Nat)
    (body : State → Ctx → (Nat → Nat) → State) : State :=
  let r := lanesXlate s x e n write acc
  let walks := (r.2.filter fun p => decide (p.2 = .walk)).map Prod.fst
  let parked := (r.2.filter fun p => decide (p.2 = .park)).map Prod.fst
  if walks ≠ [] then startWalks r.1 x e walks acc
  else
    let gone := maskOf parked.contains
    let pa (l : Nat) : Nat := match r.2.find? fun p => decide (p.1 = l) with | some (_, .ok a) => a | _ => 0
    let x := { x with act := x.act &&& ~~~gone, e := part x.e (x.e.mask &&& ~~~gone), w := parkAll x.w x e parked acc,
                      k := r.1.core x.core }
    body r.1 x pa

/-- A lane's target and its place in it, for an access that leaves the core. -/
def targetOf (s : State) (x : Ctx) (va n pa : Nat) : Option (Target × Nat) :=
  match locate s x va n with
  | .paged => some (.mem pa, pa)
  | .slice c off => some (.slice c off, off)
  | .peer w off => some (.peer (devOfCore s x.core) w (windowOf s (devOfCore s x.core) w) off, off)
  | .own off _ _ => some (.slice x.core off, off)
  | .bad => none

/-- A target's naturally aligned unit of n bytes: 64 for a load's line, the operand size for an atomic (R62). -/
def unitTarget (t : Target) (n : Nat) : Target :=
  match t with
  | .mem a => .mem (a / n * n)
  | .slice c o => .slice c (o / n * n)
  | .peer d w v o => .peer d w v (o / n * n)
  | .node d => .node d

/-- Group lane operations by unit, in the order of their first lanes. -/
def groupOps (ops : List (Target × LaneOp)) : List (Target × List LaneOp) :=
  (ops.map Prod.fst).eraseDups.map fun t => (t, (ops.filter fun o => decide (o.1 = t)).map Prod.snd)

/-- Does the instruction's lane access its core's own slice directly: its own allocation or private scratch, or, by a
window, another allocation of its launch on the core (R58); a speculative write goes to Brine unless it is private
(R126)? -/
def direct (s : State) (x : Ctx) (write : Bool) (va n : Nat) : Option (Nat × Nat) :=
  match locate s x va n with
  | .own off gen priv => if write && speculative x.w && !priv then none else some (off, gen)
  | .paged | .slice .. | .peer .. | .bad => none

/-- Write a slice under a generation, noting the dirty granules of the workgroup whose allocation it is. -/
def ownWrite (s : State) (c off gen : Nat) (bs : List Byte) : State :=
  let s := s.updCore c fun k => sliceWrite k gen off bs
  { s with
    wgs := s.wgs.map fun p =>
      if p.2.core = c ∧ p.2.base ≤ off ∧ off < p.2.base + p.2.size then (p.1, noteWrite p.2 (modeOf s p.2) off bs.length)
      else p }

/-- Is some active lane's serialisation point outside the workgroup's own allocation (Table 7.4)? -/
def outside (s : State) (x : Ctx) (e : Nat → Nat) (n : Nat) : Bool :=
  (lanesOf x.act).any fun l =>
    match locate s x (e l) n with
    | .own off _ priv => !priv && !(decide (x.wg.base ≤ off) && decide (off + n ≤ x.wg.base + x.wg.size))
    | .paged | .slice .. | .peer .. => true
    | .bad => false

/-- Is some active lane's access outside private scratch (Table 6.3)? -/
def outsidePriv (s : State) (x : Ctx) (e : Nat → Nat) (n : Nat) : Bool :=
  (lanesOf x.act).any fun l => match locate s x (e l) n with | .own _ _ true => false | _ => true

/-- Does the lane queue hold anything not yet performed? A release on the own slice, which Brine does not hold, waits
for it (Table 3.4 row 7). -/
def laneBusy (g : Wg) : Bool := !g.laneQ.isEmpty || g.left.any fun r => decide (r.path = .lane)

/-- Do all active lanes access the own slice directly? -/
def allDirect (s : State) (x : Ctx) (write : Bool) (e : Nat → Nat) (n : Nat) : Bool :=
  (lanesOf x.act).all fun l => (direct s x write (e l) n).isSome

/-- Does a write of some lanes to the own slice meet bytes a held entry will still write? -/
def directHeld (s : State) (x : Ctx) (e : Nat → Nat) (n : Nat) : Bool :=
  (lanesOf x.act).any fun l => match direct s x true (e l) n with | some (off, _) => ownHeld x.wg off n | none => false

/-- The implicit counts an access of some lanes takes: one for each lane that accesses paged memory (R105). -/
def pagedLanes (s : State) (x : Ctx) (e : Nat → Nat) (n : Nat) : Nat :=
  ((lanesOf x.act).filter fun l => decide (locate s x (e l) n = .paged)).length

/-- Would n counts more take the counter of the core's current phase to 2^31 (R105)? -/
def countFull (s : State) (c n : Nat) : Bool := decide (n ≠ 0 ∧ 2 ^ 31 ≤ cntOf s c (s.core c).phase + n)

/-- The waits of an access that takes some implicit counts (Table 3.4 rows 1, 4, 6; R105, R128). `queued` says that it enters
Brine unless it is direct; `rel` is a release's scope. -/
def waitsWith (counts : Nat) (s : State) (x : Ctx) (e : Nat → Nat) (n : Nat) (read queued : Bool) (rel : Option Nat) : Option Wait :=
  if acquirePending x || overlaps x e n queued || queued && directHeld s x e n || !queued && farHeld s x e n then some .entry
  else if read && specHeld s x e n then some (.hold .untilLive)
  else if countFull s x.core counts then some .warp
  else
    match rel with
    | none => none
    | some sc =>
      if sc ≤ 2 then (if readsOf x ≠ [] then some .entry else none)
      else if (lanesOf x.act).any (fun l => (direct s x true (e l) n).isSome) && (laneBusy x.wg || decide (readsOf x ≠ [])) then
        some .entry
      else none

/-- The waits of an access of the active lanes. -/
def accessWait (s : State) (x : Ctx) (e : Nat → Nat) (n : Nat) (read queued : Bool) (rel : Option Nat) : Option Wait :=
  waitsWith (pagedLanes s x e n) s x e n read queued rel

/-- Room for what a write-like access adds to Brine: a speculative instance's share of it is part of the whole (R126, R134,
R143). -/
def roomWait (s : State) (x : Ctx) (bytes : Nat) : Option Wait :=
  if bytes = 0 then none
  else if speculative x.w then
    (if subRoom s x.core bytes && decide (onChipBytes s x.core + bytes ≤ Config.brineBytes) then none else some (.hold .untilLive))
  else if brineRoom s x.core x.l.rec_.mode bytes then none else some .warp

/-- Bytes of the active lanes that go to Brine. -/
def brineLoad (s : State) (x : Ctx) (e : Nat → Nat) (n : Nat) : Nat :=
  ((lanesOf x.act).filter fun l => (direct s x true (e l) n).isNone).length * n

/-- The lanes of the entry that issues, those that park at the instruction included (R244). -/
def entryLanes (x : Ctx) : Word := match x.w.frontier[x.ei]? with | some e => e.mask | none => x.e.mask

/-- A returning access of the issuing entry. -/
def mkPend (s : State) (x : Ctx) (dest : Dest) (pred : Option Nat) (want : Word) (got : List (Nat × Nat)) (acquire holds : Bool)
    (bytes : List (Nat × Nat)) : Pending :=
  { id := s.nextId, mask := entryLanes x, act := x.act, pc := x.e.pc, clause := x.e.clause, dest := dest, pred := pred,
    want := want, got := got, preds := [], fail := none, acquire := acquire, bytes := bytes,
    issued := (s.core x.core).cycle, holds := holds }

/-- Finish a returning access: deliver what came at once, or wait for the rest (R258). -/
def finishReturning (s : State) (x : Ctx) (p : Pending) : State :=
  let k := s.core x.core
  if p.want = 0 then
    match p.dest with
    | .group d n signed => goOn s x (writeGroup k x.slot x.w p.act d n signed (valueOf p.got)) x.w
    | .scalar d => goOn s x k (match d with | some r => writeS x.w r (wd (valueOf p.got 0)) | none => x.w)
  else goOn s x k { x.w with pend := x.w.pend ++ [p] }

/-! ### Loads (R260) -/

/-- Does the workgroup's read of n bytes of the core's own slice meet uncorrectable data (R153)? -/
def ownBad (s : State) (x : Ctx) (gen off n : Nat) : Bool := slicePoison x.k gen off n && !allHeld s x.g x.core off n

/-- The issuing warp's launch is replayed for it; the warp has been selected in this cycle (R36). -/
def poisonOut (s : State) (x : Ctx) : State := slicePoisonReplay (s.updCore x.core fun k => countCore k x.slot) x.wg.launch x.core

/-- Does an access of some lanes that reads meet it? -/
def directBad (s : State) (x : Ctx) (write : Bool) (e : Nat → Nat) (n : Nat) : Bool :=
  (lanesOf x.act).any fun l => match direct s x write (e l) n with | some (off, gen) => ownBad s x gen off n | none => false

/-- n bytes of the core's own slice as the workgroup reads them, what its Brine holds laid over them (R80). -/
def ownNat (s : State) (x : Ctx) (gen off n : Nat) : Nat :=
  natOfBytes (overlay s x.g (.slice x.core 0) off (sliceBytes x.k gen off n))

/-- The effect of a load on translated lanes; `acquire` is an acquire's scope. -/
def loadGo (e : Nat → Nat) (n : Nat) (dest : Dest) (acquire : Option Nat) (s : State) (x : Ctx) (pa : Nat → Nat) : State :=
  if directBad s x false e n then poisonOut s x else
  let ls := lanesOf x.act
  let got := ls.filterMap fun l =>
    match direct s x false (e l) n with
    | some (off, gen) => some (l, ownNat s x gen off n)
    | none => none
  let far := ls.filter fun l => (direct s x false (e l) n).isNone
  let ops := far.filterMap fun l =>
    (targetOf s x (e l) n (pa l)).map fun t =>
      (unitTarget t.1 64, ({ lane := l, at_ := t.2, data := 0, swap := 0, va := e l, keep := 0 } : LaneOp))
  let p := mkPend s x dest none (maskOf far.contains) got acquire.isSome false (far.map fun l => (e l, n))
  let s := { s with nextId := s.nextId + 1 }
  let s := (groupOps ops).foldl (fun s g =>
    sendNow s { mkReq s x .lane .load g.1 n g.2 (some p.id) none false [] with marked := decide (acquire = some 6) }) s
  finishReturning s x p

/-- LD and LDA in both address forms. A speculative instance's LDA is performed at once in every mode (Table 6.3; DEDUCED,
log 91). -/
def loadOp (i : Instr) (local_ acquire : Bool) (f : F3) (m : XM) (s : State) : Outcome State Fault Refusal :=
  issue i s fun x =>
    let n := sizeBytes m.size.toNat
    let e := laneAddr s x local_ f.a.toNat m.off.toInt
    let ext := acquire && decide (x.l.rec_.mode = 2) && !speculative x.w && outside s x e n
    { own := (addrTrap s x e n n).or (staleTrap s x e n)
      wait := accessWait s x e n true false none
      next := externally s x ext
        (withXlate s x e n false 1 (loadGo e n (.group (destReg f.d) n (decide (5 ≤ m.size.toNat))) (if acquire then some m.scope.toNat else none))) }

/-- LD [pair] (R260). -/
def execLdPair (f : F3) (x : XM) (s : State) : Outcome State Fault Refusal := loadOp (.ldPair f x) false false f x s
/-- LD [local] (R260). -/
def execLdLocal (f : F3) (x : XM) (s : State) : Outcome State Fault Refusal := loadOp (.ldLocal f x) true false f x s
/-- LDA [pair] (R260). -/
def execLdaPair (f : F3) (x : XM) (s : State) : Outcome State Fault Refusal := loadOp (.ldaPair f x) false true f x s
/-- LDA [local] (R260). -/
def execLdaLocal (f : F3) (x : XM) (s : State) : Outcome State Fault Refusal := loadOp (.ldaLocal f x) true true f x s

/-- Send SLD's request and wait for its value. -/
def sldSend (s : State) (x : Ctx) (d : Dest) (va : Nat) (t : Target × Nat) : State :=
  let p := mkPend s x d none 1 [] false false [(va, 4)]
  let s := { s with nextId := s.nextId + 1 }
  let o : LaneOp := { lane := 0, at_ := t.2, data := 0, swap := 0, va := va, keep := 0 }
  finishReturning (sendNow s (mkReq s x .lane .load (unitTarget t.1 64) 4 [o] (some p.id) none false [])) x p

/-- SLD: one load for the warp (R233). A translation fault parks every live lane in one record. -/
def execSld (f : FS) (s : State) : Outcome State Fault Refusal :=
  issue (.sld f) s fun x =>
    let a := readS x.w (f.a.toNat + 1) ++ readS x.w f.a.toNat
    let va := (a + BitVec.ofInt 64 (4 * f.imm.toInt)).toNat
    let e (_ : Nat) : Nat := va
    let d : Dest := .scalar (if f.d.toNat < 24 then some f.d.toNat else none)
    { own := (addrTrap s x e 4 4).or (staleTrap s x e 4)
      wait := waitsWith (if locate s x va 4 = .paged then 1 else 0) s x e 4 true false none
      next :=
        match locate s x va 4 with
        | .paged =>
          match laneXlate s x va false 1 with
          | (s, .walk) => startWalks s x e (lanesOf x.e.mask) 1
          | (s, .park) => done s x (s.core x.core) (parkAll x.w x e (lanesOf x.e.mask) 1) []
          | (s, .ok pa) => sldSend s x d va (.mem pa, pa)
        | .own off gen _ =>
          if ownBad s x gen off 4 then poisonOut s x
          else finishReturning s x (mkPend s x d none 0 [(0, ownNat s x gen off 4)] false false [])
        | .slice c off => sldSend s x d va (.slice c off, off)
        | .peer w off => sldSend s x d va (.peer (devOfCore s x.core) w (windowOf s (devOfCore s x.core) w) off, off)
        | .bad => s }

/-! ### Stores (R260) -/

/-- The effect of a store on translated lanes, in ascending lane order (R82). -/
def storeGo (e data : Nat → Nat) (n : Nat) (rel : Option Nat) (s : State) (x : Ctx) (pa : Nat → Nat) : State :=
  let waits := match rel with | some sc => if 2 < sc then readsOf x else [] | none => []
  let s := (lanesOf x.act).foldl (fun s l =>
    match direct s x true (e l) n with
    | some (off, gen) => ownWrite s x.core off gen (bytesOfNat n (data l))
    | none =>
      match targetOf s x (e l) n (pa l) with
      | none => s
      | some t =>
        let o : LaneOp := { lane := l, at_ := t.2, data := data l % 2 ^ (8 * n), swap := 0, va := e l, keep := 2 ^ (8 * n) - 1 }
        let strong := match rel with | some sc => decide (2 < sc) | none => false
        accept s { mkReq s x .lane .store t.1 n [o] none none strong waits with marked := decide (rel = some 6) } (speculative x.w)) s
  goOn s x (s.core x.core) x.w

/-- ST, STL and PUBLISH: n bytes of a group, released at a scope or not. -/
def storeOp (i : Instr) (local_ : Bool) (a b n : Nat) (off : Int) (rel : Option Nat) (s : State) :
    Outcome State Fault Refusal :=
  issue i s fun x =>
    let e := laneAddr s x local_ a off
    { surface := rel.isSome
      own := addrTrap s x e n n
      wait := (accessWait s x e n false true rel).or (roomWait s x (brineLoad s x e n))
      next := withXlate s x e n true 2 (storeGo e (groupLane s x b n) n rel) }

/-- ST [pair] (R260). -/
def execStPair (f : F3) (x : XM) (s : State) : Outcome State Fault Refusal :=
  storeOp (.stPair f x) false f.a.toNat f.b.toNat (sizeBytes x.size.toNat) x.off.toInt none s
/-- ST [local] (R260). -/
def execStLocal (f : F3) (x : XM) (s : State) : Outcome State Fault Refusal :=
  storeOp (.stLocal f x) true f.a.toNat f.b.toNat (sizeBytes x.size.toNat) x.off.toInt none s
/-- STL [pair] (R260). -/
def execStlPair (f : F3) (x : XM) (s : State) : Outcome State Fault Refusal :=
  storeOp (.stlPair f x) false f.a.toNat f.b.toNat (sizeBytes x.size.toNat) x.off.toInt (some x.scope.toNat) s
/-- STL [local] (R260). -/
def execStlLocal (f : F3) (x : XM) (s : State) : Outcome State Fault Refusal :=
  storeOp (.stlLocal f x) true f.a.toNat f.b.toNat (sizeBytes x.size.toNat) x.off.toInt (some x.scope.toNat) s
/-- PUBLISH: an 8-byte release store at sys scope (R95, R260). -/
def execPublish (f : F3) (x : XM) (s : State) : Outcome State Fault Refusal :=
  storeOp (.publish f x) false f.a.toNat f.b.toNat 8 x.off.toInt (some 6) s

/-! ### Atomics (R262, R263) -/

/-- The new value of an atomic operation on a unit of n bytes (Table 12.5). -/
def atomNew (op rnd n old y : Nat) : Nat :=
  let m := 2 ^ (8 * n)
  let si (v : Nat) : Int := sext (8 * n) v
  match op with
  | 0 => (old + y) % m
  | 1 => old &&& y
  | 2 => old ||| y
  | 3 => old ^^^ y
  | 4 => min old y
  | 5 => max old y
  | 6 => if si y < si old then y else old
  | 7 => if si old < si y then y else old
  | 8 => y
  | 9 => if y ≤ old then 0 else old + 1
  | 10 => if old = 0 ∨ y < old then y else old - 1
  | 11 =>
    let mode := RMode.ofCode rnd
    (roundExact .f32 mode false (exactSum mode [Fmt.f32.decode old, Fmt.f32.decode y]).1).1
  | 12 => (minMaxCode .f32 false old y).1
  | _ => (minMaxCode .f32 true old y).1

/-- One lane's operation on a unit: an ATOM, ATOMN or CAS. -/
def unitNew (kind : ReqKind) (n old : Nat) (o : LaneOp) : Nat :=
  match kind with
  | .atom op rnd _ => atomNew op rnd n old o.data
  | .cas => if old = o.data then o.swap else old
  | _ => old

/-- The lanes of one request applied to a unit in order: the values they read and the last value (R62, R263). -/
def unitRun (kind : ReqKind) (n : Nat) : List LaneOp → Nat → List (Nat × Nat) × Nat
  | [], old => ([], old)
  | o :: os, old =>
    let r := unitRun kind n os (unitNew kind n old o)
    ((o.lane, old) :: r.1, r.2)

/-- The effect of an atomic on translated lanes. A CAS that fails writes the old value back, as its one event reads and writes
(R79); the granule then adopts its generation (R110; DEDUCED, log 75). `ret` gives the destination of a returning one,
`sys` that it is ordered at sys scope. -/
def atomGo (e data swap : Nat → Nat) (n : Nat) (kind : ReqKind) (ret : Option (Option Nat)) (acquire strong sys ext : Bool)
    (s : State) (x : Ctx) (pa : Nat → Nat) : State :=
  if directBad s x true e n then poisonOut s x else
  let ops := (lanesOf x.act).filterMap fun l =>
    (targetOf s x (e l) n (pa l)).map fun t =>
      (unitTarget t.1 n, ({ lane := l, at_ := t.2, data := data l % 2 ^ (8 * n), swap := swap l % 2 ^ (8 * n), va := e l,
                            keep := 0 } : LaneOp))
  let groups := groupOps ops
  let here (g : Target × List LaneOp) : Option (Nat × Nat) := (g.2.head?).bind fun o => direct s x true o.va n
  let waits := if strong then readsOf x else []
  let away := groups.filter fun g => (here g).isNone
  let near := groups.filter fun g => (here g).isSome
  let r := near.foldl (fun (r : State × List (Nat × Nat)) g =>
    match here g with
    | some (off, gen) =>
      let u := unitRun kind n g.2 (sliceNat (r.1.core x.core) gen off n)
      (ownWrite r.1 x.core off gen (bytesOfNat n u.2), r.2 ++ u.1)
    | none => r) (s, [])
  let s := r.1
  let farLanes := away.flatMap fun g => g.2.map LaneOp.lane
  let p := mkPend s x (.group (ret.getD none) n false) none (maskOf farLanes.contains) r.2 acquire false
    (farLanes.map fun l => (e l, n))
  let pid := if ret.isSome then some p.id else none
  let s := { s with nextId := s.nextId + 1 }
  let s := away.foldl (fun s g =>
    accept s (asExternal x ext { mkReq s x .lane kind g.1 n g.2 pid none strong waits with marked := sys }) (speculative x.w)) s
  if ret.isSome then finishReturning s x p else goOn s x (s.core x.core) x.w

/-- ATOM, ATOMN and CAS. `ord` is ORD; `ret` is none for ATOMN. Outside the workgroup's allocation a returning one is external,
but in guarded mode one with acquire is ordinary (Table 7.4; log 91). -/
def atomOp (i : Instr) (local_ : Bool) (f : F3) (m : XM) (kind : ReqKind) (ord : Nat) (ret : Option (Option Nat))
    (s : State) : Outcome State Fault Refusal :=
  issue i s fun x =>
    let n := sizeBytes m.size.toNat
    let e := laneAddr s x local_ f.a.toNat (sext 9 m.off.toNat)
    let release := decide (2 ≤ ord)
    let acquire := decide (ord % 2 = 1)
    let rel := if release then some m.scope.toNat else none
    let ext := ret.isSome && (!acquire || decide (x.l.rec_.mode = 2)) && outside s x e n
    { surface := release
      own := (addrTrap s x e n n).or (staleTrap s x e n)
      live := ret.isSome && outsidePriv s x e n
      wait := (accessWait s x e n ret.isSome true rel).or (roomWait s x (brineLoad s x e n))
      next := externally s x ext
        (withXlate s x e n true 4
          (atomGo e (groupLane s x f.b.toNat n) (groupLane s x m.c.toNat n) n kind ret acquire
            (release && decide (2 < m.scope.toNat)) (decide (ord ≠ 0 ∧ m.scope = 6)) ext)) }

/-- OP of off15 (Table 12.4). -/
def atomCode (m : XM) : Nat := m.off.toNat / 2048
/-- ORD of off15. -/
def atomOrd (m : XM) : Nat := m.off.toNat / 512 % 4

/-- ATOM [pair] (R263). -/
def execAtomPair (f : F3) (x : XM) (s : State) : Outcome State Fault Refusal :=
  atomOp (.atomPair f x) false f x (.atom (atomCode x) x.round.toNat true) (atomOrd x) (some (destReg f.d)) s
/-- ATOM [local] (R263). -/
def execAtomLocal (f : F3) (x : XM) (s : State) : Outcome State Fault Refusal :=
  atomOp (.atomLocal f x) true f x (.atom (atomCode x) x.round.toNat true) (atomOrd x) (some (destReg f.d)) s
/-- ATOMN [pair] (R263). -/
def execAtomnPair (f : F3) (x : XM) (s : State) : Outcome State Fault Refusal :=
  atomOp (.atomnPair f x) false f x (.atom (atomCode x) x.round.toNat false) 0 none s
/-- ATOMN [local] (R263). -/
def execAtomnLocal (f : F3) (x : XM) (s : State) : Outcome State Fault Refusal :=
  atomOp (.atomnLocal f x) true f x (.atom (atomCode x) x.round.toNat false) 0 none s
/-- CAS [pair] (R263). -/
def execCasPair (f : F3) (x : XM) (s : State) : Outcome State Fault Refusal :=
  atomOp (.casPair f x) false f x .cas (atomOrd x) (some (destReg f.d)) s
/-- CAS [local] (R263). -/
def execCasLocal (f : F3) (x : XM) (s : State) : Outcome State Fault Refusal :=
  atomOp (.casLocal f x) true f x .cas (atomOrd x) (some (destReg f.d)) s

/-- PREF: a hint with no event and no visible effect (R261). -/
def execPref (f : F3) (x : XM) (s : State) : Outcome State Fault Refusal :=
  issue (.pref f x) s fun c => { next := goOn s c c.k c.w }

end Sys2Proof.Machine
end

