-- ==== Sys2Proof/Machine/Sync.lean ====
section
/-! DEFINITION. Fences (R265), reader sections, RETIRE and GRACE (R93 to R103, R266, R267), append regions (R268, R269),
workgroup barriers (R270, R271) and work queues (R272 to R274). -/

namespace Sys2Proof.Machine

open Host (Outcome)

/-! ### Fences (R84, R87, R265) -/

/-- The number below which the issuing fence waits for everything: fixed when it is first tried. -/
def markOf (s : State) (x : Ctx) : Nat := x.e.mark.getD s.nextId

/-- Keep the fence waiting, with its mark. -/
def keepWaiting (s : State) (x : Ctx) : State :=
  hold s { x with w := { x.w with frontier := x.w.frontier.zipIdx.map fun p =>
    if p.2 = x.ei then { p.1 with mark := some (markOf s x) } else p.1 } } .entry

/-- Go on once a fence's condition holds. -/
def fenceGo (s : State) (x : Ctx) (ready : Bool) : State :=
  if x.act = 0 ∨ ready then goOn s x x.k x.w else keepWaiting s x

/-- Everything on the lane path before a mark has returned, performed and been acknowledged (Table 3.6). -/
def lanePathDone (s : State) (x : Ctx) : Bool := decide (readsOf x = []) && !laneBefore x.wg (markOf s x)

/-- Programs of the warp's cluster forked by the warp before a mark that have not written their objects. -/
def forksOf (s : State) (x : Ctx) : List Fork :=
  let q := s.seq (clusterOf s x.core)
  ((match q.cur with | some f => [f] | none => []) ++ q.fifo).filter fun f =>
    decide (f.core = x.core ∧ f.slot = x.slot ∧ f.wg = x.g ∧ f.upto < markOf s x)

/-- SENDs of the active lanes, on one channel or on all, before a mark, that are not delivered and acknowledged. -/
def sendsOf (s : State) (x : Ctx) (chan : Option Nat) : List Req :=
  (x.wg.chanQ ++ x.wg.left).filter fun r =>
    decide (r.slot = x.slot ∧ r.id < markOf s x) && r.lanes.any (fun o => hasLane x.act o.lane) &&
      (match r.kind, chan with
        | .message n, some c => decide (n = c)
        | .message _, none => true
        | _, _ => false)

/-- What a path's earlier accesses must have done (Table 3.6): 0 lane, 1 copy, 2 matrix, 3 channel. -/
def pathDone (s : State) (x : Ctx) : Nat → Bool
  | 0 => lanePathDone s x
  | 1 => !(x.k.copies.any fun q => decide (q.slot = x.slot ∧ q.id < markOf s x))
  | 2 => (forksOf s x).isEmpty
  | _ => (sendsOf s x none).isEmpty

/-- FENCE: at scope wg and narrower it waits for no part of Brine (R84). -/
def fenceDone (s : State) (x : Ctx) (scope : Nat) : Bool :=
  if scope ≤ 2 then decide (readsOf x = []) else lanePathDone s x

/-- FENCE (R265). -/
def execFence (f : F3) (m : XM) (s : State) : Outcome State Fault Refusal :=
  issue (.fence f m) s fun x =>
    { surface := true, live := decide (x.act ≠ 0 ∧ 3 ≤ m.scope.toNat), next := fenceGo s x (fenceDone s x m.scope.toNat) }

/-- The warp has waited for the completed copy commands a test accepts: what it accepts later leaves Brine only after
their writes (R298). -/
def noteWaited (w : Warp) (p : Nat → Bool) : Warp :=
  { w with
    copied := w.copied.filter fun q => !p q.1
    waited := (w.waited ++ (w.copied.filter fun q => p q.1).map Prod.snd).eraseDups }

/-- FENCEX: lane, lane is FENCE; every other pair waits as Table 3.6 states, at every scope (R87, R265). -/
def execFencex (f : F3) (m : XM) (s : State) : Outcome State Fault Refusal :=
  let px := m.off.toNat % 8
  let py := m.off.toNat / 8 % 8
  issue (.fencex f m) s fun x =>
    { surface := decide (px = 0 ∨ px = 3), live := decide (x.act ≠ 0 ∧ 3 ≤ m.scope.toNat)
      next := fenceGo s (if px = 1 ∧ pathDone s x 1 then { x with w := noteWaited x.w fun _ => true } else x)
        (if px = 0 ∧ py = 0 then fenceDone s x m.scope.toNat else pathDone s x px) }

/-! ### Reader sections (R93, R266) -/

/-- One lane enters a section: an outermost one takes the core's phase and is counted. -/
def enterLane (k : Core) (w : Warp) (l : Nat) : Core × Warp :=
  let d := depthOf w l
  if d = 0 then
    let bit : Word := 1 <<< l
    (addCnt k (k.phase % 2) 1,
      { w with depth := setAt w.depth l 1, phase := if k.phase % 2 = 1 then w.phase ||| bit else w.phase &&& ~~~bit })
  else (k, { w with depth := setAt w.depth l (d + 1) })

/-- One lane leaves a section: from the outermost one it is uncounted. -/
def exitLane (k : Core) (w : Warp) (l : Nat) : Core × Warp :=
  let d := depthOf w l
  (if d = 1 then addCnt k (phaseOf w l) (-1) else k, { w with depth := setAt w.depth l (d - 1) })

/-- Apply a lane step to the active lanes. -/
def eachLane (x : Ctx) (f : Core → Warp → Nat → Core × Warp) : Core × Warp :=
  (lanesOf x.act).foldl (fun p l => f p.1 p.2 l) (x.k, x.w)

/-- RDENTER (R93). -/
def execRdenter (f : F3) (s : State) : Outcome State Fault Refusal :=
  issue (.rdenter f) s fun x =>
    let r := eachLane x enterLane
    { own := if (lanesOf x.act).any fun l => decide (15 ≤ depthOf x.w l) then some (trapOf cSECTION) else none
      next := goOn s x r.1 r.2 }

/-- RDEXIT: its uncounting follows every lane-path read of the section (R92, R93). -/
def execRdexit (f : F3) (s : State) : Outcome State Fault Refusal :=
  issue (.rdexit f) s fun x =>
    let r := eachLane x exitLane
    { own := if (lanesOf x.act).any fun l => decide (depthOf x.w l = 0) then some (trapOf cSECTION) else none
      wait := if readsOf x = [] then none else some Wait.entry
      next := goOn s x r.1 r.2 }

/-! ### RETIRE and GRACE (R100, R101, R103, R267) -/

/-- Is a request a retire entry of a device? -/
def isRetire (k : Nat) (r : Req) : Bool :=
  match r.kind, r.target with
  | .retire _, .node d => decide (d = k)
  | _, _ => false

/-- Retire entries reserved at issue and not yet appended (R101, R401). -/
def retireReserved (s : State) (k : Nat) : Nat :=
  (s.net.filter (isRetire k)).length + s.wgs.foldl (fun n p => n + ((p.2.laneQ ++ p.2.sub).filter (isRetire k)).length) 0

/-- The room of a device's retire queue; none while no queue is configured (R101, R401). -/
def retireRoom (s : State) (k : Nat) : Nat :=
  let d := s.dev k
  if d.rqlog2n = 0 ∨ d.rqbase = 0 then 0 else 2 ^ d.rqlog2n - d.retire.length - retireReserved s k

/-- Does some live lane of the warp stand in a section? -/
def anyInSection (w : Warp) : Bool := (lanesOf w.live).any fun l => decide (depthOf w l ≠ 0)

/-- RETIRE's own checks, in the order of Table 4.3. -/
def retireTrap (s : State) (x : Ctx) (act : Nat) (arg : Nat → Nat) : Option TrapInfo :=
  if x.act = 0 then none
  else
    ((if act = 1 then firstBad x.act cMISALIGNED arg fun v => decide (v % 8 ≠ 0) else none).or
      (if act = 0 ∧ (lanesOf x.act).any (fun l => decide (4096 ≤ arg l)) then some (trapOf cQUEUE) else none)).or
      (if retireRoom s (devOfCore s x.core) < laneCount x.act ∧ anyInSection x.w then some (trapOf cQUEUE) else none)

/-- The waits of an operation on the lane queue that names no bytes: earlier acquires, room in Brine, and for a
narrow release the reads before it. -/
def queueWait (s : State) (x : Ctx) (bytes : Nat) (rel : Option Nat) : Option Wait :=
  if acquirePending x then some .entry
  else
    (match rel with
      | some sc => if sc ≤ 2 ∧ readsOf x ≠ [] then some Wait.entry else none
      | none => none).or (roomWait s x bytes)

/-- RETIRE's entries enter the lane queue, one per active lane (R100). -/
def retireGo (s : State) (x : Ctx) (f : F3) (m : XM) (act : Nat) : State :=
  let p := mkPend s x (.group (destReg f.d) 4 false) none x.act [] false false []
  let k := devOfCore s x.core
  let waits := readsOf x
  let s := { s with nextId := s.nextId + 1 }
  let s := (lanesOf x.act).foldl (fun s l =>
    let o : LaneOp := { lane := l, at_ := 0, data := (pairLane s x f.b.toNat l).toNat, swap := (srcLane s x m.c.toNat l).toNat,
                        va := (pairLane s x f.a.toNat l).toNat, keep := 0 }
    accept s (asExternal x true (mkReq s x .lane (.retire act) (.node k) 32 [o] (some p.id) none true waits)) false) s
  if x.act = 0 then goOn s x (s.core x.core) x.w else finishReturning s x p

/-- RETIRE (R100, R101, R267). -/
def execRetire (f : F3) (m : XM) (s : State) : Outcome State Fault Refusal :=
  issue (.retire f m) s fun x =>
    let act := m.off.toNat % 4
    let short := decide (retireRoom s (devOfCore s x.core) < laneCount x.act)
    { surface := true
      own := retireTrap s x act fun l => (pairLane s x f.b.toNat l).toNat
      live := true
      wait := if x.act = 0 then none else if short then some .warp else queueWait s x (32 * laneCount x.act) (some 6)
      next := externally s x (decide (x.act ≠ 0)) (retireGo s x f m act) }

/-- Has a grace period completed, by serial comparison (R96)? -/
def serialGe (a b : Nat) : Bool := decide ((a + 2 ^ 32 - b % 2 ^ 32) % 2 ^ 32 < 2 ^ 31)

/-- Is it the GRACE that the warp waits in already, at its PC or, as the first word of its clause, at the header? -/
def graceWaits (x : Ctx) : Bool :=
  match x.w.hold with
  | .grace pc _ => decide (pc = x.e.pc ∨ (pc = hdrOf x.e ∧ pc + 4 = x.e.pc))
  | _ => false

/-- GRACE waits as FENCE.sys, then takes its target, and completes when that grace period has. The whole warp waits from the
start: no other entry issues (R103). -/
def graceGo (s : State) (x : Ctx) : State :=
  let stay (target mark : Option Nat) : State :=
    s.setWarp x.core x.slot { x.w with
      hold := .grace x.e.pc true
      grace := target
      frontier := x.w.frontier.zipIdx.map fun p => if p.2 = x.ei then { p.1 with mark := mark } else p.1 }
  match if graceWaits x then x.w.grace else none with
  | some t => if serialGe x.k.c t then goOn s x x.k { x.w with grace := none, hold := .none } else stay (some t) none
  | none =>
    if lanePathDone s x then stay (some ((x.k.f + 2) % 2 ^ 32)) none else stay none (some (markOf s x))

/-- GRACE (R103). -/
def execGrace (f : F3) (s : State) : Outcome State Fault Refusal :=
  issue (.grace f) s fun x =>
    { surface := true
      own := if x.act ≠ 0 ∧ anyInSection x.w then some (trapOf cSECTION) else none
      live := decide (x.act ≠ 0)
      next := if x.act = 0 then goOn s x x.k x.w else graceGo s x }

/-! ### Append regions (R67, R129, R268, R269, R357, R358) -/

/-- The checks of a descriptor address: 64-byte aligned, in paged memory. -/
def descTrap (x : Ctx) (e : Nat → Nat) : Option TrapInfo :=
  (firstBad x.act cMISALIGNED e fun v => decide (v % 64 ≠ 0)).or
    (firstBad x.act cBOUNDS e fun v => decide (regionOf v ≠ .paged))

/-- The instances of the issuing warp's round that are below it and have not ended. -/
def lowerInstances (x : Ctx) : List Warp :=
  (x.k.warps.map Prod.snd).filter fun w =>
    decide (w.wg = x.g ∧ w.round.st = .running ∧ w.round.owner = x.w.round.owner ∧ w.round.inst < x.w.round.inst)

/-- The physical addresses the core's TLB gives the active lanes. -/
def knownPas (x : Ctx) (e : Nat → Nat) : List Nat :=
  ((lanesOf x.act).filterMap fun l => (tlbFind x.k.tlb x.l.rec_.space (e l)).map fun t => tlbPa t (e l)).eraseDups

/-- The descriptors a workgroup's append queue names in this checkpoint interval, which began at the last τ (R358). -/
def intervalDescs (g : Wg) : List Nat :=
  let late := decide (g.ck.phase = .taken)
  ((if late then g.ck.nextOffsets else g.ck.firstOffsets).map Prod.fst ++
    (g.appQ ++ g.left).filterMap fun r =>
      match r.kind, r.target with
      | .append, .mem pa => if r.path = .append ∧ (!late ∨ g.ck.tauId ≤ r.id) then some pa else none
      | _, _ => none).eraseDups

/-- Does the APPEND travel through the append queue (R357)? -/
def throughAppQ (x : Ctx) : Bool := decide (x.l.rec_.mode = 1 ∧ x.w.round.st = .running)

/-- The waits of an APPEND in a round (R129, R358). -/
def appendWait (x : Ctx) (e : Nat → Nat) : Option Wait :=
  if x.w.round.st ≠ .running then none
  else
    let pas := knownPas x e
    if pas.any fun pa => (lowerInstances x).any fun w => !w.round.cmpDone && !w.round.atCmp && !w.round.passed.contains pa then some .entry
    else if speculative x.w && decide (4 < (x.w.round.appended ++ pas).eraseDups.length) then some (.hold .untilLive)
    else none

/-- A fifth descriptor of the interval triggers a checkpoint (R358). -/
def fifthDesc (x : Ctx) (e : Nat → Nat) : Bool :=
  let known := intervalDescs x.wg
  throughAppQ x && decide (4 < (known ++ knownPas x e).eraseDups.length)

/-- Ask for a checkpoint of a workgroup (R140). -/
def askCheckpoint (s : State) (g : Nat) : State := s.updWg g fun x => { x with ck := { x.ck with again := true } }

/-- The effect of an APPEND on translated lanes: lanes naming one descriptor form one request. -/
def appendGo (e data : Nat → Nat) (n : Nat) (d : Option Nat) (s : State) (x : Ctx) (pa : Nat → Nat) : State :=
  let ops := (lanesOf x.act).map fun l =>
    ((.mem (pa l) : Target), ({ lane := l, at_ := pa l, data := data l % 2 ^ (8 * n), swap := 0, va := e l, keep := 0 } : LaneOp))
  let p := mkPend s x (.group d 8 false) none x.act [] false false
    ((lanesOf x.act).flatMap fun l => [(e l, 16), (e l + 24, 9)])
  let path : BrineQ := if throughAppQ x then .append else .lane
  let ext := decide (x.w.round.st ≠ .running ∨ x.l.rec_.mode = 2)
  let s := { s with nextId := s.nextId + 1 }
  let s := (groupOps ops).foldl (fun s g => accept s (asExternal x ext (mkReq s x path .append g.1 n g.2 (some p.id) none false [])) false) s
  let pas := ((lanesOf x.act).map pa).eraseDups
  let r := x.w.round
  let w := if r.st = .running then { x.w with round := { r with appended := (r.appended ++ pas).eraseDups } } else x.w
  if x.act = 0 then goOn s x (s.core x.core) w else finishReturning s { x with w := w } p

/-- APPEND (R268). -/
def execAppend (f : F3) (m : XM) (s : State) : Outcome State Fault Refusal :=
  issue (.append f m) s fun x =>
    let n := sizeBytes m.size.toNat
    let e := laneAddr s x false f.a.toNat m.off.toInt
    let bytes := n * laneCount x.act
    { own := descTrap x e
      live := decide (x.l.rec_.mode = 2 ∧ x.act ≠ 0)
      wait := ((if acquirePending x || overlaps x e 64 true then some .entry else none).or (appendWait x e)).or
        (if brineRoom s x.core x.l.rec_.mode bytes && !countFull s x.core (laneCount x.act) then none else some .warp)
      next :=
        if fifthDesc x e then hold (askCheckpoint s x.g) x .warp
        else
          externally s x (decide (x.act ≠ 0 ∧ (x.w.round.st ≠ .running ∨ x.l.rec_.mode = 2)))
            (withXlate s x e 64 true 4 (appendGo e (groupLane s x f.b.toNat n) n (destReg f.d))) }

/-- The effect of an ACOMMIT on translated lanes. -/
def acommitGo (e v : Nat → Nat) (scope : Nat) (s : State) (x : Ctx) (pa : Nat → Nat) : State :=
  let ops := (lanesOf x.act).map fun l =>
    ((.mem (pa l) : Target), ({ lane := l, at_ := pa l, data := v l, swap := 0, va := e l, keep := 0 } : LaneOp))
  let waits := if 2 < scope then readsOf x else []
  let s := (groupOps ops).foldl (fun s g =>
    accept s (mkReq s x .lane .acommit g.1 8 g.2 none none (decide (2 < scope)) waits) (speculative x.w)) s
  let pas := ((lanesOf x.act).map pa).eraseDups
  let r := x.w.round
  let w := if r.st = .running then { x.w with round := { r with passed := (r.passed ++ pas).eraseDups } } else x.w
  goOn s x (s.core x.core) w

/-- ACOMMIT (R269). -/
def execAcommit (f : F3) (m : XM) (s : State) : Outcome State Fault Refusal :=
  issue (.acommit f m) s fun x =>
    let e := laneAddr s x false f.a.toNat m.off.toInt
    { surface := true
      own := descTrap x e
      wait := (accessWait s x e 64 false true (some m.scope.toNat)).or (roomWait s x (8 * laneCount x.act))
      next := withXlate s x e 64 true 4 (acommitGo e (fun l => (pairLane s x f.b.toNat l).toNat) m.scope.toNat) }

/-- The effect of an AHEAD on translated lanes. -/
def aheadGo (e : Nat → Nat) (d : Option Nat) (ext : Bool) (s : State) (x : Ctx) (pa : Nat → Nat) : State :=
  let ops := (lanesOf x.act).map fun l =>
    ((.mem (pa l) : Target), ({ lane := l, at_ := pa l, data := 0, swap := 0, va := e l, keep := 0 } : LaneOp))
  let p := mkPend s x (.group d 8 false) none x.act [] true false ((lanesOf x.act).map fun l => (e l + 16, 8))
  let s := { s with nextId := s.nextId + 1 }
  let s := (groupOps ops).foldl (fun s g => sendNow s (asExternal x ext (mkReq s x .lane .ahead g.1 8 g.2 (some p.id) none false []))) s
  if x.act = 0 then goOn s x (s.core x.core) x.w else finishReturning s x p

/-- AHEAD: a read of CHEAD (R80, R269); in a speculative instance it is performed at once in every mode (DEDUCED, log 91). -/
def execAhead (f : F3) (m : XM) (s : State) : Outcome State Fault Refusal :=
  issue (.ahead f m) s fun x =>
    let e := laneAddr s x false f.a.toNat m.off.toInt
    let ext := decide (x.l.rec_.mode = 2 ∧ x.act ≠ 0) && !speculative x.w
    { own := descTrap x e
      wait := accessWait s x (fun l => e l + 16) 8 true false none
      next := externally s x ext (withXlate s x e 64 false 1 (aheadGo e (destReg f.d) ext)) }

/-! ### Barriers (R270, R271) -/

/-- A barrier of a workgroup. -/
def barOf (g : Wg) (n : Nat) : Bar := (fget g.bars n).getD Bar.fresh

/-- Is a phase later than a token: (P − token) mod 2^32, read as signed, exceeds 0 (R270)? -/
def phaseAfter (p t : Nat) : Bool := decide (0 < (BitVec.ofNat 32 p - BitVec.ofNat 32 t).toInt)

/-- Does a barrier's arrival count complete its phase? -/
def barFull (g : Wg) (b : Bar) : Bool :=
  match b.expect with
  | none => false
  | some (some n) => decide (n ≤ b.arrived)
  | some none => decide (g.nwarps - g.ended ≤ b.arrived)

/-- Do all live warps of a workgroup stand at CKPT or at a barrier (Table 7.3)? A speculative instance is squashed first
(R133). -/
def collective (s : State) (g c : Nat) : Bool :=
  (s.core c).warps.all fun q =>
    decide (q.2.wg ≠ g) || speculative q.2 || (match q.2.hold with | .ckpt | .barrier .. => true | _ => false)

/-- Complete a full phase, and let the warps waiting for it go on; in twin mode they stay as at CKPT when that makes the
collective point at which a checkpoint is due (Table 7.3). -/
def barSettle (s : State) (g n : Nat) : State :=
  match fget s.wgs g with
  | none => s
  | some x =>
    let b := barOf x n
    if barFull x b then
      let p := (b.phase + 1) % 2 ^ 32
      let free : Hold := if modeOf s x = 2 ∧ x.ck.again ∧ collective s g x.core then .ckpt else .none
      let s := s.updWg g fun x => { x with bars := fput x.bars n { phase := p, arrived := 0, expect := none } }
      s.updCore x.core fun k =>
        { k with warps := k.warps.map fun q =>
            match q.2.hold with
            | .barrier m t => if q.2.wg = g ∧ m = n ∧ phaseAfter p t then (q.1, { q.2 with hold := free }) else q
            | _ => q }
    else s

/-- An arrival: the first of a phase fixes the expected count. -/
def barArrive (s : State) (g n : Nat) (count : Option Nat) : State :=
  barSettle (s.updWg g fun x =>
    let b := barOf x n
    { x with bars := fput x.bars n { b with arrived := b.arrived + 1, expect := b.expect.or (some count) } }) g n

/-- A value of the lowest active lane. -/
def lowValue (s : State) (x : Ctx) (a : Nat) : Nat :=
  match lowLane x.act with | some l => (srcLane s x a l).toNat | none => 0

/-- The expected count a barrier instruction names. -/
def barCount (s : State) (x : Ctx) (a : Nat) : Option Nat := if a = 0x78 then none else some (lowValue s x a)

/-- The checks of a barrier instruction: a round, then the count's range (R130, R270). -/
def barTrap (x : Ctx) (count : Option Nat) : Option TrapInfo :=
  if x.act = 0 then none
  else if x.w.round.st ≠ .idle then some (trapOf cSPEC)
  else
    match count with
    | some n => if 1 ≤ n ∧ n ≤ 16 then none else some (trapOf cBOUNDS)
    | none => none

/-- Is every live lane of the warp at the instruction? -/
def gathered (x : Ctx) : Bool := decide (x.e.mask = x.w.live)

/-- An entry that takes part waits at the PC until the warp has gathered there (R271). -/
def barStop (s : State) (x : Ctx) : State := done s x x.k x.w [{ issued x.e with wait := .barrier }]

/-- An arrival waits for the earlier reads of its lanes, as a release at scope wg (R271). -/
def barWait (x : Ctx) : Option Wait :=
  if x.act ≠ 0 ∧ gathered x ∧ readsOf { x with act := x.e.mask } ≠ [] then some .entry else none

/-- BARA: arrive and take the phase as a token (R270). -/
def execBara (f : F2I) (s : State) : Outcome State Fault Refusal :=
  issue (.bara f) s fun x =>
    let n := f.imm.toNat
    let c := barCount s x f.a.toNat
    { own := barTrap x c
      wait := barWait x
      next :=
        if x.act = 0 then goOn s x x.k x.w
        else if !gathered x then barStop s x
        else barArrive (goOn s x (putLanes x x.k f.d.toNat fun _ => BitVec.ofNat 32 (barOf x.wg n).phase) x.w) x.g n c }

/-- BARW: wait until the phase is past the token (R270). -/
def execBarw (f : F2I) (s : State) : Outcome State Fault Refusal :=
  issue (.barw f) s fun x =>
    let n := f.imm.toNat
    let t := lowValue s x f.a.toNat
    { own := barTrap x none
      next :=
        if x.act = 0 then goOn s x x.k x.w
        else if !gathered x then barStop s x
        else goOn s x x.k (if phaseAfter (barOf x.wg n).phase t then x.w else { x.w with hold := .barrier n t }) }

/-- BAR: arrive and wait for the phase of the arrival (R270). -/
def execBar (f : F2I) (s : State) : Outcome State Fault Refusal :=
  issue (.bar f) s fun x =>
    let n := f.imm.toNat
    let c := barCount s x f.a.toNat
    { own := barTrap x c
      wait := barWait x
      next :=
        if x.act = 0 then goOn s x x.k x.w
        else if !gathered x then barStop s x
        else barArrive (goOn s x x.k { x.w with hold := .barrier n (barOf x.wg n).phase }) x.g n c }

/-! ### Work queues (R272 to R274) -/

/-- The predicate an .nb form writes. -/
def nbPred (m : XM) : Option Nat := if m.off.getLsbD 0 then some (m.off.toNat / 2 % 8) else none

/-- A queue number of 4,096 or more (R273). -/
def queueTrap (s : State) (x : Ctx) (a : Nat) : Option TrapInfo :=
  if (lanesOf x.act).any fun l => decide (4096 ≤ (srcLane s x a l).toNat) then some (trapOf cQUEUE) else none

/-- The descriptor's address is the request's target; lanes naming one queue form one request. -/
def queueOps (s : State) (x : Ctx) (a : Nat) (data : Nat → Nat) : List (Target × LaneOp) :=
  (lanesOf x.act).map fun l =>
    let pa := (s.dev (devOfCore s x.core)).wqtbase + 64 * (srcLane s x a l).toNat
    (.mem pa, { lane := l, at_ := pa, data := data l, swap := 0, va := pa, keep := 0 })

/-- Accept the requests of a work-queue operation; a speculative instance's push is queued, and so held until a commit like
any other entry (Table 6.3, R127). -/
def queueGo (s : State) (x : Ctx) (kind : ReqKind) (ops : List (Target × LaneOp)) (dest : Option Nat) (m : XM)
    (returns acquire strong : Bool) : State :=
  let p := mkPend s x (.group dest 16 false) (nbPred m) x.act [] acquire (acquire && (nbPred m).isNone) []
  let waits := if strong then readsOf x else []
  let s := { s with nextId := s.nextId + 1 }
  let pid := if returns then some p.id else none
  let s := (groupOps ops).foldl (fun s g =>
    let r := mkReq s x .lane kind g.1 16 g.2 pid (nbPred m) strong waits
    accept s (asExternal x (!speculative x.w) { r with phase := 2 }) (speculative x.w)) s
  if returns && decide (x.act ≠ 0) then finishReturning s x p else goOn s x (s.core x.core) x.w

/-- WQPUSH (R273). -/
def execWqpush (f : F3) (m : XM) (s : State) : Outcome State Fault Refusal :=
  issue (.wqpush f m) s fun x =>
    let nb := (nbPred m).isSome
    { surface := true
      own := queueTrap s x f.a.toNat
      wait := queueWait s x (16 * laneCount x.act) (some m.scope.toNat)
      next := externally s x (decide (x.act ≠ 0) && !speculative x.w)
        (queueGo s x (.wqpush nb) (queueOps s x f.a.toNat (groupLane s x f.b.toNat 16)) none m nb false
          (decide (2 < m.scope.toNat))) }

/-- WQPOP (R273, R274). -/
def execWqpop (f : F3) (m : XM) (s : State) : Outcome State Fault Refusal :=
  issue (.wqpop f m) s fun x =>
    { own := queueTrap s x f.a.toNat
      live := true
      wait := queueWait s x (16 * laneCount x.act) none
      next := externally s x (decide (x.act ≠ 0))
        (queueGo s x (.wqpop (nbPred m).isSome) (queueOps s x f.a.toNat fun _ => 0) (destReg f.d) m true true false) }

end Sys2Proof.Machine
end

