-- ==== Sys2Proof/Machine/Channel.lean ====
section
/-! DEFINITION. Ordered channels (R90, R275 to R277). -/

namespace Sys2Proof.Machine

open Host (Outcome)

/-- A channel of a workgroup. -/
def chanOf (g : Wg) (n : Nat) : Chan := (fget g.chans n).getD Chan.fresh
/-- Change a channel of a workgroup. -/
def updChan (s : State) (g n : Nat) (f : Chan → Chan) : State := s.updWg g fun x => { x with chans := fput x.chans n (f (chanOf x n)) }
/-- The channel number of an F2I word. -/
def chanNo (f : F2I) : Nat := f.imm.toNat % 64

/-- A channel instruction in a state that Table 12.7 does not allow. -/
def chanTrap (x : Ctx) (n : Nat) (ok : List ChanState) : Option TrapInfo :=
  if x.act = 0 ∨ ok.contains (chanOf x.wg n).st then none else some (trapOf cCHANNEL)

/-- The register of the lowest active lane that a channel opening names, and the next one. -/
def openPair (s : State) (x : Ctx) (a : Nat) : Double := pairLane s x a ((lowLane x.act).getD 0)

/-- Does an endpoint lie in the slice of a core of the device, or in a bound peer window (R55, R65, R257, R276)? -/
def endpointOk (s : State) (k e : Nat) : Bool :=
  match regionOf e with
  | .slice idx off => (coreOfIdx s k idx).isSome && decide (off + 4 ≤ addressable (s.dev k).hcshare)
  | .peer w off => (windowOf s k w).valid && decide (off + 4 ≤ (windowOf s k w).size * 65536)
  | .paged | .local_ _ | .reserved => false

/-- CHOPEN.tx (R276). -/
def execChopenTx (f : F2I) (s : State) : Outcome State Fault Refusal :=
  issue (.chopenTx f) s fun x =>
    let n := chanNo f
    let e := (openPair s x f.a.toNat).toNat
    let known := endpointOk s (devOfCore s x.core) e
    { own := (chanTrap x n [.closed]).or
        (if x.act = 0 then none
         else if e % 64 ≠ 0 then some (trapAt cMISALIGNED e)
         else if !known then some (trapAt cBOUNDS e)
         else none)
      live := true
      next :=
        if x.act = 0 then goOn s x x.k x.w
        else goOn (updChan s x.g n fun _ => { Chan.fresh with st := .tx, endpoint := e }) x x.k x.w }

/-- What a rolled-back workgroup is to receive again of a channel stands in the ring of its next opening (R146): its numbers
to come, and the ring's words. -/
def takeAgain (s : State) (g n : Nat) : State :=
  match fget s.wgs g with
  | none => s
  | some x =>
    match (fget x.again n).getD [] with
    | [] => s
    | ms :: rest =>
      let c := chanOf x n
      let s := s.updWg g fun x => { x with
        again := fput x.again n rest, chans := fput x.chans n { c with delivered := ms.length } }
      ms.zipIdx.foldl (fun s p => wgWrite s g (c.ring + 4 * (p.2 % (c.size / 4))) (bytesOfNat 4 p.1)) s

/-- CHOPEN.rx (R276). -/
def execChopenRx (f : F2I) (s : State) : Outcome State Fault Refusal :=
  issue (.chopenRx f) s fun x =>
    let n := chanNo f
    let v := openPair s x f.a.toNat
    let ring := (v.setWidth 32).toNat
    let size := (v.extractLsb' 32 32).toNat
    let at_ := 0xFF_0000_0000_0000 + ring
    { own := (chanTrap x n [.closed]).or
        (if x.act = 0 then none
         else if ring % 64 ≠ 0 then some (trapAt cMISALIGNED at_)
         else if size % 64 ≠ 0 ∨ size < 64 ∨ 65536 < size ∨ x.wg.size < ring + size then some (trapAt cBOUNDS at_)
         else none)
      live := true
      next :=
        if x.act = 0 then goOn s x x.k x.w
        else
          let s := takeAgain (updChan s x.g n fun _ => { Chan.fresh with st := .rx, ring := ring, size := size }) x.g n
          goOn s x (s.core x.core) x.w }

/-- Where the messages of an endpoint go; an endpoint that names no core of the device goes to the device node, which
takes none. -/
def endpointTarget (s : State) (k e : Nat) : Target :=
  match regionOf e with
  | .slice idx off => match coreOfIdx s k idx with | some c => .slice c off | none => .node k
  | .peer w off => .peer k w (windowOf s k w) off
  | .paged | .local_ _ | .reserved => .node k

/-- SEND: one message per active lane enters the channel queue, in ascending lane order (R277). Through a peer window that is not
bound, or not so far, it traps at the issuer (R65, R366). -/
def execSend (f : F2I) (s : State) : Outcome State Fault Refusal :=
  issue (.send f) s fun x =>
    let n := chanNo f
    let e := (chanOf x.wg n).endpoint
    let t := endpointTarget s (devOfCore s x.core) e
    let peer := match regionOf e with | .peer .. => true | _ => false
    { own := (chanTrap x n [.tx]).or (if x.act ≠ 0 ∧ peer && !endpointOk s (devOfCore s x.core) e then some (trapAt cBOUNDS e) else none)
      wait := roomWait s x (4 * laneCount x.act)
      next :=
        let s := (lanesOf x.act).foldl (fun s l =>
          let o : LaneOp := { lane := l, at_ := e, data := (srcLane s x f.a.toNat l).toNat, swap := 0, va := e, keep := 0 }
          accept s { mkReq s x .channel (.message n) t 4 [o] none none false [] with phase := 2 } (speculative x.w)) s
        goOn s x (s.core x.core) x.w }

/-- Messages delivered and not yet received. -/
def chanReady (c : Chan) : Nat := c.delivered - c.received

/-- RECV: the warp waits until the ring holds a message for every active lane (R277). A slot that is uncorrectable data replays
the launch (R153, log 95). -/
def execRecv (f : F2I) (s : State) : Outcome State Fault Refusal :=
  issue (.recv f) s fun x =>
    let n := chanNo f
    let c := chanOf x.wg n
    let ls := lanesOf x.act
    let slot (i : Nat) : Nat := c.ring + 4 * ((c.received + i) % (c.size / 4))
    let v (l : Nat) : Word := BitVec.ofNat 32 (wgNat s x.g (slot ((ls.takeWhile fun j => decide (j < l)).length)) 4)
    { own := chanTrap x n [.rx]
      live := true
      wait := if x.act ≠ 0 ∧ chanReady c < ls.length then some .warp else none
      next :=
        if x.act = 0 then goOn s x x.k x.w
        else if ls.zipIdx.any fun p => ownBad s x x.wg.gen (x.wg.base + slot p.2) 4 then poisonOut s x
        else
          goOn (updChan s x.g n fun c => { c with received := c.received + ls.length }) x (putLanes x x.k f.d.toNat v) x.w }

/-- CHFENCE and CHCLOSE on a channel open for sending: wait for the SENDs before, then the error bit traps. DESIGN CHOICE (log
94): like any trapping instruction a CHCLOSE that so traps has no effect, so that the channel stays open and its bit set. -/
def chanDrain (s : State) (x : Ctx) (n : Nat) (go : State) : Plan :=
  let c := chanOf x.wg n
  let waits := decide (x.act ≠ 0 ∧ c.st = .tx) && !(sendsOf s x (some n)).isEmpty
  { surface := true
    own := if x.act ≠ 0 ∧ c.st = .tx ∧ !waits ∧ c.err then some (trapOf cCHANNEL) else none
    live := true
    next := if waits then keepWaiting s x else go }

/-- CHFENCE (R275). -/
def execChfence (f : F2I) (s : State) : Outcome State Fault Refusal :=
  issue (.chfence f) s fun x => chanDrain s x (chanNo f) (goOn s x x.k x.w)

/-- The words of a ring from one number to another. -/
def ringWords (s : State) (g : Nat) (c : Chan) (from_ to_ : Nat) : List Nat :=
  (List.range (to_ - from_)).map fun i => wgNat s g (c.ring + 4 * ((from_ + i) % (c.size / 4))) 4

/-- A channel closes; in guarded and twin modes what it has received since the last committed checkpoint is kept for a
rollback (R146). -/
def closeChan (s : State) (x : Ctx) (n : Nat) : State :=
  let c := chanOf x.wg n
  let s := if c.st = .rx ∧ x.l.rec_.mode ≠ 0 then
      s.updWg x.g fun y => { y with
        heard := fput y.heard n ((fget y.heard n).getD [] ++
          [{ closed := s.nextId, first := c.kept, msgs := ringWords s x.g c c.kept c.received }]) }
    else s
  updChan s x.g n fun _ => Chan.fresh

/-- CHCLOSE (R275). -/
def execChclose (f : F2I) (s : State) : Outcome State Fault Refusal :=
  issue (.chclose f) s fun x =>
    let n := chanNo f
    chanDrain s x n (goOn (if x.act = 0 then s else closeChan s x n) x x.k x.w)

end Sys2Proof.Machine
end

