-- ==== Sys2Proof/Machine/Engines.lean ====
section
/-! DEFINITION. The pool total (R46) and the meanings of EXIT (R238), FORK (R241), JOIN (R242) and SPAWN
(R243). -/

namespace Sys2Proof.Machine

open Host (Outcome)

/-! ### The pool total (R46) -/

/-- Is a workgroup a pool workgroup? -/
def isPoolWg (s : State) (g : Nat) : Bool := match fget s.wgs g with | some x => x.pool | none => false

/-- The live lanes of some warps. -/
def liveLanes (ws : FMap Warp) : Nat := ws.foldl (fun m w => m + laneCount w.2.live) 0

/-- The live lanes of a die's pool workgroups that are saved. -/
def savedLanes (s : State) (d : Nat) : Nat :=
  s.wgs.foldl (fun n p =>
    match p.2.phase, p.2.image with
    | .saved, some im => if p.2.pool ∧ dieOf p.2.core = d then n + liveLanes im.warps else n
    | _, _ => n) 0

/-- The pool total T of a die: records in bins and queue, and live lanes of its pool workgroups' warps, saved ones among them
(R46). -/
def poolTotal (s : State) (d : Nat) : Nat :=
  (s.cores.filter fun p => decide (dieOf p.1 = d)).foldl (fun n p =>
    n + p.2.bins.foldl (fun m b => m + b.2.recs.length) 0 + liveLanes (p.2.warps.filter fun w => isPoolWg s w.2.wg))
    ((s.die d).poolTail - (s.die d).poolHead) + savedLanes s d

/-- The join decrements of a die's ended pool threads that have not performed. Each may yet push a continuation (R44), so a SPAWN
or an admission leaves it its place and T never exceeds N (R46; DEDUCED, log 34). -/
def joinsOut (s : State) (d : Nat) : Nat :=
  let lanes (rs : List Req) : Nat := rs.foldl (fun n r => if r.kind = .joinDec ∧ dieOf r.core = d then n + r.lanes.length else n) 0
  lanes s.net + lanes s.aside + s.wgs.foldl (fun n p => n + lanes (p.2.laneQ ++ p.2.sub)) 0

/-- Has a die's pool room for n records more (R46)? -/
def poolRoom (s : State) (d n : Nat) : Bool := decide (poolTotal s d + joinsOut s d + n ≤ poolSlots s d)

/-! ### SPAWN (R243) -/

/-- The pushes of a SPAWN of a launch, in ascending lane order. -/
def spawnPush (s : State) (c lid : Nat) (ls : List LaneOp) : State :=
  ls.foldl (fun s o => frontPush s c lid (BitVec.ofNat 64 o.va) (BitVec.ofNat 64 o.data) (BitVec.ofNat 64 o.swap)) s

/-- SPAWN: in a speculative instance its records queue with its writes (Table 6.3). -/
def execSpawn (f : F3) (m : XM) (s : State) : Outcome State Fault Refusal :=
  issue (.spawn f m) s fun x =>
    let code (l : Nat) := (pairLane s x f.a.toNat l).toNat
    let frame (l : Nat) := (pairLane s x f.b.toNat l).toNat
    let join (l : Nat) := (pairLane s x m.c.toNat l).toNat
    let high (v : Nat) : Bool := decide (2 ^ 56 ≤ v)
    let ops := (lanesOf x.act).map fun l =>
      ({ lane := l, at_ := 0, data := frame l, swap := join l, va := code l, keep := 0 } : LaneOp)
    let d := dieOf x.core
    { priv := if x.act ≠ 0 ∧ !x.wg.pool then some (trapOf cPRIVILEGE) else none
      own := (firstBad x.act cMISALIGNED code fun v => decide (v % 4 ≠ 0)).or
        ((lanesOf x.act).findSome? fun l => ([code l, frame l, join l].find? high).map (trapAt cBOUNDS))
      wait :=
        if x.act = 0 then none
        else if speculative x.w then roomWait s x (24 * ops.length)
        else if poolRoom s d ops.length then none
        else some .warp
      next :=
        if x.act = 0 then goOn s x x.k x.w
        else if speculative x.w then
          let r := mkReq s x .lane .spawn (.slice x.core 0) 24 ops none none false []
          goOn (accept s { r with phase := 2 } true) x x.k x.w
        else
          let s := spawnPush s x.core x.wg.launch ops
          goOn s x (s.core x.core) x.w }

/-! ### FORK and JOIN (R47 to R49, R89, R241, R242, R310) -/

/-- The address a local offset names, which TADDR reports. -/
def localAddr (o : Nat) : Nat := 0xFF_0000_0000_0000 + o

/-- The checks of a rendezvous object's offset. -/
def objectTrap (x : Ctx) (o : Nat) : Option TrapInfo :=
  if o % 8 ≠ 0 then some (trapAt cMISALIGNED (localAddr o))
  else if x.wg.size < o + 8 then some (trapAt cBOUNDS (localAddr o))
  else none

/-- FORK: the object becomes 0 and the program takes a FIFO entry; the running program keeps its own until it ends. -/
def execFork (f : F3) (m : XM) (s : State) : Outcome State Fault Refusal :=
  issue (.fork f m) s fun x =>
    let l := (lowLane x.w.live).getD 0
    let code := pairLane s x f.a.toNat l
    let arg := pairLane s x f.b.toNat l
    let o := (srcLane s x m.c.toNat l).toNat
    let cl := clusterOf s x.core
    let q := s.seq cl
    let busy := q.fifo.length + (if q.cur.isSome then 1 else 0)
    let fk : Fork :=
      { code := code, arg := arg, core := x.core, slot := x.slot, wg := x.g, off := o, pos := x.wg.pos,
        waitReads := x.w.pend.map Pending.id, upto := s.nextId }
    { priv := if x.act ≠ 0 ∧ x.wg.cg.isNone then some (trapOf cPRIVILEGE) else none
      own :=
        if x.act = 0 then none
        else if code.toNat % 4 ≠ 0 then some (trapAt cMISALIGNED code.toNat)
        else if !targetOk code then some (trapAt cBOUNDS code.toNat)
        else objectTrap x o
      live := decide (x.act ≠ 0)
      wait := if x.act ≠ 0 ∧ 4 ≤ busy then some .warp else none
      next :=
        if x.act = 0 then goOn s x x.k x.w
        else
          let s := wgWrite s x.g o (bytesOfNat 8 0)
          let s := s.updSeq cl fun q => { q with fifo := q.fifo ++ [fk] }
          goOn { s with nextId := s.nextId + 1 } x (s.core x.core) x.w }

/-- JOIN: the warp waits until every active lane's object is nonzero; 0x09 traps (R310). An object that is uncorrectable data
replays the launch (R153, log 95). -/
def execJoin (f : F3) (s : State) : Outcome State Fault Refusal :=
  issue (.join_ f) s fun x =>
    let o (l : Nat) := (srcLane s x f.a.toNat l).toNat
    let v (l : Nat) := sliceNat x.k x.wg.gen (x.wg.base + o l) 8
    let zero := (lanesOf x.act).any fun l => decide (v l = 0)
    let bad := ((firstBad x.act cMISALIGNED (fun l => localAddr (o l)) fun a => decide (a % 8 ≠ 0)).or
      ((lanesOf x.act).findSome? fun l => objectTrap x (o l))).or
      (staleTrap s x (fun l => localAddr (o l)) 8)
    let hurt := (lanesOf x.act).any fun l => ownBad s x x.wg.gen (x.wg.base + o l) 8
    { own := bad.or (if !hurt && !zero && (lanesOf x.act).any fun l => decide (v l = 9) then some (trapOf cSUSPECT) else none)
      live := true
      wait := if !hurt && zero then some .warp else none
      next := if hurt then poisonOut s x else goOn s x (putLanes x x.k f.d.toNat fun l => BitVec.ofNat 32 (v l)) x.w }

/-! ### EXIT (R24, R27, R44, R238) -/

/-- Every barrier whose phase may now be complete because a warp ended (R270). -/
def settleBars (s : State) (g : Nat) : State := (List.range 16).foldl (fun s n => barSettle s g n) s

/-- Commands of an ended warp go on for no warp (log 23). -/
def orphanCopies (s : State) (c sl : Nat) : State :=
  s.updCore c fun k => { k with copies := k.copies.map fun q => if q.slot = sl then { q with slot := 48 } else q }

/-- A warp has ended: its slot and blocks are free at once; with the last warp of its workgroup the workgroup's slot is
freed, in guarded and twin modes at the commit of the checkpoint that this triggers (Table 7.3). Copy commands still
running go on for no warp (log 23). -/
def endWarp (s : State) (c sl g : Nat) : State :=
  let s := dropWarp (orphanCopies s c sl) c sl
  let s := s.updWg g fun x => { x with ended := x.ended + 1 }
  match fget s.wgs g with
  | none => s
  | some x =>
    if x.pool then s
    else if x.ended < x.nwarps then settleBars s g
    else if modeOf s x = 0 then freeWg s g
    else askCheckpoint s g

/-- Some lanes end: they leave the warp; the rest go on at the next clause. -/
def endLanes (s : State) (x : Ctx) (m : Word) : State :=
  let live := x.w.live &&& ~~~m
  let w := { x.w with live := live }
  let s := done s x (s.core x.core) w [part (passed x) (x.e.mask &&& ~~~m)]
  if live = 0 then endWarp s x.core x.slot x.g
  else
    let inHandler := x.w.handler &&& m ≠ 0
    settle (s.updWarp x.core x.slot fun w =>
      barRelease (rconvRelease (if inHandler then leaveHandler w m else w))) x.core x.slot

/-- The join-record pointer of a pool thread; 0 for none. -/
def joinOf (w : Warp) (l : Nat) : Nat := (fget w.poolThreads l).getD 0

/-- The decrement of a join record, as a request of its lane (R44). -/
def joinReq (s : State) (x : Ctx) (l pa : Nat) : State :=
  match targetOf s x (joinOf x.w l) 32 pa with
  | none => s
  | some t =>
    let o : LaneOp := { lane := l, at_ := t.2, data := 0, swap := 0, va := joinOf x.w l, keep := 0 }
    accept s (mkReq s x .lane .joinDec t.1 4 [o] none none true (readsOf x)) false

/-- EXIT of a pool warp's lanes: the join pointers are translated and decremented, misaligned ones recorded as their lanes end;
a lane whose translation faults parks and does not end. -/
def exitPool (s : State) (x : Ctx) : State :=
  let k := devOfCore s x.core
  let has (l : Nat) : Bool := hasLane x.act l && decide (joinOf x.w l ≠ 0)
  let bad := lanes.filter fun l => has l && decide (joinOf x.w l % 32 ≠ 0)
  let good := maskOf fun l => has l && decide (joinOf x.w l % 32 = 0)
  withXlate s { x with act := good } (joinOf x.w) 32 true 4 fun s y pa =>
    let s := bad.foldl (fun s l =>
      postFault s k (accessFault s (joinOf x.w l) x.l.id x.l.rec_.space x.core 0 4 0 8)) s
    let s := (lanesOf y.act).foldl (fun s l => joinReq s y l (pa l)) s
    endLanes s y (x.act &&& y.e.mask)

/-- EXIT (R238); in a sequencer's stream it ends the program with 1 (R309). -/
def execExit (f : F3) (s : State) : Outcome State Fault Refusal :=
  issueIn (.exit f) s
    (fun x =>
      let joins := maskOf fun l => hasLane x.act l && decide (joinOf x.w l ≠ 0 ∧ joinOf x.w l % 32 = 0)
      { surface := true
        own :=
          if (lanesOf x.act).any fun l => decide (depthOf x.w l ≠ 0) then some (trapOf cSECTION)
          else if x.act ≠ 0 ∧ x.w.round.st ≠ .idle then some (trapOf cSPEC)
          else firstBad joins cBOUNDS (joinOf x.w) fun v => decide (locate s x v 32 = .bad)
        wait :=
          if readsOf x ≠ [] then some .entry
          else if countFull s x.core (laneCount joins) then some .warp
          else if joins ≠ 0 then roomWait s x (4 * laneCount joins)
          else none
        next :=
          if x.act = 0 then goOn s x x.k x.w
          else if x.wg.pool then exitPool s x
          else endLanes s x x.act })
    fun cl _ => seqEnd s cl 1

end Sys2Proof.Machine
end

