-- ==== Sys2Proof/Machine/System.lean ====
section
/-! DEFINITION. CSRs (R250), trap return (R247), CYCLE, GENQ (R251, R252), DBGBRK (R249), extended blocks (R30 to R32,
R253), SUSPQ and SPSTAT (R302, R305). -/

namespace Sys2Proof.Machine

open Host (Outcome)

/-! ### CSRs (Tables 11.2 to 11.5) -/

/-- Workgroups of a launch: the grid's product, or a pool launch's cores. -/
def launchSize (r : LRec) : Nat := if r.kind = 2 then r.pncore else r.grid0 * r.grid1 * r.grid2

/-- A Bool as a bit. -/
def bit (b : Bool) : Nat := if b then 1 else 0

/-- The code of a round state (Table 11.5, Table 13.8). -/
def roundStCode : RoundState → Nat
  | .idle => 0
  | .guessing => 1
  | .running => 2

/-- WSTAT (Table 11.5). -/
def wstat (w : Warp) : Nat :=
  (w.frontier.length + w.held.length) * 2 ^ 12 + roundStCode w.round.st * 2 ^ 10 + bit w.dbgatt * 2 ^ 9 +
    bit (!w.parks.isEmpty) * 2 ^ 8 + bit (converged w) * 4 + bit (decide (w.handler ≠ 0)) * 2 + bit w.rconvSplit

/-- LMODE (Table 11.2). -/
def lmode (r : LRec) : Nat := r.mode % 4 + bit r.genTrap * 4 + r.kind % 4 * 8 + r.pclass % 4 * 32

/-- A CSR's value (Table 11.2). -/
def csrValue (x : Ctx) (n : Nat) : Nat :=
  let lo (d : Double) : Nat := d.toNat % 2 ^ 32
  let hi (d : Double) : Nat := d.toNat / 2 ^ 32
  match n with
  | 0x000 => x.w.fpstat.toNat
  | 0x001 => wstat x.w
  | 0x002 => lo x.w.tvec
  | 0x003 => hi x.w.tvec
  | 0x004 => x.w.tcause.toNat
  | 0x005 => x.w.tinfo.toNat
  | 0x006 => lo x.w.tpc
  | 0x007 => hi x.w.tpc
  | 0x008 => lo x.w.taddr
  | 0x009 => hi x.w.taddr
  | 0x00A => x.w.tmask.toNat
  | 0x00B => x.w.tact.toNat
  | 0x00C => lo x.w.tclause
  | 0x00D => hi x.w.tclause
  | 0x010 => x.wg.base
  | 0x011 => x.wg.size
  | 0x012 => x.wg.index / 2 ^ 32
  | 0x013 => launchSize x.l.rec_ % 2 ^ 32
  | 0x014 => launchSize x.l.rec_ / 2 ^ 32
  | 0x015 => x.wg.nwarps
  | 0x016 => x.l.id
  | 0x017 => x.l.attempt
  | 0x018 => lmode x.l.rec_
  | 0x019 => x.w.base + x.w.ext * 8
  | 0x020 => x.w.timeoutCyc
  | _ => 0

/-- A double with its low or high word replaced. -/
def setLo (d : Double) (v : Word) : Double := d.extractLsb' 32 32 ++ v
/-- A double with its high word replaced. -/
def setHi (d : Double) (v : Word) : Double := v ++ d.extractLsb' 0 32

/-- A CSR write under its access code; a read-only CSR ignores it (Table 11.2). -/
def csrWrite (w : Warp) (n : Nat) (v : Word) : Warp :=
  match n with
  | 0x000 => { w with fpstat := v.setWidth 5 }
  | 0x001 => { w with rconvSplit := w.rconvSplit && !v.getLsbD 0 }
  | 0x002 => { w with tvec := setLo w.tvec (v &&& 0xFFFF_FFFC) }
  | 0x003 => { w with tvec := setHi w.tvec (v &&& 0x00FF_FFFF) }
  | 0x006 => { w with tpc := setLo w.tpc v }
  | 0x007 => { w with tpc := setHi w.tpc v }
  | 0x00C => { w with tclause := setLo w.tclause v }
  | 0x00D => { w with tclause := setHi w.tclause v }
  | 0x020 => { w with timeoutCyc := max 4096 v.toNat }
  | _ => w

/-- The handler-only CSRs. -/
def csrHandlerOnly (n : Nat) : Bool := decide (n = 6 ∨ n = 7 ∨ n = 0xC ∨ n = 0xD ∨ n = 0x20)

/-- CSRRD (R250). -/
def execCsrrd (f : F3) (m : XM) (s : State) : Outcome State Fault Refusal :=
  issue (.csrrd f m) s fun x =>
    { next := goOn s x (putLanes x x.k f.d.toNat fun _ => BitVec.ofNat 32 (csrValue x (m.off.toNat % 4096))) x.w }

/-- CSRWR: the value is V[a] of the lowest active lane (R250). -/
def execCsrwr (f : F3) (m : XM) (s : State) : Outcome State Fault Refusal :=
  issue (.csrwr f m) s fun x =>
    let n := m.off.toNat % 4096
    { priv :=
        if x.act ≠ 0 ∧ csrHandlerOnly n ∧ x.w.handler = 0 then some { cause := cPRIVILEGE, addr := 0, info := n } else none
      live := true
      next := goOn s x x.k (if x.act = 0 then x.w else csrWrite x.w n (BitVec.ofNat 32 (lowValue s x f.a.toNat))) }

/-! ### TRETURN (R247) -/

/-- The entry at a resumption PC: where a clause at TCLAUSE could hold the PC, it stands in that clause, not read yet, and its
header decides when it issues (`standing`); else it stands at a header. -/
def resumeAt (pc hdr : Double) (m : Word) : Entry :=
  let e := Entry.at_ pc m 0
  if hdr.toNat % 4 = 0 ∧ insideClause (unreadClause hdr) pc then { e with clause := some (unreadClause hdr) } else e

/-- TRETURN (R247); the handler's lanes that are left may then all wait at RCONV (R22, R244). -/
def execTreturn (f : F3) (s : State) : Outcome State Fault Refusal :=
  issue (.treturn f) s fun x =>
    { priv := if x.w.handler = 0 then some (trapOf cPRIVILEGE) else none
      next :=
        let s := done s x x.k x.w [resumeAt x.w.tpc x.w.tclause x.e.mask]
        settle (s.updWarp x.core x.slot fun w => rconvRelease (leaveHandler w x.e.mask)) x.core x.slot }

/-! ### CYCLE, GENQ, DBGBRK -/

/-- CYCLE (R251). -/
def execCycle (f : F3) (s : State) : Outcome State Fault Refusal :=
  issue (.cycle f) s fun x =>
    { next := goOn s x (putPair x x.k f.d.toNat fun _ => BitVec.ofNat 64 x.k.cycle) x.w }

/-- GENQ (R252). -/
def execGenq (f : F3) (s : State) : Outcome State Fault Refusal :=
  issue (.genq f) s fun x =>
    let priv := if x.w.round.st = .running then x.w.round.privGen else 0
    let ext := if x.w.ext = 0 then 0 else x.w.genExt
    let v := x.wg.gen % 2 ^ 16 + x.w.genBase % 2 ^ 16 * 2 ^ 16 + ext % 2 ^ 16 * 2 ^ 32 + priv % 2 ^ 16 * 2 ^ 48
    { next := goOn s x (putPair x x.k f.d.toNat fun _ => BitVec.ofNat 64 v) x.w }

/-- DBGBRK: with a debugger the warp is held and an event posted; else it traps past itself (R245, R249). -/
def execDbgbrk (f : F2I) (s : State) : Outcome State Fault Refusal :=
  issue (.dbgbrk f) s fun x =>
    let p := passed x
    let hdr := match p.clause with | some c => c.hdr | none => p.pc
    let n := f.imm.toNat
    { live := true
      next :=
        if x.act = 0 then goOn s x x.k x.w
        else if x.w.dbgatt then
          goOn { s with debug := s.debug ++ [.brk x.core x.slot p.pc n] } x x.k { x.w with hold := .debug }
        else trapTo s x { cause := cBREAK, addr := 0, info := n } p.pc hdr }

/-! ### Extended register blocks (R30 to R32, R253) -/

/-- SPEC_ILLEGAL for the instructions no round allows (Table 6.3). -/
def roundTrap (x : Ctx) : Option TrapInfo := if x.w.round.st ≠ .idle then some (trapOf cSPEC) else none

/-- REGACQ: the request joins its quadrant's queue; the warp stays at the instruction until the grant (R30, R33). -/
def execRegacq (f : FS) (s : State) : Outcome State Fault Refusal :=
  issue (.regacq f) s fun x =>
    let n := f.imm.toNat
    let q := quadOf x.slot
    { own := if x.w.ext ≠ 0 ∨ n = 0 ∨ 6 < x.w.base + n then some (trapOf cBLOCK) else roundTrap x
      next :=
        done s x { x.k with regacq := fput x.k.regacq q ((fget x.k.regacq q).getD [] ++ [(x.slot, n)]) }
          { x.w with hold := .regacq n } [issued x.e] }

/-- REGREL (R32). -/
def execRegrel (f : FS) (s : State) : Outcome State Fault Refusal :=
  issue (.regrel f) s fun x =>
    { own := roundTrap x
      next := goOn s x x.k { x.w with ext := 0, genExt := 0, blocks := x.w.blocks.take x.w.base } }

/-! ### SUSPQ and SPSTAT (R302, R305) -/

/-- The cores of a cluster group's array set, by position. -/
def groupCores (s : State) (cl : Nat) : List (Nat × Nat) :=
  (s.seq cl).members.filterMap fun p => (fget s.wgs p.2).map fun g => (p.1, g.core)

/-- SUSPQ: the suspect flags of the cluster group's arrays, read and cleared in one step. -/
def execSuspq (f : F3) (s : State) : Outcome State Fault Refusal :=
  issue (.suspq f) s fun x =>
    let set := if x.wg.cg.isSome then groupCores s (clusterOf s x.core) else []
    let flag := set.filter fun p => (s.core p.2).array.suspect
    let v := (flag.map fun p => 2 ^ p.1).sum + bit (flag.any fun p => (s.core p.2).array.suspectAcc) * 16
    { live := true
      next :=
        if x.act = 0 then goOn s x x.k x.w
        else
        let s := set.foldl (fun s p => s.updCore p.2 fun k =>
          { k with array := { k.array with suspect := false, suspectAcc := false } }) s
        goOn s x (putLanes x (s.core x.core) f.d.toNat fun _ => BitVec.ofNat 32 v) x.w }

/-- The code of an instance state (Table 13.8). -/
def instCode : InstState → Nat
  | .none => 0
  | .speculative => 1
  | .live => 2
  | .continuing => 3

/-- The round a warp's SPSTAT reports the committed iterations of: a speculative instance's is that of the instance that is
not (R125, Table 13.8). -/
def committedOf (x : Ctx) : Nat :=
  let head := x.k.warps.find? fun p =>
    decide (p.2.wg = x.g ∧ p.2.round.st = .running ∧ p.2.round.owner = x.w.round.owner ∧ p.2.round.ist ≠ .speculative)
  match x.w.round.ist, head with
  | .speculative, some p => p.2.round.committed
  | _, _ => x.w.round.committed

/-- SPSTAT (Table 13.8). -/
def execSpstat (f : F3) (s : State) : Outcome State Fault Refusal :=
  issue (.spstat f) s fun x =>
    let r := x.w.round
    let run := decide (r.st = .running)
    let v := (if run then instCode r.ist else 0) * 2 ^ 14 + roundStCode r.st * 2 ^ 12 + (if run then r.inst else 0) * 2 ^ 8 +
      committedOf x % 16 * 16 + r.width % 16
    { next := goOn s x (putLanes x x.k f.d.toNat fun _ => BitVec.ofNat 32 v) x.w }

end Sys2Proof.Machine
end

