-- ==== Sys2Proof/Machine/Rounds.lean ====
section
/-! DEFINITION. Speculative rounds: SPBEGIN (R119, R120, R300), SPGUESS and cloning (R121, R122), SPCMP and promotion
(R123, R124, R127), SPEND (R125) and the squash (R131, R358). -/

namespace Sys2Proof.Machine

open Host (Outcome)

/-! ### Generations in number (R113) -/

/-- Take n generations one after another. -/
def takeGens (s : State) (c : Nat) : Nat → State × List Nat
  | 0 => (s, [])
  | n + 1 =>
    let g := nextGen (s.core c)
    let r := takeGens (s.updCore c fun k => { k with gen := g }) c n
    (r.1, g :: r.2)

/-- May n generations be taken one after another now? -/
def gensReady (s : State) (c : Nat) : Nat → Bool
  | 0 => true
  | n + 1 => genReady s c && gensReady (s.updCore c fun k => { k with gen := nextGen k }) c n

/-! ### SPBEGIN -/

/-- The descriptor's fields (Table 6.1), if every one is within its limits. -/
structure LoopDesc where
  nc : Nat
  width : Nat
  psize : Nat
  masks : List Word
  guess : Double
  deriving DecidableEq, Repr

/-- Read a descriptor's 32 bytes. -/
def loopDesc (v : Nat) : Option LoopDesc :=
  let w := v % 2 ^ 64
  let d : LoopDesc :=
    { nc := w % 8, width := w / 2 ^ 8 % 16, psize := w / 2 ^ 16 % 256
      masks := (List.range 4).map fun i => BitVec.ofNat 32 (v / 2 ^ (64 + 32 * i))
      guess := BitVec.ofNat 64 (v / 2 ^ 192) }
  if w / 8 % 32 = 0 ∧ w / 2 ^ 12 % 16 = 0 ∧ w / 2 ^ 24 = 0 ∧ 1 ≤ d.nc ∧ d.nc ≤ 4 ∧ 2 ≤ d.width ∧ d.width ≤ 8 ∧
      d.psize ≤ 64 ∧ d.guess.toNat % 4 = 0 then some d
  else none

/-- The request at the head of a quadrant's REGACQ queue (R31). -/
def regacqHead (k : Core) (q : Nat) : Nat := match (fget k.regacq q).getD [] with | (_, n) :: _ => n | [] => 0

/-- Reserve one clone for the warp in a slot, if slot, blocks and scratch are free (R120). -/
def reserveOne (s : State) (c sl psize : Nat) : Option State :=
  match s.warp? c sl with
  | none => none
  | some w =>
    let k := s.core c
    let q := quadOf sl
    let free := freeBlocks k q
    let need := w.base + w.ext
    match freeSlots k q, findRoom s c (psize * 1024) with
    | slot :: _, some base =>
      if need + regacqHead k q ≤ free.length then
        let r : Reserve := { slot := slot, blocks := free.take need, privBase := base }
        some (s.setWarp c sl { w with round := { w.round with reserved := w.round.reserved ++ [r] } })
      else none
    | _, _ => none

/-- Reserve up to n clones. -/
def reserveClones (s : State) (c sl psize : Nat) : Nat → State
  | 0 => s
  | n + 1 => match reserveOne s c sl psize with | some s => reserveClones s c sl psize n | none => s

/-- The number of clones a warp holds reserved. -/
def reservedCount (s : State) (c sl : Nat) : Nat := match s.warp? c sl with | some w => w.round.reserved.length | none => 0

/-- Open a round: instance 0's scratch is reserved first, then the clones (R120). -/
def openRound (s : State) (x : Ctx) (f : FS) (d : LoopDesc) (privBase : Nat) : State :=
  let ret := match x.e.clause with | some c => c.hdr + BitVec.ofNat 64 (4 * (c.count + 1)) | none => (passed x).pc
  let r : Round := { Round.idle with
    st := .guessing, width := 1, owner := s.nextId, masks := d.masks, nc := d.nc, psize := d.psize, ret := ret,
    privBase := privBase }
  let s := { s with nextId := s.nextId + 1 }
  let s := reserveClones (s.setWarp x.core x.slot { x.w with round := r }) x.core x.slot d.psize (d.width - 1)
  let n := 1 + reservedCount s x.core x.slot
  match s.warp? x.core x.slot with
  | none => s
  | some w =>
    let w := writeS w f.d.toNat (BitVec.ofNat 32 n)
    let w := { w with round := { w.round with width := n, entries := [(0, w.sregs.take d.nc)] } }
    done s x (s.core x.core) w [Entry.at_ d.guess x.e.mask 0]

/-- SPBEGIN (R120, R300). Its descriptor is read as any load reads it: a write Brine holds is forwarded, one in progress of the
warp's lanes is waited for (R80, R83, R119). -/
def execSpbegin (f : FS) (s : State) : Outcome State Fault Refusal :=
  issue (.spbegin f) s fun x =>
    let o := (scalarSrc s x f.a.toNat + f.imm.signExtend 32).toNat
    let d := loopDesc (ownNat s x x.wg.gen (x.wg.base + o) 32)
    let bad := ownBad s x x.wg.gen (x.wg.base + o) 32
    let busy := overlaps x (fun _ => localAddr o) 32 false
    let room := findRoom s x.core ((match d with | some y => y.psize | none => 0) * 1024)
    { own :=
        if o % 32 ≠ 0 then some (trapAt cMISALIGNED (localAddr o))
        else if 0x8000_0000 ≤ o ∨ x.wg.size < o + 32 then some (trapAt cBOUNDS (localAddr o))
        else if x.l.rec_.genTrap ∧ rangeStale x.k x.wg.gen (x.wg.base + o) 32 ∧
          !allHeld s x.g x.core (x.wg.base + o) 32 then some (trapAt cSTALE (localAddr o))
        else if d.isNone ∧ !bad ∧ !busy then some (trapOf cSPEC)
        else roundTrap x
      wait :=
        if busy then some .entry else if room.isNone then some .warp else none
      next := match d, room with
        | some y, some b => if bad then poisonOut s x else openRound s x f y b
        | _, _ => if bad then poisonOut s x else s }

/-! ### SPGUESS and cloning (R121, R122) -/

/-- The largest m such that entries 1 to m are written, below the width. -/
def guessesWritten (r : Round) : Nat :=
  ((List.range (r.width - 1)).takeWhile fun i => (fget r.entries (i + 1)).isSome).length

/-- Generations a start takes: per instance one for its scratch, per clone one for each set of blocks. DESIGN CHOICE (log 79):
scratch of 0 KiB takes none. -/
def startGens (w : Warp) (m : Nat) : Nat :=
  (if w.round.psize = 0 then 0 else m + 1) + m * (if w.ext = 0 then 1 else 2)

/-- Copy the valid rows of one warp to another under the second's generations (R116, R122). -/
def copyRows (k : Core) (sl : Nat) (w : Warp) (sl' : Nat) (w' : Warp) : Core :=
  (List.range (16 * (w.base + w.ext))).foldl (fun k r =>
    let row := rowAt k (rowKey sl w r)
    if row.tag = rowGen w r then
      { k with rows := fput k.rows (rowKey sl' w' r) { tag := rowGen w' r, data := row.data, dirty := true } }
    else k) k

/-- The carries of an instance in its scalar registers. -/
def withCarries (w : Warp) (i : Nat) : List Word :=
  let e := (fget w.round.entries i).getD []
  w.sregs.zipIdx.map fun p => e.getD p.2 p.1

/-- Count the sections a cloned warp's lanes stand in (Table 4.4). -/
def enterSections (k : Core) (w : Warp) : Core :=
  addCnt (addCnt k 0 (inSection w w.live 0)) 1 (inSection w w.live 1)

/-- Clone one instance into its reservation (R122). DESIGN CHOICE (log 79): what R122 does not list, FPSTAT, TVEC and TIMEOUT_CYC
among it, is instance 0's, and the clone has no deferred-error record. -/
def cloneOne (s : State) (c sl i : Nat) (w : Warp) (r : Reserve) : State :=
  let pg := if w.round.psize = 0 then 0 else 1
  let n := pg + (if w.ext = 0 then 1 else 2)
  let t := takeGens s c n
  let gens := t.2
  let w' := { w with
    blocks := r.blocks, genBase := gens.getD pg 0, genExt := if w.ext = 0 then 0 else gens.getD (pg + 1) 0,
    sregs := withCarries w i, frontier := [Entry.at_ w.round.ret w.live 0], tokens := List.replicate 8 Token.fresh, copied := [],
    derr := List.replicate 32 none, pend := [], hold := .none, waitCount := 0, lastIssue := 0,
    round := { w.round with
      inst := i, ist := .speculative, privBase := r.privBase, privGen := if w.round.psize = 0 then 0 else gens.getD 0 0,
      reserved := [], appended := [], passed := [], offsets := [], cmpDone := false, atCmp := false } }
  let s := (addMove t.1 (dieOf c)).updCore c fun k => enterSections (copyRows { k with warps := fput k.warps r.slot w' } sl w r.slot w') w'
  settle s c r.slot

/-- Start the round: instances 1 to m are cloned, the other reservations released, and every instance begins at
RET_PC (R121, R122). -/
def startRound (s : State) (x : Ctx) (w : Warp) (m : Nat) : State :=
  let pg := if w.round.psize = 0 then 0 else 1
  let t := takeGens s x.core pg
  let w0 := { w with
    sregs := withCarries w 0
    round := { w.round with st := .running, inst := 0, ist := .live, width := m + 1, privGen := t.2.getD 0 0,
                            reserved := w.round.reserved.take m, cmpDone := false } }
  let s := done t.1 x (t.1.core x.core) w0 [Entry.at_ w.round.ret x.e.mask 0]
  let s := (w0.round.reserved.zipIdx).foldl (fun s p => cloneOne s x.core x.slot (p.2 + 1) w0 p.1) s
  s.updWarp x.core x.slot fun w => { w with round := { w.round with reserved := [] } }

/-- SPGUESS (R121, R301). The start waits for the warp's outstanding results, which every clone copies, and for
generations (R113). -/
def execSpguess (f : FS) (s : State) : Outcome State Fault Refusal :=
  issue (.spguess f) s fun x =>
    let i := f.imm.toNat % 8
    let last := f.imm.getLsbD 3
    let r := x.w.round
    let w := if i < r.width then { x.w with round := { r with entries := fput r.entries i (x.w.sregs.take r.nc) } } else x.w
    let m := guessesWritten w.round
    { own := if r.st ≠ .guessing ∨ i = 0 then some (trapOf cSPEC) else none
      wait :=
        if !last then none
        else if x.w.pend ≠ [] then some .entry
        else if gensReady s x.core (startGens x.w m) then none
        else some .warp
      next := if last then startRound s x w m else goOn s x x.k w }

/-! ### Squash (R131, R358) -/

/-- The instances of a round above one, by slot. -/
def higherInstances (k : Core) (g owner inst : Nat) : List (Nat × Warp) :=
  k.warps.filter fun p =>
    decide (p.2.wg = g ∧ p.2.round.st = .running ∧ p.2.round.owner = owner ∧ inst < p.2.round.inst)

/-- A row returned to an instance, as a reset entry keeps it: lane 1 for a surviving instance. -/
def rowSeen (d : Nat × Nat × Nat) (survivor : Bool) : LaneOp :=
  { lane := if survivor then 1 else 0, at_ := d.1, data := d.2.1, swap := d.2.2, va := 0, keep := 0 }

/-- Is a request of an instance above that of a warp, in the same round? A slot may by then hold another instance. -/
def ofHigher (w : Warp) (r : Req) : Bool := decide (r.owner = w.round.owner ∧ w.round.inst < r.inst)

/-- The reset entry of a descriptor: in plain mode for the lane queue, in guarded mode for the append queue with the
rows returned so far and the requests of squashed instances under way (R131, R358). -/
def resetReq (s : State) (c sl : Nat) (x : Wg) (gone : List (Nat × Warp)) (w : Warp) (mode pa : Nat) : Req :=
  let mine (l : List (Nat × Nat × Nat)) := l.filter fun d => decide (d.1 = pa)
  { id := s.nextId, pc := 0, hdr := 0, core := c, slot := sl, wg := w.wg, launch := x.launch, space := 0, inst := w.round.inst, owner := w.round.owner,
    path := if mode = 0 then .lane else .append, kind := .sheadReset sl, target := .mem pa, size := 0,
    lanes := if mode = 0 then []
      else (mine w.round.offsets).map (rowSeen · true) ++ gone.flatMap fun p => (mine p.2.round.offsets).map (rowSeen · false),
    pend := none, pred := none, cmd := none, acc := (s.core c).cycle, release := false, waitReads := [],
    marks := (x.left.filter fun r => decide (r.path = .append) && ofHigher w r).map Req.id,
    external := false, sent := 0, inMesh := false, phase := 2, marked := false, via := none }

/-- Squash every instance above the one in a slot: their queued work, sections, slots, blocks and scratch go, and the
descriptors they appended to are reset (R131). -/
def squashAbove (s : State) (c sl : Nat) : State :=
  match s.warp? c sl with
  | none => s
  | some w =>
    let gone := higherInstances (s.core c) w.wg w.round.owner w.round.inst
    match fget s.wgs w.wg with
    | none => s
    | some x =>
      if gone.isEmpty then s
      else
        let slots := gone.map Prod.fst
        let descs := (gone.flatMap fun p => p.2.round.appended).eraseDups
        let mode := modeOf s x
        let resets := descs.map fun pa => resetReq s c sl x gone w mode pa
        let s := (takeGens s c (if w.round.psize = 0 then 0 else gone.length)).1
        let s := s.updWg w.wg fun g => { g with
          sub := g.sub.filter fun r => !ofHigher w r
          appQ := g.appQ.filter fun r => !(ofHigher w r && decide (r.kind = .append)) }
        let s := slots.foldl (fun s i => dropWarp s c i) s
        if mode = 2 then s else resets.foldl (fun s r => accept s { r with id := s.nextId } false) s

/-- The generations a squash above an instance takes. -/
def squashGens (x : Ctx) : Nat :=
  if x.w.round.psize = 0 then 0 else (higherInstances x.k x.g x.w.round.owner x.w.round.inst).length

/-! ### Promotion, SPCMP and SPEND -/

/-- Requests of an ended instance count from then on for the instance that goes on as the warp. -/
def remapReq (a b : Nat) (c : Nat) (r : Req) : Req := if r.core = c ∧ r.slot = a ∧ r.pend.isNone then { r with slot := b } else r

/-- As `remapReq`, for what comes back. -/
def remapMsg (a b : Nat) (c : Nat) (q : Msg) : Msg := if q.core = c ∧ q.slot = a ∧ q.pend.isNone then { q with slot := b } else q
/-- As `remapReq`, for a forked program. -/
def remapFork (a b : Nat) (c : Nat) (f : Fork) : Fork := if f.core = c ∧ f.slot = a then { f with slot := b } else f

/-- The sub-queue entries of an instance join the tails of its workgroup's queues in program order (R127). They take their numbers
as they join, so that they are younger than every entry of a lower instance. -/
def joinQueues (s : State) (y : Wg) (sl : Nat) (m : Req → Req) : Wg :=
  let mine := (y.sub.filter fun r => decide (r.slot = sl)).zipIdx.map fun p => { p.1 with id := s.nextId + p.2 }
  let sigma := if modeOf s y = 2 then mine.foldl (fun a r => a + hashReq r.launch r) y.ck.sigma else y.ck.sigma
  { y with
    sub := y.sub.filter fun r => decide (r.slot ≠ sl)
    laneQ := y.laneQ.map m ++ mine.filter fun r => decide (r.path = .lane)
    chanQ := y.chanQ.map m ++ mine.filter fun r => decide (r.path = .channel)
    copyQ := y.copyQ.map m
    left := y.left.map m
    ck := { y.ck with sigma := sigma } }

/-- The promoted instance becomes LIVE and goes on as the warp; a fence of it that waits counts anew what is before it. DESIGN
CHOICE (log 79): a deferred-error record of the ended instance passes to the same lane of the promoted one where that has none. -/
def liveWarp (w n : Warp) : Warp :=
  { n with
    hold := if n.hold = .untilLive then .none else n.hold
    frontier := n.frontier.map fun e => { e with mark := none }
    derr := n.derr.zipIdx.map fun p => p.1.or (w.derr.getD p.2 none)
    round := { n.round with
      ist := .live, atCmp := false, committed := w.round.committed + 1, offsets := w.round.offsets ++ n.round.offsets } }

/-- Instance j ends at a match and the next surviving one goes on as the warp: its sub-queues join the workgroup's
queues in program order (R124, R127). -/
def promote (s : State) (c sl g dst : Nat) (w : Warp) : State :=
  let s := dropWarp (orphanCopies s c sl) c sl
  let m := remapReq sl dst c
  let s := { s with net := s.net.map m, aside := s.aside.map m, msgs := s.msgs.map (remapMsg sl dst c) }
  let s := s.updSeq (clusterOf s c) fun q =>
    { q with fifo := q.fifo.map (remapFork sl dst c), cur := q.cur.map (remapFork sl dst c) }
  let joined := match fget s.wgs g with | some y => y.sub.countP fun r => decide (r.slot = dst) | none => 0
  let s := { s.updWg g fun y => joinQueues s y dst m with nextId := s.nextId + joined }
  s.updWarp c dst (liveWarp w)

/-- The lowest surviving instance above the issuing one. -/
def successor (x : Ctx) : Option (Nat × Warp) :=
  (higherInstances x.k x.g x.w.round.owner x.w.round.inst).foldl (fun b p =>
    match b with
    | some q => if p.2.round.inst < q.2.round.inst then some p else b
    | none => some p) none

/-- Do the computed carries match the successor's guess under the masks (R124)? -/
def carriesMatch (w : Warp) (n : Nat) : Bool :=
  let e := (fget w.round.entries n).getD []
  (List.range w.round.nc).all fun c => decide ((readS w c ^^^ e.getD c 0) &&& w.round.masks.getD c 0 = 0)

/-- The iterations committed once an instance is CONTINUING at SPCMP (Table 13.8). DEDUCED (log 82): one that was CONTINUING
before, by SPEND, adds none. -/
def committedAt (r : Round) : Nat := if r.ist = .live then r.committed + 1 else r.committed

/-- What SPCMP and SPEND wait for: a speculative instance stands at it until it is LIVE, and a squash until it may take its
generations (R113). -/
def cmpWait (s : State) (x : Ctx) (squashes : Bool) : Option Wait :=
  if speculative x.w then some .atCmp
  else if squashes && !gensReady s x.core (squashGens x) then some .warp
  else none

/-- SPCMP (R124). -/
def execSpcmp (f : FS) (s : State) : Outcome State Fault Refusal :=
  issue (.spcmp f) s fun x =>
    let r := x.w.round
    let next := (successor x).filter fun p => carriesMatch x.w p.2.round.inst
    { own := if r.st ≠ .running ∨ r.cmpDone then some (trapOf cSPEC) else none
      wait := cmpWait s x next.isNone
      next :=
        match next with
        | some p =>
          let s := s.updCore x.core fun k => { k with issueClock := k.issueClock + 1, quads := quadOf x.slot :: k.quads }
          promote s x.core x.slot x.g p.1 x.w
        | none =>
          let s := squashAbove s x.core x.slot
          goOn s x (s.core x.core)
            { x.w with round := { r with ist := .continuing, cmpDone := true, committed := committedAt r } } }

/-- SPEND: a live instance leaves early and becomes the continuing one, which closes the round at its own SPEND (R125). -/
def execSpend (f : FS) (s : State) : Outcome State Fault Refusal :=
  issue (.spend f) s fun x =>
    let r := x.w.round
    { own := if r.st ≠ .running then some (trapOf cSPEC) else none
      wait := cmpWait s x (decide (r.ist = .live))
      next :=
        if r.ist = .live then
          let s := squashAbove s x.core x.slot
          goOn s x (s.core x.core) { x.w with round := { r with ist := .continuing } }
        else goOn s x x.k { x.w with round := { r with st := .idle, inst := 0, ist := .none, privGen := 0, psize := 0 } } }

end Sys2Proof.Machine
end

