-- ==== Sys2Proof/Machine/MatrixBase.lean ====
section
/-! DEFINITION. The matrix arrays: tiles and their elements (R314), block sums (R169 to R172, R318), the suspect checks
(R322), the block Hadamard transform (R323) and the drain's conversions (R324). -/

namespace Sys2Proof.Machine

/-! ### Elements (Table 14.4, R70) -/

/-- Element n of `bits` bits of a slot. -/
def slotElem (m : Mem) (bits n : Nat) : Nat :=
  if 8 ≤ bits then memNat m (n * bits / 8) (bits / 8) else memNat m (n * bits / 8) 1 / 2 ^ (n * bits % 8) % 2 ^ bits

/-- K, the elements of a row, for elements of a size (R314). -/
def tileK (bits : Nat) : Nat := 512 / bits

/-- The element format of an MMA form. -/
def MmaFmt.bits : MmaFmt → Nat
  | .bf16 | .f16 => 16
  | .i8 .. | .p8 .. => 8
  | .e2m1 => 4

/-- The floating format of an operand; an integer operand has none. -/
def MmaFmt.flt : MmaFmt → Option Fmt
  | .bf16 => some .bf16
  | .f16 => some .f16
  | .i8 .. => none
  | .p8 p u inf => some (.p8 p u inf)
  | .e2m1 => some .e2m1

/-- The exact value of an operand element; `isB` tells B's signedness from A's. -/
def mmaElem (t : MmaFmt) (isB : Bool) (v : Nat) : Exact :=
  match t with
  | .i8 sa sb => .ofInt ((⟨8, if isB then sb else sa⟩ : ITy).dec (BitVec.ofNat 32 v))
  | .bf16 => Fmt.bf16.decode v
  | .f16 => Fmt.f16.decode v
  | .p8 p u inf => (Fmt.p8 p u inf).decode v
  | .e2m1 => Fmt.e2m1.decode v

/-! ### Block sums (R169, R171, R172) -/

/-- An exact sum, which as a number has no negative zero (R169, R323). -/
def blockSum (xs : List Exact) : Exact × Flags :=
  match exactSum .rne xs with
  | (.fin _ 0 _, f) => (.fin false 0 0, f)
  | r => r

/-- The exact sum of the products of two blocks, with the flags of their special cases. -/
def blockDot (as bs : List Exact) : Exact × Flags :=
  let ps := (as.zip bs).map fun p => exactMul p.1 p.2
  let r := blockSum (ps.map Prod.fst)
  (r.1, ps.foldl (fun f p => f ||| p.2) r.2)

/-- An accumulator element, FP32 plus FP32 (R169, R170). -/
def accAdd (c : Word) (p : Exact) : Nat × Flags :=
  let r := exactSum .rne [Fmt.f32.decode c.toNat, p]
  let q := roundExact .f32 .rne false r.1
  (q.1, r.2 ||| q.2)

/-! ### Suspect bounds (R322) -/

/-- The largest finite magnitude of an operand of a format. -/
def operandMax (t : MmaFmt) (isB : Bool) : Exact :=
  match t with
  | .i8 sa sb => .ofInt (if (if isB then sb else sa) then 128 else 255)
  | .bf16 => Fmt.bf16.magnitude false Fmt.bf16.maxCode
  | .f16 => Fmt.f16.magnitude false Fmt.f16.maxCode
  | .p8 p u inf => (Fmt.p8 p u inf).magnitude false (Fmt.p8 p u inf).maxCode
  | .e2m1 => .ofInt 6

/-- B = 32 × amax × bmax. -/
def blockBound (t : MmaFmt) : Exact :=
  (exactMul (.ofInt 32) (exactMul (operandMax t false) (operandMax t true)).1).1

/-- Is a finite block sum beyond the bound? A block with a NaN or an infinity is not compared. -/
def sumSuspect (t : MmaFmt) (as bs : List Exact) (s : Exact) : Bool :=
  let special (x : Exact) : Bool := match x with | .fin .. => false | .nan _ | .inf _ => true
  if (as ++ bs).any special then false
  else match s with | .fin _ m e => decide (0 < exactCmp (.fin false m e) (blockBound t)) | .nan _ | .inf _ => false

/-- ⌊log2⌋ of a finite nonzero magnitude. -/
def log2Floor (m : Nat) (e : Int) : Int := (m.log2 : Int) + e
/-- ⌈log2⌉ of a finite nonzero magnitude. -/
def log2Ceil (m : Nat) (e : Int) : Int := if 2 ^ m.log2 = m then (m.log2 : Int) + e else (m.log2 : Int) + 1 + e

/-- Is an MSCACC product beyond its bound? -/
def scaleSuspect (t : Option MmaFmt) (p pr : Exact) (r c : Nat) : Bool :=
  match t with
  | none => false
  | some t =>
    match p, pr, blockBound t with
    | .fin _ m _, .fin _ n e, .fin _ b f =>
      decide (m ≠ 0) && decide (((r / 4 : Nat) : Int) - 127 + (((c / 4 : Nat) : Int) - 127) + 2 + log2Ceil b f < log2Floor n e)
    | _, _, _ => false

/-! ### Arrays -/

/-- Element n of a sparse tile of words. -/
def tileAt (m : FMap Word) (n : Nat) : Word := (fget m n).getD 0
/-- A tile from its 16,384 elements; zeros are not listed. -/
def tileOf (f : Nat → Word) : FMap Word :=
  (List.range 16384).filterMap fun n => if f n = 0 then none else some (n, f n)
/-- An accumulator. -/
def arrAcc (a : MArray) (n : Nat) : FMap Word := (fget a.acc n).getD []
/-- A partial tile. -/
def arrPb (a : MArray) (n : Nat) : FMap Word := (fget a.pb n).getD []
/-- A slot. -/
def arrSlot (a : MArray) (n : Nat) : Mem := (fget a.slots n).getD []

/-- What an operation does to one array: the array after it, and whether it was suspect. -/
abbrev ArrStep := MArray × Bool

/-- The elements of row i of an A operand, or of column i of a B operand, in the block that starts at lo. -/
def operandBlock (t : MmaFmt) (m : Mem) (isB : Bool) (i lo : Nat) : List Exact :=
  (List.range 32).map fun n => mmaElem t isB (slotElem m t.bits (i * tileK t.bits + lo + n))

/-- A finite result of an array with what its arithmetic adds to element n of it (R322). -/
def faulty (fault : Option (Nat × Int)) (n : Nat) (x : Exact) : Exact :=
  match fault, x with
  | some (e, err), .fin .. => if e = n then (exactSum .rne [x, .ofInt err]).1 else x
  | _, _ => x

/-- A block's sums at every output position: the sum, its flags and whether it is suspect. -/
def blockAll (fault : Option (Nat × Int)) (t : MmaFmt) (a b : Mem) (lo : Nat) : List (Exact × Flags × Bool) :=
  let rows := (List.range 128).map fun i => operandBlock t a false i lo
  let cols := (List.range 128).map fun j => operandBlock t b true j lo
  rows.zipIdx.flatMap fun r => cols.zipIdx.map fun c =>
    let d := blockDot r.1 c.1
    let x := faulty fault (128 * r.2 + c.2) d.1
    (x, d.2, sumSuspect t r.1 c.1 x)

/-- One plain block added to an accumulator: FP32 partials rounded once each, or integer sums modulo 2^32. -/
def addBlock (t : MmaFmt) (b : Mem) (sa n : Nat) (r : ArrStep) (k : Nat) : ArrStep :=
  let all := blockAll r.1.fault t (arrSlot r.1 sa) b (32 * k)
  let old := arrAcc r.1 n
  let out := all.zipIdx.map fun p =>
    match t.flt with
    | none =>
      (match p.1.1 with
        | .fin ng m e => BitVec.ofInt 32 ((tileAt old p.2).toInt + unitsAt ng m e 0)
        | .nan _ | .inf _ => tileAt old p.2, (0 : Flags))
    | some _ =>
      let pk := roundExact .f32 .rne false p.1.1
      let s := accAdd (tileAt old p.2) (Fmt.f32.decode pk.1)
      (wd s.1, p.1.2.1 ||| pk.2 ||| s.2)
  let tile := (out.zipIdx.filter fun p => decide (p.1.1 ≠ 0)).map fun p => (p.2, p.1.1)
  ({ r.1 with fault := none, acc := fput r.1.acc n tile, flags := out.foldl (fun f p => f ||| p.2) r.1.flags },
    r.2 || all.any fun p => p.2.2)

/-- A plain MMA form: every block of K in ascending order (R317). -/
def mmaPlain (t : MmaFmt) (b : Mem) (sa n : Nat) (a : MArray) : ArrStep :=
  (List.range (tileK t.bits / 32)).foldl (addBlock t b sa n) (a, false)

/-- An MX form: the partial of block k into a partial tile, with its format (R317). -/
def mmaMx (t : MmaFmt) (b : Mem) (sa n k : Nat) (a : MArray) : ArrStep :=
  let all := blockAll a.fault t (arrSlot a sa) b (32 * k)
  let out := all.map fun p => (roundExact .f32 .rne false p.1, p.2.1)
  let tile := (out.zipIdx.filter fun p => decide (p.1.1.1 ≠ 0)).map fun p => (p.2, wd p.1.1.1)
  ({ a with fault := none, pb := fput a.pb n tile, pbFmt := fput a.pbFmt n t, flags := out.foldl (fun f p => f ||| p.1.2 ||| p.2) a.flags },
    all.any fun p => p.2.2)

/-- MMB: counts of ones over 512 bits (R172, R318), each group of 32 checked against 32 (R322). -/
def mmbRun (isAnd : Bool) (b : Mem) (sa n : Nat) (a : MArray) : ArrStep :=
  let am := arrSlot a sa
  let row (m : Mem) (i : Nat) : Nat := memNat m (i * 64) 64
  let ones (i j g : Nat) : Nat :=
    let v := if isAnd then row am i &&& row b j else row am i ^^^ row b j
    ((List.range 32).filter fun k => v.testBit (32 * g + k)).length
  let count (e g : Nat) : Int :=
    ones (e / 128) (e % 128) g + (match a.fault with | some (m, err) => if m = e ∧ g = 0 then err else 0 | none => 0)
  let sum (e : Nat) : Int := ((List.range 16).map (count e)).sum
  ({ a with fault := none, acc := fput a.acc n (tileOf fun e => tileAt (arrAcc a n) e + BitVec.ofInt 32 (sum e)) },
    (List.range 16384).any fun e => (List.range 16).any fun g => decide (32 < (count e g).natAbs))

/-- One element of MSCACC (R170), whose product comes out as `err` makes it: its code, its flags and whether it is suspect. -/
def scaledAdd (err : Exact → Exact) (t : Option MmaFmt) (c p : Word) (r k : Nat) : Nat × Flags × Bool :=
  let x := Fmt.f32.decode p.toNat
  match s10Decode r, s10Decode k with
  | .fin .., .fin .. =>
    let pr := err (exactMul (exactMul x (s10Decode r)).1 (s10Decode k)).1
    let f := (exactMul x (s10Decode r)).2
    let s := accAdd c pr
    (s.1, f ||| s.2, scaleSuspect t x pr r k)
  | _, _ => (Fmt.f32.nanCode, nvOf [Fmt.f32.decode c.toNat, x], false)

/-- MSCACC (R321). -/
def mscaccRun (n pbn : Nat) (a : MArray) : ArrStep :=
  let out := (List.range 16384).map fun e =>
    scaledAdd (faulty a.fault e) (fget a.pbFmt pbn) (tileAt (arrAcc a n) e) (tileAt (arrPb a pbn) e)
      ((fget a.srow (e / 128)).getD 0) ((fget a.scol (e % 128)).getD 0)
  let tile := (out.zipIdx.filter fun p => decide (p.1.1 ≠ 0)).map fun p => (p.2, wd p.1.1)
  ({ a with fault := none, acc := fput a.acc n tile, flags := out.foldl (fun f p => f ||| p.2.1) a.flags }, out.any fun p => p.2.2)

/-! ### The Hadamard transform (R323) -/

/-- The sign of term v in output u. -/
def hadNeg (u v : Nat) : Bool := decide (((List.range 6).filter fun i => (u &&& v).testBit i).length % 2 = 1)

/-- The transform of one group of codes of a format. -/
def hadGroup (t : Fmt) (g : List Nat) : List (Nat × Flags) :=
  let xs := g.map t.decode
  (List.range g.length).map fun u =>
    let s := blockSum (xs.zipIdx.map fun p => if hadNeg u p.2 then p.1.neg else p.1)
    let r := roundExact t .rne false s.1
    (r.1, s.2 ||| r.2)

/-- Every group of n of a list. -/
def hadAll (t : Fmt) (n : Nat) (xs : List Nat) : List (Nat × Flags) :=
  (List.range (xs.length / n)).flatMap fun i => hadGroup t ((xs.drop (i * n)).take n)

/-- Flags of a list of results. -/
def flagsOf (xs : List (Nat × Flags)) : Flags := xs.foldl (fun f p => f ||| p.2) 0

/-- MHAD on an accumulator. -/
def hadAcc (n an : Nat) (a : MArray) : MArray :=
  let out := hadAll .f32 n ((List.range 16384).map fun e => (tileAt (arrAcc a an) e).toNat)
  { a with
    acc := fput a.acc an ((out.zipIdx.filter fun p => decide (p.1.1 ≠ 0)).map fun p => (p.2, wd p.1.1))
    flags := a.flags ||| flagsOf out }

/-- MHAD on a slot of 16-bit elements. -/
def hadSlot (t : Fmt) (n sl : Nat) (a : MArray) : MArray :=
  let out := hadAll t n ((List.range 4096).map fun e => slotElem (arrSlot a sl) 16 e)
  { a with
    slots := fput a.slots sl (memWriteBytes [] 0 (out.flatMap fun p => bytesOfNat 2 p.1))
    flags := a.flags ||| flagsOf out }

/-! ### The drain (R324) -/

/-- Does a drain quantise to this format code? -/
def drainQuant (fmt : Nat) : Bool := decide (fmt = 9 ∨ (0x11 ≤ fmt ∧ fmt ≤ 0x17) ∨ (0x19 ≤ fmt ∧ fmt ≤ 0x1F))

/-- Bytes of a drain's destination (Table 14.6). -/
def drainBytes (fmt : Nat) : Nat :=
  if fmt = 4 ∨ fmt = 5 ∨ fmt = 6 then 65536
  else if fmt = 7 ∨ fmt = 8 then 32768
  else if fmt = 9 then 8192 + 1024
  else 16384 + 1024

/-- One block quantised: its elements and its scale container. -/
def drainBlock (f : Fmt) (mode : RMode) (sat : Bool) (xs : List Exact) : List (Nat × Flags) × Nat × Flags :=
  let d := deriveScale f xs
  if d.2 then (xs.map fun _ => (0, 0), d.1, fNV)
  else (xs.map fun x => quantElement f mode sat x d.1, d.1, 0)

/-- Pack 4-bit codes two to a byte, the first in the low half (R70). -/
def packNibbles : List Nat → List Byte
  | a :: b :: r => BitVec.ofNat 8 (a + 16 * b) :: packNibbles r
  | [a] => [BitVec.ofNat 8 a]
  | [] => []

/-- The bytes a drain writes, and its flags. -/
def drainData (fmt : Nat) (inf : Bool) (rnd : Nat) (sat : Bool) (acc : FMap Word) : List Byte × Flags :=
  let els := (List.range 16384).map fun e => (tileAt acc e).toNat
  let mode := RMode.ofCode rnd
  match fmtOfCode fmt inf with
  | some f =>
    if fmt = 6 then (els.flatMap (bytesOfNat 4), 0)
    else if fmt = 7 ∨ fmt = 8 then
      let out := els.map fun v => convertFloat f mode sat (Fmt.f32.decode v)
      (out.flatMap fun p => bytesOfNat 2 p.1, flagsOf out)
    else
      let bl := (List.range 512).map fun b => drainBlock f mode sat (((els.drop (32 * b)).take 32).map Fmt.f32.decode)
      let codes := bl.flatMap Prod.fst
      let body := if fmt = 9 then packNibbles (codes.map Prod.fst) else codes.map fun p => BitVec.ofNat 8 p.1
      (body ++ bl.flatMap fun p => bytesOfNat 2 p.2.1, bl.foldl (fun g p => g ||| p.2.2) (flagsOf codes))
  | none => (els.flatMap (bytesOfNat 4), 0)

end Sys2Proof.Machine
end

