-- ==== Sys2Proof/Machine/Matrix.lean ====
section
/-! DEFINITION. The matrix sequencer: the checks at issue (R311, R312), the meanings of the MATRIX page (R313 to R325), and
the steps of its programs and arrays (R47, R89, R308, R309). -/

namespace Sys2Proof.Machine

open Host (Outcome)

/-! ### The array set (R307) -/

/-- A program fails with a code: the first failure decides, and one of an operation still running replaces EXIT's 1. -/
def seqFail (s : State) (cl code : Nat) : State :=
  let q := s.seq cl
  if q.cur.isSome ∧ (q.ending = none ∨ q.ending = some 1) then
    seqFinish (s.updSeq cl fun q => { q with ending := some code }) cl
  else s

/-- Issued matrix operations not completed (R308). -/
def mxIssued (q : Sequencer) : Nat := q.queue.length + (if q.running.isSome then 1 else 0)

/-- The members of the array set: position, workgroup number and workgroup. -/
def mxSet (s : State) (q : Sequencer) : List (Nat × Nat × Wg) :=
  q.members.filterMap fun p => (fget s.wgs p.2).map fun g => (p.1, p.2, g)

/-- The bits set in a slot mask. -/
def maskSlots (v : Word) : List Nat := (List.range 16).filter v.getLsbD

/-- The claims of an array once the operations already issued have run. -/
def claimsAt (q : Sequencer) (a : MArray) : List Nat :=
  q.queue.foldl (fun cs o =>
    match o.instr with
    | .mclaim _ => cs ++ maskSlots (BitVec.ofNat 32 o.value)
    | .mrel _ => cs.filter fun k => !(maskSlots (BitVec.ofNat 32 o.value)).contains k
    | _ => cs) a.claims

/-- Is a slot unclaimed on some array of some positions (R312)? -/
def slotMisuse (s : State) (q : Sequencer) (n : Nat) (at_ : Nat → Bool) : Bool :=
  (mxSet s q).any fun p => at_ p.1 && !(claimsAt q (s.core p.2.2.core).array).contains n

/-- The alignment and bounds of a scratchpad range at an offset, on the arrays of some positions. -/
def rangeCode (s : State) (q : Sequencer) (off n : Nat) (at_ : Nat → Bool) : Option Nat :=
  if off % 64 ≠ 0 then some 5
  else if (mxSet s q).any fun p => at_ p.1 && decide (p.2.2.size < off + n) then some 0x11
  else none

/-- Every position. -/
def everywhere (_ : Nat) : Bool := true

/-- Issue a matrix operation: its checks, or a place in the queue; a full queue holds the sequencer (R308, R312). -/
def matrixOp (i : Instr) (qa : BitVec 5) (s : State) (check : Sequencer → Nat → Option Nat) : Outcome State Fault Refusal :=
  issueIn i s (fun x => { next := goOn s x x.k x.w }) fun cl q =>
    let v := (seqQ q qa.toNat).toNat
    if 8 ≤ mxIssued q then s
    else
      match check q v with
      | some code => seqFail s cl code
      | none => s.updSeq cl fun q => seqStep { q with queue := q.queue ++ [{ instr := i, value := v }] } 1

/-! ### The meanings (Table 14.3) -/

/-- MCLAIM (R313). -/
def execMclaim (f : FQ) (s : State) : Outcome State Fault Refusal :=
  matrixOp (.mclaim f) f.qa s fun q v =>
    if (mxSet s q).any fun p => (maskSlots (BitVec.ofNat 32 v)).any fun k => (claimsAt q (s.core p.2.2.core).array).contains k
    then some 0xF else none

/-- MREL (R313). -/
def execMrel (f : FQ) (s : State) : Outcome State Fault Refusal :=
  matrixOp (.mrel f) f.qa s fun q v =>
    if (maskSlots (BitVec.ofNat 32 v)).any fun k => slotMisuse s q k everywhere then some 0xF else none

/-- MFILL into a slot (R315). -/
def execMfill (f : FQ) (s : State) : Outcome State Fault Refusal :=
  matrixOp (.mfill f) f.qa s fun q v =>
    if slotMisuse s q f.x.toNat everywhere then some 0xF else rangeCode s q v 8192 everywhere

/-- What the argument read of a program finds: its 16 bytes, a failure, a fault to wait for, a wait, or poison. -/
inductive ArgRead where
  | ok (v : Nat) | fail (code : Nat) | stall | wait | poison (at_ : Bad)
  deriving DecidableEq, Repr

/-- Is some granule of a range unverified (R145)? -/
def unverifiedAt (g : Wg) (off n : Nat) : Bool :=
  (List.range ((off + n + 63) / 64 - off / 64)).any fun i => g.ck.unverified.contains (off / 64 + i)

/-- Read 16 argument bytes for a forked program (R315, R423 aside: the sequencer waits for the pager). -/
def argRead (s : State) (fk : Fork) (va : Nat) : State × ArgRead :=
  let k := devOfCore s fk.core
  match fget s.wgs fk.wg with
  | none => (s, .fail 0x11)
  | some g =>
    match fget s.launches g.launch with
    | none => (s, .fail 0x11)
    | some l =>
      match regionOf va with
      | .paged =>
        match awayXlate s k (dieOf fk.core) (some fk.core) l.id l.rec_.space va false 33 with
        | (s, .ok pa) =>
          (s, if (s.die (homeDie s k pa)).stopped || lineHeld s k pa 16 then .wait
              else if poisoned s k pa 16 then .poison (.mem pa) else .ok (physNat s k pa 16))
        | (s, .fail) => (s, .stall)
        | (s, .wait) => (s, .wait)
      | .slice idx off =>
        match coreOfIdx s k idx with
        | none => (s, .fail 0x11)
        | some c =>
          if addressable (s.dev k).hcshare < off + 16 then (s, .fail 0x11)
          else
            match allocAt s c g.launch off 16 with
            | none => (s, .fail 0x11)
            | some (n, h) =>
              if n ≠ fk.wg ∧ unverifiedAt h off 16 ∨ (s.die (dieOf c)).stopped then (s, .wait)
              else if l.rec_.genTrap ∧ rangeStale (s.core c) h.gen off 16 then (s, .fail 4)
              else if slicePoison (s.core c) h.gen off 16 then (s, .poison (.slice c))
              else (s, .ok (sliceNat (s.core c) h.gen off 16))
      | .peer .. | .local_ _ | .reserved => (s, .fail 0x11)

/-- An argument read that waits, numbered and since when if it crosses dies (R405). -/
def argWaits (s : State) (cl : Nat) (fk : Fork) (va : Nat) : State :=
  let k := devOfCore s fk.core
  let away :=
    match regionOf va with
    | .paged =>
      let space := match fget s.wgs fk.wg with | some g => (match fget s.launches g.launch with | some l => l.rec_.space | none => 0) | none => 0
      (match walkPage s k space va with
        | .leaf p _ size => decide (homeDie s k (pteAddr p + va % size) ≠ dieOf fk.core)
        | .bad .. => false)
    | .slice idx _ => (match coreOfIdx s k idx with | some c => decide (dieOf c ≠ dieOf fk.core) | none => false)
    | .peer .. | .local_ _ | .reserved => false
  if away && (s.seq cl).argAt.isNone then
    { s.updSeq cl fun q => { q with argAt := some (s.nextId, (s.core fk.core).cycle) } with nextId := s.nextId + 1 }
  else s

/-- Does an argument block in scratchpad wait for an MDRAIN that the program has issued (R326)? -/
def drainsBefore (q : Sequencer) (va : Nat) : Bool :=
  (match regionOf va with | .slice .. => true | _ => false) &&
    (q.running.toList ++ q.queue).any fun o => match o.instr with | .mdrain _ => true | _ => false

/-- MFILL.arg: four argument words into q registers, read once at issue (R315). -/
def execMfillArg (f : FQ) (s : State) : Outcome State Fault Refusal :=
  issueIn (.mfillArg f) s (fun x => { next := goOn s x x.k x.w }) fun cl q =>
    match q.cur with
    | none => s
    | some fk =>
      let va := q.argaddr.toNat + 16 * f.x.toNat
      if q.argaddr.toNat % 16 ≠ 0 then seqFail s cl 5
      else if drainsBefore q va then s
      else
        match argRead s fk va with
        | (s, .ok v) =>
          s.updSeq cl fun q =>
            { seqStep ((List.range 4).foldl (fun q m => setQ q (f.qa.toNat + m) (BitVec.ofNat 32 (v / 2 ^ (32 * m)))) q) 1 with
              argAt := none }
        | (s, .fail code) => seqFail s cl code
        | (s, .stall) => s.updSeq cl fun q => { q with stalled := some va }
        | (s, .wait) => argWaits s cl fk va
        | (s, .poison b) =>
          match fget s.wgs fk.wg with
          | some g => badReplay s g.launch (dieOf fk.core) b
          | none => s

/-- MZERO (R316). -/
def execMzero (f : FQ) (s : State) : Outcome State Fault Refusal := matrixOp (.mzero f) 0 s fun _ _ => none

/-- MDRAIN (R324). -/
def execMdrain (f : FQ) (s : State) : Outcome State Fault Refusal :=
  matrixOp (.mdrain f) f.qa s fun q v => rangeCode s q v (drainBytes (f.mode.toNat % 64)) everywhere

/-- MWAIT (R325). -/
def execMwait (f : FQ) (s : State) : Outcome State Fault Refusal :=
  issueIn (.mwait f) s (fun x => { next := goOn s x x.k x.w }) fun cl q =>
    if mxIssued q = 0 then s.updSeq cl fun q => seqStep q 1 else s

/-- MSTAT (Table 14.7). -/
def execMstat (f : FQ) (s : State) : Outcome State Fault Refusal :=
  issueIn (.mstat f) s (fun x => { next := goOn s x x.k x.w }) fun cl q =>
    if mxIssued q ≠ 0 then s
    else
      let set := mxSet s q
      let arr (p : Nat × Nat × Wg) : MArray := (s.core p.2.2.core).array
      let v := (set.map fun p => 2 ^ (16 + p.1) + bit (arr p).suspect * 2 ^ (12 + p.1)).sum +
        (set.foldl (fun (g : Flags) p => g ||| (arr p).flags) 0).toNat
      let s :=
        if f.mode.getLsbD 0 then
          set.foldl (fun s p => s.updCore p.2.2.core fun k => { k with array := { k.array with flags := 0 } }) s
        else s
      s.updSeq cl fun q => seqStep (setQ q f.qa.toNat (BitVec.ofNat 32 v)) 1

/-- MSCL (R320). -/
def execMscl (f : FQ) (s : State) : Outcome State Fault Refusal :=
  let p := f.mode.toNat / 4
  let bc := f.mode.getLsbD 1
  matrixOp (.mscl f) f.qa s fun q v =>
    match rangeCode s q v 256 fun n => !bc || decide (n = p) with
    | some code => some code
    | none => if bc && (fget q.members p).isNone then some 0x11 else none

/-- MSCACC (R321). -/
def execMscacc (f : FQ) (s : State) : Outcome State Fault Refusal := matrixOp (.mscacc f) 0 s fun _ _ => none

/-- MHAD (R323). -/
def execMhad (f : FQ) (s : State) : Outcome State Fault Refusal :=
  matrixOp (.mhad f) 0 s fun q _ =>
    if !f.mode.getLsbD 6 && slotMisuse s q f.x.toNat everywhere then some 0xF else none

/-- The checks of a product: the A slot everywhere, the B slot at its source, the source in the set (R312, R317). -/
def mmaCheck (f : FQ) (s : State) (q : Sequencer) (v : Nat) : Option Nat :=
  if slotMisuse s q f.x.toNat everywhere || slotMisuse s q f.y.toNat (fun n => decide (n = v % 4)) then some 0xF
  else if (fget q.members (v % 4)).isNone then some 0x11
  else none

/-- MMB (R318). -/
def execMmb (f : FQ) (s : State) : Outcome State Fault Refusal := matrixOp (.mmb f) f.qa s (mmaCheck f s)
/-- MMA.bf16 (R317). -/
def execMmaBf16 (f : FQ) (s : State) : Outcome State Fault Refusal := matrixOp (.mmaBf16 f) f.qa s (mmaCheck f s)
/-- MMA.f16 (R317). -/
def execMmaF16 (f : FQ) (s : State) : Outcome State Fault Refusal := matrixOp (.mmaF16 f) f.qa s (mmaCheck f s)
/-- MMA.i8 (R317). -/
def execMmaI8 (f : FQ) (s : State) : Outcome State Fault Refusal := matrixOp (.mmaI8 f) f.qa s (mmaCheck f s)
/-- MMA.pP (R317). -/
def execMmaP8 (f : FQ) (s : State) : Outcome State Fault Refusal := matrixOp (.mmaP8 f) f.qa s (mmaCheck f s)
/-- MMA.e2m1 (R317). -/
def execMmaE2m1 (f : FQ) (s : State) : Outcome State Fault Refusal := matrixOp (.mmaE2m1 f) f.qa s (mmaCheck f s)
/-- MMA.mx.pP (R317). -/
def execMmaMxp8 (f : FQ) (s : State) : Outcome State Fault Refusal := matrixOp (.mmaMxp8 f) f.qa s (mmaCheck f s)
/-- MMA.mx.e2m1 (R317). -/
def execMmaMxe2m1 (f : FQ) (s : State) : Outcome State Fault Refusal := matrixOp (.mmaMxe2m1 f) f.qa s (mmaCheck f s)

/-! ### Operations on the arrays -/

/-- Change every array of the set; suspect ones are flagged, logged, and end the program (R322). -/
def onArrays (s : State) (cl : Nat) (scaled : Bool) (f : Nat × Nat × Wg → MArray → ArrStep) : State :=
  (mxSet s (s.seq cl)).foldl (fun s p =>
    let r := f p (s.core p.2.2.core).array
    let a := if r.2 then { r.1 with suspect := true, suspectAcc := r.1.suspectAcc || scaled } else r.1
    let s := s.updCore p.2.2.core fun k => { k with array := a }
    let id := match fget s.launches p.2.2.launch with | some l => l.id | none => 0
    if r.2 then seqFail (noteSuspect s p.2.2.core id) cl 9 else s) s

/-- Change every array of the set, with nothing to suspect. -/
def onArraysPlain (s : State) (cl : Nat) (f : Nat × Nat × Wg → MArray → MArray) : State :=
  onArrays s cl false fun p a => (f p a, false)

/-- Does a read of the set's scratchpads meet a stale granule under policy trap (R312)? -/
def mxStale (s : State) (cl off n : Nat) (at_ : Nat → Bool) : Bool :=
  (mxSet s (s.seq cl)).any fun p =>
    at_ p.1 && (match fget s.launches p.2.2.launch with | some l => l.rec_.genTrap | none => false) &&
      rangeStale (s.core p.2.2.core) p.2.2.gen (p.2.2.base + off) n

/-- The launch and core of a position whose scratchpad range holds uncorrectable data (R153, log 95). -/
def mxPoison (s : State) (cl off n : Nat) (at_ : Nat → Bool) : Option (Nat × Nat) :=
  (mxSet s (s.seq cl)).findSome? fun p =>
    if at_ p.1 && slicePoison (s.core p.2.2.core) p.2.2.gen (p.2.2.base + off) n then some (p.2.2.launch, p.2.2.core) else none

/-- Is the clock of a cluster's die stopped (R3, R421)? -/
def clusterStopped (s : State) (cl : Nat) : Bool := (s.die (cl / 40)).stopped

/-- Bytes of a member's own allocation (R57, R109). -/
def memberBytes (s : State) (g : Wg) (off n : Nat) : List Byte := sliceBytes (s.core g.core) g.gen (g.base + off) n

/-! ### Chunks that move ahead of the rest (R326) -/

/-- The chunks of one source of a position: a slot, or 16 for the scratchpad. -/
def partsOf (part : List MxChunk) (pos src : Nat) : List MxChunk := part.filter fun p => decide (p.pos = pos ∧ p.src = src)

/-- Bytes of a scratchpad range with the chunks read before. -/
def overBytes (part : List MxChunk) (pos : Nat) (bs : List Byte) : List Byte :=
  (partsOf part pos 16).foldl (fun bs p => bs.take (16 * p.chunk) ++ p.data ++ bs.drop (16 * p.chunk + 16)) bs

/-- A slot with the chunks read before. -/
def overSlot (part : List MxChunk) (pos sl : Nat) (m : Mem) : Mem :=
  (partsOf part pos sl).foldl (fun m p => memWriteBytes m (16 * p.chunk) p.data) m

/-- The slots of an array, one with the chunks read before. -/
def slotParts (part : List MxChunk) (pos sl : Nat) (slots : FMap Mem) : FMap Mem :=
  match partsOf part pos sl with
  | [] => slots
  | _ :: _ => fput slots sl (overSlot part pos sl ((fget slots sl).getD []))

/-- What an operation makes of an array when it reads one of its slots so; the slot itself stays. -/
def readSlot (part : List MxChunk) (pos sl : Nat) (run : MArray → ArrStep) (a : MArray) : ArrStep :=
  match partsOf part pos sl with
  | [] => run a
  | _ :: _ =>
    let r := run { a with slots := slotParts part pos sl a.slots }
    ({ r.1 with slots := a.slots }, r.2)

/-- Write a drain's bytes: all but the chunks written before. -/
def drainWrite (s : State) (g pos : Nat) (part : List MxChunk) (v : Nat) (bs : List Byte) : State :=
  match partsOf part pos 16 with
  | [] => wgWrite s g v bs
  | ps => (List.range (bs.length / 16)).foldl (fun s i =>
      if ps.any fun p => decide (p.chunk = i) then s else wgWrite s g (v + 16 * i) ((bs.drop (16 * i)).take 16)) s

/-- The B slot of the source position. -/
def sourceSlot (s : State) (cl : Nat) (f : FQ) (v : Nat) (part : List MxChunk) : Mem :=
  match (mxSet s (s.seq cl)).find? fun p => decide (p.1 = v % 4) with
  | some p => overSlot part p.1 f.y.toNat (arrSlot (s.core p.2.2.core).array f.y.toNat)
  | none => []

/-- A product on every array of the set. -/
def productRun (s : State) (cl : Nat) (f : FQ) (v : Nat) (part : List MxChunk) (run : Mem → Nat → Nat → MArray → ArrStep) : State :=
  let b := sourceSlot s cl f v part
  onArrays s cl false fun p => readSlot part p.1 f.x.toNat fun a => run b f.x.toNat (f.mode.toNat / 64) a

/-- The mode field's binary8pP format. -/
def p8Of (f : FQ) : MmaFmt := .p8 (f.mode.toNat / 2 % 8) (f.mode.getLsbD 4) (f.mode.getLsbD 5)

/-- Load scale vectors: 128 containers of which bits [9:0] are used (R320). -/
def scaleOf (bs : List Byte) : FMap Nat :=
  (List.range 128).filterMap fun i =>
    let v := natOfBytes ((bs.drop (2 * i)).take 2) % 1024
    if v = 0 then none else some (i, v)

/-- MSCL on the arrays. -/
def msclRun (s : State) (cl : Nat) (f : FQ) (v : Nat) (part : List MxChunk) : State :=
  let src := f.mode.toNat / 4
  let bc := f.mode.getLsbD 1
  let reads (n : Nat) : Bool := !bc || decide (n = src)
  if mxStale s cl v 256 reads then seqFail s cl 4
  else
  match mxPoison s cl v 256 reads with
  | some p => slicePoisonReplay s p.1 p.2
  | none =>
    let set := mxSet s (s.seq cl)
    onArraysPlain s cl fun p a =>
      let from_ := if bc then (set.find? fun y => decide (y.1 = src)).getD p else p
      let x := scaleOf (overBytes part from_.1 (memberBytes s from_.2.2 v 256))
      if f.mode.getLsbD 0 then { a with scol := x } else { a with srow := x }

/-- What a drain makes of an array's accumulator. -/
def drainOf (f : FQ) (a : MArray) : List Byte × Flags :=
  drainData (f.mode.toNat % 64) (f.mode.getLsbD 6) (f.y.toNat % 8) (f.y.getLsbD 3) (arrAcc a f.x.toNat)

/-- MDRAIN on the arrays. -/
def mdrainRun (s : State) (cl : Nat) (f : FQ) (v : Nat) (part : List MxChunk) : State :=
  (mxSet s (s.seq cl)).foldl (fun s p =>
    let d := drainOf f (s.core p.2.2.core).array
    let s := drainWrite s p.2.1 p.1 part v d.1
    s.updCore p.2.2.core fun k => { k with array := { k.array with flags := k.array.flags ||| d.2 } }) s

/-- What an issued matrix operation does when the arrays start it; some chunks of it may have moved before. -/
def mxRun (s : State) (cl : Nat) (o : MxOp) (part : List MxChunk) : State :=
  let v := o.value
  match o.instr with
  | .mclaim _ => onArraysPlain s cl fun _ a => { a with claims := a.claims ++ maskSlots (BitVec.ofNat 32 v) }
  | .mrel _ =>
    onArraysPlain s cl fun _ a =>
      { a with claims := a.claims.filter fun k => !(maskSlots (BitVec.ofNat 32 v)).contains k }
  | .mfill f =>
    if mxStale s cl v 8192 everywhere then seqFail s cl 4
    else
      match mxPoison s cl v 8192 everywhere with
      | some p => slicePoisonReplay s p.1 p.2
      | none =>
        onArraysPlain s cl fun p a =>
          { a with slots := fput a.slots f.x.toNat (memWriteBytes [] 0 (overBytes part p.1 (memberBytes s p.2.2 v 8192))) }
  | .mzero f =>
    onArraysPlain s cl fun _ a =>
      (List.range 2).foldl (fun a n =>
        let a := if f.mode.getLsbD n then { a with acc := fdel a.acc n } else a
        if f.mode.getLsbD (2 + n) then { a with pb := fdel a.pb n, pbFmt := fdel a.pbFmt n } else a) a
  | .mdrain f => mdrainRun s cl f v part
  | .mscl f => msclRun s cl f v part
  | .mscacc f => onArrays s cl true fun _ a => mscaccRun f.x.toNat f.y.toNat a
  | .mhad f =>
    let n := 16 * 2 ^ (f.mode.toNat % 4)
    onArraysPlain s cl fun p a =>
      if f.mode.getLsbD 6 then hadAcc n f.x.toNat a
      else
        hadSlot (if f.mode.getLsbD 4 then .f16 else .bf16) n f.x.toNat
          { a with slots := slotParts part p.1 f.x.toNat a.slots }
  | .mmb f => productRun s cl f v part (mmbRun (f.mode.getLsbD 0))
  | .mmaBf16 f => productRun s cl f v part (mmaPlain .bf16)
  | .mmaF16 f => productRun s cl f v part (mmaPlain .f16)
  | .mmaI8 f => productRun s cl f v part (mmaPlain (.i8 (f.mode.getLsbD 5) (f.mode.getLsbD 4)))
  | .mmaP8 f => productRun s cl f v part (mmaPlain (p8Of f))
  | .mmaE2m1 f => productRun s cl f v part (mmaPlain .e2m1)
  | .mmaMxp8 f => productRun s cl f v part fun b sa n a => mmaMx (p8Of f) b sa n (f.mode.toNat % 2) a
  | .mmaMxe2m1 f => productRun s cl f v part fun b sa n a => mmaMx .e2m1 b sa n (f.mode.toNat % 4) a
  | _ => s

/-! ### The steps of a program and of the arrays -/

/-- May the oldest forked program start: the reads and lane-queue entries before its FORK are done (R89)? -/
def forkReady (s : State) (f : Fork) : Bool :=
  let reads := match s.warp? f.core f.slot with
    | some w => w.pend.any fun p => f.waitReads.contains p.id
    | none => false
  let writes := match fget s.wgs f.wg with | some g => laneBefore g f.upto | none => false
  !reads && !writes

/-- SEQUENCER_PROGRAM_START: the head of the FIFO starts on a free sequencer (R48, R89, R241, Table 14.1). -/
def execSequencerProgramStart (cluster : Nat) (s : State) : Outcome State Fault Refusal :=
  let q := s.seq cluster
  match q.cur, q.fifo with
  | none, f :: rest =>
    if forkReady s f && !clusterStopped s cluster then
      .next (s.updSeq cluster fun q =>
        let q := { q with
          q := [], fifo := rest, cur := some f, pc := f.code, clause := none, argaddr := f.arg, ending := none,
          stalled := none }
        setQ (setQ (setQ q 1 (f.arg.setWidth 32)) 2 (f.arg.extractLsb' 32 32)) 3 (BitVec.ofNat 32 f.pos))
    else .next s
  | _, _ => .next s

/-- ARRAY_OP_START: every array of the set starts the oldest issued operation once the previous one has finished
(R308). -/
def execArrayOpStart (cluster : Nat) (s : State) : Outcome State Fault Refusal :=
  let q := s.seq cluster
  match q.running, q.queue, clusterStopped s cluster with
  | none, o :: rest, false =>
    .next (mxRun (s.updSeq cluster fun q => { q with running := some o, queue := rest, part := [] }) cluster o q.part)
  | _, _, _ => .next s

/-- Does an operation read a slot of a position? -/
def readsSlot (o : MxOp) (pos sl : Nat) : Bool :=
  match o.instr with
  | .mhad f => !f.mode.getLsbD 6 && decide (f.x.toNat = sl)
  | .mmb f | .mmaBf16 f | .mmaF16 f | .mmaI8 f | .mmaP8 f | .mmaE2m1 f | .mmaMxp8 f | .mmaMxe2m1 f =>
    decide (f.x.toNat = sl) || (decide (f.y.toNat = sl) && decide (pos = o.value % 4))
  | _ => false

/-- What a 16-byte chunk that an operation reads or writes at a position holds, and whether it is written; none where it has
no such chunk. -/
def chunkData (s : State) (cl : Nat) (o : MxOp) (p : Nat × Nat × Wg) (src chunk : Nat) : Option (List Byte × Bool) :=
  let v := o.value
  let pad := some (memberBytes s p.2.2 (v + 16 * chunk) 16, false)
  if src < 16 then
    if chunk < 512 ∧ readsSlot o p.1 src then some (memBytes (arrSlot (s.core p.2.2.core).array src) (16 * chunk) 16, false) else none
  else if mxStale s cl (v + 16 * chunk) 16 (fun n => decide (n = p.1)) || (mxPoison s cl (v + 16 * chunk) 16 fun n => decide (n = p.1)).isSome then none
  else
    match o.instr with
    | .mfill _ => if chunk < 512 then pad else none
    | .mscl f => if chunk < 16 ∧ (f.mode.getLsbD 1 = false ∨ p.1 = f.mode.toNat / 4) then pad else none
    | _ => none

/-- The chunk of a drain's destination. -/
def drainChunk (s : State) (o : MxOp) (p : Nat × Nat × Wg) (src chunk : Nat) : Option (List Byte × Bool) :=
  match o.instr with
  | .mdrain f =>
    let bs := (drainOf f (s.core p.2.2.core).array).1
    if src = 16 ∧ 16 * chunk < bs.length then some ((bs.drop (16 * chunk)).take 16, true) else none
  | _ => none

/-- A chunk of the oldest issued operation moves ahead of the rest, once: the others may then meet a concurrent write or read
in any mix (R326). -/
def matrixChunk (s : State) (cl pos src chunk : Nat) : State :=
  let q := s.seq cl
  match q.running, q.queue, (mxSet s q).find? fun p => decide (p.1 = pos) with
  | none, o :: _, some p =>
    if clusterStopped s cl || q.part.any fun c => decide (c.pos = pos ∧ c.src = src ∧ c.chunk = chunk) then s
    else
      match (drainChunk s o p src chunk).or (chunkData s cl o p src chunk) with
      | some (bs, writes) =>
        let s := if writes then wgWrite s p.2.1 (o.value + 16 * chunk) bs else s
        s.updSeq cl fun q => { q with part := q.part ++ [{ pos := pos, src := src, chunk := chunk, data := bs }] }
      | none => s
  | _, _, _ => s

/-- The next sum of a core's array at an element comes out wrong (R322). -/
def faultySum (s : State) (c elem : Nat) (err : Int) : State :=
  s.updCore c fun k => { k with array := { k.array with fault := some (elem % 16384, err) } }

/-- MATRIX_OPERATION_COMPLETE: the running operation ends; an ending program with none left writes its object (R309). -/
def execMatrixOperationComplete (cluster : Nat) (s : State) : Outcome State Fault Refusal :=
  if (s.seq cluster).running.isSome && !clusterStopped s cluster then
    .next (seqFinish (s.updSeq cluster fun q => { q with running := none }) cluster)
  else .next s

end Sys2Proof.Machine
end

