-- ==== Sys2Proof/Machine/Peer.lean ====
section
/-! DEFINITION. Exports and peer windows (R65, R365), inbound translation (R391), and free values (log 5). -/

namespace Sys2Proof.Machine

/-- Take a free 32-bit value: nothing says what it is (log 5). -/
def takeFree (s : State) : State × Nat := ({ s with freeCtr := s.freeCtr + 1 }, (Config.freeWord s.freeCtr).toNat)

/-- Take n free bytes as a number. -/
def takeFreeBytes (s : State) : Nat → State × Nat
  | 0 => (s, 0)
  | n + 1 =>
    let r := takeFree s
    let q := takeFreeBytes r.1 n
    (q.1, r.2 % 256 + 256 * q.2)

/-- Does an access that has left the package fail at its target? Nothing says (log 5). -/
def takeFault (s : State) : State × Bool := ({ s with freeCtr := s.freeCtr + 1 }, Config.peerFault s.freeCtr)

/-- The logical device of this package that bears a device number of the pod, the lowest one. -/
def devOfNumber (s : State) (n : Nat) : Option Nat :=
  firstBelow (4 / devDies s.pkg.mode) fun k => decide ((s.dev k).devnum = n)

/-- The link on which traffic to a device leaves: the lowest-numbered link of its ROUTE entry that is up (R416). -/
def routeLink (s : State) (k n : Nat) : Option Nat :=
  let v := (fget (s.dev k).route n).getD 0
  firstBelow 16 fun l => v.getLsbD l && decide (((fget s.pkg.links l).getD Link.reset).state = 2)

/-- Where an access to a device number of the pod goes: to a logical device of this package, out over a link to another
package, or nowhere, which fails at the issuer (R416). -/
inductive PeerWay where
  | here (k : Nat) | link (l : Nat) | lost
  deriving DecidableEq, Repr

/-- The way of an access of device d. DEDUCED (log 96): one to another device of the package leaves by a link too; one to the
device's own number leaves nowhere and needs none. -/
def peerWay (s : State) (d n : Nat) : PeerWay :=
  match devOfNumber s n, routeLink s d n with
  | some k, none => if k = d then .here k else .lost
  | some k, some _ => .here k
  | none, some l => .link l
  | none, none => .lost

/-- Where an inbound access to an export lies: device memory, a slice's place under an allocation, not yet (a
copy-aside, an operation set aside, an unverified granule or a stopped die), or refused. -/
inductive PeerLoc where
  | mem (k pa : Nat) | slice (core off gen wg : Nat) | wait | refused
  deriving DecidableEq, Repr

/-- The ACCESS bit of an operation (Table 22.5): 1 read, 2 write, 4 atomic. -/
def accessOf : ReqKind → Nat
  | .load | .ahead | .wqpop _ => 1
  | .atom .. | .cas | .joinDec => 4
  | .store | .append | .acommit | .wqpush _ | .retire _ | .sheadReset _ | .spawn | .message _ => 2

/-- The record of a refused or failed inbound access of a space (Table 22.6); `acc` is its ACCESS bit. -/
def remoteRecord (va space initiator acc : Nat) : FaultRec :=
  { addr := va, launch := 0, space := space, core := 0xFFFF, info := initiator, access := 64 + acc, sub := 0,
    kind := 9, entry := none }

/-- The record of an access that finds no way out of its device, posted there (R416; DEDUCED, log 96): of the issuing core and its
launch, at the window's address. -/
def lostRecord (s : State) (c launch space va acc : Nat) : FaultRec :=
  accessFault s va launch space (some c) ((s.dev (devOfCore s c)).devnum) acc 0 9

/-- The further lines of an access of n bytes in a bounce frame are marked as its first is (R400). -/
def noteLines (s : State) (k : Nat) (p : Double) (pa n : Nat) : State :=
  (List.range ((pa + n + 63) / 64 - pa / 64)).foldl (fun s i => noteBounce s k p ((pa / 64 + i) * 64)) s

/-- Translate an inbound access of n bytes through the inbound cache (R391); it never parks. An entry that has changed is
walked anew. -/
def inXlate (s : State) (k space va n acc : Nat) : State × Away :=
  let w := cachedWalk s k space va (s.dev k).inTlb
  let s := s.updDev k fun d => { d with inTlb := w.2 }
  let write := decide (acc ≠ 1)
  match w.1 with
  | .bad .. => (s, .fail)
  | .leaf p at_ size =>
    let pa := pteAddr p + va % size
    let serve : State × Away :=
      match serveLeaf s k (homeDie s k pa) (some (homeCore s k pa)) 0 space va write (64 + acc) p at_ size with
      | (s, .ok pa) => (if write then noteLines s k p pa n else s, .ok pa)
      | (s, .wait) => (s.updDev k fun d => { d with inTlb := d.inTlb.filter fun t => decide (t.pteAt ≠ at_) }, .wait)
      | (s, .fail) => (s, .fail)
    match permit p write with
    | .wprot => (s, .fail)
    | .cow => if frameRef s k pa = 1 then serve else (s, .fail)
    | .ok | .snap => serve

/-- An access's check against an export (R365): VALID, KEY, the offset against SIZE. -/
def exportPass (x : Export) (key : BitVec 16) (off n : Nat) : Bool :=
  x.valid && decide (x.key = key ∧ off + n ≤ x.size * 65536)

/-- The place of an access that has passed its check: the translation of BASE + offset (R365). A read waits at an unverified
granule of a workgroup other than its own, `own` (R145), any at a line that an operation set aside holds (R423) and at a die
whose clock is stopped. A refusal posts REMOTE. -/
def peerPlace (s : State) (k : Nat) (x : Export) (initiator off n acc : Nat) (own : Option Nat) : State × PeerLoc :=
  let va := x.base + off
  let no (s : State) : State × PeerLoc := (postFault s k (remoteRecord va x.space initiator acc), .refused)
  if 2 ^ 56 ≤ va then no s
  else
    match regionOf va with
    | .paged =>
      match inXlate s k x.space va n acc with
      | (s, .ok pa) => (s, if lineHeld s k pa n || (s.die (homeDie s k pa)).stopped then .wait else .mem k pa)
      | (s, .wait) => (s, .wait)
      | (s, .fail) => no s
    | .slice idx o =>
      match coreOfIdx s k idx with
      | none => no s
      | some c =>
        match s.wgs.find? fun p =>
            decide (p.2.core = c ∧ p.2.base ≤ o ∧ o + n ≤ p.2.base + p.2.size) && holdsSlot p.2 &&
              (match fget s.launches p.2.launch with | some l => decide (l.rec_.space = x.space) | none => false) with
        | some (g, y) =>
          (s, if decide (acc ≠ 2) && decide (own ≠ some g) && unverifiedAt y o n || (s.die (dieOf c)).stopped then .wait
              else .slice c o y.gen g)
        | none => no s
    | .peer .. | .local_ _ | .reserved => no s

/-- Check an access against an export and find its place (R365). -/
def peerResolve (s : State) (k e : Nat) (key : BitVec 16) (initiator off n acc : Nat) (own : Option Nat) : State × PeerLoc :=
  let x := exportOf s k e
  if exportPass x key off n then peerPlace s k x initiator off n acc own
  else (postFault s k (remoteRecord (x.base + off) x.space initiator acc), .refused)

/-- What a checked access keeps while it waits: the export as it was, and the count it holds as a reader of the home slice's core,
once its page has been translated (R105, R366; log 92). -/
def checkedBy (s : State) (k : Nat) (x : Export) (off seq : Nat) : Checked :=
  match regionOf (x.base + off), walkPage s k x.space (x.base + off) with
  | .paged, .leaf p _ size =>
    let c := homeCore s k (pteAddr p + (x.base + off) % size)
    { exp := x, core := c, phase := (s.core c).phase, seq := seq }
  | _, _ => { exp := x, core := 0, phase := 2, seq := seq }

/-- Did a request of device d through a peer window to a logical device come before the one numbered `seq`, and does it wait
there, so that one of a kind keeps behind it: anything behind a marked read, a marked write behind any write (R91)? -/
def peerBehind (s : State) (d k : Nat) (seq : Nat) (marked : Bool) (acc : Nat) : Bool :=
  s.net.any fun q =>
    match q.via, q.target with
    | some v, .peer _ _ w _ =>
      decide (v.seq < seq ∧ devOfCore s q.core = d ∧ devOfNumber s w.target = some k) &&
        (q.marked && decide (accessOf q.kind ≠ 2) || marked && decide (acc ≠ 1) && decide (accessOf q.kind ≠ 1))
    | _, _ => false

end Sys2Proof.Machine
end

