-- ==== Sys2Proof/Machine/Home.lean ====
section
/-! DEFINITION. Operations of one line at their home slice: plain accesses and join decrements (R44, R61), append regions (R67,
R268, R269), work queues (R272 to R274, R423), what a request answers (R258), and the device's own pops and pushes at its pools
(R397). -/

namespace Sys2Proof.Machine

/-! ### What a lane's operation answers -/

/-- Done with a value or a predicate; an error; set aside for a repair or a copy-aside (R423); waiting at its queue (R274);
or uncorrectable data (R153). -/
inductive Served where
  | done (value : Option Nat) (pred : Option Bool)
  | error (cause addr : Nat)
  | aside
  | queue
  | poison (at_ : Bad)
  deriving DecidableEq, Repr

/-- A place of data: device memory, or a slice under an allocation's generation. -/
inductive Place where
  | mem (k pa : Nat) | slice (core off gen : Nat)
  deriving DecidableEq, Repr

/-- Read n bytes of a place. -/
def placeNat (s : State) (n : Nat) : Place → Nat
  | .mem k pa => physNat s k pa n
  | .slice c off gen => sliceNat (s.core c) gen off n

/-- Write the bits of `keep` in n bytes of a place, as one event (R70, R111). -/
def placeWrite (s : State) (p : Place) (n v keep : Nat) : State :=
  match p with
  | .mem k pa =>
    match apOf s k pa with
    | some a => { s with mem := memMerge s.mem a n v keep }
    | none => s
  | .slice c off gen =>
    let old := sliceNat (s.core c) gen off n
    ownWrite s c off gen (bytesOfNat n ((old &&& (2 ^ (8 * n) - 1 - keep)) ||| (v &&& keep)))

/-- Does a launch run, so that a continuation of it may be pushed? One that is torn down has no threads left (R45, R138). -/
def launchRuns (s : State) (l : Nat) : Bool := match fget s.launches l with | some x => decide (x.phase = .running) | none => false

/-- The decrement of a join record (R44): from 1 to 0 it pushes the continuation; at 0 it posts QUEUE. -/
def joinLane (s : State) (r : Req) (p : Place) (o : LaneOp) : State × Served :=
  let rec_ := placeNat s 32 p
  let n := rec_ % 2 ^ 32
  let f (i : Nat) : Double := BitVec.ofNat 64 (rec_ / 2 ^ (64 * i))
  if n = 0 then (postFault s (devOfCore s r.core) (accessFault s o.va (launchNo s r.launch) r.space (some r.core) 0 4 0 8), .done none none)
  else
    let s := placeWrite s p 4 (n - 1) (2 ^ 32 - 1)
    (if n = 1 ∧ launchRuns s r.launch then frontPush s r.core r.launch (f 1) (f 2) (f 3) else s, .done none none)

/-- A load, store, atomic, CAS or join decrement of one lane at its place. -/
def plainLane (s : State) (r : Req) (p : Place) (o : LaneOp) : State × Served :=
  let bad : Option Bad :=
    match p with
    | .mem k pa => if poisoned s k pa r.size then some (.mem pa) else none
    | .slice c off gen => if slicePoison (s.core c) gen off r.size then some (.slice c) else none
  match r.kind, bad with
  | .store, _ => (placeWrite s p r.size o.data o.keep, .done none none)
  | _, some b => (s, .poison b)
  | .load, none => (s, .done (some (placeNat s r.size p)) none)
  | .joinDec, none => joinLane s r p o
  | k, none =>
    let old := placeNat s r.size p
    (placeWrite s p r.size (unitNew k r.size old o) (2 ^ (8 * r.size) - 1), .done (some old) none)

/-! ### Append regions at the home slice (R67, R268, R269) -/

/-- A descriptor's fields at a physical address: BASE, CAP, CHEAD, SHEAD. -/
def appendField (s : State) (k pa i : Nat) : Nat := physNat s k (pa + 8 * i) 8

/-- One lane of an APPEND. -/
def appendLane (s : State) (k home : Nat) (r : Req) (o : LaneOp) : State × Served :=
  let pa := o.at_
  let old := alignUp (appendField s k pa 3) r.size
  if poisoned s k pa 64 then (s, .poison (.mem pa))
  else if appendField s k pa 1 < old + r.size then
    (physWrite s k (pa + 32) 1 (physNat s k (pa + 32) 1 ||| 1), .done (some (2 ^ 64 - 1)) none)
  else
    let va := (appendField s k pa 0 + old) % 2 ^ 64
    match awayXlate s k (dieOf home) (some home) (launchNo s r.launch) r.space va true 4 with
    | (s, .ok at_) =>
      (physWrite (physWrite s k at_ r.size o.data) k (pa + 24) 8 (old + r.size), .done (some old) none)
    | (s, .wait) => (s, .aside)
    | (s, .fail) => (s, .error cBOUNDS va)

/-- One lane of an ACOMMIT. -/
def acommitLane (s : State) (k : Nat) (o : LaneOp) : State × Served :=
  if poisoned s k o.at_ 64 then (s, .poison (.mem o.at_))
  else if appendField s k o.at_ 3 < o.data then (s, .error cBOUNDS o.va)
  else (physWrite s k (o.at_ + 16) 8 (max (appendField s k o.at_ 2) o.data), .done none none)

/-- A reset entry (R131, R358): in plain mode SHEAD becomes CHEAD; in guarded mode the end of the highest row returned to
a surviving instance, or else the lowest offset returned. -/
def resetShead (s : State) (k : Nat) (r : Req) (pa : Nat) : State :=
  if r.path = .lane then physWrite s k (pa + 24) 8 (appendField s k pa 2)
  else
    let kept := (r.lanes.filter fun o => decide (o.lane = 1)).map LaneOp.swap
    let all := r.lanes.map LaneOp.data
    match kept, all with
    | e :: es, _ => physWrite s k (pa + 24) 8 (es.foldl max e)
    | [], x :: xs => physWrite s k (pa + 24) 8 (xs.foldl min x)
    | [], [] => s

/-! ### Work queues at the home slice (R273, R274) -/

/-- The queue whose descriptor lies at a physical address. -/
def queueAt (s : State) (k pa : Nat) : Nat := (pa - (s.dev k).wqtbase) / 64

/-- Translate the slot of item i for a queue operation (R423). -/
def itemXlate (s : State) (k home : Nat) (r : Req) (d : WqDesc) (i : Nat) (write : Bool) : State × Away :=
  awayXlate s k (dieOf home) (some home) (launchNo s r.launch) d.space (wqSlot d i) write (if write then 2 else 1)

/-- One lane of a push. -/
def pushLane (s : State) (k home : Nat) (r : Req) (nb : Bool) (o : LaneOp) : State × Served :=
  let d := wqDesc s k (queueAt s k o.at_)
  if poisoned s k d.at_ 64 then (s, .poison (.mem d.at_))
  else if !wqOkDesc d then (s, .error cQUEUE o.va)
  else if wqCount d < 2 ^ d.log2n then
    match itemXlate s k home r d d.tail true with
    | (s, .ok pa) =>
      (physWrite (physWrite s k pa 16 o.data) k (d.at_ + 24) 8 ((d.tail + 1) % 2 ^ 64), .done none (if nb then some true else none))
    | (s, .wait) => (s, .aside)
    | (s, .fail) => (s, .error cQUEUE o.va)
  else if nb then (s, .done none (some false))
  else (s, .queue)

/-- One lane of a pop. -/
def popLane (s : State) (k home : Nat) (r : Req) (nb : Bool) (o : LaneOp) : State × Served :=
  let d := wqDesc s k (queueAt s k o.at_)
  if poisoned s k d.at_ 64 then (s, .poison (.mem d.at_))
  else if !wqOkDesc d then (s, .error cQUEUE o.va)
  else if wqCount d ≠ 0 then
    match itemXlate s k home r d d.head false with
    | (s, .ok pa) =>
      if poisoned s k pa 16 then (s, .poison (.mem pa))
      else
        (physWrite s k (d.at_ + 16) 8 ((d.head + 1) % 2 ^ 64),
          .done (some (physNat s k pa 16)) (if nb then some true else none))
    | (s, .wait) => (s, .aside)
    | (s, .fail) => (s, .error cQUEUE o.va)
  else if nb then (s, .done none (some false))
  else (s, .queue)

/-- n bytes of device memory as a request's workgroup reads them, what its Brine holds laid over them (R80). -/
def readOver (s : State) (r : Req) (k pa n : Nat) : Nat :=
  natOfBytes (overlay s r.wg (.mem 0) pa (bytesOfNat n (physNat s k pa n)))

/-- A load's value at the home slice. -/
def loadLane (s : State) (k : Nat) (r : Req) (o : LaneOp) : State × Served :=
  if poisoned s k o.at_ r.size then (s, .poison (.mem o.at_))
  else (s, .done (some (readOver s r k o.at_ r.size)) none)

/-- One lane at the home slice. -/
def homeLane (s : State) (k home : Nat) (r : Req) (o : LaneOp) : State × Served :=
  match r.kind with
  | .load => loadLane s k r o
  | .append => appendLane s k home r o
  | .acommit => acommitLane s k o
  | .ahead =>
    if poisoned s k o.at_ 64 then (s, .poison (.mem o.at_)) else (s, .done (some (readOver s r k (o.at_ + 16) 8)) none)
  | .wqpush nb => pushLane s k home r nb o
  | .wqpop nb => popLane s k home r nb o
  | _ => plainLane s r (.mem k o.at_) o

/-! ### A whole request -/

/-- What a request has answered so far. -/
structure Answer where
  values : List (Nat × Nat) := []
  preds : List (Nat × Bool) := []
  errors : List (Nat × Nat × Nat) := []
  deriving DecidableEq, Repr

/-- How a request's service ends: all lanes, or the lanes left set aside or waiting at a queue, or poison. -/
inductive ServeEnd where
  | all | aside (rest : List LaneOp) | queue (rest : List LaneOp) | poison (at_ : Bad)
  deriving DecidableEq, Repr

/-- Serve lanes in ascending order (R62); a refused lane of an APPEND refuses every later one (R268). -/
def serveGo (f : State → LaneOp → State × Served) (stop : Bool) : List LaneOp → State → Answer → State × Answer × ServeEnd
  | [], s, a => (s, a, .all)
  | o :: os, s, a =>
    match f s o with
    | (s, .done v p) =>
      serveGo f stop os s
        { a with
          values := a.values ++ (match v with | some x => [(o.lane, x)] | none => [])
          preds := a.preds ++ (match p with | some b => [(o.lane, b)] | none => []) }
    | (s, .error c e) =>
      let a := { a with errors := a.errors ++ [(o.lane, c, e)] }
      if stop then (s, a, .all) else serveGo f stop os s a
    | (s, .aside) => (s, a, .aside (o :: os))
    | (s, .queue) => (s, a, .queue (o :: os))
    | (s, .poison b) => (s, a, .poison b)

/-- A message back to a request's core. -/
def answerMsg (r : Req) (kind : MsgKind) (a : Answer) (lane cause addr : Nat) : Msg :=
  { kind := kind, core := r.core, slot := r.slot, wg := r.wg, req := r.id, path := r.path, pend := r.pend, cmd := r.cmd,
    values := a.values, preds := a.preds, lane := lane, cause := cause, addr := addr, src := r.core, flits := 0 }

/-- A message leaves for its core on VC2, from another core of its die through the mesh: two flits with a line, else one (R77,
Table 17.5). -/
def sendMsg (s : State) (r : Req) (m : Msg) : Msg :=
  if inDie s r then { m with src := (reqHome s r).getD r.core, flits := if m.kind = .value ∧ 16 < m.values.length * r.size then 2 else 1 }
  else m

/-- Is the workgroup of a request still there to hear of it? -/
def heardBy (s : State) (r : Req) : Bool := (fget s.wgs r.wg).isSome

/-- Does a request's failure trap? A push's is deferred, whether or not it writes a predicate (Table 12.3). -/
def failureTraps (r : Req) : Bool := r.pend.isSome && (match r.kind with | .wqpush _ => false | _ => true)

/-- Send a served request's answer: a value, an acknowledgement, or errors: of one that traps only the first (R258). -/
def sendBack (s : State) (r : Req) (a : Answer) : State :=
  if !heardBy s r then s
  else
    let at_ (lane : Nat) : Nat := if r.cmd.isSome then (match r.lanes with | o :: _ => o.swap | [] => 0) else lane
    let err (e : Nat × Nat × Nat) : Msg := answerMsg r .error {} (at_ e.1) e.2.1 e.2.2
    let ms :=
      match a.errors with
      | [] => [answerMsg r (if r.pend.isSome then .value else .ack) a (at_ 0) 0 0]
      | e :: _ =>
        if failureTraps r then [err e]
        else
          let rest : List Msg :=
            if r.pend.isSome then [answerMsg r .value { a with values := a.values ++ a.errors.map fun (e : Nat × Nat × Nat) => (e.1, 0) } (at_ 0) 0 0] else []
          (a.errors.map fun e => { err e with pend := none }) ++ rest
    { s with msgs := s.msgs ++ ms.map (sendMsg s r) }

/-- The part of an answer that is already there while lanes wait (R274). -/
def sendPart (s : State) (r : Req) (a : Answer) : State :=
  if heardBy s r && r.pend.isSome && !(a.values.isEmpty && a.preds.isEmpty) then
    { s with msgs := s.msgs ++ [sendMsg s r (answerMsg r .value a 0 0 0)] }
  else s

/-- Take a request out of what travels. -/
def takeNet (s : State) (id : Nat) : State := { s with net := s.net.filter fun r => decide (r.id ≠ id) }

/-- Waiting pops and pushes of a queue. -/
def wqWaiting (s : State) (k q : Nat) : WqWait := (fget (s.dev k).wq q).getD { pops := [], pushes := [] }
/-- Change them. -/
def setWaiting (s : State) (k q : Nat) (w : WqWait) : State := s.updDev k fun d => { d with wq := fput d.wq q w }

/-- Serve the oldest waiting pop's or push's first lane: its request with what is left, its answer so far. -/
def waitingLane (s : State) (k home : Nat) (r : Req) : State × Option (List LaneOp) :=
  match r.lanes with
  | [] => (s, some [])
  | o :: os =>
    match homeLane s k home r o with
    | (s, .done v p) =>
      let a : Answer :=
        { values := match v with | some x => [(o.lane, x)] | none => []
          preds := match p with | some b => [(o.lane, b)] | none => [] }
      (if os.isEmpty then sendBack s r a else sendPart s r a, some os)
    | (s, .error c e) => (sendBack s r { errors := [(o.lane, c, e)] }, some (if failureTraps r then [] else os))
    | (s, .aside) => ({ s with aside := s.aside ++ [r] }, some [])
    | (s, .queue) => (s, none)
    | (s, .poison b) => (badReplay s r.launch (dieOf r.core) b, some [])

/-- Hand items to waiting pops, and admit waiting pushes that now find room (R274). -/
def wqSettle (s : State) (k home q : Nat) : Nat → State
  | 0 => s
  | n + 1 =>
    let w := wqWaiting s k q
    let drop (r : Req) (rest : List LaneOp) (rs : List Req) : List Req := if rest.isEmpty then rs else { r with lanes := rest } :: rs
    let step (s : State) (r : Req) (back : List LaneOp → WqWait → WqWait) : Option State :=
      match waitingLane s k home r with
      | (_, none) => none
      | (s, some rest) => some (setWaiting s k q (back rest (wqWaiting s k q)))
    let pop := match w.pops with
      | r :: _ => step s r fun rest w => { w with pops := drop r rest (w.pops.drop 1) }
      | [] => none
    let push := match w.pushes with
      | r :: _ => step s r fun rest w => { w with pushes := drop r rest (w.pushes.drop 1) }
      | [] => none
    match pop.or push with
    | some s => wqSettle s k home q n
    | none => s

/-- Lanes waiting at a queue. -/
def wqLanes (s : State) (k q : Nat) : Nat :=
  let w := wqWaiting s k q
  ((w.pops ++ w.pushes).map fun r => r.lanes.length).sum

/-- After a queue operation of a request, what waits there is served as far as it goes. -/
def afterQueue (s : State) (k home : Nat) (r : Req) : State :=
  match r.kind, r.target with
  | .wqpush _, .mem pa | .wqpop _, .mem pa =>
    let q := queueAt s k pa
    wqSettle s k home q (2 * wqLanes s k q)
  | _, _ => s

/-! ### The pools (R397) -/

/-- What waits at a queue is served as far as it goes. -/
def queueSettle (s : State) (k q : Nat) : State := wqSettle s k (homeCore s k (wqDesc s k q).at_) q (2 * wqLanes s k q)

/-- What the device's own pop answers: the item's two words, nothing in the queue, or a refusal: an invalid descriptor, or a slot
that does not translate or cannot be read (R273). DEDUCED (log 97): only the empty queue is POOL_EMPTY's. -/
inductive PoolAns where
  | item (s : State) (a b : Nat) | empty | refused (s : State)

/-- Pop an item of a pool for a launch, without waiting: a work-queue operation like any other (R272, R273, R397, R423). -/
def poolPop (s : State) (k q launch : Nat) : PoolAns :=
  let d := wqDesc s k q
  let home := homeCore s k d.at_
  if !wqOkDesc d then .refused s
  else if wqCount d = 0 then .empty
  else
    match awayXlate s k (dieOf home) (some home) launch d.space (wqSlot d d.head) false 1 with
    | (s, .ok pa) =>
      if poisoned s k pa 16 then .refused s
      else
        .item (queueSettle (physWrite s k (d.at_ + 16) 8 ((d.head + 1) % 2 ^ 64)) k q) (physNat s k pa 8) (physNat s k (pa + 8) 8)
    | (s, _) => .refused s

/-- Push an item back to a pool, once its queue has room and its slot translates; until then it waits (R397, R423). -/
def poolPush (s : State) (k q a b : Nat) : State × Bool :=
  let d := wqDesc s k q
  let home := homeCore s k d.at_
  if !wqOkDesc d || decide (2 ^ d.log2n ≤ wqCount d) then (s, false)
  else
    match awayXlate s k (dieOf home) (some home) 0 d.space (wqSlot d d.tail) true 2 with
    | (s, .ok pa) =>
      let s := physWrite s k pa 16 (a % 2 ^ 64 + b * 2 ^ 64)
      (queueSettle (physWrite s k (d.at_ + 24) 8 ((d.tail + 1) % 2 ^ 64)) k q, true)
    | (s, _) => (s, false)

end Sys2Proof.Machine
end

