-- ==== Sys2Proof/Machine/CopyBase.lean ====
section
/-! DEFINITION. What the copy engine computes and touches: tensor layout records and boxes (R69 to R73), a chunk's place in
memory and scratchpad, translation page by page (R287, R289, R291, R292, R400), and its reads and writes. -/

namespace Sys2Proof.Machine

/-! ### Records and boxes (R69 to R73) -/

/-- A tensor layout record (Table 2.6); `box` are the extents − 1, dimension 0 of `stride` is unused. -/
structure Layout where
  ibound : Nat
  sp24 : Bool
  swz : Nat
  rank : Nat
  fmt : Nat
  box : List Nat
  stride : List Nat
  dim : List Nat
  base : Nat
  deriving DecidableEq, Repr

/-- Read a record's 512 bits. -/
def layoutOf (v : Nat) : Layout :=
  let f (lo n : Nat) : Nat := v / 2 ^ lo % 2 ^ n
  { ibound := f 448 32, sp24 := v.testBit 436, swz := f 433 3, rank := f 430 3, fmt := f 424 6
    box := (List.range 5).map fun d => f (384 + 8 * d) 8
    stride := (List.range 5).map fun d => if d = 0 then 0 else f (184 + 40 * d) 40
    dim := (List.range 5).map fun d => f (64 + 32 * d) 32
    base := f 0 64 }

/-- Bits of an element. -/
def Layout.bits (l : Layout) : Nat := (fmtBits l.fmt).getD 8

/-- The box extents: 1 at or above RANK; `rows` replaces the last dimension's in a gather or scatter (R288). -/
def Layout.ext (l : Layout) (rows : Option Nat) : List Nat :=
  (List.range 5).map fun d =>
    if l.rank ≤ d then 1 else match rows with | some n => if d + 1 = l.rank then n else l.box.getD d 0 + 1 | none => l.box.getD d 0 + 1

/-- Bytes of a box row. -/
def Layout.rowBytes (l : Layout) (rows : Option Nat) : Nat := (l.ext rows).getD 0 1 * l.bits / 8

/-- The conditions on a record and an origin (R69 to R72). -/
def layoutOk (l : Layout) (origin : List Int) (rows : Option Nat) : Bool :=
  let e := l.bits
  let o0 := origin.getD 0 0
  let row := (l.ext rows).getD 0 1 * e
  decide (1 ≤ l.rank ∧ l.rank ≤ 5) && (fmtBits l.fmt).isSome && decide (l.swz ≤ 5) && decide (l.base % 16 = 0) &&
    ((List.range l.rank).all fun d => decide (l.stride.getD d 0 % 16 = 0)) && decide (row % 128 = 0) &&
    decide (o0 % ((128 / e : Nat) : Int) = 0) && (decide (l.swz = 0) || decide (row / 128 % 2 ^ l.swz = 0)) &&
    (!l.sp24 || (decide (e = 4 ∨ e = 8 ∨ e = 16) && decide (l.dim.getD 0 0 % 32 = 0) && decide (o0 % 4 = 0) &&
      decide ((l.ext rows).getD 0 1 % 4 = 0)))

/-- A command with what it acts for: its core, workgroup and launch, and its record. -/
structure Job where
  core : Nat
  dev : Nat
  g : Nat
  wg : Wg
  l : Launch
  lay : Layout
  rows : Option Nat
  deriving DecidableEq, Repr

/-- Elements of a chunk of 16 bytes. -/
def Job.per (j : Job) : Nat := 128 / j.lay.bits
/-- The box's elements N. -/
def Job.total (j : Job) : Nat := (j.lay.ext j.rows).foldl (· * ·) 1

/-- The coordinate of element k in dimension d, dimension 0 fastest. -/
def boxCoord : List Nat → Nat → Nat → Nat
  | [], _, _ => 0
  | n :: _, k, 0 => k % n
  | n :: ns, k, d + 1 => boxCoord ns (k / n) d

/-- The gathered or scattered row of element k. -/
def jobRow (j : Job) (k : Nat) : Nat := boxCoord (j.lay.ext j.rows) k (j.lay.rank - 1)

/-- The position of element k in dimension d: origin plus coordinate, or the row's index (R288). -/
def jobPos (j : Job) (a : CopyArgs) (k d : Nat) : Int :=
  if j.rows.isSome ∧ d + 1 = j.lay.rank then ((a.index.getD (jobRow j k) 0 : Nat) : Int)
  else a.origin.getD d 0 + ((boxCoord (j.lay.ext j.rows) k d : Nat) : Int)

/-- Is a position inside the DIM extent of its dimension? -/
def inDim (j : Job) (d : Nat) (p : Int) : Bool := decide (0 ≤ p) && decide (p < ((j.lay.dim.getD d 0 : Nat) : Int))

/-- The elements of the chunk at element k that lie inside the extents, as a count from the first. -/
def chunkIn (j : Job) (a : CopyArgs) (k : Nat) : Nat :=
  let p := jobPos j a k 0
  if (List.range (j.lay.rank - 1)).all (fun d => inDim j (d + 1) (jobPos j a k (d + 1))) && inDim j 0 p then
    min j.per (((j.lay.dim.getD 0 0 : Nat) : Int) - p).toNat
  else 0

/-- The address of the row of the chunk at element k. -/
def chunkRow (j : Job) (a : CopyArgs) (k : Nat) : Int :=
  (List.range (j.lay.rank - 1)).foldl (fun v d => v + jobPos j a k (d + 1) * ((j.lay.stride.getD (d + 1) 0 : Nat) : Int))
    ((j.lay.base : Nat) : Int)

/-- The memory pieces of the chunk at element k: its 16 bytes, or the kept values and metadata of R72. -/
def chunkPieces (j : Job) (a : CopyArgs) (k : Nat) : List (Nat × Nat) :=
  let e := j.lay.bits
  let p := (jobPos j a k 0).toNat
  let row := (chunkRow j a k).toNat
  if j.lay.sp24 then [(row + p * e / 16, 8), (row + j.lay.dim.getD 0 0 / 2 * e / 8 + p / 8, j.per / 8)]
  else [(row + p * e / 8, 16)]

/-- The place of the chunk at element k in the dense image: swizzled in scratchpad, plain in a slot (R71, R314). -/
def chunkPlace (j : Job) (a : CopyArgs) (k : Nat) : Nat :=
  let e := j.lay.bits
  let n := (j.lay.ext j.rows).getD 0 1
  let r := k / n
  let c := k % n * e / 128
  let c := if a.ops ∨ j.lay.swz = 0 then c else c ^^^ (r % 2 ^ j.lay.swz)
  r * j.lay.rowBytes j.rows + 16 * c

/-- Expand kept values and metadata nibbles to dense elements (R72). -/
def expand24 (e n kept metaBits : Nat) : Nat :=
  ((List.range (n / 4)).map fun g =>
    let m := metaBits / 16 ^ g % 16
    let v (t : Nat) : Nat := kept / 2 ^ ((2 * g + t) * e) % 2 ^ e
    if m % 4 < m / 4 then v 0 * 2 ^ ((4 * g + m % 4) * e) + v 1 * 2 ^ ((4 * g + m / 4) * e) else 0).sum

/-- The low n elements' bits. -/
def keepBits (e n : Nat) : Nat := 2 ^ (e * n) - 1

/-! ### Translation (R287, R289, R291, R292) -/

/-- What a page's translation answers a command. -/
inductive CopyX where
  | ok (pa tier : Nat) | fault | defer | aside | busy
  deriving DecidableEq, Repr

/-- The level-0 entry of an address, if the walk reaches it: its place and value. -/
def levelZeroGo (s : State) (k va : Nat) : List Nat → Nat → Option (Nat × Double)
  | [], _ => none
  | [lo], table => let at_ := table + 8 * (va / 2 ^ lo % 32); some (at_, BitVec.ofNat 64 (physNat s k at_ 8))
  | lo :: ls, table =>
    let at_ := table + 8 * (va / 2 ^ lo % 2 ^ (if lo = 39 then 17 else 9))
    let p := BitVec.ofNat 64 (physNat s k at_ 8)
    if pteV p && !pteLeaf p then levelZeroGo s k va ls (pteAddr p) else none

/-- The level-0 entry of an address that the walk finds invalid there. -/
def absentEntry (s : State) (k space va : Nat) : Option (Nat × Double) :=
  let e := BitVec.ofNat 64 (physNat s k ((s.dev k).sptbase + 8 * space) 8)
  match levelZeroGo s k va [39, 30, 21, 16] ((e.extractLsb' 12 36).toNat * 4096) with
  | some (at_, p) => if e.getLsbD 0 && !pteV p then some (at_, p) else none
  | none => none

/-- Zero a range of device physical memory. -/
def physZero (s : State) (k pa n : Nat) : State :=
  match apOf s k pa with
  | some a => { s with mem := s.mem.filter fun p => !(decide (a ≤ p.1) && decide (p.1 < a + n)) }
  | none => s

/-- What a bounce install answers: the frame, an empty pool, or no frame for another reason. -/
inductive BounceAns where
  | ok (s : State) (frame : Nat) | empty | none_ (s : State)

/-- Install a bounce frame for a non-resident destination page (R400). A frame used before has the map of its new item. -/
def bounceInstall (s : State) (k c launch space va at_ : Nat) (old : Double) : BounceAns :=
  match poolPop s k (poolQueue s k (dieOf c) 3) launch with
  | .empty => .empty
  | .refused s => .none_ s
  | .item s frame map =>
    let s := physZero (physZero s k frame 65536) k map 128
    let p : Double := BitVec.ofNat 64 (0xC000_0000_0000_0000 + 2 * 2 ^ 60 + k * 2 ^ 56 + 2 ^ 55 + frame)
    match casPte s k space va at_ old p with
    | (s, true) =>
      let s := s.updDev k fun d => { d with bounce := (d.bounce.filter fun b => decide (b.1 ≠ frame)) ++ [(frame, map)] }
      .ok (postFault s k (accessFault s va launch space (some c) frame 18 0 5)) frame
    | (s, false) => .none_ s

/-- The promotion pool's field of Table 22.1 for a page size. -/
def promField (size : Nat) : Nat := if size = 65536 then 0 else if size = 2 ^ 21 then 1 else 2

/-- Start the page-in of a far page, unless one runs; an empty pool makes it wait for a frame (R291, R397). -/
def startPageIn (s : State) (k c launch space va : Nat) (p : Double) (at_ size : Nat) : State :=
  if (s.dev k).pageins.any fun q => decide (q.pteAt = at_) then s
  else
    let q := poolQueue s k (dieOf c) (promField size)
    let item : PageIn :=
      { space := space, va := va / size * size, size := size, far := pteAddr p, near := none, queue := q, pte := p,
        pteAt := at_, core := c }
    match poolPop s k q launch with
    | .item s frame _ => s.updDev k fun d => { d with pageins := d.pageins ++ [{ item with near := some frame }] }
    | .empty =>
      let s := postFault s k (accessFault s va launch space (some c) q 17 0 10)
      s.updDev k fun d => { d with pageins := d.pageins ++ [item] }
    | .refused s => s.updDev k fun d => { d with pageins := d.pageins ++ [item] }

/-- Note a page a command has translated: it sees it so until it ends, and it counts as a reader (R105, R106). -/
def notePage (s : State) (j : Job) (q : CopyCmd) (va pa size tier : Nat) : CopyCmd :=
  { q with
    pages := q.pages ++ [{ va := va / size * size, size := size, pa := pa - va % size, tier := tier }]
    phases := q.phases ++ [(s.core j.core).phase] }

/-- Would one more translation of a command take the counter of its core's current phase to 2^31 (R105)? The command's own counts
are in the engine. -/
def copyFull (s : State) (c : Nat) (q : CopyCmd) : Bool :=
  let noted := match (s.core c).copies.find? fun p => decide (p.id = q.id) with | some p => p.phases.length | none => 0
  decide (2 ^ 31 ≤ cntOf s c (s.core c).phase + (q.phases.length - noted) + 1)

/-- Translate a paged address of a command, through the engine's walk-ahead cache (R391). An entry that has changed is walked
anew. -/
def copyXlate (s : State) (j : Job) (q : CopyCmd) (va : Nat) (write : Bool) : State × CopyCmd × CopyX :=
  let space := j.l.rec_.space
  match q.pages.find? fun p => decide (p.va ≤ va ∧ va < p.va + p.size) with
  | some p => (s, q, .ok (p.pa + (va - p.va)) p.tier)
  | none =>
    if copyFull s j.core q then (s, q, .busy)
    else
      let walk := cachedWalk s j.dev space va (s.core j.core).copyTlb
      let s := s.updCore j.core fun k => { k with copyTlb := walk.2 }
      match walk.1 with
      | .leaf p at_ size =>
        let pa := pteAddr p + va % size
        if write then
          match serveLeaf s j.dev (dieOf j.core) (some j.core) j.l.id space va true 18 p at_ size with
          | (s, .ok pa) => (s, notePage s j q va pa size (pteTier p), .ok pa (pteTier p))
          | (s, .fail) => (s, q, .fault)
          | (s, .wait) =>
            (s.updCore j.core fun k => { k with copyTlb := k.copyTlb.filter fun t => decide (t.pteAt ≠ at_) }, q,
              if (s.dev j.dev).asides.any fun a => decide (a.pteAt = at_) then .aside else .busy)
        else if pteTier p = 1 ∧ pteProm p then
          (startPageIn s j.dev j.core j.l.id space va p at_ size, q, .defer)
        else (s, notePage s j q va pa size (pteTier p), .ok pa (pteTier p))
      | .bad kind sub info =>
        let fail (s : State) : State × CopyCmd × CopyX :=
          (postFault s j.dev (walkRecord s (some j.core) j.l.id space va (if write then 18 else 17) kind sub info), q, .fault)
        match (if write ∧ kind = 1 then absentEntry s j.dev space va else none) with
        | none => fail s
        | some (at_, old) =>
          match bounceInstall s j.dev j.core j.l.id space va at_ old with
          | .ok s frame =>
            let pa := frame + va % 65536
            (s, notePage s j q va pa 65536 2, .ok pa 2)
          | .none_ s => fail s
          | .empty =>
            fail (postFault s j.dev
              (accessFault s va j.l.id space (some j.core) (poolQueue s j.dev (dieOf j.core) 3) 18 0 10))

/-! ### Where the memory side lies -/

/-- The place of a memory-side access: paged, the own core's slice, another core's, a peer window, or nowhere. -/
inductive CopyLoc where
  | paged | own (off gen : Nat) | remote (core off : Nat) | peer (win off : Nat) | bad
  deriving DecidableEq, Repr

/-- The private scratch of the warp that issued a command. -/
def jobPriv (s : State) (j : Job) (q : CopyCmd) (o n : Nat) : Option (Nat × Nat) :=
  match s.warp? j.core q.slot with
  | some w =>
    if w.wg = j.g ∧ w.round.st = .running ∧ o + n ≤ w.round.psize * 1024 then some (w.round.privBase + o, w.round.privGen)
    else none
  | none => none

/-- Find it. -/
def copyLoc (s : State) (j : Job) (q : CopyCmd) (va n : Nat) : CopyLoc :=
  match regionOf va with
  | .paged => .paged
  | .local_ o =>
    if 0x8000_0000 ≤ o then match jobPriv s j q (o - 0x8000_0000) n with | some p => .own p.1 p.2 | none => .bad
    else if o + n ≤ j.wg.size then .own (j.wg.base + o) j.wg.gen
    else .bad
  | .slice idx off =>
    match coreOfIdx s j.dev idx with
    | none => .bad
    | some c =>
      if addressable (s.dev j.dev).hcshare < off + n then .bad
      else if c = j.core then match allocAt s c j.wg.launch off n with | some (_, g) => .own off g.gen | none => .bad
      else .remote c off
  | .peer w off =>
    let p := windowOf s j.dev w
    if p.valid ∧ off + n ≤ p.size * 65536 then .peer w off else .bad
  | .reserved => .bad

/-- What a command's read or write of a piece answers: a value; a stop with its status and stale granule; a fault, a
deferral or a copy-aside to wait for; not yet; or uncorrectable data. -/
inductive Got where
  | ok (v : Nat) | stop (stale : Option Nat) | fault | defer | aside | busy | poison (at_ : Bad)
  deriving DecidableEq, Repr

/-- Read n bytes of a slice under a generation and the launch's stale policy. -/
def readUnder (s : State) (j : Job) (c off gen va n : Nat) : Got :=
  if j.l.rec_.genTrap ∧ rangeStale (s.core c) gen off n then .stop (some (va / 64 * 64))
  else if slicePoison (s.core c) gen off n then .poison (.slice c)
  else .ok (sliceNat (s.core c) gen off n)

/-- Which 512 bytes of which box row the chunk at element k is of (Table 17.5). -/
def rowUnit (j : Job) (k : Nat) : Nat :=
  let n := (j.lay.ext j.rows).getD 0 1
  k / n * ((n * j.lay.bits / 8 + 511) / 512) + k % n * j.lay.bits / 8 / 512

/-- A write of one chunk for the copy queue (R81); `swap` keeps the element it begins at (R293). -/
def copyReq (s : State) (j : Job) (q : CopyCmd) (t : Target) (at_ k va data keep : Nat) : Req :=
  { id := s.nextId, pc := 0, hdr := 0, core := j.core, slot := q.slot, wg := j.g, launch := j.wg.launch, space := j.l.rec_.space, inst := 0, owner := 0,
    path := .copy, kind := .store, target := t, size := 16,
    lanes := [{ lane := 0, at_ := at_, data := data, swap := k, va := va, keep := keep }], pend := none, pred := none,
    cmd := some q.id, acc := (s.core j.core).cycle, release := false, waitReads := [],
    marks := (match s.warp? j.core q.slot with | some w => w.waited | none => []),
    external := false, sent := 0, inMesh := false, phase := 2, marked := false, via := none, unit := rowUnit j k }

/-- Read n bytes through a peer window: at a device of this package, where a read that waits keeps the check it has passed
(R366); over a link, with what nothing determines (log 5); or nowhere, which fails at the issuer with a REMOTE record (R416).
-/
def copyPeer (s : State) (j : Job) (q : CopyCmd) (w off va n : Nat) : State × CopyCmd × Got :=
  let p := windowOf s j.dev w
  let me := (s.dev j.dev).devnum
  let done (q : CopyCmd) : CopyCmd := { q with via := none }
  match peerWay s j.dev p.target with
  | .here k =>
    let x := match q.via with | some v => v.exp | none => exportOf s k p.exp
    if q.via.isNone && !exportPass x p.key off n then
      (postFault s k (remoteRecord (x.base + off) x.space me 1), q, .stop none)
    else
      let seq := match q.via with | some v => v.seq | none => s.nextId
      let wait (s : State) : State × CopyCmd × Got :=
        ({ s with nextId := s.nextId + 1 }, { q with via := some (checkedBy s k x off seq) }, .busy)
      if peerBehind s j.dev k seq false 1 then wait s
      else
        match peerPlace s k x me off n 1 (some j.g) with
        | (s, .mem k pa) => (s, done q, if poisoned s k pa n then .poison (.mem pa) else .ok (physNat s k pa n))
        | (s, .slice c o gen _) =>
          (s, done q, if slicePoison (s.core c) gen o n then .poison (.slice c) else .ok (sliceNat (s.core c) gen o n))
        | (s, .wait) => wait s
        | (s, .refused) => (s, done q, .stop none)
  | .link l =>
    let r := { copyReq s j q (.peer j.dev w p off) off q.pos va 0 0 with kind := .load, size := n }
    match takeFault { s with linkOut := s.linkOut ++ [.request l p.target p.exp p.key r] } with
    | (s, true) => (s, q, .stop none)
    | (s, false) =>
      let r := takeFreeBytes s n
      (r.1, q, .ok r.2)
  | .lost => (postFault s j.dev (lostRecord s j.core j.l.id j.l.rec_.space va 17), q, .stop none)

/-- Is the home of a line of device memory not to be read now: its die's clock stopped, or the line held by an operation set aside
(R423)? -/
def homeBusy (s : State) (k pa n : Nat) : Bool := (s.die (homeDie s k pa)).stopped || lineHeld s k pa n

/-- Read n bytes on the memory side. The copy engine never reads from Brine (R87). -/
def copyRead (s : State) (j : Job) (q : CopyCmd) (va n : Nat) : State × CopyCmd × Got :=
  match copyLoc s j q va n with
  | .paged =>
    match copyXlate s j q va false with
    | (s, q, .ok pa _) =>
      (s, q, if homeBusy s j.dev pa n then .busy else if poisoned s j.dev pa n then .poison (.mem pa) else .ok (physNat s j.dev pa n))
    | (s, q, .fault) => (s, q, .fault)
    | (s, q, .defer) => (s, q, .defer)
    | (s, q, .aside) => (s, q, .aside)
    | (s, q, .busy) => (s, q, .busy)
  | .own off gen => (s, q, readUnder s j j.core off gen va n)
  | .remote c off =>
    match allocAt s c j.wg.launch off n with
    | none => (s, q, .stop none)
    | some (g, y) =>
      if g ≠ j.g ∧ unverifiedAt y off n ∨ (s.die (dieOf c)).stopped then (s, q, .busy) else (s, q, readUnder s j c off y.gen va n)
  | .peer w off => copyPeer s j q w off va n
  | .bad => (s, q, .stop none)

/-- Does a read of a command cross dies or go to a peer, so that it may time out (R405)? -/
def readsAway (s : State) (j : Job) (q : CopyCmd) (va n : Nat) : Bool :=
  match copyLoc s j q va n with
  | .paged =>
    match q.pages.find? fun p => decide (p.va ≤ va ∧ va < p.va + p.size) with
    | some p => decide (homeDie s j.dev (p.pa + (va - p.va)) ≠ dieOf j.core)
    | none => false
  | .remote c _ => decide (dieOf c ≠ dieOf j.core)
  | .peer .. => true
  | .own .. | .bad => false

/-- Read n bytes, and note since when the read of a chunk across dies or at a peer waits (R405). -/
def copyGet (s : State) (j : Job) (q : CopyCmd) (va n : Nat) : State × CopyCmd × Got :=
  let g := copyRead s j q va n
  let since :=
    if g.2.2 = .busy ∧ readsAway g.1 j g.2.1 va n then some (q.readAt.getD (s.core j.core).cycle) else none
  (g.1, { g.2.1 with readAt := since }, g.2.2)

/-- Accept a chunk's write; in plain mode its token waits for the acknowledgement (R88, R298). -/
def copyAccept (s : State) (j : Job) (q : CopyCmd) (r : Req) : State × CopyCmd × Got :=
  if !brineRoom s j.core j.l.rec_.mode 16 then (s, q, .busy)
  else (accept s r false, { q with writes := if j.l.rec_.mode = 0 then q.writes ++ [r.id] else q.writes }, .ok 0)

/-- Write a chunk on the memory side: the bits of `keep` (R70), which start at element k. -/
def copyPut (s : State) (j : Job) (q : CopyCmd) (k va data keep : Nat) : State × CopyCmd × Got :=
  match copyLoc s j q va 16 with
  | .paged =>
    if !brineRoom s j.core j.l.rec_.mode 16 then (s, q, .busy)
    else
      match copyXlate s j q va true with
      | (s, q, .ok pa tier) =>
        let p : Double := BitVec.ofNat 64 (tier * 2 ^ 60 + pa / 65536 * 65536)
        let s := noteBounce s j.dev p pa
        copyAccept s j q (copyReq s j q (.mem pa) pa k va data keep)
      | (s, q, .fault) => (s, q, .fault)
      | (s, q, .defer) => (s, q, .defer)
      | (s, q, .aside) => (s, q, .aside)
      | (s, q, .busy) => (s, q, .busy)
  | .own off gen =>
    let old := sliceNat (s.core j.core) gen off 16
    let v := (old &&& (2 ^ 128 - 1 - keep)) ||| (data &&& keep)
    (ownWrite s j.core off gen (bytesOfNat 16 v), q, .ok 0)
  | .remote c off => copyAccept s j q (copyReq s j q (.slice c off) off k va data keep)
  | .peer w off => copyAccept s j q (copyReq s j q (.peer j.dev w (windowOf s j.dev w) off) off k va data keep)
  | .bad => (s, q, .stop none)

end Sys2Proof.Machine
end

