-- ==== Sys2Proof/Machine/Copy.lean ====
section
/-! DEFINITION. The copy engine's run of a command (R282, R285 to R296) and the meanings of the COPY page (R278 to R284). -/

namespace Sys2Proof.Machine

open Host (Outcome)

/-! ### Commands in the engine -/

/-- A command of a core by its number. -/
def copyCmd (s : State) (c id : Nat) : Option CopyCmd := (s.core c).copies.find? fun q => decide (q.id = id)

/-- Put a changed command back. -/
def putCmd (s : State) (c : Nat) (q : CopyCmd) : State :=
  s.updCore c fun k => { k with copies := k.copies.map fun p => if p.id = q.id then q else p }

/-- Decide a command's outcome. -/
def decideCmd (q : CopyCmd) (status resume : Nat) (stale : Option Nat) : CopyCmd :=
  { q with status := some status, resume := resume, wait := .no, ahead := [], readAt := none, via := none, stale := stale.isSome, staleAddr := stale.getD 0 }

/-- Is a command held back by an earlier one of its warp that may still write (R282)? Its reads may run ahead meanwhile, by
`copyAhead`. -/
def copyBlocked (s : State) (c : Nat) (q : CopyCmd) : Bool :=
  (s.core c).copies.any fun p =>
    decide (p.slot = q.slot ∧ p.wg = q.wg ∧ p.id < q.id ∧ p.args.op < 5 ∧ p.status = none)

/-- What one chunk did: go on, or end here for now. -/
inductive ChunkOut where
  | more | rest | poison (at_ : Bad)
  deriving DecidableEq, Repr

/-- A stop at the command's position, or under HOLD a wait (R289, R290). -/
def copyStop (q : CopyCmd) (va : Nat) : Got → CopyCmd
  | .ok _ | .poison _ => q
  | .stop stale => decideCmd q 3 q.pos stale
  | .fault => if q.args.hold then { q with wait := .fault va } else decideCmd q 1 q.pos none
  | .defer => if q.args.hold then { q with wait := .defer va } else decideCmd q 2 q.pos none
  | .aside => { q with wait := .aside va }
  | .busy => { q with wait := .busy }

/-- Read the memory pieces of a chunk, lowest first: the values, or the first that did not answer one. -/
def getPieces (s : State) (j : Job) : List (Nat × Nat) → CopyCmd → State × CopyCmd × List Nat × Option (Nat × Got)
  | [], q => (s, q, [], none)
  | (va, n) :: ps, q =>
    match copyGet s j q va n with
    | (s, q, .ok v) =>
      let r := getPieces s j ps q
      (r.1, r.2.1, v :: r.2.2.1, r.2.2.2)
    | (s, q, g) => (s, q, [], some (va, g))

/-- A chunk's dense bits from its pieces, elements outside the extents zero (R70, R72). -/
def chunkValue (j : Job) (inside : Nat) (vs : List Nat) : Nat :=
  let v := if j.lay.sp24 then expand24 j.lay.bits j.per (vs.getD 0 0) (vs.getD 1 0) else vs.getD 0 0
  v &&& keepBits j.lay.bits inside

/-- Write a chunk into the scratchpad box or the slot. -/
def chunkStore (s : State) (j : Job) (a : CopyArgs) (k v : Nat) : State :=
  let p := chunkPlace j a k
  if a.ops then
    s.updCore j.core fun c =>
      { c with array := { c.array with
          slots := fput c.array.slots a.oslot (memWriteBytes (arrSlot c.array a.oslot) p (bytesOfNat 16 v)) } }
  else wgWrite s j.g (a.word5 + p) (bytesOfNat 16 v)

/-- Does a row's index fail (R73)? -/
def rowFails (j : Job) (i : Nat) : Bool :=
  let bound := if j.lay.ibound = 0 then j.lay.dim.getD (j.lay.rank - 1) 0 else j.lay.ibound
  decide (bound ≤ i)

/-- What has run ahead of the chunk at a command's position: its value, or that it is written (R79). -/
def aheadAt (q : CopyCmd) (k : Nat) : Option (Option Nat) := (q.ahead.find? fun p => decide (p.1 = k)).map Prod.snd

/-- The command past the chunk at its position. -/
def pastChunk (j : Job) (q : CopyCmd) : CopyCmd :=
  { q with pos := q.pos + j.per, ahead := q.ahead.filter fun p => decide (p.1 ≠ q.pos) }

/-- One chunk of a load (R285). -/
def loadChunk (s : State) (j : Job) (q : CopyCmd) (inside : Nat) : State × CopyCmd × ChunkOut :=
  match aheadAt q q.pos with
  | some (some v) => (chunkStore s j q.args q.pos v, pastChunk j q, .more)
  | some none => (s, pastChunk j q, .more)
  | none =>
    if inside = 0 then (chunkStore s j q.args q.pos 0, pastChunk j q, .more)
    else
      match getPieces s j (chunkPieces j q.args q.pos) q with
      | (s, q, vs, none) => (chunkStore s j q.args q.pos (chunkValue j inside vs), pastChunk j q, .more)
      | (s, q, _, some (_, .poison b)) => (s, q, .poison b)
      | (s, q, _, some (va, g)) => (s, copyStop q va g, .rest)

/-- One chunk of a store or a fill (R285): `v` is what it writes. -/
def storeChunk (s : State) (j : Job) (q : CopyCmd) (inside v : Nat) : State × CopyCmd × ChunkOut :=
  let va := ((chunkPieces j q.args q.pos).head?.map Prod.fst).getD 0
  match copyPut s j q q.pos va v (keepBits j.lay.bits inside) with
  | (s, q, .ok _) => (s, pastChunk j q, .more)
  | (s, q, g) => (s, copyStop q va g, .rest)

/-- The scratchpad bytes of the stored chunk at element k, or the stale granule met (R285, Table 5.2). -/
def boxRead (s : State) (j : Job) (q : CopyCmd) (k : Nat) : Got :=
  let o := q.args.word5 + chunkPlace j q.args k
  readUnder s j j.core (j.wg.base + o) j.wg.gen (localAddr o) 16

/-- A value repeated over a chunk (CPFILL). -/
def fillValue (j : Job) (v : Nat) : Nat :=
  ((List.range j.per).map fun n => v % 2 ^ j.lay.bits * 2 ^ (j.lay.bits * n)).sum

/-- One chunk of a box command. -/
def chunkRun (s : State) (j : Job) (q : CopyCmd) : State × CopyCmd × ChunkOut :=
  let a := q.args
  let skip := pastChunk j q
  if j.rows.isSome && rowFails j (a.index.getD (jobRow j q.pos) 0) then (s, skip, .more)
  else
    let inside := chunkIn j a q.pos
    if a.op = 0 ∨ a.op = 2 then loadChunk s j q inside
    else if inside = 0 then (s, skip, .more)
    else if a.op = 4 then storeChunk s j q inside (fillValue j a.word5)
    else
      match aheadAt q q.pos, boxRead s j q q.pos with
      | some (some v), _ | _, .ok v => storeChunk s j q inside v
      | _, .poison b => (s, q, .poison b)
      | _, g => (s, copyStop q 0 g, .rest)

/-- So many chunks from the command's position on; the rest wait (R79, R82). -/
def chunksGo (j : Job) : Nat → State → CopyCmd → State × CopyCmd × ChunkOut
  | 0, s, q => (s, if j.total ≤ q.pos then decideCmd q 0 j.total none else { q with wait := .busy }, .rest)
  | n + 1, s, q =>
    if j.total ≤ q.pos then (s, decideCmd q 0 j.total none, .rest)
    else
      match chunkRun s j q with
      | (s, q, .more) => chunksGo j n s q
      | r => r

/-- The checks of Table 13.5 after the record is read: an outcome at once, or none. -/
def startCheck (j : Job) (a : CopyArgs) : Option Nat :=
  let bytes := j.total * j.lay.bits / 8
  if !layoutOk j.lay a.origin j.rows || j.lay.sp24 && decide (a.op ≠ 0) || j.rows.isSome && decide (j.lay.rank < 2) then some 3
  else if a.op ≠ 4 ∧ (if a.ops then 8192 < bytes else j.wg.size < a.word5 + bytes) then some 3
  else if a.start % j.per ≠ 0 then some 3
  else none

/-- The lowest row whose index fails. -/
def badRow (j : Job) (a : CopyArgs) : Option Nat :=
  match j.rows with
  | none => none
  | some n => firstBelow n fun i => rowFails j (a.index.getD i 0)

/-- What a command acts for once its record is read: rows in place of the last extent in a gather or scatter (R288). -/
def boxJob (j : Job) (q : CopyCmd) (v : Nat) : Job :=
  { j with lay := layoutOf v, rows := if q.args.op = 2 ∨ q.args.op = 3 then some q.args.count else none }

/-- A box command as its record is read: it ends at a check of Table 13.5, or stands at its first element (R286). -/
def boxStart (j0 : Job) (q : CopyCmd) (v : Nat) : CopyCmd :=
  let j := boxJob j0 q v
  if q.rec_.isSome then q
  else
    match startCheck j q.args with
    | some status => decideCmd q status 0 none
    | none =>
      if j.total ≤ q.args.start then decideCmd { q with rec_ := some v, pos := q.args.start } 0 j.total none
      else { q with rec_ := some v, pos := q.args.start, rowBad := badRow j q.args }

/-- The record of a command, read once, at its issue (R69, R286). DEDUCED (log 44): one in a promotable far page starts a
page-in and ends DEFERRED with RESUME 0, or waits under HOLD, as a source page does (R291). -/
def recordGet (s : State) (j : Job) (q : CopyCmd) : State × CopyCmd × Got :=
  match q.rec_ with
  | some v => (s, q, .ok v)
  | none => copyGet s j q q.args.addr 64

/-! ### Chunks ahead of their turn (R79, R282, R287) -/

/-- Is every page of the chunks from one element up to another translated, so that a later one may be (R287)? Their sources are
paged, and so none of them stops the command. -/
def earlierDone (j : Job) (q : CopyCmd) : Nat → Nat → Bool
  | 0, _ => true
  | n + 1, k =>
    ((j.rows.isSome && rowFails j (q.args.index.getD (jobRow j k) 0)) || decide (chunkIn j q.args k = 0) ||
      (chunkPieces j q.args k).all fun p => q.pages.any fun g => decide (g.va ≤ p.1 ∧ p.1 < g.va + g.size)) &&
    earlierDone j q n (k + j.per)

/-- The value that the read of the chunk at element k gives ahead of its turn, if nothing stops it. -/
def readAhead (s : State) (j : Job) (q : CopyCmd) (k : Nat) : Option (State × CopyCmd × Nat) :=
  let inside := chunkIn j q.args k
  if inside = 0 ∨ (j.rows.isSome ∧ rowFails j (q.args.index.getD (jobRow j k) 0)) then none
  else if q.args.op = 0 ∨ q.args.op = 2 then
    let ps := chunkPieces j q.args k
    if earlierDone j q ((k - q.pos) / j.per) q.pos && ps.all fun p => decide (regionOf p.1 = .paged) then
      match getPieces s j ps q with
      | (s, q, vs, none) => some (s, q, chunkValue j inside vs)
      | (_, _, _, some _) => none
    else none
  else if q.args.op = 1 ∨ q.args.op = 3 then (match boxRead s j q k with | .ok v => some (s, q, v) | _ => none)
  else none

/-- Read the chunk at an element ahead of its turn, and, for a load that no earlier command holds back, write it too (R79,
R282). -/
def copyAhead (s : State) (c id k : Nat) (write : Bool) : State :=
  match copyCmd s c id with
  | none => s
  | some q =>
    match fget s.wgs q.wg, q.rec_ with
    | some g, some v =>
      match fget s.launches g.launch with
      | none => s
      | some l =>
        let j := boxJob { core := c, dev := devOfCore s c, g := q.wg, wg := g, l := l, lay := layoutOf 0, rows := none } q v
        let turn := q.status.isNone && !(s.die (dieOf c)).stopped && decide (q.wait = .no ∨ q.wait = .busy ∨ q.wait = .earlier)
        if !turn || decide (k < q.pos ∨ j.total ≤ k ∨ k % j.per ≠ 0) || (aheadAt q k).isSome then s
        else
          match readAhead s j q k with
          | none => s
          | some (s, q, v) =>
            if write && decide (q.args.op = 0 ∨ q.args.op = 2) && !copyBlocked s c q then
              putCmd (chunkStore s j q.args k v) c { q with ahead := q.ahead ++ [(k, none)] }
            else putCmd s c { q with ahead := q.ahead ++ [(k, some v)] }
    | _, _ => s

/-! ### Promotion and hand-over (R294, R295) -/

/-- CPPAGEIN's translation: done, a page-in to wait for, which it counts as a reader of the page, or a failure (R105, R294). -/
def pageInRun (s : State) (j : Job) (q : CopyCmd) : State × CopyCmd :=
  let space := j.l.rec_.space
  if copyFull s j.core q then (s, { q with wait := .busy })
  else
  match walkPage s j.dev space q.args.addr with
  | .leaf p at_ size =>
    if pteTier p = 1 then
      (startPageIn s j.dev j.core j.l.id space q.args.addr p at_ size,
        { notePage s j q q.args.addr (pteAddr p + q.args.addr % size) size 1 with wait := .pagein q.args.addr })
    else (s, decideCmd q 0 0 none)
  | .bad kind sub info =>
    (postFault s j.dev (walkRecord s (some j.core) j.l.id space q.args.addr 17 kind sub info), decideCmd q 1 0 none)

/-- Hand one 64 KiB frame of logical device k at a physical address to partition `to_` (R295, R370, R398). -/
def handFrame (s : State) (k to_ launch pa : Nat) : State :=
  let w := frameWord s k pa
  let s := physWrite s k w.1 4 (w.2 / 4096 * 4096 + to_ * 1024 + w.2 % 1024)
  let die := dieAt s.pkg.mode k (pa / Config.dieSpan)
  postFault s to_
    { addr := pa % Config.dieSpan, launch := launch, space := 0, core := 0xFFFF, info := die * 256 + k, access := 0, sub := 0,
      kind := 6, entry := none }

/-- May a page of a range be handed over: near, owned, mapped once, not part of a large page the range cuts? -/
def handOk (s : State) (k lo hi va : Nat) (w : Walked) : Option (Nat × Nat) :=
  match w with
  | .leaf p _ size =>
    let pa := pteAddr p + va % size
    let base := va / size * size
    if pteTier p = 0 ∧ frameRef s k pa = 1 ∧ (size = 65536 ∨ (lo ≤ base ∧ base + size ≤ hi)) then some (pa, size) else none
  | .bad .. => none

/-- Hand pages over in ascending order from the command's position. -/
def handGo (j : Job) : Nat → State → CopyCmd → State × CopyCmd
  | 0, s, q => (s, { q with wait := .grace (((s.core j.core).f + 2) % 2 ^ 32), resume := q.args.count })
  | n + 1, s, q =>
    let space := j.l.rec_.space
    let va := q.args.addr + 65536 * q.pos
    match handOk s j.dev q.args.addr (q.args.addr + 65536 * q.args.count) va (walkPage s j.dev space va) with
    | none => (s, if q.pos = 0 then decideCmd q 3 0 none
        else { q with wait := .grace (((s.core j.core).f + 2) % 2 ^ 32), resume := q.pos })
    | some (pa, _) =>
      let s := handFrame s j.dev q.args.part j.l.id pa
      let s := dropTlbs s j.dev { kind := 0, va := va, space := space, size := 0 }
      handGo j n s { q with pos := q.pos + 1 }

/-- CPHAND: the earlier lane writes and copy commands first, those that Brine holds writes of among them (R88), then its operands,
then page by page (R295). Its look at the entries is no translation that counts as a reader: it would wait for itself (log 76). -/
def handRun (s : State) (j : Job) (q : CopyCmd) : State × CopyCmd :=
  let mine := (s.core j.core).copies.any fun p => decide (p.slot = q.slot ∧ p.wg = q.wg ∧ p.id < q.id)
  let mine := mine || (s.core j.core).trails.any fun p => decide (p.slot = q.slot ∧ p.wg = q.wg ∧ p.id < q.id)
  if laneBefore j.wg q.id || mine then (s, { q with wait := .earlier })
  else if q.args.count = 0 then (s, decideCmd q 0 0 none)
  else if 4 / devDies s.pkg.mode ≤ q.args.part ∨ q.args.part = j.dev then (s, decideCmd q 3 0 none)
  else handGo j q.args.count s q

/-! ### The run -/

/-- Run a command as far as it goes, or so many chunks of it. -/
def copyWork (s : State) (c id : Nat) (chunks : Option Nat) : State :=
  match copyCmd s c id with
  | none => s
  | some q =>
    match fget s.wgs q.wg with
    | none => s
    | some g =>
      match fget s.launches g.launch with
      | none => s
      | some l =>
        if q.status.isSome ∨ q.wait ≠ .no then s
        else
          let j : Job := { core := c, dev := devOfCore s c, g := q.wg, wg := g, l := l, lay := layoutOf 0, rows := none }
          if q.args.op = 5 then let r := pageInRun s j q; putCmd r.1 c r.2
          else if q.args.op = 7 then let r := handRun s j q; putCmd r.1 c r.2
          else
            match recordGet s j q with
            | (s, q, .ok v) =>
              let q := boxStart j q v
              let j := boxJob j q v
              if q.status.isSome then putCmd s c q
              else if copyBlocked s c q then putCmd s c { q with wait := .earlier }
              else
                match chunksGo j (chunks.getD (j.total / j.per + 1)) s q with
                | (s, _, .poison b) => badReplay s g.launch (dieOf c) b
                | (s, q, _) => putCmd s c q
            | (s, _, .poison b) => badReplay s g.launch (dieOf c) b
            | (s, q, .defer) => putCmd s c (copyStop q q.args.addr .defer)
            | (s, q, .aside) | (s, q, .busy) => putCmd s c { q with wait := .busy }
            | (s, q, .stop _) => putCmd s c (decideCmd q 3 0 none)
            | (s, q, .fault) => putCmd s c (decideCmd q 1 0 none)

/-- Does the agenda still name chunks of a command, whose events it then places (R79, log 3)? -/
def stepsAhead (s : State) (c id : Nat) : Bool :=
  s.agenda.any fun m => match m with | .copyStep c' id' _ => decide (c = c' ∧ id = id') | _ => false

/-- Run a command: as far as it goes, or, while the agenda names its chunks, to the first of them. -/
def copyRun (s : State) (c id : Nat) : State := copyWork s c id (if stepsAhead s c id then some 0 else none)

/-- The next chunks of a command that does not wait for anything else (R79, R82). -/
def copyStep (s : State) (c id chunks : Nat) : State :=
  match copyCmd s c id with
  | some q => if !(s.die (dieOf c)).stopped && decide (q.wait = .no ∨ q.wait = .busy) then copyWork (putCmd s c { q with wait := .no }) c id (some chunks) else s
  | none => s

/-- Let the waiting commands that a test accepts go on, oldest first; on a die whose clock is stopped when it runs again
(R421). -/
def copyResume (s : State) (c : Nat) (p : CopyCmd → Bool) : State :=
  let ids := ((s.core c).copies.filter fun q => q.status.isNone && p q).map CopyCmd.id
  ids.foldl (fun s id =>
    match copyCmd s c id with
    | some q =>
      if (s.die (dieOf c)).stopped then putCmd s c { q with wait := .busy } else copyRun (putCmd s c { q with wait := .no }) c id
    | none => s) s

/-- Commands that waited for room, for a slice or for an earlier command try again. -/
def copyRetry (s : State) (c : Nat) : State :=
  copyResume s c fun q => decide (q.wait = .busy ∨ q.wait = .earlier)

/-! ### Issue (R278 to R282) -/

/-- TOK of off15. -/
def copyTok (m : XM) : Nat := m.off.toNat % 8

/-- The operands of a command as the leader gives them. -/
def copyArgs (s : State) (x : Ctx) (op lead : Nat) (f : F3) (m : XM) : CopyArgs :=
  let blk (n : Nat) : Word := srcLane s x (f.b.toNat + n) lead
  let box := decide (op < 5)
  let n := if op = 7 then (srcLane s x f.b.toNat lead).toNat else m.off.toNat / 1024 + 1
  { op := op, addr := (pairLane s x f.a.toNat lead).toNat
    origin := if box then (List.range 5).map fun d => (blk d).toInt else []
    word5 := if box then (blk 5).toNat else 0
    start := if box then (blk 6).toNat else 0
    index := if op = 2 ∨ op = 3 then (List.range n).map fun l => (srcLane s x m.c.toNat l).toNat else []
    ops := m.off.getLsbD 3, oslot := m.off.toNat / 16 % 16, hold := m.off.getLsbD 8, count := n
    part := if op = 7 then (srcLane s x m.c.toNat lead).toNat else 0 }

/-- The checks at issue, in order (R281). -/
def copyTrap (x : Ctx) (a : CopyArgs) : Option TrapInfo :=
  let box := decide (a.op < 4 ∧ !(a.op = 0 ∧ a.ops))
  if a.op = 7 ∧ !x.l.rec_.hand then some (trapOf cPRIVILEGE)
  else if a.op < 5 ∧ a.addr % 64 ≠ 0 then some (trapAt cMISALIGNED a.addr)
  else if box ∧ a.word5 % 16 ≠ 0 then some (trapAt cMISALIGNED (localAddr a.word5))
  else if a.op = 7 ∧ a.addr % 65536 ≠ 0 then some (trapAt cMISALIGNED a.addr)
  else if regionOf a.addr ≠ .paged then some (trapAt cBOUNDS a.addr)
  else if box ∧ x.wg.size ≤ a.word5 then some (trapAt cBOUNDS (localAddr a.word5))
  else if a.op = 0 ∧ a.ops ∧ (x.wg.cg = none ∨ !x.k.array.claims.contains a.oslot) then some (trapOf cSLOT)
  else none

/-- A token of the issuing warp. -/
def tokenOf (w : Warp) (t : Nat) : Token := w.tokens.getD t Token.fresh

/-- Count the command and start it. -/
def copyGo (s : State) (x : Ctx) (t : Nat) (a : CopyArgs) : State :=
  let k := s.core x.core
  let y := tokenOf x.w t
  let q : CopyCmd :=
    { id := s.nextId, slot := x.slot, wg := x.g, tok := t, seq := y.seq, args := a, rec_ := none, pos := 0, pages := [],
      wait := .no, status := none, resume := 0, rowBad := none, werr := false, stale := false, staleAddr := 0,
      writes := [], issued := k.cycle, phases := [], ahead := [], readAt := none, via := none }
  let w := { x.w with tokens := setAt x.w.tokens t { y with count := y.count + 1, seq := (y.seq + 1) % 256 } }
  let s := goOn { s with nextId := s.nextId + 1 } x { k with copies := k.copies ++ [q] } w
  copyRun s x.core q.id

/-- A counted command of the COPY page. -/
def copyOp (i : Instr) (op : Nat) (f : F3) (m : XM) (ext : Bool) (s : State) : Outcome State Fault Refusal :=
  issue i s fun x =>
    let t := copyTok m
    match lowLane x.act with
    | none => { live := true, next := goOn s x x.k x.w }
    | some lead =>
      let a := copyArgs s x op lead f m
      { own := copyTrap x a
        live := true
        wait := if 63 ≤ (tokenOf x.w t).count then some .warp else none
        next := externally s x ext (copyGo s x t a) }

/-- CPLD (R285). -/
def execCpld (f : F3) (x : XM) (s : State) : Outcome State Fault Refusal := copyOp (.cpld f x) 0 f x false s
/-- CPST (R285). -/
def execCpst (f : F3) (x : XM) (s : State) : Outcome State Fault Refusal := copyOp (.cpst f x) 1 f x false s
/-- CPGATHER (R288). -/
def execCpgather (f : F3) (x : XM) (s : State) : Outcome State Fault Refusal := copyOp (.cpgather f x) 2 f x false s
/-- CPSCATTER (R288). -/
def execCpscatter (f : F3) (x : XM) (s : State) : Outcome State Fault Refusal := copyOp (.cpscatter f x) 3 f x false s
/-- CPFILL (R285). -/
def execCpfill (f : F3) (x : XM) (s : State) : Outcome State Fault Refusal := copyOp (.cpfill f x) 4 f x false s
/-- CPPAGEIN (R294). -/
def execCppagein (f : F3) (x : XM) (s : State) : Outcome State Fault Refusal := copyOp (.cppagein f x) 5 f x true s
/-- CPHAND (R295). -/
def execCphand (f : F3) (x : XM) (s : State) : Outcome State Fault Refusal := copyOp (.cphand f x) 7 f x true s

/-- The status word of Table 13.4. -/
def tokenWord (t : Token) : Nat :=
  t.resume % 2 ^ 32 * 2 ^ 32 + t.sq % 256 * 2 ^ 24 + t.count % 64 * 2 ^ 18 + bit t.more * 128 + bit t.stale * 64 + t.status % 8

/-- CPSTAT (R284). -/
def execCpstat (f : F3) (m : XM) (s : State) : Outcome State Fault Refusal :=
  issue (.cpstat f m) s fun x =>
    let t := tokenOf x.w (copyTok m)
    let w :=
      if m.off.getLsbD 9 ∧ x.act ≠ 0 then
        { x.w with tokens := setAt x.w.tokens (copyTok m) { t with status := 0, resume := 0, more := false, stale := false } }
      else x.w
    { live := true, next := goOn s x (putPair x x.k f.d.toNat fun _ => BitVec.ofNat 64 (tokenWord t)) w }

/-- Cancel a command that has not stopped (R296): what it has accepted performs, and it ends CANCELLED. -/
def cancelCmd (q : CopyCmd) : CopyCmd :=
  if q.status = none ∨ q.status = some 0 then decideCmd q 4 (if q.status = some 0 then q.resume else q.pos) none else q

/-- CPCANCEL (R296). -/
def execCpcancel (f : F3) (m : XM) (s : State) : Outcome State Fault Refusal :=
  issue (.cpcancel f m) s fun x =>
    let t := copyTok m
    let mine (q : CopyCmd) : Bool := decide (q.slot = x.slot ∧ q.wg = x.g ∧ q.tok = t)
    { live := true
      next :=
        if x.act = 0 then goOn s x x.k x.w
        else
          let k := { x.k with copies := x.k.copies.map fun q => if mine q then cancelCmd q else q }
          copyResume (goOn s x k x.w) x.core fun q => decide (q.wait = .earlier) }

/-! ### The end of a command (R88, R283, R293) -/

/-- The outcome a command reports: status, RESUME and whether MORE is set besides (R283, R293). -/
def cmdOutcome (q : CopyCmd) : Nat × Nat × Bool :=
  match q.status, q.rowBad with
  | some 0, some j => (3, j, false)
  | some n, some _ => (n, q.resume, true)
  | some n, none => (n, q.resume, false)
  | none, _ => (0, 0, false)

/-- Record an outcome on a token (R283). -/
def tokenEnd (t : Token) (q : CopyCmd) : Token :=
  let o := cmdOutcome q
  let t := { t with count := t.count - 1 }
  if t.status = 0 then
    { t with
      status := o.1
      resume := o.2.1
      sq := q.seq
      more := t.more || o.2.2
      stale := q.stale
      staleAddr := BitVec.ofNat 64 q.staleAddr }
  else if o.1 = 0 then t
  else { t with more := true }

/-- A command whose grace period has passed is decided (R295). -/
def graceEnd (k : Core) (q : CopyCmd) : CopyCmd :=
  match q.wait with
  | .grace t =>
    if q.status.isNone && serialGe k.c t then
      decideCmd q (if q.resume = q.args.count then 0 else 3) q.resume none
    else q
  | _ => q

/-- Does Brine keep a write of a copy command (R298)? -/
def copyHeld (s : State) (g id : Nat) : Bool :=
  match fget s.wgs g with
  | some x => (x.copyQ ++ x.left).any fun r => decide (r.cmd = some id)
  | none => false

/-- A decided command with no write outstanding leaves the engine; its warp's token counts it off. One whose writes Brine
holds has not completed, and its translations count until they have performed (R88, R105, R298). -/
def copyEnd (s : State) (c : Nat) (q : CopyCmd) : State :=
  let held := copyHeld s q.wg q.id
  let trail : List CopyTrail := if held then [{ id := q.id, issued := q.issued, slot := q.slot, wg := q.wg, phases := q.phases }] else []
  let s := if held then s else noteSample s (dieOf c) 1 (some c) ((s.core c).cycle - q.issued)
  let s := s.updCore c fun k => { k with copies := k.copies.filter (fun p => decide (p.id ≠ q.id)), trails := k.trails ++ trail }
  let s := s.updWarp c q.slot fun w =>
    if w.wg = q.wg then
      { w with
        tokens := setAt w.tokens q.tok (tokenEnd (tokenOf w q.tok) q)
        copied := if held then w.copied ++ [(q.tok, q.id)] else w.copied }
    else w
  copyRetry s c

/-- COPY_COMMAND_COMPLETE (R88, R283). A command that can go on meanwhile does. -/
def execCopyCommandComplete (core cmd : Nat) (s : State) : Outcome State Fault Refusal :=
  match copyCmd s core cmd with
  | none => .next s
  | some q =>
    let q := graceEnd (s.core core) q
    if (s.die (dieOf core)).stopped then .next s
    else if q.status.isSome && q.writes.isEmpty then .next (copyEnd s core q)
    else .next (copyRetry s core)

end Sys2Proof.Machine
end

