-- ==== Sys2Proof/Machine/Crypto.lean ====
section
/-! DEFINITION. SHA-512 and Ed25519, which the boot logic, the measurements and the quotes use (R407, R408, R411, R413, R414). The
spec names both algorithms. PRESUMED (log 7): their definitions are those of FIPS 180-4 and RFC 8032. A digest, a key and a signature
are numbers whose lowest byte is the first. -/

namespace Sys2Proof.Machine

/-! ### SHA-512 -/

/-- The words added in the rounds: the fractions of the cube roots of the first 80 primes. -/
def shaK : List Nat :=
  [0x428A_2F98_D728_AE22, 0x7137_4491_23EF_65CD, 0xB5C0_FBCF_EC4D_3B2F, 0xE9B5_DBA5_8189_DBBC, 0x3956_C25B_F348_B538,
   0x59F1_11F1_B605_D019, 0x923F_82A4_AF19_4F9B, 0xAB1C_5ED5_DA6D_8118, 0xD807_AA98_A303_0242, 0x1283_5B01_4570_6FBE,
   0x2431_85BE_4EE4_B28C, 0x550C_7DC3_D5FF_B4E2, 0x72BE_5D74_F27B_896F, 0x80DE_B1FE_3B16_96B1, 0x9BDC_06A7_25C7_1235,
   0xC19B_F174_CF69_2694, 0xE49B_69C1_9EF1_4AD2, 0xEFBE_4786_384F_25E3, 0x0FC1_9DC6_8B8C_D5B5, 0x240C_A1CC_77AC_9C65] ++
  [0x2DE9_2C6F_592B_0275, 0x4A74_84AA_6EA6_E483, 0x5CB0_A9DC_BD41_FBD4, 0x76F9_88DA_8311_53B5, 0x983E_5152_EE66_DFAB,
   0xA831_C66D_2DB4_3210, 0xB003_27C8_98FB_213F, 0xBF59_7FC7_BEEF_0EE4, 0xC6E0_0BF3_3DA8_8FC2, 0xD5A7_9147_930A_A725,
   0x06CA_6351_E003_826F, 0x1429_2967_0A0E_6E70, 0x27B7_0A85_46D2_2FFC, 0x2E1B_2138_5C26_C926, 0x4D2C_6DFC_5AC4_2AED,
   0x5338_0D13_9D95_B3DF, 0x650A_7354_8BAF_63DE, 0x766A_0ABB_3C77_B2A8, 0x81C2_C92E_47ED_AEE6, 0x9272_2C85_1482_353B] ++
  [0xA2BF_E8A1_4CF1_0364, 0xA81A_664B_BC42_3001, 0xC24B_8B70_D0F8_9791, 0xC76C_51A3_0654_BE30, 0xD192_E819_D6EF_5218,
   0xD699_0624_5565_A910, 0xF40E_3585_5771_202A, 0x106A_A070_32BB_D1B8, 0x19A4_C116_B8D2_D0C8, 0x1E37_6C08_5141_AB53,
   0x2748_774C_DF8E_EB99, 0x34B0_BCB5_E19B_48A8, 0x391C_0CB3_C5C9_5A63, 0x4ED8_AA4A_E341_8ACB, 0x5B9C_CA4F_7763_E373,
   0x682E_6FF3_D6B2_B8A3, 0x748F_82EE_5DEF_B2FC, 0x78A5_636F_4317_2F60, 0x84C8_7814_A1F0_AB72, 0x8CC7_0208_1A64_39EC] ++
  [0x90BE_FFFA_2363_1E28, 0xA450_6CEB_DE82_BDE9, 0xBEF9_A3F7_B2C6_7915, 0xC671_78F2_E372_532B, 0xCA27_3ECE_EA26_619C,
   0xD186_B8C7_21C0_C207, 0xEADA_7DD6_CDE0_EB1E, 0xF57D_4F7F_EE6E_D178, 0x06F0_67AA_7217_6FBA, 0x0A63_7DC5_A2C8_98A6,
   0x113F_9804_BEF9_0DAE, 0x1B71_0B35_131C_471B, 0x28DB_77F5_2304_7D84, 0x32CA_AB7B_40C7_2493, 0x3C9E_BE0A_15C9_BEBC,
   0x431D_67C4_9C10_0D4C, 0x4CC5_D4BE_CB3E_42B6, 0x597F_299C_FC65_7E2A, 0x5FCB_6FAB_3AD6_FAEC, 0x6C44_198C_4A47_5817]

/-- The first state: the fractions of the square roots of the first eight primes. -/
def shaStart : List Nat :=
  [0x6A09_E667_F3BC_C908, 0xBB67_AE85_84CA_A73B, 0x3C6E_F372_FE94_F82B, 0xA54F_F53A_5F1D_36F1, 0x510E_527F_ADE6_82D1,
   0x9B05_688C_2B3E_6C1F, 0x1F83_D9AB_FB41_BD6B, 0x5BE0_CD19_137E_2179]

/-- Rotate a 64-bit word to the right. -/
def rotr64 (x n : Nat) : Nat := (x >>> n ||| x <<< (64 - n)) % 2 ^ 64

/-- The message words of a block, the newest first, extended by n. -/
def shaWords : Nat → List Nat → List Nat
  | 0, w => w
  | n + 1, w =>
    let w2 := w.getD 1 0
    let w15 := w.getD 14 0
    let a := rotr64 w15 1 ^^^ rotr64 w15 8 ^^^ w15 >>> 7
    let b := rotr64 w2 19 ^^^ rotr64 w2 61 ^^^ w2 >>> 6
    shaWords n ((b + w.getD 6 0 + a + w.getD 15 0) % 2 ^ 64 :: w)

/-- One round over the state a to h. -/
def shaRound (h : List Nat) (k w : Nat) : List Nat :=
  match h with
  | [a, b, c, d, e, f, g, h] =>
    let t := h + (rotr64 e 14 ^^^ rotr64 e 18 ^^^ rotr64 e 41) + ((e &&& f) ^^^ ((2 ^ 64 - 1 - e) &&& g)) + k + w
    let u := (rotr64 a 28 ^^^ rotr64 a 34 ^^^ rotr64 a 39) + ((a &&& b) ^^^ (a &&& c) ^^^ (b &&& c))
    [(t + u) % 2 ^ 64, a, b, c, (d + t) % 2 ^ 64, e, f, g]
  | _ => h

/-- The value of some bytes, the highest first. -/
def natOfBytesHigh (bs : List Byte) : Nat := natOfBytes bs.reverse

/-- A block of 128 bytes changes the state. -/
def shaBlock (h : List Nat) (block : List Byte) : List Nat :=
  let w := (List.range 16).map fun i => natOfBytesHigh ((block.drop (8 * i)).take 8)
  let ws := (shaWords 64 w.reverse).reverse
  let t := (shaK.zip ws).foldl (fun x p => shaRound x p.1 p.2) h
  (h.zip t).map fun p => (p.1 + p.2) % 2 ^ 64

/-- So many blocks, one after the other. -/
def shaBlocks : Nat → List Nat → List Byte → List Nat
  | 0, h, _ => h
  | n + 1, h, bs => shaBlocks n (shaBlock h (bs.take 128)) (bs.drop 128)

/-- A message with its padding: a one, zeros, and its length in bits. -/
def shaPad (bs : List Byte) : List Byte :=
  bs ++ [0x80] ++ List.replicate ((239 - bs.length % 128) % 128) 0 ++ (bytesOfNat 16 (8 * bs.length)).reverse

/-- The bytes of a digest. -/
def shaBytes (bs : List Byte) : List Byte :=
  let m := shaPad bs
  (shaBlocks (m.length / 128) shaStart m).flatMap fun w => (bytesOfNat 8 w).reverse

/-- SHA-512. -/
def sha512 (bs : List Byte) : BitVec 512 := BitVec.ofNat 512 (natOfBytes (shaBytes bs))

/-! ### The curve of Ed25519 -/

/-- The field's order. -/
def edP : Nat := 2 ^ 255 - 19
/-- The order of the base point. -/
def edL : Nat := 2 ^ 252 + 27742317777372353535851937790883648493
/-- The curve's constant, -121665/121666. -/
def edD : Nat := 37095705934669439343138083508754565189542113879843219016388785533085940283555
/-- A power of a field element, over the exponent's n low bits. -/
def edPow (x e : Nat) : Nat → Nat
  | 0 => 1
  | n + 1 => let y := edPow x (e / 2) n; if e % 2 = 1 then y * y % edP * x % edP else y * y % edP

/-- A point in extended coordinates. -/
structure EdPoint where
  x : Nat
  y : Nat
  z : Nat
  t : Nat
  deriving DecidableEq, Repr

/-- The point of two coordinates. -/
def edPoint (x y : Nat) : EdPoint := { x := x, y := y, z := 1, t := x * y % edP }

/-- The neutral point. -/
def edZero : EdPoint := edPoint 0 1

/-- The base point: y = 4/5, x even. -/
def edBase : EdPoint :=
  edPoint 15112221349535400772501151409588531511454012693041857206046113283949847762202
    46316835694926478169428394003475163141307993866256225615783033603165251855960

/-- The sum of two points. -/
def edAdd (p q : EdPoint) : EdPoint :=
  let sub (a b : Nat) : Nat := (a + edP - b) % edP
  let a := sub p.y p.x * sub q.y q.x % edP
  let b := (p.y + p.x) * (q.y + q.x) % edP
  let c := p.t * 2 * edD % edP * q.t % edP
  let d := p.z * 2 * q.z % edP
  let e := sub b a
  let f := sub d c
  let g := (d + c) % edP
  let h := (b + a) % edP
  { x := e * f % edP, y := g * h % edP, z := f * g % edP, t := e * h % edP }

/-- A multiple of a point, over the scalar's n low bits. -/
def edMul (p : EdPoint) (k : Nat) : Nat → EdPoint
  | 0 => edZero
  | n + 1 => let q := edMul p (k / 2) n; if k % 2 = 1 then edAdd (edAdd q q) p else edAdd q q

/-- Are two points one? -/
def edSame (p q : EdPoint) : Bool := decide (p.x * q.z % edP = q.x * p.z % edP ∧ p.y * q.z % edP = q.y * p.z % edP)

/-- A point's 32 bytes as a number: y, and the lowest bit of x above it. -/
def edPack (p : EdPoint) : Nat :=
  let w := edPow p.z (edP - 2) 255
  p.y * w % edP + p.x * w % edP % 2 * 2 ^ 255

/-- The point that 32 bytes name, if there is one. -/
def edUnpack (n : Nat) : Option EdPoint :=
  let y := n % 2 ^ 255
  let u := (y * y + edP - 1) % edP
  let v := (edD * (y * y % edP) + 1) % edP
  let v3 := v * v % edP * v % edP
  let x := u * v3 % edP * edPow (u * (v3 * v3 % edP * v % edP) % edP) ((edP - 5) / 8) 252 % edP
  let vxx := v * (x * x % edP) % edP
  let x := if vxx = u then x else x * edPow 2 ((edP - 1) / 4) 253 % edP
  if edP ≤ y ∨ v * (x * x % edP) % edP ≠ u ∨ (x = 0 ∧ n / 2 ^ 255 = 1) then none
  else some (edPoint (if x % 2 = n / 2 ^ 255 then x else edP - x) y)

/-! ### Keys and signatures -/

/-- The secret scalar of a 32-byte seed, and the prefix that its signatures use. -/
def edSecret (seed : List Byte) : Nat × List Byte :=
  let h := shaBytes seed
  let a := natOfBytes (h.take 32)
  (a % 2 ^ 254 / 8 * 8 + 2 ^ 254, h.drop 32)

/-- The public key of a seed. -/
def edPublic (seed : List Byte) : BitVec 256 := BitVec.ofNat 256 (edPack (edMul edBase (edSecret seed).1 255))

/-- A digest as a scalar. -/
def edScalar (bs : List Byte) : Nat := natOfBytes (shaBytes bs) % edL

/-- The signature of a message under a seed. -/
def edSign (seed msg : List Byte) : BitVec 512 :=
  let key := edSecret seed
  let r := edScalar (key.2 ++ msg)
  let top := edPack (edMul edBase r 253)
  let k := edScalar (bytesOfNat 32 top ++ bytesOfNat 32 (edPublic seed).toNat ++ msg)
  BitVec.ofNat 512 (top + (r + k * key.1) % edL * 2 ^ 256)

/-- Does a signature of a message verify under a public key? -/
def edVerify (key : BitVec 256) (msg : List Byte) (sig : BitVec 512) : Bool :=
  let top := sig.toNat % 2 ^ 256
  let n := sig.toNat / 2 ^ 256
  let k := edScalar (bytesOfNat 32 top ++ bytesOfNat 32 key.toNat ++ msg)
  match edUnpack key.toNat, edUnpack top with
  | some a, some r => decide (n < edL) && edSame (edMul (edMul edBase n 253) 8 4) (edMul (edAdd r (edMul a k 253)) 8 4)
  | _, _ => false

end Sys2Proof.Machine
end

