-- ==== Sys2Proof/Machine/Serve.lean ====
section
/-! DEFINITION. Requests at their serialisation points: a home slice (R61, R264), another core's slice (R58, R145), a peer target
(R65, R91, R366, R416) and a channel's ring (R276, R277). -/

namespace Sys2Proof.Machine

open Host (Outcome)

/-- Add a request to those that wait at its queue. -/
def joinWaiting (s : State) (k : Nat) (r : Req) : State :=
  match r.target with
  | .mem pa =>
    let q := queueAt s k pa
    let w := wqWaiting s k q
    setWaiting s k q (match r.kind with | .wqpop _ => { w with pops := w.pops ++ [r] } | _ => { w with pushes := w.pushes ++ [r] })
  | .slice .. | .peer .. | .node _ => s

/-- Finish a request's service. -/
def serveDone (s : State) (k home : Nat) (r : Req) (a : Answer) : ServeEnd → State
  | .all => afterQueue (sendBack s r a) k home r
  | .aside rest => { sendPart s r a with aside := (sendPart s r a).aside ++ [{ r with lanes := rest }] }
  | .queue rest => afterQueue (joinWaiting (sendPart s r a) k { r with lanes := rest }) k home r
  | .poison b => badReplay s r.launch (dieOf r.core) b

/-! ### HOME_SLICE_SERVE -/

/-- The die at whose home slice, slice or node a request performs, if it is in this package. -/
def reqDie (s : State) (r : Req) : Option Nat :=
  match r.target with
  | .mem pa => some (homeDie s (devOfCore s r.core) pa)
  | .slice c _ => some (dieOf c)
  | .node k => some (dieAt s.pkg.mode k 0)
  | .peer .. => none

/-- Do two requests go to one destination: a core of the package, a line of a target device, or a device node? -/
def sameEnd (s : State) (a b : Req) : Bool :=
  match a.target, b.target with
  | .peer _ _ w o, .peer _ _ v q => decide (w.target = v.target ∧ w.exp = v.exp ∧ o / 64 = q / 64)
  | .node d, .node e => decide (d = e)
  | .peer .., _ | _, .peer .. | .node _, _ | _, .node _ => false
  | .mem _, _ | .slice .., _ => decide (reqHome s a = reqHome s b)

/-- Do two requests travel on one channel between one source and destination, so that their order holds (R78)? Messages
keep the order of their channel only (R90). -/
def sameRoute (s : State) (a b : Req) : Bool :=
  decide (a.core = b.core) && decide ((a.path = .copy) = (b.path = .copy)) && sameEnd s a b &&
    (match a.kind, b.kind with
      | .message m, .message n => decide (m = n ∧ a.wg = b.wg)
      | .message _, _ | _, .message _ => false
      | _, _ => true)

/-- Does a request stand before another in the queue of their home slice, which serves one at a time in order of arrival (R61,
R264)? Both came by the mesh, or from the slice's own core; one from another die may have arrived at any moment since it was
sent (log 22). -/
def queuedBefore (s : State) (a b : Req) : Bool :=
  match a.target, b.target with
  | .mem _, .mem _ =>
    match reqHome s a, reqHome s b with
    | some h, some g => decide (h = g ∧ a.inMesh = false ∧ dieOf h = dieOf a.core ∧ dieOf h = dieOf b.core)
    | _, _ => false
  | _, _ => false

/-- The request of a number that has arrived and whose turn it is: none is ahead of it on its route, no operation set
aside holds its line (R423), and its die's clock runs. -/
def arrived (s : State) (id : Nat) : Option Req :=
  match s.net.find? fun r => decide (r.id = id) with
  | none => none
  | some r =>
    let waits (q : Req) : Bool := match reqLine s q with | some l => s.aside.any fun p => decide (reqLine s p = some l) | none => false
    let ahead := (s.net.takeWhile fun q => decide (q.id ≠ id)).any fun q => sameRoute s q r || queuedBefore s q r && !waits q
    let held := waits r
    let still := match reqDie s r with | some d => (s.die d).stopped | none => false
    if r.inMesh || ahead || held || still then none else some r

/-- One lane at the home slice; what waits at its work queue is served before the next lane is (R274). -/
def queueLane (s : State) (k home : Nat) (r : Req) (o : LaneOp) : State × Served :=
  match homeLane s k home r o with
  | (s, .done v p) => (afterQueue s k home r, .done v p)
  | a => a

/-- Serve a request at its home slice. -/
def serveHome (s : State) (r : Req) (pa : Nat) : State :=
  let k := devOfCore s r.core
  let home := homeCore s k pa
  let s := takeNet s r.id
  match r.kind with
  | .sheadReset _ => sendBack (resetShead s k r pa) r {}
  | kind =>
    let g := serveGo (fun s o => queueLane s k home r o) (decide (kind = .append)) r.lanes s {}
    serveDone g.1 k home r g.2.1 g.2.2

/-- Bytes a load read at a place, with what its workgroup's Brine holds laid over them (R80). -/
def heldOver (s : State) (r : Req) (o : LaneOp) (v : Nat) : Nat :=
  if r.kind = .load then natOfBytes (overlay s r.wg r.target o.at_ (bytesOfNat r.size v)) else v

/-- The cause of a failure at a peer target: of a returning access, or deferred (Table 12.3). -/
def peerCause (r : Req) : Nat := if r.pend.isSome then cREMOTE else cCHANNEL

/-- A request that failed at a peer target. -/
def peerFail (s : State) (r : Req) : State := sendBack s r { errors := r.lanes.map fun o => (o.lane, peerCause r, o.va) }

/-- Answer a request that leaves the package: with a failure at its target, or with values nothing determines (R65, log 5). -/
def answerFree (s : State) (r : Req) : State :=
  match takeFault s with
  | (s, true) => peerFail s r
  | (s, false) =>
    let g := r.lanes.foldl (fun (p : State × List (Nat × Nat)) o =>
      let v := takeFreeBytes p.1 r.size
      (v.1, p.2 ++ [(o.lane, heldOver s r o v.2)])) (s, [])
    sendBack g.1 r { values := if r.pend.isSome then g.2 else [] }

/-- Does an operation read what it touches? -/
def readsData (k : ReqKind) : Bool :=
  match k with
  | .load | .atom .. | .cas | .joinDec => true
  | _ => false

/-- One lane through an export of device k whose check it has passed (R65, R365). -/
def peerLane (k0 k : Nat) (x : Export) (r : Req) (s : State) (o : LaneOp) : State × Served :=
  let at_ (s : State) (p : Place) : State × Served :=
    match plainLane s r p o with
    | (s, .done v b) => (s, .done (v.map (heldOver s r o)) b)
    | a => a
  match peerPlace s k x (s.dev k0).devnum o.at_ r.size (accessOf r.kind) (some r.wg) with
  | (s, .mem k pa) => at_ s (.mem k pa)
  | (s, .slice c off gen _) => at_ s (.slice c off gen)
  | (s, .wait) => (s, .aside)
  | (s, .refused) => (s, .error (peerCause r) o.va)

/-- A request that has arrived at its peer target waits there with the lanes left: it keeps the check it has passed and its
place in the order of arrival (R91, R366). -/
def peerWait (s : State) (k : Nat) (x : Export) (r : Req) (rest : List LaneOp) : State :=
  let seq := match r.via with | some v => v.seq | none => s.nextId
  let off := match rest with | o :: _ => o.at_ | [] => 0
  let v := checkedBy s k x off seq
  { s with
    nextId := s.nextId + 1
    net := s.net.map fun q => if q.id = r.id then { q with lanes := rest, via := some v } else q }

/-- Serve a request at an export of a device of this package: checked once, in its turn among its initiator's, and lane by
lane. -/
def serveExport (s : State) (r : Req) (d k : Nat) (w : Window) : State :=
  let x := match r.via with | some v => v.exp | none => exportOf s k w.exp
  let acc := accessOf r.kind
  let seq := match r.via with | some v => v.seq | none => s.nextId
  match r.via.isNone, r.lanes.find? fun o => !exportPass x w.key o.at_ r.size with
  | true, some o => peerFail (postFault (takeNet s r.id) k (remoteRecord (x.base + o.at_) x.space (s.dev d).devnum acc)) r
  | _, _ =>
    if peerBehind s d k seq r.marked acc then peerWait s k x r r.lanes
    else
      let g := serveGo (peerLane d k x r) false r.lanes s {}
      match g.2.2 with
      | .all => sendBack (takeNet g.1 r.id) r g.2.1
      | .aside rest | .queue rest => peerWait (sendPart g.1 r g.2.1) k x r rest
      | .poison b => badReplay (takeNet g.1 r.id) r.launch (dieOf r.core) b

/-- Serve a request through a peer window as it was bound at issue: at a device of this package at once, to another over its
link; with no way out it fails at the issuer (R366, R416). -/
def servePeer (s : State) (r : Req) (d : Nat) (w : Window) : State :=
  match peerWay s d w.target with
  | .here k => serveExport s r d k w
  | .lost =>
    let va := match r.lanes with | o :: _ => o.va | [] => 0
    peerFail (postFault (takeNet s r.id) d (lostRecord s r.core (launchNo s r.launch) r.space va (accessOf r.kind))) r
  | .link l => answerFree { takeNet s r.id with linkOut := s.linkOut ++ [.request l w.target w.exp w.key r] } r

/-- HOME_SLICE_SERVE (R61): the next request of a line, or one for a peer window. -/
def execHomeSliceServe (req : Nat) (s : State) : Outcome State Fault Refusal :=
  match arrived s req with
  | none => .next s
  | some r =>
    match r.kind, r.target with
    | .message _, _ => .next s
    | _, .mem pa => .next (serveHome s r pa)
    | _, .peer d _ w _ => .next (servePeer s r d w)
    | _, _ => .next s

/-! ### REMOTE_WINDOW_ACCESS (R58, R109, R145) -/

/-- Must a request wait for an unverified granule of another workgroup? -/
def sliceWaits (s : State) (r : Req) (c : Nat) : Bool :=
  readsData r.kind && r.lanes.any fun o =>
    match allocAt s c r.launch o.at_ r.size with
    | some (g, y) => decide (g ≠ r.wg) && unverifiedAt y o.at_ r.size
    | none => false

/-- One lane at a slice. Under policy trap a stale granule that the operation reads is an error, also to an ATOMN, whose lane
keeps a deferred one (DEDUCED, log 75); bytes the workgroup's Brine holds are read from there (R111). -/
def sliceLane (r : Req) (c : Nat) (s : State) (o : LaneOp) : State × Served :=
  let trap := match fget s.launches r.launch with | some l => l.rec_.genTrap | none => false
  match allocAt s c r.launch o.at_ r.size with
  | none => (s, .error cBOUNDS o.va)
  | some (_, y) =>
    if readsData r.kind && trap && rangeStale (s.core c) y.gen o.at_ r.size && !(decide (r.kind = .load) && allHeld s r.wg c o.at_ r.size) then (s, .error cSTALE o.va)
    else if r.kind = .load then
      if slicePoison (s.core c) y.gen o.at_ r.size && !allHeld s r.wg c o.at_ r.size then (s, .poison (.slice c))
      else (s, .done (some (natOfBytes (overlay s r.wg (.slice c 0) o.at_ (sliceBytes (s.core c) y.gen o.at_ r.size)))) none)
    else plainLane s r (.slice c o.at_ y.gen) o

/-- REMOTE_WINDOW_ACCESS: a request at the slice that holds its bytes. -/
def execRemoteWindowAccess (req : Nat) (s : State) : Outcome State Fault Refusal :=
  match arrived s req with
  | none => .next s
  | some r =>
    match r.kind, r.target with
    | .message _, _ => .next s
    | _, .slice c _ =>
      if sliceWaits s r c then .next s
      else
        let g := serveGo (sliceLane r c) false r.lanes (takeNet s r.id) {}
        .next (match g.2.2 with | .poison b => badReplay g.1 r.launch (dieOf r.core) b | _ => sendBack g.1 r g.2.1)
    | _, _ => .next s

/-! ### CHANNEL_DELIVERY (R146, R276, R277) -/

/-- Messages a ring holds: in guarded and twin modes those received since the last commit stay (R146). -/
def ringHeld (mode : Nat) (c : Chan) : Nat := c.delivered - (if mode = 0 then c.received else c.kept)

/-- The workgroup and channel whose receive ring begins at an offset of a core's slice. -/
def ringAt (s : State) (core off : Nat) (ok : Wg → Bool) : Option (Nat × Wg × Nat × Chan) :=
  s.wgs.findSome? fun p =>
    if p.2.core = core ∧ holdsSlot p.2 ∧ ok p.2 then
      (p.2.chans.find? fun q => decide (q.2.st = .rx ∧ p.2.base + q.2.ring = off)).map fun q => (p.1, p.2, q.1, q.2)
    else none

/-- Write a message into a ring's next slot. -/
def ringPut (s : State) (g n : Nat) (c : Chan) (v : Nat) : State :=
  let s := wgWrite s g (c.ring + 4 * (c.delivered % (c.size / 4))) (bytesOfNat 4 v)
  updChan s g n fun _ => { c with delivered := c.delivered + 1 }

/-- What a message meets at a ring. -/
inductive RingAns where
  | put (s : State) | full | none_

/-- Deliver a value to the ring at an offset of a core's slice. -/
def ringDeliver (s : State) (core off v : Nat) (ok : Wg → Bool) : RingAns :=
  match ringAt s core off ok with
  | none => .none_
  | some (g, y, n, c) => if c.size / 4 ≤ ringHeld (modeOf s y) c then .full else .put (ringPut s g n c v)

/-- Finish a message's delivery, its refusal, or its wait at the sending core. -/
def messageEnd (s : State) (r : Req) : RingAns → State
  | .put s => sendBack (takeNet s r.id) r {}
  | .full => s
  | .none_ => sendBack (takeNet s r.id) r { errors := r.lanes.map fun o => (o.lane, cCHANNEL, o.va) }

/-- The ring at an offset of an export of a logical device, if the access passes the export's checks (R365, R276): a message
goes to the ring's byte 0, so at any other place there is none. -/
def exportRing (s : State) (k e : Nat) (key : BitVec 16) (off v : Nat) : RingAns :=
  let x := exportOf s k e
  if !x.valid || decide (x.key ≠ key) || decide (x.size * 65536 < off + 4) || !x.ring then .none_
  else
    match regionOf (x.base + off) with
    | .slice idx o =>
      match coreOfIdx s k idx with
      | some c =>
        ringDeliver s c o v fun y => match fget s.launches y.launch with | some l => decide (l.rec_.space = x.space) | none => false
      | none => .none_
    | .paged | .peer .. | .local_ _ | .reserved => .none_

/-- The target's record of a refused message of a device's window (R365). -/
def messageRecord (s : State) (d k : Nat) (w : Window) (off : Nat) : State :=
  let x := exportOf s k w.exp
  postFault s k (remoteRecord (x.base + off) x.space (s.dev d).devnum 2)

/-- A message through a peer window as it was bound at issue (R366): to a ring of this package, or over a link to another,
which may refuse it (R65, log 5); with no way out it fails at the issuer (R416). -/
def sendWindow (s : State) (r : Req) (d : Nat) (w : Window) (off va v : Nat) : State :=
  match peerWay s d w.target with
  | .here k =>
    if peerBehind s d k s.nextId false 2 then s
    else
      match exportRing s k w.exp w.key off v with
      | .none_ => messageEnd (messageRecord s d k w off) r .none_
      | a => messageEnd s r a
  | .link l =>
    match takeFault { s with linkOut := s.linkOut ++ [.request l w.target w.exp w.key r] } with
    | (s, true) => messageEnd s r .none_
    | (s, false) => sendBack (takeNet s r.id) r {}
  | .lost => messageEnd (postFault s d (lostRecord s r.core (launchNo s r.launch) r.space va 2)) r .none_

/-- CHANNEL_DELIVERY: a message at its target. -/
def execChannelDelivery (req : Nat) (s : State) : Outcome State Fault Refusal :=
  match arrived s req with
  | none => .next s
  | some r =>
    match r.kind, r.target, r.lanes with
    | .message _, .slice c off, [o] => .next (messageEnd s r (ringDeliver s c off o.data fun y => decide (y.launch = r.launch)))
    | .message _, .peer d _ w off, [o] => .next (sendWindow s r d w off o.va o.data)
    | .message _, _, _ => .next (messageEnd s r .none_)
    | _, _, _ => .next s

end Sys2Proof.Machine
end

