-- ==== Sys2Proof/Machine/Image.lean ====
section
/-! DEFINITION. Images of workgroups: what a checkpoint or a context save captures (R116, R132, R133, R248, R297, R327,
Table 7.2) and how an image is put back under fresh generations (R33, R113, R117). -/

namespace Sys2Proof.Machine

/-! ### Groups -/

/-- The workgroups checkpointed and rolled back with one: its cluster group, or itself (R139). -/
def groupOf (s : State) (g : Nat) : List Nat :=
  match fget s.wgs g with
  | none => []
  | some x =>
    match x.cg with
    | none => [g]
    | some cg => (s.wgs.filter fun p => decide (p.2.cg = some cg)).map Prod.fst

/-- The other copies of a twin workgroup. -/
def copiesOf (x : Wg) : List Nat := x.twin.toList ++ x.third.toList

/-- A workgroup's group with the groups of its other copies, those that still exist (R149, R151). -/
def twinSet (s : State) (g : Nat) : List Nat :=
  match fget s.wgs g with
  | none => []
  | some _ =>
    let mine := groupOf s g
    (mine ++ (mine.filterMap (fget s.wgs)).flatMap copiesOf).eraseDups.filter fun h => (fget s.wgs h).isSome

/-- Do some workgroups all pass a test? -/
def allWgs (s : State) (gs : List Nat) (p : Nat → Wg → Bool) : Bool :=
  gs.all fun g => match fget s.wgs g with | some x => p g x | none => true

/-- Does some workgroup pass a test? -/
def anyWg (s : State) (gs : List Nat) (p : Nat → Wg → Bool) : Bool :=
  gs.any fun g => match fget s.wgs g with | some x => p g x | none => false

/-- A workgroup's warps by slot. -/
def wgWarps (s : State) (x : Wg) (g : Nat) : FMap Warp := (s.core x.core).warps.filter fun p => decide (p.2.wg = g)

/-! ### Capture -/

/-- A hold as an image keeps it: a sleep as what remains of it. -/
def savedHold (cycle : Nat) (h : Hold) : Hold :=
  match h with
  | .sleep t => .sleep (t - cycle)
  | .barrier n p => .barrier n p
  | .sleepForever => .sleepForever
  | .debug => .debug
  | .grace pc _ => .grace pc false
  | .none | .retry .. | .ckpt | .untilLive | .regacq _ => .none

/-- An entry as an image keeps it: its header's waits are evaluated again (R13). -/
def savedEntry (e : Entry) : Entry :=
  { e with waits := true, mark := none, wait := match e.wait with | .rconv => .rconv | .barrier => .barrier | .run | .retry | .walk => .run }

/-- A round as an image keeps it (R132, R133). DESIGN CHOICE (log 80): the one instance of the round of width 1 it resumes as
has index 0. -/
def savedRound (r : Round) : Round :=
  match r.st with
  | .running => { r with width := 1, inst := 0, atCmp := false, reserved := [] }
  | .guessing => { r with reserved := [] }
  | .idle => r

/-- Does an atomic read and write at its place without being an external operation of its workgroup? -/
def plainAtomic (r : Req) : Bool := !r.external && (match r.kind with | .atom .. | .cas => true | _ => false)

/-- Is an outstanding access an atomic of some entries? In guarded mode Brine holds one with acquire as it holds a write, until a
commit, so no checkpoint waits for it (R141, Table 7.4; DEDUCED, log 91). -/
def ofAtomic (rs : List Req) (p : Pending) : Bool := rs.any fun r => decide (r.pend = some p.id) && plainAtomic r

/-- A warp as an image keeps it, a new one in its slot to come; the completed copy commands whose writes may be held still
mark what it accepts later (R298), and it waits still for the atomics that Brine holds. -/
def savedWarp (x : Wg) (cycle : Nat) (w : Warp) : Warp :=
  { w with
    frontier := w.frontier.map savedEntry
    held := w.held.map savedEntry
    hold := savedHold cycle w.hold
    pend := w.pend.filter (ofAtomic (x.laneQ ++ x.left))
    waitCount := 0
    lastIssue := 0
    round := savedRound w.round }

/-- The valid rows of a warp (R116). -/
def validRows (k : Core) (sl : Nat) (w : Warp) : List (Nat × Nat × List Word) :=
  (List.range (16 * (w.base + w.ext))).filterMap fun r =>
    let row := rowAt k (rowKey sl w r)
    if row.tag = rowGen w r then some (sl, r, row.data) else none

/-- The valid granules of a range under a generation, numbered from its base (R116). -/
def validGrans (k : Core) (base size gen : Nat) : FMap (List Byte) :=
  (List.range ((size + 63) / 64)).filterMap fun i =>
    if granTag k (base / 64 + i) = gen then some (i, memBytes k.data (base + 64 * i) 64) else none

/-- The private scratch of a warp's round. -/
def validPrivs (k : Core) (sl : Nat) (w : Warp) : List (Nat × Nat × List Byte) :=
  if w.round.st = .running then
    (validGrans k w.round.privBase (w.round.psize * 1024) w.round.privGen).map fun p => (sl, p.1, p.2)
  else []

/-- An array as an image keeps it: every claimed slot and everything else of it (Table 7.2, R327). -/
def savedArray (a : MArray) : MArray := { a with fault := none, slots := a.slots.filter fun p => a.claims.contains p.1 }

/-- An array of an image in a core, whose unclaimed slots keep what they hold. -/
def putArray (k : Core) (a : MArray) : Core :=
  { k with array := { a with
      fault := k.array.fault
      slots := a.claims.foldl (fun m n => match fget a.slots n with | some d => fput m n d | none => fdel m n) k.array.slots } }

/-- The image of a workgroup as it stands; of a member that has ended, its array and its group's sequencer (R307, R327). -/
def captureWg (s : State) (g : Nat) (x : Wg) : WgImage :=
  let k := s.core x.core
  if x.phase = .ended then
    { WgImage.empty with
      array := if x.cg.isSome then some (savedArray k.array) else none
      seq := if x.cg.isSome then some (s.seq (clusterOf s x.core)) else none }
  else
  let ws := wgWarps s x g
  { warps := ws.map fun p => (p.1, savedWarp x k.cycle p.2)
    rows := ws.flatMap fun p => validRows k p.1 p.2
    grans := validGrans k x.base x.size x.gen
    privs := ws.flatMap fun p => validPrivs k p.1 p.2
    bars := x.bars
    chans := x.chans
    array := if x.cg.isSome then some (savedArray k.array) else none
    seq := if x.cg.isSome then some (s.seq (clusterOf s x.core)) else none }

/-! ### Areas of the checkpoint pool (R139, R151, R153, R374) -/

/-- The areas of a device's checkpoint pool in use: their first units and sizes. -/
def areasInUse (s : State) (k : Nat) : List (Nat × Nat) :=
  (s.wgs.filter fun p => decide (devOfCore s p.2.core = k ∧ p.2.ckUnits ≠ 0)).map fun p => (p.2.ckAt, p.2.ckUnits)

/-- The lowest free place of a device's pool for an area of n units; none while there is none (log 36). -/
def areaFor (s : State) (k n : Nat) : Option Nat :=
  let used := areasInUse s k
  let free (a : Nat) : Bool :=
    decide (a + n ≤ (s.dev k).ckptsize) && used.all fun u => decide (a + n ≤ u.1) || decide (u.1 + u.2 ≤ a)
  if n = 0 then some 0 else (sortBy (fun a b => decide (a < b)) (0 :: used.map fun u => u.1 + u.2)).find? free

/-- A workgroup takes its area: marks of a former user go (log 36). -/
def takeArea (s : State) (k at_ n : Nat) : State :=
  s.updDev k fun d => { d with
    ckptUsed := d.ckptUsed + n
    ckptBad := d.ckptBad.filter fun u => !(decide (at_ ≤ u) && decide (u < at_ + n)) }

/-- The units of a workgroup's area by its launch record and whether it is a cluster group's member with claims (R374). -/
def areaSize (r : LRec) (claims : Bool) : Nat :=
  if r.mode = 0 then 0
  else (8192 + 2 * (2048 * 6 * r.warps + r.scratch) + (if claims then 2 * 589824 else 0) + 65535) / 65536

/-- The units of a workgroup's checkpoint area. -/
def areaUnits (x : Wg) : List Nat := (List.range x.ckUnits).map (x.ckAt + ·)

/-- Is a workgroup's checkpoint area marked poisoned, or some line of it uncorrectable (R151, R153)? -/
def areaPoisoned (s : State) (x : Wg) : Bool :=
  let k := devOfCore s x.core
  (areaUnits x).any fun u => (s.dev k).ckptBad.contains u || poisoned s k ((s.dev k).ckptbase + 65536 * u) 65536

/-! ### Matrix resources of a core (R108) -/

/-- Is no cluster group of another address space resident in a core, so that its matrix resources may be cleared for a
space? -/
def matrixFree (s : State) (c space : Nat) : Bool :=
  s.wgs.all fun p =>
    p.2.cg.isNone || decide (p.2.core ≠ c) || !holdsSlot p.2 ||
      (match fget s.launches p.2.launch with | some l => decide (l.rec_.space = space) | none => true)

/-- The matrix resources of a core are cleared when its next workgroup is of another address space than the last one
that held some (R108); flags and suspect flags stay. -/
def clearMatrix (s : State) (c space : Nat) (holds : Bool) : State :=
  s.updCore c fun k =>
    let k := match k.mxSpace with
      | some sp =>
        if sp ≠ space then
          { k with
            array := { k.array with slots := [], acc := [], pb := [], pbFmt := [], srow := [], scol := [] }
            mxSpace := none }
        else k
      | none => k
    if holds then { k with mxSpace := some space } else k

/-! ### Putting an image back -/

/-- Write captured rows under a warp's new generations. -/
def installRows (k : Core) (sl : Nat) (w : Warp) (rs : List (Nat × Nat × List Word)) : Core :=
  rs.foldl (fun k r => { k with rows := fput k.rows (rowKey sl w r.2.1) { tag := rowGen w r.2.1, data := r.2.2, dirty := false } }) k

/-- Write captured granules at a base under a generation. -/
def installGrans (k : Core) (base gen : Nat) (gs : FMap (List Byte)) : Core :=
  gs.foldl (fun k p =>
    let n := base / 64 + p.1
    let clear := k.data.filter fun b => !(decide (n * 64 ≤ b.1) && decide (b.1 < n * 64 + 64))
    { k with tags := fput k.tags n gen, data := memWriteBytes clear (n * 64) p.2 }) k

/-- A slot and blocks for a warp: its old slot's place if that is free, else the first quadrant with room; its extended
blocks come before any waiting REGACQ (R33). -/
def placeFor (k : Core) (old : Nat) (w : Warp) : Option (Nat × List Nat) :=
  let need := w.base + w.ext
  ([quadOf old, 0, 1, 2, 3].findSome? fun q =>
    let slots := freeSlots k q
    let slot := if slots.contains old then some old else slots.head?
    let free := freeBlocks k q
    match slot with
    | some sl => if need ≤ free.length then some (sl, free.take need) else none
    | none => none)

/-- How many generations a warp's restore takes. -/
def warpGens (w : Warp) : Nat :=
  1 + (if w.ext = 0 then 0 else 1) + (if w.round.st = .running ∧ w.round.psize ≠ 0 then 1 else 0)

/-- Reserve again for a warp in GUESSING: clones, at most the saved ones, and K' follows (R132). -/
def reserveAgain (s : State) (c sl : Nat) (w : Warp) : State :=
  if w.round.st ≠ .guessing then s
  else
    let s := reserveClones s c sl w.round.psize (w.round.width - 1)
    let n := 1 + reservedCount s c sl
    s.updWarp c sl fun w =>
      { w with round := { w.round with width := n, entries := w.round.entries.filter fun p => decide (p.1 < n) } }

/-- Put one warp of an image back in a core: where it stands now. -/
def placeWarp (s : State) (c g : Nat) (im : WgImage) (old : Nat) (w : Warp) : Option (State × Nat) :=
  let k := s.core c
  match placeFor k old w, (if w.round.st = .idle then some 0 else findRoom s c (w.round.psize * 1024)) with
  | some (sl, blocks), some priv =>
    let t := takeGens s c (warpGens w)
    let gen (i : Nat) : Nat := t.2.getD i 0
    let pi := if w.ext = 0 then 1 else 2
    let run := decide (w.round.st = .running ∧ w.round.psize ≠ 0)
    let w' := { w with
      wg := g
      blocks := blocks
      genBase := gen 0
      genExt := if w.ext = 0 then 0 else gen 1
      hold := match w.hold with | .sleep n => .sleep (k.cycle + n) | h => h
      round := { w.round with privBase := priv, privGen := if run then gen pi else 0 } }
    let s := t.1.updCore c fun k =>
      let k := enterSections { k with warps := fput k.warps sl w' } w'
      let k := installRows k sl w' (im.rows.filter fun r => decide (r.1 = old))
      installGrans k priv w'.round.privGen ((im.privs.filter fun r => decide (r.1 = old)).map Prod.snd)
    some (settle (reserveAgain s c sl w') c sl, sl)
  | _, _ => none

/-- Put every warp back; which slot each took. -/
def placeWarps (c g : Nat) (im : WgImage) : List (Nat × Warp) → State → Option (State × List (Nat × Nat))
  | [], s => some (s, [])
  | (old, w) :: ws, s =>
    match placeWarp s c g im old w with
    | none => none
    | some (s, sl) => (placeWarps c g im ws s).map fun r => (r.1, (old, sl) :: r.2)

/-- The generations an image's restore takes: the allocation's and its warps' (R113). -/
def imageGens (im : WgImage) : Nat := 1 + (im.warps.map fun p => warpGens p.2).sum

/-- Put an image back in a core at a base; none while there is no room or no generation. -/
def putImage (s : State) (g c base : Nat) (im : WgImage) : Option (State × List (Nat × Nat)) :=
  if !gensReady s c (imageGens im) then none
  else
    let t := takeGens s c 1
    let gen := t.2.getD 0 0
    let s := t.1.updWg g fun x => { x with core := c, base := base, gen := gen, bars := im.bars }
    (placeWarps c g im im.warps s).map fun r =>
      let s := r.1.updCore c fun k => installGrans k base gen im.grans
      let s := match im.array with
        | none => s
        | some a => s.updCore c fun k => putArray k a
      (addMove s (dieOf c), r.2)

/-- A slot after a restore. -/
def newSlot (m : List (Nat × Nat)) (sl : Nat) : Nat := match m.find? fun p => decide (p.1 = sl) with | some p => p.2 | none => sl

/-- An image by the slots its warps now have. -/
def rekey (m : List (Nat × Nat)) (im : WgImage) : WgImage :=
  { im with
    warps := im.warps.foldl (fun ws p => fput ws (newSlot m p.1) p.2) []
    rows := im.rows.map fun r => (newSlot m r.1, r.2)
    privs := im.privs.map fun r => (newSlot m r.1, r.2) }

/-- Move a request's slot with its workgroup's warps. -/
def moveReq (g : Nat) (m : List (Nat × Nat)) (r : Req) : Req := if r.wg = g then { r with slot := newSlot m r.slot } else r

/-- Requests and messages of a restored workgroup name its warps' new slots. -/
def moveReqs (s : State) (g : Nat) (m : List (Nat × Nat)) : State :=
  let f := moveReq g m
  let s := { s with
    net := s.net.map f
    aside := s.aside.map f
    msgs := s.msgs.map fun (q : Msg) => if q.wg = g then { q with slot := newSlot m q.slot } else q }
  s.updWg g fun x =>
    { x with
      laneQ := x.laneQ.map f
      copyQ := x.copyQ.map f
      chanQ := x.chanQ.map f
      appQ := x.appQ.map f
      left := x.left.map f
      blocked := x.blocked.map (newSlot m) }

/-- A forked program of a workgroup after its restore. -/
def moveFork (g c : Nat) (m : List (Nat × Nat)) (f : Fork) : Fork :=
  if f.wg = g then { f with core := c, slot := newSlot m f.slot } else f

/-- The sequencer of an image, with the current members (R327). -/
def putSeq (s : State) (g c : Nat) (im : WgImage) (m : List (Nat × Nat)) : State :=
  match im.seq with
  | none => s
  | some q =>
    s.updSeq (clusterOf s c) fun old =>
      let q := if old.q = [] ∧ old.cur = none ∧ old.fifo = [] then { q with members := old.members } else old
      { q with fifo := q.fifo.map (moveFork g c m), cur := q.cur.map (moveFork g c m) }

/-- A program that ended while its group was saved writes its code once its workgroup is back (R48, R327). -/
def seqBack (s : State) (cl : Nat) : State :=
  match (s.seq cl).cur.bind fun f => fget s.wgs f.wg with
  | some x => if x.phase = .resident ∨ x.phase = .ended then seqFinish s cl else s
  | none => s

end Sys2Proof.Machine
end

