-- ==== Sys2Proof/Machine/Guard.lean ====
section
/-! DEFINITION. Guarded execution: checkpoints (R139 to R143, R145, R146, R303), external operations (R144), strikes
(R135 to R138), rollback (R147, R148, R358), twins and their votes (R149 to R151, R304). -/

namespace Sys2Proof.Machine

open Host (Outcome)

/-! ### Taking a checkpoint (R140, R141) -/

/-- Has every warp of a workgroup ended? -/
def wgEnded (x : Wg) : Bool := !x.pool && decide (x.nwarps ≤ x.ended)

/-- Is a checkpoint of a group due (Table 7.3)? Twins take one only at a collective point, or for an external operation,
pre-emption or the end. -/
def ckDue (s : State) (gs : List Nat) : Bool :=
  let gathered := allWgs s gs fun g x => collective s g x.core
  anyWg s gs fun _ x =>
    x.ck.again && (decide (modeOf s x = 1) || wgEnded x || gathered) || (x.ck.ext.isSome && decide (x.ck.extAt = 0)) ||
      x.ck.pendingSave

/-- The warps of a workgroup whose rounds run and that are not speculative. -/
def roundHeads (s : State) (g : Nat) (x : Wg) : List Nat :=
  ((wgWarps s x g).filter fun p => decide (p.2.round.st = .running ∧ p.2.round.ist ≠ .speculative)).map Prod.fst

/-- May the squashes of a workgroup take their generations (R113)? -/
def squashReady (s : State) (g : Nat) (x : Wg) : Bool :=
  gensReady s x.core ((wgWarps s x g).filter fun p => decide (p.2.round.ist = .speculative)).length

/-- Squash every speculative instance of a workgroup (R133). -/
def squashAll (s : State) (g : Nat) : State :=
  match fget s.wgs g with
  | none => s
  | some x => (roundHeads s g x).foldl (fun s sl => squashAbove s x.core sl) s

/-- Commands that wait under HOLD end as they would have without it (R297). -/
def endHolds (s : State) (g : Nat) : State :=
  match fget s.wgs g with
  | none => s
  | some x =>
    let end_ (q : CopyCmd) : CopyCmd :=
      if q.wg ≠ g ∨ q.status.isSome then q
      else match q.wait with | .fault _ => decideCmd q 1 q.pos none | .defer _ => decideCmd q 2 q.pos none | _ => q
    copyRetry (s.updCore x.core fun k => { k with copies := k.copies.map end_ }) x.core

/-- Stop a workgroup for its checkpoint: its warps issue no more. -/
def stopForCk (s : State) (g : Nat) : State :=
  endHolds ((squashAll s g).updWg g fun x =>
    { x with ck := { x.ck with phase := .stopping, again := false, saving := x.ck.pendingSave } }) g

/-- Have the loads of a workgroup returned, does every token count 0, has every command ended, those of ended warps too
(R303), and has every forked program written its object? -/
def wgQuiet (s : State) (g : Nat) (x : Wg) : Bool :=
  let q := s.seq (clusterOf s x.core)
  (wgWarps s x g).all (fun p => p.2.pend.all (ofAtomic x.laneQ) && p.2.tokens.all fun t => decide (t.count = 0)) &&
    !((s.core x.core).copies.any fun c => decide (c.wg = g)) &&
    !((q.cur.toList ++ q.fifo).any fun f => decide (f.wg = g))

/-- The core's row of a row of an image taken now. -/
def imageKey (im : WgImage) (r : Nat × Nat × List Word) : Nat :=
  match fget im.warps r.1 with | some w => rowKey r.1 w r.2.1 | none => 0

/-- The rows of an image taken now that were written since the previous checkpoint (Table 7.2). -/
def dirtyRows (k : Core) (im : WgImage) : List (Nat × Nat × List Word) := im.rows.filter fun r => (rowAt k (imageKey im r)).dirty

/-- The number of a row's data. -/
def rowNat (ws : List Word) : Nat := natOfBytes (ws.flatMap fun w => bytesOfNat 4 w.toNat)

/-- What a capture adds to the twin sum (R149): the units captured, by register row or by offset within the allocation, those of
private scratch from 0x8000_0000 (R122). -/
def captureSum (k : Core) (x : Wg) (im : WgImage) : Double :=
  let rows := (dirtyRows k im).foldl (fun a r =>
    let idx := match fget im.warps r.1 with | some w => w.idx | none => 0
    a + Config.twinHash x.launch (idx * 96 + r.2.1) 128 (rowNat r.2.2)) 0
  let privs := im.privs.foldl (fun a p => a + Config.twinHash x.launch (0x8000_0000 + p.2.1 * 64) 64 (natOfBytes p.2.2)) rows
  x.ck.written.foldl (fun a n =>
    let i := n - x.base / 64
    a + Config.twinHash x.launch (i * 64) 64 (natOfBytes ((fget im.grans i).getD []))) privs

/-- The bytes of a captured warp beside its rows: 32 for each frontier entry and park record, four for each scalar register
and predicate, 32 for the depths and phases of its lanes, and its round's entries (Table 7.2; DESIGN CHOICE, log 57). -/
def warpBytes (w : Warp) : Nat :=
  let round := if w.round.st = .idle then 0 else 32 + 4 * w.round.nc * w.round.entries.length
  32 * (w.frontier.length + w.held.length + w.parks.length) + 4 * (w.sregs.length + w.preds.length) + 32 + round

/-- The bytes of a captured array whose group holds claims: its claimed slots, its accumulators with their scales, and the
sequencer's registers (Table 7.2; DESIGN CHOICE, log 57). -/
def arrayBytes (a : MArray) : Nat := if a.claims.isEmpty then 0 else 8192 * a.claims.length + 458752 + 128

/-- The bytes a capture moves (Table 7.2, R141). -/
def captureBytes (k : Core) (x : Wg) (im : WgImage) : Nat :=
  128 * (dirtyRows k im).length + 64 * (x.ck.written.length + im.privs.length) + (im.warps.map fun p => warpBytes p.2).sum +
    16 * (im.chans.filter fun p => decide (p.2.st ≠ .closed)).length + (match im.array with | some a => arrayBytes a | none => 0)

/-- The captured rows are clean until they are written again. -/
def cleanRows (k : Core) (im : WgImage) : Core :=
  im.rows.foldl (fun k r => { k with rows := fupd k.rows (imageKey im r) fun y => { y with dirty := false } }) k

/-- Capture a quiet workgroup: the capture takes 32 cycles and one more for every 256 bytes. -/
def captureCk (s : State) (g : Nat) : State :=
  match fget s.wgs g with
  | none => s
  | some x =>
    let k := s.core x.core
    let im := captureWg s g x
    let bytes := captureBytes k x im
    let s := s.updCore x.core fun k => cleanRows k im
    s.updWg g fun x => { x with ck := { x.ck with
        phase := .capturing (k.cycle + 32 + (bytes + 255) / 256)
        pending := some im
        written := []
        sigmaAt := x.ck.sigma + captureSum k x im
        sigma := 0
        extAt := if x.ck.ext.isSome then 1 else x.ck.extAt } }

/-- Is a workgroup one that keeps checkpoints, with none under way and no external operation between its checkpoint and its
end (R144)? A member of a cluster group that has ended takes part for its array. -/
def ckIdle (s : State) (x : Wg) : Bool :=
  decide (modeOf s x ≠ 0 ∧ x.ck.phase = .idle ∧ x.phase ≠ .saved ∧ x.ck.extAt ≠ 2) && !x.ck.restoring

/-- CHECKPOINT_TAKE: a due checkpoint stops its group, and captures it once it is quiet (R141 steps 1 to 3); a command that
comes to wait under HOLD meanwhile ends too (R297). -/
def execCheckpointTake (wg : Nat) (s : State) : Outcome State Fault Refusal :=
  let gs := groupOf s wg
  let stands := anyWg s gs fun _ x => decide (x.phase ≠ .ended)
  let s :=
    if stands && allWgs s gs (fun _ x => ckIdle s x) && ckDue s gs && allWgs s gs (squashReady s) then gs.foldl stopForCk s
    else if anyWg s gs fun _ x => decide (x.ck.phase = .stopping) then gs.foldl endHolds s
    else s
  let ready := !gs.isEmpty && allWgs s gs fun g x => decide (x.ck.phase = .stopping) && wgQuiet s g x
  .next (if ready then gs.foldl captureCk s else s)

/-- CHECKPOINT_TAKEN: at τ the group resumes (R141 step 3). -/
def execCheckpointTaken (wg : Nat) (s : State) : Outcome State Fault Refusal :=
  let gs := groupOf s wg
  let due (x : Wg) : Bool := match x.ck.phase with | .capturing t => decide (t ≤ (s.core x.core).cycle) | _ => false
  if gs.isEmpty || !(allWgs s gs fun _ x => due x) then .next s
  else
    let s := gs.foldl (fun s g =>
      match fget s.wgs g with
      | none => s
      | some x =>
        let t := (s.core x.core).cycle
        let s := if x.ck.number = 0 then s else noteSample s (dieOf x.core) 5 (some x.core) (t - x.ck.lastTaken)
        let s := s.updWg g fun x => { x with ck := { x.ck with
          phase := .taken, tau := t, tauId := s.nextId, lastTaken := t, nextOffsets := [], ackAt := none, lapsed := false } }
        s.updCore x.core fun k =>
          { k with warps := k.warps.map fun p =>
              if p.2.wg = g ∧ p.2.hold = .ckpt then (p.1, { p.2 with hold := .none }) else p }) s
    .next { s with nextId := s.nextId + 1 }

/-- CHECKPOINT_DELTA_ACK: the delta is in the checkpoint area (R142). DESIGN CHOICE (log 74): the area's bytes of device
memory hold no image, which the workgroup's record keeps. -/
def execCheckpointDeltaAck (wg : Nat) (s : State) : Outcome State Fault Refusal :=
  .next (s.updWg wg fun x =>
    if x.ck.phase = .taken ∧ x.ck.ackAt = none then { x with ck := { x.ck with ackAt := some (s.core x.core).cycle } } else x)

/-- CHECKPOINT_INTERVAL_EXPIRY: 65,536 cycles after the last checkpoint another is due, once, in every copy of a twin; while
one is being taken the next is (R140). -/
def execCheckpointIntervalExpiry (wg : Nat) (s : State) : Outcome State Fault Refusal :=
  match fget s.wgs wg with
  | none => .next s
  | some x =>
    if modeOf s x = 0 ∨ x.phase = .ended ∨ x.ck.lapsed ∨ (s.core x.core).cycle < x.ck.lastTaken + Config.ckptInterval then .next s
    else
      .next ((twinSet s wg).foldl (fun s g => (askCheckpoint s g).updWg g fun y => { y with ck := { y.ck with lapsed := true } }) s)

/-! ### Commit (R142, R145, R146, R150) -/

/-- What a rollback still returns of channels closed since, after a commit whose image was captured at a request number: an
opening that was open then from the count it had received (R146). -/
def keptHeard (n tau : Nat) (im : WgImage) (hs : List Heard) : List Heard :=
  match hs.filter fun h => decide (tau ≤ h.closed) with
  | [] => []
  | h :: rest =>
    match fget im.chans n with
    | some c => if c.st = .rx then { h with first := c.received, msgs := h.msgs.drop (c.received - h.first) } :: rest else h :: rest
    | none => h :: rest

/-- Channels after a commit: what was received up to the capture is no longer returned again; of one opened since, everything
is. -/
def keptChans (im : WgImage) (heard : FMap (List Heard)) (cs : FMap Chan) : FMap Chan :=
  cs.map fun p =>
    let since := !((fget heard p.1).getD []).isEmpty
    (p.1, { p.2 with kept := match fget im.chans p.1 with | some c => if since ∨ c.st ≠ .rx then 0 else c.received | none => 0 })

/-- The sections a checkpoint records replace those of the one before in the dies' checkpoint counts: the receiving die's
count is raised first (R99, R104). -/
def moveCk (s : State) (x : Wg) (im : WgImage) : State :=
  let d := dieOf x.core
  let ph (i : WgImage) (n : Nat) : Int := imageSections i n
  let old := x.ck.committed
  if x.ck.die = d then addMove (addCk s d (ph im 0 - ph old 0) (ph im 1 - ph old 1)) d
  else
    let s := addMove (addCk s d (ph im 0) (ph im 1)) d
    let s := addMove (addCk s x.ck.die (-(ph old 0)) (-(ph old 1))) x.ck.die
    s.updDev (devOfCore s x.core) fun y => { y with vesper := { y.vesper with moves := y.vesper.moves + 1 } }

/-- A secondary copy's entries accepted before τ are dropped (R150), but for what it released while it was the primary (R151). -/
def dropBefore (x : Wg) (n : Nat) : Wg :=
  let keep (rs : List Req) := rs.filter fun r => decide (n ≤ r.id ∨ r.id < x.ck.freeId)
  { x with laneQ := keep x.laneQ, copyQ := keep x.copyQ, chanQ := keep x.chanQ, appQ := keep x.appQ }

/-- The checkpoint taken becomes the committed one; a workgroup that it records with no warp left is freed (Table 7.3). -/
def commitOne (s : State) (g : Nat) : State :=
  match fget s.wgs g with
  | none => s
  | some x =>
    match x.ck.pending with
    | none => s
    | some im =>
      let d := dieOf x.core
      let s := moveCk s x im
      let s := s.updDie d fun y => { y with ckpts := (y.ckpts + 1) % 2 ^ 64 }
      let s := s.updWg g fun x =>
        let x := if modeOf s x = 2 ∧ !x.primary then dropBefore x x.ck.tauId else x
        let heard := x.heard.map fun p => (p.1, keptHeard p.1 x.ck.tauId im p.2)
        { x with
          heard := heard
          chans := keptChans im heard x.chans
          ck := { x.ck with
            die := d
            phase := .idle
            number := x.ck.number + 1
            committed := im
            pending := none
            freeId := x.ck.tauId
            ackAt := none
            rollbacks := 0
            mismatches := 0
            agreed := x.ck.sigmaAt
            unverified := x.ck.written
            firstOffsets := x.ck.nextOffsets
            nextOffsets := []
            extAt := if x.ck.extAt = 1 then 2 else x.ck.extAt
            pendingSave := x.ck.pendingSave && !x.ck.saving
            saving := false
            popped := false } }
      if wgEnded x ∧ im.warps.isEmpty then freeWg s g else s

/-- Has a group's checkpoint been taken, and is the later of τ + W and its delta's acknowledgement past? A report in that
cycle prevents the commit, which shows from the next on (R142; DEDUCED, log 85). -/
def ckReady (s : State) (gs : List Nat) : Bool :=
  !gs.isEmpty && allWgs s gs fun _ x =>
    let now := (s.core x.core).cycle
    decide (x.ck.phase = .taken ∧ x.ck.tau + Config.strikeWindow < now) && (match x.ck.ackAt with | some t => decide (t < now) | none => false)

/-- The twin sums of a copy by position. -/
def copySum (s : State) (gs : List Nat) : List Double := (gs.filterMap (fget s.wgs)).map fun x => x.ck.sigmaAt

/-- The groups of a twin's copies: the primary's first, then the secondary's, then a third's. -/
def twinCopies (s : State) (g : Nat) : List (List Nat) :=
  match fget s.wgs g with
  | none => []
  | some x => (sortBy (fun a b => decide (a < b)) (g :: copiesOf x)).map (groupOf s) |>.filter fun gs => !gs.isEmpty

/-- The workgroups whose checkpoint is ready to commit with a workgroup's: of a twin, both copies' together once their sums
agree (R150). -/
def commitsOf (s : State) (wg : Nat) : List Nat :=
  match fget s.wgs wg with
  | none => []
  | some x =>
    if modeOf s x = 2 then
      let cs := twinCopies s wg
      let sums := cs.map (copySum s)
      if x.third.isNone && cs.all (ckReady s) && sums.all (fun v => decide (some v = sums.head?)) then cs.flatten else []
    else
      let gs := groupOf s wg
      if ckReady s gs then gs else []

/-- Commit a workgroup's checkpoint if it is ready. -/
def commitReady (s : State) (wg : Nat) : State := (commitsOf s wg).foldl commitOne s

/-- CHECKPOINT_COMMIT (R142, R150). -/
def execCheckpointCommit (wg : Nat) (s : State) : Outcome State Fault Refusal := .next (commitReady s wg)

/-! ### External operations (R144) -/

/-- EXTERNAL_OP_ISSUE: after the commit the operation may issue; of a twin, the primary's (Table 7.4). -/
def execExternalOpIssue (wg : Nat) (s : State) : Outcome State Fault Refusal :=
  let ok (g : Nat) : Bool := match fget s.wgs g with | some x => x.ck.ext.isSome && decide (x.ck.extAt = 2) | none => false
  match fget s.wgs wg with
  | none => .next s
  | some x =>
    if ok wg && (copiesOf x).all ok && (x.primary || decide (modeOf s x ≠ 2)) && decide (x.phase = .resident) && !x.ck.restoring then
      .next (s.updWg wg fun x => { x with ck := { x.ck with ready := true } })
    else .next s

/-- Is the external operation of a slot under way: an entry, a request, a returning access or a counted command of it? -/
def extUnderWay (s : State) (g : Nat) (x : Wg) (sl : Nat) : Bool :=
  let mine (r : Req) : Bool := decide (r.wg = g ∧ r.slot = sl) && (r.external || r.pend.isSome && !plainAtomic r)
  let waiting := s.devs.any fun p => p.2.wq.any fun q => (q.2.pops ++ q.2.pushes).any mine
  (heldOf x).any mine || s.net.any mine || s.aside.any mine || waiting ||
    (match s.warp? x.core sl with | some w => !(w.pend.all (ofAtomic (heldOf x))) | none => false) ||
    (s.core x.core).copies.any fun q => decide (q.wg = g ∧ q.slot = sl ∧ 5 ≤ q.args.op)

/-- A warp and its valid rows, captured again into an image. -/
def recapture (s : State) (x : Wg) (sl : Nat) (im : WgImage) : WgImage :=
  match s.warp? x.core sl with
  | none => im
  | some w =>
    let k := s.core x.core
    { im with
      warps := fput im.warps sl (savedWarp x k.cycle w)
      rows := (im.rows.filter fun r => decide (r.1 ≠ sl)) ++ validRows k sl w }

/-- The secondary's warp with what the primary's holds after the operation: the same program state and register contents
in its own blocks (Table 7.4). -/
def forwardWarp (s : State) (from_ to_ : Nat) : State :=
  match fget s.wgs from_, fget s.wgs to_ with
  | some x, some y =>
    match x.ck.ext, y.ck.ext with
    | some a, some b =>
      match s.warp? x.core a, s.warp? y.core b with
      | some w, some v =>
        let v' := { v with
          frontier := w.frontier, held := w.held, parks := w.parks, live := w.live, sregs := w.sregs, preds := w.preds,
          tokens := w.tokens, derr := w.derr, handler := w.handler, fpstat := w.fpstat, tvec := w.tvec, tcause := w.tcause,
          tinfo := w.tinfo, tpc := w.tpc, taddr := w.taddr, tmask := w.tmask, tact := w.tact, tclause := w.tclause,
          hold := .none }
        let from_ := s.core x.core
        s.updCore y.core fun k =>
          (validRows from_ a w).foldl (fun k r => { k with
            rows := fput k.rows (rowKey b v' r.2.1)
              { tag := rowGen v' r.2.1, data := r.2.2, dirty := (rowAt from_ (rowKey a w r.2.1)).dirty } })
            { k with warps := fput k.warps b v' }
      | _, _ => s
    | _, _ => s
  | _, _ => s

/-- The operation has ended: its results go into the committed checkpoint, and the workgroup resumes. -/
def extFinish (s : State) (g sl : Nat) (wrote : Bool) : State :=
  s.updWg g fun x => { x with ck := { x.ck with
    committed := if wrote then recapture s x sl x.ck.committed else x.ck.committed
    extWindow := if wrote then some ((s.core x.core).cycle + Config.strikeWindow) else x.ck.extWindow
    ext := none
    extAt := 0
    extBusy := false
    ready := false } }

/-- Does the warp still stand at the operation? -/
def extAtPc (w : Warp) : Bool :=
  (match w.hold with | .retry .. => true | _ => false) || w.frontier.any fun e => decide (e.wait = .retry ∨ e.wait = .walk)

/-- Follow a cleared external operation: once nothing of it is under way its results are kept and forwarded. -/
def extSettle (s : State) (g : Nat) : State :=
  match fget s.wgs g with
  | none => s
  | some x =>
    match x.ck.ext with
    | none => s
    | some sl =>
      if !x.ck.ready then s
      else if extUnderWay s g x sl then s.updWg g fun x => { x with ck := { x.ck with extBusy := true } }
      else if !x.ck.extBusy && (match s.warp? x.core sl with | some w => extAtPc w | none => false) then s
      else
        let others := (copiesOf x).filter fun h => (fget s.wgs h).isSome
        let s := others.foldl (fun s h => forwardWarp s g h) s
        let wrote := x.ck.extBusy
        (g :: others).foldl (fun s h =>
          match fget s.wgs h with
          | some y => (match y.ck.ext with | some b => extFinish s h b wrote | none => s)
          | none => s) s

/-! ### Rollback (R147, R358) -/

/-- Is an entry's own hold over (R81, R142, R144, R150, R357)? A copy that is not the primary has dropped what its commits would
release, so what it holds below the mark is its own from before (R151). -/
def holdOver (s : State) (x : Wg) (r : Req) : Bool :=
  let mode := modeOf s x
  let w := decide (r.acc + Config.strikeWindow ≤ (s.core r.core).cycle)
  if mode = 0 ∨ r.external ∨ r.path = .append then w
  else decide (r.id < x.ck.freeId)

/-- Is an entry a reset of the append queue? -/
def isReset (r : Req) : Bool := decide (r.path = .append) && (match r.kind with | .sheadReset _ => true | _ => false)

/-- The resets that have left the append queue, but wait for appends before them to return (R358). -/
def dueResets (s : State) (x : Wg) : List Req := x.appQ.takeWhile fun r => isReset r && holdOver s x r

/-- Everything held by the workgroup and not made releasable by the last commit is discarded (R142, R147); what has left goes
on. -/
def discardHeld (s : State) (g : Nat) : State :=
  match fget s.wgs g with
  | none => s
  | some x =>
    let kept (r : Req) : Bool := decide (r.id < x.ck.freeId) || r.external
    let s := withdrawWq s g fun r => kept r && r.pend.isNone
    let due := dueResets s x
    let s := s.updWg g fun x => { x with
      laneQ := x.laneQ.filter kept, copyQ := x.copyQ.filter kept, chanQ := x.chanQ.filter kept
      appQ := x.appQ.filter fun r => due.contains r || (isReset r && decide (r.id < x.ck.freeId))
      sub := [], blocked := none, reissue := [], doomed := [] }
    s.updCore x.core fun k => { k with trails := k.trails.filter fun q => decide (q.wg ≠ g) || copyHeld s g q.id }

/-- The warps and commands of a workgroup leave its core. -/
def stripWarps (s : State) (g : Nat) : State :=
  match fget s.wgs g with
  | none => s
  | some x =>
    let s := (wgSlots (s.core x.core) g).foldl (fun s sl => dropWarp s x.core sl) s
    s.updCore x.core fun k => { k with copies := k.copies.filter fun q => decide (q.wg ≠ g) }

/-- The sequencer of a cluster with nothing forked; its members stay. -/
def clearSeq (s : State) (cl : Nat) : State := s.updSeq cl fun q => { Sequencer.reset with members := q.members }

/-- What a rolled-back receiver is to receive again of a channel, opening by opening: what openings closed since the committed
checkpoint have received, what stands in the ring of the one that is open, and what an earlier rollback had still to return
(R146). -/
def heardAgain (s : State) (g : Nat) (x : Wg) (n : Nat) : List (List Nat) :=
  let c := chanOf x n
  ((fget x.heard n).getD []).map Heard.msgs ++ (if c.st = .rx then [ringWords s g c c.kept c.delivered] else []) ++ (fget x.again n).getD []

/-- A channel after a rollback, and what its next openings return again: one open in the checkpoint stands as captured, with
what it has been sent since in its ring. -/
def rolledChan (c : Chan) (ls : List (List Nat)) : Chan × List Nat × List (List Nat) :=
  if c.st = .rx then
    let ms := ls.headD []
    ({ c with delivered := c.received + ms.length, kept := c.received }, ms, ls.drop 1)
  else (c, [], ls)

/-- A workgroup's channels after a rollback to an image, the ring words to write, and what is left to return. -/
def rolledChans (s : State) (g : Nat) (x : Wg) (im : WgImage) : FMap Chan × List (Nat × Nat) × FMap (List (List Nat)) :=
  (List.range 64).foldl (fun p n =>
    let ls := heardAgain s g x n
    match fget im.chans n with
    | some c =>
      let r := rolledChan c ls
      (fput p.1 n r.1, p.2.1 ++ r.2.1.zipIdx.map (fun m => (c.ring + 4 * ((c.received + m.2) % (c.size / 4)), m.1)),
        if r.2.2 = [] then p.2.2 else fput p.2.2 n r.2.2)
    | none => (p.1, p.2.1, if ls = [] then p.2.2 else fput p.2.2 n ls)) ([], [], [])

/-- A rollback whose restore has to wait: everything it discards goes, and the restore follows (R147, R358). Its sections
count at the core before those of the warps that go leave it (R99, R104); the interval is noted anew. -/
def rollbackOne (s : State) (g : Nat) : State :=
  match fget s.wgs g with
  | none => s
  | some x =>
    let s := s.updDie (dieOf x.core) fun d => { d with rollbacks := (d.rollbacks + 1) % 2 ^ 64 }
    let s := logError s (dieOf x.core) { kind := 8, core := some x.core, launch := launchNo s x.launch }
    let s := if x.ck.restoring then s else addMove (addRestoring s x 1) (dieOf x.core)
    let s := stripWarps (discardHeld s g) g
    let s := if x.cg.isSome then clearSeq s (clusterOf s x.core) else s
    s.updWg g fun x => { x with ck := { x.ck with
      phase := .idle
      pending := none
      again := false
      lapsed := false
      saving := false
      popped := false
      ext := none
      extAt := 0
      extBusy := false
      ready := false
      sigma := 0
      written := []
      nextOffsets := []
      rollbacks := if x.ck.restoring then x.ck.rollbacks else x.ck.rollbacks + 1
      restoring := true } }

/-- Are appends or resets of a workgroup that have left its append queue still under way (R358)? -/
def appendsLeft (s : State) (x : Wg) : Bool := !(dueResets s x).isEmpty || x.left.any fun r => decide (r.path = .append)

/-- SHEAD of each descriptor goes back to the first offset returned since the committed τ (R358). -/
def sheadBack (s : State) (x : Wg) : State :=
  x.ck.firstOffsets.foldl (fun s p => physWrite s (devOfCore s x.core) (p.1 + 24) 8 p.2) s

/-- Suspect flags survive a rollback (R305). -/
def keepSuspect (a b : MArray) : MArray := { b with suspect := a.suspect, suspectAcc := a.suspectAcc }

/-- Is some workgroup of a core being restored? -/
def coreRestoring (s : State) (c : Nat) : Bool := s.wgs.any fun p => decide (p.2.core = c) && p.2.ck.restoring

/-- The restore of a member of a cluster group that had ended: its array (R327). -/
def finishEnded (s : State) (g : Nat) (x : Wg) : State :=
  let s := addRestoring s x (-1)
  let s := match x.ck.committed.array with
    | some a => s.updCore x.core fun k => putArray k (keepSuspect k.array a)
    | none => s
  s.updWg g fun x => { x with ck := { x.ck with restoring := false, unverified := [], written := [], firstOffsets := [] } }

/-- Put the committed checkpoint of a workgroup back, if there is room: it resumes, what is left of its queues names its
warps' new slots, and its channels return again what they had received. -/
def finishOne (s : State) (g : Nat) (x : Wg) : State :=
  let im := x.ck.committed
  let r := rolledChans s g x im
  let flags := (s.core x.core).array
  match putImage s g x.core x.base im with
  | none => s
  | some (t, m) =>
    let s := addRestoring (moveReqs (sheadBack (putSeq t g x.core im m) x) g m) x (-1)
    let s := s.updCore x.core fun k => { k with array := keepSuspect flags k.array }
    let s := s.updWg g fun y => { y with
      chans := r.1
      heard := []
      again := r.2.2
      ended := x.nwarps - im.warps.length
      ck := { y.ck with restoring := false, ext := x.ck.ext.map (newSlot m), committed := rekey m im, firstOffsets := [] } }
    let s := r.2.1.foldl (fun s p => wgWrite s g p.1 (bytesOfNat 4 p.2)) s
    s.updWg g fun x => { x with ck := { x.ck with unverified := [], written := [] } }

/-- Put the committed checkpoint back once every append that left has returned; one in an area with uncorrectable data replays
the launch instead (R153). -/
def finishRollback (s : State) (g : Nat) : State :=
  match fget s.wgs g with
  | none => s
  | some x =>
    if !x.ck.restoring || appendsLeft s x then s
    else if areaPoisoned s x then poisonReplay s x.launch (dieOf x.core) ((s.dev (devOfCore s x.core)).ckptbase + 65536 * x.ckAt)
    else
      let s := if x.phase = .ended then finishEnded s g x else finishOne s g x
      s.updCore x.core fun k => { k with frozen := k.frozen && coreRestoring s x.core }

/-- ROLLBACK_SHEAD_RESTORE: the last steps of a rollback (R358). -/
def execRollbackSheadRestore (wg : Nat) (s : State) : Outcome State Fault Refusal := .next (finishRollback s wg)

/-- Roll groups back together, once what is past its commit has committed (R142); the ninth rollback to one checkpoint is a
replay of the launch (R148). -/
def rollbackAll (s : State) (gs : List Nat) : State :=
  match gs with
  | [] => s
  | g :: _ =>
    let s := commitReady s g
    if anyWg s gs fun _ x => decide (8 ≤ x.ck.rollbacks) && !x.ck.restoring then replayWg s g 0
    else gs.foldl finishRollback (gs.foldl rollbackOne s)

/-! ### CKPT, ROLLBK, SIGRD (R303, R304) -/

/-- CKPT: it asks for a checkpoint, and the warp stands at it until that is taken; in plain mode it has no effect. -/
def execCkpt (f : F3) (s : State) : Outcome State Fault Refusal :=
  issue (.ckpt f) s fun x =>
    { live := true
      next :=
        if x.act = 0 ∨ x.l.rec_.mode = 0 then goOn s x x.k x.w
        else goOn (askCheckpoint s x.g) x x.k { x.w with hold := .ckpt } }

/-- ROLLBK: it waits for the workgroup's earlier copy commands, of which those under HOLD end (R297, R303), and rolls back
(R148). -/
def execRollbk (f : F3) (s : State) : Outcome State Fault Refusal :=
  issue (.rollbk f) s fun x =>
    { live := true
      next :=
        let counted := s.updCore x.core fun k => countCore k x.slot
        if x.act = 0 then goOn s x x.k x.w
        else if x.k.copies.any fun q => decide (q.wg = x.g) then endHolds (hold s x .warp) x.g
        else if x.l.rec_.mode = 0 then replayWg counted x.g 0
        else rollbackAll counted (twinSet s x.g) }

/-- SIGRD (R304). -/
def execSigrd (f : F3) (s : State) : Outcome State Fault Refusal :=
  issue (.sigrd f) s fun x =>
    { next := goOn s x (putPair x x.k f.d.toNat fun _ => if x.l.rec_.mode = 2 then x.wg.ck.agreed else 0) x.w }

/-! ### Strikes (R135 to R138) -/

/-- The cores of a struck region: the cluster of a core, or the whole die. -/
def struckRegion (s : State) (d : Nat) (core : Option Nat) : List Nat :=
  let all := (List.range 160).map (d * 160 + ·)
  match core with
  | some j => all.filter fun c => decide (clusterOf s c = clusterOf s (d * 160 + j % 160))
  | none => all

/-- Is a workgroup inside the window of its external operation, when a report means replay (R144)? -/
def inExtWindow (s : State) (x : Wg) : Bool :=
  x.ck.ready || x.ck.extBusy || x.ck.popped || (match x.ck.extWindow with | some t => decide ((s.core x.core).cycle ≤ t) | none => false)

/-- Does a workgroup stand in a region, or hold an entry in a core of it? -/
def struck (cs : List Nat) (x : Wg) : Bool :=
  cs.contains x.core &&
    (holdsSlot x || !(x.laneQ.isEmpty && x.copyQ.isEmpty && x.chanQ.isEmpty && x.appQ.isEmpty && x.sub.isEmpty))

/-- What a report means to one workgroup it concerns; a saved or ended one in guarded mode holds only entries that a commit
has made releasable (R142). -/
def strikeWg (s : State) (d g : Nat) : State :=
  match fget s.wgs g with
  | none => s
  | some x =>
    if modeOf s x = 0 ∨ anyWg s (twinSet s g) (fun _ y => inExtWindow s y) then startReplay s x.launch d 0
    else if holdsSlot x then rollbackAll s (twinSet s g)
    else s

/-- A report's effect on the workgroups it concerns, each rolled back once with what goes back with it (R148). -/
def strikeAll (d : Nat) : List Nat → List Nat → State → State
  | [], _, s => s
  | g :: gs, done, s => if done.contains g then strikeAll d gs done s else strikeAll d gs (done ++ twinSet s g) (strikeWg s d g)

/-- The core of a die that stands at a mesh position (R372). -/
def coreStanding (s : State) (die x y : Nat) : Option Nat :=
  ((List.range 160).map (die * 160 + ·)).find? fun c => decide ((corePlace s c).1 = x ∧ (corePlace s c).2.1 = y)

/-- STRIKE_REPORT at a mesh position, a column and a row (R135, R136). Checkpoints whose commit is past have committed (R142). -/
def execStrikeReport (die : Nat) (pos : Nat × Nat) (residue : Bool) (s : State) : Outcome State Fault Refusal :=
  let core := coreStanding s die pos.1 pos.2
  let cs := struckRegion s die (core.map coreIdx)
  let s := noteStrike s die core pos residue
  let hits (s : State) : List Nat := (s.wgs.filter fun p => struck cs p.2).map Prod.fst
  let s := (hits s).foldl commitReady s
  let s := strikeAll die (hits s) [] s
  .next (cs.foldl (fun s c => if coreRestoring s c then s.updCore c fun k => { k with frozen := true } else s) s)

/-! ### Twin votes (R150, R151) -/

/-- Note a mismatch of a twin's sums. -/
def noteMismatch (s : State) (g : Nat) : State :=
  match fget s.wgs g with
  | none => s
  | some x =>
    let d := dieOf x.core
    let s := s.updDie d fun y => { y with mismatches := (y.mismatches + 1) % 2 ^ 64 }
    logError s d { kind := 7, core := some x.core, launch := launchNo s x.launch }

/-- Copies that disagree roll back, and take their next checkpoint at the same collective point. -/
def disagree (s : State) (gs : List Nat) : State :=
  let s := gs.foldl (fun s g => s.updWg g fun x => { x with ck := { x.ck with mismatches := x.ck.mismatches + 1 } }) s
  gs.foldl askCheckpoint (rollbackAll s gs)

/-- A copy is no longer one of its twin: a third copy goes. -/
def removeThird (s : State) (gs : List Nat) : State :=
  let s := gs.foldl tearWg s
  { s with wgs := s.wgs.map fun p =>
      match p.2.third with
      | some h => if gs.contains h then (p.1, { p.2 with third := none }) else p
      | none => p }

/-- A disagreeing copy takes the winner's committed checkpoint and is restored from it, unless that is poisoned (R153): what
it held of the interval goes, what a commit had released stays. At an external operation's, it stands there as the winner does
(R144, R151). -/
def adoptCk (s : State) (winner loser : Nat) : State :=
  match fget s.wgs winner, fget s.wgs loser with
  | some w, some l =>
    if areaPoisoned s w then poisonReplay s w.launch (dieOf w.core) ((s.dev (devOfCore s w.core)).ckptbase + 65536 * w.ckAt)
    else
      let tau := l.ck.tauId
      let s := moveCk s l w.ck.committed
      let s := s.updDev (devOfCore s l.core) fun d => { d with ckptBad := d.ckptBad.filter fun u => !(areaUnits l).contains u }
      let s := s.updWg loser fun x => { x with
        heard := [], again := []
        ck := { x.ck with
          die := dieOf l.core
          committed := w.ck.committed, number := w.ck.number, agreed := w.ck.agreed, rollbacks := 0, mismatches := 0
          firstOffsets := [] } }
      let s := (rollbackOne s loser).updWg loser fun x => { x with ck := { x.ck with freeId := tau, ext := w.ck.ext, extAt := w.ck.extAt } }
      finishRollback s loser
  | _, _ => s

/-- Two or three copies agree: the first of them commits and releases, a disagreeing one is restored from it, and the third
goes. -/
def settleVote (s : State) (win lose : List (List Nat)) (third : List Nat) : State :=
  let first := (win.find? fun gs => anyWg s gs fun _ x => x.primary).or win.head?
  match first with
  | none => s
  | some w =>
    let s := w.foldl (fun s g => s.updWg g fun x => { x with primary := true }) s
    let s := (win.filter fun gs => decide (gs ≠ w) && decide (gs ≠ third)).flatten.foldl
      (fun s g => s.updWg g fun x => { x with primary := false }) s
    let s := (win.filter fun gs => decide (gs ≠ third)).flatten.foldl commitOne s
    let s := (lose.filter fun gs => decide (gs ≠ third)).foldl (fun s gs =>
      (w.zip gs).foldl (fun s p => adoptCk (s.updWg p.2 fun x => { x with primary := false }) p.1 p.2) s) s
    removeThird s third

/-- With no majority the checkpoint area of a copy is marked poisoned (R151). -/
def poisonArea (s : State) (g : Nat) : State :=
  match fget s.wgs g with
  | none => s
  | some x => s.updDev (devOfCore s x.core) fun d => { d with ckptBad := (d.ckptBad ++ areaUnits x).eraseDups }

/-- TWIN_VOTE: the sums of copies that have all taken checkpoint k differ, or three copies decide (R151). -/
def execTwinVote (wg : Nat) (s : State) : Outcome State Fault Refusal :=
  match fget s.wgs wg with
  | none => .next s
  | some x =>
    let cs := twinCopies s wg
    let sum := copySum s
    if modeOf s x ≠ 2 || !(cs.all (ckReady s)) || (x.third.isNone && decide (2 ≤ x.ck.mismatches)) then .next s
    else
      match cs with
      | [a, b] => if sum a = sum b then .next s else .next (disagree (noteMismatch s wg) (a ++ b))
      | [a, b, c] =>
        if sum a = sum b then .next (settleVote s [a, b] [] c)
        else if sum a = sum c then .next (settleVote s [a, c] [b] c)
        else if sum b = sum c then .next (settleVote s [b, c] [a] c)
        else .next (startReplay ((a ++ b ++ c).foldl poisonArea (noteMismatch s wg)) x.launch (dieOf x.core) 0x12)
      | _ => .next s

/-- The core of a cluster at a position. -/
def coreAtPos (s : State) (cl pos : Nat) : Option Nat :=
  ((List.range 160).map (cl / 40 * 160 + ·)).find? fun c => decide (clusterOf s c = cl ∧ (corePlace s c).2.2.2 = pos)

/-- A third copy of one workgroup in a core, in a free area of the checkpoint pool (R374), restored from the committed
checkpoint. -/
def thirdOne (s : State) (g c : Nat) (cg : Option Nat) : Option State :=
  match fget s.wgs g, (fget s.wgs g).bind fun x => fget s.launches x.launch with
  | some x, some l =>
    let units := areaSize l.rec_ (match x.ck.committed.array with | some a => !a.claims.isEmpty | none => false)
    match findRoom s c x.size, areaFor s (devOfCore s c) units with
    | some base, some area =>
      if !matrixFree s c l.rec_.space then none
      else
      let n := s.nextWg
      let y : Wg := { x with
        core := c, base := base, cg := cg, laneQ := [], copyQ := [], chanQ := [], appQ := [], left := [], sub := [], blocked := none,
        reissue := [], doomed := [], twin := some g, third := x.twin, primary := false, chans := x.ck.committed.chans, ckAt := area
        ckUnits := units
        heard := [], again := []
        ck := { x.ck with
          phase := .idle, pending := none, ackAt := none, saving := false, restoring := false, written := [], unverified := [], sigma := 0,
          die := dieOf c } }
      let s := { s with nextWg := n + 1, wgs := fput s.wgs n y }
      let s := s.updWg g fun x => { x with third := some n }
      let s := (match x.twin with | some h => s.updWg h fun x => { x with third := some n } | none => s)
      let s := if cg.isSome then s.updSeq (clusterOf s c) fun q => { q with members := fput q.members x.pos n } else s
      let s := addCk s (dieOf c) (imageSections x.ck.committed 0) (imageSections x.ck.committed 1)
      let s := clearMatrix (takeArea s (devOfCore s c) area units) c l.rec_.space cg.isSome
      (putImage s n c base x.ck.committed).map fun r =>
        (putSeq r.1 n c x.ck.committed r.2).updWg n fun y => { y with ck := { y.ck with committed := rekey r.2 y.ck.committed } }
    | _, _ => none
  | _, _ => none

/-- The copies of a group, one after another, in a cluster. -/
def thirdAll (core : Nat) (cg : Option Nat) : List Nat → State → Option State
  | [], s => some s
  | g :: gs, s =>
    match fget s.wgs g with
    | none => none
    | some x =>
      match (if cg.isSome then coreAtPos s (clusterOf s core) x.pos else some core) with
      | none => none
      | some c => (thirdOne s g c cg).bind (thirdAll core cg gs)

/-- THIRD_COPY_START: after a second mismatch at one checkpoint a third copy begins on a third cluster, if it has room
(R151); from a poisoned area the launch is replayed instead (R153). -/
def execThirdCopyStart (wg core : Nat) (s : State) : Outcome State Fault Refusal :=
  match fget s.wgs wg with
  | none => .next s
  | some x =>
    let gs := groupOf s wg
    let cl := clusterOf s core
    let taken := (twinSet s wg).any fun g => match fget s.wgs g with | some y => decide (clusterOf s y.core = cl) | none => false
    if modeOf s x ≠ 2 || !x.primary || x.third.isSome || decide (x.ck.mismatches ≠ 2) || taken ||
        decide (devOfCore s core ≠ devOfCore s x.core) || (x.cg.isSome && !(s.seq cl).members.isEmpty) then .next s
    else
      let cg := x.cg.map fun _ => s.nextWg
      match gs.find? fun g => match fget s.wgs g with | some y => areaPoisoned s y | none => false with
      | some g => .next (replayWg s g 0x12)
      | none =>
      match thirdAll core cg gs s with
      | none => .next s
      | some s => .next (s.updDie (dieOf core) fun d => { d with thirds := (d.thirds + 1) % 2 ^ 64 })

end Sys2Proof.Machine
end

