-- ==== Sys2Proof/Machine/Response.lean ====
section
/-! DEFINITION. Entries leaving Brine (R81, R84, R142, R144, R298, R357), what comes back to a core: acknowledgements,
values and failures (R80, R88, R258, R259, R293, R358), timeouts (R86, R405) and retire entries at their node (R100). -/

namespace Sys2Proof.Machine

open Host (Outcome)

/-! ### The warp a workgroup's request came from -/

/-- The warp of a workgroup in a slot, in its core or in its saved context. -/
def ownerWarp (s : State) (g slot : Nat) : Option Warp :=
  match fget s.wgs g with
  | none => none
  | some x =>
    match x.phase, x.image with
    | .saved, some im => fget im.warps slot
    | _, _ => (s.warp? x.core slot).filter fun w => decide (w.wg = g)

/-- Change it. -/
def updOwner (s : State) (g slot : Nat) (f : Warp → Warp) : State :=
  match fget s.wgs g with
  | none => s
  | some x =>
    match x.phase, x.image with
    | .saved, some im => s.updWg g fun x => { x with image := some { im with warps := fupd im.warps slot f } }
    | _, _ => s.updWarp x.core slot fun w => if w.wg = g then f w else w

/-! ### BRINE_ENTRY_LEAVE -/

/-- The queue of a path. -/
def pathQueue (x : Wg) : BrineQ → List Req
  | .lane => x.laneQ
  | .copy => x.copyQ
  | .channel => x.chanQ
  | .append => x.appQ

/-- Change the queue of a path. -/
def setPathQueue (x : Wg) (q : BrineQ) (rs : List Req) : Wg :=
  match q with
  | .lane => { x with laneQ := rs }
  | .copy => { x with copyQ := rs }
  | .channel => { x with chanQ := rs }
  | .append => { x with appQ := rs }

/-- Has a release's wait ended: its thread's earlier reads have returned, and the lane queue's earlier entries have
performed and been acknowledged (R84)? -/
def releaseReady (s : State) (x : Wg) (g : Nat) (r : Req) : Bool :=
  let out := match ownerWarp s g r.slot with | some w => w.pend.map Pending.id | none => []
  !r.release ||
    ((r.waitReads.all fun n => !out.contains n) && !(x.left.any fun q => decide (q.path = .lane ∧ q.id < r.id)))

/-- Is an entry, of any queue, free of the copy writes it follows (R298)? -/
def marksDone (x : Wg) (r : Req) : Bool :=
  isReset r || !((x.copyQ ++ x.left).any fun q => match q.cmd with | some n => r.marks.contains n | none => false)

/-- An ACOMMIT of a guarded workgroup follows every APPEND accepted before it, and a reset entry every APPEND on its
descriptor that left before it (R357, R358). -/
def appendsDone (s : State) (x : Wg) (r : Req) : Bool :=
  match r.kind with
  | .acommit => decide (modeOf s x ≠ 1) || !((x.appQ ++ x.left).any fun q =>
      decide (q.kind = .append ∧ q.path = .append ∧ q.id < r.id ∧ q.acc ≤ r.acc))
  | .sheadReset _ => decide (r.path ≠ .append) || !(x.left.any fun q => decide (q.path = .append ∧ q.target = r.target))
  | _ => true

/-- Does a lane of an entry write bytes of a span of memory, at the place of its target or at its address? -/
def entryMeets (r : Req) (o : LaneOp) (sp : Span) : Bool :=
  (namedBytes r o).any fun b =>
    match sp, r.target with
    | .phys a m, .mem _ => meets (o.at_ + (b.1 - o.va)) b.2 a m
    | .phys .., _ => false
    | .virt space a m, _ => decide (space = r.space) && meets b.1 b.2 a m

/-- Do two spans meet? -/
def spansMeet : Span → Span → Bool
  | .phys a n, .phys b m => meets a n b m
  | .virt sp a n, .virt sq b m => decide (sp = sq) && meets a n b m
  | _, _ => false

/-- May an entry and an earlier one of its path write the same bytes, of which one finds its own only when it performs? Two
such writes perform in acceptance order (R81), so the later stays until the earlier is acknowledged (DEDUCED, log 21). -/
def farClash (s : State) (q r : Req) : Bool :=
  let spans (a : Req) : List Span := a.lanes.flatMap (farWrites s a)
  let far := spans r
  let near := spans q
  near.any (fun sp => r.lanes.any (fun o => entryMeets r o sp) || far.any (spansMeet sp)) ||
    far.any fun sp => q.lanes.any fun o => entryMeets q o sp

/-- Does an earlier entry of its path that has left hold an entry back so? -/
def farBehind (s : State) (x : Wg) (r : Req) : Bool := x.left.any fun q => decide (q.path = r.path ∧ q.id < r.id) && farClash s q r

/-- Does the lane queue wait for the trap handler of a timed-out release (R86)? -/
def laneBlocked (s : State) (x : Wg) (g : Nat) : Bool :=
  match x.blocked with
  | some sl => (match ownerWarp s g sl with | some w => decide (w.handler ≠ 0) | none => false)
  | none => false

/-- May the entry at the head of a queue leave? A rollback waits for the resets whose hold is over (R358). -/
def mayLeave (s : State) (g : Nat) (x : Wg) (q : BrineQ) (r : Req) : Bool :=
  ((!(s.core x.core).frozen && !x.ck.restoring) || (x.ck.restoring && isReset r)) && !(s.die (dieOf x.core)).stopped && holdOver s x r && releaseReady s x g r &&
    marksDone x r && appendsDone s x r && !farBehind s x r && !(decide (q = .lane) && laneBlocked s x g) &&
    (match r.kind with
      | .spawn => poolRoom s (dieOf x.core) r.lanes.length
      | _ => true)

/-- The releases of the lane queue that wait for the acknowledgement of a request of the lane path (R84, R86). -/
def releasesBehind (x : Wg) (q : Req) : List Nat :=
  if q.path = .lane then (x.laneQ.filter fun r => r.release && decide (q.id < r.id)).map Req.id else []

/-- A release whose wait timed out traps, and has no effect; entries behind it stay until the handler has ended (R86). -/
def releaseTimeout (s : State) (g : Nat) (x : Wg) (r : Req) : State :=
  let m : Word := maskOf fun l => r.lanes.any fun o => decide (o.lane = l)
  let s := s.updWg g fun x =>
    { x with laneQ := x.laneQ.filter (fun q => decide (q.id ≠ r.id)), blocked := some r.slot, doomed := x.doomed.filter fun n => decide (n ≠ r.id) }
  match s.warp? x.core r.slot with
  | some w => if w.wg = g then enterTrap s x.core r.slot (m &&& w.live) (trapOf cTIMEOUT) r.pc r.hdr m else s
  | none => s

/-- The releases of a workgroup's queue that wait for a timed-out write trap as they come to its head and no handler is waited for
(R86, log 77). -/
def releasesTimeout (s : State) (g : Nat) : State :=
  match fget s.wgs g with
  | none => s
  | some x =>
    match x.laneQ with
    | r :: _ => if x.doomed.contains r.id ∧ laneBlocked s x g = false then releaseTimeout s g x r else s
    | [] => s

/-- BRINE_ENTRY_LEAVE: the head of a queue leaves; Brine keeps it as a forwarding copy until its acknowledgement (R80). -/
def execBrineEntryLeave (wg : Nat) (q : BrineQ) (s : State) : Outcome State Fault Refusal :=
  match fget s.wgs wg with
  | none => .next s
  | some x =>
    match pathQueue x q with
    | [] => .next s
    | r :: rs =>
      if q = .lane ∧ x.doomed.contains r.id then .next (releasesTimeout s wg)
      else if !mayLeave s wg x q r then .next s
      else
        let s := s.updWg wg fun x => { setPathQueue x q rs with blocked := if q = .lane then none else x.blocked }
        match r.kind with
        | .spawn => .next (spawnPush s x.core r.launch r.lanes)
        | _ => .next (sendReq (s.updWg wg fun x => { x with left := x.left ++ [r] }) r)

/-! ### Acknowledgements -/

/-- Is some part of a request still under way? -/
def partLeft (s : State) (id : Nat) : Bool :=
  let mine (r : Req) : Bool := decide (r.id = id)
  s.net.any mine || s.aside.any mine || s.devs.any fun p => p.2.wq.any fun q => (q.2.pops ++ q.2.pushes).any mine

/-- Does an entry of a kind write the bytes of its lanes at a place? -/
def settlesBytes : ReqKind → Bool
  | .store | .atom .. | .cas => true
  | _ => false

/-- Has a performed entry written the byte at place a of an older entry's memory? -/
def wroteByte (r q : Req) (a : Nat) : Bool :=
  r.lanes.any fun p =>
    match placeIn q.target a r p with
    | some i => decide (i < r.size) && (decide (r.kind ≠ .store) || decide (p.keep / 2 ^ (8 * i) % 256 ≠ 0))
    | none => false

/-- A lane of an older entry without the bytes a performed entry has written over. -/
def supersedeLane (r q : Req) (o : LaneOp) : LaneOp :=
  { o with keep := (List.range q.size).foldl (fun k i =>
      if wroteByte r q (o.at_ + i) then k - (k &&& 255 * 2 ^ (8 * i)) else k) o.keep }

/-- An older entry after a later one of its path has performed. Writes of one path to one location perform in acceptance
order (R81), so the older bytes have performed as well and are forwarded no longer (DEDUCED, log 69). -/
def supersede (r q : Req) : Req :=
  if q.id < r.id ∧ q.path = r.path then { q with lanes := q.lanes.map (supersedeLane r q) } else q

/-- What Brine keeps once an entry that left has performed (R80, R81). -/
def performed (left : List Req) (id : Nat) : List Req :=
  let rest := left.filter fun r => decide (r.id ≠ id)
  match left.find? fun r => decide (r.id = id ∧ settlesBytes r.kind = true) with
  | some r => rest.map (supersede r)
  | none => rest

/-- A counted-off copy command of which Brine holds no write any more has completed, and its translations count no longer
(R105). -/
def endTrails (s : State) (m : Msg) : State :=
  match m.cmd with
  | some n =>
    if copyHeld s m.wg n then s
    else
      let s := match (s.core m.core).trails.find? fun q => decide (q.id = n) with
        | some q => noteSample s (dieOf m.core) 1 (some m.core) ((s.core m.core).cycle - q.issued)
        | none => s
      s.updCore m.core fun k => { k with trails := k.trails.filter fun q => decide (q.id ≠ n) }
  | none => s

/-- Brine forgets an entry all of which has performed or failed. -/
def ackReq (s : State) (m : Msg) : State :=
  if partLeft s m.req then s
  else
    let s := s.updWg m.wg fun x =>
      { x with left := if m.kind = .error then x.left.filter fun r => decide (r.id ≠ m.req) else performed x.left m.req }
    let s := endTrails s m
    match m.cmd, fget s.wgs m.wg with
    | some n, some x =>
      s.updCore x.core fun k =>
        { k with copies := k.copies.map fun q => if q.id = n then { q with writes := q.writes.filter fun i => decide (i ≠ m.req) } else q }
    | _, _ => s

/-- What follows a response: an external operation may have ended, and a freed workgroup may hold nothing more. -/
def afterMsg (s : State) (m : Msg) : State := forgetWgs (extSettle s m.wg)

/-- Take a message of a kind that has arrived; none if there is no such message. -/
def takeMsg (s : State) (i : Nat) (kind : MsgKind) : Option (State × Msg) :=
  match s.msgs[i]? with
  | some m =>
    let still := match fget s.wgs m.wg with | some x => (s.die (dieOf x.core)).stopped | none => false
    if m.kind = kind ∧ m.flits = 0 ∧ !still then some ({ s with msgs := dropAt s.msgs i }, m) else none
  | none => none

/-- WRITE_ACK (R80, R88). -/
def execWriteAck (msg : Nat) (s : State) : Outcome State Fault Refusal :=
  match takeMsg s msg .ack with
  | none => .next s
  | some (s, m) => .next (afterMsg (ackReq s m) m)

/-! ### Values (R258) -/

/-- The lanes of a mask that some list of lane values names. -/
def namedLanes {α : Type} (m : Word) (vs : List (Nat × α)) : Word := maskOf fun l => hasLane m l && vs.any fun p => decide (p.1 = l)

/-- An access all of whose lanes have returned writes its destinations. -/
def completePend (s : State) (c sl : Nat) (w : Warp) (p : Pending) : State :=
  let w := { w with pend := w.pend.filter fun q => decide (q.id ≠ p.id) }
  let w := match p.pred with
    | some n => writeP w n (namedLanes p.act p.preds) fun l => p.preds.any fun q => decide (q = (l, true))
    | none => w
  match p.dest with
  | .group d n signed =>
    let k := writeGroup (s.core c) sl w (namedLanes p.act p.got) d n signed (valueOf p.got)
    (s.setCore c k).setWarp c sl w
  | .scalar d => s.setWarp c sl (match d with | some r => writeS w r (wd (valueOf p.got 0)) | none => w)

/-- Add what came back to an outstanding access. -/
def addValues (p : Pending) (m : Msg) : Pending :=
  let new := maskOf fun l => m.values.any (fun q => decide (q.1 = l)) || m.preds.any fun q => decide (q.1 = l)
  { p with got := p.got ++ m.values, preds := p.preds ++ m.preds, want := p.want &&& ~~~new }

/-- Keep the first offset of a descriptor (R358). -/
def noteFirst (l : List (Nat × Nat)) (pa v : Nat) : List (Nat × Nat) := if l.any fun p => decide (p.1 = pa) then l else l ++ [(pa, v)]

/-- The slot of the instance that the rows of a request of a round count for: its own, or, once that has ended at a match, the
one that is not speculative; none for a squashed instance's (R358). -/
def roundSlot (s : State) (g : Nat) (x : Wg) (r : Req) : Option Nat :=
  let ws := (s.core x.core).warps.filter fun p => decide (p.2.wg = g ∧ p.2.round.st = .running ∧ p.2.round.owner = r.owner)
  ((ws.find? fun p => decide (p.2.round.inst = r.inst)).or
    (ws.find? fun p => decide (p.2.round.ist ≠ .speculative ∧ r.inst < p.2.round.inst))).map Prod.fst

/-- The offsets an APPEND of the append queue returned: for a rollback, for its round, and for reset entries behind it (R358).
DEDUCED from R360 (log 83): for a rollback count the requests accepted since τ, since only squashed instances' ones can be
accepted before it and return after. -/
def noteOffsets (s : State) (m : Msg) : State :=
  match fget s.wgs m.wg with
  | none => s
  | some x =>
    match x.left.find? fun r => decide (r.id = m.req) with
    | none => s
    | some r =>
      match r.kind, r.path, r.target with
      | .append, .append, .mem pa =>
        let vs := (m.values.map Prod.snd).filter fun v => decide (v ≠ 2 ^ 64 - 1)
        match vs with
        | [] => s
        | v :: _ =>
          let rows := vs.map fun v => (pa, v, v + r.size)
          let saw (q : Req) : Req :=
            match q.kind with
            | .sheadReset _ =>
              if q.path = .append ∧ q.target = r.target ∧ q.owner = r.owner ∧ r.id < q.id then
                { q with lanes := q.lanes ++ rows.map fun d => rowSeen d (!q.marks.contains r.id) }
              else q
            | _ => q
          let s := s.updWg m.wg fun x => { x with
            appQ := x.appQ.map saw
            ck := { x.ck with
              firstOffsets := if x.ck.freeId ≤ r.id then noteFirst x.ck.firstOffsets pa v else x.ck.firstOffsets
              nextOffsets := if x.ck.phase = .taken ∧ x.ck.tauId ≤ r.id then noteFirst x.ck.nextOffsets pa v else x.ck.nextOffsets } }
          match roundSlot s m.wg x r with
          | some sl => s.updWarp x.core sl fun w => { w with round := { w.round with offsets := w.round.offsets ++ rows } }
          | none => s
      | _, _, _ => s

/-- Lanes of a register row of an image; one that was not valid reads zero elsewhere (R110). -/
def imageRow (im : WgImage) (sl r : Nat) (m : Word) (f : Nat → Word) : WgImage :=
  let old := match im.rows.find? fun p => decide (p.1 = sl ∧ p.2.1 = r) with | some p => p.2.2 | none => List.replicate 32 0
  let new := old.zipIdx.map fun p => if hasLane m p.2 then f p.2 else p.1
  { im with rows := (im.rows.filter fun p => !decide (p.1 = sl ∧ p.2.1 = r)) ++ [(sl, r, new)] }

/-- A value for an atomic that the committed checkpoint waits for as well: there too it writes its destinations with the last
(log 91). -/
def imageDeliver (im : WgImage) (m : Msg) : WgImage :=
  match fget im.warps m.slot with
  | none => im
  | some w =>
    match w.pend.find? fun p => decide (some p.id = m.pend) with
    | none => im
    | some p =>
      let p := addValues p m
      let rest := w.pend.filter fun q => decide (q.id ≠ p.id)
      if p.want ≠ 0 then { im with warps := fput im.warps m.slot { w with pend := rest ++ [p] } }
      else
        let im := { im with warps := fput im.warps m.slot { w with pend := rest } }
        match p.dest with
        | .group (some d) n _ =>
          (List.range (n / 4)).foldl (fun im i =>
            imageRow im m.slot (d + i) (namedLanes p.act p.got) fun l => wd (valueOf p.got l / 2 ^ (32 * i))) im
        | _ => im

/-- Change the committed checkpoint of a workgroup. -/
def updImage (s : State) (g : Nat) (f : WgImage → WgImage) : State :=
  s.updWg g fun x => { x with ck := { x.ck with committed := f x.ck.committed } }

/-- Deliver a value to its outstanding access. -/
def deliver (s : State) (m : Msg) : State :=
  match fget s.wgs m.wg with
  | none => s
  | some x =>
    let s := updImage s m.wg fun im => imageDeliver im m
    match s.warp? x.core m.slot with
    | none => s
    | some w =>
      match w.pend.find? fun p => decide (some p.id = m.pend ∧ w.wg = m.wg) with
      | none => s
      | some p =>
        let p := addValues p m
        if p.want = 0 then completePend s x.core m.slot w p
        else s.setWarp x.core m.slot { w with pend := w.pend.map fun q => if q.id = p.id then p else q }

/-- An atomic has returned: a sample of its latency, from acceptance on (Table 23.6). -/
def atomSample (s : State) (m : Msg) : State :=
  match (fget s.wgs m.wg).bind fun x => x.left.find? fun r => decide (r.id = m.req) with
  | some r =>
    if accessOf r.kind = 4 ∧ r.kind ≠ .joinDec ∧ !partLeft s m.req then
      noteSample s (dieOf r.core) 2 (some r.core) ((s.core r.core).cycle - r.acc)
    else s
  | none => s

/-- LOAD_RESPONSE: values come back; with the last of them the access writes its destinations. -/
def execLoadResponse (msg : Nat) (s : State) : Outcome State Fault Refusal :=
  match takeMsg s msg .value with
  | none => .next s
  | some (s, m) => .next (afterMsg (ackReq (deliver (noteOffsets (atomSample s m) m) m) m) m)

/-! ### Failures (R258, R259, R293) -/

/-- The causes for which TADDR holds the address (R245). -/
def addrCause (cause : Nat) : Bool := decide (cause = 4 ∨ cause = 5 ∨ cause = 7 ∨ cause = 17 ∨ cause = 18)

/-- Put some lanes back to an instruction of a clause, with its header's priority (R12). -/
def backTo (s : State) (c : Nat) (w : Warp) (m : Word) (pc : Double) (cl : Option Clause) : Warp :=
  let w := withdraw w m
  setFrontier w (w.frontier ++ [withPrio s c w.wg { Entry.at_ pc m 0 with clause := cl }])

/-- Put some lanes of an access back to it. -/
def rewind (s : State) (c : Nat) (w : Warp) (p : Pending) (m : Word) : Warp := backTo s c w m p.pc p.clause

/-- The header of an access's clause. -/
def pendHdr (p : Pending) : Double := match p.clause with | some c => c.hdr | none => p.pc

/-- A returning access fails: nothing is written, and its entry's lanes trap; a speculative instance goes back to it and
waits (R130). -/
def failPend (s : State) (c sl : Nat) (w : Warp) (p : Pending) (cause addr : Nat) : State :=
  let w := { w with pend := w.pend.filter fun q => decide (q.id ≠ p.id) }
  let m := p.mask &&& w.live
  if speculative w then settle (s.setWarp c sl { rewind s c w p m with hold := .untilLive }) c sl
  else
    enterTrap (s.setWarp c sl w) c sl m { cause := cause, addr := if addrCause cause then addr else 0, info := 0 } p.pc (pendHdr p) p.act

/-- An access that fails has done nothing: where the committed checkpoint waits for it as well, its lanes are back at it there
(log 91). -/
def imageFail (s : State) (c : Nat) (im : WgImage) (sl id : Nat) : WgImage :=
  match fget im.warps sl with
  | none => im
  | some w =>
    match w.pend.find? fun p => decide (p.id = id) with
    | none => im
    | some p =>
      let w := { w with pend := w.pend.filter fun q => decide (q.id ≠ id) }
      { im with warps := fput im.warps sl (rewind s c w p (p.mask &&& w.live)) }

/-- A lane's deferred-error record is filled if it is empty. -/
def deferError (s : State) (g slot lane cause addr : Nat) : State :=
  updOwner s g slot fun w =>
    { w with derr := w.derr.zipIdx.map fun p => if p.2 = lane then p.1.or (some { cause := cause, addr := BitVec.ofNat 64 addr }) else p.1 }

/-- A write of a copy command fails at an element (R293, R405). -/
def copyWriteFail (s : State) (g n status elem : Nat) : State :=
  match fget s.wgs g with
  | none => s
  | some x =>
    s.updCore x.core fun k =>
      { k with copies := k.copies.map fun q =>
          if q.id ≠ n then q
          else if q.werr then { q with resume := min q.resume elem }
          else if q.status = none ∨ q.status = some 0 then { decideCmd q status elem none with werr := true }
          else q }

/-- The channel of a message whose entry Brine still keeps. -/
def messageChan (x : Wg) (id : Nat) : Option Nat :=
  match x.left.find? fun r => decide (r.id = id) with
  | some r => (match r.kind with | .message n => some n | _ => none)
  | none => none

/-- A failure of a request: of a returning access, a copy command, a message, or any other write. -/
def failReq (s : State) (m : Msg) : State :=
  match fget s.wgs m.wg with
  | none => s
  | some x =>
    match m.pend, m.cmd with
    | some n, _ =>
      let s := updImage s m.wg fun im => imageFail s x.core im m.slot n
      match s.warp? x.core m.slot with
      | none => s
      | some w =>
        match w.pend.find? fun p => decide (p.id = n ∧ w.wg = m.wg) with
        | some p => failPend s x.core m.slot w p m.cause m.addr
        | none => s
    | none, some n => copyWriteFail s m.wg n 3 m.lane
    | none, none =>
      let s := match messageChan x m.req with
        | some n => updChan s m.wg n fun c => { c with err := true }
        | none => s
      deferError s m.wg m.slot m.lane m.cause m.addr

/-- ERROR_COMPLETION. -/
def execErrorCompletion (msg : Nat) (s : State) : Outcome State Fault Refusal :=
  match takeMsg s msg .error with
  | none => .next s
  | some (s, m) => .next (afterMsg (ackReq (failReq s m) m) m)

/-! ### Timeouts (R86, R258, R405) -/

/-- Does a request leave its die? -/
def crossDie (s : State) (r : Req) : Bool :=
  match r.target with
  | .peer .. => true
  | .mem _ | .slice .. | .node _ => decide (reqDie s r ≠ some (dieOf r.core))

/-- The address a timed-out request names. -/
def reqAddr (r : Req) : Nat := match r.lanes with | o :: _ => o.va | [] => 0

/-- What a timed-out request means to its requester. DEDUCED (log 44): RESUME of a copy command is the element of the write
that timed out. -/
def timeoutReq (s : State) (r : Req) : State :=
  match fget s.wgs r.wg with
  | none => s
  | some x =>
    let s := s.updWg r.wg fun x => { x with left := x.left.filter fun q => decide (q.id ≠ r.id) }
    let msg (lane cause addr : Nat) : Msg := answerMsg r .error {} lane cause addr
    match r.pend.filter (fun _ => failureTraps r), r.cmd with
    | some _, _ => failReq s (msg 0 cTIMEOUT 0)
    | none, some n =>
      let elem := match r.lanes with | o :: _ => o.swap | [] => 0
      let s := copyWriteFail s r.wg n 1 elem
      endTrails (s.updCore x.core fun k =>
        { k with copies := k.copies.map fun q => if q.id = n then { q with writes := q.writes.filter fun i => decide (i ≠ r.id) } else q })
        (answerMsg r .error {} 0 cTIMEOUT 0)
    | none, none =>
      let s := match r.kind with | .message n => updChan s r.wg n fun c => { c with err := true } | _ => s
      let s := match r.pend with
        | some n => updOwner s r.wg r.slot fun w => { w with pend := w.pend.filter fun p => decide (p.id ≠ n) }
        | none => s
      match releasesBehind x r with
      | [] => r.lanes.foldl (fun s o => deferError s r.wg r.slot o.lane cTIMEOUT o.va) s
      | ids => releasesTimeout (s.updWg r.wg fun x => { x with doomed := (x.doomed ++ ids).eraseDups }) r.wg

/-- The cycles a request of a workgroup's slot may stay unanswered: its warp's TIMEOUT_CYC, the reset value once the warp has
ended (R250; DEDUCED, log 59). -/
def timeoutLimit (s : State) (g slot : Nat) : Nat := match ownerWarp s g slot with | some w => w.timeoutCyc | none => 1000000

/-- Does a message find the ring of its channel full, so that its core holds it (R277)? -/
def messageHeld (s : State) (r : Req) : Bool :=
  let full (a : RingAns) : Bool := match a with | .full => true | _ => false
  match r.kind, r.target, r.lanes with
  | .message _, .slice c off, [o] => full (ringDeliver s c off o.data fun y => decide (y.launch = r.launch))
  | .message _, .peer d _ w off, [o] =>
    (match peerWay s d w.target with
      | .here k => full (exportRing s k w.exp w.key off o.data)
      | .link _ | .lost => false)
  | _, _, _ => false

/-- A held message leaves its core anew once its ring has room. -/
def messageAgain (s : State) (id : Nat) : State :=
  { s with net := s.net.map fun q => if q.id = id then { q with sent := (s.core q.core).cycle } else q }

/-- The record of a timeout (Table 22.6). -/
def postTimeout (s : State) (c launch space va acc : Nat) : State :=
  postFault s (devOfCore s c) (accessFault s va launch space (some c) 0 acc 0 11)

/-- A request that was not answered in time is given up. -/
def timeoutSent (s : State) (r : Req) : State :=
  if messageHeld s r then messageAgain s r.id
  else if !crossDie s r || decide ((s.core r.core).cycle < r.sent + timeoutLimit s r.wg r.slot) then s
  else
    let s := { takeNet s r.id with aside := s.aside.filter fun q => decide (q.id ≠ r.id) }
    let acc := accessOf r.kind + if r.path = .copy then 16 else 0
    let s := postTimeout s r.core (launchNo s r.launch) r.space (reqAddr r) acc
    forgetWgs (extSettle (timeoutReq s r) r.wg)

/-- The address of the read that a copy command waits for: its record, or the source of the chunk at its position. -/
def copyReadVa (j : Job) (q : CopyCmd) : Nat :=
  match q.rec_ with
  | none => q.args.addr
  | some v => ((chunkPieces (boxJob j q v) q.args q.pos).head?.map Prod.fst).getD 0

/-- A copy command's read across dies or at a peer that has waited too long ends it FAULTED at its element (R405, log 44). -/
def timeoutCopy (s : State) (c : Nat) (q : CopyCmd) : State :=
  match q.readAt, fget s.wgs q.wg with
  | some t, some g =>
    match fget s.launches g.launch with
    | none => s
    | some l =>
      if (s.core c).cycle < t + timeoutLimit s q.wg q.slot then s
      else
        let j : Job := { core := c, dev := devOfCore s c, g := q.wg, wg := g, l := l, lay := layoutOf 0, rows := none }
        putCmd (postTimeout s c l.id l.rec_.space (copyReadVa j q) 17) c (decideCmd q 1 q.pos none)
  | _, _ => s

/-- A sequencer's argument read across dies that has waited too long ends its program with 0x11 (R405). -/
def timeoutArg (s : State) (cl : Nat) (q : Sequencer) : State :=
  match q.argAt, q.cur with
  | some (_, t), some fk =>
    if (s.core fk.core).cycle < t + timeoutLimit s fk.wg fk.slot then s
    else
      match fget s.wgs fk.wg with
      | none => s
      | some x =>
        let space := ((fget s.launches x.launch).map fun l => l.rec_.space).getD 0
        seqFail (postTimeout s fk.core (launchNo s x.launch) space q.argaddr.toNat 33) cl 0x11
  | _, _ => s

/-- REQUEST_TIMEOUT_EXPIRY: a request across dies or to a peer was not answered within TIMEOUT_CYC cycles of leaving its core: a
lane's or a copy's write, a copy's read, or a sequencer's argument read (R405). -/
def execRequestTimeoutExpiry (req : Nat) (s : State) : Outcome State Fault Refusal :=
  match (s.net ++ s.aside).find? fun r => decide (r.id = req) with
  | some r => .next (timeoutSent s r)
  | none =>
    match s.cores.findSome? fun p => (copyCmd s p.1 req).map fun q => (p.1, q) with
    | some (c, q) => .next (timeoutCopy s c q)
    | none =>
      match s.seqs.find? fun p => decide (p.2.argAt.map Prod.fst = some req) with
      | some (cl, q) => .next (timeoutArg s cl q)
      | none => .next s

/-! ### RETIRE_ENTRY_APPEND (R100, R267) -/

/-- GSEQ of an entry appended now (R100): F + 1 at the root of a local-span domain, F + 2 where the node is not the root of a
pod-span one. DESIGN CHOICE (log 88): the device node of the device that is the pod's root stamps F + 1. -/
def gseqOf (d : Dev) : Nat := if d.span ∧ d.rootdev ≠ d.devnum then (d.vesper.f + 2) % 2 ^ 32 else (d.vesper.f + 1) % 2 ^ 32

/-- One lane's entry. -/
def retireEntry (d : Dev) (space act : Nat) (o : LaneOp) : RetireEntry :=
  let g := gseqOf d
  { space := space, act := act, ph := (g + 2 ^ 32 - 1) % 2, gseq := g, size := o.swap % 2 ^ 32, arg := o.data, addr := o.va }

/-- The 256 bits of an entry (Table 4.2). -/
def retireWords (e : RetireEntry) : Nat :=
  e.space * 2 ^ 208 + e.act * 2 ^ 193 + e.ph * 2 ^ 192 + e.gseq * 2 ^ 160 + e.size * 2 ^ 128 + e.arg * 2 ^ 64 + e.addr

/-- Append an entry to a device's retire queue and write it to its place (R401). -/
def retirePush (s : State) (k : Nat) (e : RetireEntry) : State :=
  let d := s.dev k
  let at_ := d.rqbase + 32 * (d.rqtotal % 2 ^ d.rqlog2n)
  let s := physWrite s k at_ 32 (retireWords e)
  s.updDev k fun d => { d with rqtotal := d.rqtotal + 1, retire := d.retire ++ [e] }

/-- RETIRE_ENTRY_APPEND: the entries of a RETIRE at the device node; each lane's GSEQ goes back. -/
def execRetireEntryAppend (req : Nat) (s : State) : Outcome State Fault Refusal :=
  match arrived s req with
  | none => .next s
  | some r =>
    match r.kind, r.target with
    | .retire act, .node k =>
      let g := r.lanes.foldl (fun (p : State × List (Nat × Nat)) o =>
        let e := retireEntry (p.1.dev k) r.space act o
        (retirePush p.1 k e, p.2 ++ [(o.lane, e.gseq)])) (takeNet s r.id, [])
      .next (sendBack g.1 r { values := g.2 })
    | _, _ => .next s

end Sys2Proof.Machine
end

