-- ==== Sys2Proof/Machine/Save.lean ====
section
/-! DEFINITION. Pre-emption (R33, R132, R274, R327, R384), context saves and restores (R104, R108, R113, R116, R132). -/

namespace Sys2Proof.Machine

open Host (Outcome)

/-! ### What is saved together -/

/-- The workgroups saved with one: the whole of a persistent launch, a cluster group, a twin's copies (R384). -/
def saveSet (s : State) (g : Nat) : List Nat :=
  match fget s.wgs g with
  | none => []
  | some x =>
    match fget s.launches x.launch with
    | some l => if l.rec_.kind = 1 then launchWgs s x.launch else twinSet s g
    | none => twinSet s g

/-- Save-pool units of a workgroup's context (R384). -/
def saveUnitsOf (s : State) (g : Nat) (x : Wg) : Nat :=
  let blocks := ((wgWarps s x g).map fun p => p.2.base + p.2.ext).sum
  let m := if x.cg.isSome ∧ !(s.core x.core).array.claims.isEmpty then 589824 else 0
  (4096 + 2048 * blocks + x.size + m + 65535) / 65536

/-! ### Waiting queue operations are withdrawn (R274) -/

/-- The clause whose header stands at an address. -/
def clauseAt (s : State) (c space : Nat) (hdr : Double) : Option Clause :=
  (codeWord s c space hdr.toNat).map fun h => { hdr := hdr, page := hdrPage h, count := hdrCount h }

/-- An external operation that was withdrawn is to be tried again after another checkpoint (R144). -/
def extAgain (s : State) (g : Nat) : State :=
  s.updWg g fun x => { x with ck := { x.ck with extAt := 0, extBusy := false, ready := false } }

/-- A waiting pop goes: the lanes it served keep their items, the others are back at the instruction. A report before the next
commit then means replay, since a rollback would pop again (R144). -/
def withdrawPop (s : State) (r : Req) : State :=
  let m : Word := maskOf fun l => r.lanes.any fun o => decide (o.lane = l)
  match fget s.wgs r.wg with
  | none => s
  | some x =>
    let s := extAgain (s.updWg r.wg fun x => { x with left := x.left.filter fun q => decide (q.id ≠ r.id) }) r.wg
    match s.warp? x.core r.slot with
    | none => s
    | some w =>
      match w.pend.find? fun p => decide (some p.id = r.pend ∧ w.wg = r.wg) with
      | none => s
      | some p =>
        let w := rewind s x.core w p (m &&& w.live)
        let p := { p with mask := p.mask &&& ~~~m, act := p.act &&& ~~~m, want := p.want &&& ~~~m }
        let w := { w with pend := w.pend.map fun q => if q.id = p.id then p else q }
        let s := if p.got ≠ [] then s.updWg r.wg fun x => { x with ck := { x.ck with popped := decide (modeOf s x ≠ 0) } } else s
        if p.want = 0 then settle (completePend s x.core r.slot w p) x.core r.slot else settle (s.setWarp x.core r.slot w) x.core r.slot

/-- A waiting push goes: one that is an external operation is tried again by its lanes, any other is sent again when its
workgroup is back. -/
def withdrawPush (s : State) (r : Req) : State :=
  match fget s.wgs r.wg with
  | none => s
  | some x =>
    if !r.external ∧ r.pend.isNone then s.updWg r.wg fun x => { x with reissue := x.reissue ++ [r] }
    else
      let s := extAgain (s.updWg r.wg fun x => { x with left := x.left.filter fun q => decide (q.id ≠ r.id) }) r.wg
      let m : Word := maskOf fun l => r.lanes.any fun o => decide (o.lane = l)
      match s.warp? x.core r.slot with
      | none => s
      | some w =>
        if w.wg = r.wg then
          settle (s.setWarp x.core r.slot (backTo s x.core w (m &&& w.live) r.pc (clauseAt s x.core r.space r.hdr))) x.core r.slot
        else s

/-- Withdraw what a workgroup has waiting at work queues. -/
def withdrawWaiting (s : State) (g : Nat) : State :=
  let all := s.devs.flatMap fun p => p.2.wq.flatMap fun q => q.2.pops ++ q.2.pushes
  let mine := all.filter fun r => decide (r.wg = g)
  mine.foldl (fun s r => match r.kind with | .wqpop _ => withdrawPop s r | _ => withdrawPush s r) (withdrawWq s g fun _ => false)

/-- REGACQ requests of a workgroup are withdrawn: on restore the warp executes it again (R33). -/
def withdrawRegacq (s : State) (g : Nat) : State :=
  match fget s.wgs g with
  | none => s
  | some x =>
    let slots := wgSlots (s.core x.core) g
    s.updCore x.core fun k =>
      { k with
        regacq := k.regacq.map fun p => (p.1, p.2.filter fun r => !slots.contains r.1)
        warps := k.warps.map fun p =>
          match p.2.hold with
          | .regacq _ => if p.2.wg = g then (p.1, { p.2 with hold := .none }) else p
          | _ => p }

/-! ### PREEMPT -/

/-- A workgroup stops for its save; an external operation that has not begun takes another checkpoint, after which it issues
again when the workgroup is back (R144). -/
def preemptOne (s : State) (g : Nat) : State :=
  match fget s.wgs g with
  | none => s
  | some x =>
    let s := squashAll s g
    let units := saveUnitsOf s g x
    let s := withdrawRegacq (withdrawWaiting s g) g
    let s := s.updDev (devOfCore s x.core) fun d => { d with saveUsed := d.saveUsed + units }
    let s := s.updWg g fun y =>
      { y with
        phase := .stopping
        saveUnits := units
        ck := { y.ck with
          pendingSave := decide (modeOf s y ≠ 0)
          extAt := if y.ck.extBusy then y.ck.extAt else 0
          ready := y.ck.ready && y.ck.extBusy } }
    if modeOf s x = 0 then endHolds s g else s

/-- PREEMPT: a workgroup and what is saved with it stop, when the save pool has room for them without their speculative instances
(R132, R384). -/
def execPreempt (wg : Nat) (s : State) : Outcome State Fault Refusal :=
  let gs := (saveSet s wg).filter fun g => match fget s.wgs g with | some x => decide (x.phase ≠ .ended) | none => false
  match fget s.wgs wg with
  | none => .next s
  | some x =>
    let k := devOfCore s x.core
    let t := gs.foldl squashAll s
    let units := (gs.filterMap fun g => (fget t.wgs g).map fun x => saveUnitsOf t g x).sum
    let free := allWgs s gs fun g x => decide (x.phase = .resident) && !x.ck.restoring && squashReady s g x
    if free && decide ((s.dev k).saveUsed + units ≤ (s.dev k).savesize) then .next (gs.foldl preemptOne s)
    else .next s

/-! ### CONTEXT_SAVE -/

/-- May a stopped workgroup be saved: no access and no command outstanding, its checkpoint committed, its sequencer at a
word boundary with nothing queued (R297, R327, R384)? -/
def saveReady (s : State) (g : Nat) (x : Wg) : Bool :=
  let q := s.seq (clusterOf s x.core)
  decide (x.phase = .stopping) &&
    (wgWarps s x g).all (fun p => p.2.pend.isEmpty && p.2.tokens.all fun t => decide (t.count = 0)) &&
    !((s.core x.core).copies.any fun c => decide (c.wg = g)) &&
    (decide (modeOf s x = 0) || (decide (x.ck.phase = .idle) && !x.ck.pendingSave && !x.ck.extBusy && !x.ck.ready && !x.ck.restoring)) &&
    (x.cg.isNone || (q.queue.isEmpty && q.running.isNone))

/-- A member of a cluster group that has ended leaves its array behind with the group (R307, R327). -/
def saveEnded (s : State) (g : Nat) : State :=
  match fget s.wgs g with
  | some x => if x.phase = .ended ∧ inLiveGroup s x then s.updWg g fun y => { y with image := some (captureWg s g x) } else s
  | none => s

/-- Save one workgroup: its counts go to the die's parked readers, then its warps leave (Table 4.4). -/
def saveOne (s : State) (g : Nat) : State :=
  match fget s.wgs g with
  | none => s
  | some x =>
    let im := captureWg s g x
    let d := dieOf x.core
    let s := s.updDie d fun y =>
      { y with parked0 := y.parked0 + imageSections im 0, parked1 := y.parked1 + imageSections im 1 }
    let s := addMove (stripWarps s g) d
    s.updWg g fun x => { x with phase := .saved, image := some im }

/-- A saved cluster group leaves its cluster: its claims are in the image (R327). -/
def leaveCluster (s : State) (g : Nat) : State :=
  match fget s.wgs g with
  | some x => if x.cg.isSome then releaseGroup s (clusterOf s x.core) else s
  | none => s

/-- CONTEXT_SAVE. A command that comes to wait under HOLD while the workgroup stops ends too (R297). -/
def execContextSave (wg : Nat) (s : State) : Outcome State Fault Refusal :=
  let gs := (saveSet s wg).filter fun g => match fget s.wgs g with | some x => decide (x.phase ≠ .ended) | none => false
  let stopping := allWgs s gs fun _ x => decide (x.phase = .stopping)
  let s := if !gs.isEmpty && stopping then gs.foldl endHolds (gs.foldl withdrawWaiting s) else s
  if gs.isEmpty || !(allWgs s gs (saveReady s)) then .next s
  else .next (gs.foldl leaveCluster (gs.foldl saveOne ((saveSet s wg).foldl saveEnded s)))

/-! ### CONTEXT_RESTORE -/

/-- Pushes that a save withdrew are sent again. -/
def sendAgain (s : State) (g : Nat) (m : List (Nat × Nat)) : State :=
  match fget s.wgs g with
  | some x => { s.updWg g fun y => { y with reissue := [] } with net := s.net ++ x.reissue.map (moveReq g m) }
  | none => s

/-- Would a workgroup on a core stand apart from its other copies: on a cluster of its own, and its twin on another die where the
device has one (R149)? -/
def standsApart (s : State) (x : Wg) (c : Nat) : Bool :=
  (copiesOf x).all fun h =>
    match fget s.wgs h with
    | some y =>
      !holdsSlot y || decide (clusterOf s y.core ≠ clusterOf s c) &&
        (decide (x.twin ≠ some h) || decide (devDies s.pkg.mode = 1) || decide (dieOf y.core ≠ dieOf c))
    | none => true

/-- May a saved workgroup be restored to a core: its position in the cluster its group's other members stand in, apart from
its other copies? One of a pool launch comes back to its own core (R42; DEDUCED, log 34). -/
def restorePlace (s : State) (x : Wg) (c : Nat) : Bool :=
  standsApart s x c &&
  match x.cg with
  | none => !x.pool || decide (c = x.core)
  | some cg =>
    let cl := clusterOf s c
    let here := s.wgs.all fun p => decide (p.2.cg ≠ some cg ∨ p.2.phase ≠ .resident ∨ clusterOf s p.2.core = cl)
    let alone := (s.seq cl).members.all fun p => match fget s.wgs p.2 with | some y => decide (y.cg = some cg) | none => true
    decide ((corePlace s c).2.2.2 = x.pos) && here && alone

/-- The members of a cluster group that had ended come back to their positions of the cluster the group stands in: their
arrays (R327). -/
def restoreEnded (s : State) (cg cl space : Nat) : State :=
  (s.wgs.filter fun p => decide (p.2.cg = some cg ∧ p.2.phase = .ended)).foldl (fun s p =>
    match p.2.image, coreAtPos s cl p.2.pos with
    | some im, some c =>
      let s := match im.array with | some a => (clearMatrix s c space true).updCore c fun k => putArray k a | none => s
      let s := s.updSeq cl fun q => { q with members := fput q.members p.2.pos p.1 }
      s.updWg p.1 fun y => { y with core := c, image := none }
    | _, _ => s) s

/-- A saved workgroup comes back to a core, under fresh generations; none while it cannot (R104, R113, R116). -/
def restoreOne (s : State) (wg core : Nat) : Option State :=
  match fget s.wgs wg with
  | none => none
  | some x =>
    match x.image, fget s.launches x.launch with
    | some im, some l =>
      if x.phase ≠ .saved ∨ l.phase ≠ .running ∨ devOfCore s core ≠ l.dev ∨ !restorePlace s x core ∨ !matrixFree s core l.rec_.space then none
      else
        match findRoom s core x.size with
        | none => none
        | some base =>
          let d := dieOf x.core
          let s1 := clearMatrix s core l.rec_.space x.cg.isSome
          let s1 := if x.cg.isSome then s1.updSeq (clusterOf s core) fun q => { q with members := fput q.members x.pos wg } else s1
          let s1 := s1.updWg wg fun y => { y with phase := .resident, image := none, base := base, core := core }
          match putImage s1 wg core base im with
          | none => none
          | some (s, m) =>
            let s := sendAgain (moveReqs (putSeq s wg core im m) wg m) wg m
            let s := addMove s d
            let s := s.updDie d fun y =>
              { y with parked0 := y.parked0 - imageSections im 0, parked1 := y.parked1 - imageSections im 1 }
            let s := s.updDev l.dev fun y =>
              { y with
                saveUsed := y.saveUsed - x.saveUnits
                vesper := if dieOf core = d then y.vesper else { y.vesper with moves := y.vesper.moves + 1 } }
            let s := s.updWg wg fun y =>
              { y with
                saveUnits := 0
                chans := im.chans
                ck := { y.ck with ext := y.ck.ext.map (newSlot m), committed := rekey m y.ck.committed } }
            some (match x.cg with | some cg => seqBack (restoreEnded s cg (clusterOf s core) l.rec_.space) (clusterOf s core) | none => s)
    | _, _ => none

/-- The saved members of some workgroups come back, each to the core its position has in a cluster. -/
def restoreMembers (cl : Nat) : List Nat → State → Option State
  | [], s => some s
  | g :: gs, s =>
    match fget s.wgs g with
    | none => restoreMembers cl gs s
    | some x =>
      if x.phase ≠ .saved then restoreMembers cl gs s
      else ((coreAtPos s cl x.pos).bind (restoreOne s g)).bind (restoreMembers cl gs)

/-- A saved workgroup comes back to a core with its whole cluster group, if it is of one (R384). -/
def restoreTeam (s : State) (g c : Nat) : Option State :=
  (restoreOne s g c).bind fun t => restoreMembers (clusterOf s c) (groupOf s g) t

/-- What else is saved of some workgroups comes back, each group to the first place that takes it, its old one before the others.
DESIGN CHOICE (log 17). -/
def restoreRest : List Nat → State → Option State
  | [], s => some s
  | g :: gs, s =>
    match fget s.wgs g with
    | none => restoreRest gs s
    | some x =>
      if x.phase ≠ .saved then restoreRest gs s
      else ((x.core :: coresOfDev s (devOfCore s x.core)).findSome? (restoreTeam s g)).bind (restoreRest gs)

/-- CONTEXT_RESTORE: a saved workgroup comes back to a core with room, with the rest of its cluster group and of its persistent
launch, which are restored whole or not at all (R384). -/
def execContextRestore (wg core : Nat) (s : State) : Outcome State Fault Refusal :=
  match fget s.wgs wg with
  | none => .next s
  | some x =>
    let rest := match fget s.launches x.launch with | some l => if l.rec_.kind = 1 then launchWgs s x.launch else [] | none => []
    match (restoreTeam s wg core).bind (restoreRest rest) with
    | some t => .next t
    | none => .next s

end Sys2Proof.Machine
end

