-- ==== Sys2Proof/Machine/Park.lean ====
section
/-! DEFINITION. Parked lanes and what releases them: page walks (R85, R388 to R391), rejoins (R19, R20), the pager's
RESOLVE (R396), invalidations (R392), the fault queue's registers (R394), page-ins (R291, R294, R393, R400), copy-asides
(R403) and returns to pools (R397). -/

namespace Sys2Proof.Machine

open Host (Outcome)

/-! ### TRANSLATION_WALK_DONE -/

/-- Park some lanes of the entry at a PC, in the frontier or held for a handler, on a fault of their access; what is left of
the entry stays (R19, R20). -/
def parkEntry (w : Warp) (pc : Nat) (m : Word) (q : Walk) : Warp :=
  match (w.frontier ++ w.held).find? fun e => decide (e.pc.toNat = pc ∧ e.mask &&& m ≠ 0) with
  | none => w
  | some e =>
    let m := m &&& e.mask
    let cut (es : List Entry) : List Entry :=
      (es.map fun x => if x.pc = e.pc then { x with mask := x.mask &&& ~~~m } else x).filter fun x => decide (x.mask ≠ 0)
    { w with
      frontier := cut w.frontier
      held := cut w.held
      parks := w.parks ++ [{ pc := e.pc, clause := e.clause, mask := m, reason := .xlateFault, va := BitVec.ofNat 64 q.va,
                             space := q.space, access := q.access, resolved := false, seq := w.nextSeq, spill := none }]
      nextSeq := w.nextSeq + 1 }

/-- Once the last walk of an entry is done, the entry issues again, one held for a handler after it. -/
def walksDone (s : State) (c slot pc : Nat) : State :=
  if (s.core c).walks.any fun q => decide (q.slot = slot ∧ q.entry = pc) then s
  else
    let go (e : Entry) : Entry := if e.pc.toNat = pc ∧ e.wait = .walk then { e with wait := .run } else e
    s.updWarp c slot fun w => { w with frontier := w.frontier.map go, held := w.held.map go }

/-- TRANSLATION_WALK_DONE: a leaf goes into the core's TLB; anything else parks the lanes and posts its record. -/
def execTranslationWalkDone (core walk : Nat) (s : State) : Outcome State Fault Refusal :=
  match (if (s.die (dieOf core)).stopped then none else (s.core core).walks[walk]?) with
  | none => .next s
  | some q =>
    let k := devOfCore s core
    let s := s.updCore core fun c => { c with walks := dropAt c.walks walk }
    let launch := match s.warp? core q.slot with
      | some w => (match fget s.wgs w.wg with | some g => launchNo s g.launch | none => 0)
      | none => 0
    let s :=
      match walkPage s k q.space q.va with
      | .leaf p at_ size => s.updCore core fun c => { c with tlb := tlbAdd c.tlb (tlbOf q.space q.va p at_ size) }
      | .bad kind sub info =>
        let s := postFault s k (walkRecord s (some core) launch q.space q.va q.access kind sub info)
        s.updWarp core q.slot fun w => parkEntry w q.entry q.lanes q
    .next (walksDone s core q.slot q.entry)

/-! ### Rejoins (R19) -/

/-- The entry of a record that rejoins. -/
def parkEntryBack (p : Park) : Entry := { Entry.at_ p.pc p.mask 0 with clause := p.clause }

/-- Put a record's lanes back: into the frontier, or, while a handler runs that is not theirs, among the entries held for it
(R244). -/
def rejoin (s : State) (c slot : Nat) (w : Warp) (p : Park) : State :=
  let w := { w with parks := w.parks.filter fun q => decide (q.seq ≠ p.seq) }
  let e := withPrio s c w.wg (parkEntryBack p)
  let w :=
    if w.handler = 0 ∨ p.mask &&& w.handler ≠ 0 then setFrontier w (w.frontier ++ [e])
    else { w with held := tidy (w.held ++ [e]) }
  settle (s.setWarp c slot w) c slot

/-- The oldest record a test accepts. -/
def oldestPark (w : Warp) (ok : Park → Bool) : Option Park :=
  (w.parks.filter ok).foldl (fun b p => match b with | some q => if p.seq < q.seq then some p else b | none => some p) none

/-- Has the frontier room for one more entry? -/
def frontierRoom (w : Warp) : Bool := decide (w.frontier.length + w.held.length ≤ 7)

/-- OVERFLOW_REJOIN. -/
def execOverflowRejoin (core slot : Nat) (s : State) : Outcome State Fault Refusal :=
  match s.warp? core slot with
  | none => .next s
  | some w =>
    match oldestPark w fun p => decide (p.reason = .overflow) with
    | some p => .next (if frontierRoom w then rejoin s core slot w p else s)
    | none => .next s

/-- FAULT_REJOIN: a resolved record rejoins; lanes whose fault cannot be resolved trap with BOUNDS instead (R396), in a
speculative instance once it is LIVE (R130, log 62). -/
def execFaultRejoin (core slot : Nat) (s : State) : Outcome State Fault Refusal :=
  match s.warp? core slot with
  | none => .next s
  | some w =>
    match oldestPark w fun p => decide (p.reason = .xlateError) || (decide (p.reason = .xlateFault) && p.resolved) with
    | none => .next s
    | some p =>
      if !frontierRoom w then .next s
      else if p.reason = .xlateError then
        if speculative w then .next (s.setWarp core slot { w with hold := .untilLive })
        else
          let hdr := match p.clause with | some c => c.hdr | none => p.pc
          .next (enterTrap s core slot p.mask (trapAt cBOUNDS p.va.toNat) p.pc hdr p.mask)
      else .next (rejoin s core slot w p)

/-! ### RESOLVE (R396) -/

/-- Does an address lie in the 64 KiB page of another? -/
def samePage (a b : Nat) : Bool := decide (a / 65536 = b / 65536)

/-- A record's answer from the pager. -/
def resolvePark (va space : Nat) (ok : Bool) (p : Park) : Park :=
  if p.reason = .xlateFault ∧ p.space = space ∧ samePage p.va.toNat va then
    (if ok then { p with resolved := true } else { p with reason := .xlateError })
  else p

/-- A warp's records. -/
def resolveWarp (va space : Nat) (ok : Bool) (w : Warp) : Warp := { w with parks := w.parks.map (resolvePark va space ok) }

/-- A sequencer that waits for a fetch on a page fetches again, or its program ends with 0x11. -/
def resolveSeq (va : Nat) (ok : Bool) (q : Sequencer) : Sequencer :=
  match q.stalled with
  | some a =>
    if samePage a va then
      { q with stalled := none, ending := if !ok && (q.ending.isNone || q.ending = some 1) then some 0x11 else q.ending }
    else q
  | none => q

/-- The records of an image, and its group's sequencer when it runs in the space. -/
def resolveImage (va space : Nat) (ok here : Bool) (im : WgImage) : WgImage :=
  { im with
    warps := im.warps.map fun p => (p.1, resolveWarp va space ok p.2)
    seq := if here then im.seq.map (resolveSeq va ok) else im.seq }

/-- The space a command's or a program's workgroup runs in. -/
def wgSpace (s : State) (g : Nat) : Option Nat :=
  match fget s.wgs g with
  | some x => (fget s.launches x.launch).map fun l => l.rec_.space
  | none => none

/-- Every record of a device: of resident warps, of saved contexts and of checkpoints. -/
def resolveParks (s : State) (k va space : Nat) (ok : Bool) : State :=
  { s with
    cores := s.cores.map fun (p : Nat × Core) =>
      if devOfCore s p.1 = k then (p.1, { p.2 with warps := p.2.warps.map fun q => (q.1, resolveWarp va space ok q.2) }) else p
    wgs := s.wgs.map fun (p : Nat × Wg) =>
      if devOfCore s p.2.core = k then
        (p.1, { p.2 with
          image := p.2.image.map (resolveImage va space ok (wgSpace s p.1 = some space))
          ck := { p.2.ck with committed := resolveImage va space ok (wgSpace s p.1 = some space) p.2.ck.committed
                              pending := p.2.ck.pending.map (resolveImage va space ok (wgSpace s p.1 = some space)) } })
      else p }

/-- Held copy commands of a device on a page: they translate again, or end FAULTED where they stand (R290). -/
def resolveCopies (s : State) (k va space : Nat) (ok : Bool) : State :=
  ((s.cores.map Prod.fst).filter fun c => decide (devOfCore s c = k)).foldl (fun s c =>
    let here (q : CopyCmd) : Bool :=
      (match q.wait with | .fault a => samePage a va | _ => false) && decide (wgSpace s q.wg = some space)
    if ok then copyResume s c here
    else s.updCore c fun x => { x with copies := x.copies.map fun q => if here q then decideCmd q 1 q.pos none else q }) s

/-- Sequencers of a device that wait for a fetch on a page. -/
def resolveSeqs (s : State) (k va space : Nat) (ok : Bool) : State :=
  (s.seqs.map Prod.fst).foldl (fun s cl =>
    let q := s.seq cl
    match q.cur with
    | some f =>
      if devOfDie s.pkg.mode (cl / 40) = k ∧ q.stalled.isSome ∧ wgSpace s f.wg = some space then seqFinish (s.updSeq cl (resolveSeq va ok)) cl
      else s
    | none => s) s

/-- The pager's answer for a page. -/
def resolve (s : State) (k va space : Nat) (ok : Bool) : State :=
  let s := resolveSeqs (resolveCopies (resolveParks s k va space ok) k va space ok) k va space ok
  s.updDev k fun d => { d with fqknown := d.fqknown.filter fun q => !(decide (q.2 = (space, va / 65536))) }

/-- RESOLVE_RESOLVED. -/
def execResolveResolved (dev : Nat) (va : BitVec 64) (space : BitVec 16) (s : State) : Outcome State Fault Refusal :=
  .next (if devOpen s dev then resolve s dev va.toNat space.toNat true else s)

/-- RESOLVE_UNRESOLVABLE. -/
def execResolveUnresolvable (dev : Nat) (va : BitVec 64) (space : BitVec 16) (s : State) : Outcome State Fault Refusal :=
  .next (if devOpen s dev then resolve s dev va.toNat space.toNat false else s)

/-! ### Invalidation and the fault queue's registers -/

/-- Queue an invalidation request (R392). -/
def askInval (s : State) (k : Nat) (q : Inval) : State :=
  if devOpen s k then s.updDev k fun d => { d with invals := d.invals ++ [q] } else s

/-- INVAL of one page. -/
def execInvalPage (dev : Nat) (va : BitVec 64) (space : BitVec 16) (size : BitVec 2) (s : State) : Outcome State Fault Refusal :=
  .next (askInval s dev { kind := 0, va := va.toNat, space := space.toNat, size := size.toNat })

/-- INVAL of a space. -/
def execInvalSpace (dev : Nat) (space : BitVec 16) (s : State) : Outcome State Fault Refusal :=
  .next (askInval s dev { kind := 1, va := 0, space := space.toNat, size := 0 })

/-- INVAL of every space. -/
def execInvalAll (dev : Nat) (s : State) : Outcome State Fault Refusal :=
  .next (askInval s dev { kind := 2, va := 0, space := 0, size := 0 })

/-- INVAL_COMPLETE: the oldest request completes once every cache of the device has dropped what it covers. -/
def execInvalComplete (dev : Nat) (s : State) : Outcome State Fault Refusal :=
  match (s.dev dev).invals with
  | [] => .next s
  | q :: qs =>
    .next ((dropTlbs s dev q).updDev dev fun d => { d with invals := qs, invalseq := (d.invalseq + 1) % 2 ^ 64 })

/-- FAULT_QUEUE_CONSUME: FQCONS is written, and records that waited are written as far as they fit (R394). -/
def execFaultQueueConsume (dev : Nat) (v : BitVec 64) (s : State) : Outcome State Fault Refusal :=
  .next (if devOpen s dev then fqDrain (s.updDev dev fun d => { d with fqcons := v.toNat }) dev else s)

/-- FAULT_QUEUE_ENABLE: FQEN is set; FQPROD counts from there (Table 22.1, R394). -/
def execFaultQueueEnable (dev : Nat) (s : State) : Outcome State Fault Refusal :=
  if !devOpen s dev || (s.dev dev).fqen then .next s
  else .next (fqDrain (s.updDev dev fun d => { d with fqen := true, fqprod := 0 }) dev)

/-! ### Page-ins (R291, R294, R400) -/

/-- Copy n bytes of device physical memory; an uncorrectable line stays so in the copy. -/
def physCopy (s : State) (k from_ to_ n : Nat) : State :=
  match apOf s k from_, apOf s k to_ with
  | some a, some b =>
    let src := s.mem.filter fun p => decide (a ≤ p.1) && decide (p.1 < a + n)
    let s := physZero s k to_ n
    let bad := (s.poison.filter fun l => decide (a / 64 ≤ l ∧ l < (a + n) / 64)).map fun l => l - a / 64 + b / 64
    { s with
      mem := src.foldl (fun m p => memWrite m (p.1 - a + b) p.2) s.mem
      poison := s.poison ++ bad.filter fun l => !s.poison.contains l }
  | _, _ => s

/-- A frame or an item goes back to the pool queue it came from (R397). -/
def poolReturn (s : State) (k q a b : Nat) : State := s.updDev k fun d => { d with returns := d.returns ++ [(q, a, b)] }

/-- Commands of a device that a test of their wait accepts go on. -/
def resumeAll (s : State) (k space va size : Nat) (at_ : CopyWait → Option Nat) : State :=
  ((s.cores.map Prod.fst).filter fun c => decide (devOfCore s c = k)).foldl (fun s c =>
    copyResume s c fun q =>
      (match at_ q.wait with | some a => decide (va ≤ a ∧ a < va + size) | none => false) && decide (wgSpace s q.wg = some space)) s

/-- The retire entry of a far frame (R400). -/
def promoteEntry (d : Dev) (x : PageIn) : RetireEntry :=
  let g := gseqOf d
  { space := x.space, act := 2, ph := (g + 2 ^ 32 - 1) % 2, gseq := g, size := x.size % 2 ^ 32, arg := x.va, addr := x.far }

/-- PAGE_IN_COMPLETE: a page-in that waits for a frame takes one; one that has its frame copies the page and swaps its
entry, and the commands that waited go on. The swap waits for room in the retire queue. -/
def execPageInComplete (dev page : Nat) (s : State) : Outcome State Fault Refusal :=
  match (s.dev dev).pageins[page]? with
  | none => .next s
  | some x =>
    match x.near with
    | none =>
      .next (match poolPop s dev x.queue 0 with
        | .item s frame _ => s.updDev dev fun d => { d with pageins := setAt d.pageins page { x with near := some frame } }
        | .empty => s
        | .refused s => s)
    | some near =>
      if retireRoom s dev = 0 then .next s
      else
        let s := physCopy s dev x.far near x.size
        let s := s.updDev dev fun d => { d with pageins := dropAt d.pageins page }
        let new := pteSet ((x.pte &&& 0xCFFF_0000_0000_00FF) ||| BitVec.ofNat 64 near) 59 false
        let s :=
          match casPte s dev x.space x.va x.pteAt x.pte new with
          | (s, true) => retirePush s dev (promoteEntry (s.dev dev) x)
          | (s, false) => poolReturn s dev x.queue near 0
        .next (resumeAll s dev x.space x.va x.size fun w => match w with | .defer a | .pagein a => some a | _ => none)

/-! ### Copy-asides (R403) -/

/-- Requests set aside on a device come back to the head of what travels, and translate again (R423). -/
def backAside (s : State) (k : Nat) : State :=
  let mine (r : Req) : Bool := decide (devOfCore s r.core = k)
  { s with net := s.aside.filter mine ++ s.net, aside := s.aside.filter fun r => !mine r }

/-- What waited for a page's copy-aside translates again. -/
def asideRelease (s : State) (k space va : Nat) : State :=
  backAside (resumeAll (resolveParks s k va space true) k space (va / 65536 * 65536) 65536 fun w =>
    match w with | .aside a => some a | _ => none) k

/-- A copy-aside that runs no more: the item it holds goes back, and what waited translates again. -/
def asideDrop (s : State) (k page : Nat) (x : Aside) : State :=
  let s := s.updDev k fun d => { d with asides := dropAt d.asides page }
  asideRelease (match x.item with | some i => poolReturn s k x.queue i 0 | none => s) k x.space x.va

/-- A copy-aside takes its item, with the entry as it is then; a pool without one leaves it waiting and posts POOL_EMPTY
(R397). -/
def asideItem (s : State) (k page : Nat) (x : Aside) (p : Double) (at_ : Nat) : State :=
  match poolPop s k x.queue x.byLaunch with
  | .item s item _ =>
    s.updDev k fun d => { d with asides := setAt d.asides page { x with item := some item, pte := p, pteAt := at_ } }
  | .empty => postFault s k (accessFault s x.va x.byLaunch x.space (some x.core) x.queue x.access 0 10)
  | .refused s => s

/-- COPY_ASIDE_COMPLETE: one that waits for an item takes it from its pool; the page is copied into the item and logged, and
SNAP is cleared; a changed entry is walked again. -/
def execCopyAsideComplete (dev page : Nat) (s : State) : Outcome State Fault Refusal :=
  match (s.dev dev).asides[page]? with
  | none => .next s
  | some x =>
    match walkPage s dev x.space x.va with
    | .bad .. => .next (asideDrop s dev page x)
    | .leaf p at_ _ =>
      if !pteSnap p || (snapLaunch s dev at_ |>.isNone) then .next (asideDrop s dev page x)
      else
        match x.item with
        | none => .next (asideItem s dev page x p at_)
        | some item =>
          if p ≠ x.pte ∨ at_ ≠ x.pteAt then
            .next (s.updDev dev fun d => { d with asides := setAt d.asides page { x with pte := p, pteAt := at_ } })
          else
            match casPte s dev x.space x.va x.pteAt x.pte (pteSet x.pte 54 false) with
            | (s, true) =>
              let s := physCopy (s.updDev dev fun d => { d with asides := dropAt d.asides page }) dev (pteAddr x.pte) item 65536
              let s := s.updLaunch x.launch fun l =>
                { l with
                  log := l.log ++ [{ page := pteAddr x.pte, item := item, queue := x.queue }]
                  pages := l.pages.filter fun q => decide (q.1 ≠ x.pteAt) }
              .next (asideRelease s dev x.space x.va)
            | (s, false) => .next s

/-- POOL_RETURN_PUSH: the oldest returned frame or item goes into its queue once that has room and its slot translates
(R397, R423). -/
def execPoolReturnPush (dev : Nat) (s : State) : Outcome State Fault Refusal :=
  match (s.dev dev).returns with
  | [] => .next s
  | (q, a, b) :: rest =>
    match poolPush s dev q a b with
    | (s, true) => .next (s.updDev dev fun d => { d with returns := rest })
    | (s, false) => .next s

end Sys2Proof.Machine
end

