-- ==== Sys2Proof/Machine/Grace.lean ====
section
/-! DEFINITION. Vesper: grace periods over the cores, dies, devices and the pod (R96 to R99, R417, R418), and the
actions of retire entries (R102, R423). -/

namespace Sys2Proof.Machine

open Host (Outcome)

/-! ### The tree (R97) -/

/-- A node above the cores. -/
def vesperAt (s : State) : VNode → Vesper
  | .die d => (s.die d).vesper
  | .dev k => (s.dev k).vesper
  | .pod k => (s.dev k).pod

/-- Change a node. -/
def updVesper (s : State) (n : VNode) (f : Vesper → Vesper) : State :=
  match n with
  | .die d => s.updDie d fun x => { x with vesper := f x.vesper }
  | .dev k => s.updDev k fun x => { x with vesper := f x.vesper }
  | .pod k => s.updDev k fun x => { x with pod := f x.pod }

/-- Is a logical device the root of a pod-span domain? -/
def isPodRoot (s : State) (k : Nat) : Bool := (s.dev k).span && decide ((s.dev k).rootdev = (s.dev k).devnum)

/-- The root of a device's domain, if it is in this package. -/
def rootOf (s : State) (k : Nat) : Option VNode :=
  if !(s.dev k).span then some (.dev k)
  else
    (firstBelow (4 / devDies s.pkg.mode) fun r => isPodRoot s r && decide ((s.dev r).devnum = (s.dev k).rootdev)).map .pod

/-- The device numbers of a pod domain. -/
def podMembers (s : State) (r : Nat) : List Nat := (List.range 1024).filter fun n => (s.dev r).podmem.getLsbD n

/-- The devices of this package that a root's domain holds. -/
def domainDevs (s : State) (root : VNode) : List Nat :=
  match root with
  | .dev k => [k]
  | .die d => [devOfDie s.pkg.mode d]
  | .pod r =>
    (List.range (4 / devDies s.pkg.mode)).filter fun k =>
      (s.dev k).span && decide ((s.dev k).rootdev = (s.dev r).devnum) && (s.dev r).podmem.getLsbD (s.dev k).devnum

/-- Does a member of a pod's domain take part in its grace period: one in the package whose SPAN is 1, or one outside that has not
answered the flip that its SPAN is 0 (R417)? -/
def takesPart (s : State) (r n : Nat) : Bool :=
  match devOfNumber s n with
  | some k => (s.dev k).span
  | none => !(s.dev r).podIn.contains (n, .out (s.dev r).pod.f)

/-- The children a node waits for: cores of a die, dies of a device, devices of a pod by number, those that take part (R417). -/
def childrenOf (s : State) : VNode → List Nat
  | .die _ => List.range 160
  | .dev k => diesOfDev s.pkg.mode k
  | .pod r => (podMembers s r).filter (takesPart s r)

/-- Have all of a node's children been heard from? -/
def allAcked (s : State) (n : VNode) : Bool := (childrenOf s n).all fun c => (vesperAt s n).acks.contains c

/-! ### A grace period starts (R98) -/

/-- A node tells another package's device something on VC3, once, while a link leads there (R97, R417). -/
def podSend (s : State) (k n : Nat) (m : PodMsg) : State :=
  if (s.dev k).podTold.contains (n, m) then s
  else
    match routeLink s k n with
    | some l => { s.updDev k fun d => { d with podTold := d.podTold ++ [(n, m)] } with linkOut := s.linkOut ++ [.pod l n m] }
    | none => s

/-- A poll that comes begins a member's poll anew, and has its report go out again (R99, R418). -/
def pollAnew (n f : Nat) (d : Dev) : Dev :=
  { d with
    vesper := { d.vesper with poll := none, drained := [] }
    podTold := d.podTold.filter fun p => decide (p ≠ (n, .drained f)) }

/-- A device that takes no part keeps the flip it is to answer so, in place of an earlier one (R417). -/
def flipOwed (n : Nat) (m : PodMsg) (d : Dev) : Dev :=
  match m with
  | .flip _ =>
    { d with
      podIn := (d.podIn.filter fun p => decide (p.1 ≠ n)) ++ [(n, m)]
      podTold := d.podTold.filter fun p => decide (p.1 ≠ n) }
  | _ => d

/-- A device hears from another package's node. -/
def podHear (s : State) (k n : Nat) (m : PodMsg) : State :=
  if !(s.dev k).span then s.updDev k (flipOwed n m)
  else
    let s := match m with | .poll f => s.updDev k (pollAnew n f) | _ => s
    if (s.dev k).podIn.contains (n, m) then s else s.updDev k fun d => { d with podIn := d.podIn ++ [(n, m)] }

/-- Has a device heard a message from a node? -/
def podHeard (s : State) (k n : Nat) (m : PodMsg) : Bool := (s.dev k).podIn.contains (n, m)

/-- The members of a pod's domain outside the package. -/
def farMembers (s : State) (r : Nat) : List Nat := (podMembers s r).filter fun n => (devOfNumber s n).isNone

/-- The pod's root tells every member outside the package. -/
def podSay (s : State) (r : Nat) (m : PodMsg) : State := (farMembers s r).foldl (fun s n => podSend s r n m) s

/-- The number of a device's root, if it stands in another package. -/
def farRoot (s : State) (k : Nat) : Option Nat :=
  if (s.dev k).span && (rootOf s k).isNone then some (s.dev k).rootdev else none

/-- What passed on VC3 in the last grace period is past. -/
def podFresh (s : State) (k : Nat) : State := s.updDev k fun d => { d with podIn := [], podTold := [] }

/-- Is one serial number later than another (R96)? -/
def serialGt (a b : Nat) : Bool := serialGe a b && decide (a % 2 ^ 32 ≠ b % 2 ^ 32)

/-- Does a device ask for a grace period: an uncompleted retire entry, or a warp or a hand-over (of a command or a packet)
that waits? -/
def wantsGrace (s : State) (k c : Nat) : Bool :=
  ((s.dev k).retire.any fun e => serialGt e.gseq c) ||
    s.cores.any fun p =>
      decide (devOfCore s p.1 = k) &&
        ((p.2.warps.any fun w => match (w.2.grace.or (w.2.graceHeld.bind Prod.snd)) with | some t => !serialGe c t | none => false) ||
          p.2.copies.any fun q => match q.wait with | .grace t => !serialGe c t | _ => false) ||
    s.queues.any fun p =>
      decide (p.1 / 256 = k) && p.2.open_.any fun o => match o.grace with | some t => !serialGe c t | none => false

/-- A node takes a flip. -/
def takeFlip (f : Nat) (v : Vesper) : Vesper := { v with f := f, phase := f % 2, acks := [], drained := [], poll := none }

/-- A die's node takes a flip, at a cycle of its clock (Table 23.6). -/
def dieFlip (f : Nat) (x : Die) : Die := { x with vesper := takeFlip f x.vesper, flipAt := x.cycle }

/-- The flip goes down the tree to the nodes of some devices; each takes its number as it is, whatever domain it counted in
before. DESIGN CHOICE (log 88). -/
def sendFlip (s : State) (ks : List Nat) (f : Nat) : State :=
  ks.foldl (fun s k => (diesOfDev s.pkg.mode k).foldl (fun s d => s.updDie d (dieFlip f)) (updVesper s (.dev k) (takeFlip f))) s

/-- A device whose every die has acknowledged says so to a root in another package. -/
def ackFar (s : State) (node : VNode) : State :=
  match node with
  | .dev k =>
    match farRoot s k with
    | some r => if allAcked s node then podSend s k r (.acked (s.dev k).vesper.f) else s
    | none => s
  | _ => s

/-- A member whose root stands in another package takes its flip, tells it again once it can that every die has acknowledged,
or asks it for a grace period (R97, R98). -/
def memberStart (s : State) (k root : Nat) : State :=
  let v := (s.dev k).vesper
  let flips := (s.dev k).podIn.filterMap fun p =>
    match p.2 with | .flip f => if p.1 = root ∧ serialGt f v.f then some f else none | _ => none
  match flips with
  | f :: _ => sendFlip (podFresh s k) [k] f
  | [] => if v.f ≠ v.c then ackFar s (.dev k) else if wantsGrace s k v.c then podSend s k root (.wants v.c) else s

/-- A device that takes no part answers so to the flips it was sent (R417). -/
def outFar (s : State) (k : Nat) : State :=
  if (s.dev k).span then s
  else (s.dev k).podIn.foldl (fun s p => match p.2 with | .flip f => podSend s k p.1 (.out f) | _ => s) s

/-- Has a member outside the package asked the pod's root for a grace period? -/
def farWants (s : State) (n : VNode) (c : Nat) : Bool :=
  match n with
  | .pod r => (farMembers s r).any fun m => podHeard s r m (.wants c)
  | _ => false

/-- The pod's root sends the flip to the members outside the package. -/
def flipFar (s : State) (n : VNode) (f : Nat) : State :=
  match n with
  | .pod r => podSay s r (.flip f)
  | _ => s

/-- GRACE_PERIOD_START: the root of a domain starts the next grace period when none is in progress and one is asked
for; what could not be sent goes out when a link is up. -/
def execGracePeriodStart (dev : Nat) (s : State) : Outcome State Fault Refusal :=
  let s := outFar s dev
  let root : Option VNode := if !(s.dev dev).span then some (.dev dev) else if isPodRoot s dev then some (.pod dev) else none
  match root with
  | none => .next (match farRoot s dev with | some r => memberStart s dev r | none => s)
  | some n =>
    let v := vesperAt s n
    let ks := domainDevs s n
    if v.f ≠ v.c then .next (flipFar s n v.f)
    else if (ks.any fun k => wantsGrace s k v.c) || farWants s n v.c then
      let f := (v.c + 1) % 2 ^ 32
      let s := if n = .pod dev then podFresh s dev else s
      .next (flipFar (sendFlip (updVesper s n (takeFlip f)) ks f) n f)
    else .next s

/-- FLIP_ADOPT: a core adopts its die's flip: outermost sections record the new phase from then on. -/
def execFlipAdopt (core : Nat) (s : State) : Outcome State Fault Refusal :=
  let v := (s.die (dieOf core)).vesper
  if (s.core core).f = v.f ∨ (s.die (dieOf core)).stopped then .next s
  else .next (s.updCore core fun k => { k with f := v.f, phase := v.f % 2 })

/-- Has a child of a node adopted the flip, and has everything below it? A member outside the package says so over its
link. -/
def childAcked (s : State) (n : VNode) (child : Nat) : Bool :=
  let f := (vesperAt s n).f
  match n with
  | .die d => decide ((s.core (d * 160 + child)).f = f)
  | .dev _ => decide ((s.die child).vesper.f = f) && allAcked s (.die child)
  | .pod r =>
    match devOfNumber s child with
    | some k => decide ((s.dev k).vesper.f = f) && allAcked s (.dev k)
    | none => podHeard s r child (.acked f)

/-- FLIP_ACK: a node hears from a child. -/
def execFlipAck (node : VNode) (child : Nat) (s : State) : Outcome State Fault Refusal :=
  let v := vesperAt s node
  if v.f ≠ v.c ∧ (childrenOf s node).contains child ∧ !v.acks.contains child ∧ childAcked s node child then
    .next (ackFar (updVesper s node fun v => { v with acks := v.acks ++ [child] }) node)
  else .next s

/-! ### Drain (R99) -/

/-- The device of a node. -/
def nodeDev (s : State) : VNode → Nat
  | .die d => devOfDie s.pkg.mode d
  | .dev k | .pod k => k

/-- Has every node of the domain acknowledged the flip? A root in another package says so by its poll. -/
def flipDone (s : State) (n : VNode) : Bool :=
  match n with
  | .pod _ => allAcked s n
  | _ =>
    let k := nodeDev s n
    match rootOf s k with
    | some r => allAcked s r
    | none => podHeard s k (s.dev k).rootdev (.poll (s.dev k).vesper.f)

/-- The node above a node, and the node's number there. -/
def parentOf (s : State) : VNode → Option (VNode × Nat)
  | .die d => some (.dev (devOfDie s.pkg.mode d), d)
  | .dev k => if (s.dev k).span then (rootOf s k).map fun r => (r, (s.dev k).devnum) else none
  | .pod _ => none

/-- Children that report the phase drained now: cores whose counter reads 0, and members outside the package whose
report has come. -/
def drainedNow (s : State) (n : VNode) (ph : Nat) : List Nat :=
  match n with
  | .die d => (List.range 160).filter fun j => decide (cntOf s (d * 160 + j) ph = 0)
  | .dev _ => []
  | .pod r => (farMembers s r).filter fun m => podHeard s r m (.drained (s.dev r).pod.f)

/-- Are a node's own counts of a phase 0? -/
def ownDrained (s : State) (n : VNode) (ph : Nat) : Bool :=
  match n with
  | .die d => let x := s.die d; if ph = 0 then decide (x.parked0 = 0 ∧ x.ck0 = 0) else decide (x.parked1 = 0 ∧ x.ck1 = 0)
  | .dev _ | .pod _ => true

/-- Has a node's poll found everything drained, with no move meanwhile? -/
def pollDone (s : State) (n : VNode) : Bool :=
  let v := vesperAt s n
  decide (v.poll = some v.moves) && ownDrained s n ((v.f + 2 ^ 32 - 1) % 2) && (childrenOf s n).all fun c => v.drained.contains c

/-- The poll of a pod's root goes to the members outside the package. -/
def pollFar (s : State) (node : VNode) : State :=
  match node with
  | .pod r => podSay s r (.poll (s.dev r).pod.f)
  | _ => s

/-- A drained device reports to a root in another package. -/
def drainFar (s : State) (node : VNode) : State :=
  match node with
  | .dev k => match farRoot s k with | some r => podSend s k r (.drained (s.dev k).vesper.f) | none => s
  | _ => s

/-- DRAIN_POLL: a poll begins, hears its children, reports upwards, or starts again. -/
def execDrainPoll (node : VNode) (s : State) : Outcome State Fault Refusal :=
  let v := vesperAt s node
  if v.f = v.c ∨ !flipDone s node then .next s
  else
    let ph := (v.f + 2 ^ 32 - 1) % 2
    let now := drainedNow s node ph
    let hear (v : Vesper) : Vesper :=
      let v := if v.poll = some v.moves then v else { v with poll := some v.moves, drained := [] }
      { v with drained := v.drained ++ now.filter fun c => !v.drained.contains c }
    let s := pollFar (updVesper s node hear) node
    if !pollDone s node then .next s
    else
      match parentOf s node with
      | none => .next (drainFar s node)
      | some (p, c) =>
        if (vesperAt s p).poll.isNone then .next s
        else
          let s := updVesper s p fun v => { v with drained := if v.drained.contains c then v.drained else v.drained ++ [c] }
          .next (updVesper s node fun v => { v with poll := none, drained := [] })

/-- Every node of some devices knows a grace period complete. -/
def setComplete (s : State) (ks : List Nat) (c : Nat) : State :=
  ks.foldl (fun s k =>
    let s := updVesper s (.dev k) fun v => { v with c := c }
    let s := (diesOfDev s.pkg.mode k).foldl (fun s d =>
      updVesper (noteSample s d 4 none ((s.die d).cycle - (s.die d).flipAt)) (.die d) fun v => { v with c := c }) s
    (coresOfDev s k).foldl (fun s j => s.updCore j fun x => { x with c := c }) s) s

/-- The pod's root tells the members outside the package that its grace period is complete: those that were sent its flip. -/
def completeFar (s : State) (n : VNode) (f : Nat) : State :=
  match n with
  | .pod r => ((farMembers s r).filter fun m => (s.dev r).podTold.contains (m, .flip f)).foldl (fun s m => podSend s r m (.complete f)) s
  | _ => s

/-- A member whose root stands in another package hears that the grace period is complete. -/
def memberComplete (s : State) (k root : Nat) : State :=
  let v := (s.dev k).vesper
  if v.f ≠ v.c ∧ podHeard s k root (.complete v.f) then
    setComplete (s.updDev k fun d => { d with vesper := { d.vesper with poll := none, drained := [] } }) [k] v.f
  else s

/-- Does a link lead to every member outside the package that takes part (R418)? -/
def membersReached (s : State) (n : VNode) : Bool :=
  match n with
  | .pod r => (farMembers s r).all fun m => !takesPart s r m || (routeLink s r m).isSome
  | _ => true

/-- GRACE_PERIOD_COMPLETE: the root's poll found the phase drained, and every member can be reached: every node sets C = F. -/
def execGracePeriodComplete (dev : Nat) (s : State) : Outcome State Fault Refusal :=
  let n : VNode := if isPodRoot s dev then .pod dev else .dev dev
  let v := vesperAt s n
  if (s.dev dev).span ∧ !isPodRoot s dev then .next (match farRoot s dev with | some r => memberComplete s dev r | none => s)
  else if v.f = v.c then .next (completeFar s n v.f)
  else if !flipDone s n ∨ !pollDone s n ∨ !membersReached s n then .next s
  else
    let ks := domainDevs s n
    let s := updVesper s n fun v => { v with c := v.f, poll := none, drained := [] }
    .next (completeFar (setComplete s ks v.f) n v.f)

/-! ### RETIRE_ACTION (R102, R423) -/

/-- A completed entry leaves the queue. -/
def retireNext (s : State) (k : Nat) : State := s.updDev k fun d => { d with retire := d.retire.drop 1 }

/-- The retire notification of an entry; SUB tells which action failed, 3 none (Table 22.6). -/
def retireNotify (s : State) (k sub : Nat) (e : RetireEntry) : State :=
  retireNext (postFault s k
    { addr := e.addr, launch := 0, space := e.space, core := 0xFFFF, info := e.arg, access := 0, sub := sub, kind := 7,
      entry := some (retireWords e) }) k

/-- ACT 0: push the object to a work queue, or notify. -/
def retireQueueItem (s : State) (k : Nat) (e : RetireEntry) : State :=
  let d := wqDesc s k (e.arg % 4096)
  if !wqOkDesc d || decide (2 ^ d.log2n ≤ wqCount d) then retireNotify s k 0 e
  else
    let home := homeCore s k d.at_
    match awayXlate s k (dieOf home) (some home) 0 d.space (wqSlot d d.tail) true 2 with
    | (s, .ok pa) =>
      let s := physWrite (physWrite s k pa 8 e.addr) k (pa + 8) 8 e.size
      let s := physWrite s k (d.at_ + 24) 8 ((d.tail + 1) % 2 ^ 64)
      let q := e.arg % 4096
      retireNext (queueSettle s k q) k
    | (s, .wait) => s
    | (s, .fail) => retireNotify s k 0 e

/-- RETIRE_ACTION: the oldest entry of a completed grace period is acted on, in queue order. -/
def execRetireAction (dev : Nat) (s : State) : Outcome State Fault Refusal :=
  match (s.dev dev).retire with
  | [] => .next s
  | e :: _ =>
    if !serialGe (s.dev dev).vesper.c e.gseq then .next s
    else if e.act = 0 then .next (retireQueueItem s dev e)
    else if e.act = 1 then
      match awayXlate s dev (dieAt s.pkg.mode dev 0) none 0 e.space e.arg true 2 with
      | (s, .ok pa) => .next (retireNext (physWrite s dev pa 8 1) dev)
      | (s, .wait) => .next s
      | (s, .fail) => .next (retireNotify s dev 1 e)
    else .next (retireNotify s dev 3 e)

end Sys2Proof.Machine
end

