-- ==== Sys2Proof/Machine/Upkeep.lean ====
section
/-! DEFINITION. What cores do by themselves: ageing (R17), sleep (R240), REGACQ grants (R31), warps of a pool launch (R41,
R42), tag sweeps and renewals (R112 to R114); and what reaches memory and slices from outside: the debug path (R118, R363),
the memory aperture (R361) and exports (R365). -/

namespace Sys2Proof.Machine

open Host (Outcome)

/-- Does a core's clock run? -/
def clockRuns (s : State) (c : Nat) : Bool := !(s.die (dieOf c)).stopped

/-! ### The frontier and holds -/

/-- AGED_ENTRY_TO_HEAD: an entry whose count has reached 1,024 goes to the head, behind those aged before it (R17). DESIGN
CHOICE (log 17): of two whose counts reach it at one issue, the one whose event comes first goes ahead. -/
def execAgedEntryToHead (core slot entry : Nat) (s : State) : Outcome State Fault Refusal :=
  match s.warp? core slot with
  | none => .next s
  | some w =>
    match w.frontier[entry]? with
    | none => .next s
    | some e =>
      if e.age < Config.ageBound ∨ e.aged.isSome then .next s
      else
        .next (s.setWarp core slot
          { w with frontier := tidy (setAt w.frontier entry { e with aged := some w.nextSeq }), nextSeq := w.nextSeq + 1 })

/-- SLEEP_EXPIRY: the count of a SLEEP has passed (R240). -/
def execSleepExpiry (core slot : Nat) (s : State) : Outcome State Fault Refusal :=
  match s.warp? core slot with
  | none => .next s
  | some w =>
    match w.hold with
    | .sleep t => .next (if t ≤ (s.core core).cycle then s.setWarp core slot { w with hold := .none } else s)
    | _ => .next s

/-- REGACQ_GRANT: the request at the head of a quadrant's queue gets its blocks under a fresh generation, and its REGACQ
completes (R31, R113). -/
def execRegacqGrant (core quad : Nat) (s : State) : Outcome State Fault Refusal :=
  let k := s.core core
  match fget k.regacq quad with
  | some ((slot, n) :: rest) =>
    match fget k.warps slot with
    | none => .next s
    | some w =>
      let free := freeBlocks k quad
      if free.length < n ∨ !genReady s core then .next s
      else
        let t := takeGen k
        let w := { w with
          blocks := w.blocks ++ free.take n, ext := n, genExt := t.2, hold := .none,
          frontier := w.frontier.map fun e => stepPast e 1 }
        .next (settle (s.setCore core { t.1 with regacq := fput t.1.regacq quad rest, warps := fput t.1.warps slot w }) core slot)
  | _ => .next s

/-! ### Warps of pool launches (R41, R42) -/

/-- A warp as it is created (R108, Table 11.2): one entry at the code pointer, scalar registers and predicates zero. -/
def freshWarp (g idx : Nat) (live : Word) (code : Double) (l : LRec) (gen : Nat) (blocks : List Nat) : Warp :=
  { wg := g, idx := idx, live := live, frontier := [Entry.at_ code live 0], held := [], parks := [],
    sregs := List.replicate 24 0, preds := List.replicate 7 0, base := l.base, ext := 0, blocks := blocks, genBase := gen,
    genExt := 0, depth := List.replicate 32 0, phase := 0, fpstat := 0, rconvSplit := false, tvec := l.tvec, tcause := 0,
    tinfo := 0, tpc := 0, taddr := 0, tmask := 0, tact := 0, tclause := 0, timeoutCyc := 1000000, dbgatt := l.dbgatt,
    handler := 0, hold := .none, halted := false, grace := none, graceHeld := none, tokens := List.replicate 8 Token.fresh, copied := [],
    waited := [], derr := List.replicate 32 none, pend := [], round := Round.idle, waitCount := 0, lastIssue := 0,
    nextSeq := 0, poolThreads := [] }

/-- A slot and base blocks for a new warp: the first quadrant with both. -/
def newPlace (k : Core) (base : Nat) : Option (Nat × List Nat) :=
  [0, 1, 2, 3].findSome? fun q =>
    match (freeSlots k q).head? with
    | some sl => let free := freeBlocks k q; if base ≤ free.length then some (sl, free.take base) else none
    | none => none

/-- The pool workgroup of a launch on a core, while it has a free warp slot, with its launch record. -/
def poolWgFor (s : State) (c lid : Nat) : Option (Nat × Wg × LRec) :=
  s.wgs.findSome? fun p =>
    let formed := (wgSlots (s.core c) p.1).length
    if p.2.pool ∧ p.2.core = c ∧ p.2.launch = lid ∧ p.2.phase = .resident ∧ formed < p.2.slots then
      (fget s.launches p.2.launch).map fun l => (p.1, p.2, l.rec_)
    else none

/-- Since when a bin is ready: since its oldest record came, if it holds 32 or has waited 256 cycles. -/
def binReady (k : Core) (b : Bin) : Option Nat :=
  match b.recs with
  | [] => none
  | r :: _ => if b.recs.length = Config.binSize ∨ r.1 + Config.binWait ≤ k.cycle then some r.1 else none

/-- The lowest index no warp of a workgroup has. -/
def freeIdx (k : Core) (g n : Nat) : Nat :=
  (firstBelow n fun i => !(k.warps.any fun p => decide (p.2.wg = g ∧ p.2.idx = i))).getD 0

/-- What a ready bin's warp would be: since when the bin is ready, the pool workgroup it joins with its record, its slot and
blocks; none while its launch has no room for it, or no generation can be taken. -/
def poolForm (s : State) (core : Nat) (b : Bin) : Option (Nat × (Nat × Wg × LRec) × Nat × List Nat) :=
  let k := s.core core
  match binReady k b, poolWgFor s core b.launch with
  | some t, some p => if genReady s core && clockRuns s core then (newPlace k p.2.2.base).map fun q => (t, p, q) else none
  | _, _ => none

/-- POOL_WARP_FORM: of the bins that can form a warp the one whose oldest record is oldest does, lane i from its i-th record. -/
def execPoolWarpForm (core bin : Nat) (s : State) : Outcome State Fault Refusal :=
  let k := s.core core
  match fget k.bins bin with
  | none => .next s
  | some b =>
    match poolForm s core b with
    | none => .next s
    | some (t, (g, x, l), sl, blocks) =>
        if k.bins.any fun p => match poolForm s core p.2 with | some q => decide (q.1 < t) | none => false then .next s
        else
          let n := b.recs.length
          let live := maskOf fun i => decide (i < n)
          let gen := takeGen k
          let rec_ (i : Nat) : Double × Double := match b.recs[i]? with | some r => r.2 | none => (0, 0)
          let w := freshWarp g (freeIdx k g x.slots) live b.code l gen.2 blocks
          let w := { w with poolThreads := (List.range n).map fun i => (i, (rec_ i).2.toNat) }
          let k := { gen.1 with bins := fdel gen.1.bins bin, warps := fput gen.1.warps sl w }
          let half (d : Double) (h : Nat) : Word := d.extractLsb' (32 * h) 32
          let k := writeV k sl w 0 live fun i => half (rec_ i).1 0
          let k := writeV k sl w 1 live fun i => half (rec_ i).1 1
          let k := writeV k sl w 2 live fun i => half (rec_ i).2 0
          let k := writeV k sl w 3 live fun i => half (rec_ i).2 1
          let s := settle (s.setCore core k) core sl
          .next (binRefill s core (s.die (dieOf core)).poolOwner.length)

/-! ### Generations (R112 to R114) -/

/-- Is a tag one that a sweep started at a value clears: so far behind the start, and not given since, when the counter has
come to `gen` (R112; DEDUCED in log 78)? -/
def sweepOld (start gen t : Nat) : Bool :=
  decide (t ≠ 0 ∧ 32768 ≤ (start + 65536 - t) % 65536 ∧ (gen + 65536 - start) % 65536 < (t + 65536 - start) % 65536)

/-- The tags of a core: 11,264 of granules, then 1,536 of rows, the order a sweep takes (DESIGN CHOICE, log 78). -/
def sweepTags : Nat := 12800

/-- The sweep tests one tag. -/
def sweepOne (k : Core) (n : Nat) : Core :=
  if n < 11264 then (if sweepOld k.sweepNow k.gen (granTag k n) then { k with tags := fdel k.tags n } else k)
  else
    { k with rows := fupd k.rows (n - 11264) fun r => if sweepOld k.sweepNow k.gen r.tag then { r with tag := 0 } else r }

/-- The scrubber's guaranteed tags of a cycle; the sweep after the last one starts at the counter's value (R112). -/
def sweepCycle (k : Core) : Core :=
  let k := sweepOne (sweepOne k k.sweepPos) (k.sweepPos + 1)
  if sweepTags ≤ k.sweepPos + 2 then { k with sweepPos := 0, sweepDone := k.sweepNow, sweepNow := k.gen }
  else { k with sweepPos := k.sweepPos + 2 }

/-- TAG_SWEEP: a sweep completes, in spare cycles: what it has left of the old tags is 0; the next one starts at the counter's
value. -/
def execTagSweep (core : Nat) (s : State) : Outcome State Fault Refusal :=
  .next (s.updCore core fun k =>
    let old (n t : Nat) : Bool := decide (k.sweepPos ≤ n) && sweepOld k.sweepNow k.gen t
    { k with
      tags := k.tags.filter fun p => !old p.1 p.2
      rows := k.rows.map fun p => if old (p.1 + 11264) p.2.tag then (p.1, { p.2 with tag := 0 }) else p
      sweepPos := 0
      sweepDone := k.sweepNow
      sweepNow := k.gen })

/-- Retag the granules of a range from one generation to another. -/
def retagGrans (k : Core) (base n old new : Nat) : Core :=
  let inside (g : Nat) : Bool := decide (base / 64 ≤ g ∧ g < (base + n + 63) / 64)
  { k with tags := k.tags.map fun p => if inside p.1 && decide (p.2 = old) then (p.1, new) else p }

/-- Retag the rows of some blocks of a quadrant. -/
def retagRows (k : Core) (quad : Nat) (blocks : List Nat) (old new : Nat) : Core :=
  let inside (r : Nat) : Bool := decide (r / 384 = quad) && blocks.contains (r % 384 / 16)
  { k with rows := k.rows.map fun p => if inside p.1 && decide (p.2.tag = old) then (p.1, { p.2 with tag := new }) else p }

/-- The generation of a live allocation of a core. -/
def allocGen (s : State) (core : Nat) : AllocId → Option Nat
  | .wg g => (fget s.wgs g).bind fun x => if x.core = core && holdsSlot x then some x.gen else none
  | .base sl => (s.warp? core sl).map Warp.genBase
  | .ext sl => (s.warp? core sl).bind fun w => if w.ext = 0 then none else some w.genExt
  | .priv sl => (s.warp? core sl).bind fun w => if w.round.st = .running ∧ w.round.psize ≠ 0 then some w.round.privGen else none

/-- Give an allocation a new generation: the tags that equal the old one follow. -/
def renewTo (s : State) (core old new : Nat) : AllocId → State
  | .wg g =>
    match fget s.wgs g with
    | none => s
    | some x => (s.updCore core fun k => retagGrans k x.base x.size old new).updWg g fun x => { x with gen := new }
  | .base sl =>
    match s.warp? core sl with
    | none => s
    | some w =>
      (s.updCore core fun k => retagRows k (quadOf sl) (w.blocks.take w.base) old new).setWarp core sl { w with genBase := new }
  | .ext sl =>
    match s.warp? core sl with
    | none => s
    | some w =>
      (s.updCore core fun k => retagRows k (quadOf sl) (w.blocks.drop w.base) old new).setWarp core sl { w with genExt := new }
  | .priv sl =>
    match s.warp? core sl with
    | none => s
    | some w =>
      (s.updCore core fun k => retagGrans k w.round.privBase (w.round.psize * 1024) old new).setWarp core sl
        { w with round := { w.round with privGen := new } }

/-- GENERATION_RENEWAL: a live allocation of age 16,384 takes a fresh generation with its contents; a stale unit stays
stale. -/
def execGenerationRenewal (core : Nat) (a : AllocId) (s : State) : Outcome State Fault Refusal :=
  match allocGen s core a with
  | none => .next s
  | some old =>
    let k := s.core core
    if (k.gen + 65536 - old) % 65536 < Config.renewAge ∨ !genReady s core then .next s
    else
      let t := takeGen k
      .next (renewTo (s.setCore core t.1) core old t.2 a)

/-! ### The debug path (R118, R363) -/

/-- Change a warp by a debug command, which a failed boot takes none of (R407). -/
def dbgWarp (s : State) (core slot : Nat) (f : Warp → Warp) : State := if bootStopped s then s else s.updWarp core slot f

/-- DEBUG_HALT: the warp issues nothing more. -/
def execDebugHalt (core slot : Nat) (s : State) : Outcome State Fault Refusal :=
  .next (dbgWarp s core slot fun w => { w with halted := true })

/-- DEBUG_RESUME: the warp goes on; one that sleeps without end wakes (R240). -/
def execDebugResume (core slot : Nat) (s : State) : Outcome State Fault Refusal :=
  .next (dbgWarp s core slot fun w => { w with halted := false, hold := match w.hold with | .sleepForever => .none | h => h })

/-- DEBUG_RELEASE: a warp held at DBGBRK goes on (R249). -/
def execDebugRelease (core slot : Nat) (s : State) : Outcome State Fault Refusal :=
  .next (dbgWarp s core slot fun w => { w with hold := match w.hold with | .debug => .none | h => h })

/-- The row of a halted warp's register, or the granule of a halted warp's workgroup, that a command names. -/
def dbgPlace (s : State) (core : Nat) : DbgUnit → Option Nat
  | .row slot reg =>
    match s.warp? core slot with
    | some w => if w.halted && blockHeld w reg then some (rowKey slot w reg) else none
    | none => none
  | .granule off =>
    let own (g : Nat) : Bool := match fget s.wgs g with
      | some x => decide (x.core = core ∧ x.base ≤ off / 64 * 64 ∧ off / 64 * 64 + 64 ≤ x.base + x.size)
      | none => false
    if (s.core core).warps.any fun p => p.2.halted && own p.2.wg then some (off / 64) else none

/-- What a debug read finds, with its tag. -/
def dbgFetch (k : Core) (u : DbgUnit) (n : Nat) : DbgEvent :=
  match u with
  | .row .. => .row (rowAt k n).tag (rowAt k n).data
  | .granule _ => .granule (granTag k n) (memBytes k.data (64 * n) 64)

/-- The bytes of a debug event as its ring holds them: data, then the tag. -/
def dbgBytes : DbgEvent → List Byte
  | .row tag data => data.flatMap (fun w => bytesOfNat 4 w.toNat) ++ bytesOfNat 2 tag
  | .granule tag data => data ++ bytesOfNat 2 tag
  | .brk .. | .error => []

/-- DEBUG_READ: a row or granule raw, posted and written where the command asks; no tag changes. -/
def execDebugRead (core : Nat) (u : DbgUnit) (dst : Nat) (s : State) : Outcome State Fault Refusal :=
  if bootStopped s then .next s else
  match dbgPlace s core u with
  | none => .next { s with debug := s.debug ++ [.error] }
  | some n =>
    let e := dbgFetch (s.core core) u n
    .next { s with debug := s.debug ++ [e], cmem := memWriteBytes s.cmem dst (dbgBytes e) }

/-- Change the supplied lanes or bytes of a unit, and its tag if one is supplied; the rest keeps its data. -/
def dbgStore (k : Core) (u : DbgUnit) (n : Nat) (data : List (Nat × BitVec 32)) (tag : Option (BitVec 16)) : Core :=
  match u with
  | .row .. =>
    let r := rowAt k n
    let t := match tag with | some t => t.toNat | none => r.tag
    { k with rows := fput k.rows n { tag := t, data := data.foldl (fun ws p => setAt ws p.1 p.2) r.data, dirty := true } }
  | .granule _ =>
    let k := { k with data := data.foldl (fun m p => if p.1 < 64 then memWrite m (64 * n + p.1) (p.2.setWidth 8) else m) k.data }
    match tag with
    | some t => { k with tags := if t = 0 then fdel k.tags n else fput k.tags n t.toNat }
    | none => k

/-- DEBUG_WRITE: one event, without zero fill. -/
def execDebugWrite (core : Nat) (u : DbgUnit) (data : List (Nat × BitVec 32)) (tag : Option (BitVec 16)) (s : State) :
    Outcome State Fault Refusal :=
  if bootStopped s then .next s else
  match dbgPlace s core u with
  | none => .next { s with debug := s.debug ++ [.error] }
  | some n => .next (s.updCore core fun k => dbgStore k u n data tag)

/-! ### Inbound accesses (R77, R91, R153, R361, R365, R366, R393) -/

/-- Does an operation set aside hold some line of n bytes at an aperture address (R423)? -/
def apHeld (s : State) (a n : Nat) : Bool :=
  s.aside.any fun r =>
    match reqLine s r with
    | some (k, line) =>
      (match apOf s k (line * 64) with | some b => decide (a / 64 ≤ b / 64 ∧ b / 64 < (a + n + 63) / 64) | none => false)
    | none => false

/-- Is an access one of a size its kind allows, with as many bytes as it says? -/
def inboundOk (a : InboundAccess) : Bool :=
  match a.kind with
  | .read => decide (0 < a.size)
  | .write d => decide (0 < a.size ∧ d.length = a.size)
  | .atomicAdd n _ | .cas n _ _ => decide (a.size = n ∧ (n = 4 ∨ n = 8))

/-- What an access does to the value that stands in its bytes: what it leaves there, if it writes, and what it answers. -/
def inboundDo (a : InboundAccess) (v : Nat) : Option Nat × Option Nat :=
  let top := 2 ^ (8 * a.size)
  match a.kind with
  | .read => (none, some v)
  | .write d => (some (natOfBytes d), none)
  | .atomicAdd _ y => (some ((v + y.toNat) % top), some v)
  | .cas _ old new => (if v = old.toNat % top then some (new.toNat % top) else none, some v)

/-- Post an answer. -/
def answer (s : State) (initiator value : Option Nat) (failed : Bool) : State :=
  { s with linkOut := s.linkOut ++ [.answer initiator value failed] }

/-- Does an access read what it touches? -/
def inboundReads (a : InboundAccess) : Bool := match a.kind with | .write _ => false | .read | .atomicAdd .. | .cas .. => true

/-- Does an access write what it touches? -/
def inboundWrites (a : InboundAccess) : Bool := match a.kind with | .read => false | .write _ | .atomicAdd .. | .cas .. => true

/-- The ACCESS bit of an access (Table 22.5). -/
def inboundAcc (a : InboundAccess) : Nat := match a.kind with | .read => 1 | .write _ => 2 | .atomicAdd .. | .cas .. => 4

/-- The logical device an inbound access goes to. -/
def inboundDev (s : State) (n : Inbound) : Nat :=
  match n.via with
  | some (k, _, _) => k
  | none => devOfDie s.pkg.mode (n.access.addr / Config.dieSpan)

/-- Does an inbound access keep behind an earlier one that has not been performed: a marked write behind a write of its
initiator to the device, anything behind a marked read of it (R91)? -/
def inboundBehind (s : State) (early : List Inbound) (n : Inbound) : Bool :=
  early.any fun e =>
    decide (e.initiator = n.initiator) &&
      (n.access.marked && inboundWrites n.access && inboundWrites e.access && decide (inboundDev s e = inboundDev s n) ||
        e.access.marked && inboundReads e.access)

/-- What becomes of an inbound access: it is over, answered, or waits. -/
inductive InAns where
  | done (s : State) | wait (s : State) (n : Inbound)

/-- A companion access through the memory aperture, untranslated at the line's home slice; one outside stacked DRAM, or of
uncorrectable data, fails. -/
def inboundMem (s : State) (n : Inbound) : InAns :=
  let a := n.access
  let d := a.addr / Config.dieSpan
  if !inboundOk a || decide (4 ≤ d) || decide (Config.dieDram < a.addr % Config.dieSpan + a.size) then .done (answer s none none true)
  else if apHeld s a.addr a.size || (s.die d).stopped then .wait s n
  else if inboundReads a && poisonedAt s a.addr a.size then .done (answer s none none true)
  else
    let r := inboundDo a (memNat s.mem a.addr a.size)
    let s := match r.1 with | some v => { s with mem := memWriteNat s.mem a.addr a.size v } | none => s
    .done (answer s none r.2 false)

/-- The parts of n bytes at an offset of an export that lie on one 64 KiB page each, lowest first. -/
def pageParts (off n : Nat) : List (Nat × Nat) :=
  let first := min n (65536 - off % 65536)
  (off, first) :: (List.range ((n - first + 65535) / 65536)).map fun i =>
    (off + first + 65536 * i, min 65536 (n - first - 65536 * i))

/-- Where the parts of an access lie, or what their translation answers for all of them. -/
inductive InPlaces where
  | at_ (ps : List (Place × Nat)) | wait | refused
  deriving DecidableEq, Repr

/-- Translate the parts of a checked access, lowest first (R365). -/
def inboundPlaces (s : State) (k : Nat) (x : Export) (initiator acc : Nat) : List (Nat × Nat) → State × InPlaces
  | [] => (s, .at_ [])
  | (off, n) :: ps =>
    let more (s : State) (p : Place) : State × InPlaces :=
      match inboundPlaces s k x initiator acc ps with
      | (s, .at_ qs) => (s, .at_ ((p, n) :: qs))
      | r => r
    match peerPlace s k x initiator off n acc none with
    | (s, .mem k pa) => more s (.mem k pa)
    | (s, .slice c o gen _) => more s (.slice c o gen)
    | (s, .wait) => (s, .wait)
    | (s, .refused) => (s, .refused)

/-- The value of some parts, lowest first. -/
def placesNat (s : State) : List (Place × Nat) → Nat
  | [] => 0
  | (p, n) :: ps => placeNat s n p + 2 ^ (8 * n) * placesNat s ps

/-- Write a value over some parts. -/
def placesWrite (s : State) (v : Nat) : List (Place × Nat) → State
  | [] => s
  | (p, n) :: ps => placesWrite (placeWrite s p n (v % 2 ^ (8 * n)) (2 ^ (8 * n) - 1)) (v / 2 ^ (8 * n)) ps

/-- Does a part hold uncorrectable data (R153)? -/
def placeBad (s : State) (p : Place × Nat) : Bool :=
  match p.1 with
  | .mem k pa => poisoned s k pa p.2
  | .slice c off gen => slicePoison (s.core c) gen off p.2

/-- An access through an export, checked once as it comes, in its turn among its initiator's and then in one event; a failed check
or translation answers an error (R365, R366). -/
def inboundData (s : State) (n : Inbound) (k : Nat) (x : Export) (initiator : Nat) (behind : Bool) : InAns :=
  let a := n.access
  let wait (s : State) : InAns :=
    let seq := match n.checked with | some c => c.seq | none => s.nextId
    .wait { s with nextId := s.nextId + 1 } { n with checked := some (checkedBy s k x a.addr seq) }
  if behind then wait s
  else
    match inboundPlaces s k x initiator (inboundAcc a) (pageParts a.addr a.size) with
    | (s, .refused) => .done (answer s (some initiator) none true)
    | (s, .wait) => wait s
    | (s, .at_ ps) =>
      if inboundReads a && ps.any (placeBad s) then .done (answer s (some initiator) none true)
      else
        let r := inboundDo a (placesNat s ps)
        let s := match r.1 with | some v => placesWrite s v ps | none => s
        .done (answer s (some initiator) r.2 false)

/-- A message of an inbound write, of 4 bytes to a ring export: put into the ring, which may be full, or refused (R276, R365). -/
def inboundMessage (s : State) (n : Inbound) (k e : Nat) (key : BitVec 16) (initiator v : Nat) : InAns :=
  let x := exportOf s k e
  match exportRing s k e key n.access.addr v with
  | .put s => .done (answer s (some initiator) none false)
  | .full => .wait s n
  | .none_ => .done (answer (postFault s k (remoteRecord (x.base + n.access.addr) x.space initiator 2)) (some initiator) none true)

/-- An access through an export: a message, or an access that is checked and translated, or refused with a REMOTE record. -/
def inboundPeer (s : State) (n : Inbound) (k e : Nat) (key : BitVec 16) (initiator : Nat) (behind : Bool) : InAns :=
  let a := n.access
  if !inboundOk a then .done (answer s (some initiator) none true)
  else
    match n.checked, (exportOf s k e).ring, a.kind with
    | some c, _, _ => inboundData s n k c.exp initiator behind
    | none, true, .write [b0, b1, b2, b3] =>
      if behind then .wait s n else inboundMessage s n k e key initiator (natOfBytes [b0, b1, b2, b3])
    | none, _, _ =>
      let x := exportOf s k e
      if exportPass x key a.addr a.size then inboundData s n k x initiator behind
      else .done (answer (postFault s k (remoteRecord (x.base + a.addr) x.space initiator (inboundAcc a))) (some initiator) none true)

/-- Perform an inbound access now, if it can be and keeps behind no earlier one. DESIGN CHOICE (log 89): one that a failed
boot does not accept is answered by a failure (R407). -/
def inboundNow (s : State) (n : Inbound) (behind : Bool) : InAns :=
  if bootStopped s then .done (answer s n.initiator none true)
  else
    match n.via, n.initiator with
    | some (k, e, key), some i => inboundPeer s n k e key i behind
    | _, _ => if behind then .wait s n else inboundMem s n

/-- An inbound access arrives: it is performed, or waits (R91). -/
def inboundCome (s : State) (n : Inbound) : State :=
  match inboundNow s n (inboundBehind s s.inWait n) with
  | .done s => s
  | .wait s n => { s with inWait := s.inWait ++ [n] }

/-- An inbound access that waited is performed, if it can be. -/
def inboundRetry (s : State) (i : Nat) : State :=
  match s.inWait[i]? with
  | none => s
  | some n =>
    match inboundNow s n (inboundBehind s (s.inWait.take i) n) with
    | .done s => { s with inWait := dropAt s.inWait i }
    | .wait s n => { s with inWait := setAt s.inWait i n }

/-- Is a write of a register of Table 20.1, marked release as each is, to wait: for a companion write before it, or for a marked
read (R91, R362)? -/
def companionWaits (s : State) : Bool :=
  s.inWait.any fun n => n.initiator.isNone && (inboundWrites n.access || n.access.marked && inboundReads n.access)

/-- INBOUND_ACCESS: of the companion. -/
def execInboundAccess (a : InboundAccess) (s : State) : Outcome State Fault Refusal :=
  .next (inboundCome s { initiator := none, via := none, checked := none, access := a })

/-- INBOUND_PEER_ACCESS: of a device. -/
def execInboundPeerAccess (dev exp : Nat) (key : BitVec 16) (initiator : Nat) (a : InboundAccess) (s : State) :
    Outcome State Fault Refusal :=
  .next (inboundCome s { initiator := some initiator, via := some (dev, exp, key), checked := none, access := a })

end Sys2Proof.Machine
end

