-- ==== Sys2Proof/Machine/Launch.lean ====
section
/-! DEFINITION. Launches: the record and its checks (R333, R374, R380), snapshot sets (R402, R403), admission of workgroups,
cluster groups and twins (R25, R26, R38 to R40, R57, R108, R139, R149, R328), pool roots (R46), completion (R381), abort
(R384) and replay (R404, R419). -/

namespace Sys2Proof.Machine

open Host (Outcome)

/-! ### The record (Table 21.6) -/

/-- A field of a number: bits [hi:lo]. -/
def bitsOf (n hi lo : Nat) : Nat := n / 2 ^ lo % 2 ^ (hi + 1 - lo)

/-- The fields of a record's 256 bytes. -/
def recOf (n : Nat) : LRec :=
  let d (lo : Nat) : Double := BitVec.ofNat 64 (n / 2 ^ lo)
  { roots := d 576, proots := bitsOf n 559 544, pncore := bitsOf n 543 528, pcore := bitsOf n 527 512, snapset := d 448,
    space := bitsOf n 431 416, cgsize := bitsOf n 403 401, dbgatt := n.testBit 400, hand := n.testBit 399,
    pclass := bitsOf n 398 397, genTrap := n.testBit 396, mode := bitsOf n 395 394, kind := bitsOf n 393 392,
    base := bitsOf n 391 389, warps := bitsOf n 388 384, scratch := bitsOf n 383 352, grid2 := bitsOf n 351 320,
    grid1 := bitsOf n 319 288, grid0 := bitsOf n 287 256, tvec := d 128, args := d 64, code := d 0 }

/-- Is some reserved field of a record nonzero? -/
def recReserved (n : Nat) : Bool :=
  decide (bitsOf n 2047 640 ≠ 0 ∨ bitsOf n 575 560 ≠ 0 ∨ bitsOf n 447 432 ≠ 0 ∨ bitsOf n 415 404 ≠ 0 ∨ bitsOf n 255 192 ≠ 0)

/-- Does a record break the limits of its fields (R333, R380)? -/
def recInvalid (r : LRec) : Bool :=
  !decide (1 ≤ r.warps ∧ r.warps ≤ 16 ∧ 1 ≤ r.base ∧ r.base ≤ 6 ∧ r.scratch ≤ 720896) ||
    decide (r.grid0 = 0 ∨ r.grid1 = 0 ∨ r.grid2 = 0 ∨ 2 ^ 64 ≤ r.grid0 * r.grid1 * r.grid2) ||
    decide (r.mode = 3 ∨ r.kind = 3 ∨ 4 < r.cgsize ∨ 4096 < r.proots) ||
    decide (r.kind = 2 ∧ (r.mode ≠ 0 ∨ r.cgsize ≠ 0)) ||
    decide (r.code.toNat % 4 ≠ 0 ∨ r.tvec.toNat % 4 ≠ 0 ∨ r.args.toNat % 64 ≠ 0 ∨ r.roots.toNat % 8 ≠ 0)

/-- The copies of each workgroup. -/
def recCopies (r : LRec) : Nat := if r.mode = 2 then 2 else 1
/-- The workgroups placed together: a cluster group, or one. -/
def groupSize (r : LRec) : Nat := max 1 r.cgsize
/-- Checkpoint-pool units of one workgroup at its admission, where it holds no claims yet (R374; DEDUCED, log 36). -/
def recUnits (r : LRec) : Nat := areaSize r false
/-- The bytes of one allocation (R57). -/
def recSize (r : LRec) : Nat := alignUp r.scratch 1024
/-- How many workgroups of a record fit one empty core (R25). -/
def perCore (s : State) (k : Nat) (r : LRec) : Nat :=
  let n := 4 * min Config.slotsPerQuad (Config.blocksPerQuad / r.base) / r.warps
  if recSize r = 0 then n else min n (addressable (s.dev k).hcshare / recSize r)

/-- The core that takes a pool launch's root record i (log 25). -/
def rootCore (s : State) (k : Nat) (r : LRec) (i : Nat) : Option Nat := coreOfIdx s k (r.pcore + i % max 1 r.pncore)
/-- The root records that count against a die. -/
def rootsOn (s : State) (k : Nat) (r : LRec) (d : Nat) : Nat :=
  if r.pncore = 0 then 0 else ((List.range r.proots).filter fun i => decide ((rootCore s k r i).map dieOf = some d)).length

/-- Could a launch never be resident, even on an empty device (R38, R39, R46, R374, R380)? -/
def noResidence (s : State) (k : Nat) (r : LRec) : Bool :=
  let n := launchSize r
  let g := min n (groupSize r)
  let cores := 160 * devDies s.pkg.mode
  let per := perCore s k r
  let groups := (n + groupSize r - 1) / groupSize r
  let whole := decide (r.kind = 1)
  decide (per = 0 ∨ (s.dev k).ckptsize < g * recCopies r * recUnits r) ||
    (whole && decide ((s.dev k).ckptsize < n * recCopies r * recUnits r)) ||
    (whole && r.cgsize = 0 && decide (cores * per < n * recCopies r)) ||
    (whole && r.cgsize ≠ 0 && decide (40 * devDies s.pkg.mode < groups * recCopies r)) ||
    (decide (r.kind = 2) &&
      (decide (cores < r.pcore + r.pncore) || decide (r.pncore = 0 ∧ r.proots ≠ 0) ||
        (diesOfDev s.pkg.mode k).any fun d => decide (poolBase s d ≠ 0 ∧ poolSlots s d < rootsOn s k r d)))

/-! ### Snapshot sets (R402, R403) -/

/-- The ranges of a set: the address and the pages of each. -/
def snapRanges (s : State) (k at_ n : Nat) : List (Nat × Nat) :=
  (List.range n).map fun i => (physNat s k (at_ + 16 + 16 * i) 8, physNat s k (at_ + 24 + 16 * i) 4)

/-- A page of a set: its address, its entry, where that stands; none if it is not a writable near 64 KiB page of the
device. -/
def snapPage (s : State) (k space va : Nat) : Option (Nat × Double × Nat) :=
  if regionOf va ≠ .paged then none
  else
    match walkPage s k space va with
    | .leaf p at_ size => if size = 65536 ∧ pteTier p = 0 ∧ pteW p then some (va, p, at_) else none
    | .bad .. => none

/-- Collect pages, none if one fails. -/
def allSome {α : Type} : List (Option α) → Option (List α)
  | [] => some []
  | none :: _ => none
  | some x :: xs => (allSome xs).map (x :: ·)

/-- The pages of a launch's set, none if the set fails a check. -/
def snapPages (s : State) (k : Nat) (r : LRec) : Option (List (Nat × Double × Nat)) :=
  let at_ := r.snapset.toNat
  if at_ = 0 then some []
  else
    let n := physNat s k at_ 4
    let ranges := snapRanges s k at_ n
    if at_ % 16 ≠ 0 ∨ !nearPa s at_ ∨ n = 0 ∨ 256 < n ∨ ranges.any (fun q => decide (q.1 % 65536 ≠ 0 ∨ q.2 = 0)) then none
    else allSome (ranges.flatMap fun q => (List.range q.2).map fun i => snapPage s k r.space (q.1 + 65536 * i))

/-- Does an entry have SNAP = 1, of another launch's set (R402)? -/
def snapTaken (s : State) (k l at_ : Nat) : Bool :=
  pteSnap (BitVec.ofNat 64 (physNat s k at_ 8)) && s.launches.any fun p => decide (p.1 ≠ l ∧ p.2.dev = k) && p.2.pages.any fun q => decide (q.1 = at_)

/-- An entry whose copy-aside is over is no longer one of the sets that named it. -/
def snapForget (s : State) (k l at_ : Nat) : State :=
  { s with launches := s.launches.map fun p =>
      if p.1 ≠ l ∧ p.2.dev = k then (p.1, { p.2 with pages := p.2.pages.filter fun q => decide (q.1 ≠ at_) }) else p }

/-- Mark a set's pages SNAP. -/
def snapMark (s : State) (k l space : Nat) (ps : List (Nat × Double × Nat)) : State :=
  ps.foldl (fun s q =>
    let s := (casPte (snapForget s k l q.2.2) k space q.1 q.2.2 q.2.1 (pteSet q.2.1 54 true)).1
    s.updLaunch l fun x =>
      { x with pages := if x.pages.any fun y => decide (y.1 = q.2.2) then x.pages else x.pages ++ [(q.2.2, pteAddr q.2.1)] }) s

/-- Every cached translation of the entry at an address goes. -/
def dropPte (s : State) (k at_ : Nat) : State :=
  keepTlbs s k fun t => decide (t.pteAt ≠ at_)

/-- The end of a launch's set: SNAP goes from the pages never copied, the items return to their queues. -/
def snapEnd (s : State) (l : Nat) : State :=
  match fget s.launches l with
  | none => s
  | some x =>
    let s := x.pages.foldl (fun s q =>
      let p := BitVec.ofNat 64 (physNat s x.dev q.1 8)
      if pteV p && pteSnap p && decide (pteAddr p = q.2) then
        dropPte (physWrite s x.dev q.1 8 (pteSet p 54 false).toNat) x.dev q.1
      else s) s
    let s := x.log.foldl (fun s i => poolReturn s x.dev i.queue i.item 0) s
    s.updLaunch l fun x => { x with pages := [], log := [] }

/-! ### A launch begins (R380) -/

/-- The next LAUNCHID of a device. -/
def nextLaunchId (s : State) (k : Nat) : Nat := (s.dev k).launchCtr % 0xFFFF_FFFF + 1

/-- A launch that ends before it runs. -/
def endEarly (s : State) (l status : Nat) : State := s.updLaunch l fun x => { x with phase := .ended, status := status }

/-- Enter a launch with the device's next LAUNCHID; its record is checked. -/
def launchNew (s : State) (k q slot tag : Nat) (comp : Double) (r : LRec) : State × Nat :=
  let l := s.nextLaunch
  let id := nextLaunchId s k
  let x : Launch :=
    { dev := k, id := id, rec_ := r, comp := comp, tag := tag, queue := q, slot := slot, attempt := 0, phase := .pending,
      next := 0, rootsPushed := false, pages := [], log := [], status := 0, cause := 0, double := false, wgidx := 0, tpc := 0 }
  let s := { s with nextLaunch := l + 1, launches := fput s.launches l x }
  let s := s.updDev k fun d => { d with launchCtr := id }
  let s :=
    if recInvalid r then endEarly s l 4
    else if noResidence s k r then endEarly s l 3
    else if (snapPages s k r).isNone then endEarly s l 4
    else s
  (s, l)

/-- The instruction caches of a device are emptied at a launch's admission (R181). -/
def clearCode (s : State) (k : Nat) : State :=
  { s with cores := s.cores.map fun (p : Nat × Core) => if devOfCore s p.1 = k then (p.1, { p.2 with icache := [] }) else p }

/-- Admit a pending launch once no page of its set belongs to another. -/
def launchAdmit (s : State) (l : Nat) : State :=
  match fget s.launches l with
  | none => s
  | some x =>
    if x.phase ≠ .pending then s
    else
      match snapPages s x.dev x.rec_ with
      | none => endEarly s l 4
      | some ps =>
        if ps.any fun q => snapTaken s x.dev l q.2.2 then s
        else
          let s := snapMark s x.dev l x.rec_.space ps
          (clearCode s x.dev).updLaunch l fun x => { x with phase := .running }

/-! ### WORKGROUP_ADMISSION -/

/-- The groups of workgroup indices admitted next, together: the whole of a persistent launch, else one group. -/
def nextGroups (r : LRec) (next : Nat) : List (List Nat) :=
  let n := launchSize r
  let g := groupSize r
  let group (i : Nat) : List Nat := (List.range (min g (n - i))).map (i + ·)
  if n ≤ next then []
  else if r.kind = 1 then (List.range ((n + g - 1) / g)).map fun i => group (i * g)
  else [group next]

/-- Could warps of these base sizes be placed as well? -/
def fitsAll (k : Core) (l : LRec) : List Nat → Bool
  | [] => true
  | b :: bs =>
    match newPlace k b with
    | some (sl, blocks) => fitsAll { k with warps := fput k.warps sl (freshWarp 0 0 0 0 { l with base := b } 0 blocks) } l bs
    | none => false

/-- The warps the pool workgroups of a core may still form, by their base blocks (R40). -/
def poolUnformed (s : State) (c : Nat) : List Nat :=
  s.wgs.flatMap fun p =>
    if p.2.pool ∧ p.2.core = c ∧ p.2.phase = .resident then
      let b := match fget s.launches p.2.launch with | some l => l.rec_.base | none => 1
      List.replicate (p.2.slots - (wgSlots (s.core c) p.1).length) b
    else []

/-- Create the warps of a workgroup: the argument block's address in v0:v1 of every lane (R328). -/
def newWarps (c g : Nat) (l : LRec) : List Nat → State → Option State
  | [], s => some s
  | i :: is, s =>
    match newPlace (s.core c) l.base with
    | none => none
    | some (sl, blocks) =>
      let t := takeGens s c 1
      let w := freshWarp g i allLanes l.code l (t.2.getD 0 0) blocks
      let s := t.1.updCore c fun k =>
        let k := { k with warps := fput k.warps sl w }
        let k := writeV k sl w 0 allLanes fun _ => l.args.extractLsb' 0 32
        writeV k sl w 1 allLanes fun _ => l.args.extractLsb' 32 32
      newWarps c g l is (settle s c sl)

/-- Has a die the private areas a launch needs (R46, R374)? -/
def areasOk (s : State) (c : Nat) (r : LRec) : Bool :=
  let d := s.dev (devOfCore s c)
  let p := posOfDie s.pkg.mode (dieOf c)
  let set (m : FMap Nat) : Bool := decide ((fget m p).getD 0 ≠ 0)
  set d.spillbase && (decide (r.mode = 0) || set d.stagebase) && (decide (r.kind ≠ 2) || set d.poolqbase)

/-- Admit one workgroup of a launch to a core; the number it gets. Its allocation takes a generation first, one of 0 bytes
too, then its warps by index (DESIGN CHOICE, log 79). -/
def admitOne (s : State) (lid : Nat) (x : Launch) (idx c : Nat) (cg : Option Nat) : Option (State × Nat) :=
  let r := x.rec_
  let pool := decide (r.kind = 2)
  let warps := if pool then 0 else r.warps
  match findRoom s c (recSize r), areaFor s x.dev (recUnits r) with
  | some base, some area =>
    if !gensReady s c (1 + warps) || !matrixFree s c r.space then none
    else
      let g := s.nextWg
      let pos := (corePlace s c).2.2.2
      let t := takeGens (clearMatrix s c r.space cg.isSome) c 1
      let y : Wg :=
        { launch := lid, index := idx, core := c, cg := cg, pos := pos, pool := pool, slots := if pool then r.warps else 0,
          nwarps := r.warps, ended := 0, phase := .resident, base := base, size := recSize r, gen := t.2.getD 0 0, bars := [],
          chans := [], laneQ := [], copyQ := [], chanQ := [], appQ := [], left := [], blocked := none, reissue := [], doomed := [], sub := [],
          ck := Ckpt.fresh, twin := none, third := none, primary := true, image := none, saveUnits := 0, ckUnits := recUnits r, ckAt := area,
          heard := [], again := [] }
      let s := { t.1 with nextWg := g + 1, wgs := fput t.1.wgs g y }
      let s := if cg.isSome then s.updSeq (clusterOf s c) fun q => { q with members := fput q.members pos g } else s
      match newWarps c g r (List.range warps) s with
      | none => none
      | some s =>
        if !fitsAll (s.core c) r (poolUnformed s c) then none
        else
          let s := takeArea s x.dev area (recUnits r)
          let im := captureWg s g y
          let start : WgImage := { im with grans := [], privs := [] }
          let cyc := (s.core c).cycle
          some (s.updWg g fun y => { y with ck := { Ckpt.fresh with
            committed := start, die := dieOf c, lastTaken := cyc, tauId := s.nextId, freeId := s.nextId } }, g)
  | _, _ => none

/-- May a cluster group go to these cores: distinct ones of one cluster that serves no other group? -/
def clusterFree (s : State) (cs : List Nat) : Bool :=
  match cs with
  | [] => false
  | c :: _ =>
    cs.all (fun d => decide (clusterOf s d = clusterOf s c)) && decide (cs.eraseDups = cs) && (s.seq (clusterOf s c)).members.isEmpty

/-- Admit the workgroups of one group, one core each. -/
def admitList (lid : Nat) (x : Launch) (cg : Option Nat) : List (Nat × Nat) → State → Option (State × List Nat)
  | [], s => some (s, [])
  | (idx, c) :: r, s =>
    match admitOne s lid x idx c cg with
    | none => none
    | some (s, g) => (admitList lid x cg r s).map fun p => (p.1, g :: p.2)

/-- Admit one copy of a group to its cores. -/
def admitCopy (s : State) (lid : Nat) (x : Launch) (idxs cs : List Nat) : Option (State × List Nat) :=
  if x.rec_.cgsize = 0 then admitList lid x none (idxs.zip cs) s
  else if clusterFree s cs then admitList lid x (some s.nextWg) (idxs.zip cs) s
  else none

/-- May twins stand so: on distinct clusters, and on distinct dies where the device has more than one (R149)? -/
def twinApart (s : State) (as bs : List Nat) : Bool :=
  (as.zip bs).all fun p =>
    decide (clusterOf s p.1 ≠ clusterOf s p.2) && (decide (devDies s.pkg.mode = 1) || decide (dieOf p.1 ≠ dieOf p.2))

/-- Tie the copies of twins together; the second is the secondary. -/
def tieTwins (s : State) (as bs : List Nat) : State :=
  (as.zip bs).foldl (fun s p =>
    (s.updWg p.1 fun x => { x with twin := some p.2 }).updWg p.2 fun x => { x with twin := some p.1, primary := false }) s

/-- Admit groups in turn, each with both copies of a twin. -/
def admitGroups (lid : Nat) (x : Launch) : List (List Nat) → List Nat → State → Option State
  | [], _, s => some s
  | idxs :: gs, cs, s =>
    let n := idxs.length
    let as := cs.take n
    match admitCopy s lid x idxs as with
    | none => none
    | some (s, ps) =>
      if x.rec_.mode ≠ 2 then admitGroups lid x gs (cs.drop n) s
      else
        let bs := (cs.drop n).take n
        if !twinApart s as bs then none
        else
          match admitCopy s lid x idxs bs with
          | none => none
          | some (s, qs) => admitGroups lid x gs (cs.drop (2 * n)) (tieTwins s ps qs)

/-- WORKGROUP_ADMISSION: the next workgroup, cluster group or twin of a launch, or the whole of a persistent one, goes to the
cores chosen, whole and only when everything fits. -/
def execWorkgroupAdmission (launch : Nat) (cores : List Nat) (s : State) : Outcome State Fault Refusal :=
  match fget s.launches launch with
  | none => .next s
  | some x =>
    let r := x.rec_
    let gs := nextGroups r x.next
    let n := (gs.map List.length).sum
    let units := n * recCopies r * recUnits r
    let named := decide (r.kind ≠ 2) || decide (cores.map some = [coreOfIdx s x.dev (r.pcore + x.next)])
    if x.phase ≠ .running ∨ n = 0 ∨ cores.length ≠ n * recCopies r ∨ !named ∨ cores.any (fun c => decide (devOfCore s c ≠ x.dev)) then
      .next s
    else if cores.any fun c => !areasOk s c r then .next (endLaunch s launch 4 0 0 0 false)
    else if (s.dev x.dev).ckptsize < (s.dev x.dev).ckptUsed + units then .next s
    else
      match admitGroups launch x gs cores s with
      | none => .next s
      | some s => .next (s.updLaunch launch fun x => { x with next := x.next + n })

/-! ### POOL_ROOT_PUSH (R40, R46) -/

/-- A root record: three doubles at a virtual address of the launch's space; none if it does not translate. -/
def rootAt (s : State) (k space va : Nat) : Option (Double × Double × Double) :=
  let word (a : Nat) : Option Double :=
    if regionOf a ≠ .paged then none
    else
      match walkPage s k space a with
      | .leaf p _ size => some (BitVec.ofNat 64 (physNat s k (pteAddr p + a % size) 8))
      | .bad .. => none
  match word va, word (va + 8), word (va + 16) with
  | some a, some b, some c => some (a, b, c)
  | _, _, _ => none

/-- Is a root record one a front end takes: bits [63:56] of its pointers zero, its code pointer at a word (R40)? -/
def rootOk (r : Double × Double × Double) : Bool :=
  decide (r.1.toNat % 4 = 0 ∧ r.1.toNat < 2 ^ 56 ∧ r.2.1.toNat < 2 ^ 56 ∧ r.2.2.toNat < 2 ^ 56)

/-- POOL_ROOT_PUSH: once every pool workgroup is placed and each die's pool total leaves room, the root records go to the
front ends; records that cannot be read or taken end the launch INVALID (log 25). -/
def execPoolRootPush (launch : Nat) (s : State) : Outcome State Fault Refusal :=
  match fget s.launches launch with
  | none => .next s
  | some x =>
    let r := x.rec_
    let room (d : Nat) : Bool := poolRoom s d (rootsOn s x.dev r d)
    if x.phase ≠ .running ∨ r.kind ≠ 2 ∨ x.rootsPushed ∨ x.next < r.pncore ∨
        !((diesOfDev s.pkg.mode x.dev).all fun d => decide (rootsOn s x.dev r d = 0) || room d) then .next s
    else
      match allSome ((List.range r.proots).map fun i => rootAt s x.dev r.space (r.roots.toNat + 24 * i)) with
      | none => .next (endLaunch s launch 4 0 0 0 false)
      | some rs =>
        if !rs.all rootOk then .next (endLaunch s launch 4 0 0 0 false)
        else
        let s := rs.zipIdx.foldl (fun s p =>
          match rootCore s x.dev r p.2 with
          | some c => frontPush s c launch p.1.1 p.1.2.1 p.1.2.2
          | none => s) s
        .next (s.updLaunch launch fun x => { x with rootsPushed := true })

/-! ### Completion (R45, R137, R381) -/

/-- Is some access of a launch still on its way, set aside, waiting at a queue, or unanswered? -/
def launchBusy (s : State) (l : Nat) : Bool :=
  let mine (r : Req) : Bool := decide (r.launch = l)
  s.net.any mine || s.aside.any mine || (s.devs.any fun p => p.2.wq.any fun q => (q.2.pops ++ q.2.pushes).any mine) ||
    s.msgs.any fun (m : Msg) => match fget s.wgs m.wg with | some x => decide (x.launch = l) | none => false

/-- Is a copy-aside for a launch's set in progress (one that waits for an item has not begun its copy)? -/
def launchAsides (s : State) (l : Nat) : Bool :=
  s.devs.any fun p => p.2.asides.any fun a => decide (a.launch = l) && a.item.isSome

/-- Are a pool launch's bins, queue entries and warps empty, saved warps among them (R45)? -/
def poolDone (s : State) (l : Nat) (x : Launch) : Bool :=
  let gs := launchWgs s l
  let dies := ((gs.filterMap (fget s.wgs)).map fun g => dieOf g.core).eraseDups
  x.rootsPushed &&
    dies.all fun d =>
      !(s.die d).poolOwner.contains l &&
        (s.cores.filter fun p => decide (dieOf p.1 = d)).all (fun p =>
          p.2.bins.all (fun b => decide (b.2.launch ≠ l)) && !(p.2.warps.any fun w => gs.contains w.2.wg)) &&
        (gs.filterMap (fget s.wgs)).all fun g => match g.image with | some im => im.warps.isEmpty | none => true

/-- Has a running launch nothing left to do: every workgroup admitted and ended, every held entry performed, its asides over?
-/
def launchDone (s : State) (l : Nat) (x : Launch) : Bool :=
  let gs := (launchWgs s l).filterMap (fget s.wgs)
  decide (x.phase = .running ∧ launchSize x.rec_ ≤ x.next) && !launchBusy s l && !launchAsides s l &&
    gs.all (fun g => brineEmpty g && g.reissue.isEmpty) &&
    (if x.rec_.kind = 2 then poolDone s l x else gs.all fun g => decide (g.phase = .ended))

/-- Write n bytes at a packet's address: companion memory when bit 63 is set, else device physical (Table 21.5). -/
def outWrite (s : State) (k a n v : Nat) : State :=
  if 2 ^ 63 ≤ a then { s with cmem := memWriteNat s.cmem (a - 2 ^ 63) n v } else physWrite s k a n v

/-- Read n bytes at a packet's address. -/
def outNat (s : State) (k a n : Nat) : Nat :=
  if 2 ^ 63 ≤ a then memNat s.cmem (a - 2 ^ 63) n else physNat s k a n

/-- The completion record (Table 21.7). -/
def completionWords (x : Launch) : Nat :=
  let trap := decide (x.status = 1)
  (if trap then x.tpc.toNat * 2 ^ 192 + x.wgidx % 2 ^ 64 * 2 ^ 128 else 0) + x.id % 2 ^ 32 * 2 ^ 96 + x.tag % 2 ^ 32 * 2 ^ 64 +
    2 ^ 31 + x.attempt % 4 * 2 ^ 16 + bit x.double * 2 ^ 14 + x.cause % 64 * 2 ^ 8 + x.status % 256

/-- The queue of a launch forgets its packet: a LAUNCH completes when its launch does (R378). -/
def closePacket (s : State) (l : Nat) (x : Launch) : State :=
  s.updQueue x.dev x.queue fun q => { q with open_ := q.open_.filter fun p => decide (p.launch ≠ some l) }

/-- LAUNCH_COMPLETE: a launch that is done ends DONE; an ended one writes its record once, gives its snapshot items back, and
is forgotten when nothing of it is under way. -/
def execLaunchComplete (launch : Nat) (s : State) : Outcome State Fault Refusal :=
  match fget s.launches launch with
  | none => .next s
  | some x =>
    let s := if launchDone s launch x then endLaunch s launch 0 0 0 0 false else s
    match fget s.launches launch with
    | none => .next s
    | some x =>
      if x.phase ≠ .ended ∨ launchAsides s launch then .next s
      else
        let s := if x.comp = 0 then s else outWrite s x.dev x.comp.toNat 32 (completionWords x)
        let s := closePacket (snapEnd s launch) launch x
        let s := s.updLaunch launch fun x => { x with comp := 0 }
        if launchBusy s launch then .next s
        else .next { forgetWgs s with launches := fdel (forgetWgs s).launches launch }

/-! ### Abort and replay (R384, R404, R419) -/

/-- The launch of a device that bears a LAUNCHID and has not ended. -/
def launchOfId (s : State) (k id : Nat) : Option (Nat × Launch) :=
  s.launches.find? fun p => decide (p.2.dev = k ∧ p.2.id = id ∧ p.2.phase ≠ .ended)

/-- LAUNCH_ABORT: a write of ABORT tears the launch down, saved contexts too; it ends CANCELLED (R384). -/
def execLaunchAbort (dev : Nat) (id : BitVec 32) (s : State) : Outcome State Fault Refusal :=
  match launchOfId s dev id.toNat with
  | some (l, _) => .next (if devOpen s dev then endLaunch s l 5 0 0 0 false else s)
  | none => .next s

/-- POD_REPLAY: a write of PODREPLAY replays a launch that is resident, saved or pending, cause 0 (R419). One still pending
has run nothing: its attempt rises. -/
def execPodReplay (dev : Nat) (id : BitVec 32) (s : State) : Outcome State Fault Refusal :=
  match launchOfId s dev id.toNat with
  | none => .next s
  | some (l, x) =>
    if !devOpen s dev then .next s
    else if x.phase = .pending then
      .next (if 3 ≤ x.attempt then endEarly s l 2 else s.updLaunch l fun x => { x with attempt := x.attempt + 1 })
    else .next (startReplay s l (dieAt s.pkg.mode dev 0) 0)

/-- REPLAY_RESTORE: once every access of the launch has performed and no copy-aside runs, the logged items go back into their
pages and the launch runs again; a poisoned item ends it (R404). -/
def execReplayRestore (launch : Nat) (s : State) : Outcome State Fault Refusal :=
  match fget s.launches launch with
  | none => .next s
  | some x =>
    if x.phase ≠ .replaying ∨ launchBusy s launch ∨ launchAsides s launch then .next s
    else if x.log.any fun i => poisoned s x.dev i.item 65536 then .next (endLaunch s launch 2 0x12 0 0 false)
    else
      let s := x.log.foldl (fun s i => physCopy s x.dev i.item i.page 65536) s
      .next ((clearCode s x.dev).updLaunch launch fun x => { x with phase := .running, attempt := x.attempt + 1 })

end Sys2Proof.Machine
end

