-- ==== Sys2Proof/Machine/Mesh.lean ====
section
/-! DEFINITION. The mesh of a die (R78, R349 to R352): routers, their outputs' arbitration, urgent packets. Inputs and outputs
are numbered local 0, west 1, north 2, east 3, south 4; rows count southward. -/

namespace Sys2Proof.Machine

open Host (Outcome)

/-- The router at a column and row. -/
def routerOf (d : Die) (x y : Nat) : Router := (fget d.routers (x * 16 + y)).getD Router.reset
/-- Change a router. -/
def updRouter (d : Die) (x y : Nat) (f : Router → Router) : Die :=
  { d with routers := fput d.routers (x * 16 + y) (f (routerOf d x y)) }
/-- An output of a router. -/
def outOf (r : Router) (o : Nat) : RouterOut := (fget r.outs o).getD RouterOut.reset
/-- The packets queued at an input on a channel. -/
def inQueue (r : Router) (i vc : Nat) : List Packet := (fget r.inq (i * 4 + vc)).getD []
/-- Change a queue. -/
def setQueue (r : Router) (i vc : Nat) (ps : List Packet) : Router :=
  { r with inq := if ps.isEmpty then fdel r.inq (i * 4 + vc) else fput r.inq (i * 4 + vc) ps }

/-- The output a packet takes: along x first, then along y (R349). -/
def routeOut (x y : Nat) (p : Packet) : Nat :=
  if p.dx < x then 1 else if x < p.dx then 3 else if p.dy < y then 2 else if y < p.dy then 4 else 0

/-- The router an output leads to, and its input there; none for the local output. -/
def nextHop (x y o : Nat) : Option (Nat × Nat × Nat) :=
  match o with
  | 1 => if 0 < x then some (x - 1, y, 3) else none
  | 2 => if 0 < y then some (x, y - 1, 4) else none
  | 3 => if x < 16 then some (x + 1, y, 1) else none
  | 4 => if y < 9 then some (x, y + 1, 2) else none
  | _ => none

/-- Flits of an input's head packet that have already left through an output that holds it. -/
def headPassed (r : Router) (i vc : Nat) : Nat :=
  match inQueue r i vc with
  | [] => 0
  | p :: _ => ((List.range 5).map fun o => match (outOf r o).holder with | some (j, c, left) => if j = i ∧ c = vc then p.flits - left else 0 | none => 0).sum

/-- Flits that have come into an input from the packet its upstream output is passing. -/
def headComing (d : Die) (x y i vc : Nat) : Nat :=
  match nextHop x y i with
  | none => 0
  | some (ux, uy, o) =>
    let r := routerOf d ux uy
    match (outOf r o).holder with
    | some (j, c, left) => if c = vc then (match inQueue r j c with | p :: _ => p.flits - left | [] => 0) else 0
    | none => 0

/-- Does the queue an output feeds signal go: more than 4 of its 16 places free (R350)? The slice behind the local output stops
requests while 128 are queued there (R264). -/
def outGoes (d : Die) (x y o vc : Nat) : Bool :=
  match nextHop x y o with
  | none => !(routerOf d x y).full || decide (2 ≤ vc)
  | some (nx, ny, i) =>
    let r := routerOf d nx ny
    let used := ((inQueue r i vc).map Packet.flits).sum - headPassed r i vc + headComing d nx ny i vc
    decide (used + 4 < 16)

/-- The packet at the head of an input's queue that is eligible at an output (R350). -/
def eligible (d : Die) (x y o i vc : Nat) : Option Packet :=
  match inQueue (routerOf d x y) i vc with
  | p :: _ => if routeOut x y p = o ∧ outGoes d x y o vc then some p else none
  | [] => none

/-- All inputs and channels with an eligible packet at an output, in input order, then by channel. -/
def eligibles (d : Die) (x y o : Nat) : List (Nat × Nat × Packet) :=
  (List.range 5).flatMap fun i => (List.range 4).filterMap fun vc => (eligible d x y o i vc).map fun p => (i, vc, p)

/-- The urgent packet that became urgent first. -/
def urgentFirst (es : List (Nat × Nat × Packet)) : Option (Nat × Nat) :=
  let best := es.foldl (fun (b : Option (Nat × Nat × Nat)) e =>
    match e.2.2.urgent, b with
    | some t, some q => if t < q.1 then some (t, e.1, e.2.1) else b
    | some t, none => some (t, e.1, e.2.1)
    | none, _ => b) none
  best.map Prod.snd

/-- The channel whose turn it is: the current one below its weight, else the next with an eligible packet; whether the turn
moved. -/
def channelTurn (weights : List Nat) (r : RouterOut) (has : Nat → Bool) : Option (Nat × Bool) :=
  if has r.vc && decide (r.grants < weights.getD r.vc 1) then some (r.vc, false)
  else ((List.range 4).map fun n => (r.vc + 1 + n) % 4).findSome? fun v => if has v then some (v, true) else none

/-- The input whose turn it is on a channel. -/
def inputTurn (last : Nat) (has : Nat → Bool) : Option Nat := ((List.range 5).map fun n => (last + 1 + n) % 5).find? has

/-- The meshWinner at a free output, and the output after its grant (R351). -/
def meshWinner (weights : List Nat) (r : RouterOut) (es : List (Nat × Nat × Packet)) : Option (Nat × Nat × RouterOut) :=
  match urgentFirst es with
  | some (i, vc) => some (i, vc, { r with last := setAt r.last vc i })
  | none =>
    match channelTurn weights r fun v => es.any fun e => decide (e.2.1 = v) with
    | none => none
    | some (vc, moved) =>
      (inputTurn (r.last.getD vc 4) fun i => es.any fun e => decide (e.1 = i ∧ e.2.1 = vc)).map fun i =>
        (i, vc, { r with vc := vc, grants := if moved then 1 else r.grants + 1, last := setAt r.last vc i })

/-- The eligible packets that lose age by one. -/
def ageLosers (d : Die) (x y : Nat) (es : List (Nat × Nat × Packet)) (win : Option (Nat × Nat)) : Die :=
  es.foldl (fun d e =>
    if some (e.1, e.2.1) = win then d
    else
      updRouter d x y fun r =>
        match inQueue r e.1 e.2.1 with
        | p :: ps => setQueue r e.1 e.2.1 ({ p with age := p.age + 1 } :: ps)
        | [] => r) d

/-- A packet has arrived: its requests stand last in their slice's queue, in order of arrival (R264), or its message is there. -/
def arrivePacket (s : State) (p : Packet) : State :=
  if p.back then
    match s.msgs.findIdx? fun m => decide (m.req = p.req ∧ m.flits ≠ 0) with
    | some i => { s with msgs := s.msgs.zipIdx.map fun q => if q.2 = i then { q.1 with flits := 0 } else q.1 }
    | none => s
  else
    let ids := p.req :: p.more
    let mine (r : Req) : Bool := ids.contains r.id
    { s with net := (s.net.filter fun r => !mine r) ++ (s.net.filter mine).map fun r => { r with inMesh := false } }

/-- One flit of the holder passes; with its tail the packet stands in the next queue, or has arrived. -/
def passFlit (s : State) (die x y o : Nat) (r : RouterOut) (i vc left : Nat) : State :=
  let d := s.die die
  if 1 < left then s.setDie die (updRouter d x y fun q => { q with outs := fput q.outs o { r with holder := some (i, vc, left - 1) } })
  else
    let ps := inQueue (routerOf d x y) i vc
    let d := updRouter d x y fun q => setQueue { q with outs := fput q.outs o { r with holder := none } } i vc (ps.drop 1)
    match ps, nextHop x y o with
    | p :: _, some (nx, ny, j) =>
      s.setDie die (updRouter d nx ny fun q => setQueue q j vc (inQueue q j vc ++ [{ p with age := 0, urgent := none }]))
    | p :: _, none => arrivePacket (s.setDie die d) p
    | [], _ => s.setDie die d

/-- A packet that has lost 32 times is urgent from the next cycle on (R352). -/
def urge (cycle : Nat) (p : Packet) : Packet :=
  if Config.urgentAge ≤ p.age ∧ p.urgent.isNone then { p with urgent := some cycle } else p

/-- The heads of a router's queues that an output takes, urged. -/
def urgeHeads (d : Die) (x y o : Nat) : Die :=
  updRouter d x y fun r =>
    { r with inq := r.inq.map fun q =>
        (q.1, match q.2 with | p :: ps => (if routeOut x y p = o then urge d.cycle p else p) :: ps | [] => []) }

/-- A router's packets wait no more: a sample of the cycles in which the granted one was eligible and lost, of the core that
stands there (R412). DESIGN CHOICE (log 87): each router that a packet crosses grants it, and gives a sample. -/
def waitSample (s : State) (die x y i vc : Nat) : State :=
  match inQueue (routerOf (s.die die) x y) i vc, coreStanding s die x y with
  | p :: _, some c => noteSample s die 8 (some c) p.age
  | _, _ => s

/-- MESH_ARBITRATION: one cycle at a router output (R350, R351). -/
def execMeshArbitration (die x y out : Nat) (s : State) : Outcome State Fault Refusal :=
  let d := s.die die
  let r := outOf (routerOf d x y) out
  if 17 ≤ x ∨ 10 ≤ y ∨ 5 ≤ out ∨ d.stopped ∨ r.cycle = some d.cycle then .next s
  else
    let d := urgeHeads d x y out
    let s := s.setDie die d
    let es := eligibles d x y out
    let r := { r with cycle := some d.cycle }
    match r.holder with
    | some (i, vc, left) =>
      let others := es.filter fun e => !decide (e.1 = i ∧ e.2.1 = vc)
      let s := s.setDie die (ageLosers d x y others none)
      if outGoes d x y out vc then .next (passFlit s die x y out r i vc left)
      else .next (s.updDie die fun d => updRouter d x y fun q => { q with outs := fput q.outs out r })
    | none =>
      match meshWinner d.weights r es with
      | none => .next s
      | some (i, vc, r) =>
        let s := (waitSample s die x y i vc).updDie die fun d => ageLosers d x y es (some (i, vc))
        let n := match inQueue (routerOf d x y) i vc with | p :: _ => p.flits | [] => 1
        .next (passFlit s die x y out r i vc n)

/-- PACKET_URGENT: the packet at the head of a queue has lost 32 times; it is urgent from the next cycle of its output on, whose
arbitration does not wait for this (R352). -/
def execPacketUrgent (die x y input vc : Nat) (s : State) : Outcome State Fault Refusal :=
  let d := s.die die
  match inQueue (routerOf d x y) input vc with
  | [] => .next s
  | p :: ps =>
    if (outOf (routerOf d x y) (routeOut x y p)).cycle = some d.cycle then .next s
    else .next (s.setDie die (updRouter d x y fun r => setQueue r input vc (urge d.cycle p :: ps)))

/-! ### Packets enter at the local input (R349, R350) -/

/-- Packets of a die for a request, or of answers to it. -/
def packetsFor (d : Die) (back : Bool) (id : Nat) : Nat :=
  (d.routers.map fun r => ((r.2.inq.flatMap Prod.snd).filter fun p => decide (p.back = back) && (p.req :: p.more).contains id).length).sum

/-- Does the local input of a router signal go on a channel? -/
def localGoes (d : Die) (x y vc : Nat) : Bool :=
  let r := routerOf d x y
  decide (((inQueue r 0 vc).map Packet.flits).sum - headPassed r 0 vc + 4 < 16)

/-- Put a packet into the local input of a core's router. -/
def enterMesh (s : State) (src : Nat) (p : Packet) : State :=
  let a := meshAt s src
  s.updDie (dieOf src) fun d => updRouter d a.1 a.2 fun r => setQueue r 0 p.vc (inQueue r 0 p.vc ++ [p])

/-- Is a request the copy write whose chunk follows another's in the same 512 bytes of a box row, to the same place (Table
17.5)? -/
def rowFollows (s : State) (q r : Req) : Bool :=
  decide (q.core = r.core ∧ q.cmd = r.cmd ∧ r.cmd ≠ none ∧ q.unit = r.unit ∧ reqHome s q = reqHome s r) &&
    (match q.lanes, r.lanes with | [a], [b] => decide (a.at_ + 16 = b.at_) | _, _ => false)

/-- The copy writes that follow one in its 512 bytes of a box row and wait to enter the mesh with it, at most so many. -/
def rowMates (s : State) : Nat → Req → List Req
  | 0, _ => []
  | n + 1, q =>
    match s.net.find? fun r => r.inMesh && rowFollows s q r && decide (packetsFor (s.die (dieOf r.core)) false r.id = 0) with
    | some r => r :: rowMates s n r
    | none => []

/-- Has a chunk that follows one in its 512 bytes of a box row yet to leave Brine, as it can now? The packet waits for it. -/
def mateComes (s : State) (q : Req) : Bool :=
  match fget s.wgs q.wg with
  | some x => (match x.copyQ with | r :: _ => rowFollows s q r && mayLeave s q.wg x .copy r | [] => false)
  | none => false

/-- Does a copy write come after another of its 512 bytes of a box row that has yet to enter the mesh? -/
def rowLater (s : State) (r : Req) : Bool :=
  s.net.any fun q => q.inMesh && rowFollows s q r && decide (packetsFor (s.die (dieOf q.core)) false q.id = 0)

/-- A request whose packet is not in the mesh yet enters it, if the local input goes: the chunks of 512 bytes of a box row that go
to one place in one packet (Table 17.5). -/
def enterReq (s : State) (r : Req) : State :=
  let d := s.die (dieOf r.core)
  let a := meshAt s r.core
  let copy := decide (r.path = .copy)
  let vc := if copy then 1 else 0
  let mates := if copy then rowMates s 31 r else []
  if packetsFor d false r.id ≠ 0 || !localGoes d a.1 a.2 vc || (copy && (rowLater s r || mateComes s (mates.getLastD r))) then s
  else
    match reqHome s r with
    | some h =>
      let b := meshAt s h
      let flits := if copy then 1 + (16 * (mates.length + 1) + 63) / 64 else 1
      enterMesh s r.core
        { req := r.id, back := false, more := mates.map Req.id, vc := vc, flits := flits, dx := b.1, dy := b.2, age := 0, urgent := none }
    | none => s

/-- The next answer to a request enters the mesh, if the local input of its core goes (R77). -/
def enterMsg (s : State) (id : Nat) : State :=
  let ms := s.msgs.filter fun m => decide (m.req = id ∧ m.flits ≠ 0)
  match ms.head? with
  | none => s
  | some m =>
    let d := s.die (dieOf m.src)
    let a := meshAt s m.src
    let b := meshAt s m.core
    match (ms.drop (packetsFor d true id)).head? with
    | some m =>
      if localGoes d a.1 a.2 2 then
        enterMesh s m.src
          { req := id, back := true, more := [], vc := 2, flits := m.flits, dx := b.1, dy := b.2, age := 0, urgent := none }
      else s
    | none => s

/-- Requests queued at a slice (R264); one on its way from another die counts from its sending (log 22). -/
def sliceQueued (s : State) (c : Nat) : Nat :=
  (s.net.filter fun r => !r.inMesh && (match r.target with | .mem _ => decide (reqHome s r = some c) | _ => false)).length

/-- What a cycle of a die brings to its local inputs, and the slices that are full. -/
def meshTick (s : State) (d : Nat) : State :=
  let s := (s.net.filter fun r => r.inMesh && decide (dieOf r.core = d)).foldl enterReq s
  let s := ((s.msgs.filter fun m => decide (m.flits ≠ 0 ∧ dieOf m.src = d)).map Msg.req).eraseDups.foldl enterMsg s
  let tag (p : Nat × Router) : Nat × Router :=
    let homes := s.cores.filter fun q => decide (dieOf q.1 = d) && decide ((meshAt s q.1).1 * 16 + (meshAt s q.1).2 = p.1)
    (p.1, { p.2 with full := homes.any fun q => decide (128 ≤ sliceQueued s q.1) })
  s.updDie d fun x => { x with routers := x.routers.map tag }

end Sys2Proof.Machine
end

