-- ==== Sys2Proof/Machine/Queue.lean ====
section
/-! DEFINITION. Command queues (R373, R375, R376), packets (R377 to R379), turns, slices and steals (R382, R383, R385), and
DAWN (R386). -/

namespace Sys2Proof.Machine

open Host (Outcome)

/-! ### Queues -/

/-- May a queue's registers be used: its device exists, and boot has reached STAGE 6 (R373, R407)? -/
def queueUsable (s : State) (k q : Nat) : Bool := devExists s k && decide (s.pkg.stage = 6 ∧ q < 256)
/-- The die of HOMEDIE. -/
def homeDieOf (s : State) (k q : Nat) : Nat := dieAt s.pkg.mode k ((s.queue k q).homedie % devDies s.pkg.mode)
/-- The scheduler cycles of a queue's owner. -/
def schedNow (s : State) (k q : Nat) : Nat := (s.die (s.queue k q).owner).sched
/-- Does a queue stand at a packet boundary: no packet, or a WAIT whose condition does not hold (R379)? -/
def atBoundary (q : CQueue) : Bool := match q.cur with | none => true | some p => q.waiting && decide (p.type = 2)
/-- The command queues of a device that were ever used. -/
def queuesOf (s : State) (k : Nat) : List Nat := (s.queues.filter fun p => decide (p.1 / 256 = k)).map fun p => p.1 % 256

/-- QUEUE_ENABLE: a write that changes EN from 0 to 1 starts fetching at RIDX; one with LOG2N outside 4 to 16 or QBASE
misaligned is ignored. -/
def execQueueEnable (dev q : Nat) (s : State) : Outcome State Fault Refusal :=
  let x := s.queue dev q
  if !queueUsable s dev q || x.en || !decide (4 ≤ x.log2n ∧ x.log2n ≤ 16 ∧ x.qbase % 64 = 0) then .next s
  else
    let d := homeDieOf s dev q
    .next (s.updQueue dev q fun x =>
      { x with en := true, state := 1, err := 0, erridx := 0, owner := d, since := (s.die d).sched, thief := none })

/-- QUEUE_DISABLE: EN = 0 stops fetching at the next boundary; a standing WAIT is left where it is. -/
def execQueueDisable (dev q : Nat) (s : State) : Outcome State Fault Refusal :=
  if !queueUsable s dev q then .next s
  else
    .next (s.updQueue dev q fun x =>
      let stands := match x.cur with | some p => x.waiting && decide (p.type = 2) | none => false
      { x with en := false, state := 0, cur := if stands then none else x.cur, waiting := x.waiting && !stands })

/-- A queue loses its turn: it waits from now (R383). -/
def endTurn (s : State) (k q : Nat) : State :=
  let x := s.queue k q
  let now := schedNow s k q
  let s := if (s.die x.owner).turn = some (k * 256 + q) then s.updDie x.owner fun d => { d with turn := none } else s
  s.updQueue k q fun x => { x with turnFrom := none, lapsed := false, since := now }

/-- A queue stops on an error (Table 21.4). -/
def stopQueue (s : State) (k q err : Nat) : State :=
  (endTurn s k q).updQueue k q fun x => { x with state := 2, err := err, erridx := x.ridx % 2 ^ 32 }

/-- QUEUE_KICK: the largest value counts; one beyond the ring stops the queue (R376). -/
def execQueueKick (dev q : Nat) (v : BitVec 64) (s : State) : Outcome State Fault Refusal :=
  let x := s.queue dev q
  if !queueUsable s dev q || decide (v.toNat ≤ x.kick) then .next s
  else if x.ridx + 2 ^ x.log2n < v.toNat then .next (stopQueue s dev q 3)
  else .next (s.updQueue dev q fun x => { x with kick := v.toNat })

/-! ### Packets (Tables 21.3 and 21.5) -/

/-- n slots of a ring from a slot on, as a number. -/
def slotsNat (s : State) (x : CQueue) (first n : Nat) : Nat :=
  ((List.range n).map fun i => memNat s.cmem ((x.qbase + 64 * ((first + i) % 2 ^ x.log2n)) % 2 ^ 63) 64 * 2 ^ (512 * i)).sum

/-- SLOTS of a packet type; none is not assigned. -/
def typeSlots (t : Nat) : Option Nat := if t = 1 then some 5 else if 2 ≤ t ∧ t ≤ 8 then some 1 else none

/-- A double of a packet at a byte offset. -/
def bodyAt (b off : Nat) : Nat := b / 2 ^ (8 * off) % 2 ^ 64

/-- The bytes of a packet's header and fields; those after them are reserved. -/
def typeUsed (t : Nat) : Nat :=
  match t with
  | 1 => 16
  | 4 => 64
  | 7 => 8
  | 8 => 16
  | _ => 32

/-- The address fields of a packet that are 8-byte aligned. -/
def typeAddrs (t : Nat) : List Nat :=
  match t with
  | 4 => [8, 16]
  | 5 | 7 => []
  | _ => [8]

/-- The ERR of a packet, 0 for none. -/
def packetErr (s : State) (k b : Nat) : Nat :=
  let t := b % 256
  match typeSlots t with
  | none => 1
  | some n =>
    let pages := bodyAt b 16
    let len := bodyAt b 24
    if n ≠ b / 256 % 16 then 2
    else if bitsOf b 31 16 ≠ 0 ∨ bitsOf b 14 12 ≠ 0 ∨ bitsOf b 511 (8 * typeUsed t) ≠ 0 then 4
    else if t = 1 ∧ recReserved (b / 2 ^ 512) then 4
    else if (typeAddrs t).any fun o => decide (bodyAt b o % 8 ≠ 0) then 4
    else if (t = 2 ∨ t = 3) ∧ 1 < len then 4
    else if t = 5 ∧ (len = 0 ∨ 2 ^ 20 < len) then 4
    else if t = 6 ∧ (pages = 0 ∨ 64 < pages ∨ !devExists s len ∨ len = k) then 4
    else 0

/-- Is a slot's packet ready to start: kicked whole, and not held by BARRIER (R375, R378)? -/
def packetReady (s : State) (x : CQueue) : Bool :=
  let h := slotsNat s x x.ridx 1
  let t := h % 256
  let whole := match typeSlots t with | some n => decide (n ≠ h / 256 % 16 ∨ x.ridx + n ≤ x.kick) | none => true
  let barrier := h.testBit 15 || [3, 4, 6, 7, 8].contains t
  decide (x.ridx < x.kick) && whole && (!barrier || x.open_.isEmpty)

/-- Is a queue ready: running, at a boundary with a packet to start, its device not in a DAWN or a mode change? -/
def queueReady (s : State) (k q : Nat) : Bool :=
  let x := s.queue k q
  x.en && decide (x.state = 1) && x.cur.isNone && !s.pkg.busy && (s.dev k).dawn.isEmpty &&
    !((queuesOf s k).any fun p => match (s.queue k p).cur with | some c => decide (c.type = 8) | none => false) && packetReady s x

/-- The queues a die's scheduler owns, by device and number (R383). -/
def runList (s : State) (d : Nat) : List (Nat × Nat) :=
  (s.queues.filter fun p => p.2.en && decide (p.2.owner = d)).map fun p => (p.1 / 256, p.1 % 256)

/-- Since when a ready queue waits, by its scheduler's clock (R383): one that its scheduler has not seen ready before, since
now. -/
def waitsSince (s : State) (k q : Nat) : Nat := let x := s.queue k q; if x.ready then x.since else schedNow s k q

/-- A die's scheduler looks which of its queues are ready. -/
def lookReady (s : State) (d : Nat) : State :=
  (runList s d).foldl (fun s p =>
    let now := queueReady s p.1 p.2
    if now = (s.queue p.1 p.2).ready then s
    else s.updQueue p.1 p.2 fun x => { x with ready := now, since := if now then (s.die d).sched else x.since }) s

/-- Cycles of a die's scheduler core, after a look at its queues. -/
def tickSched (s : State) (d n : Nat) : State := (lookReady s d).updDie d fun x => { x with sched := x.sched + n }

/-- Is another owned queue of equal or higher PRIO ready? -/
def rivalReady (s : State) (k q : Nat) : Bool :=
  let x := s.queue k q
  (runList s x.owner).any fun p => decide (p ≠ (k, q) ∧ x.prio ≤ (s.queue p.1 p.2).prio) && queueReady s p.1 p.2

/-- Has a queue's slice passed? -/
def sliceOver (s : State) (k q : Nat) : Bool :=
  let x := s.queue k q
  decide (x.slice ≠ 0) && (match x.turnFrom with | some t => decide (t + 4096 * x.slice ≤ schedNow s k q) | none => false)

/-- Is a die's command processor inside a packet of another queue? -/
def dieBusy (s : State) (k q : Nat) : Bool :=
  (s.queues.filter fun p => decide (p.2.owner = (s.queue k q).owner)).any fun p =>
    decide (p.1 ≠ k * 256 + q) && p.2.cur.isSome && !p.2.waiting

/-- A queue begins its turn; the one that had it waits from now. -/
def beginTurn (s : State) (k q : Nat) : State :=
  let x := s.queue k q
  let key := k * 256 + q
  if (s.die x.owner).turn = some key then s
  else
    let s := match (s.die x.owner).turn with | some p => endTurn s (p / 256) (p % 256) | none => s
    let now := schedNow s k q
    (s.updDie x.owner fun d => { d with turn := some key }).updQueue k q fun x => { x with turnFrom := some now, lapsed := false }

/-- May the owner of a queue read its packet at RIDX now? -/
def fetches (s : State) (k q : Nat) : Bool := queueReady s k q && !dieBusy s k q && !(sliceOver s k q && rivalReady s k q)

/-- A slot read fails over UCL: the queue stops (Table 21.4). -/
def slotFault (s : State) (k q : Nat) : State := if fetches s k q then stopQueue s k q 5 else s

/-- PACKET_FETCH: the packet at RIDX of a ready queue is read by the queue's owner, or stops the queue (R375, R378, R383). -/
def execPacketFetch (dev q : Nat) (s : State) : Outcome State Fault Refusal :=
  if !fetches s dev q then .next s
  else
    let x := s.queue dev q
    let s := beginTurn s dev q
    let n := (typeSlots (slotsNat s x x.ridx 1 % 256)).getD 1
    let b := slotsNat s x x.ridx n
    let e := packetErr s dev b
    if e ≠ 0 then .next (stopQueue s dev q e)
    else
      .next (s.updQueue dev q fun x =>
        { x with cur := some { type := b % 256, first := x.ridx, slots := n, body := b, launch := none, grace := none }, waiting := false })

/-! ### DAWN (Table 21.8) -/

/-- PMODE as read. -/
def pmodeWord (s : State) : Nat := s.pkg.mode + bit s.pkg.refused * 2 ^ 7 + bit s.pkg.busy * 2 ^ 8
/-- PCFG of a device as read. -/
def pcfgWord (s : State) (k : Nat) : Nat :=
  let d := s.dev k
  if devExists s k then d.hcshare + d.role * 2 ^ 8 + d.clkpt * 2 ^ 9 else 0
/-- ORIENT of a die (R371). -/
def orientWord (s : State) (d : Nat) : Nat := d + devOfDie s.pkg.mode d * 4 + posOfDie s.pkg.mode d * 16
/-- QSTAT of a queue. -/
def qstatWord (x : CQueue) : Nat := x.erridx * 2 ^ 32 + x.err * 2 ^ 4 + x.state

/-- The state of a launch in flight: admitted, running, partly or wholly saved, replaying. -/
def launchState (s : State) (l : Nat) (x : Launch) : Nat :=
  let gs := ((launchWgs s l).filterMap (fget s.wgs)).filter fun g => decide (g.phase ≠ .ended)
  let saved := gs.filter fun g => decide (g.phase = .saved)
  match x.phase with
  | .replaying => 4
  | .pending | .ended => 0
  | .running => if x.next = 0 then 0 else if saved.isEmpty then 1 else if saved.length = gs.length then 3 else 2

/-- A list of fields (bytes, value) laid out from the lowest byte. -/
def layFields : List (Nat × Nat) → Nat
  | [] => 0
  | (n, v) :: fs => v % 2 ^ (8 * n) + 2 ^ (8 * n) * layFields fs

/-- The summary record of a device and its length; the places of fields inside a row are the model's (log 26). -/
def dawnRecord (s : State) (k : Nat) : Nat × Nat :=
  let d := s.dev k
  let live := s.launches.filter fun p => decide (p.2.dev = k ∧ p.2.phase ≠ .ended)
  let n := 8384 + 32 * live.length
  let head :=
    [(4, 1), (4, n), (4, pmodeWord s), (4, pcfgWord s k), (4, orientWord s 0), (4, orientWord s 1), (4, orientWord s 2), (4, orientWord s 3),
     (4, d.vesper.f), (4, d.vesper.c), (4, d.vesper.phase), (4, d.retire.length), (8, d.fqcons), (8, d.fqprod),
     (64, s.pkg.repair.toNat), (64, s.pkg.meas.toNat)]
  let queues := (List.range 256).flatMap fun q =>
    let x := s.queue k q
    [(8, x.kick), (8, x.ridx), (8, qstatWord x), (8, if x.en then x.owner else homeDieOf s k q)]
  let rows := live.flatMap fun p =>
    [(4, p.2.id), (4, p.2.queue), (8, p.2.slot), (4, launchState s p.1 p.2), (4, p.2.attempt), (8, 0)]
  (layFields (head ++ queues ++ rows), n)

/-- Write the summary of a device. -/
def dawnWrite (s : State) (k a : Nat) : State := let r := dawnRecord s k; outWrite s k a r.2 r.1

/-- Do all queues of a device stand at a boundary, but for one that works on a DAWN, which waits for the others (R386)? -/
def allBoundary (s : State) (k : Nat) : Bool :=
  (queuesOf s k).all fun q => atBoundary (s.queue k q) || (match (s.queue k q).cur with | some p => decide (p.type = 8) | none => false)

/-- Pending DAWN requests of a device are answered in order once every queue stands at a boundary. -/
def dawnSettle (s : State) (k : Nat) : State :=
  if allBoundary s k then
    (s.dev k).dawn.foldl (fun s a => dawnWrite s k a) s |>.updDev k fun d => { d with dawn := [] }
  else s

/-- DAWN_REQUEST: a write of DAWNREG holds fetch at the next boundary of every queue and takes the snapshot there. -/
def execDawnRequest (dev : Nat) (addr : BitVec 64) (s : State) : Outcome State Fault Refusal :=
  if !devOpen s dev then .next s
  else .next (dawnSettle (s.updDev dev fun d => { d with dawn := d.dawn ++ [addr.toNat] }) dev)

/-! ### The packets' effects (Table 21.5) -/

/-- A packet ends: RIDX advances by its SLOTS, and a lapsed slice ends the turn. -/
def packetEnd (s : State) (k q : Nat) : State :=
  match (s.queue k q).cur with
  | none => s
  | some p =>
    let s := s.updQueue k q fun x => { x with ridx := p.first + p.slots, cur := none, waiting := false }
    dawnSettle (if (s.queue k q).lapsed then endTurn s k q else s) k

/-- The packet of a type a queue works on. -/
def packetOf (s : State) (k q t : Nat) : Option QPacket := (s.queue k q).cur.filter fun p => decide (p.type = t)

/-- A WAIT stands at a boundary until it can go on. -/
def packetStand (s : State) (k q : Nat) : State := dawnSettle (s.updQueue k q fun x => { x with waiting := true }) k

/-- LAUNCH_PACKET: the launch is entered and admitted; a persistent launch is admitted when all of it is resident. Until then
the queue is inside the packet (R379). -/
def execLaunchPacket (dev q : Nat) (s : State) : Outcome State Fault Refusal :=
  match packetOf s dev q 1 with
  | none => .next s
  | some p =>
    let r :=
      match p.launch with
      | some l => (s, l)
      | none =>
        launchNew s dev q p.first (p.body / 2 ^ 32 % 2 ^ 32) (BitVec.ofNat 64 (bodyAt p.body 8)) (recOf (p.body / 2 ^ 512 % 2 ^ 2048))
    let p := { p with launch := some r.2 }
    let s := launchAdmit (r.1.updQueue dev q fun x => { x with cur := some p }) r.2
    match fget s.launches r.2 with
    | none => .next (packetEnd s dev q)
    | some x =>
      if x.phase = .pending ∨ (x.phase = .running ∧ x.rec_.kind = 1 ∧ x.next < launchSize x.rec_) then .next s
      else .next (packetEnd (s.updQueue dev q fun y => { y with open_ := y.open_ ++ [p] }) dev q)

/-- Does a WAIT's condition hold: an acquire read at sys scope (R378)? -/
def waitHolds (s : State) (k : Nat) (p : QPacket) : Bool :=
  let v := outNat s k (bodyAt p.body 8) 8
  if bodyAt p.body 24 = 0 then decide (v = bodyAt p.body 16) else decide (bodyAt p.body 16 ≤ v)

/-- WAIT_PACKET: the queue goes on when the condition holds, else stands at the boundary. -/
def execWaitPacket (dev q : Nat) (s : State) : Outcome State Fault Refusal :=
  match packetOf s dev q 2 with
  | none => .next s
  | some p => .next (if waitHolds s dev p then packetEnd s dev q else packetStand s dev q)

/-- WAIT_CONDITION_MET: a standing WAIT sees its condition. -/
def execWaitConditionMet (dev q : Nat) (s : State) : Outcome State Fault Refusal :=
  match packetOf s dev q 2 with
  | none => .next s
  | some p => .next (if (s.queue dev q).waiting && waitHolds s dev p then packetEnd s dev q else s)

/-- SIGNAL_PACKET: one 8-byte write or add at sys scope. -/
def execSignalPacket (dev q : Nat) (s : State) : Outcome State Fault Refusal :=
  match packetOf s dev q 3 with
  | none => .next s
  | some p =>
    let a := bodyAt p.body 8
    let v := bodyAt p.body 16
    let v := if bodyAt p.body 24 = 0 then v else (outNat s dev a 8 + v) % 2 ^ 64
    .next (packetEnd (outWrite s dev a 8 v) dev q)

/-- WRITE_THEN_SIGNAL_PACKET: 32 bytes of data, then the signal's write. -/
def execWriteThenSignalPacket (dev q : Nat) (s : State) : Outcome State Fault Refusal :=
  match packetOf s dev q 4 with
  | none => .next s
  | some p =>
    let s := outWrite s dev (bodyAt p.body 8) 32 (bitsOf p.body 511 256)
    .next (packetEnd (outWrite s dev (bodyAt p.body 16) 8 (bodyAt p.body 24)) dev q)

/-- COPY_PACKET: bytes from one address to another by the inbound path. -/
def execCopyPacket (dev q : Nat) (s : State) : Outcome State Fault Refusal :=
  match packetOf s dev q 5 with
  | none => .next s
  | some p =>
    let n := bodyAt p.body 24
    .next (packetEnd (outWrite s dev (bodyAt p.body 16) n (outNat s dev (bodyAt p.body 8) n)) dev q)

/-- Cached translations of a device into a 64 KiB frame go. -/
def dropFrame (s : State) (k pa : Nat) : State :=
  keepTlbs s k fun t => !decide (pteAddr t.pte < pa + 65536 ∧ pa < pteAddr t.pte + t.size)

/-- May a physical page be handed over: a near frame the device owns, mapped once (R295, R399)? -/
def handPageOk (s : State) (k pa : Nat) : Bool :=
  decide (pa % 65536 = 0) && nearPa s pa && decide (frameOwner s k pa = k ∧ frameRef s k pa = 1)

/-- Hand physical pages over in ascending order, up to the first that fails; how many went. -/
def handPages (k to_ : Nat) : Nat → Nat → State → State × Nat
  | 0, _, s => (s, 0)
  | n + 1, pa, s =>
    if handPageOk s k pa then
      let r := handPages k to_ n (pa + 65536) (dropFrame (handFrame s k to_ 0 pa) k pa)
      (r.1, r.2 + 1)
    else (s, 0)

/-- A HANDOVER whose grace period has completed is one of the queue's packets no more (R378). -/
def handoverDone (s : State) (k q : Nat) : State :=
  let past (p : QPacket) : Bool := decide (p.type = 6) && (match p.grace with | some t => serialGe (s.dev k).vesper.c t | none => false)
  s.updQueue k q fun x => { x with open_ := x.open_.filter fun p => !past p }

/-- HANDOVER_PACKET: as CPHAND's steps 3 to 5 on physical pages (R295, R370); its work done, it completes after a grace
period, and a later packet without BARRIER may start before (R378). -/
def execHandoverPacket (dev q : Nat) (s : State) : Outcome State Fault Refusal :=
  match packetOf s dev q 6 with
  | none => .next (handoverDone s dev q)
  | some p =>
    let r := handPages dev (bodyAt p.body 24) (bodyAt p.body 16) (bodyAt p.body 8) s
    if r.2 = 0 then .next (packetEnd r.1 dev q)
    else
      let t := ((r.1.dev dev).vesper.f + 2) % 2 ^ 32
      .next (packetEnd (r.1.updQueue dev q fun x => { x with open_ := x.open_ ++ [{ p with grace := some t }] }) dev q)

/-- FENCE_PACKET: every earlier packet has completed and its writes have performed (R378). -/
def execFencePacket (dev q : Nat) (s : State) : Outcome State Fault Refusal :=
  match packetOf s dev q 7 with
  | none => .next s
  | some _ => .next (packetEnd s dev q)

/-- DAWN_PACKET: once every other queue stands at a boundary, the summary is written, and fetching resumes. -/
def execDawnPacket (dev q : Nat) (s : State) : Outcome State Fault Refusal :=
  match packetOf s dev q 8 with
  | none => .next s
  | some p =>
    if allBoundary s dev && (s.dev dev).dawn.isEmpty then .next (packetEnd (dawnWrite s dev (bodyAt p.body 8)) dev q)
    else .next s

/-! ### Slices, steals and mailboxes (R383, R385) -/

/-- SLICE_EXPIRY: a queue whose slice has passed while a rival is ready loses its turn, inside a packet at its end. -/
def execSliceExpiry (dev q : Nat) (s : State) : Outcome State Fault Refusal :=
  if !sliceOver s dev q || !rivalReady s dev q then .next s
  else if atBoundary (s.queue dev q) then .next (endTurn s dev q)
  else .next (s.updQueue dev q fun x => { x with lapsed := true })

/-- STEAL_REQUEST: a scheduler whose run list holds no ready queue asks a neighbour of its device for a queue. -/
def execStealRequest (thief dev q : Nat) (s : State) : Outcome State Fault Refusal :=
  let x := s.queue dev q
  let next := decide ((x.owner + 1) % 4 = thief ∨ (thief + 1) % 4 = x.owner)
  if s.pkg.mode = 2 ∨ !x.en ∨ x.nosteal ∨ !next ∨ devOfDie s.pkg.mode thief ≠ dev ∨ devOfDie s.pkg.mode x.owner ≠ dev ∨
      (runList s thief).any fun p => queueReady s p.1 p.2 then .next s
  else .next (s.updQueue dev q fun x => { x with thief := some thief })

/-- A queue passes to another scheduler. -/
def passQueue (s : State) (k q d : Nat) : State :=
  let s := endTurn s k q
  s.updQueue k q fun x => { x with owner := d, thief := none, since := (s.die d).sched }

/-- QUEUE_OWNERSHIP_PASS: the queue asked for passes at its next boundary. -/
def execQueueOwnershipPass (dev q : Nat) (s : State) : Outcome State Fault Refusal :=
  let x := s.queue dev q
  match x.thief with
  | some d => .next (if !x.nosteal && atBoundary x then passQueue s dev q d else s)
  | none => .next s

/-- QUEUE_RETURN_HOME: a stolen queue goes home when its thief has another ready queue. -/
def execQueueReturnHome (dev q : Nat) (s : State) : Outcome State Fault Refusal :=
  let x := s.queue dev q
  let home := homeDieOf s dev q
  if x.en && decide (x.owner ≠ home) && atBoundary x &&
      ((runList s x.owner).any fun p => decide (p ≠ (dev, q)) && queueReady s p.1 p.2) then .next (passQueue s dev q home)
  else .next s

/-- MAILBOX_MESSAGE: a message of a die's scheduler reaches the next die's ring, which holds 64. -/
def execMailboxMessage (die : Nat) (msg : BitVec 128) (s : State) : Outcome State Fault Refusal :=
  let to_ := (die + 1) % 4
  if 64 ≤ (s.die to_).mailbox.length then .next s
  else .next (s.updDie to_ fun d => { d with mailbox := d.mailbox ++ [msg] })

end Sys2Proof.Machine
end

