-- ==== Sys2Proof/Machine/Module.lean ====
section
/-! DEFINITION. The registers of the module: plain register writes (R7), the far tier's ports (R364), exports and peer windows
(R365, R366), partitions (R367, R368) and clock points (R369). -/

namespace Sys2Proof.Machine

open Host (Outcome)

/-! ### Access (R7, R361, R407) -/


/-- The workgroups of a device's launches. -/
def wgsOfDev (s : State) (k : Nat) : List (Nat × Wg) := s.wgs.filter fun p => decide (devOfCore s p.2.core = k)
/-- Is a workgroup a context that is saved? -/
def isSaved (x : Wg) : Bool := decide (x.phase = .saved)
/-- Does a workgroup's launch run guarded or twin? -/
def isGuarded (s : State) (x : Wg) : Bool := decide (modeOf s x ≠ 0)
/-- Is a launch resident on the device? -/
def launchHere (s : State) (k : Nat) : Bool := (wgsOfDev s k).any fun p => holdsSlot p.2
/-- Is a context of the device saved? -/
def savedHere (s : State) (k : Nat) : Bool := (wgsOfDev s k).any fun p => isSaved p.2
/-- Has the device a guarded or twin workgroup resident or saved? -/
def guardedHere (s : State) (k : Nat) : Bool := (wgsOfDev s k).any fun p => isGuarded s p.2 && (holdsSlot p.2 || isSaved p.2)
/-- The workgroups resident on a die. -/
def dieResident (s : State) (d : Nat) (p : Wg → Bool) : Bool := s.wgs.any fun q => decide (dieOf q.2.core = d) && holdsSlot q.2 && p q.2
/-- The physical die at a position of a device. -/
def posDie (s : State) (k pos : Nat) : Nat := dieAt s.pkg.mode k pos
/-- Does a device take a write of a register of one of its dies? -/
def posOpen (s : State) (k pos : Nat) : Bool := devOpen s k && decide (pos < devDies s.pkg.mode)

/-- Write a field of a device if its condition holds. -/
def putDev (s : State) (k : Nat) (ok : Bool) (f : Dev → Dev) : State := if devOpen s k && ok then s.updDev k f else s
/-- Write a field of a command queue if its condition holds. -/
def putQueue (s : State) (k q : Nat) (stopped : Bool) (f : CQueue → CQueue) : State :=
  if queueUsable s k q && (!stopped || !(s.queue k q).en) then s.updQueue k q f else s
/-- Write a field of a die's RAS block if its condition holds. -/
def putDie (s : State) (d : Nat) (ok : Bool) (f : Die → Die) : State := if !bootStopped s && ok then s.updDie d f else s

/-- Change a monitor. -/
def updMonitor (s : State) (d m : Nat) (f : Monitor → Monitor) : State :=
  s.updDie d fun x => { x with monitors := fput x.monitors m (f (monitorOf s d m)) }

/-- A queue field takes a value (Table 21.1). -/
def writeQueueReg (s : State) (r : Reg) (v : Nat) : State :=
  match r with
  | .qbase k q => putQueue s k q true fun x => { x with qbase := v }
  | .qslice k q => putQueue s k q false fun x => { x with slice := v % 256 }
  | .qnosteal k q => putQueue s k q false fun x => { x with nosteal := decide (v % 2 = 1) }
  | .qhomedie k q => putQueue s k q true fun x => { x with homedie := v % 4 }
  | .qprio k q => putQueue s k q false fun x => { x with prio := v % 4 }
  | .qlog2n k q => putQueue s k q true fun x => { x with log2n := v % 32 }
  | .qridx k q => putQueue s k q true fun x => { x with ridx := v }
  | _ => s

/-- A device-wide field takes a value (Tables 20.6, 21.2, 22.1, 24.1). DESIGN CHOICE (log 88): a write of SPAN leaves every
node's numbers as they are. -/
def writeDevReg (s : State) (r : Reg) (v : Nat) : State :=
  let up := decide (s.pkg.stage = 6)
  match r with
  | .pcfgRole k => putDev s k true fun d => { d with role := v % 2 }
  | .wqtbase k => putDev s k (up && !launchHere s k) fun d => { d with wqtbase := v }
  | .savebase k => putDev s k (up && !savedHere s k) fun d => { d with savebase := v }
  | .savesize k => putDev s k (up && !savedHere s k) fun d => { d with savesize := v % 2 ^ 32 }
  | .ckptbase k => putDev s k (up && !guardedHere s k) fun d => { d with ckptbase := v }
  | .ckptsize k => putDev s k (up && !guardedHere s k) fun d => { d with ckptsize := v % 2 ^ 32 }
  | .stagebase k p =>
    putDev s k (up && posOpen s k p && !dieResident s (posDie s k p) (isGuarded s)) fun d => { d with stagebase := fput d.stagebase p v }
  | .spillbase k p =>
    putDev s k (up && posOpen s k p && !dieResident s (posDie s k p) fun _ => true) fun d => { d with spillbase := fput d.spillbase p v }
  | .poolqbase k p =>
    putDev s k (up && posOpen s k p && !dieResident s (posDie s k p) Wg.pool) fun d => { d with poolqbase := fput d.poolqbase p v }
  | .poolqlog2n k p =>
    putDev s k (up && posOpen s k p && !dieResident s (posDie s k p) Wg.pool) fun d => { d with poolqlog2n := fput d.poolqlog2n p (v % 32) }
  | .sptbase k => putDev s k (!launchHere s k) fun d => { d with sptbase := v }
  | .ftbase k => putDev s k (!launchHere s k) fun d => { d with ftbase := v }
  | .fqbase k => putDev s k (!(s.dev k).fqen) fun d => { d with fqbase := v }
  | .fqlog2n k => putDev s k (!(s.dev k).fqen) fun d => { d with fqlog2n := v % 32 }
  | .fqenClear k => putDev s k true fun d => { d with fqen := false }
  | .rqbase k => putDev s k (s.dev k).retire.isEmpty fun d => { d with rqbase := v }
  | .rqlog2n k => putDev s k ((s.dev k).retire.isEmpty && decide (6 ≤ v % 32 ∧ v % 32 ≤ 20)) fun d => { d with rqlog2n := v % 32 }
  | .pools k p => putDev s k (posOpen s k p) fun d => { d with pools := fput d.pools p (BitVec.ofNat 60 v) }
  | .rootdev k => putDev s k (!(s.dev k).span) fun d => { d with rootdev := v % 1024 }
  | .devnum k => putDev s k (!(s.dev k).span) fun d => { d with devnum := v % 1024 }
  | .span k => putDev s k (s.dev k).retire.isEmpty fun d => { d with span := decide (v % 2 = 1) }
  | .route k n => putDev s k true fun d => { d with route := fput d.route n (BitVec.ofNat 16 v) }
  | _ => s

/-- A field of the RAS blocks or PWRCAP takes a value (Tables 23.1, 23.2, 23.7, 24.4). -/
def writeRasReg (s : State) (r : Reg) (v : Nat) : State :=
  match r with
  | .repout => if bootStopped s then s else { s with pkg := { s.pkg with repout := v } }
  | .pwrcap => if bootStopped s then s else { s with pkg := { s.pkg with pwrcap := max 1000 (v % 65536) } }
  | .elbase d => putDie s d (!(s.die d).elen) fun x => { x with elbase := v }
  | .elen d => putDie s d true fun x => { x with elen := decide (v % 2 = 1) }
  | .ellog2n d => putDie s d (!(s.die d).elen) fun x => { x with ellog2n := v % 32 }
  | .elcons d => putDie s d true fun x => { x with elcons := v }
  | .susthr d => putDie s d true fun x => { x with susthr := v % 65536 }
  | .strthr d => putDie s d true fun x => { x with strthr := v % 65536 }
  | .monFreeze d m => if bootStopped s then s else updMonitor s d m fun x => { countDue x with freeze := decide (v % 2 = 1) }
  | _ => s

/-- REGISTER_WRITE: a companion write of a field with no behaviour of its own sets it if the condition of its Access column
holds, and is ignored otherwise. -/
def execRegisterWrite (r : Reg) (v : BitVec 64) (s : State) : Outcome State Fault Refusal :=
  .next (writeRasReg (writeDevReg (writeQueueReg s r v.toNat) r v.toNat) r v.toNat)

/-! ### Partitions (R367, R368) -/

/-- Is nothing of a device resident, saved, retiring, posted or held (R367)? -/
def drained (s : State) (k : Nat) : Bool :=
  let d := s.dev k
  !launchHere s k && !savedHere s k && d.retire.isEmpty && d.fqwait.isEmpty && decide (d.fqprod = d.fqcons) &&
    (wgsOfDev s k).all fun p => brineEmpty p.2

/-- The conditions of a mode change and of a repair (R368, R411). -/
def quiet (s : State) : Bool :=
  (List.range (4 / devDies s.pkg.mode)).all (drained s) && !s.exports.any (fun p => p.2.valid) && !s.pkg.busy

/-- A core with every tag 0 and its counter at 1, in phase 0 of no grace period (R96, R112). -/
def freshTags (k : Core) : Core :=
  { k with
    gen := 1, sweepDone := 1, sweepPos := 0, sweepNow := 1, tags := [], rows := k.rows.map fun (p : Nat × Row) => (p.1, { p.2 with tag := 0 }),
    cnt0 := 0, cnt1 := 0, phase := 0, f := 0, c := 0 }

/-- Vesper and every generation counter are reset (R368, R411). -/
def resetVesper (s : State) : State :=
  { s with
    cores := s.cores.map fun (p : Nat × Core) => (p.1, freshTags p.2)
    dies := s.dies.map fun (p : Nat × Die) => (p.1, { p.2 with vesper := Vesper.reset, parked0 := 0, parked1 := 0, ck0 := 0, ck1 := 0 })
    devs := s.devs.map fun (p : Nat × Dev) => (p.1, { p.2 with vesper := Vesper.reset, pod := Vesper.reset, podIn := [], podTold := [] }) }

/-- Every translation cache is emptied. -/
def clearTlbs (s : State) : State :=
  { s with
    cores := s.cores.map fun (p : Nat × Core) => (p.1, { p.2 with tlb := [], copyTlb := [], codeTlb := [], icache := [] })
    devs := s.devs.map fun (p : Nat × Dev) => (p.1, { p.2 with inTlb := [] }) }

/-- PMODE_MODE_WRITE: the current mode changes nothing; another is accepted when the package is quiet, else REFUSED is set. -/
def execPmodeModeWrite (mode : BitVec 2) (s : State) : Outcome State Fault Refusal :=
  let m := mode.toNat
  if bootStopped s ∨ m = s.pkg.mode then .next s
  else if m = 3 ∨ !quiet s then .next { s with pkg := { s.pkg with refused := true } }
  else .next { s with pkg := { s.pkg with busy := true, modeNext := m } }

/-- MODE_CHANGE_DONE: caches are empty, Vesper and the generations reset, positions and indices those of the new mode; LAUNCHIDs
count from the start, and enabled queues belong to their home dies. -/
def execModeChangeDone (s : State) : Outcome State Fault Refusal :=
  if !s.pkg.busy then .next s
  else
    let s := resetVesper (clearTlbs s)
    let s := { s with pkg := { s.pkg with mode := s.pkg.modeNext, busy := false } }
    let s := { s with devs := s.devs.map fun (p : Nat × Dev) => (p.1, { p.2 with launchCtr := 0 }) }
    let home (key : Nat) (x : CQueue) : CQueue := { x with owner := homeDieOf s (key / 256) (key % 256), thief := none }
    .next { s with queues := s.queues.map fun (p : Nat × CQueue) => (p.1, home p.1 p.2) }

/-- PMODE_REFUSED_CLEAR: writing 1 clears REFUSED. -/
def execPmodeRefusedClear (s : State) : Outcome State Fault Refusal :=
  .next (if bootStopped s then s else { s with pkg := { s.pkg with refused := false } })

/-- The granules of the home-cache share hold tag 0 on every core of a device (R56, R107). -/
def shareTags (s : State) (dev share : Nat) : State :=
  { s with
    cores := s.cores.map fun (p : Nat × Core) =>
      if devOfCore s p.1 = dev then (p.1, { p.2 with tags := p.2.tags.filter fun q => decide (q.1 * 64 < addressable share) }) else p }

/-- HCSHARE_WRITE: a drained device takes the new share; 3 is ignored. -/
def execHcshareWrite (dev : Nat) (v : BitVec 2) (s : State) : Outcome State Fault Refusal :=
  let ok := drained s dev && decide (v ≠ 3)
  let t := putDev s dev ok fun d => { d with hcshare := v.toNat }
  .next (if devOpen s dev && ok then shareTags t dev v.toNat else t)

/-! ### Clock points (R369, R421) -/

/-- CLKPT_WRITE: the clocks head for the new point; while they are throttled the write sets the ceiling only. -/
def execClkptWrite (dev : Nat) (v : BitVec 3) (s : State) : Outcome State Fault Refusal :=
  let throttled := decide ((s.dev dev).clkpt < (s.dev dev).clkTarget)
  .next (putDev s dev (decide (v.toNat ≤ 5)) fun d =>
    { d with clkpt := v.toNat, clkTarget := if throttled then max d.clkTarget v.toNat else v.toNat })

/-- CLOCK_STRETCH_DONE: the clocks are at the point they headed for; no cycle is lost. -/
def execClockStretchDone (dev : Nat) (s : State) : Outcome State Fault Refusal :=
  .next (s.updDev dev fun d => { d with eclkpt := d.clkTarget })

/-! ### Far tier (R364) -/

/-- A CXL port. -/
def cxlOf (s : State) (p : Nat) : Cxl := (fget s.pkg.cxl p).getD Cxl.reset
/-- Change a port. -/
def updCxl (s : State) (p : Nat) (f : Cxl → Cxl) : State := { s with pkg := { s.pkg with cxl := fput s.pkg.cxl p (f (cxlOf s p)) } }

/-- The doubles of a table that are not zero. -/
def listedDoubles (s : State) (k table n : Nat) : List Double :=
  match apOf s k table with
  | none => []
  | some a =>
    let at_ := ((s.mem.filter fun p => decide (a ≤ p.1 ∧ p.1 < a + 8 * n)).map fun p => (p.1 - a) / 8).eraseDups
    at_.map fun i => BitVec.ofNat 64 (memNat s.mem (a + 8 * i) 8)

/-- The valid leaves below a table, by the entries of the tables on the way. -/
def leavesBelow (s : State) (k : Nat) : List Nat → Nat → List Double
  | [], _ => []
  | n :: ns, table =>
    ((listedDoubles s k table n).filter pteV).flatMap fun p => if pteLeaf p then [p] else leavesBelow s k ns (pteAddr p)

/-- Every valid leaf of a device's page tables (R388). -/
def allLeaves (s : State) (k : Nat) : List Double :=
  ((listedDoubles s k (s.dev k).sptbase 65536).filter fun e => e.getLsbD 0).flatMap fun e =>
    leavesBelow s k [131072, 512, 512, 32] ((e.extractLsb' 12 36).toNat * 4096)

/-- Is a far frame of a port mapped? -/
def portMapped (s : State) (p : Nat) : Bool :=
  let base := Config.farBase + p * Config.farSpan
  (allLeaves s (devOfDie s.pkg.mode p)).any fun e => decide (base ≤ pteAddr e ∧ pteAddr e < base + Config.farSpan)

/-- CXL_PORT_ENABLE: the port trains. -/
def execCxlPortEnable (port : Nat) (s : State) : Outcome State Fault Refusal :=
  if bootStopped s ∨ (cxlOf s port).en then .next s
  else .next (updCxl s port fun _ => { en := true, state := 1, cap := 0 })

/-- CXL_PORT_DISABLE: the port is down, unless a far frame of it is mapped. -/
def execCxlPortDisable (port : Nat) (s : State) : Outcome State Fault Refusal :=
  if bootStopped s || portMapped s port then .next s
  else .next (updCxl s port fun _ => Cxl.reset)

/-- CXL_TRAINING_DONE: a Type 3 device is used up to 1 TiB, another is refused. -/
def execCxlTrainingDone (port : Nat) (type3 : Bool) (cap : Nat) (s : State) : Outcome State Fault Refusal :=
  if (cxlOf s port).state ≠ 1 then .next s
  else .next (updCxl s port fun x => if type3 then { x with state := 2, cap := min cap (2 ^ 24) } else { x with state := 3, cap := 0 })

/-! ### Exports and windows (R365, R366) -/

/-- EXP_WRITE: later accesses are checked against the entry as written (Table 20.3). -/
def execExpWrite (dev exp : Nat) (v : BitVec 128) (s : State) : Outcome State Fault Refusal :=
  let n := v.toNat
  let e : Export :=
    { key := BitVec.ofNat 16 (bitsOf n 127 112), space := bitsOf n 111 96, valid := n.testBit 90, ring := n.testBit 89,
      size := bitsOf n 88 64, base := bitsOf n 63 0 }
  if devOpen s dev then .next { s with exports := fput s.exports (dev * 4096 + exp) e } else .next s

/-- PWIN_WRITE: later accesses use the window as written (Table 20.4). -/
def execPwinWrite (dev win : Nat) (v : BitVec 128) (s : State) : Outcome State Fault Refusal :=
  let n := v.toNat
  let w : Window :=
    { size := bitsOf n 88 64, valid := n.testBit 63, target := bitsOf n 53 44, exp := bitsOf n 43 32, key := BitVec.ofNat 16 (bitsOf n 15 0) }
  if devOpen s dev then .next { s with windows := fput s.windows (dev * 64 + win) w } else .next s

end Sys2Proof.Machine
end

