-- ==== Sys2Proof/Machine/Fleet.lean ====
section
/-! DEFINITION. Power-on, images and boot (R407, R408), repair (R411), monitors (R412), measurement and quotes (R413, R414), peer
links and the pod (R415 to R418), power and cooling (R420, R421). -/

namespace Sys2Proof.Machine

open Host (Outcome)

/-! ### Power-on (R407) -/

/-- The bytes of a 512-bit string. -/
def bytes512 (v : BitVec 512) : List Byte := bytesOfNat 64 v.toNat

/-- Change the package's own registers. -/
def State.updPkg (s : State) (f : Package → Package) : State := { s with pkg := f s.pkg }

/-- The seed of the device's identity key (R407). -/
def identitySeed : List Byte := (shaBytes Config.pufResponse).take 32

/-- The bad positions of a die. -/
def badOf (bad : List (Nat × Nat × Nat)) (d : Nat) : List (Nat × Nat) := ((bad.filter fun b => decide (b.1 = d)).map Prod.snd).eraseDups

/-- The self-test has found a position of a die bad: it is out of service, with a record (R410, R411). -/
def noteBad (s : State) (d : Nat) (pos : Nat × Nat) : State :=
  logError (s.updDie d fun x => { x with retired := x.retired ++ [pos] }) d { kind := 6, pos := some pos }

/-- POWER_ON: everything is at its reset value but what lies outside the package; the identity key, the self-test, then the wait
for a configuration image. Of a die's 170 positions at most 10 may be bad (Table 23.3). -/
def execPowerOn (idOk bistOk : Bool) (bad : List (Nat × Nat × Nat)) (s : State) : Outcome State Fault Refusal :=
  let t : State :=
    { State.reset with cmem := s.cmem, linkOut := s.linkOut, debug := s.debug, freeCtr := s.freeCtr, agenda := s.agenda, cur := s.cur }
  if !idOk then .next (t.updPkg fun p => { p with stage := 1, booterr := 1 })
  else
    let t := t.updPkg fun p => { p with idkey := edPublic identitySeed, badPos := bad }
    let t := (List.range 4).foldl (fun t d => (badOf bad d).foldl (fun t pos => noteBad t d pos) t) t
    if !bistOk || (List.range 4).any fun d => decide (10 < (badOf bad d).length) then
      .next (t.updPkg fun p => { p with stage := 2, booterr := 2 })
    else .next (t.updPkg fun p => { p with stage := 3 })

/-! ### Repair (R411) -/

/-- The free spare position of a die with the lowest row (log 17): no core stands there, and it has not been retired. -/
def freeSpare (s : State) (d : Nat) : Option Nat :=
  firstBelow 10 fun y => (coreStanding s d 16 y).isNone && !(s.die d).retired.contains (16, y)

/-- Retire a pending core onto a spare position, or note that none is left. -/
def retireCore (s : State) (c : Nat) : State :=
  let d := dieOf c
  if !(coreStat s c).pendret then s
  else
    match (if 0 < (s.die d).spares then freeSpare s d else none) with
    | some y =>
      let p := corePlace s c
      let s := s.updPkg fun k => { k with coremap := fput k.coremap c (16, y, p.2.2.1, p.2.2.2) }
      s.updDie d fun x =>
        { x with
          spares := x.spares - 1, corestat := fput x.corestat (coreIdx c) CoreStat.reset
          retired := if x.retired.contains (p.1, p.2.1) then x.retired else x.retired ++ [(p.1, p.2.1)] }
    | none => logError (s.updDie d fun x => { x with spareout := true }) d { kind := 11, core := some c }

/-- Of some corrected errors, the rows or banks that a function names whose records have reached a threshold, each once. -/
def worn (place : Nat → Nat) (thr : Nat) (as : List Nat) : List Nat :=
  if thr = 0 then [] else ((as.map place).eraseDups).filter fun n => decide (thr ≤ (as.filter fun a => decide (place a = n)).length)

/-- DRAM rows of a die whose corrected errors have reached the threshold take spare rows, and banks whose other errors have
reached it take spare banks (DEDUCED, log 17). -/
def repairDram (s : State) (d : Nat) : State :=
  let thr := s.pkg.dramthr
  s.updDie d fun x =>
    let rows := worn Config.dramRow thr x.corrected
    let left := x.corrected.filter fun a => !rows.contains (Config.dramRow a)
    let banks := worn Config.dramBank thr left
    { x with
      corrected := left.filter fun a => !banks.contains (Config.dramBank a)
      spareRows := x.spareRows ++ rows.filter fun n => !x.spareRows.contains n
      spareBanks := x.spareBanks ++ banks.filter fun n => !x.spareBanks.contains n }

/-- Where every core stands. -/
def coreTable (s : State) : List (Nat × Nat × Nat × Nat) :=
  (List.range 640).map fun c => let p := corePlace s c; (dieOf c, coreIdx c, p.1, p.2.1)

/-- Retire what is pending on every die, repair DRAM, reset Vesper and the generations; a repair image of the result is in
force, and is written where it is wanted. -/
def applyRepair (s : State) (write : Bool) : State :=
  let s := (List.range 640).foldl retireCore s
  let s := (List.range 4).foldl repairDram s
  let s := resetVesper s
  let payload := Config.repairPayload (coreTable s)
  let s := s.updPkg fun p => { p with repair := sha512 payload }
  if write then
    let sig := edSign identitySeed (Config.signedPart 2 payload.length s.pkg.idkey payload)
    { s with cmem := memWriteBytes s.cmem s.pkg.repout (Config.imageBytes 2 payload.length s.pkg.idkey payload sig) }
  else s

/-- The cores that stand where the self-test found a position bad are pending retirement (R407, R411). -/
def markBad (s : State) : State :=
  s.pkg.badPos.foldl (fun s b =>
    match coreStanding s b.1 b.2.1 b.2.2 with
    | some c => updStat s c fun y => { y with pendret := true }
    | none => s) s

/-- STAGE 6 is reached: the results of the self-test are applied, and the image goes to REPOUT where that has been written.
DEDUCED (log 17): with nothing to retire and REPOUT 0 the repair image that was loaded stays the one in force. -/
def applyBist (s : State) : State :=
  let s := markBad s
  let out := decide (s.pkg.repout ≠ 0)
  if out || (List.range 640).any fun c => (coreStat s c).pendret then applyRepair s out else s

/-- REPAIR_APPLY: accepted when the package is quiet, else REFUSED is set. -/
def execRepairApply (s : State) : Outcome State Fault Refusal :=
  if bootStopped s then .next s
  else if quiet s && !s.pkg.rasBusy then .next (s.updPkg fun p => { p with rasBusy := true })
  else .next (s.updPkg fun p => { p with rasRefused := true })

/-- REPAIR_APPLY_DONE: the repair has been made. -/
def execRepairApplyDone (s : State) : Outcome State Fault Refusal :=
  if s.pkg.rasBusy then .next ((applyRepair s true).updPkg fun p => { p with rasBusy := false }) else .next s

/-- RAS_REFUSED_CLEAR: writing 1 clears REFUSED. -/
def execRasRefusedClear (s : State) : Outcome State Fault Refusal :=
  .next (if bootStopped s then s else s.updPkg fun p => { p with rasRefused := false })

/-- PENDRET_SET: software asks for a core's retirement. -/
def execPendretSet (die core : Nat) (s : State) : Outcome State Fault Refusal :=
  .next (if bootStopped s then s else updStat s (die * 160 + core) fun y => { y with pendret := true })

/-! ### Images (R407, R408, R413) -/

/-- The kind of image a boot stage waits for. -/
def stageKind (stage : Nat) : Option Nat := if stage = 3 then some 1 else if stage = 4 then some 2 else if stage = 5 then some 3 else none

/-- Is the root key at hand the one whose digest the boot logic holds (R408)? -/
def rootKeyOk : Bool := decide (sha512 (bytesOfNat 32 Config.rootKey.toNat) = Config.rootDigest)

/-- Is an image signed by the root key, or a repair image by the device, and bound to the device? Its payload has the length that
its header gives (log 13). -/
def imageOk (s : State) (i : Config.Image) : Bool :=
  let msg := Config.signedPart i.kind i.length i.key i.payload
  decide (i.payload.length = i.length) &&
    ((rootKeyOk && edVerify Config.rootKey msg i.sig) || (decide (i.kind = 2) && edVerify s.pkg.idkey msg i.sig)) &&
    (decide (i.key = s.pkg.idkey) || (decide (i.key = 0) && decide (i.kind ≠ 2)))

/-- A core's place as an image gives it, within the mesh and the clusters of Table 20.9. -/
def imagePlace (payload : List Byte) (c : Nat) : Nat × Nat × Nat × Nat :=
  let p := Config.imageCorePos payload (dieOf c) (coreIdx c)
  (p.1 % 17, p.2.1 % 10, p.2.2.1 % 40, p.2.2.2 % 4)

/-- The core map of an image comes into force. -/
def takeMap (s : State) (payload : List Byte) : State :=
  s.updPkg fun p => { p with coremap := (List.range 640).map fun c => (c, imagePlace payload c) }

/-- The next die's scheduler core takes its firmware into its tightly coupled memory (R382, R407). -/
def takeFirmware (s : State) (payload : List Byte) : State :=
  (s.updDie s.pkg.firmware fun x => { x with tcm := memWriteBytes [] 0 (payload.take 262144) }).updPkg fun p =>
    { p with firmware := p.firmware + 1 }

/-- An image that passed every check is applied and measured. -/
def imageApply (s : State) (i : Config.Image) : State :=
  let h := sha512 i.payload
  let s := s.updPkg fun p => { p with booterr := 0, meas := sha512 (bytes512 p.meas ++ bytes512 h) }
  if i.kind = 1 then
    let s := takeMap s i.payload
    let s := (List.range 4).foldl (fun s d =>
      let g := Config.imageCfg i.payload d
      s.updDie d fun x => { x with susthr := g.1 % 65536, strthr := g.2.1 % 65536, spares := min 10 g.2.2.1 }) s
    s.updPkg fun p =>
      { p with stage := 4, pwrcap := max 1000 ((Config.imageCfg i.payload 0).2.2.2 % 65536), dramthr := Config.imageDram i.payload }
  else if i.kind = 2 then
    let s := takeMap s i.payload
    let s := (List.range 4).foldl (fun s d => s.updDie d fun x => { x with spares := min 10 (Config.imageSpares i.payload d) }) s
    s.updPkg fun p => { p with stage := 5, repair := h }
  else if s.pkg.firmware < 3 then takeFirmware s i.payload
  else applyBist ((takeFirmware s i.payload).updPkg fun p => { p with stage := 6 })

/-- IMAGE_LOAD: an IMGLOAD write names an image; one that cannot be read, is out of order, or fails a check leaves its code in
BOOTERR (Table 23.3). -/
def execImageLoad (addr : BitVec 64) (readable : Bool) (s : State) : Outcome State Fault Refusal :=
  let fail (e : Nat) : State := s.updPkg fun p => { p with booterr := e }
  if !readable then .next (fail 5)
  else
    let i := Config.readImage s.cmem addr.toNat
    if stageKind s.pkg.stage ≠ some i.kind then .next (fail 4)
    else if !imageOk s i then .next (fail 3)
    else .next (imageApply s i)

/-! ### Quotes (R414) -/

/-- ATTESTATION_REQUEST: a quote is asked for; a fifth request is dropped. -/
def execAttestationRequest (addr : BitVec 64) (s : State) : Outcome State Fault Refusal :=
  if bootStopped s then .next s
  else if 4 ≤ s.pkg.attreqs.length then .next (s.updPkg fun p => { p with attdrop := true })
  else .next (s.updPkg fun p => { p with attreqs := p.attreqs ++ [addr.toNat] })

/-- Bytes 64 to 319 of a quote (Table 23.8). -/
def quoteBody (s : State) (addr : Nat) : List Byte :=
  memBytes s.cmem addr 64 ++ bytes512 s.pkg.meas ++ bytes512 s.pkg.repair ++ bytesOfNat 32 s.pkg.idkey.toNat ++
    bytesOfNat 4 (pmodeWord s) ++ List.replicate 28 0

/-- QUOTE_WRITE: the oldest request is answered once nothing is BUSY. -/
def execQuoteWrite (s : State) : Outcome State Fault Refusal :=
  match s.pkg.attreqs with
  | [] => .next s
  | a :: rest =>
    if s.pkg.busy || s.pkg.rasBusy then .next s
    else
      let body := quoteBody s a
      let to_ := memNat s.cmem (a + 64) 8
      let sig := edSign identitySeed body
      let q := bytesOfNat 8 (384 * 2 ^ 32 + 1) ++ List.replicate 56 0 ++ body ++ bytes512 sig
      .next { (s.updPkg fun p => { p with attreqs := rest }) with cmem := memWriteBytes s.cmem to_ q }

/-- ATTDROP_CLEAR: writing 1 clears ATTDROP. -/
def execAttdropClear (s : State) : Outcome State Fault Refusal :=
  .next (if bootStopped s then s else s.updPkg fun p => { p with attdrop := false })

/-! ### Monitors (R412) -/

/-- A cleared monitor. -/
def clearedMonitor (m : Monitor) : Monitor := { m with min := 0xFFFF_FFFF, max := 0, cnt := 0, bins := [], due := [] }

/-- Is a sample of a die's temperature due: has a boundary of 65,536 cycles passed (Table 23.6)? DESIGN CHOICE (log 87): the
boundaries are the multiples of the period. -/
def temperatureDue (s : State) (d : Nat) (m : Monitor) : Bool := decide (m.lastAt / 65536 < (s.die d).cycle / 65536)

/-- MONITOR_SAMPLE: the oldest sample that the monitor has yet to count; of the temperature, which the sensors give, v. -/
def execMonitorSample (die mon v : Nat) (s : State) : Outcome State Fault Refusal :=
  let m := monitorOf s die mon
  if m.qty = 7 then
    if m.freeze ∨ !temperatureDue s die m then .next s
    else .next (updMonitor s die mon fun m => { countSample m (min v 0xFFFF_FFFF) with lastAt := (s.die die).cycle })
  else
    match m.due with
    | [] => .next s
    | v :: rest => .next (updMonitor s die mon fun m => { countSample m v with due := rest })

/-- MONITOR_CLEAR: a write with CLR = 1. -/
def execMonitorClear (die mon : Nat) (s : State) : Outcome State Fault Refusal :=
  .next (if bootStopped s then s else updMonitor s die mon clearedMonitor)

/-- MONITOR_CONFIGURE: a new quantity or source clears the monitor; a reserved quantity is ignored. -/
def execMonitorConfigure (die mon : Nat) (qty : BitVec 4) (src : BitVec 10) (s : State) : Outcome State Fault Refusal :=
  let m := monitorOf s die mon
  if bootStopped s ∨ 9 ≤ qty.toNat ∨ (m.qty = qty.toNat ∧ m.src = src.toNat) then .next s
  else .next (updMonitor s die mon fun m => { clearedMonitor m with qty := qty.toNat, src := src.toNat, lastAt := (s.die die).cycle })

/-! ### Peer links and the pod (R415 to R418) -/

/-- A peer link. -/
def linkOf (s : State) (l : Nat) : Link := (fget s.pkg.links l).getD Link.reset
/-- Change a link. -/
def updLink (s : State) (l : Nat) (f : Link → Link) : State := s.updPkg fun p => { p with links := fput p.links l (f (linkOf s l)) }

/-- PODMEM_WRITE: the root's members change, and the poll restarts. -/
def execPodmemWrite (dev : Nat) (v : BitVec 1024) (s : State) : Outcome State Fault Refusal :=
  .next (putDev s dev (decide ((s.dev dev).rootdev = (s.dev dev).devnum)) fun d =>
    { d with
      podmem := v, pod := { d.pod with poll := none, drained := [] }
      podIn := d.podIn.filter fun p => match p.2 with | .drained _ => false | _ => true
      podTold := d.podTold.filter fun p => match p.2 with | .poll _ => false | _ => true })

/-- PEER_LINK_ENABLE: the link trains. -/
def execPeerLinkEnable (link : Nat) (s : State) : Outcome State Fault Refusal :=
  if bootStopped s ∨ (linkOf s link).en then .next s
  else .next (updLink s link fun x => { x with en := true, state := 1, missed := 0 })

/-- PEER_LINK_TRAINED: the link is up and knows its far end. -/
def execPeerLinkTrained (link peer : Nat) (s : State) : Outcome State Fault Refusal :=
  if (linkOf s link).state = 1 then .next (updLink s link fun x => { x with state := 2, peer := peer % 1024, missed := 0, heard := true }) else .next s

/-- PEER_LINK_DISABLE: EN is cleared and the link is down. -/
def execPeerLinkDisable (link : Nat) (s : State) : Outcome State Fault Refusal :=
  .next (if bootStopped s then s else updLink s link fun x => { x with en := false, state := 0 })

/-- An interval of a link ends: it counts as missed if no heartbeat came in it. -/
def endInterval (x : Link) : Link := { x with missed := if x.heard then 0 else x.missed + 1, heard := false }

/-- HEARTBEAT_SEND: every 2^20 cycles a heartbeat goes out on each link of the die that is up, and an interval ends. -/
def execHeartbeatSend (die : Nat) (s : State) : Outcome State Fault Refusal :=
  let x := s.die die
  if x.cycle < x.beatAt + 2 ^ 20 then .next s
  else
    let up := ((List.range 4).map fun i => 4 * die + i).filter fun l => decide ((linkOf s l).state = 2)
    let s := up.foldl (fun s l => updLink { s with linkOut := s.linkOut ++ [.heartbeat l] } l endInterval) s
    .next (s.updDie die fun x => { x with beatAt := x.beatAt + 2 ^ 20 })

/-- HEARTBEAT_RECEIVE: the interval has its heartbeat, and the count of missed ones restarts. -/
def execHeartbeatReceive (link : Nat) (s : State) : Outcome State Fault Refusal :=
  if (linkOf s link).state = 2 then .next (updLink s link fun x => { x with missed := 0, heard := true }) else .next s

/-- HEARTBEAT_TIMEOUT: four intervals without a heartbeat take the link down, with an error record. -/
def execHeartbeatTimeout (link : Nat) (s : State) : Outcome State Fault Refusal :=
  let x := linkOf s link
  if x.state = 2 ∧ 4 ≤ x.missed then
    .next (logError (updLink s link fun x => { x with state := 0 }) (link / 4) { kind := 4, sub := some 3, detail := some link })
  else .next s

/-- PEER_TRAFFIC_RELAY: traffic that came for another device leaves on this device's own route, or fails here; its record has
space 0 and counts as a write (log 66). -/
def execPeerTrafficRelay (dev link dest : Nat) (data : List (BitVec 8)) (s : State) : Outcome State Fault Refusal :=
  if (linkOf s link).state ≠ 2 ∨ dest = (s.dev dev).devnum then .next s
  else
    match routeLink s dev dest with
    | some l => .next { s with linkOut := s.linkOut ++ [.relay l dest data] }
    | none =>
      let peer := (linkOf s link).peer
      .next (answer (postFault s dev (remoteRecord 0 0 peer 2)) (some peer) none true)

/-! ### Power and cooling (R420, R421) -/

/-- One device's step of the power control. -/
def powerStep (s : State) (k : Nat) : State :=
  let hot := (diesOfDev s.pkg.mode k).any fun d => decide (105 < (s.die d).temp)
  if s.pkg.pwrcap < s.pkg.pwr ∨ hot then s.updDev k fun d => { d with clkTarget := min 5 (d.clkTarget + 1), calm := 0 }
  else
    s.updDev k fun d =>
      let calm := min 10 (d.calm + 1)
      { d with calm := calm, clkTarget := if 10 ≤ calm ∧ d.clkpt < d.clkTarget then d.clkTarget - 1 else d.clkTarget }

/-- POWER_CONTROL_TICK: every 1 ms, with the power and each die's hottest sensor. DESIGN CHOICE (log 86): 1 ms is 500,000
cycles of die 0's scheduler core. -/
def execPowerControlTick (pwr : BitVec 16) (temps : List Nat) (s : State) : Outcome State Fault Refusal :=
  if (s.die 0).sched < s.pkg.ctlAt + 500000 then .next s else
  let s := s.updPkg fun p => { p with pwr := pwr.toNat, ctlAt := (s.die 0).sched }
  let s := (List.range 4).foldl (fun s d => match temps[d]? with | some t => s.updDie d fun x => { x with temp := t } | none => s) s
  .next ((List.range (4 / devDies s.pkg.mode)).foldl powerStep s)

/-- THERMAL_STOP: above 115 degrees a die's arithmetic clocks stop, with a record. -/
def execThermalStop (die temp : Nat) (s : State) : Outcome State Fault Refusal :=
  if temp ≤ 115 ∨ (s.die die).stopped then .next s
  else .next (logError (s.updDie die fun x => { x with temp := temp, stopped := true }) die { kind := 10 })

/-- THERMAL_RESTART: below 100 degrees they run again. -/
def execThermalRestart (die temp : Nat) (s : State) : Outcome State Fault Refusal :=
  if 100 ≤ temp ∨ !(s.die die).stopped then .next s
  else .next (s.updDie die fun x => { x with temp := temp, stopped := false })

end Sys2Proof.Machine
end

