-- ==== Sys2Proof/Machine/Valu.lean ====
section
/-! DEFINITION. The meanings of the VALU page (Table 9.8; R199 to R229). -/

namespace Sys2Proof.Machine

open Host (Outcome)

/-- IADD (R204). -/
def execIadd (f : F3) (x : XM) (s : State) : Outcome State Fault Refusal :=
  intOp (.iadd f x) f x s fun _ a b _ => a + b

/-- ISUB (R204). -/
def execIsub (f : F3) (x : XM) (s : State) : Outcome State Fault Refusal :=
  intOp (.isub f x) f x s fun _ a b _ => a - b

/-- IMUL (R204). -/
def execImul (f : F3) (x : XM) (s : State) : Outcome State Fault Refusal :=
  intOp (.imul f x) f x s fun _ a b _ => a * b

/-- IMULHI (R204). -/
def execImulhi (f : F3) (x : XM) (s : State) : Outcome State Fault Refusal :=
  intOp (.imulhi f x) f x s fun t a b _ => a * b / (2 ^ t.bits : Nat)

/-- IMAD (R204). -/
def execImad (f : F3) (x : XM) (s : State) : Outcome State Fault Refusal :=
  intOp (.imad f x) f x s fun _ a b c => a * b + c

/-- IMIN (R204). -/
def execImin (f : F3) (x : XM) (s : State) : Outcome State Fault Refusal :=
  intOp (.imin f x) f x s fun _ a b _ => min a b

/-- IMAX (R204). -/
def execImax (f : F3) (x : XM) (s : State) : Outcome State Fault Refusal :=
  intOp (.imax f x) f x s fun _ a b _ => max a b

/-- IADDC (R205). -/
def execIaddc (f : F3) (x : XM) (s : State) : Outcome State Fault Refusal :=
  carryOp (.iaddc f x) f x s

/-- AND (R206). -/
def execAnd (f : F3) (s : State) : Outcome State Fault Refusal :=
  bitOp (.and_ f) f s fun a b => a &&& b

/-- OR (R206). -/
def execOr (f : F3) (s : State) : Outcome State Fault Refusal :=
  bitOp (.or_ f) f s fun a b => a ||| b

/-- XOR (R206). -/
def execXor (f : F3) (s : State) : Outcome State Fault Refusal :=
  bitOp (.xor_ f) f s fun a b => a ^^^ b

/-- ANDN (R206). -/
def execAndn (f : F3) (s : State) : Outcome State Fault Refusal :=
  bitOp (.andn f) f s fun a b => a &&& ~~~b

/-- SHL (R206). -/
def execShl (f : F3) (s : State) : Outcome State Fault Refusal :=
  bitOp (.shl f) f s shiftL

/-- SHR (R206). -/
def execShr (f : F3) (s : State) : Outcome State Fault Refusal :=
  bitOp (.shr f) f s shiftR

/-- SAR (R206). -/
def execSar (f : F3) (s : State) : Outcome State Fault Refusal :=
  bitOp (.sar f) f s shiftA

/-- ROTL (R206). -/
def execRotl (f : F3) (s : State) : Outcome State Fault Refusal :=
  bitOp (.rotl f) f s rotateL

/-- BFX (R208). -/
def execBfx (f : F3) (x : XM) (s : State) : Outcome State Fault Refusal :=
  wordOp3 (.bfx f x) f x s fun a b _ => bitExtract (decide (x.size = 1)) a b

/-- BFI (R208). -/
def execBfi (f : F3) (x : XM) (s : State) : Outcome State Fault Refusal :=
  wordOp3 (.bfi f x) f x s bitInsert

/-- PRMT (R209). -/
def execPrmt (f : F3) (x : XM) (s : State) : Outcome State Fault Refusal :=
  wordOp3 (.prmt f x) f x s permute

/-- LEA (R210). -/
def execLea (f : F3) (x : XM) (s : State) : Outcome State Fault Refusal :=
  leaOp (.lea f x) f x s

/-- ICMP (R211). -/
def execIcmp (f : F3) (x : XM) (s : State) : Outcome State Fault Refusal :=
  icmpOp (.icmp f x) f x s

/-- SEL (R211). -/
def execSel (f : F3) (x : XM) (s : State) : Outcome State Fault Refusal :=
  selOp (.sel f x) f x s

/-- MOV (R206). -/
def execMov (f : F3) (s : State) : Outcome State Fault Refusal :=
  bitOp (.mov f) f s fun a _ => a

/-- HASH32 (R212). -/
def execHash32 (f : F3) (x : XM) (s : State) : Outcome State Fault Refusal :=
  wordOp3 (.hash32 f x) f x s hash32

/-- FADD (R213). -/
def execFadd (f : F3) (x : XM) (s : State) : Outcome State Fault Refusal :=
  floatOp (.fadd f x) f x s fun r a b _ => exactSum r [a, b]

/-- FSUB (R213). -/
def execFsub (f : F3) (x : XM) (s : State) : Outcome State Fault Refusal :=
  floatOp (.fsub f x) f x s fun r a b _ => exactSum r [a, b.neg]

/-- FMUL (R213). -/
def execFmul (f : F3) (x : XM) (s : State) : Outcome State Fault Refusal :=
  floatOp (.fmul f x) f x s fun _ a b _ => exactMul a b

/-- FFMA (R213). -/
def execFfma (f : F3) (x : XM) (s : State) : Outcome State Fault Refusal :=
  floatOp (.ffma f x) f x s exactFma

/-- FMIN (R214). -/
def execFmin (f : F3) (x : XM) (s : State) : Outcome State Fault Refusal :=
  minMaxOp (.fmin f x) f x s false

/-- FMAX (R214). -/
def execFmax (f : F3) (x : XM) (s : State) : Outcome State Fault Refusal :=
  minMaxOp (.fmax f x) f x s true

/-- FCMP (R215). -/
def execFcmp (f : F3) (x : XM) (s : State) : Outcome State Fault Refusal :=
  fcmpOp (.fcmp f x) f x s

/-- FSCALE (R213). -/
def execFscale (f : F3) (x : XM) (s : State) : Outcome State Fault Refusal :=
  scaleOp (.fscale f x) f x s

/-- PADD (R219). -/
def execPadd (f : F3) (x : XM) (s : State) : Outcome State Fault Refusal :=
  packedOp (.padd f x) f x s fun r a b _ => exactSum r [a, b]

/-- PMUL (R219). -/
def execPmul (f : F3) (x : XM) (s : State) : Outcome State Fault Refusal :=
  packedOp (.pmul f x) f x s fun _ a b _ => exactMul a b

/-- PFMA (R219). -/
def execPfma (f : F3) (x : XM) (s : State) : Outcome State Fault Refusal :=
  packedOp (.pfma f x) f x s exactFma

/-- CVT (R220). -/
def execCvt (f : F3) (x : XM) (s : State) : Outcome State Fault Refusal :=
  cvtOp (.cvt f x) f x s

/-- IABS (R204). -/
def execIabs (f : F3) (x : XM) (s : State) : Outcome State Fault Refusal :=
  intOp (.iabs f x) f x s fun _ a _ _ => (a.natAbs : Int)

/-- INEG (R204). -/
def execIneg (f : F3) (x : XM) (s : State) : Outcome State Fault Refusal :=
  intOp (.ineg f x) f x s fun _ a _ _ => -a

/-- NOT (R206). -/
def execNot (f : F3) (s : State) : Outcome State Fault Refusal :=
  bitOp (.not_ f) f s fun a _ => ~~~a

/-- POPC (R206). -/
def execPopc (f : F3) (s : State) : Outcome State Fault Refusal :=
  bitOp (.popc f) f s fun a _ => popCount a

/-- CLZ (R206). -/
def execClz (f : F3) (s : State) : Outcome State Fault Refusal :=
  bitOp (.clz f) f s fun a _ => leadZeros a

/-- BREV (R206). -/
def execBrev (f : F3) (s : State) : Outcome State Fault Refusal :=
  bitOp (.brev f) f s fun a _ => bitReverse a

/-- FCLASS (R216). -/
def execFclass (f : F3) (x : XM) (s : State) : Outcome State Fault Refusal :=
  wordOp3 (.fclass f x) f x s fun a _ _ => wd (2 ^ classBit (fltType x.size.toNat) a.toNat)

/-- FRND (R217). -/
def execFrnd (f : F3) (x : XM) (s : State) : Outcome State Fault Refusal :=
  laneFlagOp (.frnd f x) s f.d.toNat fun c l =>
    let t := fltType x.size.toNat
    roundIntegral t (RMode.ofCode x.round.toNat) (t.decode (srcLane s c f.a.toNat l).toNat)

/-- FRCP (R218). -/
def execFrcp (f : F3) (x : XM) (s : State) : Outcome State Fault Refusal :=
  fnOp (.frcp f x) f x s .rcp

/-- FRSQ (R218). -/
def execFrsq (f : F3) (x : XM) (s : State) : Outcome State Fault Refusal :=
  fnOp (.frsq f x) f x s .rsq

/-- FSQRT (R218). -/
def execFsqrt (f : F3) (x : XM) (s : State) : Outcome State Fault Refusal :=
  fnOp (.fsqrt f x) f x s .sqrt

/-- FEXP2 (R218). -/
def execFexp2 (f : F3) (x : XM) (s : State) : Outcome State Fault Refusal :=
  fnOp (.fexp2 f x) f x s .exp2

/-- FLOG2 (R218). -/
def execFlog2 (f : F3) (x : XM) (s : State) : Outcome State Fault Refusal :=
  fnOp (.flog2 f x) f x s .log2

/-- FSIN (R218). -/
def execFsin (f : F3) (x : XM) (s : State) : Outcome State Fault Refusal :=
  fnOp (.fsin f x) f x s .sin

/-- FCOS (R218). -/
def execFcos (f : F3) (x : XM) (s : State) : Outcome State Fault Refusal :=
  fnOp (.fcos f x) f x s .cos

/-- FTANH (R218). -/
def execFtanh (f : F3) (x : XM) (s : State) : Outcome State Fault Refusal :=
  fnOp (.ftanh f x) f x s .tanh

/-- QNT (R221). -/
def execQnt (f : F3) (x : XM) (s : State) : Outcome State Fault Refusal :=
  laneFlagOp (.qnt f x) s f.d.toNat fun c l =>
    match fmtOfCode (x.off.toNat % 64) (decide (x.off.toNat / 64 % 2 = 1)) with
    | none => (0, 0)
    | some d =>
      let t := fltType x.size.toNat
      let v (l : Nat) : Word := srcLane s c f.a.toNat l
      quantLane t d x (deriveScale d ((lanesOf c.act).map fun l => t.decode (v l).toNat)) (v l)
        (srcLane s c f.b.toNat l) (srcLane s c x.c.toNat l)

/-- DQNT (R222). -/
def execDqnt (f : F3) (x : XM) (s : State) : Outcome State Fault Refusal :=
  laneFlagOp (.dqnt f x) s f.d.toNat fun c l =>
    match fmtOfCode (x.off.toNat % 64) (decide (x.off.toNat / 64 % 2 = 1)) with
    | none => (0, 0)
    | some d =>
      let r := exactMul (d.decode (srcLane s c f.a.toNat l).toNat) (s10Decode ((srcLane s c f.b.toNat l).toNat % 1024))
      let q := roundExact .f32 .rne false r.1
      (q.1, q.2 ||| r.2)

/-- PACK (R223). -/
def execPack (f : F3) (x : XM) (s : State) : Outcome State Fault Refusal :=
  laneOp (.pack f x) s f.d.toNat fun c l =>
    let e := 4 * 2 ^ x.size.toNat
    let g := 32 / e
    wd (((List.range g).map fun k => (srcLane s c f.a.toNat (l - l % g + k)).toNat % 2 ^ e * 2 ^ (e * k)).sum)

/-- UNPK (R223). -/
def execUnpk (f : F3) (x : XM) (s : State) : Outcome State Fault Refusal :=
  laneOp (.unpk f x) s f.d.toNat fun c l =>
    let e := 4 * 2 ^ x.size.toNat
    let g := 32 / e
    let v := (srcLane s c f.a.toNat (l - l % g)).toNat / 2 ^ (e * (l % g)) % 2 ^ e
    if x.off.toNat % 2 = 1 then BitVec.ofInt 32 (sext e v) else wd v

/-- SHFL (R225). -/
def execShfl (f : F3) (x : XM) (s : State) : Outcome State Fault Refusal :=
  laneOp (.shfl f x) s f.d.toNat fun c l =>
    let n := (srcLane s c f.b.toNat l).toNat
    let j := match x.off.toNat % 4 with
      | 0 => n % 32
      | 1 => if l < n then l else l - n
      | 2 => if 31 < l + n then l else l + n
      | _ => l ^^^ (n % 32)
    srcLane s c f.a.toNat j

/-- BCAST (R225). -/
def execBcast (f : F3) (x : XM) (s : State) : Outcome State Fault Refusal :=
  laneOp (.bcast f x) s f.d.toNat fun c _ =>
    let j := if x.off.toNat / 32 % 2 = 1 then x.off.toNat % 32 else (lowLane c.act).getD 0
    srcLane s c f.a.toNat j

/-- VOTE (R226). -/
def execVote (f : F3) (x : XM) (s : State) : Outcome State Fault Refusal :=
  issue (.vote f x) s fun c =>
    let p := readP c.w f.a.toNat
    let v := match x.off.toNat % 4 with
      | 0 => decide (c.act &&& p = c.act)
      | 1 => decide (c.act &&& p ≠ 0)
      | _ => decide (c.act &&& p = c.act ∨ c.act &&& p = 0)
    { next :=
        if x.off.toNat % 4 = 3 then goOn s c (putLanes c c.k f.d.toNat fun _ => c.act &&& p) c.w
        else goOn s c c.k (writeP c.w f.d.toNat c.act fun _ => v) }

/-- REDADD (R227). -/
def execRedadd (f : F3) (x : XM) (s : State) : Outcome State Fault Refusal :=
  reduceOp (.redadd f x) f x s 0

/-- REDMIN (R227). -/
def execRedmin (f : F3) (x : XM) (s : State) : Outcome State Fault Refusal :=
  reduceOp (.redmin f x) f x s 1

/-- REDMAX (R227). -/
def execRedmax (f : F3) (x : XM) (s : State) : Outcome State Fault Refusal :=
  reduceOp (.redmax f x) f x s 2

/-- REDMINI (R228). -/
def execRedmini (f : F3) (x : XM) (s : State) : Outcome State Fault Refusal :=
  indexReduceOp (.redmini f x) f x s false

/-- REDMAXI (R228). -/
def execRedmaxi (f : F3) (x : XM) (s : State) : Outcome State Fault Refusal :=
  indexReduceOp (.redmaxi f x) f x s true

/-- SCAN (R229). -/
def execScan (f : F3) (x : XM) (s : State) : Outcome State Fault Refusal :=
  laneFlagOp (.scan f x) s f.d.toNat fun c l =>
    let op := x.off.toNat % 4
    let excl := decide (x.off.toNat / 4 % 2 = 1)
    let vs := ((lanesOf c.act).filter fun m => decide (m < l) || (!excl && decide (m = l))).map fun m =>
      srcLane s c f.a.toNat m
    if vs = [] then (scanIdentity x op, 0) else reduce x op vs

/-- MATCH (R226). -/
def execMatch (f : F3) (x : XM) (s : State) : Outcome State Fault Refusal :=
  laneOp (.match_ f x) s f.d.toNat fun c l =>
    let v := srcLane s c f.a.toNat l
    maskOf fun m => hasLane c.act m && decide (srcLane s c f.a.toNat m = v)

/-- MOVI (R207). -/
def execMovi (f : F2I) (s : State) : Outcome State Fault Refusal :=
  laneOp (.movi f) s f.d.toNat fun _ _ => f.imm.signExtend 32

end Sys2Proof.Machine
end

