-- ==== Sys2Proof/Machine/ValuLiteral.lean ====
section
/-! DEFINITION. The meanings of the literal forms of the VALU page (R188, R193). -/

namespace Sys2Proof.Machine

open Host (Outcome)

/-- IADD with a literal (R188, R204). -/
def execIaddLiteral (f : F3) (x : XM) (l : Word) (s : State) : Outcome State Fault Refusal :=
  intOp (.iaddLiteral f x l) f x s fun _ a b _ => a + b

/-- ISUB with a literal (R188, R204). -/
def execIsubLiteral (f : F3) (x : XM) (l : Word) (s : State) : Outcome State Fault Refusal :=
  intOp (.isubLiteral f x l) f x s fun _ a b _ => a - b

/-- IMUL with a literal (R188, R204). -/
def execImulLiteral (f : F3) (x : XM) (l : Word) (s : State) : Outcome State Fault Refusal :=
  intOp (.imulLiteral f x l) f x s fun _ a b _ => a * b

/-- IMULHI with a literal (R188, R204). -/
def execImulhiLiteral (f : F3) (x : XM) (l : Word) (s : State) : Outcome State Fault Refusal :=
  intOp (.imulhiLiteral f x l) f x s fun t a b _ => a * b / (2 ^ t.bits : Nat)

/-- IMAD with a literal (R188, R204). -/
def execImadLiteral (f : F3) (x : XM) (l : Word) (s : State) : Outcome State Fault Refusal :=
  intOp (.imadLiteral f x l) f x s fun _ a b c => a * b + c

/-- IMIN with a literal (R188, R204). -/
def execIminLiteral (f : F3) (x : XM) (l : Word) (s : State) : Outcome State Fault Refusal :=
  intOp (.iminLiteral f x l) f x s fun _ a b _ => min a b

/-- IMAX with a literal (R188, R204). -/
def execImaxLiteral (f : F3) (x : XM) (l : Word) (s : State) : Outcome State Fault Refusal :=
  intOp (.imaxLiteral f x l) f x s fun _ a b _ => max a b

/-- IADDC with a literal (R188, R205). -/
def execIaddcLiteral (f : F3) (x : XM) (l : Word) (s : State) : Outcome State Fault Refusal :=
  carryOp (.iaddcLiteral f x l) f x s

/-- AND with a literal (R188, R206). -/
def execAndLiteral (f : F3) (l : Word) (s : State) : Outcome State Fault Refusal :=
  bitOp (.andLiteral f l) f s fun a b => a &&& b

/-- OR with a literal (R188, R206). -/
def execOrLiteral (f : F3) (l : Word) (s : State) : Outcome State Fault Refusal :=
  bitOp (.orLiteral f l) f s fun a b => a ||| b

/-- XOR with a literal (R188, R206). -/
def execXorLiteral (f : F3) (l : Word) (s : State) : Outcome State Fault Refusal :=
  bitOp (.xorLiteral f l) f s fun a b => a ^^^ b

/-- ANDN with a literal (R188, R206). -/
def execAndnLiteral (f : F3) (l : Word) (s : State) : Outcome State Fault Refusal :=
  bitOp (.andnLiteral f l) f s fun a b => a &&& ~~~b

/-- SHL with a literal (R188, R206). -/
def execShlLiteral (f : F3) (l : Word) (s : State) : Outcome State Fault Refusal :=
  bitOp (.shlLiteral f l) f s shiftL

/-- SHR with a literal (R188, R206). -/
def execShrLiteral (f : F3) (l : Word) (s : State) : Outcome State Fault Refusal :=
  bitOp (.shrLiteral f l) f s shiftR

/-- SAR with a literal (R188, R206). -/
def execSarLiteral (f : F3) (l : Word) (s : State) : Outcome State Fault Refusal :=
  bitOp (.sarLiteral f l) f s shiftA

/-- ROTL with a literal (R188, R206). -/
def execRotlLiteral (f : F3) (l : Word) (s : State) : Outcome State Fault Refusal :=
  bitOp (.rotlLiteral f l) f s rotateL

/-- BFX with a literal (R188, R208). -/
def execBfxLiteral (f : F3) (x : XM) (l : Word) (s : State) : Outcome State Fault Refusal :=
  wordOp3 (.bfxLiteral f x l) f x s fun a b _ => bitExtract (decide (x.size = 1)) a b

/-- BFI with a literal (R188, R208). -/
def execBfiLiteral (f : F3) (x : XM) (l : Word) (s : State) : Outcome State Fault Refusal :=
  wordOp3 (.bfiLiteral f x l) f x s bitInsert

/-- PRMT with a literal (R188, R209). -/
def execPrmtLiteral (f : F3) (x : XM) (l : Word) (s : State) : Outcome State Fault Refusal :=
  wordOp3 (.prmtLiteral f x l) f x s permute

/-- LEA with a literal (R188, R210). -/
def execLeaLiteral (f : F3) (x : XM) (l : Word) (s : State) : Outcome State Fault Refusal :=
  leaOp (.leaLiteral f x l) f x s

/-- ICMP with a literal (R188, R211). -/
def execIcmpLiteral (f : F3) (x : XM) (l : Word) (s : State) : Outcome State Fault Refusal :=
  icmpOp (.icmpLiteral f x l) f x s

/-- SEL with a literal (R188, R211). -/
def execSelLiteral (f : F3) (x : XM) (l : Word) (s : State) : Outcome State Fault Refusal :=
  selOp (.selLiteral f x l) f x s

/-- MOV with a literal (R188, R206). -/
def execMovLiteral (f : F3) (l : Word) (s : State) : Outcome State Fault Refusal :=
  bitOp (.movLiteral f l) f s fun a _ => a

/-- HASH32 with a literal (R188, R212). -/
def execHash32Literal (f : F3) (x : XM) (l : Word) (s : State) : Outcome State Fault Refusal :=
  wordOp3 (.hash32Literal f x l) f x s hash32

/-- FADD with a literal (R188, R213). -/
def execFaddLiteral (f : F3) (x : XM) (l : Word) (s : State) : Outcome State Fault Refusal :=
  floatOp (.faddLiteral f x l) f x s fun r a b _ => exactSum r [a, b]

/-- FSUB with a literal (R188, R213). -/
def execFsubLiteral (f : F3) (x : XM) (l : Word) (s : State) : Outcome State Fault Refusal :=
  floatOp (.fsubLiteral f x l) f x s fun r a b _ => exactSum r [a, b.neg]

/-- FMUL with a literal (R188, R213). -/
def execFmulLiteral (f : F3) (x : XM) (l : Word) (s : State) : Outcome State Fault Refusal :=
  floatOp (.fmulLiteral f x l) f x s fun _ a b _ => exactMul a b

/-- FFMA with a literal (R188, R213). -/
def execFfmaLiteral (f : F3) (x : XM) (l : Word) (s : State) : Outcome State Fault Refusal :=
  floatOp (.ffmaLiteral f x l) f x s exactFma

/-- FMIN with a literal (R188, R214). -/
def execFminLiteral (f : F3) (x : XM) (l : Word) (s : State) : Outcome State Fault Refusal :=
  minMaxOp (.fminLiteral f x l) f x s false

/-- FMAX with a literal (R188, R214). -/
def execFmaxLiteral (f : F3) (x : XM) (l : Word) (s : State) : Outcome State Fault Refusal :=
  minMaxOp (.fmaxLiteral f x l) f x s true

/-- FCMP with a literal (R188, R215). -/
def execFcmpLiteral (f : F3) (x : XM) (l : Word) (s : State) : Outcome State Fault Refusal :=
  fcmpOp (.fcmpLiteral f x l) f x s

/-- FSCALE with a literal (R188, R213). -/
def execFscaleLiteral (f : F3) (x : XM) (l : Word) (s : State) : Outcome State Fault Refusal :=
  scaleOp (.fscaleLiteral f x l) f x s

/-- PADD with a literal (R188, R219). -/
def execPaddLiteral (f : F3) (x : XM) (l : Word) (s : State) : Outcome State Fault Refusal :=
  packedOp (.paddLiteral f x l) f x s fun r a b _ => exactSum r [a, b]

/-- PMUL with a literal (R188, R219). -/
def execPmulLiteral (f : F3) (x : XM) (l : Word) (s : State) : Outcome State Fault Refusal :=
  packedOp (.pmulLiteral f x l) f x s fun _ a b _ => exactMul a b

/-- PFMA with a literal (R188, R219). -/
def execPfmaLiteral (f : F3) (x : XM) (l : Word) (s : State) : Outcome State Fault Refusal :=
  packedOp (.pfmaLiteral f x l) f x s exactFma

/-- CVT with a literal (R188, R220). -/
def execCvtLiteral (f : F3) (x : XM) (l : Word) (s : State) : Outcome State Fault Refusal :=
  cvtOp (.cvtLiteral f x l) f x s

end Sys2Proof.Machine
end

