-- ==== Sys2Proof/Machine/Dispatch.lean ====
section
/-! DEFINITION. The dispatch: one arm per constructor of `Instr`, each one direct call of that instruction's meaning. -/

namespace Sys2Proof.Machine

/-- The meaning of an instruction. -/
def exec (i : Instr) (s : State) : Host.Outcome State Fault Refusal :=
  match i with
  | .iadd f x => Sys2Proof.Machine.execIadd f x s
  | .isub f x => Sys2Proof.Machine.execIsub f x s
  | .imul f x => Sys2Proof.Machine.execImul f x s
  | .imulhi f x => Sys2Proof.Machine.execImulhi f x s
  | .imad f x => Sys2Proof.Machine.execImad f x s
  | .imin f x => Sys2Proof.Machine.execImin f x s
  | .imax f x => Sys2Proof.Machine.execImax f x s
  | .iaddc f x => Sys2Proof.Machine.execIaddc f x s
  | .and_ f => Sys2Proof.Machine.execAnd f s
  | .or_ f => Sys2Proof.Machine.execOr f s
  | .xor_ f => Sys2Proof.Machine.execXor f s
  | .andn f => Sys2Proof.Machine.execAndn f s
  | .shl f => Sys2Proof.Machine.execShl f s
  | .shr f => Sys2Proof.Machine.execShr f s
  | .sar f => Sys2Proof.Machine.execSar f s
  | .rotl f => Sys2Proof.Machine.execRotl f s
  | .bfx f x => Sys2Proof.Machine.execBfx f x s
  | .bfi f x => Sys2Proof.Machine.execBfi f x s
  | .prmt f x => Sys2Proof.Machine.execPrmt f x s
  | .lea f x => Sys2Proof.Machine.execLea f x s
  | .icmp f x => Sys2Proof.Machine.execIcmp f x s
  | .sel f x => Sys2Proof.Machine.execSel f x s
  | .mov f => Sys2Proof.Machine.execMov f s
  | .hash32 f x => Sys2Proof.Machine.execHash32 f x s
  | .fadd f x => Sys2Proof.Machine.execFadd f x s
  | .fsub f x => Sys2Proof.Machine.execFsub f x s
  | .fmul f x => Sys2Proof.Machine.execFmul f x s
  | .ffma f x => Sys2Proof.Machine.execFfma f x s
  | .fmin f x => Sys2Proof.Machine.execFmin f x s
  | .fmax f x => Sys2Proof.Machine.execFmax f x s
  | .fcmp f x => Sys2Proof.Machine.execFcmp f x s
  | .fscale f x => Sys2Proof.Machine.execFscale f x s
  | .padd f x => Sys2Proof.Machine.execPadd f x s
  | .pmul f x => Sys2Proof.Machine.execPmul f x s
  | .pfma f x => Sys2Proof.Machine.execPfma f x s
  | .cvt f x => Sys2Proof.Machine.execCvt f x s
  | .iabs f x => Sys2Proof.Machine.execIabs f x s
  | .ineg f x => Sys2Proof.Machine.execIneg f x s
  | .not_ f => Sys2Proof.Machine.execNot f s
  | .popc f => Sys2Proof.Machine.execPopc f s
  | .clz f => Sys2Proof.Machine.execClz f s
  | .brev f => Sys2Proof.Machine.execBrev f s
  | .fclass f x => Sys2Proof.Machine.execFclass f x s
  | .frnd f x => Sys2Proof.Machine.execFrnd f x s
  | .frcp f x => Sys2Proof.Machine.execFrcp f x s
  | .frsq f x => Sys2Proof.Machine.execFrsq f x s
  | .fsqrt f x => Sys2Proof.Machine.execFsqrt f x s
  | .fexp2 f x => Sys2Proof.Machine.execFexp2 f x s
  | .flog2 f x => Sys2Proof.Machine.execFlog2 f x s
  | .fsin f x => Sys2Proof.Machine.execFsin f x s
  | .fcos f x => Sys2Proof.Machine.execFcos f x s
  | .ftanh f x => Sys2Proof.Machine.execFtanh f x s
  | .movi f => Sys2Proof.Machine.execMovi f s
  | .qnt f x => Sys2Proof.Machine.execQnt f x s
  | .dqnt f x => Sys2Proof.Machine.execDqnt f x s
  | .pack f x => Sys2Proof.Machine.execPack f x s
  | .unpk f x => Sys2Proof.Machine.execUnpk f x s
  | .shfl f x => Sys2Proof.Machine.execShfl f x s
  | .bcast f x => Sys2Proof.Machine.execBcast f x s
  | .vote f x => Sys2Proof.Machine.execVote f x s
  | .redadd f x => Sys2Proof.Machine.execRedadd f x s
  | .redmin f x => Sys2Proof.Machine.execRedmin f x s
  | .redmax f x => Sys2Proof.Machine.execRedmax f x s
  | .redmini f x => Sys2Proof.Machine.execRedmini f x s
  | .redmaxi f x => Sys2Proof.Machine.execRedmaxi f x s
  | .scan f x => Sys2Proof.Machine.execScan f x s
  | .match_ f x => Sys2Proof.Machine.execMatch f x s
  | .iaddLiteral f x l => Sys2Proof.Machine.execIaddLiteral f x l s
  | .isubLiteral f x l => Sys2Proof.Machine.execIsubLiteral f x l s
  | .imulLiteral f x l => Sys2Proof.Machine.execImulLiteral f x l s
  | .imulhiLiteral f x l => Sys2Proof.Machine.execImulhiLiteral f x l s
  | .imadLiteral f x l => Sys2Proof.Machine.execImadLiteral f x l s
  | .iminLiteral f x l => Sys2Proof.Machine.execIminLiteral f x l s
  | .imaxLiteral f x l => Sys2Proof.Machine.execImaxLiteral f x l s
  | .iaddcLiteral f x l => Sys2Proof.Machine.execIaddcLiteral f x l s
  | .andLiteral f l => Sys2Proof.Machine.execAndLiteral f l s
  | .orLiteral f l => Sys2Proof.Machine.execOrLiteral f l s
  | .xorLiteral f l => Sys2Proof.Machine.execXorLiteral f l s
  | .andnLiteral f l => Sys2Proof.Machine.execAndnLiteral f l s
  | .shlLiteral f l => Sys2Proof.Machine.execShlLiteral f l s
  | .shrLiteral f l => Sys2Proof.Machine.execShrLiteral f l s
  | .sarLiteral f l => Sys2Proof.Machine.execSarLiteral f l s
  | .rotlLiteral f l => Sys2Proof.Machine.execRotlLiteral f l s
  | .bfxLiteral f x l => Sys2Proof.Machine.execBfxLiteral f x l s
  | .bfiLiteral f x l => Sys2Proof.Machine.execBfiLiteral f x l s
  | .prmtLiteral f x l => Sys2Proof.Machine.execPrmtLiteral f x l s
  | .leaLiteral f x l => Sys2Proof.Machine.execLeaLiteral f x l s
  | .icmpLiteral f x l => Sys2Proof.Machine.execIcmpLiteral f x l s
  | .selLiteral f x l => Sys2Proof.Machine.execSelLiteral f x l s
  | .movLiteral f l => Sys2Proof.Machine.execMovLiteral f l s
  | .hash32Literal f x l => Sys2Proof.Machine.execHash32Literal f x l s
  | .faddLiteral f x l => Sys2Proof.Machine.execFaddLiteral f x l s
  | .fsubLiteral f x l => Sys2Proof.Machine.execFsubLiteral f x l s
  | .fmulLiteral f x l => Sys2Proof.Machine.execFmulLiteral f x l s
  | .ffmaLiteral f x l => Sys2Proof.Machine.execFfmaLiteral f x l s
  | .fminLiteral f x l => Sys2Proof.Machine.execFminLiteral f x l s
  | .fmaxLiteral f x l => Sys2Proof.Machine.execFmaxLiteral f x l s
  | .fcmpLiteral f x l => Sys2Proof.Machine.execFcmpLiteral f x l s
  | .fscaleLiteral f x l => Sys2Proof.Machine.execFscaleLiteral f x l s
  | .paddLiteral f x l => Sys2Proof.Machine.execPaddLiteral f x l s
  | .pmulLiteral f x l => Sys2Proof.Machine.execPmulLiteral f x l s
  | .pfmaLiteral f x l => Sys2Proof.Machine.execPfmaLiteral f x l s
  | .cvtLiteral f x l => Sys2Proof.Machine.execCvtLiteral f x l s
  | .sadd f => Sys2Proof.Machine.execSadd f s
  | .ssub f => Sys2Proof.Machine.execSsub f s
  | .smul f => Sys2Proof.Machine.execSmul f s
  | .sand f => Sys2Proof.Machine.execSand f s
  | .sor f => Sys2Proof.Machine.execSor f s
  | .sxor f => Sys2Proof.Machine.execSxor f s
  | .sshl f => Sys2Proof.Machine.execSshl f s
  | .sshr f => Sys2Proof.Machine.execSshr f s
  | .ssar f => Sys2Proof.Machine.execSsar f s
  | .smin f => Sys2Proof.Machine.execSmin f s
  | .smax f => Sys2Proof.Machine.execSmax f s
  | .scmp f => Sys2Proof.Machine.execScmp f s
  | .ssel f => Sys2Proof.Machine.execSsel f s
  | .smov f => Sys2Proof.Machine.execSmov f s
  | .smovi f => Sys2Proof.Machine.execSmovi f s
  | .sld f => Sys2Proof.Machine.execSld f s
  | .readlane f => Sys2Proof.Machine.execReadlane f s
  | .sbcast f => Sys2Proof.Machine.execSbcast f s
  | .saddLiteral f l => Sys2Proof.Machine.execSaddLiteral f l s
  | .ssubLiteral f l => Sys2Proof.Machine.execSsubLiteral f l s
  | .smulLiteral f l => Sys2Proof.Machine.execSmulLiteral f l s
  | .sandLiteral f l => Sys2Proof.Machine.execSandLiteral f l s
  | .sorLiteral f l => Sys2Proof.Machine.execSorLiteral f l s
  | .sxorLiteral f l => Sys2Proof.Machine.execSxorLiteral f l s
  | .sshlLiteral f l => Sys2Proof.Machine.execSshlLiteral f l s
  | .sshrLiteral f l => Sys2Proof.Machine.execSshrLiteral f l s
  | .ssarLiteral f l => Sys2Proof.Machine.execSsarLiteral f l s
  | .sminLiteral f l => Sys2Proof.Machine.execSminLiteral f l s
  | .smaxLiteral f l => Sys2Proof.Machine.execSmaxLiteral f l s
  | .scmpLiteral f l => Sys2Proof.Machine.execScmpLiteral f l s
  | .sselLiteral f l => Sys2Proof.Machine.execSselLiteral f l s
  | .smovLiteral f l => Sys2Proof.Machine.execSmovLiteral f l s
  | .bra f => Sys2Proof.Machine.execBra f s
  | .brp f => Sys2Proof.Machine.execBrp f s
  | .call f => Sys2Proof.Machine.execCall f s
  | .jmpi f => Sys2Proof.Machine.execJmpi f s
  | .ret f => Sys2Proof.Machine.execRet f s
  | .exit f => Sys2Proof.Machine.execExit f s
  | .trap f => Sys2Proof.Machine.execTrap f s
  | .rconv f => Sys2Proof.Machine.execRconv f s
  | .yield f => Sys2Proof.Machine.execYield f s
  | .nop f => Sys2Proof.Machine.execNop f s
  | .sleep f => Sys2Proof.Machine.execSleep f s
  | .fork f x => Sys2Proof.Machine.execFork f x s
  | .join_ f => Sys2Proof.Machine.execJoin f s
  | .spawn f x => Sys2Proof.Machine.execSpawn f x s
  | .ldPair f x => Sys2Proof.Machine.execLdPair f x s
  | .stPair f x => Sys2Proof.Machine.execStPair f x s
  | .ldaPair f x => Sys2Proof.Machine.execLdaPair f x s
  | .stlPair f x => Sys2Proof.Machine.execStlPair f x s
  | .atomPair f x => Sys2Proof.Machine.execAtomPair f x s
  | .atomnPair f x => Sys2Proof.Machine.execAtomnPair f x s
  | .casPair f x => Sys2Proof.Machine.execCasPair f x s
  | .pref f x => Sys2Proof.Machine.execPref f x s
  | .ldLocal f x => Sys2Proof.Machine.execLdLocal f x s
  | .stLocal f x => Sys2Proof.Machine.execStLocal f x s
  | .ldaLocal f x => Sys2Proof.Machine.execLdaLocal f x s
  | .stlLocal f x => Sys2Proof.Machine.execStlLocal f x s
  | .atomLocal f x => Sys2Proof.Machine.execAtomLocal f x s
  | .atomnLocal f x => Sys2Proof.Machine.execAtomnLocal f x s
  | .casLocal f x => Sys2Proof.Machine.execCasLocal f x s
  | .publish f x => Sys2Proof.Machine.execPublish f x s
  | .fence f x => Sys2Proof.Machine.execFence f x s
  | .fencex f x => Sys2Proof.Machine.execFencex f x s
  | .rdenter f => Sys2Proof.Machine.execRdenter f s
  | .rdexit f => Sys2Proof.Machine.execRdexit f s
  | .retire f x => Sys2Proof.Machine.execRetire f x s
  | .grace f => Sys2Proof.Machine.execGrace f s
  | .append f x => Sys2Proof.Machine.execAppend f x s
  | .acommit f x => Sys2Proof.Machine.execAcommit f x s
  | .ahead f x => Sys2Proof.Machine.execAhead f x s
  | .bara f => Sys2Proof.Machine.execBara f s
  | .barw f => Sys2Proof.Machine.execBarw f s
  | .bar f => Sys2Proof.Machine.execBar f s
  | .wqpush f x => Sys2Proof.Machine.execWqpush f x s
  | .wqpop f x => Sys2Proof.Machine.execWqpop f x s
  | .chopenTx f => Sys2Proof.Machine.execChopenTx f s
  | .chopenRx f => Sys2Proof.Machine.execChopenRx f s
  | .chclose f => Sys2Proof.Machine.execChclose f s
  | .send f => Sys2Proof.Machine.execSend f s
  | .recv f => Sys2Proof.Machine.execRecv f s
  | .chfence f => Sys2Proof.Machine.execChfence f s
  | .cpld f x => Sys2Proof.Machine.execCpld f x s
  | .cpst f x => Sys2Proof.Machine.execCpst f x s
  | .cpgather f x => Sys2Proof.Machine.execCpgather f x s
  | .cpscatter f x => Sys2Proof.Machine.execCpscatter f x s
  | .cpfill f x => Sys2Proof.Machine.execCpfill f x s
  | .cppagein f x => Sys2Proof.Machine.execCppagein f x s
  | .cpstat f x => Sys2Proof.Machine.execCpstat f x s
  | .cphand f x => Sys2Proof.Machine.execCphand f x s
  | .cpcancel f x => Sys2Proof.Machine.execCpcancel f x s
  | .mclaim f => Sys2Proof.Machine.execMclaim f s
  | .mrel f => Sys2Proof.Machine.execMrel f s
  | .mfill f => Sys2Proof.Machine.execMfill f s
  | .mfillArg f => Sys2Proof.Machine.execMfillArg f s
  | .mzero f => Sys2Proof.Machine.execMzero f s
  | .mdrain f => Sys2Proof.Machine.execMdrain f s
  | .mwait f => Sys2Proof.Machine.execMwait f s
  | .mstat f => Sys2Proof.Machine.execMstat f s
  | .mscl f => Sys2Proof.Machine.execMscl f s
  | .mscacc f => Sys2Proof.Machine.execMscacc f s
  | .mhad f => Sys2Proof.Machine.execMhad f s
  | .mmb f => Sys2Proof.Machine.execMmb f s
  | .mmaBf16 f => Sys2Proof.Machine.execMmaBf16 f s
  | .mmaF16 f => Sys2Proof.Machine.execMmaF16 f s
  | .mmaI8 f => Sys2Proof.Machine.execMmaI8 f s
  | .mmaP8 f => Sys2Proof.Machine.execMmaP8 f s
  | .mmaE2m1 f => Sys2Proof.Machine.execMmaE2m1 f s
  | .mmaMxp8 f => Sys2Proof.Machine.execMmaMxp8 f s
  | .mmaMxe2m1 f => Sys2Proof.Machine.execMmaMxe2m1 f s
  | .csrrd f x => Sys2Proof.Machine.execCsrrd f x s
  | .csrwr f x => Sys2Proof.Machine.execCsrwr f x s
  | .treturn f => Sys2Proof.Machine.execTreturn f s
  | .cycle f => Sys2Proof.Machine.execCycle f s
  | .genq f => Sys2Proof.Machine.execGenq f s
  | .dbgbrk f => Sys2Proof.Machine.execDbgbrk f s
  | .ckpt f => Sys2Proof.Machine.execCkpt f s
  | .rollbk f => Sys2Proof.Machine.execRollbk f s
  | .sigrd f => Sys2Proof.Machine.execSigrd f s
  | .suspq f => Sys2Proof.Machine.execSuspq f s
  | .spstat f => Sys2Proof.Machine.execSpstat f s
  | .regacq f => Sys2Proof.Machine.execRegacq f s
  | .regrel f => Sys2Proof.Machine.execRegrel f s
  | .spbegin f => Sys2Proof.Machine.execSpbegin f s
  | .spguess f => Sys2Proof.Machine.execSpguess f s
  | .spcmp f => Sys2Proof.Machine.execSpcmp f s
  | .spend f => Sys2Proof.Machine.execSpend f s
  | .powerOn idOk bistOk bad => Sys2Proof.Machine.execPowerOn idOk bistOk bad s
  | .registerWrite r v => Sys2Proof.Machine.execRegisterWrite r v s
  | .strikeReport die pos residue => Sys2Proof.Machine.execStrikeReport die pos residue s
  | .replayRestore launch => Sys2Proof.Machine.execReplayRestore launch s
  | .rollbackSheadRestore wg => Sys2Proof.Machine.execRollbackSheadRestore wg s
  | .agedEntryToHead core slot entry => Sys2Proof.Machine.execAgedEntryToHead core slot entry s
  | .overflowRejoin core slot => Sys2Proof.Machine.execOverflowRejoin core slot s
  | .faultRejoin core slot => Sys2Proof.Machine.execFaultRejoin core slot s
  | .workgroupAdmission launch cores => Sys2Proof.Machine.execWorkgroupAdmission launch cores s
  | .regacqGrant core quad => Sys2Proof.Machine.execRegacqGrant core quad s
  | .poolRootPush launch => Sys2Proof.Machine.execPoolRootPush launch s
  | .poolWarpForm core bin => Sys2Proof.Machine.execPoolWarpForm core bin s
  | .sequencerProgramStart cluster => Sys2Proof.Machine.execSequencerProgramStart cluster s
  | .translationWalkDone core walk => Sys2Proof.Machine.execTranslationWalkDone core walk s
  | .remoteWindowAccess req => Sys2Proof.Machine.execRemoteWindowAccess req s
  | .homeSliceServe req => Sys2Proof.Machine.execHomeSliceServe req s
  | .brineEntryLeave wg q => Sys2Proof.Machine.execBrineEntryLeave wg q s
  | .writeAck msg => Sys2Proof.Machine.execWriteAck msg s
  | .loadResponse msg => Sys2Proof.Machine.execLoadResponse msg s
  | .errorCompletion msg => Sys2Proof.Machine.execErrorCompletion msg s
  | .requestTimeoutExpiry req => Sys2Proof.Machine.execRequestTimeoutExpiry req s
  | .inboundAccess a => Sys2Proof.Machine.execInboundAccess a s
  | .inboundPeerAccess dev exp key initiator a => Sys2Proof.Machine.execInboundPeerAccess dev exp key initiator a s
  | .channelDelivery req => Sys2Proof.Machine.execChannelDelivery req s
  | .copyCommandComplete core cmd => Sys2Proof.Machine.execCopyCommandComplete core cmd s
  | .pageInComplete dev page => Sys2Proof.Machine.execPageInComplete dev page s
  | .copyAsideComplete dev page => Sys2Proof.Machine.execCopyAsideComplete dev page s
  | .arrayOpStart cluster => Sys2Proof.Machine.execArrayOpStart cluster s
  | .gracePeriodStart dev => Sys2Proof.Machine.execGracePeriodStart dev s
  | .flipAdopt core => Sys2Proof.Machine.execFlipAdopt core s
  | .flipAck node child => Sys2Proof.Machine.execFlipAck node child s
  | .drainPoll node => Sys2Proof.Machine.execDrainPoll node s
  | .gracePeriodComplete dev => Sys2Proof.Machine.execGracePeriodComplete dev s
  | .retireEntryAppend req => Sys2Proof.Machine.execRetireEntryAppend req s
  | .retireAction dev => Sys2Proof.Machine.execRetireAction dev s
  | .tagSweep core => Sys2Proof.Machine.execTagSweep core s
  | .generationRenewal core a => Sys2Proof.Machine.execGenerationRenewal core a s
  | .debugHalt core slot => Sys2Proof.Machine.execDebugHalt core slot s
  | .debugResume core slot => Sys2Proof.Machine.execDebugResume core slot s
  | .debugRelease core slot => Sys2Proof.Machine.execDebugRelease core slot s
  | .debugRead core u dst => Sys2Proof.Machine.execDebugRead core u dst s
  | .debugWrite core u data tag => Sys2Proof.Machine.execDebugWrite core u data tag s
  | .checkpointTake wg => Sys2Proof.Machine.execCheckpointTake wg s
  | .checkpointTaken wg => Sys2Proof.Machine.execCheckpointTaken wg s
  | .checkpointDeltaAck wg => Sys2Proof.Machine.execCheckpointDeltaAck wg s
  | .checkpointCommit wg => Sys2Proof.Machine.execCheckpointCommit wg s
  | .checkpointIntervalExpiry wg => Sys2Proof.Machine.execCheckpointIntervalExpiry wg s
  | .externalOpIssue wg => Sys2Proof.Machine.execExternalOpIssue wg s
  | .twinVote wg => Sys2Proof.Machine.execTwinVote wg s
  | .thirdCopyStart wg core => Sys2Proof.Machine.execThirdCopyStart wg core s
  | .preempt wg => Sys2Proof.Machine.execPreempt wg s
  | .contextSave wg => Sys2Proof.Machine.execContextSave wg s
  | .contextRestore wg core => Sys2Proof.Machine.execContextRestore wg core s
  | .launchComplete launch => Sys2Proof.Machine.execLaunchComplete launch s
  | .sleepExpiry core slot => Sys2Proof.Machine.execSleepExpiry core slot s
  | .meshArbitration die x y out => Sys2Proof.Machine.execMeshArbitration die x y out s
  | .packetUrgent die x y input vc => Sys2Proof.Machine.execPacketUrgent die x y input vc s
  | .pmodeModeWrite mode => Sys2Proof.Machine.execPmodeModeWrite mode s
  | .modeChangeDone => Sys2Proof.Machine.execModeChangeDone s
  | .pmodeRefusedClear => Sys2Proof.Machine.execPmodeRefusedClear s
  | .clkptWrite dev v => Sys2Proof.Machine.execClkptWrite dev v s
  | .clockStretchDone dev => Sys2Proof.Machine.execClockStretchDone dev s
  | .hcshareWrite dev v => Sys2Proof.Machine.execHcshareWrite dev v s
  | .cxlPortEnable port => Sys2Proof.Machine.execCxlPortEnable port s
  | .cxlPortDisable port => Sys2Proof.Machine.execCxlPortDisable port s
  | .cxlTrainingDone port type3 cap => Sys2Proof.Machine.execCxlTrainingDone port type3 cap s
  | .expWrite dev exp v => Sys2Proof.Machine.execExpWrite dev exp v s
  | .pwinWrite dev win v => Sys2Proof.Machine.execPwinWrite dev win v s
  | .queueEnable dev q => Sys2Proof.Machine.execQueueEnable dev q s
  | .queueDisable dev q => Sys2Proof.Machine.execQueueDisable dev q s
  | .queueKick dev q v => Sys2Proof.Machine.execQueueKick dev q v s
  | .packetFetch dev q => Sys2Proof.Machine.execPacketFetch dev q s
  | .launchPacket dev q => Sys2Proof.Machine.execLaunchPacket dev q s
  | .waitPacket dev q => Sys2Proof.Machine.execWaitPacket dev q s
  | .waitConditionMet dev q => Sys2Proof.Machine.execWaitConditionMet dev q s
  | .signalPacket dev q => Sys2Proof.Machine.execSignalPacket dev q s
  | .writeThenSignalPacket dev q => Sys2Proof.Machine.execWriteThenSignalPacket dev q s
  | .copyPacket dev q => Sys2Proof.Machine.execCopyPacket dev q s
  | .handoverPacket dev q => Sys2Proof.Machine.execHandoverPacket dev q s
  | .fencePacket dev q => Sys2Proof.Machine.execFencePacket dev q s
  | .dawnPacket dev q => Sys2Proof.Machine.execDawnPacket dev q s
  | .dawnRequest dev addr => Sys2Proof.Machine.execDawnRequest dev addr s
  | .launchAbort dev id => Sys2Proof.Machine.execLaunchAbort dev id s
  | .sliceExpiry dev q => Sys2Proof.Machine.execSliceExpiry dev q s
  | .stealRequest thief dev q => Sys2Proof.Machine.execStealRequest thief dev q s
  | .queueOwnershipPass dev q => Sys2Proof.Machine.execQueueOwnershipPass dev q s
  | .queueReturnHome dev q => Sys2Proof.Machine.execQueueReturnHome dev q s
  | .mailboxMessage die msg => Sys2Proof.Machine.execMailboxMessage die msg s
  | .invalPage dev va space size => Sys2Proof.Machine.execInvalPage dev va space size s
  | .invalSpace dev space => Sys2Proof.Machine.execInvalSpace dev space s
  | .invalAll dev => Sys2Proof.Machine.execInvalAll dev s
  | .invalComplete dev => Sys2Proof.Machine.execInvalComplete dev s
  | .resolveResolved dev va space => Sys2Proof.Machine.execResolveResolved dev va space s
  | .resolveUnresolvable dev va space => Sys2Proof.Machine.execResolveUnresolvable dev va space s
  | .faultQueueConsume dev v => Sys2Proof.Machine.execFaultQueueConsume dev v s
  | .faultQueueEnable dev => Sys2Proof.Machine.execFaultQueueEnable dev s
  | .poolReturnPush dev => Sys2Proof.Machine.execPoolReturnPush dev s
  | .repairApply => Sys2Proof.Machine.execRepairApply s
  | .repairApplyDone => Sys2Proof.Machine.execRepairApplyDone s
  | .rasRefusedClear => Sys2Proof.Machine.execRasRefusedClear s
  | .imageLoad addr readable => Sys2Proof.Machine.execImageLoad addr readable s
  | .attestationRequest addr => Sys2Proof.Machine.execAttestationRequest addr s
  | .quoteWrite => Sys2Proof.Machine.execQuoteWrite s
  | .attdropClear => Sys2Proof.Machine.execAttdropClear s
  | .pendretSet die core => Sys2Proof.Machine.execPendretSet die core s
  | .monitorSample die mon v => Sys2Proof.Machine.execMonitorSample die mon v s
  | .monitorClear die mon => Sys2Proof.Machine.execMonitorClear die mon s
  | .monitorConfigure die mon qty src => Sys2Proof.Machine.execMonitorConfigure die mon qty src s
  | .podReplay dev id => Sys2Proof.Machine.execPodReplay dev id s
  | .podmemWrite dev v => Sys2Proof.Machine.execPodmemWrite dev v s
  | .peerLinkEnable link => Sys2Proof.Machine.execPeerLinkEnable link s
  | .peerLinkTrained link peer => Sys2Proof.Machine.execPeerLinkTrained link peer s
  | .heartbeatSend die => Sys2Proof.Machine.execHeartbeatSend die s
  | .heartbeatTimeout link => Sys2Proof.Machine.execHeartbeatTimeout link s
  | .powerControlTick pwr temps => Sys2Proof.Machine.execPowerControlTick pwr temps s
  | .thermalStop die temp => Sys2Proof.Machine.execThermalStop die temp s
  | .thermalRestart die temp => Sys2Proof.Machine.execThermalRestart die temp s
  | .matrixOperationComplete cluster => Sys2Proof.Machine.execMatrixOperationComplete cluster s
  | .heartbeatReceive link => Sys2Proof.Machine.execHeartbeatReceive link s
  | .peerLinkDisable link => Sys2Proof.Machine.execPeerLinkDisable link s
  | .peerTrafficRelay dev link dest data => Sys2Proof.Machine.execPeerTrafficRelay dev link dest data s

end Sys2Proof.Machine
end

