-- ==== Sys2Proof/Machine/Fetch.lean ====
section
/-! DEFINITION. Fetch and issue: code through the instruction cache (R181), clause headers and their waits (R13, R174 to R177,
R194, R283, R309), which warp a quadrant issues (R15, R36, R37), and the issue of one instruction of a warp or a sequencer. -/

namespace Sys2Proof.Machine

open Host (Outcome)

/-- Change the next state an outcome gives. -/
def onNext (f : State → State) : Outcome State Fault Refusal → Outcome State Fault Refusal
  | .next s => .next (f s)
  | .fault e => .fault e
  | .refused r => .refused r

/-! ### Code (R176, R177, R181) -/

/-- What fetching words finds: the words; a translation that fails; an address outside paged memory; uncorrectable data. -/
inductive Fetched where
  | ok (ws : List Word) | fault (va kind sub : Nat) (info : Double) | outside (va : Nat) | poison (pa : Nat)
  deriving DecidableEq, Repr

/-- Is the line of an address in a core's instruction cache? -/
def lineCached (s : State) (c space va : Nat) : Bool :=
  (s.core c).icache.any fun x => decide (x.space = space ∧ x.va = va / 64 * 64)

/-- One word of code. -/
def fetchOne (s : State) (c space va : Nat) : Fetched :=
  if lineCached s c space va then .ok [(codeWord s c space va).getD 0]
  else if regionOf va ≠ .paged then .outside va
  else
    let k := devOfCore s c
    match (cachedWalk s k space va (s.core c).codeTlb).1 with
    | .bad kind sub e => .fault va kind sub e
    | .leaf p _ size => if poisoned s k (pteAddr p + va % size) 4 then .poison (pteAddr p + va % size) else .ok [(codeWord s c space va).getD 0]

/-- n words of code from an address on, or what stops the first that cannot be had. -/
def fetchWords (s : State) (c space va : Nat) : Nat → Fetched
  | 0 => .ok []
  | n + 1 =>
    match fetchOne s c space va with
    | .ok w =>
      match fetchWords s c space (va + 4) n with
      | .ok ws => .ok (w ++ ws)
      | r => r
    | r => r

/-- The line of an address comes into the instruction cache, its page into the fetch path's TLB (R181, R391). -/
def fillLine (s : State) (c space va : Nat) : State :=
  if lineCached s c space va then s
  else
    let k := devOfCore s c
    let line := va / 64 * 64
    match cachedWalk s k space line (s.core c).codeTlb with
    | (.leaf p _ size, ts) =>
      match apOf s k (pteAddr p + line % size) with
      | some a =>
        s.updCore c fun x => { x with icache := { space := space, va := line, bytes := memBytes s.mem a 64 } :: x.icache, codeTlb := ts }
      | none => s
    | (.bad .., _) => s

/-- The lines of n words come into the instruction cache. -/
def fillWords (s : State) (c space va n : Nat) : State := (List.range n).foldl (fun s i => fillLine s c space (va + 4 * i)) s

/-- Words left in a clause from an address on. -/
def wordsLeft (cl : Clause) (pc : Double) : Nat := (cl.hdr.toNat + 4 * (cl.count + 1) - pc.toNat) / 4

/-- How many words an instruction takes by its first (Tables 9.8 to 9.14). -/
def wordsNeeded (page : Nat) (w : Word) : Nat := match build page w 0 0 with | some i => wordCount i | none => 1

/-- The words of the instruction at an address of a clause, those inside the clause. -/
def fetchInstr (s : State) (c space : Nat) (cl : Clause) (pc : Double) : Fetched :=
  match fetchOne s c space pc.toNat with
  | .ok w => fetchWords s c space pc.toNat (min (wordsNeeded cl.page (w.getD 0 0)) (wordsLeft cl pc))
  | r => r

/-! ### Clause headers (R174 to R176) -/

/-- The clause a header opens. -/
def clauseOf (hdr : Double) (h : Word) : Clause := { hdr := hdr, page := hdrPage h, count := hdrCount h }

/-- A fault of the header's own fields in a warp's stream (R176, R194). -/
def hdrBad (h : Word) : Bool := decide (hdrPage h = 7 ∨ hdrPage h = 5 ∨ hdrCount h = 0 ∨ h.extractLsb' 0 5 ≠ 0)

/-- A header that ends a sequencer's program with 0x01 (R194, R309). -/
def seqHdrBad (h : Word) : Bool :=
  decide (¬(hdrPage h = 1 ∨ hdrPage h = 2 ∨ hdrPage h = 5) ∨ hdrCount h = 0 ∨ h.extractLsb' 0 5 ≠ 0 ∨ hdrTokens h ≠ 0) ||
    hdrWs h || hdrWl h || hdrWc h

/-- The channels the RECVs among some words name. DESIGN CHOICE (log 73): a RECV with an ill-formed field, which traps when it
issues, names none. -/
def recvChans (page : Nat) : Nat → List Word → List Nat
  | 0, _ | _, [] => []
  | n + 1, w :: ws =>
    match decode false page (w :: ws) with
    | .ok (.recv f, k) => chanNo f :: recvChans page n ((w :: ws).drop k)
    | .ok (_, k) => recvChans page n ((w :: ws).drop k)
    | .error _ => recvChans page n ((w :: ws).drop (wordsNeeded page w))

/-- The words WC looks for RECVs in; a header without WC needs none of them. -/
def waitedWords (s : State) (c space : Nat) (hdr : Double) (h : Word) : Fetched :=
  if hdrWc h then fetchWords s c space (hdr.toNat + 4) (hdrCount h) else .ok []

/-- The lowest token a header waits on that is complete and STALE (R283). -/
def staleToken (w : Warp) (h : Word) : Option Nat :=
  firstBelow 8 fun t => (hdrTokens h).getLsbD t && decide ((tokenOf w t).count = 0) && (tokenOf w t).stale

/-- Are a header's waits met for an entry (R175)? Every store is accepted when it issues, so WS holds here; `chans` are the
channels its clause's RECVs name. -/
def waitsMet (w : Warp) (g : Wg) (m : Word) (chans : List Nat) (h : Word) : Bool :=
  (List.range 8).all (fun t => !(hdrTokens h).getLsbD t || decide ((tokenOf w t).count = 0)) &&
    (!hdrWl h || !w.pend.any fun p => decide (p.mask &&& m ≠ 0)) &&
    (!hdrWc h || chans.all fun n => decide (0 < chanReady (chanOf g n)))

/-- What an entry meets at its header: it may go on, waits, or traps; or the header, or a word of its clause that WC looks
at, cannot be fetched. -/
inductive HdrEnd where
  | go (h : Word) | wait | trap (t : TrapInfo) (token : Option Nat) | fetch (f : Fetched)
  deriving DecidableEq, Repr

/-- Decode a header for an entry; a clause that has passed the checks of R176 once only has its waits evaluated again. -/
def atHeader (s : State) (c space : Nat) (w : Warp) (g : Wg) (m : Word) (hdr : Double) (again : Bool) : HdrEnd :=
  match fetchOne s c space hdr.toNat with
  | .ok ws =>
    let h := ws.getD 0 0
    if !again && hdrBad h then .trap (trapOf cILLEGAL) none
    else
      match waitedWords s c space hdr h with
      | .ok body =>
        let chans := recvChans (hdrPage h) 15 body
        if !again && hdrWc h && chans.isEmpty then .trap (trapOf cILLEGAL) none
        else
          match staleToken w h with
          | some t => .trap (trapAt cSTALE (tokenOf w t).staleAddr.toNat) (some t)
          | none => if waitsMet w g m chans h then .go h else .wait
      | f => .fetch f
  | f => .fetch f

/-- The clause of an entry whose waits are to be evaluated: one resumed by TRETURN stands inside the clause whose header
TCLAUSE names, if that header says so, and at a header otherwise (R247). -/
def standing (s : State) (c space : Nat) (e : Entry) : Entry :=
  match e.clause with
  | some k =>
    if e.waits && unread k then
      match fetchOne s c space k.hdr.toNat with
      | .ok ws => if insideClause (clauseOf k.hdr (ws.getD 0 0)) e.pc then e else { e with clause := none }
      | .fault .. | .outside _ | .poison _ => e
    else e
  | none => e

/-- Has the clause of an entry passed the checks of R176? -/
def checked (e : Entry) : Bool := match e.clause with | some k => !unread k | none => false

/-! ### Readiness (R15, R36) -/

/-- The address space of a warp's launch. -/
def warpSpace (s : State) (g : Wg) : Nat := match fget s.launches g.launch with | some l => l.rec_.space | none => 0

/-- Is a frontier entry ready, as far as its header tells? An instruction that cannot go ahead makes it wait when it is tried. -/
def entryReady (s : State) (c : Nat) (w : Warp) (g : Wg) (e : Entry) : Bool :=
  let e := standing s c (warpSpace s g) e
  decide (e.wait = .run) &&
    (if e.clause.isSome && !e.waits then true
    else match atHeader s c (warpSpace s g) w g e.mask (hdrOf e) (checked e) with | .wait => false | _ => true)

/-- Does what holds a warp let an entry issue (R36, R103, R244)? -/
def holdAllows (w : Warp) (e : Entry) : Bool :=
  match w.hold with
  | .none => true
  | .retry pc tried | .grace pc tried => (!tried && decide (e.pc = pc)) || !w.frontier.any fun x => decide (x.pc = pc)
  | .barrier .. => decide (w.handler ≠ 0)
  | _ => false

/-- May the warp in a slot of a workgroup issue: it is resident and running, no checkpoint, rollback or save stops it, all of
a persistent launch or cluster group is resident, and, from the capture of an external operation's checkpoint until the
operation has ended, only that operation of the workgroup issues, once it is cleared (R25, R39, R141, R144, R147, R384;
DEDUCED, log 84)? -/
def wgIssues (s : State) (g : Nat) (x : Wg) (sl : Nat) (w : Warp) : Bool :=
  let running := match fget s.launches x.launch with | some l => decide (l.phase = .running) | none => false
  let whole := match fget s.launches x.launch with
    | some l => if l.rec_.kind = 1 then launchWgs s x.launch else groupOf s g
    | none => []
  let stopped := match x.ck.phase with | .stopping | .capturing _ => true | .idle | .taken => false
  let ext := if x.ck.extAt ≠ 0 ∨ x.ck.ready then x.ck.ready && decide (x.ck.ext = some sl) && !x.ck.extBusy && !w.frontier.any (fun e => decide (e.wait = .walk)) else true
  decide (x.phase = .resident) && running && !stopped && !x.ck.restoring && ext &&
    !(decide (modeOf s x = 1) && ckIdle s x && ckDue s (groupOf s g)) && !anyWg s whole (fun _ y => decide (y.phase = .saved))

/-- Has an entry's count reached the bound without its having moved to the head (R17)? -/
def dueAged (e : Entry) : Bool := decide (Config.ageBound ≤ e.age) && e.aged.isNone

/-- The entry a warp would issue (R15); none before an entry whose count has reached the bound has moved to the head (R17). -/
def pickEntry (s : State) (c sl : Nat) : Option Nat :=
  match s.warp? c sl with
  | none => none
  | some w =>
    match fget s.wgs w.wg with
    | none => none
    | some g =>
      if w.halted || w.pend.any (fun p => p.holds) || !clockRuns s c || !wgIssues s w.wg g sl w || w.frontier.any dueAged then none
      else firstBelow w.frontier.length fun i =>
        match w.frontier[i]? with | some e => holdAllows w e && entryReady s c w g e | none => false

/-- The launch priority class of a warp (R36). -/
def warpClass (s : State) (w : Warp) : Nat :=
  match fget s.wgs w.wg with
  | some g => (match fget s.launches g.launch with | some l => l.rec_.pclass | none => 0)
  | none => 0

/-- The warp and entry a quadrant issues next, if it has not issued in this cycle (R36, R37). DESIGN CHOICE (log 17): of warps
that have never issued, the one in the lowest slot. -/
def pickWarp (s : State) (c q : Nat) : Option (Nat × Nat) :=
  let k := s.core c
  if k.quads.contains q then none
  else
    let cands := (k.warps.filter fun p => decide (quadOf p.1 = q)).filterMap fun p => (pickEntry s c p.1).map fun e => (p.1, p.2, e)
    let forced := cands.filter fun p => decide (11 ≤ p.2.1.waitCount)
    let top := (cands.map fun p => warpClass s p.2.1).foldl max 0
    let among := if forced.isEmpty then cands.filter fun p => decide (warpClass s p.2.1 = top) else forced
    (among.foldl (fun (b : Option (Nat × Warp × Nat)) p =>
      match b with
      | some x => if p.2.1.lastIssue < x.2.1.lastIssue then some p else b
      | none => some p) none).map fun p => (p.1, p.2.2)

/-! ### The issue of a warp's instruction -/

/-- The issuing warp with a wait of the last cycle forgotten, and a GRACE that no lane of it stands at any more. -/
def clearRetry (w : Warp) : Warp :=
  { w with hold := match w.hold with
      | .retry .. => .none
      | .grace pc _ => if standsAt w pc then w.hold else .none
      | h => h }

/-- A trap before an instruction is known, at an entry, with its active lanes; a speculative instance waits for it until it is
LIVE (R123, R130), but not where it is of row 1 of Table 9.7 (R191). -/
def trapEarly (s : State) (c sl ei : Nat) (e : Entry) (t : TrapInfo) (act : Word) : State :=
  match s.warp? c sl with
  | none => s
  | some w =>
    if speculative w && decide (t.cause ≠ cILLEGAL) then s.setWarp c sl { w with hold := .untilLive }
    else enterTrap (selected s c sl ei) c sl e.mask t e.pc (hdrOf e) act

/-- The active lanes of words that decode to no instruction: the guard's where the opcode is assigned (R189), else, the word
having no guard field, the whole entry (DESIGN CHOICE, log 73). -/
def wordLanes (w : Warp) (m : Word) (page : Nat) (ws : List Word) : Word :=
  match build page (ws.getD 0 0) 0 0 with
  | some i => guardLanes w m i
  | none => m

/-- What becomes of an entry whose code cannot be fetched: its lanes park at the PC with a record of a fetch (R20, R181). -/
def fetchFails (s : State) (c sl ei : Nat) (g : Wg) (e : Entry) : Fetched → State
  | .ok _ => s
  | .outside va => trapEarly s c sl ei e (trapAt cBOUNDS va) e.mask
  | .poison pa => poisonReplay s g.launch (dieOf c) pa
  | .fault va kind sub info =>
    let q : Walk := { slot := sl, entry := e.pc.toNat, space := warpSpace s g, va := va, access := 8, lanes := e.mask }
    let s := postFault s (devOfCore s c) (walkRecord s c (launchNo s g.launch) q.space va 8 kind sub info)
    s.updWarp c sl fun w => parkEntry w e.pc.toNat e.mask q

/-- An entry past its header (R12, R16): at the first word of the clause, with the waits met. -/
def openEntry (e : Entry) (h : Word) : Entry :=
  match e.clause with
  | some k => { e with clause := some (if unread k then clauseOf k.hdr h else k), prio := hdrPrio h, waits := false }
  | none => { e with pc := e.pc + 4, clause := some (clauseOf e.pc h), prio := hdrPrio h, waits := false }

/-- The warp with an entry past its header; the commands of the tokens waited for are completed ones (R298). -/
def openClause (w : Warp) (ei : Nat) (e : Entry) (h : Word) : Warp :=
  let w := noteWaited w fun t => (hdrTokens h).getLsbD t
  { w with frontier := tidy (dropAt w.frontier ei ++ [openEntry e h]) }

/-- An entry whose first instruction could not go ahead stands at its header still (R15, R175). -/
def backToHeader (hdr : Double) (w : Warp) : Warp :=
  let at_ := hdr + 4
  let back (e : Entry) : Entry :=
    if e.pc = at_ ∧ (e.wait = .retry ∨ w.hold ≠ .none) ∧ e.clause.map Clause.hdr = some hdr then
      { e with pc := hdr, clause := none, waits := true }
    else e
  match w.hold with
  | .retry pc tried =>
    if pc = at_ then { w with frontier := tidy (w.frontier.map back), hold := .retry hdr tried } else w
  | .grace pc tried =>
    if pc = at_ then { w with frontier := tidy (w.frontier.map back), hold := .grace hdr tried } else w
  | .untilLive => { w with frontier := tidy (w.frontier.map back) }
  | .none => if w.frontier.any fun e => decide (e.wait = .retry ∧ e.pc = at_) then { w with frontier := tidy (w.frontier.map back) } else w
  | _ => w

/-- After an issue: nobody issues, and an external operation may have ended (R144). -/
def afterIssue (c sl g : Nat) (opened : Option Double) (s : State) : State :=
  let s := { s with cur := .nobody }
  let s := match opened with
    | some hdr => s.updWarp c sl fun w => if w.wg = g then backToHeader hdr w else w
    | none => s
  extSettle s g

/-- Issue the instruction at an entry inside its clause: the decoded instruction runs, words that decode to none trap (R177). -/
def issueInside (s : State) (c sl ei g : Nat) (x : Wg) (opened : Option Double) : Outcome State Fault Refusal :=
  match s.warp? c sl with
  | none => .next s
  | some w =>
    match w.frontier[ei]? with
    | none => .next s
    | some e =>
      match e.clause with
      | none => .next s
      | some cl =>
        match fetchInstr s c (warpSpace s x) cl e.pc with
        | .ok ws =>
          let s := fillWords s c (warpSpace s x) e.pc.toNat ws.length
          match decode false cl.page ws with
          | .ok (i, _) => onNext (afterIssue c sl g opened) (exec i { s with cur := .warp c sl ei })
          | .error _ => .next (afterIssue c sl g opened (trapEarly s c sl ei e (trapOf cILLEGAL) (wordLanes w e.mask cl.page ws)))
        | f => .next (afterIssue c sl g opened (fetchFails s c sl ei x e f))

/-- Where an entry stands in a warp's frontier, by its PC. -/
def entryAt (w : Warp) (pc : Double) : Nat := (firstBelow w.frontier.length fun i => decide ((w.frontier[i]?).map Entry.pc = some pc)).getD 0

/-- Issue from an entry of the warp in a slot: its header first when it stands there or resumes inside the clause. -/
def issueWarp (s : State) (c sl ei : Nat) : Outcome State Fault Refusal :=
  match s.warp? c sl with
  | none => .next s
  | some w =>
    match fget s.wgs w.wg, w.frontier[ei]? with
    | some g, some e =>
      let w := clearRetry w
      let s := s.setWarp c sl w
      let e := standing s c (warpSpace s g) e
      if e.clause.isSome && !e.waits then issueInside s c sl ei w.wg g none
      else
        let hdr := hdrOf e
        match atHeader s c (warpSpace s g) w g e.mask hdr (checked e) with
        | .wait => .next s
        | .fetch f => .next (fetchFails s c sl ei g e f)
        | .trap t tok =>
          let w := match tok with
            | some n => if speculative w then w else { w with tokens := setAt w.tokens n { tokenOf w n with stale := false } }
            | none => w
          .next (trapEarly (s.setWarp c sl w) c sl ei { e with pc := hdr } t e.mask)
        | .go h =>
          let s := fillLine s c (warpSpace s g) hdr.toNat
          let w := openClause w ei e h
          issueInside (s.setWarp c sl w) c sl (entryAt w (openEntry e h).pc) w.wg g (if e.clause.isSome then none else some hdr)
    | _, _ => .next s

/-! ### The sequencer's stream (R308, R309) -/

/-- The core whose instruction cache and translations a program uses: the one that forked it. -/
def seqCore (q : Sequencer) : Option (Nat × Nat) := q.cur.map fun f => (f.core, f.wg)

/-- A sequencer whose code cannot be fetched: it waits for the pager, or its program ends. -/
def seqFetchFails (s : State) (cl c : Nat) (x : Wg) : Fetched → State
  | .ok _ => s
  | .outside _ => seqEnd s cl 0x11
  | .poison pa => poisonReplay s x.launch (dieOf c) pa
  | .fault va kind sub info =>
    let s := postFault s (devOfCore s c) (walkRecord s c (launchNo s x.launch) (warpSpace s x) va 40 kind sub info)
    s.updSeq cl fun q => { q with stalled := some va }

/-- Issue the instruction at a sequencer's PC inside its clause. -/
def seqInside (s : State) (cl c : Nat) (x : Wg) : Outcome State Fault Refusal :=
  let q := s.seq cl
  match q.clause with
  | none => .next s
  | some k =>
    match fetchInstr s c (warpSpace s x) k q.pc with
    | .ok ws =>
      let s := fillWords s c (warpSpace s x) q.pc.toNat ws.length
      match decode true k.page ws with
      | .ok (i, _) => onNext (fun t => { t with cur := .nobody }) (exec i { s with cur := .sequencer cl })
      | .error _ => .next (seqEnd s cl 1)
    | f => .next (seqFetchFails s cl c x f)

/-- Does a member of a cluster group let its sequencer issue: one with its slot, or that has ended (R307), or that stops for a
checkpoint before its save, which waits for the program (R141, R327)? -/
def seqLets (s : State) (x : Wg) : Bool :=
  !x.ck.restoring && (match x.ck.phase with | .capturing _ => false | _ => true) &&
    (match x.phase with | .resident | .ended => true | .stopping => decide (modeOf s x ≠ 0) | .saving | .saved => false)

/-- May a cluster's sequencer issue now? One word a cycle; quadrant number 4 of the forking core marks it. -/
def seqIssues (s : State) (cl : Nat) : Bool :=
  let q := s.seq cl
  match seqCore q with
  | some (c, g) =>
    q.ending.isNone && q.stalled.isNone && clockRuns s c && !(s.core c).quads.contains 4 &&
      (fget s.wgs g).isSome && allWgs s (groupOf s g) fun _ x => seqLets s x
  | none => false

/-- Issue one word group of a cluster's sequencer. -/
def issueSeq (s : State) (cl : Nat) : Outcome State Fault Refusal :=
  let q := s.seq cl
  match seqCore q with
  | none => .next s
  | some (c, g) =>
    match fget s.wgs g with
    | none => .next s
    | some x =>
      if !seqIssues s cl then .next s
      else
        let s := s.updCore c fun k => { k with quads := 4 :: k.quads }
        match q.clause with
        | some _ => seqInside s cl c x
        | none =>
          match fetchOne s c (warpSpace s x) q.pc.toNat with
          | .ok ws =>
            let h := ws.getD 0 0
            if seqHdrBad h then .next (seqEnd s cl 1)
            else
              let s := fillLine s c (warpSpace s x) q.pc.toNat
              seqInside (s.updSeq cl fun q => { q with clause := some (clauseOf q.pc h), pc := q.pc + 4 }) cl c x
          | f => .next (seqFetchFails s cl c x f)

end Sys2Proof.Machine
end

