-- ==== Sys2Proof/Machine/Registers.lean ====
section
/-! DEFINITION. What the register aperture reads (R6, R7, R361, R371 to R373, Tables 20.1 to 20.9, 21.1, 21.2, 22.1, 23.1, 23.2, 23.5,
23.7, 24.1, 24.4): the current value of a field, 0 for what is reserved, write-only or of a device that does not exist. -/

namespace Sys2Proof.Machine

open Host (Outcome)

/-- A word of fields, each at its lowest bit. -/
def layBits (fs : List (Nat × Nat)) : Nat := (fs.map fun f => f.2 * 2 ^ f.1).sum

/-- CXLP of a port (Table 20.2). -/
def cxlpWord (x : Cxl) : Nat := layBits [(16, x.cap), (4, x.state), (0, bit x.en)]

/-- An EXP entry (Table 20.3). -/
def expWord (e : Export) : Nat := layBits [(112, e.key.toNat), (96, e.space), (90, bit e.valid), (89, bit e.ring), (64, e.size), (0, e.base)]

/-- A PWIN entry (Table 20.4). -/
def pwinWord (w : Window) : Nat := layBits [(64, w.size), (63, bit w.valid), (44, w.target), (32, w.exp), (0, w.key.toNat)]

/-- COREMAP of a core (Table 20.9, R372). -/
def coremapWord (s : State) (c : Nat) : Nat :=
  let p := corePlace s c
  layBits [(15, p.2.2.2), (9, p.2.2.1), (5, p.2.1), (0, p.1)]

/-- The registers below 0x1000: PMODE, PCFG, ORIENT, CXLP (Table 20.1). -/
def moduleWord (s : State) (o : Nat) : Nat :=
  if o = 0 then pmodeWord s
  else if o = 0x10 ∨ o = 0x18 then
    let k := (o - 0x10) / 4
    layBits [(0, pcfgWord s k), (32, pcfgWord s (k + 1))]
  else if o = 0x100 ∨ o = 0x108 then
    let d := (o - 0x100) / 4
    layBits [(0, orientWord s d), (32, orientWord s (d + 1))]
  else if 0x200 ≤ o ∧ o < 0x220 then cxlpWord (cxlOf s ((o - 0x200) / 8))
  else 0

/-- The block of a command queue (Table 21.1). -/
def queueWord (x : CQueue) (f : Nat) : Nat :=
  if f = 0x00 then x.qbase
  else if f = 0x08 then layBits [(16, x.slice), (10, bit x.nosteal), (9, bit x.en), (7, x.homedie), (5, x.prio), (0, x.log2n)]
  else if f = 0x10 then x.kick
  else if f = 0x18 then x.ridx
  else if f = 0x20 then qstatWord x
  else 0

/-- A device's registers of Table 21.2. -/
def schedWord (s : State) (k f : Nat) : Nat :=
  let d := s.dev k
  if f = 0x00 then d.wqtbase
  else if f = 0x08 then d.savebase
  else if f = 0x10 then d.savesize
  else if f = 0x28 then d.ckptbase
  else if f = 0x30 then d.ckptsize
  else if 0x40 ≤ f ∧ f < 0x40 + 0x20 * devDies s.pkg.mode then
    let p := (f - 0x40) / 0x20
    let g := f % 0x20
    if g = 0x00 then (fget d.stagebase p).getD 0
    else if g = 0x08 then (fget d.spillbase p).getD 0
    else if g = 0x10 then (fget d.poolqbase p).getD 0
    else (fget d.poolqlog2n p).getD 0
  else 0

/-- A device's registers of Table 22.1. -/
def transWord (s : State) (k f : Nat) : Nat :=
  let d := s.dev k
  if f = 0x00 then d.sptbase
  else if f = 0x08 then d.ftbase
  else if f = 0x10 then d.fqbase
  else if f = 0x18 then layBits [(8, bit d.fqen), (0, d.fqlog2n)]
  else if f = 0x20 then d.fqprod
  else if f = 0x28 then d.fqcons
  else if f = 0x30 then d.rqbase
  else if f = 0x38 then layBits [(32, d.retire.length), (0, d.rqlog2n)]
  else if f = 0x50 then d.invalseq
  else if 0x68 ≤ f ∧ f < 0x68 + 8 * devDies s.pkg.mode then ((fget d.pools ((f - 0x68) / 8)).getD 0).toNat
  else 0

/-- The registers of a logical device from 0x10_0000 + 0x1_0000 k on (R373). -/
def devWord (s : State) (k o : Nat) : Nat :=
  if !devExists s k then 0
  else if o < 0x4000 then queueWord (s.queue k (o / 0x40)) (o % 0x40)
  else if 0x8000 ≤ o ∧ o < 0x9000 then schedWord s k (o - 0x8000)
  else if 0x9000 ≤ o then transWord s k (o - 0x9000)
  else 0

/-- The package RAS block (Table 23.1). -/
def rasWord (s : State) (o : Nat) : Nat :=
  let p := s.pkg
  if o = 0x000 then layBits [(8, bit p.rasBusy), (7, bit p.rasRefused)]
  else if o = 0x008 then p.repout
  else if o = 0x010 then layBits [(8, p.booterr), (0, p.stage)]
  else if 0x040 ≤ o ∧ o < 0x060 then p.idkey.toNat / 2 ^ (8 * (o - 0x040)) % 2 ^ 64
  else if 0x080 ≤ o ∧ o < 0x0C0 then p.meas.toNat / 2 ^ (8 * (o - 0x080)) % 2 ^ 64
  else if o = 0x0C8 then bit p.attdrop
  else 0

/-- A monitor (Table 23.7). -/
def monitorWord (m : Monitor) (f : Nat) : Nat :=
  let bin (b : Nat) : Nat := (fget m.bins b).getD 0
  if f = 0x00 then layBits [(31, bit m.freeze), (10, m.src), (0, m.qty)]
  else if f = 0x08 then m.min
  else if f = 0x10 then m.max
  else if f = 0x18 then m.cnt
  else if 0x80 ≤ f then layBits [(0, bin ((f - 0x80) / 4)), (32, bin ((f - 0x80) / 4 + 1))]
  else 0

/-- A die's RAS block (Tables 23.2, 23.5). -/
def dieRasWord (s : State) (d o : Nat) : Nat :=
  let x := s.die d
  if 0x2000 ≤ o ∧ o < 0x3000 then monitorWord (monitorOf s d ((o - 0x2000) / 0x100)) (o % 0x100)
  else if 0x1000 ≤ o ∧ o < 0x1000 + 8 * 160 then
    let y := coreStat s (d * 160 + (o - 0x1000) / 8)
    layBits [(32, y.suspects), (16, y.strikes), (0, bit y.pendret)]
  else if o = 0x000 then x.elbase
  else if o = 0x008 then layBits [(8, bit x.elen), (0, x.ellog2n)]
  else if o = 0x010 then x.elprod
  else if o = 0x018 then x.elcons
  else if o = 0x020 then layBits [(16, x.susthr), (0, x.strthr)]
  else if o = 0x028 then x.drops
  else if o = 0x030 then layBits [(4, bit x.spareout), (0, x.spares)]
  else if 0x040 ≤ o ∧ o < 0x070 then ([x.ckpts, x.rollbacks, x.mismatches, x.thirds, x.replays, x.strikes][(o - 0x040) / 8]?).getD 0
  else 0

/-- The pod registers of a logical device (Table 24.1). -/
def podWord (s : State) (k f : Nat) : Nat :=
  let d := s.dev k
  if !devExists s k then 0
  else if f = 0x00 then layBits [(32, d.rootdev), (16, bit d.span), (0, d.devnum)]
  else if 0x40 ≤ f ∧ f < 0xC0 then d.podmem.toNat / 2 ^ (8 * (f - 0x40)) % 2 ^ 64
  else 0

/-- The power registers (Table 24.4). -/
def powerWord (s : State) (f : Nat) : Nat :=
  if f = 0x00 then s.pkg.pwr
  else if f = 0x08 then s.pkg.pwrcap
  else if f = 0x10 then layBits ((List.range 4).map fun k => (3 * k, if devExists s k then (s.dev k).eclkpt else 0))
  else 0

/-- The registers from 0x30_0000 on (Tables 24.1, 24.4). -/
def peerWord (s : State) (o : Nat) : Nat :=
  if o < 0x400 then podWord s (o / 0x100) (o % 0x100)
  else if 0x8000 ≤ o ∧ o < 0x8080 then
    let l := linkOf s ((o - 0x8000) / 8)
    layBits [(32, l.peer), (2, l.state), (0, bit l.en)]
  else if 0xF000 ≤ o ∧ o < 0x1_0000 then powerWord s (o - 0xF000)
  else if 0x1_0000 ≤ o ∧ o < 0x1_2000 then
    let k := (o - 0x1_0000) / 0x800
    let n := o % 0x800 / 2
    if devExists s k then layBits ((List.range 4).map fun i => (16 * i, ((fget (s.dev k).route (n + i)).getD 0).toNat)) else 0
  else 0

/-- The aligned 8 bytes at an offset of the register aperture. -/
def regWord (s : State) (o : Nat) : Nat :=
  if 0x30_0000 ≤ o then peerWord s (o - 0x30_0000)
  else if 0x21_0000 ≤ o then if o < 0x25_0000 then dieRasWord s ((o - 0x21_0000) / 0x1_0000) (o % 0x1_0000) else 0
  else if 0x20_0000 ≤ o then rasWord s (o - 0x20_0000)
  else if 0x10_0000 ≤ o then if o < 0x14_0000 then devWord s ((o - 0x10_0000) / 0x1_0000) (o % 0x1_0000) else 0
  else if 0x5_0000 ≤ o then
    let d := (o - 0x5_0000) / 0x800
    let j := o % 0x800 / 8
    if d < 4 ∧ j < 160 then coremapWord s (d * 160 + j) else 0
  else if 0x8000 ≤ o ∧ o < 0x4_8000 then
    let k := (o - 0x8000) / 0x1_0000
    if devExists s k then expWord (exportOf s k ((o - 0x8000) % 0x1_0000 / 16)) / 2 ^ (64 * (o / 8 % 2)) % 2 ^ 64 else 0
  else if 0x1000 ≤ o ∧ o < 0x2000 then
    if devExists s ((o - 0x1000) / 0x400) then
      pwinWord (windowOf s ((o - 0x1000) / 0x400) (o % 0x400 / 16)) / 2 ^ (64 * (o / 8 % 2)) % 2 ^ 64
    else 0
  else if o < 0x1000 then moduleWord s o
  else 0

/-- n bytes of the register aperture from an offset on. -/
def regNat (s : State) (off n : Nat) : Nat :=
  ((List.range n).map fun i => regWord s ((off + i) / 8 * 8) / 2 ^ (8 * ((off + i) % 8)) % 256 * 2 ^ (8 * i)).sum

/-- May a register be read: after a failed boot only the package RAS block (R407)? -/
def regOpen (s : State) (off n : Nat) : Bool := !bootStopped s || decide (0x20_0000 ≤ off ∧ off + n ≤ 0x20_1000)

/-- A companion read of the aperture (R361): it waits behind a marked read of the companion's (R91, R362). DESIGN CHOICE (log
89): one that a failed boot does not accept is answered by a failure. -/
def registerRead (s : State) (off n : Nat) : State :=
  if s.inWait.any fun m => m.initiator.isNone && m.access.marked && inboundReads m.access then s
  else if regOpen s off n then answer s none (some (regNat s off n)) false
  else answer s none none true

/-- What a write of an aligned word of the package RAS block does, field by field (Table 23.1): W1C clears before APPLY acts. -/
def rasEvents (o v : Nat) : List (State → Outcome State Fault Refusal) :=
  if o = 0x000 then (if v / 128 % 2 = 1 then [execRasRefusedClear] else []) ++ (if v % 2 = 1 then [execRepairApply] else [])
  else if o = 0x008 then [execRegisterWrite .repout (BitVec.ofNat 64 v)]
  else if o = 0x018 then [execImageLoad (BitVec.ofNat 64 v) true]
  else if o = 0x0C0 then [execAttestationRequest (BitVec.ofNat 64 v)]
  else if o = 0x0C8 then (if v % 2 = 1 then [execAttdropClear] else [])
  else []

/-- Of a word of a monitor (Table 23.7). -/
def monitorEvents (d m v : Nat) : List (State → Outcome State Fault Refusal) :=
  [execMonitorConfigure d m (BitVec.ofNat 4 v) (BitVec.ofNat 10 (v / 2 ^ 10))] ++ (if v / 2 ^ 30 % 2 = 1 then [execMonitorClear d m] else []) ++
    [execRegisterWrite (.monFreeze d m) (BitVec.ofNat 64 (v / 2 ^ 31 % 2))]

/-- Of a word of a die's RAS block (Tables 23.2, 23.5): what is RW while ELEN = 0 is tested before ELEN takes its new value. -/
def dieRasEvents (d o v : Nat) : List (State → Outcome State Fault Refusal) :=
  if o = 0x000 then [execRegisterWrite (.elbase d) (BitVec.ofNat 64 v)]
  else if o = 0x008 then [execRegisterWrite (.ellog2n d) (BitVec.ofNat 64 v), execRegisterWrite (.elen d) (BitVec.ofNat 64 (v / 256))]
  else if o = 0x018 then [execRegisterWrite (.elcons d) (BitVec.ofNat 64 v)]
  else if o = 0x020 then [execRegisterWrite (.strthr d) (BitVec.ofNat 64 v), execRegisterWrite (.susthr d) (BitVec.ofNat 64 (v / 65536))]
  else if 0x1000 ≤ o ∧ o < 0x1000 + 8 * 160 then (if v % 2 = 1 then [execPendretSet d ((o - 0x1000) / 8)] else [])
  else if 0x2000 ≤ o ∧ o < 0x3000 ∧ o % 0x100 = 0 then monitorEvents d ((o - 0x2000) / 0x100) v
  else []

/-- What a companion write of the aligned word at an offset of the register aperture does, in the RAS blocks (R406). -/
def rasWrites (off v : Nat) : List (State → Outcome State Fault Refusal) :=
  if 0x20_0000 ≤ off ∧ off < 0x21_0000 then rasEvents (off - 0x20_0000) v
  else if 0x21_0000 ≤ off ∧ off < 0x25_0000 then dieRasEvents ((off - 0x21_0000) / 0x1_0000) (off % 0x1_0000) v
  else []

/-- Such a store: its fields' writes one after the other. -/
def runWrites : List (State → Outcome State Fault Refusal) → State → Outcome State Fault Refusal
  | [], s => .next s
  | f :: fs, s =>
    match f s with
    | .next t => runWrites fs t
    | .fault e => .fault e
    | .refused r => .refused r

/-- A companion write of its own memory, where rings, images and requests lie (R375). -/
def companionWrite (s : State) (a : Nat) (data : List Byte) : State :=
  if a + data.length ≤ 2 ^ 63 then { s with cmem := memWriteBytes s.cmem a data } else s

/-- The driver sets the weights of a die's mesh, 1 to 15 for each channel (R351). -/
def meshWeights (s : State) (d : Nat) (ws : List Nat) : State :=
  if bootStopped s then s else if ws.length = 4 ∧ ws.all fun w => decide (1 ≤ w ∧ w ≤ 15) then s.updDie d fun x => { x with weights := ws } else s

end Sys2Proof.Machine
end

