-- ==== Sys2Proof/Machine/Clock.lean ====
section
/-! DEFINITION. A die's arithmetic clock (R3, R36), and the moves an agenda names (log 3). -/

namespace Sys2Proof.Machine

open Host (Outcome)

/-- How many entries of a warp could not go ahead in this cycle. -/
def retries (s : State) (c sl : Nat) : Nat :=
  match s.warp? c sl with
  | some w => (w.frontier.filter fun e => decide (e.wait = .retry)).length
  | none => 0

/-- Would a warp issue if it were tried: some entry in its turn is ready and goes ahead (R15, R36)? -/
def wouldIssue (c sl : Nat) : Nat → State → Bool
  | 0, _ => false
  | n + 1, s =>
    match pickEntry s c sl with
    | none => false
    | some ei =>
      match issueWarp s c sl ei with
      | .fault _ | .refused _ => false
      | .next t =>
        match t.warp? c sl with
        | none => true
        | some w =>
          if (t.core c).issueClock ≠ (s.core c).issueClock then true
          else
            match w.hold with
            | .retry .. | .grace .. | .untilLive => false
            | _ => if retries s c sl < retries t c sl then wouldIssue c sl n t else true

/-- Did a warp issue in this cycle: is it among the last of the core's issues, as many as quadrants have issued? -/
def issuedNow (k : Core) (w : Warp) : Bool := decide (k.issueClock < w.lastIssue + (k.quads.filter (· ≠ 4)).length)

/-- A warp at the next cycle: its wait count, and what could not go ahead is tried again. -/
def tickWarp (ready : Bool) (w : Warp) : Warp :=
  { w with
    waitCount := if ready then w.waitCount + 1 else 0
    hold := match w.hold with | .retry pc _ => .retry pc false | .grace pc _ => .grace pc false | h => h
    frontier := w.frontier.map fun e => if e.wait = .retry then { e with wait := .run } else e }

/-- A cycle of a core. -/
def tickCore (s : State) (c : Nat) : State :=
  let k := s.core c
  let ready := (k.warps.filter fun p => !issuedNow k p.2 && wouldIssue c p.1 8 s).map Prod.fst
  s.setCore c
    { sweepCycle k with cycle := k.cycle + 1, quads := [], warps := k.warps.map fun (p : Nat × Warp) => (p.1, tickWarp (ready.contains p.1) p.2) }

/-! ### What leaves the chip (R21, R134, R374) -/

/-- An area of a core of its die's, device physical: its base in a device's register and its place by the core's index. -/
def privateArea (s : State) (c : Nat) (bases : Dev → FMap Nat) (size : Nat) : Nat :=
  (fget (bases (s.dev (devOfCore s c))) (posOfDie s.pkg.mode (dieOf c))).getD 0 + coreIdx c * size

/-- The park spill area of a core: 64 KiB (R374). -/
def spillArea (s : State) (c : Nat) : Nat := privateArea s c Dev.spillbase 0x1_0000

/-- The Brine staging area of a core: 1 MiB (R134, R374). -/
def stageArea (s : State) (c : Nat) : Nat := privateArea s c Dev.stagebase 0x10_0000

/-- Write words the manual does not lay out: free values (log 5, log 74). -/
def writeFree (k pa : Nat) (s : State) (i : Nat) : State :=
  let r := takeFree s
  physWrite r.1 k (pa + 4 * i) 4 r.2

/-- The places of the spill area in use. -/
def spillsUsed (k : Core) : List Nat := k.warps.flatMap fun p => p.2.parks.filterMap Park.spill

/-- The slot and number of a core's youngest park record on chip. -/
def youngestPark (k : Core) : Option (Nat × Nat) :=
  (k.warps.reverse.findSome? fun p => ((p.2.parks.filter fun r => r.spill.isNone).getLast?).map fun r => (p.1, r.seq))

/-- While a core holds more than 512 records on chip, a record spills: it takes the lowest free place of the area, and its 32
bytes are written there (R21, log 74). -/
def spillParks (c : Nat) : Nat → State → State
  | 0, s => s
  | n + 1, s =>
    let k := s.core c
    let onChip := (k.warps.map fun p => (p.2.parks.filter fun r => r.spill.isNone).length).sum
    if onChip ≤ Config.parkOnChip then s
    else
      match youngestPark k, firstBelow 2048 fun i => !(spillsUsed k).contains i with
      | some (sl, seq), some i =>
        let s := (List.range 8).foldl (writeFree (devOfCore s c) (spillArea s c + 32 * i)) s
        spillParks c n (s.updWarp c sl fun w => { w with parks := w.parks.map fun r => if r.seq = seq then { r with spill := some i } else r })
      | _, _ => s

/-- Bytes of a core's guarded and twin entries past its on-chip Brine (R134). -/
def stagedBytes (s : State) (c : Nat) : Nat := min 0x10_0000 (heldBytes s c (fun _ => true) - Config.brineBytes)

/-- What has come to stand in the staging area since the last cycle is written there (R134, log 74). -/
def stageBrine (s : State) (c : Nat) : State :=
  let n := stagedBytes s c
  let old := (s.core c).staged
  let s := if n ≤ old then s else (List.range ((n + 3) / 4 - old / 4)).foldl (writeFree (devOfCore s c) (stageArea s c + old / 4 * 4)) s
  if n = old then s else s.updCore c fun k => { k with staged := n }

/-- What leaves a core's chip. -/
def toPrivate (s : State) (c : Nat) : State := stageBrine (spillParks c 1536 s) c

/-! ### Cycles -/

/-- The device at whose memory or slices a request performs. -/
def reqDev (s : State) (r : Req) : Nat := devOfCore s r.core

/-- Operations set aside try again where no copy-aside runs (R423). -/
def backFromAside (s : State) : State :=
  let go (r : Req) : Bool := (s.dev (reqDev s r)).asides.isEmpty
  { s with net := s.net ++ s.aside.filter go, aside := s.aside.filter fun r => !go r }

/-- Is a checkpoint of a workgroup of a die past its commit, so that it commits now (R142)? -/
def commitDue (s : State) (d : Nat) : Bool := s.wgs.any fun p => decide (dieOf p.2.core = d) && !(commitsOf s p.1).isEmpty

/-- Is something of a core to happen before its next cycle: a quadrant's pick (R36, R51), the move of an entry to the head (R17),
the end of a sleep (R240), a warp of a bin (R42)? -/
def coreDue (s : State) (c : Nat) : Bool :=
  let k := s.core c
  [0, 1, 2, 3].any (fun q => (pickWarp s c q).isSome) ||
    k.warps.any (fun p =>
      p.2.frontier.any dueAged || match p.2.hold with | .sleep t => decide (t ≤ k.cycle) | _ => false) ||
    k.bins.any fun p => (poolForm s c p.2).isSome

/-- The samples that a die's clock takes at its boundaries: each core's Brine every 1,024 cycles, the strike reports since the
last one every 2^20 (Table 23.6, log 87). -/
def clockSamples (s : State) (d : Nat) : State :=
  let x := s.die d
  let s :=
    if x.cycle % 1024 = 0 ∧ x.monitors.any fun p => decide (p.2.qty = 3) then
      (List.range 160).foldl (fun s j => noteSample s d 3 (some (d * 160 + j)) (heldBytes s (d * 160 + j) fun _ => true)) s
    else s
  if x.cycle % 2 ^ 20 = 0 then
    (noteSample s d 6 none ((x.strikes + 2 ^ 64 - x.strikesAt) % 2 ^ 64)).updDie d fun y => { y with strikesAt := x.strikes }
  else s

/-- A cycle of a die's arithmetic clock. -/
def tickOnce (s : State) (d : Nat) (cs : List Nat) : State :=
  let s := meshTick (cs.foldl tickCore s) d
  let s := clockSamples (s.updDie d fun x => { x with cycle := x.cycle + 1 }) d
  cs.foldl copyRetry (backFromAside (cs.foldl toPrivate s))

/-- Up to n cycles of a die's arithmetic clock: none pass while it is stopped (R3, R421), nor before what this cycle owes
(R36, R37, R51, R142). -/
def tickDie (s : State) (d : Nat) : Nat → State
  | 0 => s
  | n + 1 =>
    let cs := (s.cores.filter fun p => decide (dieOf p.1 = d)).map Prod.fst
    if (s.die d).stopped || commitDue s d || cs.any (coreDue s) then s else tickDie (tickOnce s d cs) d n

/-- Is an event one of the table's that no word encodes, of units of the package? -/
def isEvent (i : Instr) : Bool := (match view i with | .event => true | .word .. => false) && eventOk i

/-- Is an event a companion write of a register of Table 20.1, which is marked release (R362)? -/
def isRegWrite : Instr → Bool
  | .registerWrite .. | .pmodeModeWrite _ | .pmodeRefusedClear | .clkptWrite .. | .hcshareWrite .. | .cxlPortEnable _ |
    .cxlPortDisable _ | .expWrite .. | .pwinWrite .. | .queueEnable .. | .queueDisable .. | .queueKick .. | .dawnRequest .. |
    .launchAbort .. | .invalPage .. | .invalSpace .. | .invalAll _ | .resolveResolved .. | .resolveUnresolvable .. |
    .faultQueueConsume .. | .faultQueueEnable _ | .repairApply | .rasRefusedClear | .imageLoad .. | .attestationRequest _ |
    .attdropClear | .pendretSet .. | .monitorClear .. | .monitorConfigure .. | .podReplay .. | .podmemWrite .. |
    .peerLinkEnable _ | .peerLinkDisable _ | .debugHalt .. | .debugResume .. | .debugRelease .. | .debugRead .. | .debugWrite .. => true
  | _ => false

/-- One move: an event, an issue when it is the scheduler's pick, a sequencer's issue, cycles, and what only the outside
decides. A move that cannot be made changes nothing. -/
def runMove (s : State) : Move → Outcome State Fault Refusal
  | .event i => if isEvent i && !(isRegWrite i && companionWaits s) then exec i s else .next s
  | .issue c sl e => if pickWarp s c (quadOf sl) = some (sl, e) then issueWarp s c sl e else .next s
  | .sequencer cl => issueSeq s cl
  | .clock d n => .next (tickDie s d n)
  | .schedClock d n => .next (tickSched s d n)
  | .poison line => .next { s with poison := if s.poison.contains line then s.poison else s.poison ++ [line] }
  | .corrected a =>
    let near := decide (a < Config.farBase)
    let d := (if near then a / Config.dieSpan else (a - Config.farBase) / Config.farSpan) % 4
    let pa := if near then posOfDie s.pkg.mode d * Config.dieSpan + a % Config.dieSpan else a
    let channel := physChannel d (Config.dramChannel a)
    .next (logError (s.updDie d fun x => { x with corrected := x.corrected ++ [a] }) d { kind := 3, sub := some 2, addr := pa, detail := some channel })
  | .mailbox d => .next (s.updDie d fun x => { x with mailbox := x.mailbox.drop 1 })
  | .poisonSlice c g => .next (s.updCore c fun k => { k with badGrans := if k.badGrans.contains g then k.badGrans else k.badGrans ++ [g] })
  | .copyAhead c id k w => .next (copyAhead s c id k w)
  | .rasWrite off v => if companionWaits s then .next s else runWrites (rasWrites off v.toNat) s
  | .copyStep c id n => .next (copyStep s c id n)
  | .inbound i => .next (inboundRetry s i)
  | .registerRead off n => .next (registerRead s off n)
  | .companionWrite a data => .next (companionWrite s a data)
  | .meshWeights d ws => .next (meshWeights s d ws)
  | .slotFault k q => .next (slotFault s k q)
  | .matrixChunk cl pos src chunk => .next (matrixChunk s cl pos src chunk)
  | .faultySum c elem err => .next (faultySum s c elem err)
  | .pod k n m => .next (podHear s k n m)

end Sys2Proof.Machine
end

