-- ==== Sys2Proof/Machine/Auto.lean ====
section
/-! DEFINITION. What happens when the agenda is empty (log 3): the first event that is due, in a fixed order; else the pick of
R36, a sequencer's word, or a cycle of every die. -/

namespace Sys2Proof.Machine

open Host (Outcome)

/-! ### Where workgroups go by default (log 17) -/

/-- The cores of a cluster by position. -/
def clusterCores (s : State) (cl : Nat) : List Nat :=
  let cs := ((List.range 160).map fun j => cl / 40 * 160 + j).filter fun c => decide (clusterOf s c = cl)
  sortBy (fun a b => decide ((corePlace s a).2.2.2 < (corePlace s b).2.2.2)) cs

/-- The sets of n cores that a group of a launch may take: one core, or the first of a cluster. -/
def coreSets (s : State) (x : Launch) (n : Nat) : List (List Nat) :=
  if x.rec_.cgsize = 0 then (coresOfDev s x.dev).map fun c => [c]
  else (diesOfDev s.pkg.mode x.dev).flatMap fun d => (List.range 40).map fun c => (clusterCores s (d * 40 + c)).take n

/-- The first choice of cores that admits one group, both copies of a twin, and the state with it admitted. -/
def placeGroup (s : State) (lid : Nat) (x : Launch) (idxs : List Nat) : Option (List Nat × State) :=
  let sets := coreSets s x idxs.length
  let try_ (cs : List Nat) : Option (List Nat × State) := (admitGroups lid x [idxs] cs s).map fun t => (cs, t)
  if x.rec_.mode ≠ 2 then sets.findSome? try_
  else sets.findSome? fun a => if (admitCopy s lid x idxs a).isNone then none else sets.findSome? fun b => try_ (a ++ b)

/-- Cores for some groups, one after the other. -/
def placeGroups (lid : Nat) (x : Launch) : List (List Nat) → State → Option (List Nat)
  | [], _ => some []
  | g :: gs, s =>
    match placeGroup s lid x g with
    | none => none
    | some (cs, t) => (placeGroups lid x gs t).map (cs ++ ·)

/-- The cores a launch's next workgroups go to. -/
def defaultCores (s : State) (lid : Nat) (x : Launch) : List Nat :=
  if x.phase ≠ .running then []
  else if x.rec_.kind = 2 then (if x.next < x.rec_.pncore then (coreOfIdx s x.dev (x.rec_.pcore + x.next)).toList else [])
  else
    match nextGroups x.rec_ x.next with
    | [] => []
    | gs => (placeGroups lid x gs s).getD []

/-! ### Events that may be due -/

/-- The meaning of an event with its operands given. -/
abbrev Deed := State → Outcome State Fault Refusal

/-- Of a launch. -/
def launchEvents (s : State) (l : Nat) (x : Launch) : List Deed :=
  [execLaunchComplete l, execReplayRestore l, execWorkgroupAdmission l (defaultCores s l x), execPoolRootPush l]

/-- Of a workgroup. -/
def wgEvents (s : State) (g : Nat) (x : Wg) : List Deed :=
  [execRollbackSheadRestore g, execCheckpointTaken g, execCheckpointDeltaAck g, execCheckpointCommit g, execTwinVote g, execCheckpointIntervalExpiry g,
    execCheckpointTake g, execExternalOpIssue g, execContextSave g, execBrineEntryLeave g .lane, execBrineEntryLeave g .copy,
    execBrineEntryLeave g .channel, execBrineEntryLeave g .append] ++
    (if x.twin.isSome ∧ x.third.isNone ∧ x.ck.mismatches ≠ 0 then (coresOfDev s (devOfCore s x.core)).map (execThirdCopyStart g) else [])

/-- Of a warp. -/
def warpEvents (c sl : Nat) (w : Warp) : List Deed :=
  [execSleepExpiry c sl, execOverflowRejoin c sl, execFaultRejoin c sl] ++
    (List.range w.frontier.length).map (execAgedEntryToHead c sl) ++
    [execGenerationRenewal c (.base sl), execGenerationRenewal c (.ext sl), execGenerationRenewal c (.priv sl)]

/-- Of a core. -/
def coreEvents (c : Nat) (k : Core) : List Deed :=
  k.warps.flatMap (fun p => warpEvents c p.1 p.2) ++ (List.range 4).map (execRegacqGrant c) ++
    k.bins.map (fun p => execPoolWarpForm c p.1) ++ (List.range k.walks.length).map (execTranslationWalkDone c) ++
    k.copies.map (fun q => execCopyCommandComplete c q.id)

/-- Of a request. -/
def reqEvents (r : Req) : List Deed :=
  [execHomeSliceServe r.id, execRemoteWindowAccess r.id, execChannelDelivery r.id, execRetireEntryAppend r.id, execRequestTimeoutExpiry r.id]

/-- Of the messages on their way back. -/
def msgEvents (s : State) : List Deed :=
  s.msgs.zipIdx.map fun p =>
    match p.1.kind with
    | .ack => execWriteAck p.2
    | .value => execLoadResponse p.2
    | .error => execErrorCompletion p.2

/-- The nodes of a device's tree with a grace period under way. -/
def liveNodes (s : State) (k : Nat) : List VNode :=
  let nodes := (diesOfDev s.pkg.mode k).map VNode.die ++ [VNode.dev k] ++ (if isPodRoot s k then [VNode.pod k] else [])
  nodes.filter fun n => decide ((vesperAt s n).f ≠ (vesperAt s n).c)

/-- Of Vesper in a device. -/
def vesperEvents (s : State) (k : Nat) : List Deed :=
  ((diesOfDev s.pkg.mode k).flatMap fun d => ((List.range 160).filter fun j => decide ((s.core (d * 160 + j)).f ≠ (s.die d).vesper.f)).map fun j =>
      execFlipAdopt (d * 160 + j)) ++
    ((liveNodes s k).flatMap fun n => ((childrenOf s n).filter fun c => !(vesperAt s n).acks.contains c).map (execFlipAck n)) ++
    [execGracePeriodComplete k, execGracePeriodStart k]

/-- The polls of the device's nodes (R97); a node whose report its parent has polls no more. -/
def pollAll (s : State) (k : Nat) : State :=
  let heard (n : VNode) : Bool := match parentOf s n with | some (p, c) => (vesperAt s p).drained.contains c | none => false
  ((liveNodes s k).filter fun n => !heard n).reverse.foldl (fun s n =>
    match execDrainPoll n s with
    | Outcome.next t => t
    | Outcome.fault _ | Outcome.refused _ => s) s

/-- Of a device. -/
def devEvents (s : State) (k : Nat) (d : Dev) : List Deed :=
  [execInvalComplete k, execRetireAction k, execPoolReturnPush k, execClockStretchDone k] ++
    (List.range d.pageins.length).map (execPageInComplete k) ++ (List.range d.asides.length).map (execCopyAsideComplete k) ++
    vesperEvents s k

/-- What a queue's packet does. -/
def packetEvent (k q : Nat) (p : QPacket) : Deed :=
  match p.type with
  | 1 => execLaunchPacket k q
  | 2 => execWaitPacket k q
  | 3 => execSignalPacket k q
  | 4 => execWriteThenSignalPacket k q
  | 5 => execCopyPacket k q
  | 6 => execHandoverPacket k q
  | 7 => execFencePacket k q
  | _ => execDawnPacket k q

/-- Of the command queues: packets under way, then turns and fetches by the shipped policy, the highest PRIO and the longest wait
first (R383). -/
def queueEvents (s : State) : List Deed :=
  let key (p : Nat × CQueue) : Nat × Nat := (p.1 / 256, p.1 % 256)
  let since (p : Nat × CQueue) : Nat := waitsSince s (key p).1 (key p).2
  let first (a b : Nat × CQueue) : Bool := decide (b.2.prio < a.2.prio) || (decide (a.2.prio = b.2.prio) && decide (since a < since b))
  s.queues.flatMap (fun p =>
    (p.2.cur.map (packetEvent (key p).1 (key p).2)).toList ++
      (if p.2.open_.any fun o => decide (o.type = 6) then [execHandoverPacket (key p).1 (key p).2] else [])) ++
    s.queues.flatMap (fun p =>
      [execSliceExpiry (key p).1 (key p).2, execQueueOwnershipPass (key p).1 (key p).2, execQueueReturnHome (key p).1 (key p).2]) ++
    (sortBy first s.queues).map fun p => execPacketFetch (key p).1 (key p).2

/-- Of a cluster. -/
def clusterEvents (cl : Nat) : List Deed := [execMatrixOperationComplete cl, execArrayOpStart cl, execSequencerProgramStart cl]

/-- Of a die's mesh. -/
def meshEvents (d : Nat) (x : Die) : List Deed :=
  x.routers.flatMap fun r =>
    r.2.inq.map (fun q => execPacketUrgent d (r.1 / 16) (r.1 % 16) (q.1 / 4) (q.1 % 4)) ++
      (List.range 5).map (execMeshArbitration d (r.1 / 16) (r.1 % 16))

/-- Of a die's monitors: samples they have yet to count. -/
def dieMonitorEvents (d : Nat) (x : Die) : List Deed :=
  (x.monitors.filter fun p => !p.2.due.isEmpty).map fun p => execMonitorSample d p.1 0

/-- Every event that may be due, in the order they are tried. -/
def autoEvents (s : State) : List Deed :=
  s.launches.flatMap (fun p => launchEvents s p.1 p.2) ++ s.wgs.flatMap (fun p => wgEvents s p.1 p.2) ++
    s.cores.flatMap (fun p => coreEvents p.1 p.2) ++ (s.wgs.map fun p => execGenerationRenewal p.2.core (.wg p.1)) ++
    msgEvents s ++ (s.net ++ s.aside).flatMap reqEvents ++ s.dies.flatMap (fun p => meshEvents p.1 p.2) ++
    s.seqs.flatMap (fun p => clusterEvents p.1) ++ s.devs.flatMap (fun p => devEvents s p.1 p.2) ++ queueEvents s ++
    (List.range s.inWait.length).map (fun i s => .next (inboundRetry s i)) ++
    [execModeChangeDone, execRepairApplyDone, execQuoteWrite] ++ s.dies.flatMap (fun p => dieMonitorEvents p.1 p.2) ++
    s.dies.map (fun p => execHeartbeatSend p.1) ++
    s.pkg.links.map fun p => execHeartbeatTimeout p.1

/-- The state after the first event that changes something. -/
def dueEvent (s : State) : Option State :=
  (autoEvents s).findSome? fun f =>
    match f s with
    | Outcome.next t => if t = s then none else some t
    | Outcome.fault _ | Outcome.refused _ => none

/-- The first quadrant with a warp to issue: core, slot and entry. -/
def dueIssue (s : State) : Option (Nat × Nat × Nat) :=
  s.cores.findSome? fun p => [0, 1, 2, 3].findSome? fun q => (pickWarp s p.1 q).map fun e => (p.1, e)

/-- The first sequencer that may issue. -/
def dueSequencer (s : State) : Option Nat := (s.seqs.find? fun p => seqIssues s p.1).map Prod.fst

/-- A cycle of every die, and one of a scheduler core, whose clock is half as fast (R382), after a poll of every node. -/
def tickAll (s : State) : State :=
  let s := (s.devs.map Prod.fst).foldl pollAll s
  (List.range 4).foldl (fun s d => let t := tickDie s d 1; if (t.die d).cycle % 2 = 0 then tickSched t d 1 else t) s

/-- The default move. -/
def autoMove (s : State) : Outcome State Fault Refusal :=
  match dueEvent s with
  | some t => .next t
  | none =>
    match dueIssue s with
    | some (c, sl, e) => issueWarp s c sl e
    | none =>
      match dueSequencer s with
      | some cl => issueSeq s cl
      | none => .next (tickAll s)

end Sys2Proof.Machine
end

