-- ==== Sys2Proof/Machine/Place.lean ====
section
/-! DEFINITION. Words placed where the next step fetches an instruction: the state a launch of them leaves, with the instruction
cache holding their line and the move that issues them at the head of the agenda (log 27). -/

namespace Sys2Proof.Machine

/-- The clause placed: its header's address. -/
def placedAt : Nat := 0x1000

/-- The record of the launch placed: one warp of six blocks, no handler, no scratch, unguarded. -/
def placedRec : LRec :=
  { roots := 0, proots := 0, pncore := 0, pcore := 0, snapset := 0, space := 0, cgsize := 0, dbgatt := false, hand := false,
    pclass := 0, genTrap := false, mode := 0, kind := 0, base := 6, warps := 1, scratch := 0, grid2 := 1, grid1 := 1, grid0 := 1,
    tvec := 0, args := 0, code := BitVec.ofNat 64 placedAt }

/-- The placed launch, running. -/
def placedLaunch (k : Nat) : Launch :=
  { dev := k, id := 1, rec_ := placedRec, comp := 0, tag := 0, queue := 0, slot := 0, attempt := 0, phase := .running, next := 1,
    rootsPushed := false, pages := [], log := [], status := 0, cause := 0, double := false, wgidx := 0, tpc := 0 }

/-- Its workgroup, on core 0. -/
def placedWg (l pos gen : Nat) (cg : Option Nat) : Wg :=
  { launch := l, index := 0, core := 0, cg := cg, pos := pos, pool := false, slots := 0, nwarps := 1, ended := 0,
    phase := .resident, base := 0, size := 0, gen := gen, bars := [], chans := [], laneQ := [], copyQ := [], chanQ := [],
    appQ := [], left := [], blocked := none, reissue := [], doomed := [], sub := [], ck := Ckpt.fresh, twin := none, third := none,
    primary := true, image := none, saveUnits := 0, ckUnits := 0, ckAt := 0, heard := [], again := [] }

/-- The clause's line: its header and words, zeros after them. -/
def placedLine (page count : Nat) (ws : List Word) : ILine :=
  { space := 0, va := placedAt,
    bytes := (plainHeader page count :: ws ++ List.replicate 12 0).flatMap fun (w : Word) => bytesOfNat 4 w.toNat }

/-- The instruction of the bits of a table word; its page and word count, and whether a warp's stream takes it. -/
def placedPage (nbits w : Nat) : Nat × Nat × Bool :=
  match decodeTableWord nbits w with
  | some i => (pageOf i, wordCount i, wellFormedIn false i)
  | none => (0, 1, true)

/-- Place a table word: core 0 runs a warp of a fresh launch whose first clause holds it; a word only a sequencer takes stands
in a program forked by that workgroup. -/
def placeWord (s : State) (nbits w : Nat) : State :=
  let (page, count, warp) := placedPage nbits w
  let l := s.nextLaunch
  let g := s.nextWg
  let cl := clusterOf s 0
  let pos := (corePlace s 0).2.2.2
  let k := s.core 0
  let line := placedLine page count (tableWords nbits w)
  let s := s.setCore 0 { k with
    warps := [(0, freshWarp g 0 allLanes placedRec.code placedRec k.gen [0, 1, 2, 3, 4, 5])]
    icache := line :: k.icache.filter fun x => decide (x.space ≠ 0 ∨ x.va ≠ placedAt)
    quads := [] }
  let s := s.updDie 0 fun x => { x with stopped := false }
  let s := { s with
    nextLaunch := l + 1
    nextWg := g + 1
    launches := fput s.launches l (placedLaunch (devOfCore s 0))
    wgs := fput s.wgs g (placedWg l pos k.gen (if warp then none else some 0)) }
  if warp then { s with agenda := [.issue 0 0 0] }
  else
    let f : Fork := { code := placedRec.code, arg := 0, core := 0, slot := 0, wg := g, off := 0, pos := 0, waitReads := [], upto := 0 }
    let q : Sequencer := { Sequencer.reset with members := [(pos, g)], pc := placedRec.code, cur := some f }
    { s with seqs := fput s.seqs cl q, agenda := [.sequencer cl] }

end Sys2Proof.Machine
end

