-- ==== Sys2Proof/Machine/Step.lean ====
section
/-! DEFINITION. One step of the package: the next move of the agenda, or what is due when there is none (log 3). -/

namespace Sys2Proof.Machine

/-- One step: the move at the head of the agenda; with an empty agenda the first thing due. -/
def step (s : State) : Host.Outcome State Fault Refusal :=
  match s.agenda with
  | m :: rest => runMove { s with agenda := rest } m
  | [] => autoMove s

/-- The bits of an opcode-table word where the next step fetches its instruction (log 27). -/
def State.withFetchWord (s : State) (nbits w : Nat) : State := placeWord s nbits w

end Sys2Proof.Machine
end

