-- ==== Sys2Proof/Safety.lean ====
section
/-! DEFINITION. What claims are stated with: steps that go on, memory in its one form, legal modes; who is issuing, what an issue
leaves of the rest of the state, where lanes stand, and what a register write leaves. -/

namespace Sys2Proof.Safety

open Sys2Proof.Machine

/-- Does an outcome go on? -/
def goesOn : Host.Outcome State Fault Refusal → Bool
  | .next _ => true
  | .fault _ | .refused _ => false

/-- Device memory, far memory, companion memory and every scratchpad slice are in the canonical form: rising addresses, no byte
equal to what an unlisted address reads as (log 1, log 2). -/
def canonicalMemory (s : State) : Bool := memWf s.mem && memWf s.cmem && s.cores.all fun p => memWf p.2.data

/-- The keys of a finite map rise, from a lower bound on. -/
def risingFrom {α : Type} : Nat → FMap α → Bool
  | _, [] => true
  | lo, (k, _) :: m => decide (lo ≤ k) && risingFrom (k + 1) m

/-- The workgroups, the launches and every core's warps are kept by rising keys, so that each stands there once. -/
def orderedMaps (s : State) : Bool :=
  risingFrom 0 s.wgs && risingFrom 0 s.launches && s.cores.all fun p => risingFrom 0 p.2.warps

/-- The partition mode is one Table 20.5 gives, and so is the one a change under way goes to (R367). -/
def legalMode (s : State) : Bool := decide (s.pkg.mode ≤ 2 ∧ s.pkg.modeNext ≤ 2)

/-- Nobody is issuing between two steps. -/
def betweenSteps (s : State) : Bool := decide (s.cur = .nobody)

/-! ### An issue -/

/-- The entry x is issuing instruction i of its warp. -/
def Issues (i : Instr) (s : State) (x : Ctx) : Prop :=
  s.cur = .warp x.core x.slot x.ei ∧ ctxOf s x.core x.slot x.ei i = some x

/-- Rows 1 and 3 to 5 of Table 9.7 do not hold, and no operand is outstanding (R178). -/
def Clear (x : Ctx) : Prop := row1 x = true ∧ waitsFor x.w x.e.mask x.i = false ∧ rows35 x = none

/-- A cluster's sequencer is issuing instruction i of its program, and row 1 of Table 9.7 does not hold (R194, R309). -/
def SeqIssues (i : Instr) (s : State) (cl : Nat) : Prop :=
  s.cur = .sequencer cl ∧ (s.seq cl).cur.isSome = true ∧ (s.seq cl).ending = none ∧ (s.seq cl).stalled = none ∧
    seqRow1 (s.seq cl) i = true

/-- The whole state is as it was, but for the issuing core, which is k with warp w in the slot; the issue itself changes only
where the warp's lanes stand (park records for lanes past the eighth entry are added, those of an entry held for a trap handler
among them, R18, R244), the warp's waiting and issue times, and the core's count of issues (R36, R37). -/
def Leaves (s t : State) (x : Ctx) (k : Core) (w : Warp) : Prop :=
  ∃ (fr hd : List Entry) (ov : List Park), (∀ p ∈ ov, p.reason = .overflow) ∧
    (∀ e ∈ hd, e ∈ w.held) ∧ (∀ e ∈ w.held, e ∈ hd ∨ ∃ p ∈ ov, p.mask = e.mask ∧ p.pc = e.pc) ∧
    t = s.setCore x.core
      { k with
        warps := fput k.warps x.slot
          { w with
            frontier := fr
            held := hd
            parks := w.parks ++ ov
            nextSeq := w.nextSeq + ov.length
            waitCount := 0
            lastIssue := k.issueClock + 1 }
        issueClock := k.issueClock + 1
        quads := quadOf x.slot :: k.quads }

/-- Lane l of the warp in a slot stands at an address, in the frontier or parked by an overflow. -/
def laneAt (s : State) (c sl l : Nat) (pc : Double) : Prop :=
  ∃ w, s.warp? c sl = some w ∧
    ((∃ e ∈ w.frontier, hasLane e.mask l = true ∧ e.pc = pc) ∨
      ∃ p ∈ w.parks, hasLane p.mask l = true ∧ p.pc = pc ∧ p.reason = .overflow)

/-- The address of the next instruction. -/
def nextPc (x : Ctx) : Double := x.e.pc + BitVec.ofNat 64 (4 * wordCount x.i)

/-- The instruction completes: it leaves core k and warp w, and the entry's lanes stand at the next instruction. -/
def Completes (i : Instr) (s : State) (x : Ctx) (k : Core) (w : Warp) : Prop :=
  ∃ t, exec i s = .next t ∧ Leaves s t x k w ∧ ∀ l, hasLane x.e.mask l = true → laneAt t x.core x.slot l (nextPc x)

/-! ### Register writes -/

/-- Core k is core x.k with vector register d written in the active lanes: those lanes hold the values, the others what they
read before, the row has the register's generation (R110), and every other row stays. Without active lanes nothing is
written. -/
def WroteRow (x : Ctx) (k : Core) (d : Nat) (f : Nat → Word) : Prop :=
  if x.act = 0 then k = x.k
  else
    (∃ rows, k = { x.k with rows := rows }) ∧
      (∀ key, key ≠ rowKey x.slot x.w d → rowAt k key = rowAt x.k key) ∧
      (rowAt k (rowKey x.slot x.w d)).tag = rowGen x.w d ∧
      ∀ l, l < 32 → readV k x.slot x.w d l = if hasLane x.act l then f l else readV x.k x.slot x.w d l

/-- Core k is core x.k with destination field d written; a destination that discards (field 0x78, Table 9.4) leaves the core as
it was. -/
def Wrote (x : Ctx) (k : Core) (d : Nat) (f : Nat → Word) : Prop := if d < 0x60 then WroteRow x k d f else k = x.k

/-- Core k is core x.k with a destination pair written, the lower register first (R186). -/
def WrotePair (x : Ctx) (k : Core) (d : Nat) (f : Nat → Double) : Prop :=
  if d < 0x60 then
    ∃ k1, WroteRow x k1 d (fun l => BitVec.ofNat 32 ((f l).toNat % 2 ^ 32)) ∧
      WroteRow { x with k := k1 } k (d + 1) (fun l => BitVec.ofNat 32 ((f l).toNat / 2 ^ 32))
  else k = x.k

/-- The warp with a predicate written in the active lanes; a write to p7 is discarded (R189). -/
def withPred (x : Ctx) (w : Warp) (p : Nat) (f : Nat → Bool) : Warp :=
  if p = 7 then w
  else { w with preds := setAt w.preds p ((w.preds.getD p 0 &&& ~~~x.act) ||| (maskOf f &&& x.act)) }

/-- The warp with a scalar register written; fields from 24 on discard (Table 9.5). -/
def withScalar (w : Warp) (d : Nat) (v : Word) : Warp := if d < 24 then { w with sregs := setAt w.sregs d v } else w

/-- The warp with the flags of the active lanes added to FPSTAT (R202). -/
def withFlags (x : Ctx) (f : Nat → BitVec 5) : Warp :=
  { x.w with fpstat := (lanesOf x.act).foldl (fun a l => a ||| f l) x.w.fpstat }

end Sys2Proof.Safety
end

