-- ==== Sys2Proof/Certificates/Slice0/Obligations.lean ====
section
/-! DEFINITION. The statements for the provers, from the numbered rules of the manual, and the vocabulary they are
written in. -/

open Sys2Proof
open Sys2Proof.Machine
open Sys2Proof.Safety

/-! ### Encoding -/

/-- Decoding the words of a well-formed instruction, alone in a clause of its page, gives it back with all its operands,
and the number of its words (R177, R182, R183, Tables 9.2, 9.3, 9.8 to 9.14). -/
def Obligations.DecodeEncode : Prop :=
  ∀ (seq : Bool) (i : Instr), wellFormedIn seq i = true → view i ≠ .event →
    decode seq (pageOf i) (encode i) = .ok (i, wordCount i)

/-- What decodes is a well-formed instruction of the clause's page, and the words it took are its encoding: a word has
one meaning on a page (R177, R182). -/
def Obligations.EncodeDecode : Prop :=
  ∀ (seq : Bool) (page : Nat) (ws : List Word) (i : Instr) (n : Nat), decode seq page ws = .ok (i, n) →
    wellFormedIn seq i = true ∧ pageOf i = page ∧ n ≤ ws.length ∧ encode i = ws.take n

namespace Sys2Proof.Claims

/-- The opcodes Tables 9.8 to 9.14 assign on each page. -/
def assigned (page op : Nat) : Bool :=
  match page with
  | 0 => decide (op ≤ 0x23) || decide (0x30 ≤ op ∧ op ≤ 0x63) || decide (0x70 ≤ op ∧ op ≤ 0x7E)
  | 1 => decide (op ≤ 0x11) || decide (0x40 ≤ op ∧ op ≤ 0x4D)
  | 2 => decide (op ≤ 0x0D)
  | 3 => decide (op ≤ 0x0E) || decide (0x10 ≤ op ∧ op ≤ 0x1E) || decide (0x20 ≤ op ∧ op ≤ 0x24)
  | 4 => decide (op ≤ 0x08)
  | 5 => decide (op ≤ 0x0A) || decide (0x10 ≤ op ∧ op ≤ 0x16)
  | 6 => decide (op ≤ 0x0A) || decide (0x10 ≤ op ∧ op ≤ 0x15)
  | _ => false

end Sys2Proof.Claims

/-- A word whose opcode Tables 9.8 to 9.14 do not assign on its page decodes to nothing, by name, and so does every word of
page 7; every other word names an instruction (R192). -/
def Parts.UnassignedOpcodes : Prop :=
  ∀ (seq : Bool) (page : Nat) (ws : List Word),
    decode seq page ws = .error .unassigned ↔ Claims.assigned page ((ws.getD 0 0).toNat / 2 ^ 25) = false

/-- Words written out from Tables 9.2, 9.3 and 9.8 to 9.14 decode to the instructions they stand for. -/
def Parts.TheSampleWords : Prop :=
  decode false 0 [0x0008_8302, 0x0004_0000] = .error .fields ∧
  decode false 0 [0x0004_103E, 0x0000_8000] = .ok (.iadd ⟨1, 2, 3, 7, 0⟩ ⟨0, 0, 0, 0, 1, 0⟩, 2) ∧
  decode false 1 [0x0221_0C00] = .ok (.ssub ⟨2, 2, 3, 0⟩, 1) ∧
  decode false 2 [0x01DF_FFFF] = .ok (.bra ⟨7, 0, -1⟩, 1) ∧
  decode false 3 [0x0208_105E, 0x0004_8000] = .error .fields ∧
  decode false 6 [0x0A00_005E] = .ok (.dbgbrk ⟨0, 0, 5, 7, 0⟩, 1)

/-- Unassigned opcodes decode to nothing; words written out from the tables decode to their instructions: the statements
UnassignedOpcodes and TheSampleWords. -/
def Obligations.SampleWords : Prop := Parts.UnassignedOpcodes ∧ Parts.TheSampleWords

/-! ### Steps -/

namespace Sys2Proof.Claims

/-- The state in which the instruction at an entry of a warp runs: the warp's wait of the last cycle forgotten, the lines of the
instruction's words in the instruction cache (R181), the entry issuing. -/
def issuing (s : State) (c sl ei : Nat) (w : Warp) (g : Wg) (pc : Double) (words : Nat) : State :=
  { fillWords (s.setWarp c sl (clearRetry w)) c (warpSpace s g) pc.toNat words with cur := .warp c sl ei }

/-- An outcome is that of the instruction at entry ei of the warp in a slot, which stands inside a clause: the words fetched at
its PC, decoded in the clause's page, run; then nobody issues, and an external operation that has ended is closed (R144). -/
def RunsAt (o : Host.Outcome State Fault Refusal) (s : State) (c sl ei : Nat) : Prop :=
  ∀ (w : Warp) (g : Wg) (e : Entry) (cl : Clause) (ws : List Word) (i : Instr) (n : Nat),
    s.warp? c sl = some w → fget s.wgs w.wg = some g → w.frontier[ei]? = some e → e.clause = some cl → e.waits = false →
    fetchInstr (s.setWarp c sl (clearRetry w)) c (warpSpace s g) cl e.pc = .ok ws → decode false cl.page ws = .ok (i, n) →
    o = onNext (afterIssue c sl w.wg none) (exec i (issuing s c sl ei w g e.pc ws.length))

/-- An outcome is that of the first instruction of a clause whose header stands at entry ei's PC, when the header's waits are met
(R174 to R176): the entry is taken past the header, with the header's priority, and the instruction after it runs; if that
cannot go ahead the entry stands at the header again. -/
def RunsFromHeader (o : Host.Outcome State Fault Refusal) (s : State) (c sl ei : Nat) : Prop :=
  ∀ (w : Warp) (g : Wg) (e e' : Entry) (cl : Clause) (h : Word) (ws : List Word) (i : Instr) (n : Nat),
    s.warp? c sl = some w → fget s.wgs w.wg = some g → w.frontier[ei]? = some e → e.clause = none →
    atHeader (s.setWarp c sl (clearRetry w)) c (warpSpace s g) (clearRetry w) g e.mask e.pc false = .go h →
    let w' := openClause (clearRetry w) ei e h
    let ei' := entryAt w' (e.pc + 4)
    let s' := (fillLine (s.setWarp c sl (clearRetry w)) c (warpSpace s g) e.pc.toNat).setWarp c sl w'
    w'.frontier[ei']? = some e' → e'.clause = some cl → fetchInstr s' c (warpSpace s' g) cl e'.pc = .ok ws →
    decode false cl.page ws = .ok (i, n) →
    o = onNext (afterIssue c sl w.wg (some e.pc))
      (exec i { fillWords s' c (warpSpace s' g) e'.pc.toNat ws.length with cur := .warp c sl ei' })

end Sys2Proof.Claims

/-- A step whose move issues an entry of a warp runs the decoded instruction: when the agenda names the scheduler's pick, and when
the agenda is empty, nothing is due and the pick of R36 is that entry (log 3). The instruction's own statements reach a run
through this one. -/
def Parts.StepRunsInstruction : Prop :=
  (∀ (s : State) (rest : List Move) (c sl ei : Nat), s.agenda = .issue c sl ei :: rest →
    pickWarp { s with agenda := rest } c (quadOf sl) = some (sl, ei) →
    Claims.RunsAt (step s) { s with agenda := rest } c sl ei ∧ Claims.RunsFromHeader (step s) { s with agenda := rest } c sl ei) ∧
  ∀ (s : State) (c sl ei : Nat), s.agenda = [] → dueEvent s = none → dueIssue s = some (c, sl, ei) →
    Claims.RunsAt (step s) s c sl ei ∧ Claims.RunsFromHeader (step s) s c sl ei

/-- A step whose move is a sequencer's runs the instruction decoded at the sequencer's PC inside its clause (R308, R309). -/
def Parts.StepRunsSequencerWord : Prop :=
  ∀ (s : State) (rest : List Move) (cl c g : Nat) (x : Wg) (k : Clause) (ws : List Word) (i : Instr) (n : Nat),
    s.agenda = .sequencer cl :: rest → seqIssues { s with agenda := rest } cl = true → seqCore (s.seq cl) = some (c, g) →
    fget s.wgs g = some x → (s.seq cl).clause = some k →
    let s' := ({ s with agenda := rest }).updCore c fun k => { k with quads := 4 :: k.quads }
    fetchInstr s' c (warpSpace s' x) k (s.seq cl).pc = .ok ws → decode true k.page ws = .ok (i, n) →
    step s = onNext (fun t => { t with cur := .nobody })
      (exec i { fillWords s' c (warpSpace s' x) (s.seq cl).pc.toNat ws.length with cur := .sequencer cl })

/-- A step whose move is an event of a unit of the package answers that event's meaning; a companion write of a register, which is
marked release, waits behind earlier writes of the companion (R362). -/
def Parts.StepRunsEvent : Prop :=
  ∀ (s : State) (rest : List Move) (i : Instr), s.agenda = .event i :: rest → isEvent i = true →
    let s' := { s with agenda := rest }
    (isRegWrite i = false ∨ companionWaits s' = false → step s = exec i s') ∧
    (isRegWrite i = true → companionWaits s' = true → step s = .next s')

/-- The machine never stops: every step of every state answers a next state. -/
def Parts.StepGoesOn : Prop := ∀ s : State, goesOn (step s) = true

/-- A step runs the instruction decoded at the PC, a sequencer word or an event, and every step goes on: the statements
StepRunsInstruction and StepRunsSequencerWord and StepRunsEvent and StepGoesOn. -/
def Obligations.StepRuns : Prop := Parts.StepRunsInstruction ∧ Parts.StepRunsSequencerWord ∧ Parts.StepRunsEvent ∧ Parts.StepGoesOn

/-- After power-on memory is in its canonical form, the maps are ordered, the partition mode is legal and nobody is issuing. -/
def Parts.ResetInvariants : Prop :=
  canonicalMemory State.reset = true ∧ orderedMaps State.reset = true ∧ legalMode State.reset = true ∧ betweenSteps State.reset = true

/-- Every step keeps device, far and companion memory and every scratchpad slice in the canonical form: addresses rising, no
byte listed that equals what an unlisted address reads as. -/
def Obligations.StepKeepsMemoryCanonical : Prop :=
  ∀ s t : State, canonicalMemory s = true → step s = .next t → canonicalMemory t = true

/-- Every step keeps the workgroups, the launches and every core's warps by rising keys, so that each stands there once. -/
def Obligations.StepKeepsMapsOrdered : Prop :=
  ∀ s t : State, orderedMaps s = true → step s = .next t → orderedMaps t = true

/-- Every step keeps the partition mode legal (R367): modes 0 to 2, whatever is written to PMODE. -/
def Obligations.StepKeepsModeLegal : Prop := ∀ s t : State, legalMode s = true → step s = .next t → legalMode t = true

/-- After power-on (Tables 20.5, 21.1, 21.2, 22.1, 23.1, 23.2; R96, R112) the package is in mode 0 with no image accepted; every
core has generation 1, tag 0 in every row, no warp, section counters and phase 0; every command queue is disabled at index 0;
every device's fault queue is disabled, its counters F and C are 0; no launch, workgroup, window or export exists. -/
def Parts.ResetValues : Prop :=
  let s := State.reset
  s.pkg.mode = 0 ∧ s.pkg.refused = false ∧ s.pkg.stage = 0 ∧ s.pkg.booterr = 0 ∧
  (∀ c : Nat, (s.core c).gen = 1 ∧ (s.core c).warps = [] ∧ (s.core c).cnt0 = 0 ∧ (s.core c).cnt1 = 0 ∧ (s.core c).phase = 0 ∧
    (s.core c).f = 0 ∧ (s.core c).c = 0 ∧ ∀ key, (rowAt (s.core c) key).tag = 0) ∧
  (∀ k q : Nat, (s.queue k q).en = false ∧ (s.queue k q).kick = 0 ∧ (s.queue k q).ridx = 0 ∧ (s.queue k q).err = 0) ∧
  (∀ k : Nat, (s.dev k).fqen = false ∧ (s.dev k).fqprod = 0 ∧ (s.dev k).fqcons = 0 ∧ (s.dev k).vesper.f = 0 ∧
    (s.dev k).vesper.c = 0 ∧ (s.dev k).retire = []) ∧
  s.launches = [] ∧ s.wgs = [] ∧ s.windows = [] ∧ s.exports = []

/-- After power-on the invariants hold and the registers have their reset values: the statements ResetInvariants and
ResetValues. -/
def Obligations.ResetState : Prop := Parts.ResetInvariants ∧ Parts.ResetValues

/-! ### The VALU page -/

namespace Sys2Proof.Claims

/-- Bits of an integer type code (Table 10.1). -/
def width (ty : Nat) : Nat := if ty ≤ 1 then 32 else if ty ≤ 3 then 16 else 8
/-- Is an integer type code signed (Table 10.1)? -/
def isSigned (ty : Nat) : Bool := ty % 2 == 1
/-- The value of a source under an integer type: its low bits, signed or not (R201). -/
def value (ty : Nat) (w : Word) : Int :=
  if isSigned ty then (w.setWidth (width ty)).toInt else (w.setWidth (width ty)).toNat
/-- Smallest value of an integer type. -/
def least (ty : Nat) : Int := if isSigned ty then -2 ^ (width ty - 1) else 0
/-- Largest value of an integer type. -/
def greatest (ty : Nat) : Int := if isSigned ty then 2 ^ (width ty - 1) - 1 else 2 ^ width ty - 1
/-- An exact result as written: modulo 2^n or, with sat, clamped to the range; then extended to 32 bits as the type is signed
or not (R154, R201, R204). -/
def written (ty : Nat) (sat : Bool) (e : Int) : Word :=
  let v := BitVec.ofInt (width ty) (if sat then max (least ty) (min (greatest ty) e) else e)
  if isSigned ty then v.signExtend 32 else v.setWidth 32

/-- An instruction of the VALU page with an F3 and an XM word, alone or with a literal. -/
def withLiteral (i : F3 → XM → Instr) (j : F3 → XM → Word → Instr) (f : F3) (m : XM) : Option Word → Instr
  | none => i f m
  | some l => j f m l

/-- An instruction of one word, alone or with a literal. -/
def withLiteral' {α : Type} (i : α → Instr) (j : α → Word → Instr) (f : α) : Option Word → Instr
  | none => i f
  | some l => j f l

/-- Whenever instruction i issues with nothing to stop it, it completes; V[d] of the active lanes becomes f, and nothing else
changes but the warp's place and issue times. -/
def GivesLanes (i : Instr) (d : BitVec 7) (f : State → Ctx → Nat → Word) : Prop :=
  ∀ (s : State) (x : Ctx), Issues i s x → Clear x → ∃ k, Wrote x k d.toNat (f s x) ∧ Completes i s x k x.w

/-- Table 10.2: E from the exact values of a, b and c, n bits wide. -/
def integerTable (f : F3) (m : XM) (l : Option Word) : List (Instr × (Nat → Int → Int → Int → Int)) :=
  [(withLiteral .iadd .iaddLiteral f m l, fun _ x y _ => x + y), (withLiteral .isub .isubLiteral f m l, fun _ x y _ => x - y),
   (withLiteral .imul .imulLiteral f m l, fun _ x y _ => x * y),
   (withLiteral .imulhi .imulhiLiteral f m l, fun n x y _ => Int.fdiv (x * y) (2 ^ n)),
   (withLiteral .imad .imadLiteral f m l, fun _ x y z => x * y + z), (withLiteral .imin .iminLiteral f m l, fun _ x y _ => min x y),
   (withLiteral .imax .imaxLiteral f m l, fun _ x y _ => max x y), (.iabs f m, fun _ x _ _ => if x < 0 then -x else x),
   (.ineg f m, fun _ x _ _ => -x)]

end Sys2Proof.Claims

/-- Integer arithmetic (R204, Table 10.2, and R193 for the literal forms): each active lane's V[d] is the table's exact result,
wrapped or saturated and extended; no other lane, register, predicate, flag or byte of memory changes. -/
def Parts.TheIntegerArithmetic : Prop :=
  ∀ (f : F3) (m : XM) (l : Option Word), ∀ p ∈ Claims.integerTable f m l,
    Claims.GivesLanes p.1 f.d fun s x n =>
      let v (r : BitVec 7) := Claims.value m.size.toNat (srcLane s x r.toNat n)
      Claims.written m.size.toNat (m.sat == 1) (p.2 (Claims.width m.size.toNat) (v f.a) (v f.b) (v m.c))

/-- IADDC (R205): the 33-bit sum with the carry predicate, or with carry 0 when off15[3] is set; the low word goes to V[d], the
carry to P[k] of the active lanes. -/
def Parts.AddWithCarry : Prop :=
  ∀ (f : F3) (m : XM) (l : Option Word) (s : State) (x : Ctx),
    Issues (Claims.withLiteral .iaddc .iaddcLiteral f m l) s x → Clear x →
    let k := m.off.toNat % 8
    let cin (n : Nat) : Nat := if m.off.getLsbD 3 = false ∧ hasLane (readP x.w k) n = true then 1 else 0
    let e (n : Nat) : Nat := (srcLane s x f.a.toNat n).toNat + (srcLane s x f.b.toNat n).toNat + cin n
    ∃ c, Wrote x c f.d.toNat (fun n => BitVec.ofNat 32 (e n)) ∧
      Completes (Claims.withLiteral .iaddc .iaddcLiteral f m l) s x c (withPred x x.w k fun n => decide (2 ^ 32 ≤ e n))

/-- Integer arithmetic and IADDC give each active lane the table's result; nothing else changes: the statements
TheIntegerArithmetic and AddWithCarry. -/
def Obligations.IntegerArithmetic : Prop := Parts.TheIntegerArithmetic ∧ Parts.AddWithCarry

namespace Sys2Proof.Claims

/-- Table 10.3. -/
def logicTable (f : F3) (l : Option Word) : List (Instr × (Word → Word → Word)) :=
  [(withLiteral' .and_ .andLiteral f l, fun a b => a &&& b), (withLiteral' .or_ .orLiteral f l, fun a b => a ||| b),
   (withLiteral' .xor_ .xorLiteral f l, fun a b => a ^^^ b), (withLiteral' .andn .andnLiteral f l, fun a b => a &&& ~~~b),
   (withLiteral' .shl .shlLiteral f l, fun a b => BitVec.ofNat 32 (a.toNat * 2 ^ b.toNat)),
   (withLiteral' .shr .shrLiteral f l, fun a b => BitVec.ofNat 32 (a.toNat / 2 ^ b.toNat)),
   (withLiteral' .sar .sarLiteral f l, fun a b => BitVec.ofInt 32 (Int.fdiv a.toInt (2 ^ min b.toNat 31))),
   (withLiteral' .rotl .rotlLiteral f l, fun a b => a.rotateLeft (b.toNat % 32)),
   (withLiteral' .mov .movLiteral f l, fun a _ => a), (.not_ f, fun a _ => ~~~a),
   (.popc f, fun a _ => BitVec.ofNat 32 ((List.range 32).countP fun n => a.getLsbD n)),
   (.clz f, fun a _ => BitVec.ofNat 32 (if a = 0 then 32 else 31 - a.toNat.log2)), (.brev f, fun a _ => a.reverse)]

end Sys2Proof.Claims

/-- Logic and bit operations (R206, Table 10.3, R193): each active lane's V[d] is the table's result; nothing else changes. -/
def Parts.LogicAndShifts : Prop :=
  ∀ (f : F3) (l : Option Word), ∀ p ∈ Claims.logicTable f l,
    Claims.GivesLanes p.1 f.d fun s x n => p.2 (srcLane s x f.a.toNat n) (srcLane s x f.b.toNat n)

namespace Sys2Proof.Claims

/-- Bits(v, p + l - 1, p). -/
def bits (v p l : Nat) : Nat := v / 2 ^ p % 2 ^ l
/-- p and l of a control word (R208). -/
def fieldOf (w : Word) : Nat × Nat :=
  let p := min (bits w.toNat 0 8) 32
  (p, min (bits w.toNat 8 8) (32 - p))
/-- BFX's field of a under control word w (R208). -/
def extracted (signed : Bool) (a w : Word) : Word :=
  let (p, l) := fieldOf w
  let v := bits a.toNat p l
  if signed ∧ 0 < l ∧ 2 ^ (l - 1) ≤ v then BitVec.ofInt 32 ((v : Int) - 2 ^ l) else BitVec.ofNat 32 v
/-- BFI's insertion of a into b (R208). -/
def inserted (a b w : Word) : Word :=
  let (p, l) := fieldOf w
  let m : Word := BitVec.ofNat 32 ((2 ^ l - 1) * 2 ^ p)
  (b &&& ~~~m) ||| (BitVec.ofNat 32 (a.toNat * 2 ^ p) &&& m)
/-- Result byte k of PRMT (R209). -/
def permuted (a b c : Word) (k : Nat) : Nat :=
  let sel := bits c.toNat (4 * k) 4
  let byte := bits (b.toNat * 2 ^ 32 + a.toNat) (8 * (sel % 8)) 8
  if sel < 8 then byte else if byte < 128 then 0 else 255
/-- One round of HASH32 (R212). -/
def hashStep (b x : Word) (i : Nat) : Word :=
  let y := (x + b + BitVec.ofNat 32 i) * 0x85EB_CA6B#32
  y ^^^ BitVec.ofNat 32 (y.toNat / 2 ^ 15)

end Sys2Proof.Claims

/-- Bit fields, byte permutation, selection, moves of immediates and the hash (R207 to R209, R211, R212, R193): each active
lane's V[d] is the rule's result; nothing else changes. -/
def Parts.FieldsAndBytes : Prop :=
  ∀ (f : F3) (m : XM) (l : Option Word) (g : F2I),
    Claims.GivesLanes (Claims.withLiteral .bfx .bfxLiteral f m l) f.d (fun s x n =>
      Claims.extracted (m.size == 1) (srcLane s x f.a.toNat n) (srcLane s x f.b.toNat n)) ∧
    Claims.GivesLanes (Claims.withLiteral .bfi .bfiLiteral f m l) f.d (fun s x n =>
      Claims.inserted (srcLane s x f.a.toNat n) (srcLane s x f.b.toNat n) (srcLane s x m.c.toNat n)) ∧
    Claims.GivesLanes (Claims.withLiteral .prmt .prmtLiteral f m l) f.d (fun s x n =>
      let b := Claims.permuted (srcLane s x f.a.toNat n) (srcLane s x f.b.toNat n) (srcLane s x m.c.toNat n)
      BitVec.ofNat 32 (b 0 + 2 ^ 8 * b 1 + 2 ^ 16 * b 2 + 2 ^ 24 * b 3)) ∧
    Claims.GivesLanes (Claims.withLiteral .sel .selLiteral f m l) f.d (fun s x n =>
      if hasLane (readP x.w (m.off.toNat % 8)) n = m.off.getLsbD 3 then srcLane s x f.b.toNat n else srcLane s x f.a.toNat n) ∧
    Claims.GivesLanes (Claims.withLiteral .hash32 .hash32Literal f m l) f.d (fun s x n =>
      let b := srcLane s x f.b.toNat n
      let x0 := srcLane s x f.a.toNat n ^^^ srcLane s x m.c.toNat n * 0x9E37_79B9#32
      Claims.hashStep b (Claims.hashStep b (Claims.hashStep b x0 0) 1) 2) ∧
    Claims.GivesLanes (.movi g) g.d (fun _ _ _ => BitVec.ofInt 32 g.imm.toInt)

/-- Logic, shifts, bit fields, byte permutation, moves and HASH32 give each active lane the rule's result: the statements
LogicAndShifts and FieldsAndBytes. -/
def Obligations.LogicShiftsAndFields : Prop := Parts.LogicAndShifts ∧ Parts.FieldsAndBytes

namespace Sys2Proof.Claims

/-- A condition of Table 10.5 between integers (R211). -/
def holds (cc : Nat) (x y : Int) : Bool :=
  match cc with
  | 0 => x == y
  | 1 => x != y
  | 2 => decide (x < y)
  | 3 => decide (x ≤ y)
  | 4 => decide (x > y)
  | _ => decide (x ≥ y)

end Sys2Proof.Claims

/-- LEA (R210) writes the 64-bit sum modulo 2^64 to the pair; ICMP (R211) writes its condition on the typed values to P[pd] of
the active lanes; nothing else changes. -/
def Obligations.AddressesAndCompares : Prop :=
  ∀ (f : F3) (m : XM) (l : Option Word) (s : State) (x : Ctx),
    (Issues (Claims.withLiteral .lea .leaLiteral f m l) s x → Clear x →
      let idx (n : Nat) : Int := if m.size.getLsbD 2 then (srcLane s x f.b.toNat n).toInt else (srcLane s x f.b.toNat n).toNat
      ∃ k, WrotePair x k f.d.toNat (fun n =>
          BitVec.ofInt 64 ((pairLane s x f.a.toNat n).toNat + idx n * 2 ^ (m.size.toNat % 4) + m.off.toInt)) ∧
        Completes (Claims.withLiteral .lea .leaLiteral f m l) s x k x.w) ∧
    (Issues (Claims.withLiteral .icmp .icmpLiteral f m l) s x → Clear x →
      let v (r : BitVec 7) (n : Nat) := Claims.value m.size.toNat (srcLane s x r.toNat n)
      Completes (Claims.withLiteral .icmp .icmpLiteral f m l) s x x.k
        (withPred x x.w f.d.toNat fun n => Claims.holds (m.off.toNat % 8) (v f.a n) (v f.b n)))

namespace Sys2Proof.Claims

/-- Whenever instruction i issues with nothing to stop it, it completes; V[d] of the active lanes becomes f's word, f's flags of
the active lanes are added to FPSTAT, and nothing else changes but the warp's place and issue times. -/
def GivesFlagged (i : Instr) (d : BitVec 7) (f : State → Ctx → Nat → Nat × Flags) : Prop :=
  ∀ (s : State) (x : Ctx), Issues i s x → Clear x →
    ∃ k, Wrote x k d.toNat (fun n => BitVec.ofNat 32 (f s x n).1) ∧ Completes i s x k (withFlags x fun n => (f s x n).2)

/-- The float type of a size code (Table 10.1). -/
def floatType (n : Nat) : Fmt := match n with | 0 => .f32 | 1 => .f16 | _ => .bf16

/-- An exact result rounded once in the mode and with the saturation of the XM word (R163), its flags with those of the
operation (R166). -/
def rounded (t : Fmt) (m : XM) (r : Exact × Flags) : Nat × Flags :=
  let q := roundExact t (RMode.ofCode m.round.toNat) (m.sat == 1) r.1
  (q.1, q.2 ||| r.2)

/-- Table 10.4 and the packed forms of R219: the exact result of a, b and c under a rounding mode. -/
def floatTable (packed : Bool) (f : F3) (m : XM) (l : Option Word) : List (Instr × (RMode → Exact → Exact → Exact → Exact × Flags)) :=
  if packed then
    [(withLiteral .padd .paddLiteral f m l, fun r x y _ => exactSum r [x, y]),
     (withLiteral .pmul .pmulLiteral f m l, fun _ x y _ => exactMul x y), (withLiteral .pfma .pfmaLiteral f m l, exactFma)]
  else
    [(withLiteral .fadd .faddLiteral f m l, fun r x y _ => exactSum r [x, y]),
     (withLiteral .fsub .fsubLiteral f m l, fun r x y _ => exactSum r [x, y.neg]),
     (withLiteral .fmul .fmulLiteral f m l, fun _ x y _ => exactMul x y), (withLiteral .ffma .ffmaLiteral f m l, exactFma)]

end Sys2Proof.Claims

/-- Float arithmetic (R213, R219, Table 10.4, R193): each active lane's V[d] is the exact result of the decoded operands rounded
once, of each 16-bit half for a packed form; the flags raised are added to FPSTAT; nothing else changes. -/
def Parts.TheFloatArithmetic : Prop :=
  ∀ (f : F3) (m : XM) (l : Option Word),
    let t := Claims.floatType m.size.toNat
    let mode := RMode.ofCode m.round.toNat
    (∀ p ∈ Claims.floatTable false f m l, Claims.GivesFlagged p.1 f.d fun s x n =>
      let v (r : BitVec 7) := t.decode (srcLane s x r.toNat n).toNat
      Claims.rounded t m (p.2 mode (v f.a) (v f.b) (v m.c))) ∧
    (∀ p ∈ Claims.floatTable true f m l, Claims.GivesFlagged p.1 f.d fun s x n =>
      let half (h : Nat) :=
        let v (r : BitVec 7) := t.decode (Claims.bits (srcLane s x r.toNat n).toNat (16 * h) 16)
        Claims.rounded t m (p.2 mode (v f.a) (v f.b) (v m.c))
      ((half 0).1 + 65536 * (half 1).1, (half 0).2 ||| (half 1).2)) ∧
    Claims.GivesFlagged (Claims.withLiteral .fscale .fscaleLiteral f m l) f.d fun s x n =>
      Claims.rounded t m (scaleExact (t.decode (srcLane s x f.a.toNat n).toNat) (srcLane s x f.b.toNat n).toInt)

/-- FMIN, FMAX, FCMP, FCLASS and FRND (R214 to R217): minimumNumber and maximumNumber, a condition to P[pd], one class bit, and
rounding to an integral value, with their flags; nothing else changes. -/
def Parts.FloatSelection : Prop :=
  ∀ (f : F3) (m : XM) (l : Option Word),
    let t := Claims.floatType m.size.toNat
    Claims.GivesFlagged (Claims.withLiteral .fmin .fminLiteral f m l) f.d (fun s x n =>
      minMaxCode t false (srcLane s x f.a.toNat n).toNat (srcLane s x f.b.toNat n).toNat) ∧
    Claims.GivesFlagged (Claims.withLiteral .fmax .fmaxLiteral f m l) f.d (fun s x n =>
      minMaxCode t true (srcLane s x f.a.toNat n).toNat (srcLane s x f.b.toNat n).toNat) ∧
    Claims.GivesFlagged (.frnd f m) f.d (fun s x n =>
      roundIntegral t (RMode.ofCode m.round.toNat) (t.decode (srcLane s x f.a.toNat n).toNat)) ∧
    Claims.GivesLanes (.fclass f m) f.d (fun s x n => BitVec.ofNat 32 (2 ^ classBit t (srcLane s x f.a.toNat n).toNat)) ∧
    ∀ (s : State) (x : Ctx), Issues (Claims.withLiteral .fcmp .fcmpLiteral f m l) s x → Clear x →
      let r (n : Nat) :=
        floatCond (m.off.toNat % 8) (t.decode (srcLane s x f.a.toNat n).toNat) (t.decode (srcLane s x f.b.toNat n).toNat)
      Completes (Claims.withLiteral .fcmp .fcmpLiteral f m l) s x x.k
        (withPred x (withFlags x fun n => (r n).2) f.d.toNat fun n => (r n).1)

/-- Float and packed arithmetic, FMIN, FMAX, FCMP, FCLASS and FRND give each active lane the rounded result and its flags: the
statements TheFloatArithmetic and FloatSelection. -/
def Obligations.FloatArithmetic : Prop := Parts.TheFloatArithmetic ∧ Parts.FloatSelection

/-- The functions of Table 10.6, CVT, QNT and DQNT (R218, R220 to R222): each active lane's V[d] is the rule's result, its flags
are added to FPSTAT; nothing else changes. -/
def Obligations.FunctionsAndConversions : Prop :=
  ∀ (f : F3) (m : XM) (l : Option Word),
    let t := Claims.floatType m.size.toNat
    let fmt := fmtOfCode (m.off.toNat % 64) (m.off.getLsbD 6)
    (∀ p ∈ [(Instr.frcp f m, Fn.rcp), (.frsq f m, .rsq), (.fsqrt f m, .sqrt), (.fexp2 f m, .exp2), (.flog2 f m, .log2),
        (.fsin f m, .sin), (.fcos f m, .cos), (.ftanh f m, .tanh)],
      Claims.GivesFlagged p.1 f.d fun s x n =>
        fnExact t p.2 (RMode.ofCode m.round.toNat) (m.sat == 1) (t.decode (srcLane s x f.a.toNat n).toNat)) ∧
    Claims.GivesFlagged (Claims.withLiteral .cvt .cvtLiteral f m l) f.d (fun s x n =>
      let r := convert m (srcLane s x f.a.toNat n)
      (r.1.toNat, r.2)) ∧
    (∀ d, fmt = some d → Claims.GivesFlagged (.qnt f m) f.d fun s x n =>
      quantLane t d m (deriveScale d ((lanesOf x.act).map fun j => t.decode (srcLane s x f.a.toNat j).toNat))
        (srcLane s x f.a.toNat n) (srcLane s x f.b.toNat n) (srcLane s x m.c.toNat n)) ∧
    (∀ d, fmt = some d → Claims.GivesFlagged (.dqnt f m) f.d fun s x n =>
      let r := exactMul (d.decode (srcLane s x f.a.toNat n).toNat) (s10Decode ((srcLane s x f.b.toNat n).toNat % 1024))
      let q := roundExact .f32 .rne false r.1
      (q.1, q.2 ||| r.2))

namespace Sys2Proof.Claims

/-- SHFL's source lane (R225). -/
def shuffled (mode n l : Nat) : Nat :=
  match mode with
  | 0 => n % 32
  | 1 => if l < n then l else l - n
  | 2 => if l + n ≤ 31 then l + n else l
  | _ => l ^^^ (n % 32)

end Sys2Proof.Claims

/-- Moves across lanes and packing (R223, R225, R226): SHFL, BCAST, MATCH, PACK and UNPK give each active lane the value the rule
names; nothing else changes. -/
def Parts.LaneMoves : Prop :=
  ∀ (f : F3) (m : XM),
    let e := 4 * 2 ^ m.size.toNat
    let g := 32 / e
    Claims.GivesLanes (.shfl f m) f.d (fun s x l =>
      srcLane s x f.a.toNat (Claims.shuffled (m.off.toNat % 4) (srcLane s x f.b.toNat l).toNat l)) ∧
    Claims.GivesLanes (.bcast f m) f.d (fun s x _ =>
      srcLane s x f.a.toNat (if m.off.getLsbD 5 then m.off.toNat % 32 else (lowLane x.act).getD 0)) ∧
    Claims.GivesLanes (.match_ f m) f.d (fun s x l =>
      maskOf fun n => hasLane x.act n && srcLane s x f.a.toNat n == srcLane s x f.a.toNat l) ∧
    Claims.GivesLanes (.pack f m) f.d (fun s x l =>
      BitVec.ofNat 32 (((List.range g).map fun k => 2 ^ (e * k) * Claims.bits (srcLane s x f.a.toNat (l - l % g + k)).toNat 0 e).sum)) ∧
    Claims.GivesLanes (.unpk f m) f.d (fun s x l =>
      let v := Claims.bits (srcLane s x f.a.toNat (l - l % g)).toNat (e * (l % g)) e
      if m.off.getLsbD 0 = true ∧ 2 ^ (e - 1) ≤ v then BitVec.ofInt 32 ((v : Int) - 2 ^ e) else BitVec.ofNat 32 v)

/-- Votes, reductions and scans (R226 to R229): VOTE writes a predicate or the ballot, the reductions give every active lane the
active lanes' reduction in ascending order, SCAN the reduction of the lanes before (and with) its own, REDMINI and REDMAXI the
winner's value and index with a predicate that says there is none; nothing else changes. -/
def Parts.Reductions : Prop :=
  ∀ (f : F3) (m : XM),
    let src (s : State) (x : Ctx) (l : Nat) := srcLane s x f.a.toNat l
    (∀ p ∈ [(Instr.redadd f m, 0), (.redmin f m, 1), (.redmax f m, 2)],
      Claims.GivesFlagged p.1 f.d fun s x _ => reduce m p.2 ((lanesOf x.act).map (src s x))) ∧
    Claims.GivesFlagged (.scan f m) f.d (fun s x l =>
      let before := (lanesOf x.act).filter fun n => decide (n < l) || (!m.off.getLsbD 2 && decide (n = l))
      if before = [] then (scanIdentity m (m.off.toNat % 4), 0) else reduce m (m.off.toNat % 4) (before.map (src s x))) ∧
    (∀ (s : State) (x : Ctx), Issues (.vote f m) s x → Clear x →
      let p := readP x.w f.a.toNat
      if m.off.toNat % 4 = 3 then
        ∃ k, Wrote x k f.d.toNat (fun _ => x.act &&& p) ∧ Completes (.vote f m) s x k x.w
      else
        Completes (.vote f m) s x x.k (withPred x x.w f.d.toNat fun _ =>
          let all := x.act &&& ~~~p == 0
          let none := x.act &&& p == 0
          if m.off.toNat % 4 = 0 then all else if m.off.toNat % 4 = 1 then !none else all || none)) ∧
    ∀ isMax : Bool, ∀ (s : State) (x : Ctx), Issues (if isMax then .redmaxi f m else .redmini f m) s x → Clear x →
      let all := (lanesOf x.act).map fun l => (src s x l, srcLane s x f.b.toNat l)
      let isF := m.size == 2
      let cands := all.filter fun p => !(isF && (Fmt.f32.decode p.1.toNat).isNaN)
      let fl := if isF then nvOf (all.map fun p => Fmt.f32.decode p.1.toNat) else 0
      let r := (winner m isMax cands).getD (if isF then 0x7FC0_0000 else 0, 0xFFFF_FFFF)
      ∃ k, WrotePair x k f.d.toNat (fun _ => r.2 ++ r.1) ∧
        Completes (if isMax then .redmaxi f m else .redmini f m) s x k
          (withPred x (withFlags x fun _ => fl) (m.off.toNat % 8) fun _ => cands.isEmpty)


/-- SHFL, BCAST, MATCH, PACK, UNPK, votes, reductions and scans give each active lane the rule's value: the statements
LaneMoves and Reductions. -/
def Obligations.LaneMovesAndReductions : Prop := Parts.LaneMoves ∧ Parts.Reductions

/-! ### The SCALAR page -/

namespace Sys2Proof.Claims

/-- The integer a word is under imm10[3] (Table 11.1). -/
def scalarInt (f : FS) (w : Word) : Int := if f.imm.getLsbD 3 then w.toInt else w.toNat

/-- Table 11.1 but for SSEL: S[d] from x and y. -/
def scalarTable (f : FS) (l : Option Word) : List (Instr × (Word → Word → Word)) :=
  [(withLiteral' .sadd .saddLiteral f l, fun x y => x + y), (withLiteral' .ssub .ssubLiteral f l, fun x y => x - y),
   (withLiteral' .smul .smulLiteral f l, fun x y => x * y), (withLiteral' .sand .sandLiteral f l, fun x y => x &&& y),
   (withLiteral' .sor .sorLiteral f l, fun x y => x ||| y), (withLiteral' .sxor .sxorLiteral f l, fun x y => x ^^^ y),
   (withLiteral' .sshl .sshlLiteral f l, fun x y => BitVec.ofNat 32 (x.toNat * 2 ^ y.toNat)),
   (withLiteral' .sshr .sshrLiteral f l, fun x y => BitVec.ofNat 32 (x.toNat / 2 ^ y.toNat)),
   (withLiteral' .ssar .ssarLiteral f l, fun x y => BitVec.ofInt 32 (Int.fdiv x.toInt (2 ^ min y.toNat 31))),
   (withLiteral' .smin .sminLiteral f l, fun x y => if scalarInt f x ≤ scalarInt f y then x else y),
   (withLiteral' .smax .smaxLiteral f l, fun x y => if scalarInt f x ≤ scalarInt f y then y else x),
   (withLiteral' .scmp .scmpLiteral f l, fun x y => if holds (f.imm.toNat % 8) (scalarInt f x) (scalarInt f y) then 1 else 0),
   (withLiteral' .smov .smovLiteral f l, fun x _ => x)]

end Sys2Proof.Claims

/-- The SCALAR page in a warp's stream (R230 to R232, R234, Table 11.1, R193): S[d] becomes the table's result, SSEL's choice by
S[k], or SMOVI's signed constant; READLANE gives S[d] a lane of a vector source, SBCAST every live lane's V[y] the scalar; a d
of 24 or more discards; nothing else changes. -/
def Parts.ScalarWarp : Prop :=
  ∀ (f : FS) (l : Option Word) (s : State) (x : Ctx), Clear x →
    let src (n : BitVec 5) : Word := scalarSrc s x n.toNat
    (∀ p ∈ Claims.scalarTable f l, Issues p.1 s x →
      Completes p.1 s x x.k (withScalar x.w f.d.toNat (p.2 (src f.a) (src f.b)))) ∧
    (Issues (Claims.withLiteral' .ssel .sselLiteral f l) s x →
      Completes (Claims.withLiteral' .ssel .sselLiteral f l) s x x.k
        (withScalar x.w f.d.toNat (if scalarSrc s x (f.imm.toNat % 32) ≠ 0 then src f.a else src f.b))) ∧
    (Issues (.smovi f) s x → Completes (.smovi f) s x x.k (withScalar x.w f.d.toNat (BitVec.ofInt 32 f.imm.toInt))) ∧
    (Issues (.readlane f) s x →
      Completes (.readlane f) s x x.k
        (withScalar x.w f.d.toNat (srcLane s x (f.imm.toNat % 128) ((src f.a).toNat % 32)))) ∧
    (Issues (.sbcast f) s x →
      ∃ k, Wrote x k (f.imm.toNat % 128) (fun _ => src f.a) ∧ Completes (.sbcast f) s x k x.w ∧ x.act = x.w.live)

namespace Sys2Proof.Claims

/-- A q register; q0 reads 0 (R187). -/
def readQ (q : Sequencer) (n : Nat) : Word := if n = 0 then 0 else (fget q.q n).getD 0

/-- The sequencer n words on: past its clause it stands at a header (R177). -/
def onWords (q : Sequencer) (n : Nat) : Sequencer :=
  let pc := q.pc + BitVec.ofNat 64 (4 * n)
  { q with pc := pc, clause := q.clause.filter fun c => decide (pc.toNat < c.hdr.toNat + 4 * (c.count + 1)) }

/-- The sequencer with Q[d] written; q0 discards (R187). -/
def withQ (q : Sequencer) (d : Nat) (v : Word) : Sequencer := { q with q := if d = 0 then q.q else fput q.q d v }

/-- Whenever a sequencer issues instruction i, Q[d] becomes f and the sequencer goes on; nothing else changes. -/
def GivesQ (i : Instr) (d : BitVec 5) (f : Sequencer → Word) : Prop :=
  ∀ (s : State) (cl : Nat), SeqIssues i s cl →
    exec i s = .next (s.updSeq cl fun q => onWords (withQ q d.toNat (f q)) (wordCount i))

end Sys2Proof.Claims

/-- The SCALAR page in a sequencer's stream (R187, R188, R230 to R232): Q[d] from Q[a] and Q[b], the literal in place of Q[b]; q0
reads 0 and discards; SMOV with a literal copies Q[a]; nothing else changes. -/
def Parts.ScalarSequencer : Prop :=
  ∀ (f : FS) (l : Option Word),
    let y (q : Sequencer) : Word := match l with | some w => w | none => Claims.readQ q f.b.toNat
    (∀ p ∈ Claims.scalarTable f l, Claims.GivesQ p.1 f.d fun q => p.2 (Claims.readQ q f.a.toNat) (y q)) ∧
    Claims.GivesQ (Claims.withLiteral' .ssel .sselLiteral f l) f.d (fun q =>
      if Claims.readQ q (f.imm.toNat % 32) ≠ 0 then Claims.readQ q f.a.toNat else y q) ∧
    Claims.GivesQ (.smovi f) f.d fun _ => BitVec.ofInt 32 f.imm.toInt

/-- The SCALAR page writes S[d] in a warp's stream and Q[d] in a sequencer's: the statements ScalarWarp and ScalarSequencer. -/
def Obligations.ScalarUnits : Prop := Parts.ScalarWarp ∧ Parts.ScalarSequencer

/-! ### Branches, calls, traps and waits -/

namespace Sys2Proof.Claims

/-- The instruction completes: it leaves core k and warp w, and each lane of the entry stands where pc says. -/
def Moves (i : Instr) (s : State) (x : Ctx) (k : Core) (w : Warp) (pc : Nat → Double) : Prop :=
  ∃ t, exec i s = .next t ∧ Leaves s t x k w ∧ ∀ l, hasLane x.e.mask l = true → laneAt t x.core x.slot l (pc l)

/-- The header of the issuing clause. -/
def headerOf (x : Ctx) : Double := match x.e.clause with | some c => c.hdr | none => x.e.pc

/-- The target of a branch: H + 4 × off21 (R180). -/
def target (x : Ctx) (off : BitVec 21) : Double := headerOf x + BitVec.ofInt 64 (4 * off.toInt)

/-- May code lie there (R180)? -/
def inPaged (t : Double) : Prop := regionOf t.toNat = .paged

/-- Active lanes go to an address each, the entry's other lanes on. -/
def split (x : Ctx) (t : Nat → Double) (l : Nat) : Double := if hasLane x.act l then t l else nextPc x

/-- Is a per-lane target one a lane may go to (R236)? -/
def goodTarget (t : Double) : Prop := t.toNat % 4 = 0 ∧ inPaged t

end Sys2Proof.Claims

/-- Branches of a warp's stream (R235, R236): BRA's, CALL's, JMPI's and RET's active lanes stand at the target and the entry's
others at the next clause; BRP's whole entry goes when the guard holds in some lane; CALL and JMPI leave the return address in
v14:v15 or the named pair of the active lanes; nothing else changes. -/
def Parts.Branches : Prop :=
  ∀ (s : State) (x : Ctx) (f : FB) (g : F3), Clear x →
    let t := Claims.target x f.off
    let v (l : Nat) : Double := pairLane s x g.a.toNat l
    (Issues (.bra f) s x → Claims.inPaged t → Claims.Moves (.bra f) s x x.k x.w (Claims.split x fun _ => t)) ∧
    (Issues (.brp f) s x → Claims.inPaged t →
      Claims.Moves (.brp f) s x x.k x.w fun _ => if x.act ≠ 0 then t else nextPc x) ∧
    (Issues (.call f) s x → Claims.inPaged t →
      ∃ k, WrotePair x k 14 (fun _ => nextPc x) ∧ Claims.Moves (.call f) s x k x.w (Claims.split x fun _ => t)) ∧
    (Issues (.jmpi g) s x → (∀ l, hasLane x.act l = true → Claims.goodTarget (v l)) →
      ∃ k, WrotePair x k g.d.toNat (fun _ => nextPc x) ∧ Claims.Moves (.jmpi g) s x k x.w (Claims.split x v)) ∧
    (Issues (.ret g) s x → (∀ l, hasLane x.act l = true → Claims.goodTarget (v l)) →
      Claims.Moves (.ret g) s x x.k x.w (Claims.split x v))

namespace Sys2Proof.Claims

/-- Whenever a sequencer issues i and its target is one it may go to, it stands at a header there with the named q register
written; otherwise the program ends with 0x05, or 0x11 off the map (R237). -/
def SeqGoes (i : Instr) (d : Option Nat) (t : Sequencer → Double) : Prop :=
  ∀ (s : State) (cl : Nat), SeqIssues i s cl →
    let q := s.seq cl
    let q' := match d with | some r => withQ q r (BitVec.ofNat 32 (onWords q 1).pc.toNat) | none => q
    (goodTarget (t q) → exec i s = .next (s.updSeq cl fun _ => { q' with pc := t q, clause := none })) ∧
    ((t q).toNat % 4 ≠ 0 → exec i s = .next (seqEnd s cl 5)) ∧
    ((t q).toNat % 4 = 0 → ¬ inPaged (t q) → exec i s = .next (seqEnd s cl 0x11))

/-- A sequencer's register target: the code pointer with its low word replaced by Q[a] (R237). -/
def registerTarget (a : BitVec 7) (q : Sequencer) : Double :=
  (match q.cur with | some f => BitVec.ofNat 32 (f.code.toNat / 2 ^ 32) | none => 0) ++ readQ q a.toNat

/-- A program ended with a code, no matrix operation outstanding: the 8-byte object holds the code and the sequencer is free;
with one outstanding nothing more is issued (R48, R309). -/
def Ended (s t : State) (cl code : Nat) : Prop :=
  ∀ g, (s.seq cl).cur = some g →
    if (s.seq cl).queue = [] ∧ (s.seq cl).running = none then
      t = (wgWrite (s.updSeq cl fun q => { q with ending := some code }) g.wg g.off (bytesOfNat 8 code)).updSeq cl fun q =>
        { q with cur := none, ending := none, stalled := none, argAt := none, clause := none }
    else t = s.updSeq cl fun q => { q with ending := some code }

end Sys2Proof.Claims

/-- Branches, EXIT and NOP of a sequencer's stream (R237 to R239, R48): transfers by offset or by Q[a], the return address's low
word to q31 or the named register, the failures' codes, EXIT's 1 in the rendezvous object; an instruction no sequencer accepts
ends the program with 1 (R194). -/
def Obligations.SequencerControl : Prop :=
  ∀ (f : FB) (g : F3),
    let hdr (q : Sequencer) : Double := match q.clause with | some c => c.hdr | none => q.pc
    Claims.SeqGoes (.bra f) none (fun q => hdr q + BitVec.ofInt 64 (4 * f.off.toInt)) ∧
    Claims.SeqGoes (.call f) (some 31) (fun q => hdr q + BitVec.ofInt 64 (4 * f.off.toInt)) ∧
    Claims.SeqGoes (.jmpi g) (some g.d.toNat) (Claims.registerTarget g.a) ∧
    Claims.SeqGoes (.ret g) none (Claims.registerTarget g.a) ∧
    (∀ (s : State) (cl : Nat), SeqIssues (.nop g) s cl → exec (.nop g) s = .next (s.updSeq cl fun q => Claims.onWords q 1)) ∧
    (∀ (s : State) (cl : Nat), SeqIssues (.exit g) s cl → ∃ t, exec (.exit g) s = .next t ∧ Claims.Ended s t cl 1)

namespace Sys2Proof.Claims

/-- From s the warp of context x takes a trap to its handler (R244, R245): the frame holds the cause, detail, address, resumption
PC, clause header, entry mask and active lanes, whose deferred errors are cleared (R259); the entry's lanes stand at TVEC in
handler mode; entries of other lanes are held where they stand; a GRACE in which lanes of the warp wait is set aside with its
target (the model's choice, log 62); the trap counts as an issue (R36); the rest of the warp, the core but for REGACQ requests of
the slot, and the rest of the state stay. -/
def Enters (s t : State) (x : Ctx) (cause info : Nat) (addr pc hdr : Double) : Prop :=
  ∃ w, t.warp? x.core x.slot = some w ∧ w.tcause = BitVec.ofNat 6 cause ∧ w.tinfo = BitVec.ofNat 32 info ∧ w.taddr = addr ∧
    w.tpc = pc ∧ w.tclause = hdr ∧ w.tmask = x.e.mask ∧ w.tact = x.act ∧ w.handler = x.e.mask ∧
    (∀ l, hasLane x.e.mask l = true → laneAt t x.core x.slot l x.w.tvec) ∧
    (∀ y ∈ x.w.frontier, ∀ l, hasLane y.mask l = true → hasLane x.e.mask l = false →
      (∃ h ∈ w.held, hasLane h.mask l = true ∧ h.pc = y.pc) ∨
        ∃ p ∈ w.parks, hasLane p.mask l = true ∧ p.pc = y.pc ∧ p.reason = .overflow) ∧
    (∀ l, l < 32 → w.derr.getD l none = if hasLane x.act l then none else x.w.derr.getD l none) ∧
    w.hold = (match x.w.hold with | .regacq _ | .grace .. => .none | h => h) ∧
    w.graceHeld = (match x.w.hold with
      | .grace at_ _ =>
        if w.held.any (fun e => decide (e.pc = at_)) || w.parks.any (fun p => decide (p.pc = at_)) then some (at_, x.w.grace) else none
      | _ => none) ∧
    w = { x.w with
      frontier := w.frontier, held := w.held, parks := w.parks, nextSeq := w.nextSeq, hold := w.hold, handler := w.handler
      derr := w.derr, grace := none, graceHeld := w.graceHeld, waitCount := 0, lastIssue := x.k.issueClock + 1, tcause := w.tcause
      tinfo := w.tinfo, taddr := w.taddr, tpc := w.tpc, tclause := w.tclause, tmask := w.tmask, tact := w.tact } ∧
    ∃ rq, t = s.setCore x.core { x.k with
      warps := fput x.k.warps x.slot w, regacq := rq, issueClock := x.k.issueClock + 1, quads := quadOf x.slot :: x.k.quads }

/-- The launch of context x is aborted by a trap: its record holds status 1, the cause, the trap's PC and the workgroup, and
none of its workgroups is left (R244, R381). -/
def Aborts (s t : State) (x : Ctx) (cause : Nat) (pc : Double) (double : Bool) : Prop :=
  fget t.launches x.wg.launch =
      (fget s.launches x.wg.launch).map (fun l =>
        { l with phase := .ended, status := 1, cause := cause, tpc := pc, wgidx := x.wg.index, double := double }) ∧
    ∀ p ∈ t.wgs, p.2.launch ≠ x.wg.launch

end Sys2Proof.Claims

/-- TRAP (R245, R246): with active lanes, LIVE and a handler, the warp enters it with cause 14, TINFO the immediate and TPC the
next clause; with no handler, or inside one, the launch is aborted, as a double trap whenever the warp is in handler mode already
(R244); without active lanes it does nothing. -/
def Parts.UserTrap : Prop :=
  ∀ (f : F2I) (s : State) (x : Ctx), Issues (.trap f) s x → Clear x → speculative x.w = false →
    (x.act = 0 → Completes (.trap f) s x x.k x.w) ∧
    (x.act ≠ 0 → x.w.tvec ≠ 0 → x.w.handler = 0 →
      ∃ t, exec (.trap f) s = .next t ∧ Claims.Enters s t x 14 f.imm.toNat 0 (nextPc x) (nextPc x)) ∧
    (x.act ≠ 0 → x.w.tvec = 0 ∨ x.w.handler ≠ 0 → orderedMaps s = true →
      ∃ t, exec (.trap f) s = .next t ∧ Claims.Aborts s t x 14 (nextPc x) (decide (x.w.handler ≠ 0)))

/-- Waits that end at once (R239, R240): YIELD and NOP only go on; SLEEP goes on with the warp not ready for the count in the
lowest active lane, for ever at all ones, not at all at 0 or with no active lane. -/
def Parts.YieldNopSleep : Prop :=
  ∀ (f : F3) (s : State) (x : Ctx), Clear x →
    (Issues (.yield f) s x → Completes (.yield f) s x x.k x.w) ∧
    (Issues (.nop f) s x → Completes (.nop f) s x x.k x.w) ∧
    (Issues (.sleep f) s x → speculative x.w = false →
      let n := match (lanesOf x.act).head? with | some l => (srcLane s x f.a.toNat l).toNat | none => 0
      Completes (.sleep f) s x x.k { x.w with
        hold := if n = 0 then .none else if n = 0xFFFF_FFFF then .sleepForever else .sleep (x.k.cycle + n) })

/-- TRAP enters the handler with cause 14 or aborts the launch; YIELD, NOP and SLEEP go on: the statements UserTrap and
YieldNopSleep. -/
def Obligations.TrapsYieldsAndSleep : Prop := Parts.UserTrap ∧ Parts.YieldNopSleep

/-- RCONV (R22, R239): when the issuing entry holds every live lane, the barrier releases at once and the lanes go on; while a
live lane stands anywhere but at an RCONV, the entry's lanes wait at the instruction. -/
def Parts.Reconvergence : Prop :=
  ∀ (f : F3) (s : State) (x : Ctx), Issues (.rconv f) s x → Clear x → x.w.handler = 0 →
    (converged x.w = true → x.w.live ≠ 0 → Completes (.rconv f) s x x.k x.w) ∧
    ∀ l, hasLane x.w.live l = true → hasLane x.e.mask l = false →
      (∀ y ∈ x.w.frontier, hasLane y.mask l = true → y.wait ≠ .rconv) →
      Claims.Moves (.rconv f) s x x.k x.w fun _ => x.e.pc

/-- Branches put the active lanes at their targets and the others at the next clause; RCONV waits for every live lane: the
statements Branches and Reconvergence. -/
def Obligations.BranchesAndReconvergence : Prop := Parts.Branches ∧ Parts.Reconvergence

/-- EXIT of a warp that is no pool warp's (R24, R238), with no section open, no deferred error, no round and nothing outstanding:
the active lanes are no longer live and the entry's others go on at the next clause; without active lanes it does nothing; when
no live lane is left the warp has ended. -/
def Parts.ExitLanes : Prop :=
  ∀ (f : F3) (s : State) (x : Ctx), Issues (.exit f) s x → Clear x → row6 x = none →
    (∀ l, hasLane x.act l = true → x.w.depth.getD l 0 = 0) → x.w.round.st = .idle → readsOf x = [] →
    x.wg.pool = false → x.w.poolThreads = [] →
    (x.act = 0 → Completes (.exit f) s x x.k x.w) ∧
    (x.act ≠ 0 → x.w.live &&& ~~~x.act ≠ 0 →
      ∃ t w, exec (.exit f) s = .next t ∧ t.warp? x.core x.slot = some w ∧ w.live = x.w.live &&& ~~~x.act ∧
        (∀ l, hasLane (x.e.mask &&& ~~~x.act) l = true → hasLane x.w.live l = true → x.w.handler = 0 →
          laneAt t x.core x.slot l (nextPc x)) ∧
        (x.w.handler &&& x.act = 0 → w.grace = x.w.grace ∧ w.graceHeld = x.w.graceHeld ∧ w.hold = x.w.hold) ∧
        w = { x.w with
          live := w.live, frontier := w.frontier, held := w.held, parks := w.parks, nextSeq := w.nextSeq, handler := w.handler
          hold := w.hold, grace := w.grace, graceHeld := w.graceHeld, rconvSplit := w.rconvSplit, waitCount := 0
          lastIssue := x.k.issueClock + 1 } ∧
        t = s.setCore x.core { x.k with
          warps := fput x.k.warps x.slot w, issueClock := x.k.issueClock + 1, quads := quadOf x.slot :: x.k.quads }) ∧
    (x.act ≠ 0 → x.w.live &&& ~~~x.act = 0 → orderedMaps s = true → ∃ t, exec (.exit f) s = .next t ∧ t.warp? x.core x.slot = none)

/-- FORK, JOIN and SPAWN (R48, R241 to R243) with their checks passed and room: FORK writes the object as 0 and enters the FIFO
with its operands; JOIN with every object nonzero, and no uncorrectable data there (R153), gives each active lane its object's low
word; SPAWN pushes a record per active lane, in lane order, to the core's front end, once the pool queue has room for them beside
the joins still to come (log 34). The warp goes on and nothing else changes. -/
def Parts.ForkJoinSpawn : Prop :=
  ∀ (f : F3) (m : XM) (s : State) (x : Ctx), Clear x → speculative x.w = false →
    (Issues (.fork f m) s x → x.act ≠ 0 → x.wg.cg.isSome = true →
      let l := (lanesOf x.w.live).head?.getD 0
      let code := pairLane s x f.a.toNat l
      let o := (srcLane s x m.c.toNat l).toNat
      let cl := clusterOf s x.core
      Claims.goodTarget code → o % 8 = 0 → o + 8 ≤ x.wg.size →
      (s.seq cl).fifo.length + (if (s.seq cl).cur.isSome then 1 else 0) < 4 →
      let k : Fork := { code := code, arg := pairLane s x f.b.toNat l, core := x.core, slot := x.slot, wg := x.g, off := o,
                        pos := x.wg.pos, waitReads := x.w.pend.map Pending.id, upto := s.nextId }
      let s' := (wgWrite s x.g o [0, 0, 0, 0, 0, 0, 0, 0]).updSeq cl fun q => { q with fifo := q.fifo ++ [k] }
      ∃ t, exec (.fork f m) s = .next t ∧ Leaves { s' with nextId := s'.nextId + 1 } t x (s'.core x.core) x.w ∧
        ∀ n, hasLane x.e.mask n = true → laneAt t x.core x.slot n (nextPc x)) ∧
    (Issues (.join_ f) s x →
      let o (l : Nat) := (srcLane s x f.a.toNat l).toNat
      let v (l : Nat) := sliceNat x.k x.wg.gen (x.wg.base + o l) 8
      (∀ l, hasLane x.act l = true → o l % 8 = 0 ∧ o l + 8 ≤ x.wg.size ∧ v l ≠ 0 ∧ v l ≠ 9) →
      staleTrap s x (fun l => 0xFF_0000_0000_0000 + o l) 8 = none →
      (∀ l, hasLane x.act l = true → ownBad s x x.wg.gen (x.wg.base + o l) 8 = false) →
      ∃ k, Wrote x k f.d.toNat (fun l => BitVec.ofNat 32 (v l)) ∧ Completes (.join_ f) s x k x.w) ∧
    (Issues (.spawn f m) s x → x.wg.pool = true →
      let code (l : Nat) := pairLane s x f.a.toNat l
      let frame (l : Nat) := pairLane s x f.b.toNat l
      let join (l : Nat) := pairLane s x m.c.toNat l
      (∀ l, hasLane x.act l = true →
        (code l).toNat % 4 = 0 ∧ (code l).toNat < 2 ^ 56 ∧ (frame l).toNat < 2 ^ 56 ∧ (join l).toNat < 2 ^ 56) →
      poolTotal s (dieOf x.core) + joinsOut s (dieOf x.core) + (lanesOf x.act).length ≤ poolSlots s (dieOf x.core) →
      let s' := (lanesOf x.act).foldl (fun s l => frontPush s x.core x.wg.launch (code l) (frame l) (join l)) s
      ∃ t, exec (.spawn f m) s = .next t ∧ Leaves s' t x (s'.core x.core) x.w ∧
        ∀ n, hasLane x.e.mask n = true → laneAt t x.core x.slot n (nextPc x))

/-- EXIT ends its lanes, FORK enters the FIFO, JOIN reads the rendezvous objects, SPAWN pushes records: the statements
ExitLanes and ForkJoinSpawn. -/
def Obligations.ExitForkJoinSpawn : Prop := Parts.ExitLanes ∧ Parts.ForkJoinSpawn

/-! ### The MEMORY page: loads, stores and atomics -/

namespace Sys2Proof.Claims

/-- The instruction completes: state s' is left but for core k, warp w and where the lanes stand; the entry's lanes stand at the
next instruction. -/
def CompletesOn (i : Instr) (s s' : State) (x : Ctx) (k : Core) (w : Warp) : Prop :=
  ∃ t, exec i s = .next t ∧ Leaves s' t x k w ∧ ∀ l, hasLane x.e.mask l = true → laneAt t x.core x.slot l (nextPc x)

/-- The address of a lane (R256). -/
def address (s : State) (x : Ctx) (isLocal : Bool) (a : Nat) (off : Int) (l : Nat) : Nat :=
  if isLocal then 0xFF_0000_0000_0000 + (((srcLane s x a l).toNat + off) % 2 ^ 32).toNat
  else (((pairLane s x a l).toNat + off) % 2 ^ 64).toNat

/-- Bytes of a size code (Table 12.2). -/
def bytesOf (size : Nat) : Nat :=
  match size with
  | 0 | 5 => 1
  | 1 | 6 => 2
  | 2 => 4
  | 3 => 8
  | _ => 16

/-- A value as a load writes it to the first register of its group (Table 12.2). -/
def extended (size v : Nat) : Word :=
  if size = 5 ∧ 128 ≤ v then BitVec.ofInt 32 ((v : Int) - 256)
  else if size = 6 ∧ 32768 ≤ v then BitVec.ofInt 32 ((v : Int) - 65536)
  else BitVec.ofNat 32 v

/-- Core k is core x.k with consecutive registers written in the active lanes. -/
def WroteRegs (x : Ctx) (k : Core) : Nat → List (Nat → Word) → Prop
  | _, [] => k = x.k
  | d, f :: fs => ∃ k', WroteRow x k' d f ∧ WroteRegs { x with k := k' } k (d + 1) fs

/-- Core k is core x.k with a destination group written (R255); a d of 0x60 or more discards. -/
def WroteGroup (x : Ctx) (k : Core) (size d : Nat) (v : Nat → Nat) : Prop :=
  if 0x60 ≤ d then k = x.k
  else if bytesOf size ≤ 4 then WroteRegs x k d [fun l => extended size (v l)]
  else WroteRegs x k d ((List.range (bytesOf size / 4)).map fun i l => BitVec.ofNat 32 (v l / 2 ^ (32 * i)))

/-- Every active lane's access of n bytes lies in the issuing core's own slice, at offset off l under a generation (R57, R58). -/
def Own (s : State) (x : Ctx) (e : Nat → Nat) (n : Nat) (off gen : Nat → Nat) : Prop :=
  ∀ l, hasLane x.act l = true → e l % n = 0 ∧ ∃ priv, locate s x (e l) n = .own (off l) (gen l) priv

/-- Every active lane's access of n bytes lies in a page the core's TLB holds and permits, at physical address pa l. -/
def Paged (s : State) (x : Ctx) (e : Nat → Nat) (n : Nat) (write : Bool) (pa : Nat → Nat) : Prop :=
  ∀ l, hasLane x.act l = true → e l % n = 0 ∧ locate s x (e l) n = .paged ∧
    ∃ t, tlbFind x.k.tlb x.l.rec_.space (e l) = some t ∧ permit t.pte write = .ok ∧ (write = true → pteTier t.pte ≠ 2) ∧
      pa l = pteAddr t.pte + e l % t.size

/-- The loads, with their address form and whether they acquire. -/
def loads (f : F3) (m : XM) : List (Instr × Bool × Bool) :=
  [(.ldPair f m, false, false), (.ldLocal f m, true, false), (.ldaPair f m, false, true), (.ldaLocal f m, true, true)]

/-- The stores, with their address form, bytes and scope of release. -/
def stores (f : F3) (m : XM) : List (Instr × Bool × Nat × Option Nat) :=
  [(.stPair f m, false, bytesOf m.size.toNat, none), (.stLocal f m, true, bytesOf m.size.toNat, none),
   (.stlPair f m, false, bytesOf m.size.toNat, some m.scope.toNat), (.stlLocal f m, true, bytesOf m.size.toNat, some m.scope.toNat),
   (.publish f m, false, 8, some 6)]

end Sys2Proof.Claims

/-- LD and LDA from the issuing core's own slice (R80, R255 to R258, R260), with no wait of Table 3.4: the destination group of
each active lane holds the bytes there with what the workgroup's Brine holds laid over them, extended by Table 12.2; nothing else
changes but the access numbers. Where the bytes are uncorrectable data of the slice, the launch is replayed instead (R153,
log 95). -/
def Parts.OwnSliceLoads : Prop :=
  ∀ (f : F3) (m : XM), ∀ p ∈ Claims.loads f m, ∀ (s : State) (x : Ctx) (off gen : Nat → Nat),
    let n := Claims.bytesOf m.size.toNat
    let e := Claims.address s x p.2.1 f.a.toNat m.off.toInt
    Issues p.1 s x → Clear x → Claims.Own s x e n off gen → staleTrap s x e n = none → accessWait s x e n true false none = none →
      (p.2.2 = false ∨ x.l.rec_.mode ≠ 2 ∨ outside s x e n = false) →
      (directBad s x false e n = false →
        ∃ k, Claims.WroteGroup x k m.size.toNat f.d.toNat (fun l => ownNat s x (gen l) (off l) n) ∧
          Claims.CompletesOn p.1 s { s with nextId := s.nextId + 1 } x k x.w) ∧
      (directBad s x false e n = true → exec p.1 s = .next (poisonOut s x))

/-- LD and LDA of pages the core's TLB holds (R62, R85, R258, R260): the warp goes on with one access outstanding, whose value
each active lane waits for; for each of them a request for its bytes is on its way; no byte of memory, no register and no
other warp changes. -/
def Parts.PagedLoads : Prop :=
  ∀ (f : F3) (m : XM), ∀ p ∈ Claims.loads f m, ∀ (s : State) (x : Ctx) (pa : Nat → Nat),
    let n := Claims.bytesOf m.size.toNat
    let e := Claims.address s x p.2.1 f.a.toNat m.off.toInt
    Issues p.1 s x → Clear x → x.act ≠ 0 → Claims.Paged s x e n false pa → accessWait s x e n true false none = none →
      (x.l.rec_.mode ≠ 2 ∨ p.2.2 = false) →
      ∃ t q fr hd ov, exec p.1 s = .next t ∧ q.id = s.nextId ∧ q.want = x.act ∧ q.act = x.act ∧ q.got = [] ∧
        (∀ l, hasLane x.act l = true → ∃ r ∈ t.net, r.kind = .load ∧ r.pend = some s.nextId ∧ r.size = n ∧
          ∃ o ∈ r.lanes, o.lane = l ∧ o.at_ = pa l) ∧
        t.core x.core = { x.k with
          warps := fput x.k.warps x.slot { x.w with
            pend := x.w.pend ++ [q], frontier := fr, held := hd, parks := x.w.parks ++ ov, nextSeq := x.w.nextSeq + ov.length
            waitCount := 0, lastIssue := x.k.issueClock + 1 }
          issueClock := x.k.issueClock + 1, quads := quadOf x.slot :: x.k.quads } ∧
        (∀ l, hasLane x.e.mask l = true → laneAt t x.core x.slot l (nextPc x)) ∧
        t.mem = s.mem ∧ t.wgs = s.wgs ∧ t.launches = s.launches ∧ t.devs = s.devs ∧ ∀ c, c ≠ x.core → t.core c = s.core c

/-- LD and LDA read the own slice at once and leave a request on its way for paged memory: the statements OwnSliceLoads and
PagedLoads. -/
def Obligations.Loads : Prop := Parts.OwnSliceLoads ∧ Parts.PagedLoads

/-- ST, STL and PUBLISH to the issuing core's own slice outside a round (R58, R82, R110, R260): the bytes are written at once in
ascending lane order: a byte of an active lane that no higher active lane covers reads as that lane's data, every other byte of
the slice reads as before under the same generation; no register and no byte of device memory changes. -/
def Parts.OwnSliceStores : Prop :=
  ∀ (f : F3) (m : XM), ∀ p ∈ Claims.stores f m, ∀ (s : State) (x : Ctx) (off : Nat → Nat) (gen : Nat),
    let n := p.2.2.1
    let e := Claims.address s x p.2.1 f.a.toNat m.off.toInt
    let data (l : Nat) : Nat := groupLane s x f.b.toNat n l
    Issues p.1 s x → Clear x → memWf x.k.data = true → speculative x.w = false → Claims.Own s x e n off (fun _ => gen) →
      accessWait s x e n false true p.2.2.2 = none → (p.2.2.2.isSome = true → row6 x = none) →
      ∃ s' : State, Claims.CompletesOn p.1 s s' x (s'.core x.core) x.w ∧ s'.mem = s.mem ∧ s'.launches = s.launches ∧
        (∃ d tg bg, s'.core x.core = { x.k with data := d, tags := tg, badGrans := bg }) ∧ (∀ c, c ≠ x.core → s'.core c = s.core c) ∧
        (∀ g, (fget s'.wgs g).map (fun y => { y with ck := x.wg.ck }) = (fget s.wgs g).map fun y => { y with ck := x.wg.ck }) ∧
        (∀ l i, hasLane x.act l = true → i < n →
          (∀ j, hasLane x.act j = true → l < j → ¬ (off j ≤ off l + i ∧ off l + i < off j + n)) →
          sliceByte (s'.core x.core) gen (off l + i) = BitVec.ofNat 8 (data l / 256 ^ i)) ∧
        ∀ a, (∀ l, hasLane x.act l = true → ¬ (off l ≤ a ∧ a < off l + n)) →
          sliceByte (s'.core x.core) gen a = sliceByte x.k gen a

/-- ST, STL and PUBLISH to pages the core's TLB holds, outside a round and with room in Brine (R81, R260): each active lane's
write enters the workgroup's lane queue, in ascending lane order, with its data and, at a scope past wg, as a release that waits
for the entry's earlier reads; the warp goes on; no byte of memory and no register changes. -/
def Parts.PagedStores : Prop :=
  ∀ (f : F3) (m : XM), ∀ p ∈ Claims.stores f m, ∀ (s : State) (x : Ctx) (pa : Nat → Nat),
    let n := p.2.2.1
    let e := Claims.address s x p.2.1 f.a.toNat m.off.toInt
    let strong : Bool := match p.2.2.2 with | some sc => decide (2 < sc) | none => false
    Issues p.1 s x → Clear x → speculative x.w = false → Claims.Paged s x e n true pa →
      accessWait s x e n false true p.2.2.2 = none → roomWait s x (n * (lanesOf x.act).length) = none →
      (p.2.2.2.isSome = true → row6 x = none) →
      ∃ (s' : State) (g : Wg), Claims.CompletesOn p.1 s s' x x.k x.w ∧ s'.mem = s.mem ∧ s'.net = s.net ∧ s'.launches = s.launches ∧
        (∀ c, s'.core c = s.core c) ∧ fget s'.wgs x.g = some g ∧ ∃ rs, g.laneQ = x.wg.laneQ ++ rs ∧
          (rs.map fun r => (r.kind, r.target, r.size, r.release, r.lanes.map fun o => (o.lane, o.at_, o.data))) =
            ((lanesOf x.act).map fun l =>
              (.store, .mem (pa l), n, strong, [(l, pa l, groupLane s x f.b.toNat n l % 2 ^ (8 * n))])) ∧
          ∀ r ∈ rs, r.waitReads = if strong then readsOf x else []

/-- ST, STL and PUBLISH write the own slice at once and enter Brine for paged memory, in lane order: the statements
OwnSliceStores and PagedStores. -/
def Obligations.Stores : Prop := Parts.OwnSliceStores ∧ Parts.PagedStores

namespace Sys2Proof.Claims

/-- The active lanes of each target, targets in the order of their first lanes (R62). -/
def combined (x : Ctx) (tgt : Nat → Target) : List (Target × List Nat) :=
  ((lanesOf x.act).map tgt).eraseDups.map fun t => (t, (lanesOf x.act).filter fun l => decide (tgt l = t))

/-- The instruction completes by putting requests into its workgroup's lane queue (R81): what they are, their targets, sizes and
each lane's data; a returning one leaves one access outstanding for its destination; the entry's lanes stand at the next
instruction; no register and no byte of memory changes. -/
def Queues (i : Instr) (s : State) (x : Ctx) (dest : Option Dest) (kind : ReqKind) (size : Nat) (release : Bool)
    (groups : List (Target × List Nat)) (data : Nat → Nat × Nat × Nat) : Prop :=
  ∃ t g w rs, exec i s = .next t ∧ fget t.wgs x.g = some g ∧ g.laneQ = x.wg.laneQ ++ rs ∧
    (rs.map fun r => (r.kind, r.target, r.size, r.release, r.lanes.map fun o => (o.lane, o.va, o.data, o.swap))) =
      (groups.map fun p => (kind, p.1, size, release, p.2.map fun l => (l, data l))) ∧
    t.warp? x.core x.slot = some w ∧
    (match dest with
      | none => w.pend = x.w.pend
      | some d => ∃ q, w.pend = x.w.pend ++ [q] ∧ q.id = s.nextId ∧ q.dest = d ∧ q.want = x.act ∧ q.act = x.act ∧
          ∀ r ∈ rs, r.pend = some s.nextId) ∧
    w.sregs = x.w.sregs ∧ w.preds = x.w.preds ∧ w.fpstat = x.w.fpstat ∧ w.live = x.w.live ∧
    (t.core x.core).rows = x.k.rows ∧ (t.core x.core).data = x.k.data ∧ t.mem = s.mem ∧ t.net = s.net ∧
    ∀ l, hasLane x.e.mask l = true → laneAt t x.core x.slot l (nextPc x)

/-- Table 12.5 for the integer operations on a unit of n bytes. -/
def atomTable (n : Nat) : List (Nat → Nat → Nat) :=
  let si (v : Nat) : Int := if 2 ^ (8 * n - 1) ≤ v then (v : Int) - 2 ^ (8 * n) else v
  [fun old y => (old + y) % 2 ^ (8 * n), fun old y => old &&& y, fun old y => old ||| y, fun old y => old ^^^ y, min, max,
   fun old y => if si old ≤ si y then old else y, fun old y => if si old ≤ si y then y else old, fun _ y => y,
   fun old y => if old ≥ y then 0 else old + 1, fun old y => if old = 0 ∨ old > y then y else old - 1]

/-- The atomics: their address form, order code, and whether they return. -/
def atomics (f : F3) (m : XM) : List (Instr × Bool × Nat × Bool) :=
  let ord := m.off.toNat / 2 ^ 9 % 4
  [(.atomPair f m, false, ord, true), (.atomLocal f m, true, ord, true), (.atomnPair f m, false, 0, false),
   (.atomnLocal f m, true, 0, false), (.casPair f m, false, ord, true), (.casLocal f m, true, ord, true)]

/-- A lane's new value of a unit (R263): CAS for opcode OP of a CAS instruction, else Table 12.5. -/
def unitValue (i : Instr) (s : State) (x : Ctx) (f : F3) (m : XM) (n old l : Nat) : Nat :=
  let y := groupLane s x f.b.toNat n l % 2 ^ (8 * n)
  match i with
  | .casPair .. | .casLocal .. => if old = y then groupLane s x m.c.toNat n l % 2 ^ (8 * n) else old
  | _ => atomNew (m.off.toNat / 2 ^ 11) m.round.toNat n old y

end Sys2Proof.Claims

/-- The integer operations of Table 12.5 on 4-byte and 8-byte units. -/
def Parts.AtomicTable : Prop :=
  ∀ n ∈ [4, 8], ∀ (op : Nat) (h : op < (Claims.atomTable n).length) (rnd old y : Nat), old < 2 ^ (8 * n) → y < 2 ^ (8 * n) →
    atomNew op rnd n old y = (Claims.atomTable n)[op] old y

/-- ATOM, ATOMN and CAS on the issuing core's own slice outside a round, naming aligned units (R62, R263): the active lanes act in
ascending order on each unit; each lane's destination group holds the value before its operation, each unit the value after the
last; every other byte of the slice reads as before; no byte of device memory changes. -/
def Parts.OwnSliceAtomics : Prop :=
  ∀ (f : F3) (m : XM), ∀ p ∈ Claims.atomics f m, ∀ (s : State) (x : Ctx) (off : Nat → Nat) (gen : Nat),
    let n := Claims.bytesOf m.size.toNat
    let o9 : Int := (m.off.setWidth 9).toInt
    let e := Claims.address s x p.2.1 f.a.toNat o9
    let rel : Option Nat := if 2 ≤ p.2.2.1 then some m.scope.toNat else none
    let before (l : Nat) : Nat :=
      ((lanesOf x.act).filter fun j => decide (j < l ∧ off j = off l)).foldl (fun v j => Claims.unitValue p.1 s x f m n v j)
        (sliceNat x.k gen (off l) n)
    let after (l : Nat) : Nat :=
      ((lanesOf x.act).filter fun j => decide (off j = off l)).foldl (fun v j => Claims.unitValue p.1 s x f m n v j)
        (sliceNat x.k gen (off l) n)
    Issues p.1 s x → Clear x → memWf x.k.data = true → speculative x.w = false → Claims.Own s x e n off (fun _ => gen) →
      (∀ l, hasLane x.act l = true → off l % n = 0) → staleTrap s x e n = none → accessWait s x e n true true rel = none →
      (rel.isSome = true → row6 x = none) →
      (p.2.2.2 = false ∨ x.l.rec_.mode = 0 ∨ outside s x e n = false ∨ (p.2.2.1 % 2 = 1 ∧ x.l.rec_.mode ≠ 2)) →
      directBad s x true e n = false →
      ∃ (s' : State) (k : Core),
        Claims.CompletesOn p.1 s s' x k x.w ∧ s'.mem = s.mem ∧ s'.launches = s.launches ∧
        (if p.2.2.2 then Claims.WroteGroup { x with k := s'.core x.core } k (if n = 8 then 3 else 2) f.d.toNat before
         else k = s'.core x.core) ∧
        (∃ d tg bg, s'.core x.core = { x.k with data := d, tags := tg, badGrans := bg }) ∧ (∀ c, c ≠ x.core → s'.core c = s.core c) ∧
        (∀ g, (fget s'.wgs g).map (fun y => { y with ck := x.wg.ck }) = (fget s.wgs g).map fun y => { y with ck := x.wg.ck }) ∧
        (∀ l, hasLane x.act l = true → sliceNat (s'.core x.core) gen (off l) n = after l % 2 ^ (8 * n)) ∧
        ∀ a, (∀ l, hasLane x.act l = true → ¬ (off l ≤ a ∧ a < off l + n)) →
          sliceByte (s'.core x.core) gen a = sliceByte x.k gen a

/-- ATOM, ATOMN and CAS on pages the core's TLB holds, outside a round and with room in Brine (R62, R81, R86, R260, R263): the
lanes that name one unit make one request, with their operands in lane order, at the end of the workgroup's lane queue, a release
if ordered so past scope wg; a returning one is outstanding for the lanes' values, ATOMN for nothing; no byte of memory and no
register changes. In guarded and twin modes this is so of the forms that are no external operations (Table 7.4, log 91). -/
def Parts.PagedAtomics : Prop :=
  ∀ (f : F3) (m : XM), ∀ p ∈ Claims.atomics f m, ∀ (s : State) (x : Ctx) (pa : Nat → Nat),
    let n := Claims.bytesOf m.size.toNat
    let o9 : Int := (m.off.setWidth 9).toInt
    let e := Claims.address s x p.2.1 f.a.toNat o9
    let rel : Option Nat := if 2 ≤ p.2.2.1 then some m.scope.toNat else none
    let kind : ReqKind := match p.1 with
      | .casPair .. | .casLocal .. => .cas
      | _ => .atom (m.off.toNat / 2 ^ 11) m.round.toNat p.2.2.2
    Issues p.1 s x → Clear x → x.act ≠ 0 → speculative x.w = false → Claims.Paged s x e n true pa →
      accessWait s x e n p.2.2.2 true rel = none → roomWait s x (n * (lanesOf x.act).length) = none →
      (rel.isSome = true → row6 x = none) → (p.2.2.2 = false ∨ x.l.rec_.mode = 0 ∨ (p.2.2.1 % 2 = 1 ∧ x.l.rec_.mode ≠ 2)) →
      Claims.Queues p.1 s x
        (if p.2.2.2 then some (.group (if f.d.toNat < 0x60 then some f.d.toNat else none) n false) else none)
        kind n (decide (2 ≤ p.2.2.1 ∧ 2 < m.scope.toNat)) (Claims.combined x fun l => .mem (pa l / n * n))
        fun l => (e l, groupLane s x f.b.toNat n l % 2 ^ (8 * n), groupLane s x m.c.toNat n l % 2 ^ (8 * n))

/-- ATOM, ATOMN and CAS act on the own slice in lane order and return the values before, and enter Brine for paged memory: the
statements AtomicTable, OwnSliceAtomics and PagedAtomics. -/
def Obligations.Atomics : Prop := Parts.AtomicTable ∧ Parts.OwnSliceAtomics ∧ Parts.PagedAtomics

/-- SLD and PREF (R233, R261): SLD of the own slice gives S[d] the four bytes there, with what Brine holds over them; of a
page the TLB holds, the warp goes on with the access outstanding for S[d]; PREF only goes on. -/
def Obligations.ScalarLoadAndPref : Prop :=
  ∀ (f : FS) (g : F3) (m : XM) (s : State) (x : Ctx), Clear x →
    let va : Nat := (((readS x.w f.a.toNat).toNat + (readS x.w (f.a.toNat + 1)).toNat * 2 ^ 32 + 4 * f.imm.toInt) % 2 ^ 64).toNat
    (Issues (.sld f) s x → va % 4 = 0 → staleTrap s x (fun _ => va) 4 = none →
      waitsWith (if locate s x va 4 = .paged then 1 else 0) s x (fun _ => va) 4 true false none = none →
      (∀ off gen priv, locate s x va 4 = .own off gen priv → ownBad s x gen off 4 = false →
        Completes (.sld f) s x x.k (withScalar x.w f.d.toNat (BitVec.ofNat 32 (ownNat s x gen off 4)))) ∧
      ∀ tl, locate s x va 4 = .paged → tlbFind x.k.tlb x.l.rec_.space va = some tl → permit tl.pte false = .ok →
        ∃ t w q, exec (.sld f) s = .next t ∧ t.warp? x.core x.slot = some w ∧ w.pend = x.w.pend ++ [q] ∧ q.id = s.nextId ∧
          q.dest = .scalar (if f.d.toNat < 24 then some f.d.toNat else none) ∧ w.sregs = x.w.sregs ∧
          (∃ r ∈ t.net, r.kind = .load ∧ r.pend = some s.nextId ∧ r.size = 4 ∧
            ∃ o ∈ r.lanes, o.at_ = pteAddr tl.pte + va % tl.size) ∧
          (∀ l, hasLane x.e.mask l = true → laneAt t x.core x.slot l (nextPc x)) ∧ t.mem = s.mem) ∧
    (Issues (.pref g m) s x → Completes (.pref g m) s x x.k x.w)

/-! ### The MEMORY page: fences, sections, retirement, append regions, barriers, queues and channels -/

namespace Sys2Proof.Claims

/-- The entry's lanes stand at the instruction still, waiting; memory, the workgroups and the launches are as before. -/
def Stays (i : Instr) (s : State) (x : Ctx) : Prop :=
  ∃ t, exec i s = .next t ∧ (∀ l, hasLane x.e.mask l = true → laneAt t x.core x.slot l x.e.pc) ∧ t.mem = s.mem ∧ t.wgs = s.wgs ∧
    t.launches = s.launches

/-- The lane-path part of a fence (R84): no outstanding read of the entry's lanes; past scope wg, no lane-path entry of the
workgroup from before the fence. -/
def laneFenced (s : State) (x : Ctx) (scope : Nat) : Prop :=
  readsOf x = [] ∧ (3 ≤ scope → laneBefore x.wg (x.e.mark.getD s.nextId) = false)

/-- What FENCEX waits for on path X: 0 lane, 1 copy, 2 matrix, 3 channel (Table 3.6). -/
def pathFenced (s : State) (x : Ctx) (path : Nat) : Prop :=
  match path with
  | 0 => laneFenced s x 6
  | 1 => ∀ q ∈ x.k.copies, q.slot = x.slot → x.e.mark.getD s.nextId ≤ q.id
  | 2 => forksOf s x = []
  | _ => sendsOf s x none = []

end Sys2Proof.Claims

/-- FENCE and FENCEX (R84, R87, R265) with no deferred error: with no active lane, or once what Table 3.6 names has performed, the
warp goes on, after a copy-path wait with its completed copies behind what follows (R298); until then its lanes stand at the
fence. -/
def Obligations.Fences : Prop :=
  ∀ (f : F3) (m : XM) (s : State) (x : Ctx), Clear x → row6 x = none → speculative x.w = false →
    (Issues (.fence f m) s x →
      (x.act = 0 ∨ Claims.laneFenced s x m.scope.toNat → Completes (.fence f m) s x x.k x.w) ∧
      (x.act ≠ 0 → ¬ Claims.laneFenced s x m.scope.toNat → Claims.Stays (.fence f m) s x)) ∧
    (Issues (.fencex f m) s x →
      let px := m.off.toNat % 8
      let py := m.off.toNat / 8 % 8
      let ready := if px = 0 ∧ py = 0 then Claims.laneFenced s x m.scope.toNat else Claims.pathFenced s x px
      (ready → Completes (.fencex f m) s x x.k
        (if px = 1 then { x.w with copied := [], waited := (x.w.waited ++ x.w.copied.map Prod.snd).eraseDups } else x.w)) ∧
      (x.act = 0 → ¬ ready → Completes (.fencex f m) s x x.k x.w) ∧
      (x.act ≠ 0 → ¬ ready → Claims.Stays (.fencex f m) s x))

/-- A warp's fences complete when all it has begun is done (R84, R87): no access of the warp is outstanding, nothing of its
workgroup stands in Brine or is unacknowledged, no copy command is in the core's engine, and its cluster's sequencer neither
runs a program nor has one queued. FENCE then goes on at every scope and FENCEX on every pair of paths. -/
def Obligations.DrainedFencesComplete : Prop :=
  ∀ (f : F3) (m : XM) (s : State) (x : Ctx), Clear x → row6 x = none → speculative x.w = false → x.w.pend = [] →
    x.wg.laneQ = [] → x.wg.chanQ = [] → x.wg.left = [] → x.k.copies = [] →
    (s.seq (clusterOf s x.core)).cur = none → (s.seq (clusterOf s x.core)).fifo = [] →
    (Issues (.fence f m) s x → Completes (.fence f m) s x x.k x.w) ∧
    (Issues (.fencex f m) s x → ∃ w, Completes (.fencex f m) s x x.k w ∧
      w = { x.w with copied := w.copied, waited := w.waited } ∧
      (m.off.toNat % 8 ≠ 1 → w = x.w) ∧ (m.off.toNat % 8 = 1 → w.copied = [] ∧ ∀ a ∈ x.w.copied, a.2 ∈ w.waited))

/-- RDENTER and RDEXIT (R93, R266): each active lane's depth rises or falls by one; an outermost lane takes the core's phase
and is counted in that phase's counter, and is uncounted on leaving; entering a sixteenth section or leaving none traps with
cause 19 when there is a handler. -/
def Parts.ReaderSections : Prop :=
  ∀ (f : F3) (s : State) (x : Ctx), Clear x → x.w.depth.length = 32 →
    let outer (d : Nat) : Nat := ((lanesOf x.act).filter fun l => decide (x.w.depth.getD l 0 = d)).length
    (Issues (.rdenter f) s x → (∀ l, hasLane x.act l = true → x.w.depth.getD l 0 < 15) →
      ∃ k w, Completes (.rdenter f) s x k w ∧
        (∀ l, w.depth.getD l 0 = x.w.depth.getD l 0 + if hasLane x.act l then 1 else 0) ∧
        (∀ l, hasLane w.phase l =
          if hasLane x.act l = true ∧ x.w.depth.getD l 0 = 0 then decide (x.k.phase % 2 = 1) else hasLane x.w.phase l) ∧
        w = { x.w with depth := w.depth, phase := w.phase } ∧
        k = { x.k with
          cnt0 := x.k.cnt0 + (if x.k.phase % 2 = 0 then outer 0 else 0), cnt1 := x.k.cnt1 + if x.k.phase % 2 = 0 then 0 else outer 0 }) ∧
    (Issues (.rdexit f) s x → (∀ l, hasLane x.act l = true → 0 < x.w.depth.getD l 0) → readsOf x = [] →
      let gone (b : Bool) : Nat :=
        ((lanesOf x.act).filter fun l => decide (x.w.depth.getD l 0 = 1) && hasLane x.w.phase l == b).length
      ∃ w, Completes (.rdexit f) s x { x.k with cnt0 := x.k.cnt0 - gone false, cnt1 := x.k.cnt1 - gone true } w ∧
        (∀ l, w.depth.getD l 0 = x.w.depth.getD l 0 - if hasLane x.act l then 1 else 0) ∧ w = { x.w with depth := w.depth }) ∧
    (speculative x.w = false → x.w.tvec ≠ 0 → x.w.handler = 0 →
      (Issues (.rdenter f) s x → (∃ l, hasLane x.act l = true ∧ 15 ≤ x.w.depth.getD l 0) →
        ∃ t, exec (.rdenter f) s = .next t ∧ Claims.Enters s t x 19 0 0 x.e.pc (Claims.headerOf x)) ∧
      (Issues (.rdexit f) s x → (∃ l, hasLane x.act l = true ∧ x.w.depth.getD l 0 = 0) →
        ∃ t, exec (.rdexit f) s = .next t ∧ Claims.Enters s t x 19 0 0 x.e.pc (Claims.headerOf x)))

namespace Sys2Proof.Claims

/-- Every active lane's descriptor is 64-byte aligned in a page the core's TLB holds and permits. -/
def Descriptors (s : State) (x : Ctx) (f : F3) (m : XM) (write : Bool) (pa : Nat → Nat) : Prop :=
  Paged s x (address s x false f.a.toNat m.off.toInt) 64 write pa

/-- No access of this instruction has to wait: no acquire is outstanding, no read of the entry's lanes at a narrow release. -/
def Unqueued (x : Ctx) (narrow : Bool) : Prop := acquirePending x = false ∧ (narrow = true → readsOf x = [])

end Sys2Proof.Claims

/-- RETIRE (R100, R101, R267) in a launch of plain mode with a handed-out retire queue that has room, no open section needed
and no deferred error: one entry per active lane, naming its address, argument and size, enters the lane queue as a release;
each lane waits for its sequence number. -/
def Parts.RetireQueues : Prop :=
  ∀ (f : F3) (m : XM) (s : State) (x : Ctx),
    let act := m.off.toNat % 4
    let arg (l : Nat) : Nat := (pairLane s x f.b.toNat l).toNat
    Issues (.retire f m) s x → Clear x → x.act ≠ 0 → speculative x.w = false → row6 x = none → x.l.rec_.mode = 0 →
      (∀ l, hasLane x.act l = true → (act = 1 → arg l % 8 = 0) ∧ (act = 0 → arg l < 4096)) →
      (lanesOf x.act).length ≤ retireRoom s (devOfCore s x.core) → acquirePending x = false →
      roomWait s x (32 * (lanesOf x.act).length) = none →
      Claims.Queues (.retire f m) s x (some (.group (if f.d.toNat < 0x60 then some f.d.toNat else none) 4 false)) (.retire act) 32 true
        ((lanesOf x.act).map fun l => (.node (devOfCore s x.core), [l]))
        fun l => ((pairLane s x f.a.toNat l).toNat, arg l, (srcLane s x m.c.toNat l).toNat)

/-- GRACE (R103) outside a section with active lanes, LIVE: with the lane path drained it takes F + 2 as its target and the warp
waits there; it goes on once the core's C has reached the target by serial comparison (R96); until then the lanes stand at it. A
target that another GRACE of the warp took is none of this one's. -/
def Parts.GraceWaits : Prop :=
  ∀ (f : F3) (s : State) (x : Ctx), Issues (.grace f) s x → Clear x → speculative x.w = false → row6 x = none →
    (x.act = 0 → Completes (.grace f) s x x.k x.w) ∧
    (x.act ≠ 0 → (∀ l, hasLane x.w.live l = true → x.w.depth.getD l 0 = 0) →
      let here : Prop := ∃ pc tried, x.w.hold = .grace pc tried ∧ (pc = x.e.pc ∨ (pc = Claims.headerOf x ∧ pc + 4 = x.e.pc))
      (∀ g, here → x.w.grace = some g → (x.k.c + 2 ^ 32 - g % 2 ^ 32) % 2 ^ 32 < 2 ^ 31 →
        Completes (.grace f) s x x.k { x.w with grace := none, hold := .none }) ∧
      (∀ g, here → x.w.grace = some g → ¬ (x.k.c + 2 ^ 32 - g % 2 ^ 32) % 2 ^ 32 < 2 ^ 31 → Claims.Stays (.grace f) s x) ∧
      (¬ here ∨ x.w.grace = none → Claims.Stays (.grace f) s x) ∧
      (¬ here ∨ x.w.grace = none → Claims.laneFenced s x 6 →
        ∃ t w, exec (.grace f) s = .next t ∧ t.warp? x.core x.slot = some w ∧ w.grace = some ((x.k.f + 2) % 2 ^ 32) ∧
          w.hold = .grace x.e.pc true))

/-- Reader sections count their outermost lanes; GRACE waits for F + 2; RETIRE enters the lane queue as a release: the
statements ReaderSections and GraceWaits and RetireQueues. -/
def Obligations.SectionsGraceAndRetire : Prop := Parts.ReaderSections ∧ Parts.GraceWaits ∧ Parts.RetireQueues

/-- APPEND, ACOMMIT and AHEAD outside a round in a launch of plain mode, of descriptors the TLB holds (R67, R268, R269): the lanes
that name one descriptor make one request; APPEND carries their data and waits for their offsets, ACOMMIT their values as a
release at a scope past wg; AHEAD is on its way with an acquiring access outstanding. -/
def Parts.AppendRegions : Prop :=
  ∀ (f : F3) (m : XM) (s : State) (x : Ctx) (pa : Nat → Nat), Clear x → x.act ≠ 0 → x.l.rec_.mode = 0 → x.w.round.st = .idle →
    speculative x.w = false →
    let e := Claims.address s x false f.a.toNat m.off.toInt
    let n := Claims.bytesOf m.size.toNat
    let pair : Dest := .group (if f.d.toNat < 0x60 then some f.d.toNat else none) 8 false
    let groups := Claims.combined x fun l => .mem (pa l)
    (Issues (.append f m) s x → Claims.Descriptors s x f m true pa → acquirePending x = false → overlaps x e 64 true = false →
      brineRoom s x.core 0 (n * (lanesOf x.act).length) = true → countFull s x.core (lanesOf x.act).length = false →
      Claims.Queues (.append f m) s x (some pair) .append n false groups
        fun l => (e l, groupLane s x f.b.toNat n l % 2 ^ (8 * n), 0)) ∧
    (Issues (.acommit f m) s x → Claims.Descriptors s x f m true pa → row6 x = none →
      accessWait s x e 64 false true (some m.scope.toNat) = none → roomWait s x (8 * (lanesOf x.act).length) = none →
      Claims.Queues (.acommit f m) s x none .acommit 8 (decide (2 < m.scope.toNat)) groups
        fun l => (e l, (pairLane s x f.b.toNat l).toNat, 0)) ∧
    (Issues (.ahead f m) s x → Claims.Descriptors s x f m false pa → accessWait s x (fun l => e l + 16) 8 true false none = none →
      ∃ t w q, exec (.ahead f m) s = .next t ∧ t.warp? x.core x.slot = some w ∧ w.pend = x.w.pend ++ [q] ∧ q.id = s.nextId ∧
        q.dest = pair ∧ q.want = x.act ∧ q.acquire = true ∧ w.sregs = x.w.sregs ∧ w.preds = x.w.preds ∧
        (t.core x.core).rows = x.k.rows ∧ t.mem = s.mem ∧ t.wgs = s.wgs ∧
        (∀ l, hasLane x.act l = true → ∃ r ∈ t.net, r.kind = .ahead ∧ r.target = .mem (pa l) ∧ r.pend = some s.nextId ∧
          ∃ o ∈ r.lanes, o.lane = l) ∧
        ∀ l, hasLane x.e.mask l = true → laneAt t x.core x.slot l (nextPc x))

namespace Sys2Proof.Claims

/-- A barrier of a workgroup; phase 0 with no arrival when it was never used (R270). -/
def barrier (g : Wg) (n : Nat) : Bar := (fget g.bars n).getD { phase := 0, arrived := 0, expect := none }

/-- The barrier after one more arrival, the first of a phase fixing the expected count. -/
def arrival (b : Bar) (count : Option Nat) : Bar := { b with arrived := b.arrived + 1, expect := b.expect.or (some count) }

/-- Is a phase complete: as many arrivals as the count, or as the workgroup has warps that have not ended? -/
def complete (g : Wg) (b : Bar) : Bool :=
  match b.expect with
  | none => false
  | some (some n) => decide (n ≤ b.arrived)
  | some none => decide (g.nwarps ≤ b.arrived + g.ended)

/-- Is a phase later than a token (R270)? -/
def later (p t : Nat) : Bool := decide (0 < (BitVec.ofNat 32 p - BitVec.ofNat 32 t).toInt)

/-- The count a barrier instruction names in its lowest active lane; none for the warps of the workgroup. -/
def countOf (s : State) (x : Ctx) (a : Nat) : Option Nat :=
  if a = 0x78 then none else some (match (lanesOf x.act).head? with | some l => (srcLane s x a l).toNat | none => 0)

/-- The warp has gathered at the barrier instruction with active lanes, outside a round, with its count in range and the reads of
its lanes returned (R270, R271). -/
def AtBarrier (x : Ctx) (count : Option Nat) : Prop :=
  x.act ≠ 0 ∧ x.e.mask = x.w.live ∧ x.w.round.st = .idle ∧ (∀ n, count = some n → 1 ≤ n ∧ n ≤ 16) ∧
    readsOf { x with act := x.e.mask } = []

end Sys2Proof.Claims

/-- Workgroup barriers (R270, R271): BARA gives the active lanes the phase as their token and arrives, BAR arrives and waits for
that phase, BARW waits unless the phase is past its token; an arrival that does not complete the phase adds one; the one that
completes it starts the next phase with no arrivals, and outside twin mode every warp that waits for it goes on; a warp not yet
gathered stands at the instruction. -/
def Obligations.Barriers : Prop :=
  ∀ (f : F2I) (s : State) (x : Ctx), Clear x →
    let n := f.imm.toNat
    let b := Claims.barrier x.wg n
    let c := Claims.countOf s x f.a.toNat
    let b' := Claims.arrival b c
    let setBar (y : Bar) : State := s.updWg x.g fun g => { g with bars := fput g.bars n y }
    (Claims.AtBarrier x c → Claims.complete x.wg b' = false →
      (Issues (.bara f) s x →
        ∃ k, Wrote x k f.d.toNat (fun _ => BitVec.ofNat 32 b.phase) ∧ Claims.CompletesOn (.bara f) s (setBar b') x k x.w) ∧
      (Issues (.bar f) s x → Claims.CompletesOn (.bar f) s (setBar b') x x.k { x.w with hold := .barrier n b.phase })) ∧
    (∀ i ∈ [Instr.bara f, .bar f], Issues i s x → Claims.AtBarrier x c → Claims.complete x.wg b' = true →
      ∃ t, exec i s = .next t ∧ (∀ l, hasLane x.e.mask l = true → laneAt t x.core x.slot l (nextPc x)) ∧
        fget t.wgs x.g = some { x.wg with bars := fput x.wg.bars n { phase := (b.phase + 1) % 2 ^ 32, arrived := 0, expect := none } } ∧
        (modeOf s x.wg ≠ 2 → ∀ sl w τ, t.warp? x.core sl = some w → w.wg = x.g → w.hold = .barrier n τ →
          Claims.later ((b.phase + 1) % 2 ^ 32) τ = false)) ∧
    (Issues (.barw f) s x → x.act ≠ 0 → x.e.mask = x.w.live → x.w.round.st = .idle →
      let token := match (lanesOf x.act).head? with | some l => (srcLane s x f.a.toNat l).toNat | none => 0
      Completes (.barw f) s x x.k (if Claims.later b.phase token then x.w else { x.w with hold := .barrier n token })) ∧
    ∀ i ∈ [Instr.bara f, .bar f, .barw f], Issues i s x →
      (x.act = 0 → Completes i s x x.k x.w) ∧
      (x.act ≠ 0 → x.e.mask ≠ x.w.live → x.w.round.st = .idle → (∀ n, c = some n → 1 ≤ n ∧ n ≤ 16) →
        Claims.Moves i s x x.k x.w fun _ => x.e.pc)

/-- WQPUSH and WQPOP in a launch of plain mode with room (R272, R273): the active lanes that name one queue make one request
at its descriptor, a push with its 16 bytes, released at a scope past wg; a pop, and a push with .nb, leave their access
outstanding; a queue number of 4,096 or more traps with cause 12. -/
def Parts.WorkQueues : Prop :=
  ∀ (f : F3) (m : XM) (s : State) (x : Ctx), Clear x → speculative x.w = false → x.l.rec_.mode = 0 → x.act ≠ 0 →
    let q (l : Nat) : Nat := (srcLane s x f.a.toNat l).toNat
    let desc (l : Nat) : Nat := (s.dev (devOfCore s x.core)).wqtbase + 64 * q l
    let nb := m.off.getLsbD 0
    let groups := Claims.combined x fun l => .mem (desc l)
    ((∀ l, hasLane x.act l = true → q l < 4096) → acquirePending x = false → roomWait s x (16 * (lanesOf x.act).length) = none →
      (Issues (.wqpush f m) s x → row6 x = none → (m.scope.toNat ≤ 2 → readsOf x = []) →
        Claims.Queues (.wqpush f m) s x (if nb then some (.group none 16 false) else none) (.wqpush nb) 16
          (decide (2 < m.scope.toNat)) groups fun l => (desc l, groupLane s x f.b.toNat 16 l, 0)) ∧
      (Issues (.wqpop f m) s x →
        Claims.Queues (.wqpop f m) s x (some (.group (if f.d.toNat < 0x60 then some f.d.toNat else none) 16 false)) (.wqpop nb) 16
          false groups fun l => (desc l, 0, 0))) ∧
    ((∃ l, hasLane x.act l = true ∧ 4096 ≤ q l) → x.w.tvec ≠ 0 → x.w.handler = 0 →
      ∀ i ∈ [Instr.wqpush f m, .wqpop f m], Issues i s x → row6 x = none →
        ∃ t, exec i s = .next t ∧ Claims.Enters s t x 12 0 0 x.e.pc (Claims.headerOf x))

/-- APPEND, ACOMMIT, AHEAD, WQPUSH and WQPOP put one request per descriptor into the lane queue or on its way: the statements
AppendRegions and WorkQueues. -/
def Obligations.AppendsAndWorkQueues : Prop := Parts.AppendRegions ∧ Parts.WorkQueues

namespace Sys2Proof.Claims

/-- A channel of a workgroup; closed when it was never opened (R275). -/
def channel (g : Wg) (n : Nat) : Chan :=
  (fget g.chans n).getD { st := .closed, endpoint := 0, ring := 0, size := 0, delivered := 0, received := 0, kept := 0, err := false }

/-- The state with a channel of the issuing workgroup set. -/
def withChannel (s : State) (x : Ctx) (n : Nat) (c : Chan) : State := s.updWg x.g fun g => { g with chans := fput g.chans n c }

end Sys2Proof.Claims

/-- Ordered channels (R90, R275 to R277), with active lanes and LIVE: CHOPEN.tx on a closed channel with a 64-byte aligned
endpoint in the slice of a core of the logical device, or inside a bound peer window, opens it for sending, CHOPEN.rx with a
64-byte ring of its allocation for receiving, with what a rollback returns to it already delivered (R146); RECV with a message
for every lane, in slots whose data is correctable (R153), gives each its word in ring order and consumes them; CHFENCE and
CHCLOSE with no SEND outstanding and no error go on, CHCLOSE with the channel closed. -/
def Parts.Channels : Prop :=
  ∀ (f : F2I) (s : State) (x : Ctx), Clear x → x.act ≠ 0 → speculative x.w = false →
    let n := f.imm.toNat % 64
    let c := Claims.channel x.wg n
    let v := pairLane s x f.a.toNat ((lanesOf x.act).head?.getD 0)
    let fresh : Chan := { st := .closed, endpoint := 0, ring := 0, size := 0, delivered := 0, received := 0, kept := 0, err := false }
    (Issues (.chopenTx f) s x → c.st = .closed → v.toNat % 64 = 0 →
      let k := devOfCore s x.core
      ((∃ i o c, regionOf v.toNat = .slice i o ∧ coreOfIdx s k i = some c ∧ o + 4 ≤ addressable (s.dev k).hcshare) ∨
        ∃ i o, regionOf v.toNat = .peer i o ∧ (windowOf s k i).valid = true ∧ o + 4 ≤ (windowOf s k i).size * 65536) →
      Claims.CompletesOn (.chopenTx f) s (Claims.withChannel s x n { fresh with st := .tx, endpoint := v.toNat }) x x.k x.w) ∧
    (Issues (.chopenRx f) s x → c.st = .closed →
      let ring := v.toNat % 2 ^ 32
      let size := v.toNat / 2 ^ 32
      ring % 64 = 0 → size % 64 = 0 → 64 ≤ size → size ≤ 65536 → ring + size ≤ x.wg.size →
      ((fget x.wg.again n).getD [] = [] →
        Claims.CompletesOn (.chopenRx f) s (Claims.withChannel s x n { fresh with st := .rx, ring := ring, size := size }) x x.k x.w) ∧
      ∀ ms rest, (fget x.wg.again n).getD [] = ms :: rest →
        ∃ t g, exec (.chopenRx f) s = .next t ∧ (∀ l, hasLane x.e.mask l = true → laneAt t x.core x.slot l (nextPc x)) ∧
          fget t.wgs x.g = some g ∧ (fget g.again n).getD [] = rest ∧
          Claims.channel g n = { fresh with st := .rx, ring := ring, size := size, delivered := ms.length }) ∧
    (Issues (.recv f) s x → c.st = .rx → (lanesOf x.act).length ≤ c.delivered - c.received →
      (∀ i, i < (lanesOf x.act).length →
        ownBad s x x.wg.gen (x.wg.base + (c.ring + 4 * ((c.received + i) % (c.size / 4)))) 4 = false) →
      ∃ k, Wrote x k f.d.toNat (fun l =>
          let i := c.received + ((lanesOf x.act).filter fun j => decide (j < l)).length
          BitVec.ofNat 32 (wgNat s x.g (c.ring + 4 * (i % (c.size / 4))) 4)) ∧
        Claims.CompletesOn (.recv f) s (Claims.withChannel s x n { c with received := c.received + (lanesOf x.act).length }) x k x.w) ∧
    (row6 x = none → (c.st = .tx → c.err = false ∧ sendsOf s x (some n) = []) →
      (Issues (.chfence f) s x → Completes (.chfence f) s x x.k x.w) ∧
      (Issues (.chclose f) s x →
        ∃ h, Claims.CompletesOn (.chclose f) s
            (s.updWg x.g fun g => { g with heard := h, chans := fput g.chans n fresh }) x x.k x.w ∧
          (x.l.rec_.mode = 0 ∨ c.st ≠ .rx → h = x.wg.heard)))

/-- SEND on a channel open for sending (R277): one message of 4 bytes per active lane enters the channel queue in ascending
lane order; the warp goes on; no register and no byte of memory changes. On a channel not open for sending it traps with cause
11; through a peer window that no longer covers the endpoint, with cause 17 at the endpoint (R65, R366). -/
def Parts.Sends : Prop :=
  ∀ (f : F2I) (s : State) (x : Ctx), Issues (.send f) s x → Clear x → speculative x.w = false →
    let n := f.imm.toNat % 64
    let c := Claims.channel x.wg n
    let k := devOfCore s x.core
    let bound : Prop := ∀ i o, regionOf c.endpoint = .peer i o → (windowOf s k i).valid = true ∧ o + 4 ≤ (windowOf s k i).size * 65536
    (c.st = .tx → x.act = 0 ∨ bound → roomWait s x (4 * (lanesOf x.act).length) = none →
      ∃ (s' : State) (g : Wg), Claims.CompletesOn (.send f) s s' x x.k x.w ∧ s'.mem = s.mem ∧ s'.net = s.net ∧
        (∀ c, s'.core c = s.core c) ∧ fget s'.wgs x.g = some g ∧ g.laneQ = x.wg.laneQ ∧ ∃ rs, g.chanQ = x.wg.chanQ ++ rs ∧
          (rs.map fun r => (r.kind, r.size, r.lanes.map fun o => (o.lane, o.va, o.data))) =
            (lanesOf x.act).map fun l => (.message n, 4, [(l, c.endpoint, (srcLane s x f.a.toNat l).toNat)])) ∧
    (x.act ≠ 0 → c.st ≠ .tx → x.w.tvec ≠ 0 → x.w.handler = 0 →
      ∃ t, exec (.send f) s = .next t ∧ Claims.Enters s t x 11 0 0 x.e.pc (Claims.headerOf x)) ∧
    (x.act ≠ 0 → c.st = .tx → ¬ bound → x.w.tvec ≠ 0 → x.w.handler = 0 →
      ∃ t, exec (.send f) s = .next t ∧
        Claims.Enters s t x 17 0 (BitVec.ofNat 64 c.endpoint) x.e.pc (Claims.headerOf x))

/-- Channels open, close, receive in ring order and send in lane order: the statements Channels and Sends. -/
def Obligations.ChannelsAndSends : Prop := Parts.Channels ∧ Parts.Sends

/-! ### The COPY page -/

namespace Sys2Proof.Claims

/-- The counted commands of the COPY page with their engine operation and whether they are external (Table 7.4). -/
def copies (f : F3) (m : XM) : List (Instr × Nat × Bool) :=
  [(.cpld f m, 0, false), (.cpst f m, 1, false), (.cpgather f m, 2, false), (.cpscatter f m, 3, false), (.cpfill f m, 4, false),
   (.cppagein f m, 5, true), (.cphand f m, 7, true)]

/-- The operands of a command, taken from the lowest active lane but for the rows of a gather or scatter (R279, R288). -/
def operands (s : State) (x : Ctx) (op : Nat) (f : F3) (m : XM) (lead : Nat) : CopyArgs :=
  let block (n : Nat) : Word := srcLane s x (f.b.toNat + n) lead
  let n := if op = 7 then (srcLane s x f.b.toNat lead).toNat else m.off.toNat / 2 ^ 10 + 1
  { op := op, addr := (pairLane s x f.a.toNat lead).toNat
    origin := if op < 5 then (List.range 5).map fun d => (block d).toInt else []
    word5 := if op < 5 then (block 5).toNat else 0, start := if op < 5 then (block 6).toNat else 0
    index := if op = 2 ∨ op = 3 then (List.range n).map fun l => (srcLane s x m.c.toNat l).toNat else []
    ops := m.off.getLsbD 3, oslot := m.off.toNat / 2 ^ 4 % 16, hold := m.off.getLsbD 8, count := n
    part := if op = 7 then (srcLane s x m.c.toNat lead).toNat else 0 }

/-- A token of a warp; idle when it was never used. -/
def token (w : Warp) (t : Nat) : Token := w.tokens.getD t Token.fresh

end Sys2Proof.Claims

/-- A command of the COPY page with its checks passed, LIVE, and fewer than 63 commands on its token (R278 to R282): the warp
goes on, its token counts one more command with the next sequence number, and the command with its operands is the core's
youngest; the engine runs it from there. With no active lane nothing happens. CPHAND in a launch that may not hand over traps
with cause 2. -/
def Parts.CopyCommands : Prop :=
  ∀ (f : F3) (m : XM), ∀ p ∈ Claims.copies f m, ∀ (s : State) (x : Ctx), Issues p.1 s x → Clear x → speculative x.w = false →
    (x.act = 0 → Completes p.1 s x x.k x.w) ∧
    ∀ lead, (lanesOf x.act).head? = some lead →
      let a := Claims.operands s x p.2.1 f m lead
      let t := m.off.toNat % 8
      let y := Claims.token x.w t
      (copyTrap x a = none → y.count < 63 → (p.2.2 = false ∨ x.l.rec_.mode = 0) →
        ∃ (s' : State) (q : CopyCmd),
          exec p.1 s = .next (copyRun s' x.core s.nextId) ∧
          q.id = s.nextId ∧ q.slot = x.slot ∧ q.wg = x.g ∧ q.tok = t ∧ q.seq = y.seq ∧ q.args = a ∧ q.status = none ∧
          q.pos = 0 ∧ q.rec_ = none ∧ q.writes = [] ∧ q.wait = .no ∧
          Leaves { s with nextId := s.nextId + 1 } s' x { x.k with copies := x.k.copies ++ [q] }
            { x.w with tokens := setAt x.w.tokens t { y with count := y.count + 1, seq := (y.seq + 1) % 256 } } ∧
          ∀ l, hasLane x.e.mask l = true → laneAt s' x.core x.slot l (nextPc x)) ∧
      (p.2.1 = 7 → x.l.rec_.hand = false → x.w.tvec ≠ 0 → x.w.handler = 0 →
        ∃ t, exec p.1 s = .next t ∧ Claims.Enters s t x 2 0 0 x.e.pc (Claims.headerOf x))

/-- CPSTAT and CPCANCEL (R284, R296, Table 13.4): CPSTAT gives the active lanes the token's word and with CLR clears its outcome;
CPCANCEL ends the commands of the warp's token that have not stopped with status 4, and lets commands that waited for them go on.
-/
def Parts.CopyStatusAndCancel : Prop :=
  ∀ (f : F3) (m : XM) (s : State) (x : Ctx), Clear x → speculative x.w = false →
    let t := m.off.toNat % 8
    let y := Claims.token x.w t
    let b (v : Bool) : Nat := if v then 1 else 0
    (Issues (.cpstat f m) s x →
      ∃ k, WrotePair x k f.d.toNat (fun _ => BitVec.ofNat 64 (y.status % 8 + b y.stale * 2 ^ 6 + b y.more * 2 ^ 7 +
          y.count % 64 * 2 ^ 18 + y.sq % 256 * 2 ^ 24 + y.resume % 2 ^ 32 * 2 ^ 32)) ∧
        Completes (.cpstat f m) s x k (if m.off.getLsbD 9 = true ∧ x.act ≠ 0 then
          { x.w with tokens := setAt x.w.tokens t { y with status := 0, resume := 0, more := false, stale := false } } else x.w)) ∧
    (Issues (.cpcancel f m) s x →
      (x.act = 0 → Completes (.cpcancel f m) s x x.k x.w) ∧
      (x.act ≠ 0 → ∃ (s' : State) (qs : List CopyCmd),
        exec (.cpcancel f m) s = .next (copyResume s' x.core fun q => decide (q.wait = .earlier)) ∧
        Leaves s s' x { x.k with copies := qs } x.w ∧ qs.length = x.k.copies.length ∧
        (∀ l, hasLane x.e.mask l = true → laneAt s' x.core x.slot l (nextPc x)) ∧
        ∀ n (h : n < x.k.copies.length) (h' : n < qs.length),
          let q := x.k.copies[n]
          if q.slot = x.slot ∧ q.wg = x.g ∧ q.tok = t ∧ (q.status = none ∨ q.status = some 0) then
            qs[n].id = q.id ∧ qs[n].status = some 4 ∧ qs[n].resume = (if q.status = none then q.pos else q.resume)
          else qs[n] = q))

/-- The scratchpad image of a box (R71): under the conditions on a record, two chunks of a box never share a place, and every
chunk lies within the box's bytes; the swizzle only permutes a row's chunks. -/
def Parts.SwizzlePermutes : Prop :=
  ∀ (j : Job) (a : CopyArgs), layoutOk j.lay a.origin j.rows = true →
    ∀ k, k < j.total → k % j.per = 0 →
      chunkPlace j a k + 16 ≤ j.total * j.lay.bits / 8 ∧
      ∀ n, n < j.total → n % j.per = 0 → chunkPlace j a k = chunkPlace j a n → k = n

/-- A copy command joins the engine with its operands and counts on its token; a swizzle permutes a row's chunks: the
statements CopyCommands and SwizzlePermutes. -/
def Obligations.CopiesAndSwizzles : Prop := Parts.CopyCommands ∧ Parts.SwizzlePermutes

/-- COPY_COMMAND_COMPLETE (R88, R283): on a die that no thermal stop holds (R421), a decided command with no write outstanding
leaves the engine, and its warp's token counts one command fewer; the first outcome other than 0 stays on the token with its
sequence number, and a later one sets MORE. -/
def Parts.CopyCommandEnds : Prop :=
  ∀ (s : State) (c id st : Nat) (q : CopyCmd) (w : Warp), copyCmd s c id = some q → q.wait = .no → q.status = some st →
    q.writes = [] → q.rowBad = none → s.warp? c q.slot = some w → w.wg = q.wg → q.tok < w.tokens.length →
    (s.die (dieOf c)).stopped = false →
    let y := Claims.token w q.tok
    ∃ s' w', exec (.copyCommandComplete c id) s = .next (copyRetry s' c) ∧ s'.mem = s.mem ∧
      (s'.core c).copies = (s.core c).copies.filter (fun p => decide (p.id ≠ id)) ∧ s'.warp? c q.slot = some w' ∧
      let z := Claims.token w' q.tok
      z.count = y.count - 1 ∧
      (y.status = 0 → z.status = st ∧ z.resume = q.resume ∧ z.sq = q.seq) ∧
      (y.status ≠ 0 → z.status = y.status ∧ z.resume = y.resume ∧ z.sq = y.sq ∧ (st ≠ 0 → z.more = true))

/-- CPSTAT gives the token's word, CPCANCEL stops the token's commands, a finished command leaves its outcome on the token:
the statements CopyStatusAndCancel and CopyCommandEnds. -/
def Obligations.CopyStatusAndEnds : Prop := Parts.CopyStatusAndCancel ∧ Parts.CopyCommandEnds

/-! ### The MATRIX page -/

namespace Sys2Proof.Claims

/-- The workgroups of the array set. -/
def arrays (s : State) (q : Sequencer) : List (Nat × Nat × Wg) :=
  q.members.filterMap fun p => (fget s.wgs p.2).map fun g => (p.1, p.2, g)

/-- Is slot n claimed, once the issued operations have run, on every array of the positions of a test (R312)? -/
def claimed (s : State) (q : Sequencer) (n : Nat) (at_ : Nat → Prop) : Prop :=
  ∀ p ∈ arrays s q, at_ p.1 → n ∈ claimsAt q (s.core p.2.2.core).array

/-- Does a range lie inside the allocations of the positions of a test, at a multiple of 64 (R312)? -/
def inside (s : State) (q : Sequencer) (off n : Nat) (at_ : Nat → Prop) : Prop :=
  off % 64 = 0 ∧ ∀ p ∈ arrays s q, at_ p.1 → off + n ≤ p.2.2.size

/-- Bytes of a drain's destination (R324). -/
def drained (fmt : Nat) : Nat :=
  if fmt = 4 ∨ fmt = 5 ∨ fmt = 6 then 4 * 16384 else if fmt = 7 ∨ fmt = 8 then 2 * 16384
  else if fmt = 9 then 16384 / 2 + 2 * 512 else 16384 + 2 * 512

/-- The queued operations of the MATRIX page, the register each takes its value from, and what each needs of it (R312 to
R324). -/
def matrixTable (f : FQ) (s : State) (q : Sequencer) (v : Nat) : List (Instr × Nat × Prop) :=
  let any (_ : Nat) : Prop := True
  let named (n : Nat) : Prop := n < 16 ∧ v / 2 ^ n % 2 = 1
  let product : Prop := claimed s q f.x.toNat any ∧ claimed s q f.y.toNat (fun n => n = v % 4) ∧
  (fget q.members (v % 4)).isSome = true
  let p := f.mode.toNat / 4
  let bc := f.mode.getLsbD 1 = true
  [(.mclaim f, f.qa.toNat, ∀ n, named n → ∀ p ∈ arrays s q, n ∉ claimsAt q (s.core p.2.2.core).array),
   (.mrel f, f.qa.toNat, ∀ n, named n → claimed s q n any),
   (.mfill f, f.qa.toNat, claimed s q f.x.toNat any ∧ inside s q v 8192 any),
   (.mzero f, 0, True),
   (.mdrain f, f.qa.toNat, inside s q v (drained (f.mode.toNat % 64)) any),
   (.mscl f, f.qa.toNat, inside s q v 256 (fun n => bc → n = p) ∧ (bc → (fget q.members p).isSome = true)),
   (.mscacc f, 0, True),
   (.mhad f, 0, f.mode.getLsbD 6 = true ∨ claimed s q f.x.toNat any),
   (.mmb f, f.qa.toNat, product), (.mmaBf16 f, f.qa.toNat, product), (.mmaF16 f, f.qa.toNat, product),
   (.mmaI8 f, f.qa.toNat, product), (.mmaP8 f, f.qa.toNat, product), (.mmaE2m1 f, f.qa.toNat, product),
   (.mmaMxp8 f, f.qa.toNat, product), (.mmaMxe2m1 f, f.qa.toNat, product)]

end Sys2Proof.Claims

/-- A matrix operation of a sequencer's stream (R308, R312 to R324): with fewer than eight operations issued and its checks
passed it joins the queue with the value of its register and the sequencer goes on; with eight issued the sequencer waits. -/
def Parts.MatrixQueue : Prop :=
  ∀ (f : FQ) (s : State) (cl : Nat),
    let q := s.seq cl
    let issued := q.queue.length + (if q.running.isSome then 1 else 0)
    ∀ i r p, (i, r, p) ∈ Claims.matrixTable f s q (Claims.readQ q r).toNat → SeqIssues i s cl →
      (issued < 8 → p →
        exec i s = .next (s.updSeq cl fun q =>
          Claims.onWords { q with queue := q.queue ++ [{ instr := i, value := (Claims.readQ q r).toNat }] } 1)) ∧
      (8 ≤ issued → exec i s = .next s)

/-- MFILL.arg, MWAIT and MSTAT (R315, R325, R326, Table 14.7): MFILL.arg gives four q registers the argument words, those of a
scratchpad once no MDRAIN issued before is outstanding; MWAIT goes on, and
MSTAT gives Q[qa] the array set, its suspect flags and the union of its flags, cleared after the read with CLR, once no operation
is issued; until then the sequencer waits. -/
def Parts.MatrixWaitsAndArguments : Prop :=
  ∀ (f : FQ) (s : State) (cl : Nat),
    let q := s.seq cl
    let idle : Prop := q.queue = [] ∧ q.running = none
    (SeqIssues (.mwait f) s cl →
      (idle → exec (.mwait f) s = .next (s.updSeq cl fun q => Claims.onWords q 1)) ∧ (¬ idle → exec (.mwait f) s = .next s)) ∧
    (SeqIssues (.mstat f) s cl →
      let arr (p : Nat × Nat × Wg) : MArray := (s.core p.2.2.core).array
      let v := ((Claims.arrays s q).map fun p => 2 ^ (16 + p.1) + if (arr p).suspect then 2 ^ (12 + p.1) else 0).sum +
        ((Claims.arrays s q).foldl (fun (g : BitVec 5) p => g ||| (arr p).flags) 0).toNat
      (idle → f.mode.getLsbD 0 = false →
        exec (.mstat f) s = .next (s.updSeq cl fun q => Claims.onWords (Claims.withQ q f.qa.toNat (BitVec.ofNat 32 v)) 1)) ∧
      (idle → f.mode.getLsbD 0 = true →
        ∃ t, exec (.mstat f) s = .next t ∧
          t.seq cl = Claims.onWords (Claims.withQ q f.qa.toNat (BitVec.ofNat 32 v)) 1 ∧ t.mem = s.mem ∧ t.wgs = s.wgs ∧
          ∀ c, t.core c =
            if ∃ p ∈ Claims.arrays s q, p.2.2.core = c then
              { s.core c with array := { (s.core c).array with flags := 0 } } else s.core c) ∧
      (¬ idle → exec (.mstat f) s = .next s)) ∧
    (SeqIssues (.mfillArg f) s cl → ∀ fk, q.cur = some fk → q.argaddr.toNat % 16 = 0 →
      let va := q.argaddr.toNat + 16 * f.x.toNat
      let drains : Prop := (∃ i o, regionOf va = .slice i o) ∧ ∃ o ∈ q.running.toList ++ q.queue, ∃ d, o.instr = .mdrain d
      (drains → exec (.mfillArg f) s = .next s) ∧
      ∀ s' v, ¬ drains → argRead s fk va = (s', .ok v) →
        exec (.mfillArg f) s = .next (s'.updSeq cl fun q =>
          { Claims.onWords ((List.range 4).foldl (fun q m =>
              Claims.withQ q (f.qa.toNat + m) (BitVec.ofNat 32 (v / 2 ^ (32 * m)))) q) 1 with argAt := none }))

/-- A matrix operation joins the issue queue; MFILL.arg, MWAIT and MSTAT read arguments and status: the statements MatrixQueue
and MatrixWaitsAndArguments. -/
def Obligations.MatrixIssue : Prop := Parts.MatrixQueue ∧ Parts.MatrixWaitsAndArguments

namespace Sys2Proof.Claims

/-- Byte k of a slot as a signed or unsigned integer. -/
def slotByte (m : Mem) (signed : Bool) (k : Nat) : Int := if signed then (memRead m k).toInt else (memRead m k).toNat

/-- The bytes of a number of B's columns and A's rows multiplied and added (R172): K is 64. -/
def dot8 (a b : Mem) (sa sb : Bool) (i j : Nat) : Int :=
  ((List.range 64).map fun n => slotByte a sa (64 * i + n) * slotByte b sb (64 * j + n)).sum

/-- Code n of a slot whose elements have 4, 8 or 16 bits, the first in the low bits (R70, R314). -/
def slotCode (m : Mem) (bits n : Nat) : Nat :=
  ((memRead m (n * bits / 8)).toNat + 256 * (memRead m (n * bits / 8 + 1)).toNat) / 2 ^ (n * bits % 8) % 2 ^ bits

/-- The 32 elements of block k in a row of a slot, elements of a format's size (R169, R314). -/
def tileBlock (t : Fmt) (bits : Nat) (m : Mem) (row k : Nat) : List Exact :=
  (List.range 32).map fun n => t.decode (slotCode m bits (512 / bits * row + 32 * k + n))

/-- The exact sum of two blocks' products, rounded once to FP32 (R169). -/
def partialOf (xs ys : List Exact) : Nat := (roundExact .f32 .rne false (blockDot xs ys).1).1

/-- FP32 c plus an exact value, rounded once (R169, R170). -/
def plus (c : Word) (x : Exact) : Word := BitVec.ofNat 32 (roundExact .f32 .rne false (exactSum .rne [Fmt.f32.decode c.toNat, x]).1).1

/-- A slot of an array. -/
def slotOf (a : MArray) (n : Nat) : Mem := (fget a.slots n).getD []
/-- Element e of an accumulator. -/
def accAt (a : MArray) (n e : Nat) : Word := (fget ((fget a.acc n).getD []) e).getD 0
/-- Element e of a partial tile. -/
def partAt (a : MArray) (n e : Nat) : Word := (fget ((fget a.pb n).getD []) e).getD 0

/-- o is the oldest issued operation of a cluster whose die's clock runs, the arrays are free and of cores and positions of their
own, their arithmetic is without a fault (R322), and no chunk of it has moved ahead (R326). -/
def MayStart (s : State) (cl : Nat) (o : MxOp) (rest : List MxOp) : Prop :=
  let q := s.seq cl
  q.running = none ∧ q.queue = o :: rest ∧ q.part = [] ∧ (s.die (cl / 40)).stopped = false ∧
    (∀ p ∈ arrays s q, (s.core p.2.2.core).array.fault = none) ∧
    (arrays s q).Pairwise fun p r => p.2.2.core ≠ r.2.2.core ∧ p.1 ≠ r.1

/-- Starting operation o on the arrays makes of each one what a relation of it before and after says. -/
def Makes (o : MxOp) (s : State) (cl : Nat) (rel : Nat × Nat × Wg → MArray → MArray → Prop) : Prop :=
  ∀ rest, MayStart s cl o rest →
    ∃ t, exec (.arrayOpStart cl) s = .next t ∧ (t.seq cl).running = some o ∧ (t.seq cl).queue = rest ∧
      ∀ p ∈ arrays s (s.seq cl), rel p (s.core p.2.2.core).array (t.core p.2.2.core).array

end Sys2Proof.Claims

/-- MMA.i8 on the arrays (R172, R314, R317, Table 14.5): starting it adds to element (i, j) of the accumulator of every array of
the set the sum of the 64 products of row i of its own A slot and column j of the source position's B slot, modulo 2^32. -/
def Parts.IntegerProduct : Prop :=
  ∀ (f : FQ) (s : State) (cl v : Nat) (src : Nat × Nat × Wg), src ∈ Claims.arrays s (s.seq cl) → src.1 = v % 4 →
    Claims.Makes { instr := .mmaI8 f, value := v } s cl fun _ a a' => ∀ i j, i < 128 → j < 128 →
      let n := f.mode.toNat / 2 ^ 6
      Claims.accAt a' n (128 * i + j) =
        BitVec.ofInt 32 ((Claims.accAt a n (128 * i + j)).toInt +
          Claims.dot8 (Claims.slotOf a f.x.toNat) (Claims.slotOf (s.core src.2.2.core).array f.y.toNat) (f.mode.getLsbD 5)
            (f.mode.getLsbD 4) i j)

/-- The floating MMA forms on the arrays (R169, R314, R317, Table 14.5): a plain form adds to element (i, j) of the accumulator,
block after block of K in ascending order, the exact sum of the block's 32 products rounded once to FP32, each addition rounded
once; an MX form leaves that sum of its one block in the partial tile, with the format of its operands. -/
def Parts.FloatProducts : Prop :=
  ∀ (f : FQ) (s : State) (cl v : Nat) (src : Nat × Nat × Wg), src ∈ Claims.arrays s (s.seq cl) → src.1 = v % 4 →
    let n := f.mode.toNat / 2 ^ 6
    let p8 : Nat × Bool × Bool := (f.mode.toNat / 2 % 8, f.mode.getLsbD 4, f.mode.getLsbD 5)
    let block (t : Fmt) (bits : Nat) (a : MArray) (i j k : Nat) : Nat :=
      Claims.partialOf (Claims.tileBlock t bits (Claims.slotOf a f.x.toNat) i k)
        (Claims.tileBlock t bits (Claims.slotOf (s.core src.2.2.core).array f.y.toNat) j k)
    (∀ p ∈ [(Instr.mmaBf16 f, Fmt.bf16, 16), (.mmaF16 f, .f16, 16), (.mmaP8 f, .p8 p8.1 p8.2.1 p8.2.2, 8), (.mmaE2m1 f, .e2m1, 4)],
      Claims.Makes { instr := p.1, value := v } s cl fun _ a a' => ∀ i j, i < 128 → j < 128 →
        Claims.accAt a' n (128 * i + j) =
          (List.range (16 / p.2.2)).foldl (fun c k => Claims.plus c (Fmt.f32.decode (block p.2.1 p.2.2 a i j k)))
            (Claims.accAt a n (128 * i + j))) ∧
    (∀ p ∈ [(Instr.mmaMxp8 f, Fmt.p8 p8.1 p8.2.1 p8.2.2, MmaFmt.p8 p8.1 p8.2.1 p8.2.2, 8, f.mode.toNat % 2),
        (.mmaMxe2m1 f, .e2m1, .e2m1, 4, f.mode.toNat % 4)],
      Claims.Makes { instr := p.1, value := v } s cl fun _ a a' =>
        fget a'.pbFmt n = some p.2.2.1 ∧ a'.acc = a.acc ∧ ∀ i j, i < 128 → j < 128 →
          Claims.partAt a' n (128 * i + j) = BitVec.ofNat 32 (block p.2.1 p.2.2.2.1 a i j p.2.2.2.2))

/-- MMB (R172, R318): starting it adds to element (i, j) of the accumulator the number of ones among the 512 bits of row i of the
array's A slot and column j of the source position's B slot, combined by AND or by exclusive or, modulo 2^32. -/
def Parts.BitProducts : Prop :=
  ∀ (f : FQ) (s : State) (cl v : Nat) (src : Nat × Nat × Wg), src ∈ Claims.arrays s (s.seq cl) → src.1 = v % 4 →
    let bitOf (m : Mem) (i k : Nat) : Bool := (memRead m (64 * i + k / 8)).getLsbD (k % 8)
    Claims.Makes { instr := .mmb f, value := v } s cl fun _ a a' => ∀ i j, i < 128 → j < 128 →
      let n := f.mode.toNat / 2 ^ 6
      let one (k : Nat) : Bool :=
        let x := bitOf (Claims.slotOf a f.x.toNat) i k
        let y := bitOf (Claims.slotOf (s.core src.2.2.core).array f.y.toNat) j k
        if f.mode.getLsbD 0 then x && y else x != y
      Claims.accAt a' n (128 * i + j) = Claims.accAt a n (128 * i + j) + BitVec.ofNat 32 ((List.range 512).filter one).length

/-- MFILL into a slot and MSCL (R315, R320): starting one copies 8,192 bytes of each array's scratchpad to its slot, or bits
[9:0] of 128 16-bit containers to its row or column scales, with broadcast those of one position for every array. No byte read is
stale under policy trap, or uncorrectable. -/
def Parts.FillsAndScales : Prop :=
  ∀ (f : FQ) (s : State) (cl v : Nat),
    let pad (p : Nat × Nat × Wg) (n : Nat) : Nat := (sliceByte (s.core p.2.2.core) p.2.2.gen (p.2.2.base + v + n)).toNat
    (mxStale s cl v 8192 (fun _ => true) = false → mxPoison s cl v 8192 (fun _ => true) = none →
      Claims.Makes { instr := .mfill f, value := v } s cl fun p a a' =>
        (∀ n, n < 8192 → (memRead (Claims.slotOf a' f.x.toNat) n).toNat = pad p n) ∧
        (∀ n, n ≠ f.x.toNat → Claims.slotOf a' n = Claims.slotOf a n) ∧ a'.acc = a.acc ∧ a'.claims = a.claims) ∧
    let bc := f.mode.getLsbD 1
    let from_ := f.mode.toNat / 4
    let reads (n : Nat) : Bool := !bc || decide (n = from_)
    (mxStale s cl v 256 reads = false → mxPoison s cl v 256 reads = none →
      Claims.Makes { instr := .mscl f, value := v } s cl fun p a a' =>
        ∀ r, (if bc then r ∈ Claims.arrays s (s.seq cl) ∧ r.1 = from_ else r = p) → ∀ i, i < 128 →
          let x := (pad r (2 * i) + 256 * pad r (2 * i + 1)) % 2 ^ 10
          if f.mode.getLsbD 0 then (fget a'.scol i).getD 0 = x ∧ a'.srow = a.srow else (fget a'.srow i).getD 0 = x ∧ a'.scol = a.scol)

/-- MSCACC (R170, R321): starting it adds to element (i, j) of the accumulator the partial tile's element times row scale i times
column scale j, rounded once, or makes it the canonical NaN when a scale is NaN; the partial tile stays. -/
def Parts.ScaledSums : Prop :=
  ∀ (f : FQ) (s : State) (cl v : Nat),
    Claims.Makes { instr := .mscacc f, value := v } s cl fun _ a a' =>
      a'.pb = a.pb ∧ a'.pbFmt = a.pbFmt ∧ ∀ i j, i < 128 → j < 128 →
        let r := s10Decode ((fget a.srow i).getD 0)
        let c := s10Decode ((fget a.scol j).getD 0)
        let x := Fmt.f32.decode (Claims.partAt a f.y.toNat (128 * i + j)).toNat
        Claims.accAt a' f.x.toNat (128 * i + j) =
          match r, c with
          | .fin .., .fin .. => Claims.plus (Claims.accAt a f.x.toNat (128 * i + j)) (exactMul (exactMul x r).1 c).1
          | _, _ => 0x7FC0_0000

/-- MHAD (R323): starting it replaces each element u of every group of n elements along a row, of an accumulator read as FP32
or of a slot of bf16 or f16 elements, by the exact sum of the group's elements v, negated where u AND v has an odd number of
ones, rounded once. -/
def Parts.Transforms : Prop :=
  ∀ (f : FQ) (s : State) (cl v : Nat), f.mode.toNat % 4 < 3 →
    let n := 16 * 2 ^ (f.mode.toNat % 4)
    let odd (u v : Nat) : Bool := ((List.range 6).filter fun i => u.testBit i && v.testBit i).length % 2 == 1
    let out (t : Fmt) (code : Nat → Nat) (e : Nat) : Nat :=
      let term (v : Nat) : Exact :=
        let x := t.decode (code (e / n * n + v))
        if odd (e % n) v then x.neg else x
      (roundExact t .rne false (blockSum ((List.range n).map term)).1).1
    Claims.Makes { instr := .mhad f, value := v } s cl fun _ a a' =>
      if f.mode.getLsbD 6 then
        ∀ e, e < 16384 →
          Claims.accAt a' f.x.toNat e = BitVec.ofNat 32 (out .f32 (fun m => (Claims.accAt a f.x.toNat m).toNat) e)
      else
        ∀ e, e < 4096 → Claims.slotCode (Claims.slotOf a' f.x.toNat) 16 e =
          out (if f.mode.getLsbD 4 then .f16 else .bf16) (Claims.slotCode (Claims.slotOf a f.x.toNat) 16) e % 2 ^ 16

/-- MDRAIN (R167, R324, Table 14.6): starting it writes each array's accumulator to its own core's allocation: its words as they
are, each element rounded to 16 bits, or each block of 32 quantised with its scale's container after the data; every other byte
of the slice reads as before, and the accumulator stays. -/
def Parts.Drains : Prop :=
  ∀ (f : FQ) (s : State) (cl v : Nat) (t : Fmt) (rest : List MxOp),
    let fmt := f.mode.toNat % 64
    let mode := RMode.ofCode (f.y.toNat % 8)
    let sat := f.y.getLsbD 3
    let size := Claims.drained fmt
    let byteOf (w n : Nat) : Byte := BitVec.ofNat 8 (w / 256 ^ n)
    Claims.MayStart s cl { instr := .mdrain f, value := v } rest →
    (∀ p ∈ Claims.arrays s (s.seq cl), holdsSlot p.2.2 = true ∧ memWf (s.core p.2.2.core).data = true) →
    (fmt = 4 ∨ fmt = 5 ∨ fmtOfCode fmt (f.mode.getLsbD 6) = some t) →
    ∃ u, exec (.arrayOpStart cl) s = .next u ∧ ∀ p ∈ Claims.arrays s (s.seq cl),
      let k := s.core p.2.2.core
      let k' := u.core p.2.2.core
      let word (e : Nat) : Word := Claims.accAt k.array f.x.toNat e
      let x (e : Nat) : Exact := Fmt.f32.decode (word e).toNat
      let block (b : Nat) : List (Nat × Flags) × Nat × Flags := drainBlock t mode sat ((List.range 32).map fun n => x (32 * b + n))
      let code (e : Nat) : Nat := ((block (e / 32)).1.getD (e % 32) (0, 0)).1
      let lo := p.2.2.base + v
      let data := if fmt = 9 then 8192 else 16384
      k'.array.acc = k.array.acc ∧
      (∀ n, n < size → sliceByte k' p.2.2.gen (lo + n) =
        if fmt = 4 ∨ fmt = 5 ∨ fmt = 6 then byteOf (word (n / 4)).toNat (n % 4)
        else if fmt = 7 ∨ fmt = 8 then byteOf (convertFloat t mode sat (x (n / 2))).1 (n % 2)
        else if data ≤ n then byteOf (block ((n - data) / 2)).2.1 (n % 2)
        else if fmt = 9 then BitVec.ofNat 8 (code (2 * n) + 16 * code (2 * n + 1)) else BitVec.ofNat 8 (code n)) ∧
      ∀ n, ¬ (lo ≤ n ∧ n < lo + size) → sliceByte k' p.2.2.gen n = sliceByte k p.2.2.gen n

/-- What starting a matrix operation leaves: products in accumulators and partial tiles, fills and scales, scaled sums, transforms
and drains: the statements IntegerProduct, FloatProducts, BitProducts, FillsAndScales, ScaledSums, Transforms and Drains. -/
def Obligations.MatrixOperations : Prop :=
  Parts.IntegerProduct ∧ Parts.FloatProducts ∧ Parts.BitProducts ∧ Parts.FillsAndScales ∧ Parts.ScaledSums ∧ Parts.Transforms ∧
    Parts.Drains

/-- SEQUENCER_PROGRAM_START, ARRAY_OP_START and MATRIX_OPERATION_COMPLETE (R48, R89, R241, R308, R309): a free sequencer
starts the oldest forked program whose release is over, with Q[1], Q[2] and Q[3] as R241 gives them and every other register
0; free arrays start MCLAIM's, MREL's or MZERO's effect on every array of the set as the oldest operation; a finished
operation frees the arrays. On a die whose clock a thermal stop holds nothing starts or ends (R421). -/
def Obligations.SequencerEvents : Prop :=
  ∀ (s : State) (cl : Nat),
    let q := s.seq cl
    let events : List Instr := [.sequencerProgramStart cl, .arrayOpStart cl, .matrixOperationComplete cl]
    ((s.die (cl / 40)).stopped = true → ∀ i ∈ events, exec i s = .next s) ∧
    ((s.die (cl / 40)).stopped = false →
    (∀ fk rest, q.cur = none → q.fifo = fk :: rest → forkReady s fk = true →
      ∃ q', exec (.sequencerProgramStart cl) s = .next (s.updSeq cl fun _ => q') ∧ q'.cur = some fk ∧ q'.fifo = rest ∧
        q'.pc = fk.code ∧ q'.clause = none ∧ q'.argaddr = fk.arg ∧ q'.ending = none ∧ q'.stalled = none ∧
        q'.members = q.members ∧ q'.queue = q.queue ∧ q'.running = q.running ∧
        ∀ n, Claims.readQ q' n = match n with
          | 1 => BitVec.ofNat 32 fk.arg.toNat
          | 2 => BitVec.ofNat 32 (fk.arg.toNat / 2 ^ 32)
          | 3 => BitVec.ofNat 32 fk.pos
          | _ => 0) ∧
    (∀ o rest f, q.running = none → q.queue = o :: rest →
      (Claims.arrays s q).Pairwise (fun p q => p.2.2.core ≠ q.2.2.core) →
      (∀ n, o.instr = .mclaim f → ∃ t, exec (.arrayOpStart cl) s = .next t ∧ (t.seq cl).running = some o ∧
        (t.seq cl).queue = rest ∧ t.mem = s.mem ∧ ∀ p ∈ Claims.arrays s q,
          (n ∈ (t.core p.2.2.core).array.claims ↔
            n ∈ (s.core p.2.2.core).array.claims ∨ (n < 16 ∧ o.value / 2 ^ n % 2 = 1))) ∧
      (∀ n, o.instr = .mrel f → ∃ t, exec (.arrayOpStart cl) s = .next t ∧ (t.seq cl).running = some o ∧
        (t.seq cl).queue = rest ∧ t.mem = s.mem ∧ ∀ p ∈ Claims.arrays s q,
          (n ∈ (t.core p.2.2.core).array.claims ↔
            n ∈ (s.core p.2.2.core).array.claims ∧ ¬ (n < 16 ∧ o.value / 2 ^ n % 2 = 1))) ∧
      (o.instr = .mzero f → ∃ t, exec (.arrayOpStart cl) s = .next t ∧ (t.seq cl).running = some o ∧ (t.seq cl).queue = rest ∧
        t.mem = s.mem ∧ ∀ p ∈ Claims.arrays s q,
          let a := (s.core p.2.2.core).array
          let cut {α : Type} (m : FMap α) (lo : Nat) : FMap α :=
            let m := if f.mode.getLsbD lo then fdel m 0 else m
            if f.mode.getLsbD (lo + 1) then fdel m 1 else m
          (t.core p.2.2.core).array = { a with acc := cut a.acc 0, pb := cut a.pb 2, pbFmt := cut a.pbFmt 2 })) ∧
    (∀ o, q.running = some o → q.ending = none →
      exec (.matrixOperationComplete cl) s = .next (s.updSeq cl fun q => { q with running := none })))

/-! ### The SYSTEM page -/

namespace Sys2Proof.Claims

/-- A Bool as a number. -/
def flag (b : Bool) : Nat := if b then 1 else 0

/-- The code of a round's state (Table 11.5). -/
def roundCode (w : Warp) : Nat := match w.round.st with | .idle => 0 | .guessing => 1 | .running => 2

/-- Table 11.2: the CSRs and their values. -/
def csrTable (x : Ctx) : List (Nat × Nat) :=
  let lo (d : Double) : Nat := d.toNat % 2 ^ 32
  let hi (d : Double) : Nat := d.toNat / 2 ^ 32
  let r := x.l.rec_
  let n := if r.kind = 2 then r.pncore else r.grid0 * r.grid1 * r.grid2
  [(0x000, x.w.fpstat.toNat),
   (0x001, flag x.w.rconvSplit + flag (x.w.handler != 0) * 2 ^ 1 + flag (converged x.w) * 2 ^ 2 + flag (x.w.parks != []) * 2 ^ 8 +
      flag x.w.dbgatt * 2 ^ 9 + roundCode x.w * 2 ^ 10 + (x.w.frontier.length + x.w.held.length) * 2 ^ 12),
   (0x002, lo x.w.tvec), (0x003, hi x.w.tvec), (0x004, x.w.tcause.toNat), (0x005, x.w.tinfo.toNat), (0x006, lo x.w.tpc),
   (0x007, hi x.w.tpc), (0x008, lo x.w.taddr), (0x009, hi x.w.taddr), (0x00A, x.w.tmask.toNat), (0x00B, x.w.tact.toNat),
   (0x00C, lo x.w.tclause), (0x00D, hi x.w.tclause), (0x010, x.wg.base), (0x011, x.wg.size), (0x012, x.wg.index / 2 ^ 32),
   (0x013, n % 2 ^ 32), (0x014, n / 2 ^ 32), (0x015, x.wg.nwarps), (0x016, x.l.id), (0x017, x.l.attempt),
   (0x018, r.mode % 4 + flag r.genTrap * 2 ^ 2 + r.kind % 4 * 2 ^ 3 + r.pclass % 4 * 2 ^ 5), (0x019, x.w.base + x.w.ext * 2 ^ 3),
   (0x020, x.w.timeoutCyc)]

/-- A CSR write under its access code (Table 11.2). -/
def csrWritten (w : Warp) (n : Nat) (v : Nat) : Warp :=
  let lo (d : Double) (v : Nat) : Double := BitVec.ofNat 64 (d.toNat / 2 ^ 32 * 2 ^ 32 + v)
  let hi (d : Double) (v : Nat) : Double := BitVec.ofNat 64 (v * 2 ^ 32 + d.toNat % 2 ^ 32)
  if n = 0x000 then { w with fpstat := BitVec.ofNat 5 v }
  else if n = 0x001 then { w with rconvSplit := w.rconvSplit && v % 2 == 0 }
  else if n = 0x002 then { w with tvec := lo w.tvec (v / 4 * 4) }
  else if n = 0x003 then { w with tvec := hi w.tvec (v % 2 ^ 24) }
  else if n = 0x006 then { w with tpc := lo w.tpc v }
  else if n = 0x007 then { w with tpc := hi w.tpc v }
  else if n = 0x00C then { w with tclause := lo w.tclause v }
  else if n = 0x00D then { w with tclause := hi w.tclause v }
  else if n = 0x020 then { w with timeoutCyc := if v < 4096 then 4096 else v }
  else w

end Sys2Proof.Claims

/-- CSRRD and CSRWR (R250, Tables 11.2 to 11.5): CSRRD gives the active lanes the CSR's value; CSRWR writes the lowest active
lane's value under the access code, a read-only CSR staying as it is; outside handler mode a write of a handler-only CSR traps
with cause 2 and the CSR's number as TINFO. The entries that WSTAT counts are those of the frontier and those held for a handler
(the model's reading, log 64). -/
def Obligations.ControlRegisters : Prop :=
  ∀ (f : F3) (m : XM) (s : State) (x : Ctx), Clear x →
    let n := m.off.toNat % 2 ^ 12
    let v := match (lanesOf x.act).head? with | some l => (srcLane s x f.a.toNat l).toNat | none => 0
    let handlerOnly := n ∈ [0x006, 0x007, 0x00C, 0x00D, 0x020]
    (Issues (.csrrd f m) s x → ∀ p ∈ Claims.csrTable x, n = p.1 →
      ∃ k, Wrote x k f.d.toNat (fun _ => BitVec.ofNat 32 p.2) ∧ Completes (.csrrd f m) s x k x.w) ∧
    (Issues (.csrwr f m) s x → speculative x.w = false →
      (x.act = 0 → Completes (.csrwr f m) s x x.k x.w) ∧
      (x.act ≠ 0 → (handlerOnly → x.w.handler ≠ 0) → Completes (.csrwr f m) s x x.k (Claims.csrWritten x.w n v)) ∧
      (x.act ≠ 0 → handlerOnly → x.w.handler = 0 → x.w.tvec ≠ 0 →
        ∃ t, exec (.csrwr f m) s = .next t ∧ Claims.Enters s t x 2 n 0 x.e.pc (Claims.headerOf x)))

/-- TRETURN (R247): outside handler mode it traps with cause 2; inside, the entry's lanes leave the handler and stand at TPC,
and when the last has left, the held entries stand where they stood and a GRACE set aside waits again where it stood, with its
target (the model's choice, log 62). Unless every lane that an RCONV waits for now waits at one, which releases one (R22, R23,
R244), no other lane moves; nothing else of the warp, its core or the machine changes. -/
def Obligations.TrapReturn : Prop :=
  ∀ (f : F3) (s : State) (x : Ctx), Issues (.treturn f) s x → Clear x →
    (x.w.handler = 0 → x.w.tvec ≠ 0 → speculative x.w = false →
      ∃ t, exec (.treturn f) s = .next t ∧ Claims.Enters s t x 2 0 0 x.e.pc (Claims.headerOf x)) ∧
    (x.w.handler ≠ 0 →
      let h := x.w.handler &&& ~~~x.e.mask
      let need := if h = 0 then x.w.live else h
      let stays : Prop := ∃ l, hasLane need l = true ∧
        ∀ y ∈ x.w.frontier ++ (if h = 0 then x.w.held else []), hasLane y.mask l = true → y.wait ≠ .rconv
      ∃ t w, exec (.treturn f) s = .next t ∧ t.warp? x.core x.slot = some w ∧ w.handler = h ∧
        (∀ l, hasLane x.e.mask l = true → laneAt t x.core x.slot l x.w.tpc) ∧ (stays → w.rconvSplit = x.w.rconvSplit) ∧
        (h = 0 → w.held = [] ∧
          (stays → ∀ y ∈ x.w.held, ∀ l, hasLane y.mask l = true → laneAt t x.core x.slot l y.pc)) ∧
        (h ≠ 0 → (∀ y ∈ w.held, y ∈ x.w.held) ∧
          ∀ y ∈ x.w.held, y ∈ w.held ∨ ∃ p ∈ w.parks, p.mask = y.mask ∧ p.pc = y.pc ∧ p.reason = .overflow) ∧
        w = { x.w with
          frontier := w.frontier, held := w.held, parks := w.parks, nextSeq := w.nextSeq, handler := w.handler
          rconvSplit := w.rconvSplit, waitCount := 0
          hold := (match x.w.graceHeld with | some p => if h = 0 then .grace p.1 false else x.w.hold | none => x.w.hold)
          grace := if h = 0 then x.w.graceHeld.bind Prod.snd else x.w.grace
          graceHeld := if h = 0 then none else x.w.graceHeld, lastIssue := x.k.issueClock + 1 } ∧
        t = s.setCore x.core { x.k with
          warps := fput x.k.warps x.slot w, issueClock := x.k.issueClock + 1, quads := quadOf x.slot :: x.k.quads })

/-- CYCLE, GENQ, SIGRD and SPSTAT (R251, R252, R302, R304, Table 13.8): the active lanes get the cycle counter, the
generations, the agreed sum of a twin (0 in any other mode), or the round's state, in which the committed iterations are those
of the round's one instance that is not SPECULATIVE (R125); nothing else changes. -/
def Parts.CountersAndStatus : Prop :=
  ∀ (f : F3) (s : State) (x : Ctx), Clear x →
    let r := x.w.round
    let run : Bool := r.st == .running
    let ist : Nat := match r.ist with | .none => 0 | .speculative => 1 | .live => 2 | .continuing => 3
    (Issues (.cycle f) s x →
      ∃ k, WrotePair x k f.d.toNat (fun _ => BitVec.ofNat 64 x.k.cycle) ∧ Completes (.cycle f) s x k x.w) ∧
    (Issues (.genq f) s x →
      ∃ k, WrotePair x k f.d.toNat (fun _ => BitVec.ofNat 64 (x.wg.gen % 2 ^ 16 + x.w.genBase % 2 ^ 16 * 2 ^ 16 +
          (if x.w.ext = 0 then 0 else x.w.genExt % 2 ^ 16 * 2 ^ 32) + if run then r.privGen % 2 ^ 16 * 2 ^ 48 else 0)) ∧
        Completes (.genq f) s x k x.w) ∧
    (Issues (.sigrd f) s x →
      ∃ k, WrotePair x k f.d.toNat (fun _ => if x.l.rec_.mode = 2 then x.wg.ck.agreed else 0) ∧
        Completes (.sigrd f) s x k x.w) ∧
    (Issues (.spstat f) s x → ∀ done,
      (r.ist ≠ .speculative ∧ done = r.committed ∨
        r.ist = .speculative ∧
          let head (p : Nat × Warp) : Prop :=
            p.2.wg = x.g ∧ p.2.round.st = .running ∧ p.2.round.owner = r.owner ∧ p.2.round.ist ≠ .speculative
          ∃ p ∈ x.k.warps, head p ∧ (∀ q ∈ x.k.warps, head q → q = p) ∧ done = p.2.round.committed) →
      ∃ k, Wrote x k f.d.toNat (fun _ => BitVec.ofNat 32 (r.width % 2 ^ 4 + done % 2 ^ 4 * 2 ^ 4 +
          (if run then r.inst * 2 ^ 8 + ist * 2 ^ 14 else 0) + Claims.roundCode x.w * 2 ^ 12)) ∧
        Completes (.spstat f) s x k x.w)

/-- DBGBRK (R245, R249), LIVE: without active lanes nothing happens; with a debugger attached the event is posted with the
address after it and the warp is held there; without one the warp traps with cause 13, its TPC after the instruction. -/
def Parts.DebugBreak : Prop :=
  ∀ (f : F2I) (s : State) (x : Ctx), Issues (.dbgbrk f) s x → Clear x → speculative x.w = false →
    let hdr := match x.e.clause with
      | some c => if (nextPc x).toNat < c.hdr.toNat + 4 * (c.count + 1) then c.hdr else nextPc x
      | none => nextPc x
    (x.act = 0 → Completes (.dbgbrk f) s x x.k x.w) ∧
    (x.act ≠ 0 → x.w.dbgatt = true →
      Claims.CompletesOn (.dbgbrk f) s { s with debug := s.debug ++ [.brk x.core x.slot (nextPc x) f.imm.toNat] } x x.k
        { x.w with hold := .debug }) ∧
    (x.act ≠ 0 → x.w.dbgatt = false → x.w.tvec ≠ 0 → x.w.handler = 0 →
      ∃ t, exec (.dbgbrk f) s = .next t ∧ Claims.Enters s t x 13 f.imm.toNat 0 (nextPc x) hdr)

/-- SUSPQ (R305), LIVE with active lanes: the lanes get the suspect flags of the cluster group's arrays by position, with bit
4 when a flagged one came from the MSCACC check, and the flags are cleared; outside a cluster group they get 0. -/
def Parts.SuspectFlags : Prop :=
  ∀ (f : F3) (s : State) (x : Ctx), Issues (.suspq f) s x → Clear x → speculative x.w = false →
    (x.act = 0 → Completes (.suspq f) s x x.k x.w) ∧
    (x.act ≠ 0 → x.wg.cg = none → ∃ k, Wrote x k f.d.toNat (fun _ => 0) ∧ Completes (.suspq f) s x k x.w) ∧
    (x.act ≠ 0 → x.wg.cg ≠ none →
      let set := Claims.arrays s (s.seq (clusterOf s x.core))
      let hit := set.filter fun p => (s.core p.2.2.core).array.suspect
      let v := (hit.map fun p => 2 ^ p.1).sum + if hit.any fun p => (s.core p.2.2.core).array.suspectAcc then 2 ^ 4 else 0
      ∃ (s' : State) (k : Core), Wrote { x with k := s'.core x.core } k f.d.toNat (fun _ => BitVec.ofNat 32 v) ∧
        Claims.CompletesOn (.suspq f) s s' x k x.w ∧ s'.mem = s.mem ∧ s'.wgs = s.wgs ∧ s'.seqs = s.seqs ∧
        ∀ c, s'.core c =
          if ∃ p ∈ set, p.2.2.core = c then
            { s.core c with array := { (s.core c).array with suspect := false, suspectAcc := false } } else s.core c)

/-- CYCLE, GENQ, SIGRD, SPSTAT, DBGBRK and SUSPQ give the lanes the state they report: the statements CountersAndStatus and
DebugBreak and SuspectFlags. -/
def Obligations.CountersBreaksAndSuspects : Prop := Parts.CountersAndStatus ∧ Parts.DebugBreak ∧ Parts.SuspectFlags

/-- REGACQ and REGREL (R30 to R33, R253): a REGACQ within the limits joins its quadrant's queue and the warp waits at it for
its grant (`BlocksAndGenerations`); REGREL gives the extended blocks back; a count of 0, one past six blocks, or one while
blocks are held traps with cause 16. -/
def Parts.RegisterBlocks : Prop :=
  ∀ (f : FS) (s : State) (x : Ctx), Clear x →
    let n := f.imm.toNat
    let quad := quadOf x.slot
    (Issues (.regacq f) s x → x.w.ext = 0 → 1 ≤ n → x.w.base + n ≤ 6 → x.w.round.st = .idle →
      Claims.Moves (.regacq f) s x
        { x.k with regacq := fput x.k.regacq quad ((fget x.k.regacq quad).getD [] ++ [(x.slot, n)]) }
        { x.w with hold := .regacq n } fun _ => x.e.pc) ∧
    (Issues (.regacq f) s x → (x.w.ext ≠ 0 ∨ n = 0 ∨ 6 < x.w.base + n) → speculative x.w = false → x.w.tvec ≠ 0 →
      x.w.handler = 0 → ∃ t, exec (.regacq f) s = .next t ∧ Claims.Enters s t x 16 0 0 x.e.pc (Claims.headerOf x)) ∧
    (Issues (.regrel f) s x → x.w.round.st = .idle →
      Completes (.regrel f) s x x.k { x.w with ext := 0, genExt := 0, blocks := x.w.blocks.take x.w.base })

namespace Sys2Proof.Claims

/-- Of what a workgroup held, a rollback keeps what a commit has made releasable, in its order, and what an external operation was
let do; of the append queue only resets (R142, R144, R147, R358). -/
def KeptOf (x y : Wg) : Prop :=
  let kept (rs : List Req) : List Nat := (rs.filter fun r => decide (r.id < x.ck.freeId) || r.external).map Req.id
  y.laneQ.map Req.id = kept x.laneQ ∧ y.copyQ.map Req.id = kept x.copyQ ∧ y.chanQ.map Req.id = kept x.chanQ ∧
    ∀ r ∈ y.appQ, (∃ n, r.kind = .sheadReset n) ∧ r.id ∈ x.appQ.map Req.id

end Sys2Proof.Claims

/-- CKPT and ROLLBK (R138, R148, R303), LIVE: in plain mode, or without active lanes, CKPT only goes on; in guarded and twin
mode a checkpoint is asked for and the warp waits past it. ROLLBK waits for the workgroup's earlier copy commands, of which those
under HOLD end with FAULTED or DEFERRED (R297), before commands that waited for others are tried again; in plain mode it replays
the launch: its workgroups are gone and it waits to run again; in guarded mode, with no checkpoint taken that is ready to commit
(R142), what the workgroup holds and no commit has made releasable is discarded (R147), and one more rollback is counted. -/
def Parts.CheckpointAndRollback : Prop :=
  ∀ (f : F3) (s : State) (x : Ctx), Clear x → speculative x.w = false →
    (Issues (.ckpt f) s x →
      (x.act = 0 ∨ x.l.rec_.mode = 0 → Completes (.ckpt f) s x x.k x.w) ∧
      (x.act ≠ 0 → x.l.rec_.mode ≠ 0 →
        Claims.CompletesOn (.ckpt f) s (s.updWg x.g fun g => { g with ck := { g.ck with again := true } }) x x.k
          { x.w with hold := .ckpt })) ∧
    (Issues (.rollbk f) s x →
      (x.act = 0 → Completes (.rollbk f) s x x.k x.w) ∧
      (x.act ≠ 0 → (∃ q ∈ x.k.copies, q.wg = x.g) →
        exec (.rollbk f) s = .next (copyRetry (s.setCore x.core { x.k with
          warps := fput x.k.warps x.slot { x.w with hold := .retry x.e.pc true }
          copies := x.k.copies.map fun q =>
            if q.wg ≠ x.g ∨ q.status.isSome = true then q
            else match q.wait with
              | .fault _ => decideCmd q 1 q.pos none
              | .defer _ => decideCmd q 2 q.pos none
              | _ => q }) x.core)) ∧
      (x.act ≠ 0 → (∀ q ∈ x.k.copies, q.wg ≠ x.g) → x.l.rec_.mode = 0 → x.l.phase = .running → x.l.attempt < 3 →
        orderedMaps s = true →
        ∃ t l, exec (.rollbk f) s = .next t ∧ fget t.launches x.wg.launch = some l ∧ l.phase = .replaying ∧ l.next = 0 ∧
          l.rec_ = x.l.rec_ ∧ ∀ p ∈ t.wgs, p.2.launch ≠ x.wg.launch) ∧
      (x.act ≠ 0 → (∀ q ∈ x.k.copies, q.wg ≠ x.g) → x.l.rec_.mode = 1 → x.wg.cg = none → x.wg.twin = none → x.wg.third = none →
        x.wg.ck.rollbacks < 8 → x.wg.ck.restoring = false → areaPoisoned s x.wg = false → commitsOf s x.g = [] →
        ∃ t g, exec (.rollbk f) s = .next t ∧ fget t.wgs x.g = some g ∧ Claims.KeptOf x.wg g ∧ g.sub = [] ∧
          g.ck.rollbacks = x.wg.ck.rollbacks + 1 ∧ g.ck.pending = none))

/-- REGACQ queues, REGREL gives blocks back, CKPT asks for a checkpoint, ROLLBK replays or discards: the statements
RegisterBlocks and CheckpointAndRollback. -/
def Obligations.BlocksCheckpointsRollbacks : Prop := Parts.RegisterBlocks ∧ Parts.CheckpointAndRollback

/-! ### Speculative rounds -/

/-- SPBEGIN (R80, R120, R300) in a warp with no round, of a descriptor within its limits, which is read with what the workgroup's
Brine holds laid over it, no access of its bytes being in progress: a round in GUESSING with a width of 1 to the descriptor's, one
more than the clones reserved, goes to S[d]; the lanes stand at the guess code; entry 0 holds the carries. -/
def Parts.RoundBegins : Prop :=
  ∀ (f : FS) (s : State) (x : Ctx) (d : LoopDesc) (base : Nat), Issues (.spbegin f) s x → Clear x →
    let o : Nat := (((scalarSrc s x f.a.toNat).toNat + f.imm.toInt) % 2 ^ 32).toNat
    o % 32 = 0 → o + 32 ≤ x.wg.size → o < 2 ^ 31 →
    (x.l.rec_.genTrap = true →
      rangeStale x.k x.wg.gen (x.wg.base + o) 32 = false ∨ allHeld s x.g x.core (x.wg.base + o) 32 = true) →
    ownBad s x x.wg.gen (x.wg.base + o) 32 = false → overlaps x (fun _ => 0xFF_0000_0000_0000 + o) 32 false = false →
    loopDesc (ownNat s x x.wg.gen (x.wg.base + o) 32) = some d → x.w.round.st = .idle →
    findRoom s x.core (d.psize * 1024) = some base →
    f.d.toNat < 24 → x.w.sregs.length = 24 →
    ∃ t w, exec (.spbegin f) s = .next t ∧ t.warp? x.core x.slot = some w ∧ w.round.st = .guessing ∧ 1 ≤ w.round.width ∧
      w.round.width ≤ max 1 d.width ∧ w.round.reserved.length + 1 = w.round.width ∧
      w.sregs.getD f.d.toNat 0 = BitVec.ofNat 32 w.round.width ∧ w.round.privBase = base ∧ w.round.psize = d.psize ∧
      w.round.nc = d.nc ∧ w.round.masks = d.masks ∧ fget w.round.entries 0 = some (w.sregs.take d.nc) ∧ t.mem = s.mem ∧
      ∀ l, hasLane x.e.mask l = true → laneAt t x.core x.slot l d.guess

/-- SPGUESS (R121, R122, R301): below the width it records the carries as entry i, and the warp goes on; SPGUESS.last with no
access outstanding and generations to take starts the round: instance 0 is LIVE at the return point with the carries of entry
0, and each reserved clone whose guesses are written is a SPECULATIVE instance there with the carries of its entry. -/
def Parts.RoundGuesses : Prop :=
  ∀ (f : FS) (s : State) (x : Ctx), Issues (.spguess f) s x → Clear x → x.w.round.st = .guessing →
    let i := f.imm.toNat % 8
    let r := x.w.round
    i ≠ 0 →
    let es := if i < r.width then fput r.entries i (x.w.sregs.take r.nc) else r.entries
    let m := ((List.range (r.width - 1)).takeWhile fun n => (fget es (n + 1)).isSome).length
    (f.imm.getLsbD 3 = false → Completes (.spguess f) s x x.k { x.w with round := { r with entries := es } }) ∧
    (f.imm.getLsbD 3 = true → x.w.pend = [] → gensReady s x.core (startGens x.w m) = true →
      (x.slot :: r.reserved.map Reserve.slot).Nodup → m ≤ r.reserved.length →
      ∃ t w, exec (.spguess f) s = .next t ∧ t.warp? x.core x.slot = some w ∧ w.round.st = .running ∧ w.round.inst = 0 ∧
        w.round.ist = .live ∧ w.round.width = m + 1 ∧ t.mem = s.mem ∧
        (∀ l, hasLane x.e.mask l = true → laneAt t x.core x.slot l r.ret) ∧
        ∀ n c, n < m → (r.reserved[n]?) = some c →
          ∃ v, t.warp? x.core c.slot = some v ∧ v.round.st = .running ∧ v.round.inst = n + 1 ∧ v.round.ist = .speculative ∧
            v.live = x.w.live ∧ v.blocks = c.blocks ∧
            (∀ j, j < x.w.sregs.length → v.sregs.getD j 0 =
              ((fget es (n + 1)).getD []).getD j (((fget es 0).getD []).getD j (x.w.sregs.getD j 0))) ∧
            ∀ l, hasLane x.w.live l = true → laneAt t x.core c.slot l r.ret)

/-- SPCMP and SPEND in a live instance (R124, R125, R127, R131): SPCMP with a matching successor ends the warp, and the
successor is LIVE with one more committed iteration; otherwise the instances above are squashed, and the warp goes on as the
continuing one, with one more iteration unless SPEND had made it continuing before (the model's reading, log 82); SPEND of a live
instance squashes and continues, of a continuing one closes the round. -/
def Parts.RoundCompares : Prop :=
  ∀ (f : FS) (s : State) (x : Ctx), Clear x → speculative x.w = false → x.w.round.st = .running →
    let r := x.w.round
    let s' := squashAbove s x.core x.slot
    (Issues (.spcmp f) s x → r.cmpDone = false →
      (∀ p, successor x = some p → carriesMatch x.w p.2.round.inst = false) →
      gensReady s x.core (squashGens x) = true →
      Claims.CompletesOn (.spcmp f) s s' x (s'.core x.core)
        { x.w with round := { r with
          ist := .continuing, cmpDone := true, committed := if r.ist = .live then r.committed + 1 else r.committed } }) ∧
    (Issues (.spcmp f) s x → r.cmpDone = false → orderedMaps s = true →
      ∀ slot v, successor x = some (slot, v) → carriesMatch x.w v.round.inst = true → slot ≠ x.slot → s.warp? x.core slot = some v →
        ∃ t w, exec (.spcmp f) s = .next t ∧ t.warp? x.core x.slot = none ∧ t.warp? x.core slot = some w ∧ w.round.ist = .live ∧
          w.round.committed = r.committed + 1 ∧ w.sregs = v.sregs ∧ w.frontier = v.frontier ∧ t.mem = s.mem) ∧
    (Issues (.spend f) s x → r.ist = .live → gensReady s x.core (squashGens x) = true →
      Claims.CompletesOn (.spend f) s s' x (s'.core x.core) { x.w with round := { r with ist := .continuing } }) ∧
    (Issues (.spend f) s x → r.ist ≠ .live →
      Completes (.spend f) s x x.k
        { x.w with round := { r with st := .idle, inst := 0, ist := .none, privGen := 0, psize := 0 } })
/-- SPBEGIN, SPGUESS, SPCMP and SPEND run a round: guesses, instances, comparisons, squashes and its end: the statements
RoundBegins and RoundGuesses and RoundCompares. -/
def Obligations.SpeculativeRounds : Prop := Parts.RoundBegins ∧ Parts.RoundGuesses ∧ Parts.RoundCompares

/-! ### Moves of the cores and their upkeep -/

namespace Sys2Proof.Claims

/-- The generation taken next (R113): one more than the counter, and 1 where that is 0 modulo 65,536. -/
def following (k : Core) : Nat := if (k.gen + 1) % 65536 = 0 then 1 else (k.gen + 1) % 65536

/-- A live allocation of a core: its generation, its register rows, its granules (Table 5.1). -/
def allocation (s : State) (c : Nat) : AllocId → Option (Nat × (Nat → Prop) × (Nat → Prop))
  | .wg g => match fget s.wgs g with
    | some x => if x.core = c ∧ x.phase ≠ .saved ∧ x.phase ≠ .ended then
        some (x.gen, fun _ => False, fun n => x.base / 64 ≤ n ∧ n < (x.base + x.size + 63) / 64) else none
    | none => none
  | .base sl => match s.warp? c sl with
    | some w => some (w.genBase, fun r => r / 384 = sl / 12 ∧ r % 384 / 16 ∈ w.blocks.take w.base, fun _ => False)
    | none => none
  | .ext sl => match s.warp? c sl with
    | some w => if w.ext = 0 then none else
        some (w.genExt, fun r => r / 384 = sl / 12 ∧ r % 384 / 16 ∈ w.blocks.drop w.base, fun _ => False)
    | none => none
  | .priv sl => match s.warp? c sl with
    | some w => if w.round.st = .running ∧ w.round.psize ≠ 0 then
        some (w.round.privGen, fun _ => False,
          fun n => w.round.privBase / 64 ≤ n ∧ n < (w.round.privBase + w.round.psize * 1024 + 63) / 64) else none
    | none => none

/-- Is a tag half the counter's range or more behind a sweep's start, and not one given since, when the counter has come to a
generation (R114, log 78)? -/
def old (start gen tag : Nat) : Prop :=
  tag ≠ 0 ∧ 32768 ≤ (start + 65536 - tag) % 65536 ∧ (gen + 65536 - start) % 65536 < (tag + 65536 - start) % 65536

/-- The register row or the granule of a halted warp that a debug command names. -/
def debugged (s : State) (c : Nat) (u : DbgUnit) : Prop :=
  match u with
  | .row sl r => ∃ w, s.warp? c sl = some w ∧ w.halted = true ∧ r / 16 < w.base + w.ext
  | .granule o => ∃ p x, p ∈ (s.core c).warps ∧ p.2.halted = true ∧ fget s.wgs p.2.wg = some x ∧ x.core = c ∧
      x.base ≤ o / 64 * 64 ∧ o / 64 * 64 + 64 ≤ x.base + x.size

end Sys2Proof.Claims

/-- AGED_ENTRY_TO_HEAD, SLEEP_EXPIRY, OVERFLOW_REJOIN and FAULT_REJOIN (R17, R19, R240): an entry whose count has reached
1,024 stands behind the entries aged before it and before all others; a sleeping warp whose cycle has come holds no more; the
oldest overflow record, or the oldest record of a resolved fault, rejoins where there is room, and one whose fault cannot be
resolved traps with BOUNDS at its address. -/
def Obligations.FrontierMoves : Prop :=
  (∀ (c sl n : Nat) (s : State) (w : Warp) (e : Entry), s.warp? c sl = some w → w.frontier[n]? = some e → 1024 ≤ e.age →
    e.aged = none → (w.frontier.map Entry.pc).Nodup → (∀ y ∈ w.frontier, y.mask ≠ 0 ∧ ∀ a, y.aged = some a → a < w.nextSeq) →
    ∃ (fr : List Entry) (i : Nat),
      exec (.agedEntryToHead c sl n) s = .next (s.setWarp c sl { w with frontier := fr, nextSeq := w.nextSeq + 1 }) ∧
      fr[i]? = some { e with aged := some w.nextSeq } ∧
      (∀ y, y ∈ fr ↔ y = { e with aged := some w.nextSeq } ∨ (y ∈ w.frontier ∧ y.pc ≠ e.pc)) ∧
      ∀ (j : Nat) (y : Entry), fr[j]? = some y → (j < i → Entry.aged y ≠ none) ∧ (i < j → Entry.aged y = none)) ∧
  (∀ (c sl u : Nat) (s : State) (w : Warp), s.warp? c sl = some w → w.hold = .sleep u → u ≤ (s.core c).cycle →
    exec (.sleepExpiry c sl) s = .next (s.setWarp c sl { w with hold := .none })) ∧
  (∀ (c sl : Nat) (s : State) (w : Warp) (p : Park), s.warp? c sl = some w → p ∈ w.parks →
    w.frontier.length + w.held.length ≤ 7 →
    let back (t : State) : Prop := ∃ fr hd,
      t = s.setWarp c sl { w with frontier := fr, held := hd, parks := w.parks.filter fun q => decide (q.seq ≠ p.seq) } ∧
      (∀ e ∈ w.frontier, ∀ l, hasLane e.mask l = true → laneAt t c sl l e.pc) ∧
      (if w.handler = 0 ∨ p.mask &&& w.handler ≠ 0 then ∀ l, hasLane p.mask l = true → laneAt t c sl l p.pc
       else ∀ l, hasLane p.mask l = true → ∃ e ∈ hd, hasLane e.mask l = true ∧ e.pc = p.pc)
    let ready (q : Park) : Prop := q.reason = .xlateError ∨ (q.reason = .xlateFault ∧ q.resolved = true)
    (p.reason = .overflow → (∀ q ∈ w.parks, q.reason = .overflow → q ≠ p → p.seq < q.seq) →
      ∃ t, exec (.overflowRejoin c sl) s = .next t ∧ back t) ∧
    (ready p → (∀ q ∈ w.parks, ready q → q ≠ p → p.seq < q.seq) →
      (p.reason = .xlateFault → ∃ t, exec (.faultRejoin c sl) s = .next t ∧ back t) ∧
      (p.reason = .xlateError → w.handler = 0 → w.tvec ≠ 0 → speculative w = false →
        ∃ t v, exec (.faultRejoin c sl) s = .next t ∧ t.warp? c sl = some v ∧ v.tcause = 17 ∧ v.taddr = p.va ∧ v.tpc = p.pc ∧
          v.handler = p.mask ∧ v.tmask = p.mask ∧ t.mem = s.mem ∧
          ∀ l, hasLane p.mask l = true → laneAt t c sl l w.tvec)))

/-- REGACQ_GRANT, TAG_SWEEP and GENERATION_RENEWAL (R31, R112, R113, R114): the request at the head of a quadrant's queue gets
that many free blocks under the generation taken next, and its lanes go on; a sweep that completes clears exactly the old tags
of the granules and rows it has still to test, granules first, sparing tags given since its start, and the next starts at the
counter's value (the sweep's order, that it may be ended at once and what it spares are the model's choice, log 78); an
allocation of age 16,384 or more takes the next generation, and its rows and granules that bore the old one bear the new one,
no others: nothing that was stale reads as data, and no data changes. -/
def Obligations.BlocksAndGenerations : Prop :=
  (∀ (s : State) (c q slot b : Nat) (rest : List (Nat × Nat)) (w : Warp), fget (s.core c).regacq q = some ((slot, b) :: rest) →
    s.warp? c slot = some w → b ≤ (freeBlocks (s.core c) q).length → genReady s c = true →
    ∃ t w' bs, exec (.regacqGrant c q) s = .next t ∧ t.warp? c slot = some w' ∧ bs.length = b ∧
      (∀ y ∈ bs, y ∈ freeBlocks (s.core c) q) ∧
      w' = { w with
        blocks := w.blocks ++ bs, ext := b, genExt := Claims.following (s.core c), hold := .none, frontier := w'.frontier } ∧
      t = s.setCore c { s.core c with
        gen := Claims.following (s.core c), regacq := fput (s.core c).regacq q rest, warps := fput (s.core c).warps slot w' } ∧
      ∀ e ∈ w.frontier, ∀ l, hasLane e.mask l = true → laneAt t c slot l (e.pc + 4)) ∧
  (∀ (s : State) (c : Nat), risingFrom 0 (s.core c).tags = true →
    ∃ k, exec (.tagSweep c) s = .next (s.setCore c k) ∧
      k = { s.core c with
        tags := k.tags, rows := k.rows, sweepPos := 0, sweepDone := (s.core c).sweepNow, sweepNow := (s.core c).gen } ∧
      let old := Claims.old (s.core c).sweepNow (s.core c).gen
      ∀ n,
        let grain : Prop := (s.core c).sweepPos ≤ n ∧ old (granTag (s.core c) n)
        let row : Prop := (s.core c).sweepPos ≤ n + 11264 ∧ old (rowAt (s.core c) n).tag
        (grain → granTag k n = 0) ∧ (¬ grain → granTag k n = granTag (s.core c) n) ∧
        (rowAt k n).data = (rowAt (s.core c) n).data ∧
        (row → (rowAt k n).tag = 0) ∧ (¬ row → (rowAt k n).tag = (rowAt (s.core c) n).tag)) ∧
  (∀ (s : State) (c : Nat) (a : AllocId) (g : Nat) (rows grans : Nat → Prop), Claims.allocation s c a = some (g, rows, grans) →
    g ≠ 0 → 16384 ≤ ((s.core c).gen + 65536 - g) % 65536 → genReady s c = true →
    let h := Claims.following (s.core c)
    ∃ t, exec (.generationRenewal c a) s = .next t ∧ Claims.allocation t c a = some (h, rows, grans) ∧
      t = { s with cores := t.cores, wgs := t.wgs } ∧ (∀ d, d ≠ c → fget t.cores d = fget s.cores d) ∧ (t.core c).gen = h ∧
      (t.core c).data = (s.core c).data ∧
      ∀ n,
        (rowAt (t.core c) n).data = (rowAt (s.core c) n).data ∧
        (rows n → (rowAt (s.core c) n).tag = g → (rowAt (t.core c) n).tag = h) ∧
        (¬ (rows n ∧ (rowAt (s.core c) n).tag = g) → (rowAt (t.core c) n).tag = (rowAt (s.core c) n).tag) ∧
        (grans n → granTag (s.core c) n = g → granTag (t.core c) n = h) ∧
        (¬ (grans n ∧ granTag (s.core c) n = g) → granTag (t.core c) n = granTag (s.core c) n))

/-- The debug commands (R118, R240, R249, R363): a halt stops a warp, a resume lets it go on and ends a SLEEP without end
(count 0xFFFF_FFFF, R240), a release ends a wait at DBGBRK. A read of a register row or a granule of a halted warp gives its
contents and its tag as they are, stale or not, into companion memory, the tag after the data, and to the debug list, and
changes nothing of the core; a write changes the lanes or bytes given, and the tag if one is given, and nothing else. A
command that names no such place answers with an error. The layout of the answers and the list are the model's choice (log
42). -/
def Parts.DebugCommands : Prop :=
  (∀ (s : State) (c sl : Nat) (w : Warp), s.warp? c sl = some w → bootStopped s = false →
    exec (.debugHalt c sl) s = .next (s.setWarp c sl { w with halted := true }) ∧
    exec (.debugResume c sl) s =
      .next (s.setWarp c sl { w with halted := false, hold := if w.hold = .sleepForever then .none else w.hold }) ∧
    exec (.debugRelease c sl) s = .next (s.setWarp c sl { w with hold := if w.hold = .debug then .none else w.hold })) ∧
  (∀ (s : State) (c : Nat) (u : DbgUnit) (dst : Nat) (data : List (Nat × BitVec 32)) (tag : Option (BitVec 16)),
    ¬ Claims.debugged s c u → bootStopped s = false →
    exec (.debugRead c u dst) s = .next { s with debug := s.debug ++ [.error] } ∧
    exec (.debugWrite c u data tag) s = .next { s with debug := s.debug ++ [.error] }) ∧
  (∀ (s : State) (c sl r dst : Nat) (w : Warp), Claims.debugged s c (.row sl r) → s.warp? c sl = some w →
    bootStopped s = false →
    let old := rowAt (s.core c) (rowKey sl w r)
    memWf s.cmem = true → old.data.length = 32 → old.tag < 65536 →
    (∃ m, exec (.debugRead c (.row sl r) dst) s =
        .next { s with debug := s.debug ++ [.row old.tag old.data], cmem := m } ∧
      (∀ l, l < 32 → memNat m (dst + 4 * l) 4 = (old.data.getD l 0).toNat) ∧ memNat m (dst + 128) 2 = old.tag ∧
      ∀ a, a < dst ∨ dst + 130 ≤ a → memRead m a = memRead s.cmem a) ∧
    ∀ (data : List (Nat × BitVec 32)) (tag : Option (BitVec 16)), (data.map Prod.fst).Nodup →
      ∃ rows, exec (.debugWrite c (.row sl r) data tag) s = .next (s.setCore c { s.core c with rows := rows }) ∧
        let k := { s.core c with rows := rows }
        (∀ n, n ≠ rowKey sl w r → rowAt k n = rowAt (s.core c) n) ∧
        (rowAt k (rowKey sl w r)).tag = (match tag with | some g => g.toNat | none => old.tag) ∧
        ∀ l, l < 32 → (rowAt k (rowKey sl w r)).data.getD l 0 = (data.lookup l).getD (old.data.getD l 0)) ∧
  (∀ (s : State) (c o dst : Nat), Claims.debugged s c (.granule o) → bootStopped s = false →
    let n := o / 64
    memWf s.cmem = true → memWf (s.core c).data = true → risingFrom 0 (s.core c).tags = true → granTag (s.core c) n < 65536 →
    (∃ m, exec (.debugRead c (.granule o) dst) s =
        .next { s with
          debug := s.debug ++ [.granule (granTag (s.core c) n) (memBytes (s.core c).data (64 * n) 64)]
          cmem := m } ∧
      (∀ i, i < 64 → memRead m (dst + i) = memRead (s.core c).data (64 * n + i)) ∧
      memNat m (dst + 64) 2 = granTag (s.core c) n ∧
      ∀ a, a < dst ∨ dst + 66 ≤ a → memRead m a = memRead s.cmem a) ∧
    ∀ (data : List (Nat × BitVec 32)) (tag : Option (BitVec 16)), (data.map Prod.fst).Nodup →
      ∃ d tags, exec (.debugWrite c (.granule o) data tag) s = .next (s.setCore c { s.core c with data := d, tags := tags }) ∧
        let k := { s.core c with data := d, tags := tags }
        (∀ i, i < 64 → memRead d (64 * n + i) =
          match data.lookup i with | some v => v.setWidth 8 | none => memRead (s.core c).data (64 * n + i)) ∧
        (∀ a, a / 64 ≠ n → memRead d a = memRead (s.core c).data a) ∧
        (∀ j, j ≠ n → granTag k j = granTag (s.core c) j) ∧
        granTag k n = match tag with | some g => g.toNat | none => granTag (s.core c) n)

/-- INBOUND_ACCESS and INBOUND_PEER_ACCESS (R91, R361, R365, R393): a companion access to stacked DRAM reads, writes, adds, or
compares and swaps there and is answered, one outside it is answered with an error; a peer access to an export that is not valid,
with another key or past its size is answered with an error and posts a REMOTE record; one of a page that its export's space maps
is performed there, and one to a ring export is a message; a marked write waits behind a waiting write of the companion to the
device (R91). After a boot failure every access is answered with an error (R407; the answer is the model's choice, log 89). -/
def Parts.InboundAccesses : Prop :=
  (∀ (s : State) (a : InboundAccess) (k e : Nat) (key : BitVec 16) (initiator : Nat), bootStopped s = true →
    exec (.inboundAccess a) s = .next { s with linkOut := s.linkOut ++ [.answer none none true] } ∧
    exec (.inboundPeerAccess k e key initiator a) s =
      .next { s with linkOut := s.linkOut ++ [.answer (some initiator) none true] }) ∧
  (∀ (s : State) (a : InboundAccess), 0 < a.size → s.inWait = [] → bootStopped s = false →
    let inDram := a.addr / 2 ^ 37 < 4 ∧ a.addr % 2 ^ 37 + a.size ≤ Config.dieDram
    let clean := s.aside = [] ∧ s.poison = [] ∧ (s.die (a.addr / 2 ^ 37)).stopped = false
    (¬ inDram → exec (.inboundAccess a) s = .next { s with linkOut := s.linkOut ++ [.answer none none true] }) ∧
    (inDram → clean → a.kind = .read →
      exec (.inboundAccess a) s =
        .next { s with linkOut := s.linkOut ++ [.answer none (some (memNat s.mem a.addr a.size)) false] }) ∧
    (∀ b, inDram → clean → a.kind = .write b → b.length = a.size → memWf s.mem = true →
      ∃ m, exec (.inboundAccess a) s = .next { s with linkOut := s.linkOut ++ [.answer none none false], mem := m } ∧
        (∀ i, i < a.size → memRead m (a.addr + i) = b.getD i 0) ∧
        ∀ j, j < a.addr ∨ a.addr + a.size ≤ j → memRead m j = memRead s.mem j) ∧
    (∀ n y, inDram → clean → a.kind = .atomicAdd n y → a.size = n → n = 4 ∨ n = 8 → memWf s.mem = true →
      ∃ m, exec (.inboundAccess a) s =
          .next { s with linkOut := s.linkOut ++ [.answer none (some (memNat s.mem a.addr n)) false], mem := m } ∧
        memNat m a.addr n = (memNat s.mem a.addr n + y.toNat) % 2 ^ (8 * n) ∧
        ∀ j, j < a.addr ∨ a.addr + a.size ≤ j → memRead m j = memRead s.mem j) ∧
    (∀ n x y, inDram → clean → a.kind = .cas n x y → a.size = n → n = 4 ∨ n = 8 → memWf s.mem = true →
      let old := memNat s.mem a.addr n
      ∃ m, exec (.inboundAccess a) s = .next { s with linkOut := s.linkOut ++ [.answer none (some old) false], mem := m } ∧
        memNat m a.addr n = (if old = x.toNat % 2 ^ (8 * n) then y.toNat % 2 ^ (8 * n) else old) ∧
        ∀ j, j < a.addr ∨ a.addr + a.size ≤ j → memRead m j = memRead s.mem j)) ∧
  (∀ (s : State) (k e : Nat) (key : BitVec 16) (initiator : Nat) (a : InboundAccess), a.kind = .read → 0 < a.size →
    s.inWait = [] → bootStopped s = false →
    let x := exportOf s k e
    let va := x.base + a.addr
    ((x.valid = false ∨ x.key ≠ key ∨ x.size * 65536 < a.addr + a.size) → (s.dev k).fqen = false →
      ∃ r, exec (.inboundPeerAccess k e key initiator a) s =
          .next { s.setDev k { s.dev k with fqwait := (s.dev k).fqwait ++ [r] } with
            linkOut := s.linkOut ++ [.answer (some initiator) none true] } ∧
        r.kind = 9 ∧ r.addr = va ∧ r.access = 65 ∧ r.info = initiator) ∧
    (∀ s1 pa, x.valid = true → x.key = key → a.addr + a.size ≤ x.size * 65536 → a.addr % 65536 + a.size ≤ 65536 →
      va < 2 ^ 56 → regionOf va = .paged → inXlate s k x.space va a.size 1 = (s1, .ok pa) → s1.aside = [] → s1.poison = [] →
      (s1.die (homeDie s1 k pa)).stopped = false →
      exec (.inboundPeerAccess k e key initiator a) s =
        .next { s1 with linkOut := s1.linkOut ++ [.answer (some initiator) (some (physNat s1 k pa a.size)) false] })) ∧
  (∀ (s s1 : State) (k e : Nat) (key : BitVec 16) (initiator : Nat) (a : InboundAccess) (b : List Byte),
    s.inWait = [] → bootStopped s = false → (exportOf s k e).ring = true → a.kind = .write b → b.length = 4 → a.size = 4 →
    exportRing s k e key a.addr (natOfBytes b) = .put s1 →
    exec (.inboundPeerAccess k e key initiator a) s =
      .next { s1 with linkOut := s1.linkOut ++ [.answer (some initiator) none false] }) ∧
  (∀ (s : State) (a b : InboundAccess) (v w : List Byte), bootStopped s = false → a.marked = true → a.kind = .write v →
    b.kind = .write w →
    { initiator := none, via := none, checked := none, access := b } ∈ s.inWait →
    devOfDie s.pkg.mode (a.addr / 2 ^ 37) = devOfDie s.pkg.mode (b.addr / 2 ^ 37) →
    exec (.inboundAccess a) s = .next { s with inWait := s.inWait ++ [{ initiator := none, via := none, checked := none, access := a }] })

/-- Debug commands, companion accesses and peer accesses do what the host interface says, or answer an error: the statements
DebugCommands and InboundAccesses. -/
def Obligations.OutsideAccesses : Prop := Parts.DebugCommands ∧ Parts.InboundAccesses

/-! ### Vesper -/

/-- GRACE_PERIOD_START, FLIP_ADOPT, FLIP_ACK, DRAIN_POLL and GRACE_PERIOD_COMPLETE (R96 to R99), in a domain of one device:
when a grace period is asked for and none is in progress, F becomes C + 1 at the device node and at its die nodes; a core
takes its die's F and phase, unless its die's clock is stopped (R421); a node hears a child once the child, and all below it,
has the flip; a die's poll collects the cores whose count of the old phase is 0 and reports once all are and no record or
checkpoint of the phase is left; when every die has reported and nothing moved, C becomes F at every node and core. -/
def Parts.GracePeriods : Prop :=
  (∀ (s : State) (k : Nat), (s.dev k).span = false → (s.dev k).vesper.f = (s.dev k).vesper.c →
    wantsGrace s k (s.dev k).vesper.c = true →
    let f := ((s.dev k).vesper.c + 1) % 2 ^ 32
    ∃ t, exec (.gracePeriodStart k) s = .next t ∧ t = { s with devs := t.devs, dies := t.dies, linkOut := t.linkOut } ∧
      (t.dev k).vesper = { (s.dev k).vesper with f := f, phase := f % 2, acks := [], drained := [], poll := none } ∧
      ∀ d ∈ diesOfDev s.pkg.mode k,
        t.die d = { s.die d with
          vesper := { (s.die d).vesper with f := f, phase := f % 2, acks := [], drained := [], poll := none }
          flipAt := (s.die d).cycle }) ∧
  (∀ (s : State) (c : Nat), (s.core c).f ≠ (s.die (c / 160)).vesper.f →
    exec (.flipAdopt c) s =
      if (s.die (c / 160)).stopped then .next s
      else .next (s.setCore c { s.core c with
        f := (s.die (c / 160)).vesper.f, phase := (s.die (c / 160)).vesper.f % 2 })) ∧
  (∀ (s : State) (d j : Nat), let v := (s.die d).vesper
    v.f ≠ v.c → j < 160 → j ∉ v.acks → (s.core (d * 160 + j)).f = v.f →
    exec (.flipAck (.die d) j) s = .next (s.setDie d { s.die d with vesper := { v with acks := v.acks ++ [j] } })) ∧
  (∀ (s : State) (k d : Nat), let v := (s.dev k).vesper
    (s.dev k).span = false → v.f ≠ v.c → d ∈ diesOfDev s.pkg.mode k → d ∉ v.acks → (s.die d).vesper.f = v.f →
    (∀ j, j < 160 → j ∈ (s.die d).vesper.acks) →
    exec (.flipAck (.dev k) d) s = .next (s.setDev k { s.dev k with vesper := { v with acks := v.acks ++ [d] } })) ∧
  (∀ (s : State) (d : Nat),
    let v := (s.die d).vesper
    let k := devOfDie s.pkg.mode d
    let ph := (v.f + 2 ^ 32 - 1) % 2
    v.f ≠ v.c → (s.dev k).span = false → (∀ e ∈ diesOfDev s.pkg.mode k, e ∈ (s.dev k).vesper.acks) → v.poll = none →
    ((∃ j, j < 160 ∧ cntOf s (d * 160 + j) ph ≠ 0) →
      exec (.drainPoll (.die d)) s = .next (s.setDie d { s.die d with
        vesper := { v with
          poll := some v.moves
          drained := (List.range 160).filter fun j => decide (cntOf s (d * 160 + j) ph = 0) } })) ∧
    ((∀ j, j < 160 → cntOf s (d * 160 + j) ph = 0) →
      (if ph = 0 then (s.die d).parked0 = 0 ∧ (s.die d).ck0 = 0 else (s.die d).parked1 = 0 ∧ (s.die d).ck1 = 0) →
      (s.dev k).vesper.poll ≠ none →
      ∃ t, exec (.drainPoll (.die d)) s = .next t ∧ t = { s with devs := t.devs, dies := t.dies } ∧
        d ∈ (t.dev k).vesper.drained ∧ (∀ e ∈ (s.dev k).vesper.drained, e ∈ (t.dev k).vesper.drained) ∧
        t.die d = { s.die d with vesper := { v with poll := none, drained := [] } })) ∧
  (∀ (s : State) (k : Nat), let v := (s.dev k).vesper
    v.f ≠ v.c → (s.dev k).span = false → (∀ d ∈ diesOfDev s.pkg.mode k, d ∈ v.acks ∧ d ∈ v.drained) → v.poll = some v.moves →
    ∃ t, exec (.gracePeriodComplete k) s = .next t ∧
      t = { s with devs := t.devs, dies := t.dies, cores := t.cores } ∧
      (t.dev k).vesper = { v with c := v.f, poll := none, drained := [] } ∧
      (∀ d ∈ diesOfDev s.pkg.mode k,
        t.die d = { s.die d with vesper := { (s.die d).vesper with c := v.f }, monitors := (t.die d).monitors }) ∧
      ∀ j ∈ coresOfDev s k, t.core j = { s.core j with c := v.f })

/-- RETIRE_ENTRY_APPEND and RETIRE_ACTION (R100 to R102, Table 4.2): a RETIRE at its device node appends one entry per lane,
in lane order, GSEQ F + 1 at a root, the device node of a pod's root device being one (the model's choice, log 88), and F + 2
below one, and gives each lane its GSEQ; an entry is written to the next place
of the queue's ring. The oldest entry of a completed grace period pushes its object to the queue its ARG names, or stores 1 at
ARG, or is notified, and leaves the queue; one that cannot be acted on is notified with the action in SUB. -/
def Parts.RetireMoves : Prop :=
  (∀ (s : State) (r : Req) (act k : Nat), arrived s r.id = some r → r.kind = .retire act → r.target = .node k →
    let g := ((s.dev k).vesper.f + (if (s.dev k).span = true ∧ (s.dev k).rootdev ≠ (s.dev k).devnum then 2 else 1)) % 2 ^ 32
    let entry (o : LaneOp) : RetireEntry :=
      { space := r.space, act := act, ph := (g + 2 ^ 32 - 1) % 2, gseq := g, size := o.swap % 2 ^ 32, arg := o.data, addr := o.va }
    ∃ t, exec (.retireEntryAppend r.id) s = .next t ∧
      t = { s with devs := t.devs, mem := t.mem, net := s.net.filter fun q => decide (q.id ≠ r.id), msgs := t.msgs } ∧
      (t.dev k).retire = (s.dev k).retire ++ r.lanes.map entry ∧ (t.dev k).rqtotal = (s.dev k).rqtotal + r.lanes.length ∧
      (fget s.wgs r.wg ≠ none →
        ∃ m, t.msgs = s.msgs ++ [m] ∧ m.values = r.lanes.map (fun o => (o.lane, g)) ∧ m.req = r.id ∧ m.pend = r.pend ∧
          m.kind = if r.pend.isSome then .value else .ack) ∧
      ∀ o a, r.lanes = [o] → memWf s.mem = true →
        apOf s k ((s.dev k).rqbase + 32 * ((s.dev k).rqtotal % 2 ^ (s.dev k).rqlog2n)) = some a →
        memNat t.mem a 32 = (r.space * 2 ^ 208 + act * 2 ^ 193 + (entry o).ph * 2 ^ 192 + g * 2 ^ 160 + (entry o).size * 2 ^ 128 +
            o.data * 2 ^ 64 + o.va) % 2 ^ 256 ∧
          ∀ b, b < a ∨ a + 32 ≤ b → memRead t.mem b = memRead s.mem b) ∧
  (∀ (s : State) (k : Nat) (e : RetireEntry) (rest : List RetireEntry), (s.dev k).retire = e :: rest →
    serialGe (s.dev k).vesper.c e.gseq = true →
    let d := wqDesc s k (e.arg % 4096)
    let home := homeCore s k d.at_
    let notified (sub : Nat) : Prop := (s.dev k).fqen = false →
      ∃ n, exec (.retireAction k) s = .next (s.setDev k { s.dev k with fqwait := (s.dev k).fqwait ++ [n], retire := rest }) ∧
        n.kind = 7 ∧ n.sub = sub ∧ n.addr = e.addr ∧ n.space = e.space ∧ n.info = e.arg ∧ n.entry ≠ none
    (e.act = 2 ∨ e.act = 3 → notified 3) ∧
    (e.act = 0 → (wqOkDesc d = false ∨ 2 ^ d.log2n ≤ wqCount d) → notified 0) ∧
    (∀ s1 pa a, e.act = 1 → awayXlate s k (dieAt s.pkg.mode k 0) none 0 e.space e.arg true 2 = (s1, .ok pa) → apOf s1 k pa = some a →
      memWf s1.mem = true →
      ∃ m, exec (.retireAction k) s =
          .next { s1.setDev k { s1.dev k with retire := (s1.dev k).retire.drop 1 } with mem := m } ∧
        memNat m a 8 = 1 ∧ ∀ b, b < a ∨ a + 8 ≤ b → memRead m b = memRead s1.mem b) ∧
    (∀ s1 pa a b, e.act = 0 → wqOkDesc d = true → wqCount d < 2 ^ d.log2n →
      awayXlate s k (home / 160) (some home) 0 d.space (wqSlot d d.tail) true 2 = (s1, .ok pa) → apOf s1 k pa = some a →
      apOf s1 k (pa + 8) = some (a + 8) → apOf s1 k (d.at_ + 24) = some b → a + 16 ≤ b ∨ b + 8 ≤ a → memWf s1.mem = true →
      fget (s1.dev k).wq (e.arg % 4096) = none →
      ∃ m, exec (.retireAction k) s =
          .next { s1.setDev k { s1.dev k with retire := (s1.dev k).retire.drop 1 } with mem := m } ∧
        memNat m a 8 = e.addr % 2 ^ 64 ∧ memNat m (a + 8) 8 = e.size % 2 ^ 64 ∧ memNat m b 8 = (d.tail + 1) % 2 ^ 64 ∧
        ∀ c, (c < a ∨ a + 16 ≤ c) → (c < b ∨ b + 8 ≤ c) → memRead m c = memRead s1.mem c))

/-- A grace period flips, drains and completes; a retire queue appends and acts on its oldest entry: the statements
GracePeriods and RetireMoves. -/
def Obligations.GraceAndRetireMoves : Prop := Parts.GracePeriods ∧ Parts.RetireMoves

/-! ### Requests where they are performed, and what comes back -/

namespace Sys2Proof.Claims

/-- A request has been answered: it travels no more, and if its workgroup is still there, one message brings it these values
and predicates, or acknowledges it, after its way through the mesh (R77, R88, R258). -/
def answered (s t : State) (r : Req) (vs : List (Nat × Nat)) (ps : List (Nat × Bool)) : Prop :=
  t.net = s.net.filter (fun q => decide (q.id ≠ r.id)) ∧
    if fget s.wgs r.wg = none then t.msgs = s.msgs
    else ∃ n sr fl, t.msgs = s.msgs ++
      [{ kind := if r.pend.isSome then .value else .ack, core := r.core, slot := r.slot, wg := r.wg, req := r.id, path := r.path
         pend := r.pend, cmd := r.cmd, values := vs, preds := ps, lane := n, cause := 0, addr := 0, src := sr, flits := fl }]

/-- The bytes of two memories agree outside n bytes at a. -/
def outside (m m' : Mem) (a n : Nat) : Prop := ∀ b, b < a ∨ a + n ≤ b → memRead m' b = memRead m b

/-- Only memory, what travels and the messages may have changed. -/
def served (s t : State) : Prop := t = { s with mem := t.mem, net := t.net, msgs := t.msgs }

end Sys2Proof.Claims

/-- HOME_SLICE_SERVE of stores, loads and atomics (R61, R62, R70, R263) whose lanes' places are ap: the lanes of a request are
performed in order as one event: a store writes the bits it names, a load reads (nothing of its workgroup being held in
Brine), an atomic reads the old value and writes what its operation gives; the values go back. -/
def Parts.HomeSliceAccesses : Prop :=
  ∀ (s : State) (r : Req) (pa : Nat) (ap : LaneOp → Nat), arrived s r.id = some r → r.target = .mem pa → s.poison = [] →
    (∀ o ∈ r.lanes, apOf s (devOfCore s r.core) o.at_ = some (ap o)) →
    (r.kind = .store →
      ∃ t, exec (.homeSliceServe r.id) s = .next t ∧ Claims.served s t ∧ Claims.answered s t r [] [] ∧
        t.mem = r.lanes.foldl (fun m o => memMerge m (ap o) r.size o.data o.keep) s.mem) ∧
    (r.kind = .load → (∀ x, fget s.wgs r.wg = some x → x.left = [] ∧ x.laneQ = [] ∧ x.copyQ = []) →
      ∃ t, exec (.homeSliceServe r.id) s = .next t ∧ Claims.served s t ∧ t.mem = s.mem ∧
        Claims.answered s t r (r.lanes.map fun o => (o.lane, memNat s.mem (ap o) r.size)) []) ∧
    ((r.kind = .cas ∨ ∃ op rnd ret, r.kind = .atom op rnd ret) →
      let p := r.lanes.foldl (fun (p : Mem × List (Nat × Nat)) o =>
        let old := memNat p.1 (ap o) r.size
        (memWriteNat p.1 (ap o) r.size (unitNew r.kind r.size old o), p.2 ++ [(o.lane, old)])) (s.mem, [])
      ∃ t, exec (.homeSliceServe r.id) s = .next t ∧ Claims.served s t ∧ t.mem = p.1 ∧ Claims.answered s t r p.2 [])

/-- HOME_SLICE_SERVE of one lane on an append region or a work queue (R67, R268, R269, R273): an APPEND that fits writes its
row at the aligned SHEAD, moves SHEAD past it and returns its offset, one that does not sets the full flag and returns all
ones; an AHEAD returns CHEAD (nothing of its workgroup being held in Brine) and an ACOMMIT raises it; a push writes its item
and TAIL + 1, a pop returns its item and writes HEAD + 1, and one that finds no room or no item answers false or waits at the
queue. -/
def Parts.HomeSliceQueues : Prop :=
  ∀ (s : State) (r : Req) (o : LaneOp), arrived s r.id = some r → r.target = .mem o.at_ → r.lanes = [o] → s.poison = [] →
    memWf s.mem = true →
    let k := devOfCore s r.core
    let home := homeCore s k o.at_
    let field (i : Nat) : Nat := physNat s k (o.at_ + 8 * i) 8
    let launch := match fget s.launches r.launch with | some l => l.id | none => 0
    let run (t : State) : Prop := exec (.homeSliceServe r.id) s = .next t
    (r.kind = .append → 0 < r.size →
      let old := (field 3 + r.size - 1) / r.size * r.size
      (field 1 < old + r.size → ∀ b, apOf s k (o.at_ + 32) = some b →
        ∃ t, run t ∧ Claims.served s t ∧ Claims.answered s t r [(o.lane, 2 ^ 64 - 1)] [] ∧
          memRead t.mem b = memRead s.mem b ||| 1 ∧ Claims.outside s.mem t.mem b 1) ∧
      (old + r.size ≤ field 1 → ∀ a b row,
        awayXlate { s with net := s.net.filter fun q => decide (q.id ≠ r.id) } k (dieOf home) (some home) launch r.space
            ((field 0 + old) % 2 ^ 64) true 4 = ({ s with net := s.net.filter fun q => decide (q.id ≠ r.id) }, .ok row) →
        apOf s k row = some a → apOf s k (o.at_ + 24) = some b → a + r.size ≤ b ∨ b + 8 ≤ a →
        ∃ t, run t ∧ Claims.served s t ∧ Claims.answered s t r [(o.lane, old)] [] ∧
          memNat t.mem a r.size = o.data % 2 ^ (8 * r.size) ∧ memNat t.mem b 8 = (old + r.size) % 2 ^ 64 ∧
          ∀ c, (c < a ∨ a + r.size ≤ c) → (c < b ∨ b + 8 ≤ c) → memRead t.mem c = memRead s.mem c)) ∧
    (r.kind = .ahead → (∀ x, fget s.wgs r.wg = some x → x.left = [] ∧ x.laneQ = [] ∧ x.copyQ = []) →
      ∃ t, run t ∧ Claims.served s t ∧ t.mem = s.mem ∧ Claims.answered s t r [(o.lane, field 2)] []) ∧
    (r.kind = .acommit → o.data ≤ field 3 → ∀ b, apOf s k (o.at_ + 16) = some b →
      ∃ t, run t ∧ Claims.served s t ∧ Claims.answered s t r [] [] ∧ memNat t.mem b 8 = max (field 2) o.data % 2 ^ 64 ∧
        Claims.outside s.mem t.mem b 8) ∧
    (let q := (o.at_ - (s.dev k).wqtbase) / 64
     let d := wqDesc s k q
     let s0 := { s with net := s.net.filter fun q => decide (q.id ≠ r.id) }
     wqOkDesc d = true → fget (s.dev k).wq q = none →
     (∀ nb row a b, r.kind = .wqpush nb → wqCount d < 2 ^ d.log2n →
       awayXlate s0 k (dieOf home) (some home) launch d.space (wqSlot d d.tail) true 2 = (s0, .ok row) →
       apOf s k row = some a → apOf s k (d.at_ + 24) = some b → a + 16 ≤ b ∨ b + 8 ≤ a →
       ∃ t, run t ∧ Claims.served s t ∧ Claims.answered s t r [] (if nb then [(o.lane, true)] else []) ∧
         memNat t.mem a 16 = o.data % 2 ^ 128 ∧ memNat t.mem b 8 = (d.tail + 1) % 2 ^ 64 ∧
         ∀ c, (c < a ∨ a + 16 ≤ c) → (c < b ∨ b + 8 ≤ c) → memRead t.mem c = memRead s.mem c) ∧
     (∀ nb row b, r.kind = .wqpop nb → wqCount d ≠ 0 →
       awayXlate s0 k (dieOf home) (some home) launch d.space (wqSlot d d.head) false 1 = (s0, .ok row) →
       apOf s k (d.at_ + 16) = some b →
       ∃ t, run t ∧ Claims.served s t ∧
         Claims.answered s t r [(o.lane, physNat s k row 16)] (if nb then [(o.lane, true)] else []) ∧
         memNat t.mem b 8 = (d.head + 1) % 2 ^ 64 ∧ Claims.outside s.mem t.mem b 8) ∧
     ((r.kind = .wqpush true ∧ 2 ^ d.log2n ≤ wqCount d) ∨ (r.kind = .wqpop true ∧ wqCount d = 0) →
       ∃ t, run t ∧ Claims.served s t ∧ t.mem = s.mem ∧ Claims.answered s t r [] [(o.lane, false)]))

/-- A home slice performs the lanes of a request in order: accesses, appends, commits and work queues: the statements
HomeSliceAccesses and HomeSliceQueues. -/
def Obligations.HomeSlices : Prop := Parts.HomeSliceAccesses ∧ Parts.HomeSliceQueues

/-- REMOTE_WINDOW_ACCESS and CHANNEL_DELIVERY (R58, R109, R276, R277) of one lane at a slice, no byte of it being
uncorrectable data: a store or an atomic writes the allocation's bytes there under its generation, a load reads them, a range
no allocation of the launch holds is a BOUNDS error; a message goes to the next place of the ring that begins there, one too
many waits, and one for no ring is an error. -/
def Obligations.SliceAccesses : Prop :=
  ∀ (s : State) (r : Req) (o : LaneOp) (c off : Nat), arrived s r.id = some r → r.target = .slice c off → r.lanes = [o] →
    (∀ g y, (fget s.launches r.launch).map (fun l => l.rec_.genTrap) = some false → allocAt s c r.launch o.at_ r.size = some (g, y) →
      unverifiedAt y o.at_ r.size = false → memWf (s.core c).data = true → 0 < r.size →
      slicePoison (s.core c) y.gen o.at_ r.size = false →
      let run (t : State) : Prop := exec (.remoteWindowAccess r.id) s = .next t ∧ t.mem = s.mem ∧
        (∀ d, d ≠ c → fget t.cores d = fget s.cores d) ∧ t.launches = s.launches ∧ t.devs = s.devs ∧ t.dies = s.dies
      let old := sliceNat (s.core c) y.gen o.at_ r.size
      let wrote (t : State) (v : Nat) : Prop :=
        sliceNat (t.core c) y.gen o.at_ r.size = v ∧
          (∀ b, b < o.at_ ∨ o.at_ + r.size ≤ b → sliceByte (t.core c) y.gen b = sliceByte (s.core c) y.gen b) ∧
          t.core c = { s.core c with data := (t.core c).data, tags := (t.core c).tags, badGrans := (t.core c).badGrans }
      (r.kind = .store → o.keep = 2 ^ (8 * r.size) - 1 →
        ∃ t, run t ∧ wrote t (o.data % 2 ^ (8 * r.size)) ∧ Claims.answered s t r [] []) ∧
      ((r.kind = .cas ∨ ∃ op rnd ret, r.kind = .atom op rnd ret) →
        ∃ t, run t ∧ wrote t (unitNew r.kind r.size old o % 2 ^ (8 * r.size)) ∧ Claims.answered s t r [(o.lane, old)] []) ∧
      (r.kind = .load → (∀ x, fget s.wgs r.wg = some x → x.left = [] ∧ x.laneQ = [] ∧ x.copyQ = []) →
        ∃ t, run t ∧ t.cores = s.cores ∧ Claims.answered s t r [(o.lane, old)] [])) ∧
    (allocAt s c r.launch o.at_ r.size = none → r.kind = .store ∨ r.kind = .load → r.cmd = none → fget s.wgs r.wg ≠ none →
      ∃ t m ms, exec (.remoteWindowAccess r.id) s = .next t ∧ t.msgs = s.msgs ++ m :: ms ∧ m.kind = .error ∧ m.cause = 17 ∧
        m.addr = o.va ∧ m.lane = o.lane ∧ t.mem = s.mem ∧ t.cores = s.cores) ∧
    (∀ chan g y n ch, r.kind = .message chan → ringAt s c off (fun y => decide (y.launch = r.launch)) = some (g, y, n, ch) →
      fget s.wgs g = some y → y.core = c → holdsSlot y = true → ch.st = .rx → 4 ≤ ch.size →
      let full := ch.size / 4 ≤ (ch.delivered - if modeOf s y = 0 then ch.received else ch.kept)
      (full → exec (.channelDelivery r.id) s = .next s) ∧
      (¬ full → memWf (s.core c).data = true →
        ∃ t y', exec (.channelDelivery r.id) s = .next t ∧ Claims.answered s t r [] [] ∧ fget t.wgs g = some y' ∧
          fget y'.chans n = some { ch with delivered := ch.delivered + 1 } ∧ t.mem = s.mem ∧
          sliceNat (t.core c) y.gen (y.base + (ch.ring + 4 * (ch.delivered % (ch.size / 4)))) 4 = o.data % 2 ^ 32)) ∧
    (∀ chan, r.kind = .message chan → ringAt s c off (fun y => decide (y.launch = r.launch)) = none → r.cmd = none → r.pend = none →
      fget s.wgs r.wg ≠ none →
      ∃ t m, exec (.channelDelivery r.id) s = .next t ∧ t.msgs = s.msgs ++ [m] ∧ m.kind = .error ∧ m.cause = 11 ∧ m.lane = o.lane ∧
        t.mem = s.mem ∧ t.cores = s.cores)

/-- BRINE_ENTRY_LEAVE (R81, R84, R142): a plain workgroup's store at the head of its queue, not held by any other wait (behind a
timed-out write, log 77, or an earlier entry that may write its bytes and finds its own place only as it performs, log 21), leaves
W cycles after its acceptance and not before; it then travels, and Brine keeps it until it is acknowledged. -/
def Parts.BrineEntries : Prop :=
  ∀ (s : State) (g : Nat) (x : Wg) (q : BrineQ) (r : Req) (rs : List Req), fget s.wgs g = some x → modeOf s x = 0 → r.core = x.core →
    (match q with | .lane => x.laneQ | .copy => x.copyQ | .channel => x.chanQ | .append => x.appQ) = r :: rs → r.kind = .store →
      x.doomed = [] →
    ((s.core x.core).cycle < r.acc + Config.strikeWindow → exec (.brineEntryLeave g q) s = .next s) ∧
    (r.acc + Config.strikeWindow ≤ (s.core x.core).cycle → (s.core x.core).frozen = false → x.ck.restoring = false →
      (s.die (dieOf x.core)).stopped = false → r.release = false → r.marks = [] → x.blocked = none →
      farBehind s x r = false →
      ∃ t m, exec (.brineEntryLeave g q) s = .next t ∧ t.mem = s.mem ∧ t.cores = s.cores ∧
        t.net = s.net ++ [{ r with sent := (s.core r.core).cycle, inMesh := m }] ∧
        fget t.wgs g = some { x with
          laneQ := if q = .lane then rs else x.laneQ
          copyQ := if q = .copy then rs else x.copyQ
          chanQ := if q = .channel then rs else x.chanQ
          appQ := if q = .append then rs else x.appQ
          left := x.left ++ [r] })

/-- WRITE_ACK, LOAD_RESPONSE, ERROR_COMPLETION and REQUEST_TIMEOUT_EXPIRY (R80, R86, R88, R258, R259), of a message that has
arrived: an acknowledgement ends Brine's copy of the entry, and of the bytes of older entries of its path that it wrote over
(the model's choice, log 69); the last values of a returning access write its registers in the lanes that have values, and
nothing else; a failed access writes nothing and traps with its cause; a failed write fills the lane's deferred-error record
if it is empty; a request at a peer that has waited TIMEOUT_CYC cycles and is no message is given up, so that it travels no
more and never performs (the model's choice, log 59), posts a record, and fails its lanes' writes. -/
def Parts.Responses : Prop :=
  (∀ (s : State) (i : Nat) (m : Msg) (x : Wg), s.msgs[i]? = some m → fget s.wgs m.wg = some x →
    (s.die (dieOf x.core)).stopped = false → orderedMaps s = true → x.phase ≠ .ended → x.ck.ext = none → m.flits = 0 →
    partLeft s m.req = false → m.cmd = none →
    let gone (t : State) : Prop := fget t.wgs m.wg = some { x with left := performed x.left m.req }
    (m.kind = .ack →
      ∃ t, exec (.writeAck i) s = .next t ∧ gone t ∧ t = { s with msgs := dropAt s.msgs i, wgs := t.wgs }) ∧
    (∀ w p, s.warp? x.core m.slot = some w → w.wg = m.wg → p ∈ w.pend → m.pend = some p.id →
      (∀ p' ∈ w.pend, p'.id = p.id → p' = p) →
      (∀ d, m.kind = .value → p.dest = .group (some d) 4 false → p.pred = none → p.got = [] → x.left = [] →
        (∀ l, hasLane p.want l = true → m.values.lookup l ≠ none) →
        (∀ v, fget x.ck.committed.warps m.slot = some v → ∀ p ∈ v.pend, m.pend ≠ some p.id) →
        ∃ t k, exec (.loadResponse i) s = .next t ∧ t.mem = s.mem ∧ gone t ∧
          t.core x.core = { k with
            warps := fput k.warps m.slot { w with pend := w.pend.filter fun q => decide (q.id ≠ p.id) } } ∧
          (∃ rows, k = { s.core x.core with rows := rows }) ∧
          (∀ key, key ≠ rowKey m.slot w d → rowAt k key = rowAt (s.core x.core) key) ∧
          ∀ l, l < 32 → readV k m.slot w d l =
            if hasLane p.act l = true then
              match m.values.lookup l with | some v => BitVec.ofNat 32 v | none => readV (s.core x.core) m.slot w d l
            else readV (s.core x.core) m.slot w d l) ∧
      (m.kind = .error → m.cause < 64 → speculative w = false → w.tvec ≠ 0 → w.handler = 0 →
        ∃ t v, exec (.errorCompletion i) s = .next t ∧ t.mem = s.mem ∧ t.warp? x.core m.slot = some v ∧
          v.tcause = BitVec.ofNat 6 m.cause ∧ v.tpc = p.pc ∧ v.handler = p.mask &&& w.live ∧ v.tact = p.act ∧
          v.pend = w.pend.filter (fun q => decide (q.id ≠ p.id)) ∧ (t.core x.core).rows = (s.core x.core).rows ∧
          ∀ l, hasLane (p.mask &&& w.live) l = true → laneAt t x.core m.slot l w.tvec)) ∧
    (∀ w, m.kind = .error → m.pend = none → x.phase ≠ .saved → s.warp? x.core m.slot = some w → w.wg = m.wg → w.derr.length = 32 →
      (∀ r ∈ x.left, r.id = m.req → ∀ n, r.kind ≠ .message n) →
      ∃ t v, exec (.errorCompletion i) s = .next t ∧ t.mem = s.mem ∧ t.warp? x.core m.slot = some v ∧
        v = { w with derr := v.derr } ∧
        ∀ l, l < 32 → v.derr[l]? =
          if l = m.lane ∧ w.derr.getD l none = none then some (some { cause := m.cause, addr := BitVec.ofNat 64 m.addr })
          else w.derr[l]?)) ∧
  (∀ (s : State) (r : Req) (x : Wg) (w : Warp) (k d off : Nat) (win : Window), (s.net ++ s.aside).find? (fun q => decide (q.id = r.id)) = some r →
    r.target = .peer k d win off → fget s.wgs r.wg = some x → x.phase = .resident → s.warp? x.core r.slot = some w → w.wg = r.wg →
    (∀ n, r.kind ≠ .message n) →
    ((s.core r.core).cycle < r.sent + w.timeoutCyc → exec (.requestTimeoutExpiry r.id) s = .next s) ∧
    (r.sent + w.timeoutCyc ≤ (s.core r.core).cycle → r.pend = none → r.cmd = none → r.kind = .store → x.laneQ = [] →
      x.ck.ext = none → orderedMaps s = true →
      ∃ t v, exec (.requestTimeoutExpiry r.id) s = .next t ∧ t.mem = s.mem ∧ (∀ q ∈ t.net ++ t.aside, q.id ≠ r.id) ∧
        fget t.wgs r.wg = some { x with left := x.left.filter fun q => decide (q.id ≠ r.id) } ∧
        t.warp? x.core r.slot = some v ∧
        (∀ o ∈ r.lanes, o.lane < w.derr.length → w.derr.getD o.lane none = none →
          ∃ e, v.derr[o.lane]? = some (some e) ∧ e.cause = 8) ∧
        ((s.dev (devOfCore s r.core)).fqen = false → ∃ n, n.kind = 11 ∧
          (t.dev (devOfCore s r.core)).fqwait = (s.dev (devOfCore s r.core)).fqwait ++ [n])))

/-- Brine holds a plain entry for W cycles; responses write registers, end copies, or become errors: the statements
BrineEntries and Responses. -/
def Obligations.BrineAndResponses : Prop := Parts.BrineEntries ∧ Parts.Responses

/-! ### The mesh -/

/-- MESH_ARBITRATION and PACKET_URGENT (R349 to R352), once a cycle at an output of a router: a free output with eligible
packets grants one of them, of the urgent ones the one urgent longest if there is one; every other eligible packet has lost
once more; a packet of one flit stands in the queue it leads to, its losses forgotten, or has arrived, its request at the
slice or its answer at the core; a longer one holds the output until its tail has passed. A packet that has lost 32 times at
the head of its queue is urgent at the arbitrations that follow (`urgeHeads`), and PACKET_URGENT may make it so before. -/
def Obligations.MeshRouting : Prop :=
  (∀ (s : State) (die x y o : Nat), x < 17 → y < 10 → o < 5 → (s.die die).stopped = false →
    let d := s.die die
    let q (t : State) (x y i vc : Nat) : List Packet := inQueue (routerOf (t.die die) x y) i vc
    let r := outOf (routerOf d x y) o
    let es := eligibles (urgeHeads d x y o) x y o
    r.cycle ≠ some d.cycle → risingFrom 0 (routerOf d x y).inq = true →
    (r.holder = none → es ≠ [] →
      ∃ t, exec (.meshArbitration die x y o) s = .next t ∧ t = { s with dies := t.dies, net := t.net, msgs := t.msgs } ∧
        ∃ i vc p, (i, vc, p) ∈ es ∧
          (∀ e ∈ es, 32 ≤ e.2.2.age → e.2.2.urgent ≠ none) ∧
          (∀ e ∈ es, ∀ u, e.2.2.urgent = some u → ∃ v, p.urgent = some v ∧ v ≤ u) ∧
          (∀ e ∈ es, ¬ (e.1 = i ∧ e.2.1 = vc) →
            q t x y e.1 e.2.1 = { e.2.2 with age := e.2.2.age + 1 } :: (q s x y e.1 e.2.1).drop 1) ∧
          (1 < p.flits → (outOf (routerOf (t.die die) x y) o).holder = some (i, vc, p.flits - 1) ∧
            q t x y i vc = p :: (q s x y i vc).drop 1) ∧
          (p.flits ≤ 1 → (outOf (routerOf (t.die die) x y) o).holder = none ∧ q t x y i vc = (q s x y i vc).drop 1 ∧
            match nextHop x y o with
            | some (a, b, j) =>
              q t a b j vc = q s a b j vc ++ [{ p with age := 0, urgent := none }] ∧ t.net = s.net ∧ t.msgs = s.msgs
            | none =>
              (p.back = false → t.msgs = s.msgs ∧ ∀ u ∈ t.net, u.id ∈ p.req :: p.more → u.inMesh = false) ∧
              (p.back = true → t.net = s.net ∧ t.msgs.length = s.msgs.length ∧ ∀ n m, s.msgs[n]? = some m →
                let on (u : Msg) : Prop := u.req = p.req ∧ u.flits ≠ 0
                let first : Prop := on m ∧ ∀ (j : Nat) (u : Msg), j < n → s.msgs[j]? = some u → ¬ on u
                (first → t.msgs[n]? = some { m with flits := 0 }) ∧ (¬ first → t.msgs[n]? = some m)))) ∧
    (∀ i vc left, r.holder = some (i, vc, left) → 1 < left →
      ∃ t, exec (.meshArbitration die x y o) s = .next t ∧ t = { s with dies := t.dies } ∧
        (outOf (routerOf (t.die die) x y) o).holder =
          some (i, vc, if outGoes (urgeHeads d x y o) x y o vc then left - 1 else left))) ∧
  (∀ (s : State) (die x y i vc : Nat) (p : Packet) (ps : List Packet), i < 5 → vc < 4 →
    inQueue (routerOf (s.die die) x y) i vc = p :: ps → 32 ≤ p.age → p.urgent = none →
    (outOf (routerOf (s.die die) x y) (routeOut x y p)).cycle ≠ some (s.die die).cycle →
    ∃ t, exec (.packetUrgent die x y i vc) s = .next t ∧ t = { s with dies := t.dies } ∧
      inQueue (routerOf (t.die die) x y) i vc = { p with urgent := some (s.die die).cycle } :: ps ∧
      ∀ j v, j < 5 → v < 4 → ¬ (j = i ∧ v = vc) →
        inQueue (routerOf (t.die die) x y) j v = inQueue (routerOf (s.die die) x y) j v)

/-! ### Launches and contexts -/

namespace Sys2Proof.Claims

/-- A launch stands at these fields, and none of its workgroups is left. -/
def torn (s t : State) (l : Nat) (f : Launch → Launch) : Prop :=
  fget t.launches l = (fget s.launches l).map f ∧ ∀ p ∈ t.wgs, p.2.launch ≠ l

/-- The completion record of a launch (Table 21.7) without a trap's fields. -/
def completion (x : Launch) (status : Nat) : Nat :=
  x.id % 2 ^ 32 * 2 ^ 96 + x.tag % 2 ^ 32 * 2 ^ 64 + 2 ^ 31 + x.attempt % 4 * 2 ^ 16 + status

end Sys2Proof.Claims

/-- WORKGROUP_ADMISSION of the next workgroup of a plain launch, on a core where everything fits (R25, R38, R57, R108, R328):
it gets the next number, a scratchpad allocation of whole KiB, and all its warps, each with its base blocks, all lanes at the
code pointer, scalar registers and predicates 0, and the argument block's address in v0:v1 of every lane. -/
def Parts.WorkgroupAdmission : Prop :=
  ∀ (s : State) (l c : Nat) (x : Launch), fget s.launches l = some x → x.phase = .running → x.rec_.kind = 0 → x.rec_.cgsize = 0 →
    x.rec_.mode = 0 → x.next < launchSize x.rec_ → devOfCore s c = x.dev → areasOk s c x.rec_ = true → 1 ≤ x.rec_.base →
    (s.dev x.dev).ckptUsed ≤ (s.dev x.dev).ckptsize → (admitOne s l x x.next c none).isSome = true →
    ∃ t g y, exec (.workgroupAdmission l [c]) s = .next t ∧ t.mem = s.mem ∧
      fget t.launches l = some { x with next := x.next + 1 } ∧ g = s.nextWg ∧ t.nextWg = s.nextWg + 1 ∧ fget t.wgs g = some y ∧
      y.launch = l ∧ y.index = x.next ∧ y.core = c ∧ y.phase = .resident ∧ y.nwarps = x.rec_.warps ∧ y.ended = 0 ∧
      y.size = (x.rec_.scratch + 1023) / 1024 * 1024 ∧ y.base % 1024 = 0 ∧
      ∀ i, i < x.rec_.warps → ∃ sl w e, t.warp? c sl = some w ∧ w.wg = g ∧ w.idx = i ∧ w.live = allLanes ∧ w.frontier = [e] ∧
        e.pc = x.rec_.code ∧ e.mask = allLanes ∧ e.clause = none ∧ w.blocks.length = x.rec_.base ∧ w.base = x.rec_.base ∧
        w.sregs = List.replicate 24 0 ∧ w.preds = List.replicate 7 0 ∧ w.tvec = x.rec_.tvec ∧
        ∀ n, n < 32 → readV (t.core c) sl w 0 n = x.rec_.args.extractLsb' 0 32 ∧
          readV (t.core c) sl w 1 n = x.rec_.args.extractLsb' 32 32

/-- POOL_ROOT_PUSH and POOL_WARP_FORM (R40 to R42, R46): once every pool workgroup stands, a root record goes to its core's
front end, where the die's queue has room beside the joins still to come (log 34), and records that cannot be read, or whose
pointers are none, end the launch INVALID (the model's choice, log 25);
of the bins whose launch has a workgroup with a free slot there the one ready longest forms a warp of it: lane i holds the
frame and the join of the i-th record in v0:v1 and v2:v3, the lanes stand at the bin's code pointer. The queue's records, and so
memory, stand where none of them is of a launch with a pool workgroup on the core. -/
def Parts.PoolWarps : Prop :=
  (∀ (s : State) (l : Nat) (x : Launch), fget s.launches l = some x → x.phase = .running → x.rec_.kind = 2 → x.rootsPushed = false →
    x.rec_.pncore ≤ x.next → x.rec_.proots = 1 →
    (∀ d ∈ diesOfDev s.pkg.mode x.dev, poolTotal s d + joinsOut s d + rootsOn s x.dev x.rec_ d ≤ poolSlots s d) →
    let root := rootAt s x.dev x.rec_.space x.rec_.roots.toNat
    let good (code frame join : Double) : Prop :=
      code.toNat % 4 = 0 ∧ code.toNat < 2 ^ 56 ∧ frame.toNat < 2 ^ 56 ∧ join.toNat < 2 ^ 56
    (∀ code frame join c i, root = some (code, frame, join) → good code frame join → rootCore s x.dev x.rec_ 0 = some c →
      binFor (s.core c) l code = some i →
      ∃ t rs, exec (.poolRootPush l) s = .next t ∧ t.mem = s.mem ∧ fget t.launches l = some { x with rootsPushed := true } ∧
        fget (t.core c).bins i = some { launch := l, code := code, recs := rs ++ [((s.core c).cycle, frame, join)] } ∧
        (rs = match fget (s.core c).bins i with | some b => b.recs | none => [])) ∧
    ((root = none ∨ ∃ code frame join, root = some (code, frame, join) ∧ ¬ good code frame join) → orderedMaps s = true →
      ∃ t, exec (.poolRootPush l) s = .next t ∧ Claims.torn s t l fun y =>
        { y with phase := .ended, status := 4, cause := 0, tpc := 0, wgidx := 0, double := false })) ∧
  (∀ (s : State) (c bin since g sl : Nat) (b : Bin) (x : Wg) (l : LRec) (blocks : List Nat), fget (s.core c).bins bin = some b →
    binReady (s.core c) b = some since → (∀ p ∈ (s.core c).bins, ∀ u, binReady (s.core c) p.2 = some u →
      poolWgFor s c p.2.launch ≠ none → since ≤ u) →
    poolWgFor s c b.launch = some (g, x, l) → newPlace (s.core c) l.base = some (sl, blocks) → genReady s c = true →
    clockRuns s c = true →
    1 ≤ l.base → b.recs.length ≤ 32 →
    ∃ t w e, exec (.poolWarpForm c bin) s = .next t ∧
      ((∀ o ∈ (s.die (dieOf c)).poolOwner, poolHere s c o = false) → t.mem = s.mem) ∧ t.warp? c sl = some w ∧ w.wg = g ∧
        w.frontier = [e] ∧
      e.pc = b.code ∧ e.mask = w.live ∧ w.blocks = blocks ∧ (∀ n, n < 32 → (hasLane w.live n = true ↔ n < b.recs.length)) ∧
      ∀ n r, b.recs[n]? = some r →
        readV (t.core c) sl w 0 n = r.2.1.extractLsb' 0 32 ∧ readV (t.core c) sl w 1 n = r.2.1.extractLsb' 32 32 ∧
        readV (t.core c) sl w 2 n = r.2.2.extractLsb' 0 32 ∧ readV (t.core c) sl w 3 n = r.2.2.extractLsb' 32 32)

/-- An admitted workgroup and a formed pool warp start with their registers, blocks and entry: the statements
WorkgroupAdmission and PoolWarps. -/
def Obligations.AdmissionsAndPools : Prop := Parts.WorkgroupAdmission ∧ Parts.PoolWarps

/-- LAUNCH_COMPLETE, LAUNCH_ABORT, POD_REPLAY and REPLAY_RESTORE (R137, R381, R384, R404, R419): a launch that is done, or has
ended, writes its completion record, to companion memory or to device memory, and is forgotten with its workgroups; R381 gives
a record's address 32-byte alignment, and the model writes it wherever the address points (DEDUCED, log 37); an abort ends one
CANCELLED; a replay request tears a running launch down to be run again, and after the third replay ends it with status 2; a
launch to be replayed runs again with one more attempt, and each logged page has its bytes back. -/
def Obligations.LaunchEnds : Prop :=
  (∀ (s : State) (l : Nat) (x : Launch), fget s.launches l = some x → orderedMaps s = true → memWf s.cmem = true →
    memWf s.mem = true →
    x.pages = [] → x.log = [] → launchBusy s l = false → launchAsides s l = false →
    (x.rec_.kind = 2 → ∀ d, l ∉ (s.die d).poolOwner) →
    let ended (status : Nat) : Prop :=
      ∃ t, exec (.launchComplete l) s = .next t ∧ fget t.launches l = none ∧
        (x.comp = 0 → t.cmem = s.cmem ∧ t.mem = s.mem) ∧
        (x.comp ≠ 0 → x.comp.toNat < 2 ^ 63 → t.cmem = s.cmem ∧ (apOf s x.dev x.comp.toNat = none → t.mem = s.mem) ∧
          ∀ b, apOf s x.dev x.comp.toNat = some b → memNat t.mem b 32 = Claims.completion x status ∧
            ∀ a, a < b ∨ b + 32 ≤ a → memRead t.mem a = memRead s.mem a) ∧
        (2 ^ 63 ≤ x.comp.toNat → t.mem = s.mem ∧ memNat t.cmem (x.comp.toNat - 2 ^ 63) 32 = Claims.completion x status ∧
          ∀ a, a < x.comp.toNat - 2 ^ 63 ∨ x.comp.toNat - 2 ^ 63 + 32 ≤ a → memRead t.cmem a = memRead s.cmem a)
    (launchDone s l x = true → ended 0) ∧
    (x.phase = .ended → x.status < 256 → x.status ≠ 1 → x.cause = 0 → x.double = false → ended x.status)) ∧
  (∀ (s : State) (k l : Nat) (id : BitVec 32) (x : Launch), launchOfId s k id.toNat = some (l, x) → orderedMaps s = true →
    devOpen s k = true →
    (∃ t, exec (.launchAbort k id) s = .next t ∧ Claims.torn s t l fun y =>
      { y with phase := .ended, status := 5, cause := 0, tpc := 0, wgidx := 0, double := false }) ∧
    (x.phase = .pending → x.attempt < 3 →
      ∃ t, exec (.podReplay k id) s = .next t ∧ fget t.launches l = some { x with attempt := x.attempt + 1 }) ∧
    (x.phase = .running → x.attempt < 3 →
      ∃ t, exec (.podReplay k id) s = .next t ∧
        Claims.torn s t l fun y => { y with phase := .replaying, next := 0, rootsPushed := false }) ∧
    (x.phase = .running → 3 ≤ x.attempt →
      ∃ t, exec (.podReplay k id) s = .next t ∧ Claims.torn s t l fun y =>
        { y with phase := .ended, status := 2, cause := 0, tpc := 0, wgidx := 0, double := false })) ∧
  (∀ (s : State) (l : Nat) (x : Launch), fget s.launches l = some x → x.phase = .replaying → launchBusy s l = false →
    launchAsides s l = false → s.poison = [] → memWf s.mem = true →
    (x.log = [] → ∃ t, exec (.replayRestore l) s = .next t ∧ t.mem = s.mem ∧
      fget t.launches l = some { x with phase := .running, attempt := x.attempt + 1 }) ∧
    (∀ i a b, x.log = [i] → apOf s x.dev i.item = some a → apOf s x.dev i.page = some b → a + 65536 ≤ b ∨ b + 65536 ≤ a →
      ∃ t, exec (.replayRestore l) s = .next t ∧ fget t.launches l = some { x with phase := .running, attempt := x.attempt + 1 } ∧
        (∀ n, n < 65536 → memRead t.mem (b + n) = memRead s.mem (a + n)) ∧
        ∀ n, n < b ∨ b + 65536 ≤ n → memRead t.mem n = memRead s.mem n))

/-- PREEMPT, CONTEXT_SAVE and CONTEXT_RESTORE (R104, R108, R113, R116, R384) of a plain workgroup: it stops when the save pool
has room for it; stopped and quiet, it leaves its core, and its context holds every warp's state and every valid row and
granule; it comes back, with a fresh generation, to the slots and blocks it then gets, with the same registers. -/
def Obligations.ContextMoves : Prop :=
  ∀ (s : State) (g : Nat) (x : Wg) (l : Launch), fget s.wgs g = some x → fget s.launches x.launch = some l → l.rec_.kind = 0 →
    l.rec_.mode = 0 → x.pool = false → x.cg = none → x.twin = none → x.third = none → orderedMaps s = true →
    let warps := (s.core x.core).warps.filter fun p => decide (p.2.wg = g)
    (let units := (4096 + 2048 * (warps.map fun p => p.2.base + p.2.ext).sum + x.size + 65535) / 65536
     x.phase = .resident → x.ck.restoring = false → (s.core x.core).copies = [] →
     (∀ p ∈ (s.core x.core).warps, p.2.wg = g → p.2.round.st ≠ .running ∧ p.2.round.ist ≠ .speculative) →
     (s.dev (devOfCore s x.core)).saveUsed + units ≤ (s.dev (devOfCore s x.core)).savesize →
     ∃ t y, exec (.preempt g) s = .next t ∧ t.mem = s.mem ∧ fget t.wgs g = some y ∧ y.phase = .stopping ∧ y.saveUnits = units ∧
       (t.dev (devOfCore s x.core)).saveUsed = (s.dev (devOfCore s x.core)).saveUsed + units) ∧
    (x.phase = .stopping → (s.core x.core).copies = [] → (∀ p ∈ warps, p.2.pend = [] ∧ ∀ t ∈ p.2.tokens, t.count = 0) →
     (∀ p ∈ s.devs, ∀ q ∈ p.2.wq, ∀ r ∈ q.2.pops ++ q.2.pushes, r.wg ≠ g) →
     ∃ t y im, exec (.contextSave g) s = .next t ∧ t.mem = s.mem ∧ fget t.wgs g = some y ∧ y.phase = .saved ∧ y.image = some im ∧
       (∀ sl w, t.warp? x.core sl = some w → w.wg ≠ g ∧ s.warp? x.core sl = some w) ∧
       (∀ sl w, s.warp? x.core sl = some w → w.wg = g →
         (∃ v, fget im.warps sl = some v ∧ v.frontier.map (fun e => (e.pc, e.mask)) = w.frontier.map (fun e => (e.pc, e.mask)) ∧
           v = { w with
             frontier := v.frontier, held := v.held, hold := v.hold, pend := [], waitCount := 0, lastIssue := 0, round := v.round }) ∧
         ∀ r data, (sl, r, data) ∈ im.rows ↔
           r < 16 * (w.base + w.ext) ∧ (rowAt (s.core x.core) (rowKey sl w r)).tag = rowGen w r ∧
             data = (rowAt (s.core x.core) (rowKey sl w r)).data) ∧
       ∀ n bs, fget im.grans n = some bs ↔
         n < (x.size + 63) / 64 ∧ granTag (s.core x.core) (x.base / 64 + n) = x.gen ∧
           bs = memBytes (s.core x.core).data (x.base + 64 * n) 64) ∧
    ∀ c base im, x.phase = .saved → x.image = some im → l.phase = .running → devOfCore s c = l.dev →
      matrixFree s c l.rec_.space = true → findRoom s c x.size = some base → (im.rows.map fun r => (r.1, r.2.1)).Nodup →
      (∀ old w r data, (old, w) ∈ im.warps → (old, r, data) ∈ im.rows → r < 16 * (w.base + w.ext)) →
      putImage ((clearMatrix s c l.rec_.space false).updWg g fun y =>
        { y with phase := .resident, image := none, base := base, core := c }) g c base im ≠ none →
      ∃ t y, exec (.contextRestore g c) s = .next t ∧ t.mem = s.mem ∧ fget t.wgs g = some y ∧ y.phase = .resident ∧ y.core = c ∧
        y.base = base ∧ y.image = none ∧ y.saveUnits = 0 ∧
        ∀ old w, (old, w) ∈ im.warps → ∃ sl v, t.warp? c sl = some v ∧ v.wg = g ∧ v.idx = w.idx ∧ v.live = w.live ∧
          v.sregs = w.sregs ∧ v.preds = w.preds ∧ v.blocks.length = w.base + w.ext ∧
          ∀ r data, (old, r, data) ∈ im.rows → ∀ n, readV (t.core c) sl v r n = data.getD n 0

/-! ### Guarded execution -/

/-- The moves of a guarded workgroup's checkpoints (R139 to R145, Table 7.3), for one that is no cluster group: one asked for,
with an access outstanding that is no atomic Brine holds until a commit (DEDUCED, log 91), stops the workgroup; a quiet
stopped one is captured, for 32 cycles or more; at τ its warps go on and its later requests belong to the next; its delta is
acknowledged; after the cycle W past τ and that of the acknowledgement, and not before, it becomes the committed one (the
model's choice of the cycle, log 85), and everything accepted before its τ may leave; 65,536 cycles after the last one another
is asked for, once; an external operation may issue once the checkpoint it stopped at has been committed. -/
def Obligations.Checkpoints : Prop :=
  ∀ (s : State) (g : Nat) (x : Wg) (l : Launch), fget s.wgs g = some x → fget s.launches x.launch = some l → l.rec_.mode = 1 →
    x.cg = none → x.twin = none → x.third = none → x.pool = false → x.phase = .resident → x.ck.restoring = false →
    let now := (s.core x.core).cycle
    let put (t : State) (k : Ckpt) : Prop := fget t.wgs g = some { x with ck := k } ∧ t.mem = s.mem
    (x.ck.phase = .idle → x.ck.again = true → x.ck.extAt ≠ 2 → (s.core x.core).copies = [] →
      (∀ p ∈ (s.core x.core).warps, p.2.wg = g → p.2.round.st ≠ .running ∧ p.2.round.ist ≠ .speculative) →
      (∃ p ∈ (s.core x.core).warps, p.2.wg = g ∧ ∃ q ∈ p.2.pend, ofAtomic x.laneQ q = false) →
      ∃ t, exec (.checkpointTake g) s = .next t ∧
        put t { x.ck with phase := .stopping, again := false, saving := x.ck.pendingSave }) ∧
    (x.ck.phase = .stopping → (s.core x.core).copies = [] → wgQuiet s g x = true →
      ∃ t n k, exec (.checkpointTake g) s = .next t ∧ now + 32 ≤ n ∧ put t k ∧ k.phase = .capturing n ∧
        k.pending = some (captureWg s g x) ∧ k.written = [] ∧ k.committed = x.ck.committed ∧ k.number = x.ck.number) ∧
    (∀ n, x.ck.phase = .capturing n →
      (now < n → exec (.checkpointTaken g) s = .next s) ∧
      (n ≤ now → ∃ t, exec (.checkpointTaken g) s = .next t ∧ t.nextId = s.nextId + 1 ∧
        put t { x.ck with
          phase := .taken, tau := now, tauId := s.nextId, lastTaken := now, nextOffsets := [], ackAt := none, lapsed := false } ∧
        ∀ sl w, s.warp? x.core sl = some w → t.warp? x.core sl =
          some (if w.wg = g ∧ w.hold = .ckpt then { w with hold := .none } else w))) ∧
    (x.ck.phase = .taken → x.ck.ackAt = none →
      ∃ t, exec (.checkpointDeltaAck g) s = .next t ∧ put t { x.ck with ackAt := some now }) ∧
    (∀ im a, x.ck.phase = .taken → x.ck.ackAt = some a → x.ck.pending = some im → x.ended < x.nwarps →
      (now ≤ x.ck.tau + Config.strikeWindow ∨ now ≤ a → exec (.checkpointCommit g) s = .next s) ∧
      (x.ck.tau + Config.strikeWindow < now → a < now →
        ∃ t y, exec (.checkpointCommit g) s = .next t ∧ t.mem = s.mem ∧ fget t.wgs g = some y ∧ y.ck.phase = .idle ∧
          y.ck.number = x.ck.number + 1 ∧ y.ck.committed = im ∧ y.ck.pending = none ∧ y.ck.freeId = x.ck.tauId ∧
          y.ck.rollbacks = 0 ∧ y.laneQ = x.laneQ ∧ y.copyQ = x.copyQ ∧ y.chanQ = x.chanQ ∧ y.appQ = x.appQ ∧
          (t.die (dieOf x.core)).ckpts = ((s.die (dieOf x.core)).ckpts + 1) % 2 ^ 64)) ∧
    (now < x.ck.lastTaken + 65536 ∨ x.ck.lapsed = true → exec (.checkpointIntervalExpiry g) s = .next s) ∧
    (x.ck.lastTaken + 65536 ≤ now → x.ck.lapsed = false →
      ∃ t, exec (.checkpointIntervalExpiry g) s = .next t ∧ put t { x.ck with again := true, lapsed := true }) ∧
    (∀ sl, x.ck.ext = some sl → x.ck.extAt = 2 →
      ∃ t, exec (.externalOpIssue g) s = .next t ∧ put t { x.ck with ready := true })

/-- STRIKE_REPORT, ROLLBACK_SHEAD_RESTORE, TWIN_VOTE and THIRD_COPY_START (R135 to R138, R147 to R151, R358): a report of a
strike at a mesh position counts; the launch of a plain workgroup it strikes is torn down to be replayed, and a guarded
workgroup it strikes loses what it holds that no commit has made releasable (R142) and counts one rollback more; a rolled-back
workgroup with no append under way is back at its committed checkpoint, its registers' rows as captured, and each descriptor's
SHEAD at the first offset it returned (DEDUCED, log 56); twins whose sums, as they stood at the capture (DEDUCED, log 20),
differ count a mismatch and both roll back, to check again at the next collective point (DEDUCED, log 61); after the second a
third copy begins from the committed checkpoint where there is room for it and its area is sound. -/
def Obligations.StrikesAndVotes : Prop :=
  (∀ (s : State) (d px py : Nat) (residue : Bool), orderedMaps s = true →
    ∃ t, exec (.strikeReport d (px, py) residue) s = .next t ∧ (t.die d).strikes = ((s.die d).strikes + 1) % 2 ^ 64 ∧
      (∀ g x l, fget s.wgs g = some x → fget s.launches x.launch = some l → x.phase = .resident →
        dieOf x.core = d → (∀ c, coreStanding s d px py = some c → clusterOf s x.core = clusterOf s c) → l.rec_.mode = 0 →
        l.phase = .running → l.attempt < 3 → x.ck.phase ≠ .taken →
        (∀ p ∈ s.wgs, g ∈ twinSet s p.1 → p.2.launch = x.launch) →
        Claims.torn s t x.launch fun y => { y with phase := .replaying, next := 0, rootsPushed := false })) ∧
  (∀ (s : State) (d px py g : Nat) (x : Wg) (l : Launch) (residue : Bool), coreStanding s d px py = none → s.wgs = [(g, x)] →
    fget s.launches x.launch = some l →
    l.rec_.mode = 1 → dieOf x.core = d → x.phase = .resident → x.cg = none → x.twin = none → x.third = none → x.ck.ready = false →
    x.ck.extBusy = false → x.ck.popped = false → x.ck.extWindow = none → x.ck.restoring = false → x.ck.rollbacks < 8 →
    x.core < (d + 1) * 160 →
    x.ck.ackAt = none → areaPoisoned s x = false →
    ∃ t y, exec (.strikeReport d (px, py) residue) s = .next t ∧ fget t.wgs g = some y ∧ Claims.KeptOf x y ∧ y.sub = [] ∧
      y.left.map Req.id = x.left.map Req.id ∧ y.ck.rollbacks = x.ck.rollbacks + 1 ∧ y.ck.pending = none ∧
      y.ck.number = x.ck.number ∧ (t.die d).rollbacks = ((s.die d).rollbacks + 1) % 2 ^ 64) ∧
  (∀ (s : State) (g : Nat) (x : Wg), fget s.wgs g = some x → x.ck.restoring = true → x.cg = none → x.ck.firstOffsets.length ≤ 1 →
    x.phase ≠ .ended → x.appQ = [] → areaPoisoned s x = false →
    (∀ r ∈ x.left, r.path ≠ .append) → putImage s g x.core x.base x.ck.committed ≠ none → memWf s.mem = true →
    (x.ck.committed.rows.map fun r => (r.1, r.2.1)).Nodup →
    (∀ old w r data, (old, w) ∈ x.ck.committed.warps → (old, r, data) ∈ x.ck.committed.rows → r < 16 * (w.base + w.ext)) →
    x.ck.committed.seq = none →
    ∃ t y, exec (.rollbackSheadRestore g) s = .next t ∧ fget t.wgs g = some y ∧ y.ck.restoring = false ∧ y.core = x.core ∧
      y.base = x.base ∧
      (∀ old w, (old, w) ∈ x.ck.committed.warps → ∃ sl v, t.warp? x.core sl = some v ∧ v.wg = g ∧ v.idx = w.idx ∧
        v.sregs = w.sregs ∧ v.preds = w.preds ∧
        ∀ r data, (old, r, data) ∈ x.ck.committed.rows → ∀ n, readV (t.core x.core) sl v r n = data.getD n 0) ∧
      ∀ pa v a, x.ck.firstOffsets = [(pa, v)] → apOf s (devOfCore s x.core) (pa + 24) = some a →
        memNat t.mem a 8 = v % 2 ^ 64 ∧ ∀ b, b < a ∨ a + 8 ≤ b → memRead t.mem b = memRead s.mem b) ∧
  (∀ (s : State) (g h : Nat) (x y : Wg) (l : Launch), fget s.wgs g = some x → fget s.wgs h = some y → g ≠ h →
    x.twin = some h → y.twin = some g → x.third = none → y.third = none → x.cg = none → y.cg = none → y.launch = x.launch →
    fget s.launches x.launch = some l → l.rec_.mode = 2 →
    (∀ z ∈ [x, y], z.ck.phase = .taken ∧ z.ck.restoring = false ∧ z.ck.rollbacks < 8 ∧ areaPoisoned s z = false ∧
      z.ck.tau + Config.strikeWindow < (s.core z.core).cycle ∧ ∃ a, z.ck.ackAt = some a ∧ a < (s.core z.core).cycle) →
    x.ck.mismatches < 2 → x.ck.sigmaAt ≠ y.ck.sigmaAt →
    ∃ t x' y', exec (.twinVote g) s = .next t ∧ fget t.wgs g = some x' ∧ fget t.wgs h = some y' ∧
      (t.die (dieOf x.core)).mismatches = ((s.die (dieOf x.core)).mismatches + 1) % 2 ^ 64 ∧
      ∀ p ∈ [(x, x'), (y, y')], Claims.KeptOf p.1 p.2 ∧
        p.2.ck.rollbacks = p.1.ck.rollbacks + 1 ∧ p.2.ck.mismatches = p.1.ck.mismatches + 1 ∧ p.2.ck.pending = none ∧
        p.2.ck.again = true) ∧
  (∀ (s : State) (g h c : Nat) (x y : Wg) (l : Launch), fget s.wgs g = some x → fget s.wgs h = some y → g ≠ h →
    x.twin = some h → y.twin = some g → x.cg = none → y.cg = none → fget s.launches x.launch = some l → l.rec_.mode = 2 →
    x.primary = true → x.third = none → x.ck.mismatches = 2 → clusterOf s c ≠ clusterOf s x.core →
    clusterOf s c ≠ clusterOf s y.core → devOfCore s c = devOfCore s x.core → (thirdOne s g c none).isSome = true →
    areaPoisoned s x = false → g < s.nextWg → h < s.nextWg →
    ∃ t x' y' z, exec (.thirdCopyStart g c) s = .next t ∧ fget t.wgs g = some x' ∧ fget t.wgs h = some y' ∧
      fget t.wgs s.nextWg = some z ∧ x'.third = some s.nextWg ∧ y'.third = some s.nextWg ∧ z.core = c ∧ z.index = x.index ∧
      z.launch = x.launch ∧ z.primary = false ∧ z.laneQ = [] ∧ z.ck.number = x.ck.number ∧
      (t.die (dieOf c)).thirds = ((s.die (dieOf c)).thirds + 1) % 2 ^ 64)

/-! ### The pager -/

namespace Sys2Proof.Claims

/-- Two byte ranges do not meet. -/
def apart (a n b m : Nat) : Prop := a + n ≤ b ∨ b + m ≤ a

/-- What the pager's answer makes of a park record (R396). -/
def answeredPark (va space : Nat) (ok : Bool) (p : Park) : Park :=
  if p.reason = .xlateFault ∧ p.space = space ∧ p.va.toNat / 65536 = va / 65536 then
    { p with reason := if ok then .xlateFault else .xlateError, resolved := ok || p.resolved }
  else p

/-- No copy command is in the engine of any core, and no sequencer waits for a fetch. -/
def noneWait (s : State) : Prop := (∀ c, (s.core c).copies = []) ∧ ∀ c, (s.seq c).stalled = none

end Sys2Proof.Claims

/-- TRANSLATION_WALK_DONE, RESOLVE_RESOLVED and RESOLVE_UNRESOLVABLE (R19, R85, R388, R396): the last walk of an entry that
finds a leaf leaves it in the core's TLB, and the entry issues again; one that finds none parks the lanes with their address
and posts its record; the pager's answer marks the records of the page in the space resolved, or turns them into errors, and
lets the page's next fault post a record again. -/
def Obligations.WalksAndResolves : Prop :=
  (∀ (s : State) (c : Nat) (q : Walk) (w : Warp), (s.core c).walks = [q] → s.warp? c q.slot = some w →
    (s.die (dieOf c)).stopped = false →
    let k := devOfCore s c
    let runs (es : List Entry) : List Entry :=
      es.map fun e => if e.pc.toNat = q.entry ∧ e.wait = .walk then { e with wait := .run } else e
    (∀ p a n, walkPage s k q.space q.va = .leaf p a n →
      ∃ tl, exec (.translationWalkDone c 0) s = .next (s.setCore c { s.core c with
          walks := [], tlb := tl, warps := fput (s.core c).warps q.slot { w with frontier := runs w.frontier, held := runs w.held } }) ∧
        tlbOf q.space q.va p a n ∈ tl ∧ ∀ y ∈ (s.core c).tlb, y ∈ tl) ∧
    (∀ kind sub info e, walkPage s k q.space q.va = .bad kind sub info → e ∈ w.frontier → e.pc.toNat = q.entry →
      (w.frontier.map Entry.pc).Nodup → q.lanes &&& e.mask ≠ 0 →
      ∃ t v, exec (.translationWalkDone c 0) s = .next t ∧ t.mem = s.mem ∧ t.warp? c q.slot = some v ∧
        v.parks = w.parks ++ [{ pc := e.pc, clause := e.clause, mask := q.lanes &&& e.mask, reason := .xlateFault
                                va := BitVec.ofNat 64 q.va, space := q.space, access := q.access, resolved := false
                                seq := w.nextSeq, spill := none }] ∧
        (∀ y ∈ v.frontier, y.pc = e.pc → y.mask = e.mask &&& ~~~q.lanes) ∧ (∀ y ∈ w.frontier, y.pc ≠ e.pc → y.mask ≠ 0 →
          y ∈ v.frontier) ∧
        ((s.dev k).fqen = false → (s.dev k).fqknown = [] → ∃ r, (t.dev k).fqwait = (s.dev k).fqwait ++ [r] ∧ r.kind = kind ∧
          r.sub = sub ∧ r.addr = q.va ∧ r.space = q.space ∧ r.access = q.access))) ∧
  (∀ (s : State) (k : Nat) (va : BitVec 64) (space : BitVec 16) (ok : Bool), Claims.noneWait s → devOpen s k = true →
    let e : Instr := if ok then .resolveResolved k va space else .resolveUnresolvable k va space
    ∃ t, exec e s = .next t ∧ t.mem = s.mem ∧
      (∀ c sl w, devOfCore s c = k → s.warp? c sl = some w →
        t.warp? c sl = some { w with parks := w.parks.map (Claims.answeredPark va.toNat space.toNat ok) }) ∧
      (∀ c, devOfCore s c ≠ k → fget t.cores c = fget s.cores c) ∧
      ∀ p, p ∈ (t.dev k).fqknown ↔ p ∈ (s.dev k).fqknown ∧ p.2 ≠ (space.toNat, va.toNat / 65536))

/-- INVAL_PAGE, INVAL_SPACE, INVAL_ALL, INVAL_COMPLETE, FAULT_QUEUE_CONSUME and FAULT_QUEUE_ENABLE (R392, R394): requests
queue; the oldest completes when every translation of the device that it covers is gone from its cores', its copy engines' and its
code caches, and no other, and INVALSEQ counts it;
records that wait are written to the ring as far as it has room; the queue begins at 0 when it is enabled; after a failed
boot, and at a device that the mode does not have, a write does nothing (R387, R407). -/
def Parts.PagerRegisters : Prop :=
  (∀ (s : State) (k : Nat) (va : BitVec 64) (space : BitVec 16) (size : BitVec 2),
    let ask (q : Inval) : State := s.setDev k { s.dev k with invals := (s.dev k).invals ++ [q] }
    devOpen s k = true →
    exec (.invalPage k va space size) s = .next (ask { kind := 0, va := va.toNat, space := space.toNat, size := size.toNat }) ∧
    exec (.invalSpace k space) s = .next (ask { kind := 1, va := 0, space := space.toNat, size := 0 }) ∧
    exec (.invalAll k) s = .next (ask { kind := 2, va := 0, space := 0, size := 0 })) ∧
  (∀ (s : State) (k : Nat) (q : Inval) (qs : List Inval), (s.dev k).invals = q :: qs → q.kind ≤ 2 →
    let n := if q.size = 0 then 65536 else if q.size = 1 then 2 ^ 21 else 2 ^ 30
    let base := q.va / n * n
    let covers (y : Tlb) : Prop :=
      q.kind = 2 ∨ (y.space = q.space ∧ (q.kind = 1 ∨ (y.va < base + n ∧ base < y.va + y.size)))
    ∃ t, exec (.invalComplete k) s = .next t ∧ t.mem = s.mem ∧ (t.dev k).invals = qs ∧
      (t.dev k).invalseq = ((s.dev k).invalseq + 1) % 2 ^ 64 ∧
      (∀ y, y ∈ (t.dev k).inTlb ↔ y ∈ (s.dev k).inTlb ∧ ¬ covers y) ∧
      ∀ c, devOfCore s c = k → ∀ y, (y ∈ (t.core c).tlb ↔ y ∈ (s.core c).tlb ∧ ¬ covers y) ∧
        (y ∈ (t.core c).copyTlb ↔ y ∈ (s.core c).copyTlb ∧ ¬ covers y) ∧ (y ∈ (t.core c).codeTlb ↔ y ∈ (s.core c).codeTlb ∧
          ¬ covers y)) ∧
  (∀ (s : State) (k : Nat) (v : BitVec 64) (r : FaultRec), (s.dev k).fqwait = [r] → r.entry = none → (s.dev k).fqen = true →
    (s.dev k).fqprod + 1 ≤ v.toNat + 2 ^ (s.dev k).fqlog2n → memWf s.cmem = true → devOpen s k = true →
    let a := (s.dev k).fqbase + 32 * ((s.dev k).fqprod % 2 ^ (s.dev k).fqlog2n)
    ∃ m, exec (.faultQueueConsume k v) s = .next { s with
        devs := fput s.devs k { s.dev k with fqcons := v.toNat, fqwait := [], fqprod := (s.dev k).fqprod + 1 }
        cmem := m } ∧
      memNat m a 32 = (r.addr * 2 ^ 192 + r.launch * 2 ^ 160 + r.space * 2 ^ 144 + r.core * 2 ^ 128 + r.info * 2 ^ 64 + 2 ^ 31 +
        r.access * 2 ^ 16 + r.sub * 2 ^ 8 + r.kind) % 2 ^ 256 ∧
      ∀ b, b < a ∨ a + 32 ≤ b → memRead m b = memRead s.cmem b) ∧
  (∀ (s : State) (k : Nat), (s.dev k).fqen = false → (s.dev k).fqwait = [] → devOpen s k = true →
    exec (.faultQueueEnable k) s = .next (s.setDev k { s.dev k with fqen := true, fqprod := 0 })) ∧
  ∀ (s : State) (k : Nat) (va v : BitVec 64) (space : BitVec 16) (size : BitVec 2), devOpen s k = false →
    ∀ i ∈ [Instr.invalPage k va space size, .invalSpace k space, .invalAll k, .faultQueueConsume k v, .faultQueueEnable k,
      .resolveResolved k va space, .resolveUnresolvable k va space], exec i s = .next s

/-- PAGE_IN_COMPLETE, COPY_ASIDE_COMPLETE and POOL_RETURN_PUSH (R393, R397, R400, R403), nothing waiting for them: a page-in
without a frame takes one from its pool, and waits for one while the pool has none; one that has a frame copies the page
there, swaps its entry if it is as it was and retires the far frame, else returns the frame; a copy-aside copies the page to
its item, logs it and clears SNAP in the entry; a returned frame or item goes into its queue, or waits while that takes none
(DEDUCED, log 97). -/
def Parts.PageMoves : Prop :=
  (∀ (s : State) (k i : Nat) (x : PageIn), (s.dev k).pageins[i]? = some x → Claims.noneWait s →
    (x.near = none → poolPop s k x.queue 0 = .empty → exec (.pageInComplete k i) s = .next s) ∧
    (∀ s1 frame b, x.near = none → poolPop s k x.queue 0 = .item s1 frame b →
      exec (.pageInComplete k i) s =
        .next (s1.setDev k { s1.dev k with pageins := setAt (s1.dev k).pageins i { x with near := some frame } })) ∧
    (∀ near a b p r, x.near = some near → retireRoom s k ≠ 0 → memWf s.mem = true → x.size < 2 ^ 32 → apOf s k x.far = some a →
      apOf s k near = some b → apOf s k x.pteAt = some p →
      apOf s k ((s.dev k).rqbase + 32 * ((s.dev k).rqtotal % 2 ^ (s.dev k).rqlog2n)) = some r →
      Claims.apart a x.size b x.size → Claims.apart b x.size p 8 → Claims.apart b x.size r 32 → Claims.apart p 8 r 32 →
      let new := ((x.pte &&& 0xCFFF_0000_0000_00FF) ||| BitVec.ofNat 64 near) &&& ~~~(1#64 <<< 59)
      ∃ t, exec (.pageInComplete k i) s = .next t ∧ (t.dev k).pageins = dropAt (s.dev k).pageins i ∧
        (∀ n, n < x.size → memRead t.mem (b + n) = memRead s.mem (a + n)) ∧
        (if memNat s.mem p 8 = x.pte.toNat then
          memNat t.mem p 8 = new.toNat ∧
            ∃ e, (t.dev k).retire = (s.dev k).retire ++ [e] ∧ e.act = 2 ∧ e.addr = x.far ∧ e.arg = x.va ∧ e.space = x.space
         else memNat t.mem p 8 = memNat s.mem p 8 ∧ (t.dev k).retire = (s.dev k).retire ∧
            (t.dev k).returns = (s.dev k).returns ++ [(x.queue, near, 0)]))) ∧
  (∀ (s : State) (k i item size a b p : Nat) (x : Aside) (l : Launch), (s.dev k).asides[i]? = some x → Claims.noneWait s →
    x.item = some item → walkPage s k x.space x.va = .leaf x.pte x.pteAt size → x.pte.getLsbD 54 = true →
    snapLaunch s k x.pteAt ≠ none → fget s.launches x.launch = some l → memWf s.mem = true → apOf s k (pteAddr x.pte) = some a →
    apOf s k item = some b → apOf s k x.pteAt = some p → physNat s k x.pteAt 8 = x.pte.toNat → Claims.apart a 65536 b 65536 →
    Claims.apart a 65536 p 8 → Claims.apart b 65536 p 8 →
    ∃ t, exec (.copyAsideComplete k i) s = .next t ∧ (t.dev k).asides = dropAt (s.dev k).asides i ∧
      (∀ n, n < 65536 → memRead t.mem (b + n) = memRead s.mem (a + n)) ∧
      memNat t.mem p 8 = (x.pte &&& ~~~(1#64 <<< 54)).toNat ∧
      fget t.launches x.launch = some { l with
        log := l.log ++ [{ page := pteAddr x.pte, item := item, queue := x.queue }]
        pages := l.pages.filter fun q => decide (q.1 ≠ x.pteAt) }) ∧
  (∀ (s s1 : State) (k q a b : Nat) (rest : List (Nat × Nat × Nat)), (s.dev k).returns = (q, a, b) :: rest →
    (poolPush s k q a b = (s1, true) → exec (.poolReturnPush k) s = .next (s1.setDev k { s1.dev k with returns := rest })) ∧
    (poolPush s k q a b = (s1, false) → exec (.poolReturnPush k) s = .next s1))

/-- Invalidations, fault records, page-ins, copy-asides and pool returns do what the pager's rules say: the statements
PagerRegisters and PageMoves. -/
def Obligations.PagerMoves : Prop := Parts.PagerRegisters ∧ Parts.PageMoves

/-! ### Command queues -/

namespace Sys2Proof.Claims

/-- A queue has passed its packet: RIDX stands after its slots, and it works on none; the other queues and the devices'
registers stay. -/
def Passed (s t : State) (k q : Nat) (p : QPacket) : Prop :=
  t.queue k q = { s.queue k q with ridx := p.first + p.slots, cur := none, waiting := false } ∧
    (∀ n, n ≠ k * 256 + q → fget t.queues n = fget s.queues n) ∧ ∀ j, t.dev j = s.dev j

/-- A queue stands at a boundary inside its packet. -/
def Stands (s t : State) (k q : Nat) (p : QPacket) : Prop :=
  t.queue k q = { s.queue k q with cur := some p, waiting := true } ∧ ∀ n, n ≠ k * 256 + q → fget t.queues n = fget s.queues n

/-- A queue works on a packet of a type; its slice has not lapsed, and no DAWN is asked for. -/
def Works (s : State) (k q type : Nat) (p : QPacket) : Prop :=
  (s.queue k q).cur = some p ∧ p.type = type ∧ (s.queue k q).lapsed = false ∧ (s.dev k).dawn = []

/-- A packet's double at a byte offset. -/
def double (p : QPacket) (off : Nat) : Nat := p.body / 2 ^ (8 * off) % 2 ^ 64

/-- Is an address of a packet one that holds memory (Table 21.5)? -/
def held (s : State) (k a : Nat) : Prop := 2 ^ 63 ≤ a ∨ (apOf s k a).isSome = true

end Sys2Proof.Claims

/-- QUEUE_ENABLE, QUEUE_DISABLE, QUEUE_KICK and PACKET_FETCH (R373, R375 to R378, R383): an idle queue whose ring is in order
runs, owned by its home die's scheduler; EN = 0 stops it; a kick raises KICK, one beyond the ring stops the queue with error
3; the scheduler that may begin a queue's packet reads it at RIDX, and a packet in error stops the queue with its code and its
slot. -/
def Parts.CommandQueues : Prop :=
  ∀ (s : State) (k q : Nat), k < 4 / devDies s.pkg.mode → s.pkg.stage = 6 → q < 256 →
    let x := s.queue k q
    let set (y : CQueue) : State := { s with queues := fput s.queues (k * 256 + q) y }
    (x.en = false → 4 ≤ x.log2n → x.log2n ≤ 16 → x.qbase % 64 = 0 →
      let d := dieAt s.pkg.mode k (x.homedie % devDies s.pkg.mode)
      exec (.queueEnable k q) s = .next (set { x with
        en := true, state := 1, err := 0, erridx := 0, owner := d, since := (s.die d).sched, thief := none })) ∧
    (∃ y, exec (.queueDisable k q) s = .next (set y) ∧ y.en = false ∧ y.state = 0 ∧ y.ridx = x.ridx ∧ y.kick = x.kick ∧
      (∀ p, x.cur = some p → p.type ≠ 2 → y.cur = some p)) ∧
    (∀ v : BitVec 64,
      (v.toNat ≤ x.kick → exec (.queueKick k q v) s = .next s) ∧
      (x.kick < v.toNat → v.toNat ≤ x.ridx + 2 ^ x.log2n → exec (.queueKick k q v) s = .next (set { x with kick := v.toNat })) ∧
      (x.kick < v.toNat → x.ridx + 2 ^ x.log2n < v.toNat →
        ∃ t, exec (.queueKick k q v) s = .next t ∧ (t.queue k q).state = 2 ∧ (t.queue k q).err = 3 ∧ (t.queue k q).kick = x.kick)) ∧
    (queueReady s k q = true → dieBusy s k q = false → (s.die x.owner).turn = some (k * 256 + q) → x.slice = 0 →
      let n := (typeSlots (slotsNat s x x.ridx 1 % 256)).getD 1
      let b := slotsNat s x x.ridx n
      (packetErr s k b = 0 → exec (.packetFetch k q) s = .next (set { x with
        cur := some { type := b % 256, first := x.ridx, slots := n, body := b, launch := none, grace := none }, waiting := false })) ∧
      (packetErr s k b ≠ 0 → ∃ t, exec (.packetFetch k q) s = .next t ∧ (t.queue k q).state = 2 ∧
        (t.queue k q).err = packetErr s k b ∧ (t.queue k q).erridx = x.ridx % 2 ^ 32))

/-- LAUNCH_PACKET (R374, R378, R380): a launch with the device's next LAUNCHID and the record's fields; one with a field
outside its limits, or that could never be resident, ends before it runs; another, without a snapshot set, runs, and unless it
is persistent the queue has passed the packet; inside a persistent one's it stands, at no boundary, until all of it is
resident (R379). -/
def Parts.LaunchPackets : Prop :=
  ∀ (s : State) (k q : Nat) (p : QPacket), Claims.Works s k q 1 p → p.launch = none → orderedMaps s = true →
    let l := s.nextLaunch
    let r := recOf (p.body / 2 ^ 512 % 2 ^ 2048)
    let entered (t : State) (x : Launch) : Prop := exec (.launchPacket k q) s = .next t ∧ t.mem = s.mem ∧ t.nextLaunch = l + 1 ∧
      fget t.launches l = some x ∧ x.dev = k ∧ x.id = (s.dev k).launchCtr % 0xFFFF_FFFF + 1 ∧ x.rec_ = r ∧ x.queue = q ∧
      x.tag = p.body / 2 ^ 32 % 2 ^ 32 ∧ x.comp.toNat = Claims.double p 8 ∧ x.attempt = 0 ∧ x.next = 0 ∧
      (t.dev k).launchCtr = x.id
    (recInvalid r = true → ∃ t x, entered t x ∧ x.phase = .ended ∧ x.status = 4) ∧
    (recInvalid r = false → noResidence s k r = true → ∃ t x, entered t x ∧ x.phase = .ended ∧ x.status = 3) ∧
    (recInvalid r = false → noResidence s k r = false → r.snapset = 0 →
      ∃ t x, entered t x ∧ x.phase = .running ∧
        (r.kind ≠ 1 → (t.queue k q).ridx = p.first + p.slots ∧ (t.queue k q).cur = none) ∧
        (r.kind = 1 → ∃ p', (t.queue k q).cur = some p' ∧ p'.launch = some l ∧ (t.queue k q).ridx = (s.queue k q).ridx))

/-- The other packets (R295, R378, R386, Table 21.5): a WAIT passes when its condition holds and stands till then; a SIGNAL
writes or adds 8 bytes, a WRITE_THEN_SIGNAL writes 32 and then 8, a COPY copies its bytes; a FENCE passes; a HANDOVER passes,
and one that handed a page over stays among the packets that have not completed, for which a BARRIER waits, until a grace
period has (DEDUCED, log 40); a WAIT or a COPY whose source names no memory reads 0 (DESIGN CHOICE, log 41); a DAWN, or a
write of DAWNREG, writes the device's summary once every queue of the device stands at a boundary. -/
def Parts.PacketEffects : Prop :=
  ∀ (s : State) (k q : Nat) (p : QPacket), memWf s.mem = true → memWf s.cmem = true →
    let a := Claims.double p 8
    let done (t : State) : Prop := Claims.Passed s t k q p
    (Claims.Works s k q 2 p →
      let met := if Claims.double p 24 = 0 then outNat s k a 8 = Claims.double p 16 else Claims.double p 16 ≤ outNat s k a 8
      (met → (∃ t, exec (.waitPacket k q) s = .next t ∧ done t ∧ t.mem = s.mem ∧ t.cmem = s.cmem) ∧
        ((s.queue k q).waiting = true →
          ∃ t, exec (.waitConditionMet k q) s = .next t ∧ done t ∧ t.mem = s.mem ∧ t.cmem = s.cmem)) ∧
      (¬ met → exec (.waitConditionMet k q) s = .next s ∧
        ∃ t, exec (.waitPacket k q) s = .next t ∧ Claims.Stands s t k q p ∧ t.mem = s.mem ∧ t.cmem = s.cmem)) ∧
    (Claims.Works s k q 3 p → Claims.held s k a → a + 8 ≤ 2 ^ 64 →
      ∃ t, exec (.signalPacket k q) s = .next t ∧ done t ∧
        outNat t k a 8 = if Claims.double p 24 = 0 then Claims.double p 16 else (outNat s k a 8 + Claims.double p 16) % 2 ^ 64) ∧
    (Claims.Works s k q 4 p → Claims.held s k a → 2 ^ 63 ≤ Claims.double p 16 → 2 ^ 63 ≤ a →
      Claims.apart a 32 (Claims.double p 16) 8 →
      ∃ t, exec (.writeThenSignalPacket k q) s = .next t ∧ done t ∧ t.mem = s.mem ∧
        memNat t.cmem (a - 2 ^ 63) 32 = p.body / 2 ^ 256 % 2 ^ 256 ∧
        memNat t.cmem (Claims.double p 16 - 2 ^ 63) 8 = Claims.double p 24 ∧
        ∀ b, (b < a - 2 ^ 63 ∨ a - 2 ^ 63 + 32 ≤ b) → (b < Claims.double p 16 - 2 ^ 63 ∨ Claims.double p 16 - 2 ^ 63 + 8 ≤ b) →
          memRead t.cmem b = memRead s.cmem b) ∧
    (Claims.Works s k q 5 p → Claims.held s k (Claims.double p 16) →
      ∃ t, exec (.copyPacket k q) s = .next t ∧ done t ∧
        outNat t k (Claims.double p 16) (Claims.double p 24) = outNat s k a (Claims.double p 24)) ∧
    (Claims.Works s k q 7 p → ∃ t, exec (.fencePacket k q) s = .next t ∧ done t ∧ t.mem = s.mem ∧ t.cmem = s.cmem) ∧
    (Claims.Works s k q 6 p →
      (handPageOk s k a = false → 0 < Claims.double p 16 →
        ∃ t, exec (.handoverPacket k q) s = .next t ∧ done t ∧ t.mem = s.mem) ∧
      (handPageOk s k a = true → Claims.double p 16 = 1 →
        ∃ t, exec (.handoverPacket k q) s = .next t ∧
          t.queue k q = { s.queue k q with
            ridx := p.first + p.slots, cur := none, waiting := false
            open_ := (s.queue k q).open_ ++ [{ p with grace := some (((s.dev k).vesper.f + 2) % 2 ^ 32) }] })) ∧
    ((∀ p, (s.queue k q).cur = some p → p.type ≠ 6) → ∃ t, exec (.handoverPacket k q) s = .next t ∧
      t = { s with queues := t.queues } ∧ (∀ n, n ≠ k * 256 + q → fget t.queues n = fget s.queues n) ∧
      t.queue k q = { s.queue k q with open_ := (t.queue k q).open_ } ∧
      ∀ o, o ∈ (t.queue k q).open_ ↔ o ∈ (s.queue k q).open_ ∧
        ¬ (o.type = 6 ∧ ∃ g, o.grace = some g ∧ serialGe (s.dev k).vesper.c g = true)) ∧
    (let n := 8384 + 32 * (s.launches.filter fun y => decide (y.2.dev = k ∧ y.2.phase ≠ .ended)).length
     let summary (t : State) (b : Nat) : Prop := memNat t.cmem (b - 2 ^ 63) 4 = 1 ∧ memNat t.cmem (b - 2 ^ 63 + 4) 4 = n % 2 ^ 32 ∧
       ∀ c, c < b - 2 ^ 63 ∨ b - 2 ^ 63 + n ≤ c → memRead t.cmem c = memRead s.cmem c
     allBoundary s k = true →
     (Claims.Works s k q 8 p → 2 ^ 63 ≤ a → ∃ t, exec (.dawnPacket k q) s = .next t ∧ done t ∧ t.mem = s.mem ∧ summary t a) ∧
     ∀ b : BitVec 64, 2 ^ 63 ≤ b.toNat → devOpen s k = true → (s.dev k).dawn = [] →
       ∃ t, exec (.dawnRequest k b) s = .next t ∧ t.mem = s.mem ∧ t.queues = s.queues ∧ summary t b.toNat ∧ (t.dev k).dawn = [])

/-- A command packet launches, waits, signals, writes, copies, hands over or reports, and its queue passes it: the statements
LaunchPackets and PacketEffects. -/
def Obligations.Packets : Prop := Parts.LaunchPackets ∧ Parts.PacketEffects

/-- SLICE_EXPIRY, STEAL_REQUEST, QUEUE_OWNERSHIP_PASS, QUEUE_RETURN_HOME and MAILBOX_MESSAGE (R382, R383, R385): a queue whose
slice has passed while a rival is ready loses its turn, at once at a boundary, else at its packet's end; a neighbour with
nothing ready may ask for a queue that allows it, which passes at its next boundary, and goes home at a boundary once its
owner has another ready; a message reaches the next die's mailbox while that holds fewer than 64. -/
def Parts.QueueOwners : Prop :=
  (∀ (s : State) (k q : Nat), let x := s.queue k q
    let boundary := x.cur = none ∨ x.waiting = true ∧ x.cur.map QPacket.type = some 2
    (sliceOver s k q = true → rivalReady s k q = true →
      (boundary → ∃ t, exec (.sliceExpiry k q) s = .next t ∧ (t.queue k q).turnFrom = none ∧
        (t.queue k q).since = (s.die x.owner).sched ∧
        (t.die x.owner).turn ≠ some (k * 256 + q) ∧ (t.queue k q).ridx = x.ridx ∧ (t.queue k q).owner = x.owner) ∧
      (¬ boundary → x.cur.map QPacket.type ≠ some 8 →
        exec (.sliceExpiry k q) s = .next { s with queues := fput s.queues (k * 256 + q) { x with lapsed := true } })) ∧
    (∀ d, s.pkg.mode ≠ 2 → x.en = true → x.nosteal = false → ((x.owner + 1) % 4 = d ∨ (d + 1) % 4 = x.owner) →
      devOfDie s.pkg.mode d = k → devOfDie s.pkg.mode x.owner = k → (∀ p ∈ runList s d, queueReady s p.1 p.2 = false) →
      exec (.stealRequest d k q) s = .next { s with queues := fput s.queues (k * 256 + q) { x with thief := some d } }) ∧
    (∀ d, x.thief = some d → x.nosteal = false → boundary →
      ∃ t, exec (.queueOwnershipPass k q) s = .next t ∧ (t.queue k q).owner = d ∧ (t.queue k q).thief = none ∧
        (t.queue k q).ridx = x.ridx ∧ (t.queue k q).kick = x.kick ∧ t.mem = s.mem ∧
        ∀ n, n ≠ k * 256 + q → fget t.queues n = fget s.queues n) ∧
    (let home := dieAt s.pkg.mode k (x.homedie % devDies s.pkg.mode)
     x.en = true → x.owner ≠ home → boundary → (∃ p ∈ runList s x.owner, p ≠ (k, q) ∧ queueReady s p.1 p.2 = true) →
     ∃ t, exec (.queueReturnHome k q) s = .next t ∧ (t.queue k q).owner = home ∧ (t.queue k q).ridx = x.ridx ∧ t.mem = s.mem)) ∧
  (∀ (s : State) (d : Nat) (m : BitVec 128), let e := (d + 1) % 4
    ((s.die e).mailbox.length < 64 →
      exec (.mailboxMessage d m) s = .next (s.setDie e { s.die e with mailbox := (s.die e).mailbox ++ [m] })) ∧
    (64 ≤ (s.die e).mailbox.length → exec (.mailboxMessage d m) s = .next s))

/-- Command queues start, stop, are kicked and fetched, lose their turn, and pass between dies: the statements CommandQueues
and QueueOwners. -/
def Obligations.QueuesAndOwners : Prop := Parts.CommandQueues ∧ Parts.QueueOwners

namespace Sys2Proof.Claims

/-- An event completes with an effect whenever a condition on the state holds. -/
def CompletesWhen (s : State) (i : Instr) (condition : Prop) (effect : State → Prop) : Prop :=
  condition → ∃ t, exec i s = .next t ∧ effect t

end Sys2Proof.Claims

/-- The pager's events at device k, each with what it works on and its own effect: a request or a value enters a register, the
oldest invalidation is counted, the fault queue opens, a page-in takes its frame or ends, a copy-aside takes its item, a pool
return is taken from the list (R392 to R394, R397, R400, R403), as the device's own pops and pushes go (DEDUCED, log 97). -/
def Parts.PagerEventsComplete : Prop :=
  ∀ (s : State) (k i : Nat) (va v : BitVec 64) (space : BitVec 16) (size : BitVec 2),
    let asked (q : Inval) (t : State) : Prop := (t.dev k).invals = (s.dev k).invals ++ [q]
    Claims.CompletesWhen s (.invalPage k va space size) (devOpen s k = true)
      (asked { kind := 0, va := va.toNat, space := space.toNat, size := size.toNat }) ∧
    Claims.CompletesWhen s (.invalSpace k space) (devOpen s k = true) (asked { kind := 1, va := 0, space := space.toNat, size := 0 }) ∧
    Claims.CompletesWhen s (.invalAll k) (devOpen s k = true) (asked { kind := 2, va := 0, space := 0, size := 0 }) ∧
    Claims.CompletesWhen s (.invalComplete k) ((s.dev k).invals ≠ []) (fun t =>
      (t.dev k).invals = (s.dev k).invals.tail ∧ (t.dev k).invalseq = ((s.dev k).invalseq + 1) % 2 ^ 64) ∧
    Claims.CompletesWhen s (.faultQueueConsume k v) (devOpen s k = true) (fun t => (t.dev k).fqcons = v.toNat) ∧
    Claims.CompletesWhen s (.faultQueueEnable k) (devOpen s k = true ∧ (s.dev k).fqen = false) (fun t => (t.dev k).fqen = true) ∧
    (∀ x s1 a b, Claims.CompletesWhen s (.pageInComplete k i)
      ((s.dev k).pageins[i]? = some x ∧ x.near = none ∧ poolPop s k x.queue 0 = .item s1 a b)
      (fun t => (t.dev k).pageins = setAt (s1.dev k).pageins i { x with near := some a })) ∧
    Claims.CompletesWhen s (.pageInComplete k i)
      ((∃ x, (s.dev k).pageins[i]? = some x ∧ x.near.isSome = true) ∧ retireRoom s k ≠ 0 ∧ Claims.noneWait s)
      (fun t => (t.dev k).pageins = dropAt (s.dev k).pageins i) ∧
    (∀ x p at_ n s1 a b, Claims.CompletesWhen s (.copyAsideComplete k i)
      ((s.dev k).asides[i]? = some x ∧ x.item = none ∧ walkPage s k x.space x.va = .leaf p at_ n ∧
        p.getLsbD 54 = true ∧ (snapLaunch s k at_).isSome = true ∧ poolPop s k x.queue x.byLaunch = .item s1 a b)
      (fun t => (t.dev k).asides = setAt (s1.dev k).asides i { x with item := some a, pte := p, pteAt := at_ })) ∧
    Claims.CompletesWhen s (.poolReturnPush k)
      (∃ q a b rest, (s.dev k).returns = (q, a, b) :: rest ∧ (poolPush s k q a b).2 = true)
      (fun t => (t.dev k).returns = (s.dev k).returns.tail)

/-- The packet events at queue q of device k, which works on packet p, and the write of DAWNREG: what each asks for and its own
effect. A packet's queue has passed it; a LAUNCH has entered its launch; a WAIT whose condition does not hold stands (R295, R378,
R380, R386, Table 21.5). SIGNAL, WRITE-THEN-SIGNAL and COPY pass whatever their addresses name (DESIGN CHOICE, log 41), and a
HANDOVER passes at once (DEDUCED, log 40). -/
def Parts.PacketEventsComplete : Prop :=
  ∀ (s : State) (k q : Nat) (p : QPacket) (a : BitVec 64),
    let passed (t : State) : Prop := (t.queue k q).ridx = p.first + p.slots ∧ (t.queue k q).cur = none
    let read := outNat s k (Claims.double p 8) 8
    let met : Prop := if Claims.double p 24 = 0 then read = Claims.double p 16 else Claims.double p 16 ≤ read
    Claims.CompletesWhen s (.launchPacket k q) (Claims.Works s k q 1 p ∧ p.launch = none) (fun t =>
      ∃ x, fget t.launches s.nextLaunch = some x ∧ x.dev = k ∧ x.queue = q ∧ x.rec_ = recOf (p.body / 2 ^ 512 % 2 ^ 2048)) ∧
    Claims.CompletesWhen s (.waitPacket k q) (Claims.Works s k q 2 p ∧ met) passed ∧
    Claims.CompletesWhen s (.waitPacket k q) (Claims.Works s k q 2 p ∧ ¬ met)
      (fun t => (t.queue k q).cur = some p ∧ (t.queue k q).waiting = true) ∧
    Claims.CompletesWhen s (.waitConditionMet k q) (Claims.Works s k q 2 p ∧ met ∧ (s.queue k q).waiting = true) passed ∧
    Claims.CompletesWhen s (.signalPacket k q) (Claims.Works s k q 3 p) passed ∧
    Claims.CompletesWhen s (.writeThenSignalPacket k q) (Claims.Works s k q 4 p) passed ∧
    Claims.CompletesWhen s (.copyPacket k q) (Claims.Works s k q 5 p) passed ∧
    Claims.CompletesWhen s (.handoverPacket k q) (Claims.Works s k q 6 p) passed ∧
    Claims.CompletesWhen s (.fencePacket k q) (Claims.Works s k q 7 p) passed ∧
    Claims.CompletesWhen s (.dawnPacket k q) (Claims.Works s k q 8 p ∧ allBoundary s k = true) passed ∧
    Claims.CompletesWhen s (.dawnRequest k a) (devOpen s k = true)
      (fun t => (t.dev k).dawn = if allBoundary s k = true then [] else (s.dev k).dawn ++ [a.toNat])

/-- Every event of the pager and every packet event completes with its own effect when what it works on is there: the statements
PagerEventsComplete and PacketEventsComplete. -/
def Obligations.PagerAndPacketEventsComplete : Prop := Parts.PagerEventsComplete ∧ Parts.PacketEventsComplete

/-! ### The module's registers, boot, reliability, links and power -/

/-- REGISTER_WRITE, EXP_WRITE, PWIN_WRITE, HCSHARE_WRITE, CLKPT_WRITE and PODMEM_WRITE (R7, R361, R366, R369, R407): after a
boot failure a write does nothing; a write of a plain field changes registers only, takes the value where its condition holds
and is ignored where it does not; an export and a window are as written; a share is taken by a drained device, with tag 0 in
its granules (R56, R107), a clock point up to 5 is headed for, the pod's members by the device that is its root. -/
def Parts.RegisterWrites : Prop :=
  ∀ (s : State) (v : BitVec 64), let n := v.toNat
    (∀ r, bootStopped s = true → exec (.registerWrite r v) s = .next s) ∧
    (∀ r, ∃ t, exec (.registerWrite r v) s = .next t ∧
      t = { s with
        pkg := { s.pkg with repout := t.pkg.repout, pwrcap := t.pkg.pwrcap }, devs := t.devs, dies := t.dies, queues := t.queues }) ∧
    (∀ o, exec (.registerWrite (.readOnly o) v) s = .next s) ∧
    (bootStopped s = false →
      exec (.registerWrite .pwrcap v) s = .next { s with pkg := { s.pkg with pwrcap := max 1000 (n % 2 ^ 16) } } ∧
      ∀ k, k < 4 / devDies s.pkg.mode →
        let set (d : Dev) : State := s.setDev k d
        exec (.registerWrite (.sptbase k) v) s = .next (if launchHere s k then s else set { s.dev k with sptbase := n }) ∧
        exec (.registerWrite (.fqbase k) v) s = .next (if (s.dev k).fqen then s else set { s.dev k with fqbase := n }) ∧
        exec (.registerWrite (.fqenClear k) v) s = .next (set { s.dev k with fqen := false }) ∧
        exec (.registerWrite (.devnum k) v) s = .next (if (s.dev k).span then s else set { s.dev k with devnum := n % 2 ^ 10 }) ∧
        (∀ q, q < 256 → s.pkg.stage = 6 → exec (.registerWrite (.qbase k q) v) s =
          .next (if (s.queue k q).en then s
            else { s with queues := fput s.queues (k * 256 + q) { s.queue k q with qbase := n } })) ∧
        (∀ share : BitVec 2,
          (¬ (drained s k = true ∧ share ≠ 3) → exec (.hcshareWrite k share) s = .next s) ∧
          (drained s k = true → share ≠ 3 → (∀ p ∈ s.cores, risingFrom 0 p.2.tags = true) →
            ∃ t, exec (.hcshareWrite k share) s = .next t ∧
              t = { set { s.dev k with hcshare := share.toNat } with cores := t.cores } ∧ ∀ c,
                (devOfCore s c ≠ k → t.core c = s.core c) ∧
                (devOfCore s c = k → t.core c = { s.core c with tags := (t.core c).tags } ∧
                  ∀ n, granTag (t.core c) n = if n * 64 < addressable share.toNat then granTag (s.core c) n else 0))) ∧
        (∀ p : BitVec 3, 5 < p.toNat → exec (.clkptWrite k p) s = .next s) ∧
        (∀ p : BitVec 3, p.toNat ≤ 5 → (s.dev k).clkTarget ≤ (s.dev k).clkpt →
          exec (.clkptWrite k p) s = .next (set { s.dev k with clkpt := p.toNat, clkTarget := p.toNat })) ∧
        (∀ m : BitVec 1024, (s.dev k).rootdev = (s.dev k).devnum → ∃ d, exec (.podmemWrite k m) s = .next (set d) ∧
          d = { s.dev k with podmem := m, pod := d.pod, podIn := d.podIn, podTold := d.podTold } ∧
          d.pod.f = (s.dev k).pod.f ∧ d.pod.c = (s.dev k).pod.c) ∧
        ∀ (i : Nat) (w : BitVec 128),
          exec (.expWrite k i w) s = .next { s with exports := fput s.exports (k * 4096 + i) (
            { key := w.extractLsb' 112 16, space := (w.extractLsb' 96 16).toNat, valid := w.getLsbD 90, ring := w.getLsbD 89
              size := (w.extractLsb' 64 25).toNat, base := (w.extractLsb' 0 64).toNat } : Export) } ∧
          exec (.pwinWrite k i w) s = .next { s with windows := fput s.windows (k * 64 + i) (
            { size := (w.extractLsb' 64 25).toNat, valid := w.getLsbD 63, target := (w.extractLsb' 44 10).toNat
              exp := (w.extractLsb' 32 12).toNat, key := w.extractLsb' 0 16 } : Window) })

/-- PMODE_MODE_WRITE, MODE_CHANGE_DONE, PMODE_REFUSED_CLEAR, CLOCK_STRETCH_DONE and the CXL ports (R364, R367, R368, R421): a
quiet package takes a new mode, any other write of one sets REFUSED; with the new mode no translation, no tag and no count of
the old one is left, and memory stays; a port trains when it is enabled, a Type 3 device is used up to 1 TiB and another
refused, and a port goes down unless a far frame of it is mapped. -/
def Parts.PartitionsAndPorts : Prop :=
  ∀ (s : State),
    (s.pkg.busy = true → ∃ t, exec .modeChangeDone s = .next t ∧ t.pkg = { s.pkg with mode := s.pkg.modeNext, busy := false } ∧
      t.mem = s.mem ∧ t.cmem = s.cmem ∧
      (∀ c n, (t.core c).tlb = [] ∧ (t.core c).copyTlb = [] ∧ (t.core c).codeTlb = [] ∧ (t.core c).icache = [] ∧
        (t.core c).gen = 1 ∧ (t.core c).f = 0 ∧ (t.core c).c = 0 ∧
        granTag (t.core c) n = 0 ∧ (rowAt (t.core c) n).tag = 0) ∧
      ∀ d, (t.die d).vesper = Vesper.reset ∧ (t.dev d).vesper = Vesper.reset ∧ (t.dev d).launchCtr = 0 ∧ (t.dev d).inTlb = []) ∧
    (∀ k, exec (.clockStretchDone k) s = .next (s.setDev k { s.dev k with eclkpt := (s.dev k).clkTarget })) ∧
    (∀ p type3 cap, (cxlOf s p).state = 1 → ∃ t, exec (.cxlTrainingDone p type3 cap) s = .next t ∧
      cxlOf t p = { cxlOf s p with state := if type3 then 2 else 3, cap := if type3 then min cap (2 ^ 24) else 0 } ∧
      t = { s with pkg := { s.pkg with cxl := t.pkg.cxl } }) ∧
    (bootStopped s = false →
      exec .pmodeRefusedClear s = .next { s with pkg := { s.pkg with refused := false } } ∧
      (∀ m : BitVec 2,
        (m.toNat = s.pkg.mode → exec (.pmodeModeWrite m) s = .next s) ∧
        (m.toNat ≠ s.pkg.mode → exec (.pmodeModeWrite m) s = .next { s with
          pkg := if m ≠ 3 ∧ quiet s = true then { s.pkg with busy := true, modeNext := m.toNat } else { s.pkg with refused := true } })) ∧
      ∀ p,
        ((cxlOf s p).en = false → ∃ t, exec (.cxlPortEnable p) s = .next t ∧ cxlOf t p = { en := true, state := 1, cap := 0 } ∧
          t = { s with pkg := { s.pkg with cxl := t.pkg.cxl } }) ∧
        (portMapped s p = false → ∃ t, exec (.cxlPortDisable p) s = .next t ∧ cxlOf t p = { en := false, state := 0, cap := 0 } ∧
          t = { s with pkg := { s.pkg with cxl := t.pkg.cxl } }) ∧
        (portMapped s p = true → exec (.cxlPortDisable p) s = .next s))

/-- Register writes change their field and nothing else; a mode change leaves nothing of the old mode but memory: the
statements RegisterWrites and PartitionsAndPorts. -/
def Obligations.RegistersAndPartitions : Prop := Parts.RegisterWrites ∧ Parts.PartitionsAndPorts

/-- POWER_ON, IMAGE_LOAD, the repair and attestation moves (R407, R408, R411, R413, R414): power-on leaves reset values, at
STAGE 3 if the key and the self-test are good, with the device's public key as IDKEY; more than 10 bad positions of a die stop
the boot at STAGE 2; an image in order, of its stated length and signed, moves the boot on, any other leaves its code in
BOOTERR: the codes 5, 4 and 3 in that order, BOOTERR 0 with an accepted image, and the firmware from TCM offset 0, are the
model's choice (log 12), as is the layout that gives an image's parts (log 13); a repair puts a pending core on a spare
position, the lowest free one of column 16 that was never retired (DESIGN CHOICE, log 17); a quote holds its length, the
nonce, the measurements and the key, and nothing is written beyond its 384 bytes. -/
def Obligations.BootAndRepair : Prop :=
  (∀ (s : State) (bist : Bool),
    let kept (p : Package) : State := { State.reset with
      pkg := p, cmem := s.cmem, linkOut := s.linkOut, debug := s.debug, freeCtr := s.freeCtr, agenda := s.agenda, cur := s.cur }
    exec (.powerOn false bist []) s = .next (kept { Package.reset with stage := 1, booterr := 1 }) ∧
    exec (.powerOn true false []) s = .next (kept { Package.reset with idkey := edPublic identitySeed, stage := 2, booterr := 2 }) ∧
    exec (.powerOn true true []) s = .next (kept { Package.reset with idkey := edPublic identitySeed, stage := 3 }) ∧
    ∀ d bad, d < 4 → 10 < (badOf bad d).length →
      ∃ t, exec (.powerOn true bist bad) s = .next t ∧ t.pkg.stage = 2 ∧ t.pkg.booterr = 2 ∧ t.pkg.badPos = bad) ∧
  (∀ (s : State) (a : BitVec 64),
    let i := Config.readImage s.cmem a.toNat
    let msg := Config.signedPart i.kind i.length i.key i.payload
    let signed := i.payload.length = i.length ∧
      ((sha512 (bytesOfNat 32 Config.rootKey.toNat) = Config.rootDigest ∧ edVerify Config.rootKey msg i.sig = true) ∨
        (i.kind = 2 ∧ edVerify s.pkg.idkey msg i.sig = true)) ∧
      (i.key = s.pkg.idkey ∨ (i.key = 0 ∧ i.kind ≠ 2))
    let expected := (s.pkg.stage = 3 ∧ i.kind = 1) ∨ (s.pkg.stage = 4 ∧ i.kind = 2) ∨ (s.pkg.stage = 5 ∧ i.kind = 3)
    let failed (e : Nat) : State := { s with pkg := { s.pkg with booterr := e } }
    exec (.imageLoad a false) s = .next (failed 5) ∧ (¬ expected → exec (.imageLoad a true) s = .next (failed 4)) ∧
    (expected → ¬ signed → exec (.imageLoad a true) s = .next (failed 3)) ∧
    (expected → signed → i.kind = 3 → s.pkg.firmware = 3 → s.pkg.badPos = [] → s.pkg.repout = 0 →
      (∀ c, c < 640 → (coreStat s c).pendret = false) →
      ∃ t, exec (.imageLoad a true) s = .next t ∧ t.pkg.firmware = 4 ∧ t.pkg.stage = 6 ∧ t.pkg.booterr = 0 ∧ t.mem = s.mem) ∧
    (expected → signed → i.kind ≠ 3 → ∃ t, exec (.imageLoad a true) s = .next t ∧ t.pkg.booterr = 0 ∧
      t.pkg.stage = s.pkg.stage + 1 ∧
      t.pkg.meas = sha512 (bytesOfNat 64 s.pkg.meas.toNat ++ bytesOfNat 64 (sha512 i.payload).toNat) ∧
      (i.kind = 2 → t.pkg.repair = sha512 i.payload)) ∧
    (expected → signed → i.kind = 3 → s.pkg.firmware < 3 → ∃ t, exec (.imageLoad a true) s = .next t ∧
      t.pkg.firmware = s.pkg.firmware + 1 ∧ t.pkg.stage = 5 ∧
      ∀ n, n < 262144 → memRead (t.die s.pkg.firmware).tcm n = i.payload.getD n 0)) ∧
  (∀ (s : State), bootStopped s = false →
    (quiet s = true → s.pkg.rasBusy = false → exec .repairApply s = .next { s with pkg := { s.pkg with rasBusy := true } }) ∧
    (quiet s = false ∨ s.pkg.rasBusy = true → exec .repairApply s = .next { s with pkg := { s.pkg with rasRefused := true } }) ∧
    exec .rasRefusedClear s = .next { s with pkg := { s.pkg with rasRefused := false } } ∧
    exec .attdropClear s = .next { s with pkg := { s.pkg with attdrop := false } } ∧
    (∀ d j, j < 160 → ∃ t, exec (.pendretSet d j) s = .next t ∧ t = { s with dies := t.dies } ∧
      coreStat t (d * 160 + j) = { coreStat s (d * 160 + j) with pendret := true }) ∧
    ∀ a : BitVec 64,
      (s.pkg.attreqs.length < 4 →
        exec (.attestationRequest a) s = .next { s with pkg := { s.pkg with attreqs := s.pkg.attreqs ++ [a.toNat] } }) ∧
      (4 ≤ s.pkg.attreqs.length → exec (.attestationRequest a) s = .next { s with pkg := { s.pkg with attdrop := true } })) ∧
  (∀ (s : State) (c y : Nat), s.pkg.rasBusy = true → c < 640 → (coreStat s c).pendret = true →
    (∀ e, e < 640 → e ≠ c → (coreStat s e).pendret = false) → 0 < (s.die (dieOf c)).spares → y < 10 →
    let free (z : Nat) : Prop := (16, z) ∉ (s.die (dieOf c)).retired ∧
      ∀ j, j < 160 → ¬ ((corePlace s (dieOf c * 160 + j)).1 = 16 ∧ (corePlace s (dieOf c * 160 + j)).2.1 = z)
    free y → (∀ z, z < y → ¬ free z) →
    ∃ t, exec .repairApplyDone s = .next t ∧ t.pkg.rasBusy = false ∧ t.mem = s.mem ∧ corePlace t c = (16, y, (corePlace s c).2.2) ∧
      (∀ e, e ≠ c → corePlace t e = corePlace s e) ∧ (t.die (dieOf c)).spares = (s.die (dieOf c)).spares - 1 ∧
      coreStat t c = CoreStat.reset) ∧
  (∀ (s : State) (a : Nat) (rest : List Nat), s.pkg.attreqs = a :: rest → s.pkg.busy = false → s.pkg.rasBusy = false →
    memWf s.cmem = true →
    let b := memNat s.cmem (a + 64) 8
    ∃ m, exec .quoteWrite s = .next { s with pkg := { s.pkg with attreqs := rest }, cmem := m } ∧
      memNat m b 4 = 1 ∧ memNat m (b + 4) 4 = 384 ∧ (∀ i, i < 64 → memRead m (b + 64 + i) = memRead s.cmem (a + i)) ∧
      memNat m (b + 128) 64 = s.pkg.meas.toNat ∧ memNat m (b + 192) 64 = s.pkg.repair.toNat ∧
      memNat m (b + 256) 32 = s.pkg.idkey.toNat ∧ ∀ c, c < b ∨ b + 384 ≤ c → memRead m c = memRead s.cmem c)

/-- The monitors, peer links, heartbeats, relays, power and temperature (R412, R415 to R417, R420, R421): the oldest sample
that a monitor is yet to count enters it, and of the temperature what the sensors give at a boundary, unless it is frozen (the
model's choices of the boundaries and of the power step's cycles, logs 86 and 87); a cleared or newly configured one starts
afresh; a link trains, knows its peer, and is down when it is disabled or misses four heartbeats, an interval with one being
none; traffic for another device leaves on this device's route, and without one fails at the peer of the link it came on
(DEDUCED, log 66); a device over the power cap or with a die above 105 degrees steps down one point a tick, and back up one
point at every tick after ten calm ones (DEDUCED, log 65); a die stops above 115 degrees and runs again below 100. -/
def Obligations.MonitorsLinksAndPower : Prop :=
  (∀ (s : State) (d m : Nat), let x := monitorOf s d m
    let counts (v u lastAt : Nat) (due : List Nat) : Prop :=
      let b := if u = 0 then 0 else min 31 (Nat.log2 u + 1)
      ∃ t y, exec (.monitorSample d m v) s = .next t ∧ t = { s with dies := t.dies } ∧ monitorOf t d m = y ∧
        y = { x with
          lastAt := lastAt, due := due, min := min x.min u, max := max x.max u, cnt := (x.cnt + 1) % 2 ^ 64, bins := y.bins } ∧
        fget y.bins b = some (min ((fget x.bins b).getD 0 + 1) (2 ^ 32 - 1)) ∧ ∀ i, i ≠ b → fget y.bins i = fget x.bins i
    (∀ v, x.qty = 7 → x.freeze = false → temperatureDue s d x = true → counts v (min v (2 ^ 32 - 1)) (s.die d).cycle x.due) ∧
    (∀ v u rest, x.qty ≠ 7 → x.due = u :: rest → counts v u x.lastAt rest) ∧
    (∀ v, (x.qty = 7 ∧ (x.freeze = true ∨ temperatureDue s d x = false)) ∨ (x.qty ≠ 7 ∧ x.due = []) →
      exec (.monitorSample d m v) s = .next s) ∧
    (bootStopped s = false →
      (∃ t, exec (.monitorClear d m) s = .next t ∧ t = { s with dies := t.dies } ∧
        monitorOf t d m = { x with min := 2 ^ 32 - 1, max := 0, cnt := 0, bins := [], due := [] }) ∧
      ∀ (q : BitVec 4) (r : BitVec 10), q.toNat < 9 → x.qty ≠ q.toNat ∨ x.src ≠ r.toNat →
        ∃ t, exec (.monitorConfigure d m q r) s = .next t ∧ t = { s with dies := t.dies } ∧
          monitorOf t d m = { x with
            qty := q.toNat, src := r.toNat, lastAt := (s.die d).cycle, min := 2 ^ 32 - 1, max := 0, cnt := 0, bins := [], due := [] })) ∧
  (∀ (s : State) (l : Nat), let x := linkOf s l
    let sets (i : Instr) (y : Link) : Prop := ∃ t, exec i s = .next t ∧ linkOf t l = y ∧
      t = { s with pkg := { s.pkg with links := t.pkg.links } } ∧
      ∀ n, n ≠ l → linkOf t n = linkOf s n
    (bootStopped s = false → x.en = false → sets (.peerLinkEnable l) { x with en := true, state := 1, missed := 0 }) ∧
    (bootStopped s = false → sets (.peerLinkDisable l) { x with en := false, state := 0 }) ∧
    (∀ p, x.state = 1 → sets (.peerLinkTrained l p) { x with state := 2, peer := p % 1024, missed := 0, heard := true }) ∧
    (x.state = 2 → sets (.heartbeatReceive l) { x with missed := 0, heard := true }) ∧
    (x.state = 2 → 4 ≤ x.missed → ∃ t, exec (.heartbeatTimeout l) s = .next t ∧ linkOf t l = { x with state := 0 } ∧ t.mem = s.mem) ∧
    (x.state = 2 → x.missed < 4 → exec (.heartbeatTimeout l) s = .next s) ∧
    ∀ k dest data, x.state = 2 → dest ≠ (s.dev k).devnum →
      (∀ o, routeLink s k dest = some o →
        exec (.peerTrafficRelay k l dest data) s = .next { s with linkOut := s.linkOut ++ [.relay o dest data] }) ∧
      (routeLink s k dest = none → ∃ t, exec (.peerTrafficRelay k l dest data) s = .next t ∧ t.mem = s.mem ∧
        t.linkOut = s.linkOut ++ [.answer (some x.peer) none true])) ∧
  (∀ (s : State) (d : Nat), (s.die d).beatAt + 2 ^ 20 ≤ (s.die d).cycle →
    let up := ((List.range 4).map fun i => 4 * d + i).filter fun l => decide ((linkOf s l).state = 2)
    ∃ t, exec (.heartbeatSend d) s = .next t ∧ t.linkOut = s.linkOut ++ up.map LinkMsg.heartbeat ∧
      (t.die d).beatAt = (s.die d).beatAt + 2 ^ 20 ∧
      ∀ l, let x := linkOf s l
        linkOf t l = if l ∈ up then { x with missed := if x.heard then 0 else x.missed + 1, heard := false } else x) ∧
  (∀ (s : State) (pwr : BitVec 16) (temps : List Nat) (k : Nat), k < 4 / devDies s.pkg.mode →
    let excess := s.pkg.pwrcap < pwr.toNat ∨ ∃ d ∈ diesOfDev s.pkg.mode k, d < 4 ∧ 105 < temps.getD d (s.die d).temp
    let x := s.dev k
    s.pkg.mode ≤ 2 →
    ((s.die 0).sched < s.pkg.ctlAt + 500000 → exec (.powerControlTick pwr temps) s = .next s) ∧
    (s.pkg.ctlAt + 500000 ≤ (s.die 0).sched →
    ∃ t, exec (.powerControlTick pwr temps) s = .next t ∧ t.pkg = { s.pkg with pwr := pwr.toNat, ctlAt := (s.die 0).sched } ∧
      (excess → t.dev k = { x with clkTarget := min 5 (x.clkTarget + 1), calm := 0 }) ∧
      (¬ excess → t.dev k = { x with
        calm := min 10 (x.calm + 1)
        clkTarget := if 9 ≤ x.calm ∧ x.clkpt < x.clkTarget then x.clkTarget - 1 else x.clkTarget }))) ∧
  (∀ (s : State) (d temp : Nat),
    (115 < temp → (s.die d).stopped = false → ∃ t, exec (.thermalStop d temp) s = .next t ∧ (t.die d).stopped = true ∧
      (t.die d).temp = temp ∧ t.mem = s.mem) ∧
    (temp < 100 → (s.die d).stopped = true →
      exec (.thermalRestart d temp) s = .next (s.setDie d { s.die d with temp := temp, stopped := false })))
end

