-- ==== Sys2Proof/Laws/Encoding.lean ====
section
/-! SUPPORT. The fields of a word read back from it, and a word is the word of its fields, for every format of Table 9.2. -/

namespace Sys2Proof

/-- The fields of an F3 word read back. -/
theorem f3Of_f3Word (op : Nat) (f : F3) : f3Of (f3Word op f) = f := by
  obtain ⟨d, a, b, pr, pn⟩ := f
  simp only [f3Of, f3Word, F3.mk.injEq]
  refine ⟨?_, ?_, ?_, ?_, ?_⟩ <;>
  · apply BitVec.eq_of_getLsbD_eq
    intro i hi
    simp only [BitVec.getLsbD_append, BitVec.getLsbD_extractLsb', hi, decide_true, Bool.true_and]
    repeat' split
    all_goals first | omega | (congr 1; omega)

/-- The opcode of an F3 word reads back. -/
theorem opOf_f3Word {op : Nat} (f : F3) (h : op < 128) : opOf (f3Word op f) = op := by
  have e : (f3Word op f).extractLsb' 25 7 = BitVec.ofNat 7 op := by
    apply BitVec.eq_of_getLsbD_eq
    intro i hi
    simp only [f3Word, BitVec.getLsbD_append, BitVec.getLsbD_extractLsb', hi, decide_true, Bool.true_and]
    repeat' split
    all_goals first | omega | (congr 1; omega)
  simp only [opOf, e, BitVec.toNat_ofNat]
  omega

/-- An F3 word is the word of its opcode and its fields. -/
theorem f3Word_f3Of (w : Word) : f3Word (opOf w) (f3Of w) = w := by
  apply BitVec.eq_of_getLsbD_eq
  intro i hi
  simp only [f3Word, f3Of, opOf, BitVec.ofNat_toNat, BitVec.setWidth_eq, BitVec.getLsbD_append, BitVec.getLsbD_extractLsb']
  repeat' split
  all_goals
    rw [decide_eq_true (by omega), Bool.true_and]
    congr 1
    omega

/-- The fields of an F2I word read back. -/
theorem f2iOf_f2iWord (op : Nat) (f : F2I) : f2iOf (f2iWord op f) = f := by
  obtain ⟨d, a, imm, pr, pn⟩ := f
  simp only [f2iOf, f2iWord, F2I.mk.injEq]
  refine ⟨?_, ?_, ?_, ?_, ?_⟩ <;>
  · apply BitVec.eq_of_getLsbD_eq
    intro i hi
    simp only [BitVec.getLsbD_append, BitVec.getLsbD_extractLsb', hi, decide_true, Bool.true_and]
    repeat' split
    all_goals first | omega | (congr 1; omega)

/-- The opcode of an F2I word reads back. -/
theorem opOf_f2iWord {op : Nat} (f : F2I) (h : op < 128) : opOf (f2iWord op f) = op := by
  have e : (f2iWord op f).extractLsb' 25 7 = BitVec.ofNat 7 op := by
    apply BitVec.eq_of_getLsbD_eq
    intro i hi
    simp only [f2iWord, BitVec.getLsbD_append, BitVec.getLsbD_extractLsb', hi, decide_true, Bool.true_and]
    repeat' split
    all_goals first | omega | (congr 1; omega)
  simp only [opOf, e, BitVec.toNat_ofNat]
  omega

/-- An F2I word is the word of its opcode and its fields. -/
theorem f2iWord_f2iOf (w : Word) : f2iWord (opOf w) (f2iOf w) = w := by
  apply BitVec.eq_of_getLsbD_eq
  intro i hi
  simp only [f2iWord, f2iOf, opOf, BitVec.ofNat_toNat, BitVec.setWidth_eq, BitVec.getLsbD_append, BitVec.getLsbD_extractLsb']
  repeat' split
  all_goals
    rw [decide_eq_true (by omega), Bool.true_and]
    congr 1
    omega

/-- The fields of an FS word read back. -/
theorem fsOf_fsWord (op : Nat) (f : FS) : fsOf (fsWord op f) = f := by
  obtain ⟨d, a, b, imm⟩ := f
  simp only [fsOf, fsWord, FS.mk.injEq]
  refine ⟨?_, ?_, ?_, ?_⟩ <;>
  · apply BitVec.eq_of_getLsbD_eq
    intro i hi
    simp only [BitVec.getLsbD_append, BitVec.getLsbD_extractLsb', hi, decide_true, Bool.true_and]
    repeat' split
    all_goals first | omega | (congr 1; omega)

/-- The opcode of an FS word reads back. -/
theorem opOf_fsWord {op : Nat} (f : FS) (h : op < 128) : opOf (fsWord op f) = op := by
  have e : (fsWord op f).extractLsb' 25 7 = BitVec.ofNat 7 op := by
    apply BitVec.eq_of_getLsbD_eq
    intro i hi
    simp only [fsWord, BitVec.getLsbD_append, BitVec.getLsbD_extractLsb', hi, decide_true, Bool.true_and]
    repeat' split
    all_goals first | omega | (congr 1; omega)
  simp only [opOf, e, BitVec.toNat_ofNat]
  omega

/-- An FS word is the word of its opcode and its fields. -/
theorem fsWord_fsOf (w : Word) : fsWord (opOf w) (fsOf w) = w := by
  apply BitVec.eq_of_getLsbD_eq
  intro i hi
  simp only [fsWord, fsOf, opOf, BitVec.ofNat_toNat, BitVec.setWidth_eq, BitVec.getLsbD_append, BitVec.getLsbD_extractLsb']
  repeat' split
  all_goals
    rw [decide_eq_true (by omega), Bool.true_and]
    congr 1
    omega

/-- The fields of an FB word read back. -/
theorem fbOf_fbWord (op : Nat) (f : FB) : fbOf (fbWord op f) = f := by
  obtain ⟨pr, pn, off⟩ := f
  simp only [fbOf, fbWord, FB.mk.injEq]
  refine ⟨?_, ?_, ?_⟩ <;>
  · apply BitVec.eq_of_getLsbD_eq
    intro i hi
    simp only [BitVec.getLsbD_append, BitVec.getLsbD_extractLsb', hi, decide_true, Bool.true_and]
    repeat' split
    all_goals first | omega | (congr 1; omega)

/-- The opcode of an FB word reads back. -/
theorem opOf_fbWord {op : Nat} (f : FB) (h : op < 128) : opOf (fbWord op f) = op := by
  have e : (fbWord op f).extractLsb' 25 7 = BitVec.ofNat 7 op := by
    apply BitVec.eq_of_getLsbD_eq
    intro i hi
    simp only [fbWord, BitVec.getLsbD_append, BitVec.getLsbD_extractLsb', hi, decide_true, Bool.true_and]
    repeat' split
    all_goals first | omega | (congr 1; omega)
  simp only [opOf, e, BitVec.toNat_ofNat]
  omega

/-- An FB word is the word of its opcode and its fields. -/
theorem fbWord_fbOf (w : Word) : fbWord (opOf w) (fbOf w) = w := by
  apply BitVec.eq_of_getLsbD_eq
  intro i hi
  simp only [fbWord, fbOf, opOf, BitVec.ofNat_toNat, BitVec.setWidth_eq, BitVec.getLsbD_append, BitVec.getLsbD_extractLsb']
  repeat' split
  all_goals
    rw [decide_eq_true (by omega), Bool.true_and]
    congr 1
    omega

/-- The fields of an FQ word read back. -/
theorem fqOf_fqWord (op : Nat) (f : FQ) : fqOf (fqWord op f) = f := by
  obtain ⟨qa, qb, x, y, mode⟩ := f
  simp only [fqOf, fqWord, FQ.mk.injEq]
  refine ⟨?_, ?_, ?_, ?_, ?_⟩ <;>
  · apply BitVec.eq_of_getLsbD_eq
    intro i hi
    simp only [BitVec.getLsbD_append, BitVec.getLsbD_extractLsb', hi, decide_true, Bool.true_and]
    repeat' split
    all_goals first | omega | (congr 1; omega)

/-- The opcode of an FQ word reads back. -/
theorem opOf_fqWord {op : Nat} (f : FQ) (h : op < 128) : opOf (fqWord op f) = op := by
  have e : (fqWord op f).extractLsb' 25 7 = BitVec.ofNat 7 op := by
    apply BitVec.eq_of_getLsbD_eq
    intro i hi
    simp only [fqWord, BitVec.getLsbD_append, BitVec.getLsbD_extractLsb', hi, decide_true, Bool.true_and]
    repeat' split
    all_goals first | omega | (congr 1; omega)
  simp only [opOf, e, BitVec.toNat_ofNat]
  omega

/-- An FQ word is the word of its opcode and its fields. -/
theorem fqWord_fqOf (w : Word) : fqWord (opOf w) (fqOf w) = w := by
  apply BitVec.eq_of_getLsbD_eq
  intro i hi
  simp only [fqWord, fqOf, opOf, BitVec.ofNat_toNat, BitVec.setWidth_eq, BitVec.getLsbD_append, BitVec.getLsbD_extractLsb']
  repeat' split
  all_goals
    rw [decide_eq_true (by omega), Bool.true_and]
    congr 1
    omega

/-- The fields of an XM word read back. -/
theorem xmOf_xmWord (x : XM) : xmOf (xmWord x) = x := by
  obtain ⟨c, round, sat, scope, size, off⟩ := x
  simp only [xmOf, xmWord, XM.mk.injEq]
  refine ⟨?_, ?_, ?_, ?_, ?_, ?_⟩ <;>
  · apply BitVec.eq_of_getLsbD_eq
    intro i hi
    simp only [BitVec.getLsbD_append, BitVec.getLsbD_extractLsb', hi, decide_true, Bool.true_and]
    repeat' split
    all_goals first | omega | (congr 1; omega)

/-- An XM word is the word of its fields. -/
theorem xmWord_xmOf (w : Word) : xmWord (xmOf w) = w := by
  apply BitVec.eq_of_getLsbD_eq
  intro i hi
  simp only [xmWord, xmOf, BitVec.getLsbD_append, BitVec.getLsbD_extractLsb']
  repeat' split
  all_goals
    rw [decide_eq_true (by omega), Bool.true_and]
    congr 1
    omega

end Sys2Proof
end

