-- ==== Sys2Proof/Laws/State.lean ====
section
/-! SUPPORT. Each update of a unit leaves every other field of the state as it was, and reads back; one lemma per field
and update, so that no proof unfolds a record update. -/

namespace Sys2Proof.Machine

/-! ### Finite maps -/

/-- What is put at a key is found there. -/
@[simp] theorem fget_fput_same {α : Type} (m : FMap α) (i : Nat) (x : α) : fget (fput m i x) i = some x := by
  induction m with
  | nil => simp [fput, fget]
  | cons p m ih =>
    obtain ⟨k, v⟩ := p
    unfold fput
    split
    · simp [fget]
    · split
      · simp [fget]
      · rename_i h1 h2; simp [fget, h1, h2, ih]

/-- Other keys keep their values. -/
theorem fget_fput_other {α : Type} (m : FMap α) {i j : Nat} (x : α) (h : j ≠ i) : fget (fput m i x) j = fget m j := by
  induction m with
  | nil => simp [fput, fget, Ne.symm h]
  | cons p m ih =>
    obtain ⟨k, v⟩ := p
    unfold fput
    split
    · rename_i hk; subst hk; simp [fget, Ne.symm h]
    · split
      · rename_i h1 h2
        simp only [fget, if_neg (Ne.symm h)]
        by_cases hj : j < i
        · simp [hj, show k ≠ j by omega, show j < k by omega]
        · simp [hj]
      · simp only [fget, ih]

/-- A second value put at a key replaces the first. -/
@[simp] theorem fput_fput {α : Type} (m : FMap α) (i : Nat) (x y : α) : fput (fput m i x) i y = fput m i y := by
  induction m with
  | nil => simp [fput]
  | cons p m ih =>
    obtain ⟨k, v⟩ := p
    simp only [fput]
    split
    · simp [fput]
    · split
      · simp [fput]
      · rename_i h1 h2; simp [fput, h1, h2, ih]

/-- Changing the value at a key that has one. -/
theorem fupd_some {α : Type} {m : FMap α} {i : Nat} {x : α} (f : α → α) (h : fget m i = some x) : fupd m i f = fput m i (f x) := by
  simp [fupd, h]

/-! ### Units read back -/

/-- A core written is read back. -/
@[simp] theorem setCore_core (s : State) (c : Nat) (k : Core) : (s.setCore c k).core c = k := by
  simp [State.core, State.setCore]

/-- The other cores stay. -/
theorem setCore_core_other (s : State) {c d : Nat} (k : Core) (h : d ≠ c) : (s.setCore c k).core d = s.core d := by
  simp [State.core, State.setCore, State.die, fget_fput_other _ _ h]

/-- A core changed is read back. -/
@[simp] theorem updCore_core (s : State) (c : Nat) (f : Core → Core) : (s.updCore c f).core c = f (s.core c) := by
  simp [State.updCore]

/-- A device written is read back. -/
@[simp] theorem setDev_dev (s : State) (k : Nat) (d : Dev) : (s.setDev k d).dev k = d := by simp [State.dev, State.setDev]

/-- A device changed is read back. -/
@[simp] theorem updDev_dev (s : State) (k : Nat) (f : Dev → Dev) : (s.updDev k f).dev k = f (s.dev k) := by simp [State.updDev]

/-- The other devices stay. -/
theorem setDev_dev_other (s : State) {k j : Nat} (d : Dev) (h : j ≠ k) : (s.setDev k d).dev j = s.dev j := by
  simp [State.dev, State.setDev, fget_fput_other _ _ h]

/-- A die written is read back. -/
@[simp] theorem setDie_die (s : State) (d : Nat) (x : Die) : (s.setDie d x).die d = x := by simp [State.die, State.setDie]

/-- A die changed is read back. -/
@[simp] theorem updDie_die (s : State) (d : Nat) (f : Die → Die) : (s.updDie d f).die d = f (s.die d) := by simp [State.updDie]

/-- The other dies stay. -/
theorem setDie_die_other (s : State) {d e : Nat} (x : Die) (h : e ≠ d) : (s.setDie d x).die e = s.die e := by
  simp [State.die, State.setDie, fget_fput_other _ _ h]

/-- A sequencer changed is read back. -/
@[simp] theorem updSeq_seq (s : State) (c : Nat) (f : Sequencer → Sequencer) : (s.updSeq c f).seq c = f (s.seq c) := by
  simp [State.seq, State.updSeq]

/-- A command queue changed is read back. -/
@[simp] theorem updQueue_queue (s : State) (k q : Nat) (f : CQueue → CQueue) : (s.updQueue k q f).queue k q = f (s.queue k q) := by
  simp [State.queue, State.updQueue]

/-- A warp written is read back. -/
@[simp] theorem setWarp_warp (s : State) (c sl : Nat) (w : Warp) : (s.setWarp c sl w).warp? c sl = some w := by
  simp [State.warp?, State.setWarp]

/-- A core written twice. -/
@[simp] theorem setCore_setCore (s : State) (c : Nat) (k j : Core) : (s.setCore c k).setCore c j = s.setCore c j := by
  simp [State.setCore]

/-- A warp written in a core written. -/
theorem setCore_setWarp (s : State) (c sl : Nat) (k : Core) (w : Warp) :
    (s.setCore c k).setWarp c sl w = s.setCore c { k with warps := fput k.warps sl w } := by
  simp [State.setWarp, State.updCore]

/-! ### setCore -/

/-- setCore keeps `pkg`. -/
@[simp] theorem setCore_pkg (s : State) (c : Nat) (k : Core) : (s.setCore c k).pkg = s.pkg := rfl
/-- setCore keeps `devs`. -/
@[simp] theorem setCore_devs (s : State) (c : Nat) (k : Core) : (s.setCore c k).devs = s.devs := rfl
/-- setCore keeps `dies`. -/
@[simp] theorem setCore_dies (s : State) (c : Nat) (k : Core) : (s.setCore c k).dies = s.dies := rfl
/-- setCore keeps `seqs`. -/
@[simp] theorem setCore_seqs (s : State) (c : Nat) (k : Core) : (s.setCore c k).seqs = s.seqs := rfl
/-- setCore keeps `queues`. -/
@[simp] theorem setCore_queues (s : State) (c : Nat) (k : Core) : (s.setCore c k).queues = s.queues := rfl
/-- setCore keeps `exports`. -/
@[simp] theorem setCore_exports (s : State) (c : Nat) (k : Core) : (s.setCore c k).exports = s.exports := rfl
/-- setCore keeps `windows`. -/
@[simp] theorem setCore_windows (s : State) (c : Nat) (k : Core) : (s.setCore c k).windows = s.windows := rfl
/-- setCore keeps `launches`. -/
@[simp] theorem setCore_launches (s : State) (c : Nat) (k : Core) : (s.setCore c k).launches = s.launches := rfl
/-- setCore keeps `wgs`. -/
@[simp] theorem setCore_wgs (s : State) (c : Nat) (k : Core) : (s.setCore c k).wgs = s.wgs := rfl
/-- setCore keeps `mem`. -/
@[simp] theorem setCore_mem (s : State) (c : Nat) (k : Core) : (s.setCore c k).mem = s.mem := rfl
/-- setCore keeps `cmem`. -/
@[simp] theorem setCore_cmem (s : State) (c : Nat) (k : Core) : (s.setCore c k).cmem = s.cmem := rfl
/-- setCore keeps `poison`. -/
@[simp] theorem setCore_poison (s : State) (c : Nat) (k : Core) : (s.setCore c k).poison = s.poison := rfl
/-- setCore keeps `net`. -/
@[simp] theorem setCore_net (s : State) (c : Nat) (k : Core) : (s.setCore c k).net = s.net := rfl
/-- setCore keeps `aside`. -/
@[simp] theorem setCore_aside (s : State) (c : Nat) (k : Core) : (s.setCore c k).aside = s.aside := rfl
/-- setCore keeps `msgs`. -/
@[simp] theorem setCore_msgs (s : State) (c : Nat) (k : Core) : (s.setCore c k).msgs = s.msgs := rfl
/-- setCore keeps `inWait`. -/
@[simp] theorem setCore_inWait (s : State) (c : Nat) (k : Core) : (s.setCore c k).inWait = s.inWait := rfl
/-- setCore keeps `linkOut`. -/
@[simp] theorem setCore_linkOut (s : State) (c : Nat) (k : Core) : (s.setCore c k).linkOut = s.linkOut := rfl
/-- setCore keeps `debug`. -/
@[simp] theorem setCore_debug (s : State) (c : Nat) (k : Core) : (s.setCore c k).debug = s.debug := rfl
/-- setCore keeps `nextId`. -/
@[simp] theorem setCore_nextId (s : State) (c : Nat) (k : Core) : (s.setCore c k).nextId = s.nextId := rfl
/-- setCore keeps `nextWg`. -/
@[simp] theorem setCore_nextWg (s : State) (c : Nat) (k : Core) : (s.setCore c k).nextWg = s.nextWg := rfl
/-- setCore keeps `nextLaunch`. -/
@[simp] theorem setCore_nextLaunch (s : State) (c : Nat) (k : Core) : (s.setCore c k).nextLaunch = s.nextLaunch := rfl
/-- setCore keeps `freeCtr`. -/
@[simp] theorem setCore_freeCtr (s : State) (c : Nat) (k : Core) : (s.setCore c k).freeCtr = s.freeCtr := rfl
/-- setCore keeps `cur`. -/
@[simp] theorem setCore_cur (s : State) (c : Nat) (k : Core) : (s.setCore c k).cur = s.cur := rfl
/-- setCore keeps `agenda`. -/
@[simp] theorem setCore_agenda (s : State) (c : Nat) (k : Core) : (s.setCore c k).agenda = s.agenda := rfl
/-- setCore keeps the dies. -/
@[simp] theorem setCore_die_ (s : State) (c : Nat) (k : Core) (e : Nat) : (s.setCore c k).die e = s.die e := rfl
/-- setCore keeps the devices. -/
@[simp] theorem setCore_dev_ (s : State) (c : Nat) (k : Core) (e : Nat) : (s.setCore c k).dev e = s.dev e := rfl
/-- setCore keeps the sequencers. -/
@[simp] theorem setCore_seq_ (s : State) (c : Nat) (k : Core) (e : Nat) : (s.setCore c k).seq e = s.seq e := rfl
/-- setCore keeps the command queues. -/
@[simp] theorem setCore_queue_ (s : State) (c : Nat) (k : Core) (e q : Nat) : (s.setCore c k).queue e q = s.queue e q := rfl

/-! ### updCore -/

/-- updCore keeps `pkg`. -/
@[simp] theorem updCore_pkg (s : State) (c : Nat) (f : Core → Core) : (s.updCore c f).pkg = s.pkg := rfl
/-- updCore keeps `devs`. -/
@[simp] theorem updCore_devs (s : State) (c : Nat) (f : Core → Core) : (s.updCore c f).devs = s.devs := rfl
/-- updCore keeps `dies`. -/
@[simp] theorem updCore_dies (s : State) (c : Nat) (f : Core → Core) : (s.updCore c f).dies = s.dies := rfl
/-- updCore keeps `seqs`. -/
@[simp] theorem updCore_seqs (s : State) (c : Nat) (f : Core → Core) : (s.updCore c f).seqs = s.seqs := rfl
/-- updCore keeps `queues`. -/
@[simp] theorem updCore_queues (s : State) (c : Nat) (f : Core → Core) : (s.updCore c f).queues = s.queues := rfl
/-- updCore keeps `exports`. -/
@[simp] theorem updCore_exports (s : State) (c : Nat) (f : Core → Core) : (s.updCore c f).exports = s.exports := rfl
/-- updCore keeps `windows`. -/
@[simp] theorem updCore_windows (s : State) (c : Nat) (f : Core → Core) : (s.updCore c f).windows = s.windows := rfl
/-- updCore keeps `launches`. -/
@[simp] theorem updCore_launches (s : State) (c : Nat) (f : Core → Core) : (s.updCore c f).launches = s.launches := rfl
/-- updCore keeps `wgs`. -/
@[simp] theorem updCore_wgs (s : State) (c : Nat) (f : Core → Core) : (s.updCore c f).wgs = s.wgs := rfl
/-- updCore keeps `mem`. -/
@[simp] theorem updCore_mem (s : State) (c : Nat) (f : Core → Core) : (s.updCore c f).mem = s.mem := rfl
/-- updCore keeps `cmem`. -/
@[simp] theorem updCore_cmem (s : State) (c : Nat) (f : Core → Core) : (s.updCore c f).cmem = s.cmem := rfl
/-- updCore keeps `poison`. -/
@[simp] theorem updCore_poison (s : State) (c : Nat) (f : Core → Core) : (s.updCore c f).poison = s.poison := rfl
/-- updCore keeps `net`. -/
@[simp] theorem updCore_net (s : State) (c : Nat) (f : Core → Core) : (s.updCore c f).net = s.net := rfl
/-- updCore keeps `aside`. -/
@[simp] theorem updCore_aside (s : State) (c : Nat) (f : Core → Core) : (s.updCore c f).aside = s.aside := rfl
/-- updCore keeps `msgs`. -/
@[simp] theorem updCore_msgs (s : State) (c : Nat) (f : Core → Core) : (s.updCore c f).msgs = s.msgs := rfl
/-- updCore keeps `inWait`. -/
@[simp] theorem updCore_inWait (s : State) (c : Nat) (f : Core → Core) : (s.updCore c f).inWait = s.inWait := rfl
/-- updCore keeps `linkOut`. -/
@[simp] theorem updCore_linkOut (s : State) (c : Nat) (f : Core → Core) : (s.updCore c f).linkOut = s.linkOut := rfl
/-- updCore keeps `debug`. -/
@[simp] theorem updCore_debug (s : State) (c : Nat) (f : Core → Core) : (s.updCore c f).debug = s.debug := rfl
/-- updCore keeps `nextId`. -/
@[simp] theorem updCore_nextId (s : State) (c : Nat) (f : Core → Core) : (s.updCore c f).nextId = s.nextId := rfl
/-- updCore keeps `nextWg`. -/
@[simp] theorem updCore_nextWg (s : State) (c : Nat) (f : Core → Core) : (s.updCore c f).nextWg = s.nextWg := rfl
/-- updCore keeps `nextLaunch`. -/
@[simp] theorem updCore_nextLaunch (s : State) (c : Nat) (f : Core → Core) : (s.updCore c f).nextLaunch = s.nextLaunch := rfl
/-- updCore keeps `freeCtr`. -/
@[simp] theorem updCore_freeCtr (s : State) (c : Nat) (f : Core → Core) : (s.updCore c f).freeCtr = s.freeCtr := rfl
/-- updCore keeps `cur`. -/
@[simp] theorem updCore_cur (s : State) (c : Nat) (f : Core → Core) : (s.updCore c f).cur = s.cur := rfl
/-- updCore keeps `agenda`. -/
@[simp] theorem updCore_agenda (s : State) (c : Nat) (f : Core → Core) : (s.updCore c f).agenda = s.agenda := rfl
/-- updCore keeps the dies. -/
@[simp] theorem updCore_die_ (s : State) (c : Nat) (f : Core → Core) (e : Nat) : (s.updCore c f).die e = s.die e := rfl
/-- updCore keeps the devices. -/
@[simp] theorem updCore_dev_ (s : State) (c : Nat) (f : Core → Core) (e : Nat) : (s.updCore c f).dev e = s.dev e := rfl
/-- updCore keeps the sequencers. -/
@[simp] theorem updCore_seq_ (s : State) (c : Nat) (f : Core → Core) (e : Nat) : (s.updCore c f).seq e = s.seq e := rfl
/-- updCore keeps the command queues. -/
@[simp] theorem updCore_queue_ (s : State) (c : Nat) (f : Core → Core) (e q : Nat) : (s.updCore c f).queue e q = s.queue e q := rfl

/-! ### setDev -/

/-- setDev keeps `pkg`. -/
@[simp] theorem setDev_pkg (s : State) (k : Nat) (d : Dev) : (s.setDev k d).pkg = s.pkg := rfl
/-- setDev keeps `dies`. -/
@[simp] theorem setDev_dies (s : State) (k : Nat) (d : Dev) : (s.setDev k d).dies = s.dies := rfl
/-- setDev keeps `cores`. -/
@[simp] theorem setDev_cores (s : State) (k : Nat) (d : Dev) : (s.setDev k d).cores = s.cores := rfl
/-- setDev keeps `seqs`. -/
@[simp] theorem setDev_seqs (s : State) (k : Nat) (d : Dev) : (s.setDev k d).seqs = s.seqs := rfl
/-- setDev keeps `queues`. -/
@[simp] theorem setDev_queues (s : State) (k : Nat) (d : Dev) : (s.setDev k d).queues = s.queues := rfl
/-- setDev keeps `exports`. -/
@[simp] theorem setDev_exports (s : State) (k : Nat) (d : Dev) : (s.setDev k d).exports = s.exports := rfl
/-- setDev keeps `windows`. -/
@[simp] theorem setDev_windows (s : State) (k : Nat) (d : Dev) : (s.setDev k d).windows = s.windows := rfl
/-- setDev keeps `launches`. -/
@[simp] theorem setDev_launches (s : State) (k : Nat) (d : Dev) : (s.setDev k d).launches = s.launches := rfl
/-- setDev keeps `wgs`. -/
@[simp] theorem setDev_wgs (s : State) (k : Nat) (d : Dev) : (s.setDev k d).wgs = s.wgs := rfl
/-- setDev keeps `mem`. -/
@[simp] theorem setDev_mem (s : State) (k : Nat) (d : Dev) : (s.setDev k d).mem = s.mem := rfl
/-- setDev keeps `cmem`. -/
@[simp] theorem setDev_cmem (s : State) (k : Nat) (d : Dev) : (s.setDev k d).cmem = s.cmem := rfl
/-- setDev keeps `poison`. -/
@[simp] theorem setDev_poison (s : State) (k : Nat) (d : Dev) : (s.setDev k d).poison = s.poison := rfl
/-- setDev keeps `net`. -/
@[simp] theorem setDev_net (s : State) (k : Nat) (d : Dev) : (s.setDev k d).net = s.net := rfl
/-- setDev keeps `aside`. -/
@[simp] theorem setDev_aside (s : State) (k : Nat) (d : Dev) : (s.setDev k d).aside = s.aside := rfl
/-- setDev keeps `msgs`. -/
@[simp] theorem setDev_msgs (s : State) (k : Nat) (d : Dev) : (s.setDev k d).msgs = s.msgs := rfl
/-- setDev keeps `inWait`. -/
@[simp] theorem setDev_inWait (s : State) (k : Nat) (d : Dev) : (s.setDev k d).inWait = s.inWait := rfl
/-- setDev keeps `linkOut`. -/
@[simp] theorem setDev_linkOut (s : State) (k : Nat) (d : Dev) : (s.setDev k d).linkOut = s.linkOut := rfl
/-- setDev keeps `debug`. -/
@[simp] theorem setDev_debug (s : State) (k : Nat) (d : Dev) : (s.setDev k d).debug = s.debug := rfl
/-- setDev keeps `nextId`. -/
@[simp] theorem setDev_nextId (s : State) (k : Nat) (d : Dev) : (s.setDev k d).nextId = s.nextId := rfl
/-- setDev keeps `nextWg`. -/
@[simp] theorem setDev_nextWg (s : State) (k : Nat) (d : Dev) : (s.setDev k d).nextWg = s.nextWg := rfl
/-- setDev keeps `nextLaunch`. -/
@[simp] theorem setDev_nextLaunch (s : State) (k : Nat) (d : Dev) : (s.setDev k d).nextLaunch = s.nextLaunch := rfl
/-- setDev keeps `freeCtr`. -/
@[simp] theorem setDev_freeCtr (s : State) (k : Nat) (d : Dev) : (s.setDev k d).freeCtr = s.freeCtr := rfl
/-- setDev keeps `cur`. -/
@[simp] theorem setDev_cur (s : State) (k : Nat) (d : Dev) : (s.setDev k d).cur = s.cur := rfl
/-- setDev keeps `agenda`. -/
@[simp] theorem setDev_agenda (s : State) (k : Nat) (d : Dev) : (s.setDev k d).agenda = s.agenda := rfl
/-- setDev keeps the dies. -/
@[simp] theorem setDev_die_ (s : State) (k : Nat) (d : Dev) (e : Nat) : (s.setDev k d).die e = s.die e := rfl
/-- setDev keeps the cores. -/
@[simp] theorem setDev_core_ (s : State) (k : Nat) (d : Dev) (e : Nat) : (s.setDev k d).core e = s.core e := rfl
/-- setDev keeps the sequencers. -/
@[simp] theorem setDev_seq_ (s : State) (k : Nat) (d : Dev) (e : Nat) : (s.setDev k d).seq e = s.seq e := rfl
/-- setDev keeps the command queues. -/
@[simp] theorem setDev_queue_ (s : State) (k : Nat) (d : Dev) (e q : Nat) : (s.setDev k d).queue e q = s.queue e q := rfl

/-! ### updDev -/

/-- updDev keeps `pkg`. -/
@[simp] theorem updDev_pkg (s : State) (k : Nat) (f : Dev → Dev) : (s.updDev k f).pkg = s.pkg := rfl
/-- updDev keeps `dies`. -/
@[simp] theorem updDev_dies (s : State) (k : Nat) (f : Dev → Dev) : (s.updDev k f).dies = s.dies := rfl
/-- updDev keeps `cores`. -/
@[simp] theorem updDev_cores (s : State) (k : Nat) (f : Dev → Dev) : (s.updDev k f).cores = s.cores := rfl
/-- updDev keeps `seqs`. -/
@[simp] theorem updDev_seqs (s : State) (k : Nat) (f : Dev → Dev) : (s.updDev k f).seqs = s.seqs := rfl
/-- updDev keeps `queues`. -/
@[simp] theorem updDev_queues (s : State) (k : Nat) (f : Dev → Dev) : (s.updDev k f).queues = s.queues := rfl
/-- updDev keeps `exports`. -/
@[simp] theorem updDev_exports (s : State) (k : Nat) (f : Dev → Dev) : (s.updDev k f).exports = s.exports := rfl
/-- updDev keeps `windows`. -/
@[simp] theorem updDev_windows (s : State) (k : Nat) (f : Dev → Dev) : (s.updDev k f).windows = s.windows := rfl
/-- updDev keeps `launches`. -/
@[simp] theorem updDev_launches (s : State) (k : Nat) (f : Dev → Dev) : (s.updDev k f).launches = s.launches := rfl
/-- updDev keeps `wgs`. -/
@[simp] theorem updDev_wgs (s : State) (k : Nat) (f : Dev → Dev) : (s.updDev k f).wgs = s.wgs := rfl
/-- updDev keeps `mem`. -/
@[simp] theorem updDev_mem (s : State) (k : Nat) (f : Dev → Dev) : (s.updDev k f).mem = s.mem := rfl
/-- updDev keeps `cmem`. -/
@[simp] theorem updDev_cmem (s : State) (k : Nat) (f : Dev → Dev) : (s.updDev k f).cmem = s.cmem := rfl
/-- updDev keeps `poison`. -/
@[simp] theorem updDev_poison (s : State) (k : Nat) (f : Dev → Dev) : (s.updDev k f).poison = s.poison := rfl
/-- updDev keeps `net`. -/
@[simp] theorem updDev_net (s : State) (k : Nat) (f : Dev → Dev) : (s.updDev k f).net = s.net := rfl
/-- updDev keeps `aside`. -/
@[simp] theorem updDev_aside (s : State) (k : Nat) (f : Dev → Dev) : (s.updDev k f).aside = s.aside := rfl
/-- updDev keeps `msgs`. -/
@[simp] theorem updDev_msgs (s : State) (k : Nat) (f : Dev → Dev) : (s.updDev k f).msgs = s.msgs := rfl
/-- updDev keeps `inWait`. -/
@[simp] theorem updDev_inWait (s : State) (k : Nat) (f : Dev → Dev) : (s.updDev k f).inWait = s.inWait := rfl
/-- updDev keeps `linkOut`. -/
@[simp] theorem updDev_linkOut (s : State) (k : Nat) (f : Dev → Dev) : (s.updDev k f).linkOut = s.linkOut := rfl
/-- updDev keeps `debug`. -/
@[simp] theorem updDev_debug (s : State) (k : Nat) (f : Dev → Dev) : (s.updDev k f).debug = s.debug := rfl
/-- updDev keeps `nextId`. -/
@[simp] theorem updDev_nextId (s : State) (k : Nat) (f : Dev → Dev) : (s.updDev k f).nextId = s.nextId := rfl
/-- updDev keeps `nextWg`. -/
@[simp] theorem updDev_nextWg (s : State) (k : Nat) (f : Dev → Dev) : (s.updDev k f).nextWg = s.nextWg := rfl
/-- updDev keeps `nextLaunch`. -/
@[simp] theorem updDev_nextLaunch (s : State) (k : Nat) (f : Dev → Dev) : (s.updDev k f).nextLaunch = s.nextLaunch := rfl
/-- updDev keeps `freeCtr`. -/
@[simp] theorem updDev_freeCtr (s : State) (k : Nat) (f : Dev → Dev) : (s.updDev k f).freeCtr = s.freeCtr := rfl
/-- updDev keeps `cur`. -/
@[simp] theorem updDev_cur (s : State) (k : Nat) (f : Dev → Dev) : (s.updDev k f).cur = s.cur := rfl
/-- updDev keeps `agenda`. -/
@[simp] theorem updDev_agenda (s : State) (k : Nat) (f : Dev → Dev) : (s.updDev k f).agenda = s.agenda := rfl
/-- updDev keeps the dies. -/
@[simp] theorem updDev_die_ (s : State) (k : Nat) (f : Dev → Dev) (e : Nat) : (s.updDev k f).die e = s.die e := rfl
/-- updDev keeps the cores. -/
@[simp] theorem updDev_core_ (s : State) (k : Nat) (f : Dev → Dev) (e : Nat) : (s.updDev k f).core e = s.core e := rfl
/-- updDev keeps the sequencers. -/
@[simp] theorem updDev_seq_ (s : State) (k : Nat) (f : Dev → Dev) (e : Nat) : (s.updDev k f).seq e = s.seq e := rfl
/-- updDev keeps the command queues. -/
@[simp] theorem updDev_queue_ (s : State) (k : Nat) (f : Dev → Dev) (e q : Nat) : (s.updDev k f).queue e q = s.queue e q := rfl

/-! ### setDie -/

/-- setDie keeps `pkg`. -/
@[simp] theorem setDie_pkg (s : State) (d : Nat) (x : Die) : (s.setDie d x).pkg = s.pkg := rfl
/-- setDie keeps `devs`. -/
@[simp] theorem setDie_devs (s : State) (d : Nat) (x : Die) : (s.setDie d x).devs = s.devs := rfl
/-- setDie keeps `cores`. -/
@[simp] theorem setDie_cores (s : State) (d : Nat) (x : Die) : (s.setDie d x).cores = s.cores := rfl
/-- setDie keeps `seqs`. -/
@[simp] theorem setDie_seqs (s : State) (d : Nat) (x : Die) : (s.setDie d x).seqs = s.seqs := rfl
/-- setDie keeps `queues`. -/
@[simp] theorem setDie_queues (s : State) (d : Nat) (x : Die) : (s.setDie d x).queues = s.queues := rfl
/-- setDie keeps `exports`. -/
@[simp] theorem setDie_exports (s : State) (d : Nat) (x : Die) : (s.setDie d x).exports = s.exports := rfl
/-- setDie keeps `windows`. -/
@[simp] theorem setDie_windows (s : State) (d : Nat) (x : Die) : (s.setDie d x).windows = s.windows := rfl
/-- setDie keeps `launches`. -/
@[simp] theorem setDie_launches (s : State) (d : Nat) (x : Die) : (s.setDie d x).launches = s.launches := rfl
/-- setDie keeps `wgs`. -/
@[simp] theorem setDie_wgs (s : State) (d : Nat) (x : Die) : (s.setDie d x).wgs = s.wgs := rfl
/-- setDie keeps `mem`. -/
@[simp] theorem setDie_mem (s : State) (d : Nat) (x : Die) : (s.setDie d x).mem = s.mem := rfl
/-- setDie keeps `cmem`. -/
@[simp] theorem setDie_cmem (s : State) (d : Nat) (x : Die) : (s.setDie d x).cmem = s.cmem := rfl
/-- setDie keeps `poison`. -/
@[simp] theorem setDie_poison (s : State) (d : Nat) (x : Die) : (s.setDie d x).poison = s.poison := rfl
/-- setDie keeps `net`. -/
@[simp] theorem setDie_net (s : State) (d : Nat) (x : Die) : (s.setDie d x).net = s.net := rfl
/-- setDie keeps `aside`. -/
@[simp] theorem setDie_aside (s : State) (d : Nat) (x : Die) : (s.setDie d x).aside = s.aside := rfl
/-- setDie keeps `msgs`. -/
@[simp] theorem setDie_msgs (s : State) (d : Nat) (x : Die) : (s.setDie d x).msgs = s.msgs := rfl
/-- setDie keeps `inWait`. -/
@[simp] theorem setDie_inWait (s : State) (d : Nat) (x : Die) : (s.setDie d x).inWait = s.inWait := rfl
/-- setDie keeps `linkOut`. -/
@[simp] theorem setDie_linkOut (s : State) (d : Nat) (x : Die) : (s.setDie d x).linkOut = s.linkOut := rfl
/-- setDie keeps `debug`. -/
@[simp] theorem setDie_debug (s : State) (d : Nat) (x : Die) : (s.setDie d x).debug = s.debug := rfl
/-- setDie keeps `nextId`. -/
@[simp] theorem setDie_nextId (s : State) (d : Nat) (x : Die) : (s.setDie d x).nextId = s.nextId := rfl
/-- setDie keeps `nextWg`. -/
@[simp] theorem setDie_nextWg (s : State) (d : Nat) (x : Die) : (s.setDie d x).nextWg = s.nextWg := rfl
/-- setDie keeps `nextLaunch`. -/
@[simp] theorem setDie_nextLaunch (s : State) (d : Nat) (x : Die) : (s.setDie d x).nextLaunch = s.nextLaunch := rfl
/-- setDie keeps `freeCtr`. -/
@[simp] theorem setDie_freeCtr (s : State) (d : Nat) (x : Die) : (s.setDie d x).freeCtr = s.freeCtr := rfl
/-- setDie keeps `cur`. -/
@[simp] theorem setDie_cur (s : State) (d : Nat) (x : Die) : (s.setDie d x).cur = s.cur := rfl
/-- setDie keeps `agenda`. -/
@[simp] theorem setDie_agenda (s : State) (d : Nat) (x : Die) : (s.setDie d x).agenda = s.agenda := rfl
/-- setDie keeps the devices. -/
@[simp] theorem setDie_dev_ (s : State) (d : Nat) (x : Die) (e : Nat) : (s.setDie d x).dev e = s.dev e := rfl
/-- setDie keeps the sequencers. -/
@[simp] theorem setDie_seq_ (s : State) (d : Nat) (x : Die) (e : Nat) : (s.setDie d x).seq e = s.seq e := rfl
/-- setDie keeps the command queues. -/
@[simp] theorem setDie_queue_ (s : State) (d : Nat) (x : Die) (e q : Nat) : (s.setDie d x).queue e q = s.queue e q := rfl

/-! ### updDie -/

/-- updDie keeps `pkg`. -/
@[simp] theorem updDie_pkg (s : State) (d : Nat) (f : Die → Die) : (s.updDie d f).pkg = s.pkg := rfl
/-- updDie keeps `devs`. -/
@[simp] theorem updDie_devs (s : State) (d : Nat) (f : Die → Die) : (s.updDie d f).devs = s.devs := rfl
/-- updDie keeps `cores`. -/
@[simp] theorem updDie_cores (s : State) (d : Nat) (f : Die → Die) : (s.updDie d f).cores = s.cores := rfl
/-- updDie keeps `seqs`. -/
@[simp] theorem updDie_seqs (s : State) (d : Nat) (f : Die → Die) : (s.updDie d f).seqs = s.seqs := rfl
/-- updDie keeps `queues`. -/
@[simp] theorem updDie_queues (s : State) (d : Nat) (f : Die → Die) : (s.updDie d f).queues = s.queues := rfl
/-- updDie keeps `exports`. -/
@[simp] theorem updDie_exports (s : State) (d : Nat) (f : Die → Die) : (s.updDie d f).exports = s.exports := rfl
/-- updDie keeps `windows`. -/
@[simp] theorem updDie_windows (s : State) (d : Nat) (f : Die → Die) : (s.updDie d f).windows = s.windows := rfl
/-- updDie keeps `launches`. -/
@[simp] theorem updDie_launches (s : State) (d : Nat) (f : Die → Die) : (s.updDie d f).launches = s.launches := rfl
/-- updDie keeps `wgs`. -/
@[simp] theorem updDie_wgs (s : State) (d : Nat) (f : Die → Die) : (s.updDie d f).wgs = s.wgs := rfl
/-- updDie keeps `mem`. -/
@[simp] theorem updDie_mem (s : State) (d : Nat) (f : Die → Die) : (s.updDie d f).mem = s.mem := rfl
/-- updDie keeps `cmem`. -/
@[simp] theorem updDie_cmem (s : State) (d : Nat) (f : Die → Die) : (s.updDie d f).cmem = s.cmem := rfl
/-- updDie keeps `poison`. -/
@[simp] theorem updDie_poison (s : State) (d : Nat) (f : Die → Die) : (s.updDie d f).poison = s.poison := rfl
/-- updDie keeps `net`. -/
@[simp] theorem updDie_net (s : State) (d : Nat) (f : Die → Die) : (s.updDie d f).net = s.net := rfl
/-- updDie keeps `aside`. -/
@[simp] theorem updDie_aside (s : State) (d : Nat) (f : Die → Die) : (s.updDie d f).aside = s.aside := rfl
/-- updDie keeps `msgs`. -/
@[simp] theorem updDie_msgs (s : State) (d : Nat) (f : Die → Die) : (s.updDie d f).msgs = s.msgs := rfl
/-- updDie keeps `inWait`. -/
@[simp] theorem updDie_inWait (s : State) (d : Nat) (f : Die → Die) : (s.updDie d f).inWait = s.inWait := rfl
/-- updDie keeps `linkOut`. -/
@[simp] theorem updDie_linkOut (s : State) (d : Nat) (f : Die → Die) : (s.updDie d f).linkOut = s.linkOut := rfl
/-- updDie keeps `debug`. -/
@[simp] theorem updDie_debug (s : State) (d : Nat) (f : Die → Die) : (s.updDie d f).debug = s.debug := rfl
/-- updDie keeps `nextId`. -/
@[simp] theorem updDie_nextId (s : State) (d : Nat) (f : Die → Die) : (s.updDie d f).nextId = s.nextId := rfl
/-- updDie keeps `nextWg`. -/
@[simp] theorem updDie_nextWg (s : State) (d : Nat) (f : Die → Die) : (s.updDie d f).nextWg = s.nextWg := rfl
/-- updDie keeps `nextLaunch`. -/
@[simp] theorem updDie_nextLaunch (s : State) (d : Nat) (f : Die → Die) : (s.updDie d f).nextLaunch = s.nextLaunch := rfl
/-- updDie keeps `freeCtr`. -/
@[simp] theorem updDie_freeCtr (s : State) (d : Nat) (f : Die → Die) : (s.updDie d f).freeCtr = s.freeCtr := rfl
/-- updDie keeps `cur`. -/
@[simp] theorem updDie_cur (s : State) (d : Nat) (f : Die → Die) : (s.updDie d f).cur = s.cur := rfl
/-- updDie keeps `agenda`. -/
@[simp] theorem updDie_agenda (s : State) (d : Nat) (f : Die → Die) : (s.updDie d f).agenda = s.agenda := rfl
/-- updDie keeps the devices. -/
@[simp] theorem updDie_dev_ (s : State) (d : Nat) (f : Die → Die) (e : Nat) : (s.updDie d f).dev e = s.dev e := rfl
/-- updDie keeps the sequencers. -/
@[simp] theorem updDie_seq_ (s : State) (d : Nat) (f : Die → Die) (e : Nat) : (s.updDie d f).seq e = s.seq e := rfl
/-- updDie keeps the command queues. -/
@[simp] theorem updDie_queue_ (s : State) (d : Nat) (f : Die → Die) (e q : Nat) : (s.updDie d f).queue e q = s.queue e q := rfl

/-! ### updSeq -/

/-- updSeq keeps `pkg`. -/
@[simp] theorem updSeq_pkg (s : State) (c : Nat) (f : Sequencer → Sequencer) : (s.updSeq c f).pkg = s.pkg := rfl
/-- updSeq keeps `devs`. -/
@[simp] theorem updSeq_devs (s : State) (c : Nat) (f : Sequencer → Sequencer) : (s.updSeq c f).devs = s.devs := rfl
/-- updSeq keeps `dies`. -/
@[simp] theorem updSeq_dies (s : State) (c : Nat) (f : Sequencer → Sequencer) : (s.updSeq c f).dies = s.dies := rfl
/-- updSeq keeps `cores`. -/
@[simp] theorem updSeq_cores (s : State) (c : Nat) (f : Sequencer → Sequencer) : (s.updSeq c f).cores = s.cores := rfl
/-- updSeq keeps `queues`. -/
@[simp] theorem updSeq_queues (s : State) (c : Nat) (f : Sequencer → Sequencer) : (s.updSeq c f).queues = s.queues := rfl
/-- updSeq keeps `exports`. -/
@[simp] theorem updSeq_exports (s : State) (c : Nat) (f : Sequencer → Sequencer) : (s.updSeq c f).exports = s.exports := rfl
/-- updSeq keeps `windows`. -/
@[simp] theorem updSeq_windows (s : State) (c : Nat) (f : Sequencer → Sequencer) : (s.updSeq c f).windows = s.windows := rfl
/-- updSeq keeps `launches`. -/
@[simp] theorem updSeq_launches (s : State) (c : Nat) (f : Sequencer → Sequencer) : (s.updSeq c f).launches = s.launches := rfl
/-- updSeq keeps `wgs`. -/
@[simp] theorem updSeq_wgs (s : State) (c : Nat) (f : Sequencer → Sequencer) : (s.updSeq c f).wgs = s.wgs := rfl
/-- updSeq keeps `mem`. -/
@[simp] theorem updSeq_mem (s : State) (c : Nat) (f : Sequencer → Sequencer) : (s.updSeq c f).mem = s.mem := rfl
/-- updSeq keeps `cmem`. -/
@[simp] theorem updSeq_cmem (s : State) (c : Nat) (f : Sequencer → Sequencer) : (s.updSeq c f).cmem = s.cmem := rfl
/-- updSeq keeps `poison`. -/
@[simp] theorem updSeq_poison (s : State) (c : Nat) (f : Sequencer → Sequencer) : (s.updSeq c f).poison = s.poison := rfl
/-- updSeq keeps `net`. -/
@[simp] theorem updSeq_net (s : State) (c : Nat) (f : Sequencer → Sequencer) : (s.updSeq c f).net = s.net := rfl
/-- updSeq keeps `aside`. -/
@[simp] theorem updSeq_aside (s : State) (c : Nat) (f : Sequencer → Sequencer) : (s.updSeq c f).aside = s.aside := rfl
/-- updSeq keeps `msgs`. -/
@[simp] theorem updSeq_msgs (s : State) (c : Nat) (f : Sequencer → Sequencer) : (s.updSeq c f).msgs = s.msgs := rfl
/-- updSeq keeps `inWait`. -/
@[simp] theorem updSeq_inWait (s : State) (c : Nat) (f : Sequencer → Sequencer) : (s.updSeq c f).inWait = s.inWait := rfl
/-- updSeq keeps `linkOut`. -/
@[simp] theorem updSeq_linkOut (s : State) (c : Nat) (f : Sequencer → Sequencer) : (s.updSeq c f).linkOut = s.linkOut := rfl
/-- updSeq keeps `debug`. -/
@[simp] theorem updSeq_debug (s : State) (c : Nat) (f : Sequencer → Sequencer) : (s.updSeq c f).debug = s.debug := rfl
/-- updSeq keeps `nextId`. -/
@[simp] theorem updSeq_nextId (s : State) (c : Nat) (f : Sequencer → Sequencer) : (s.updSeq c f).nextId = s.nextId := rfl
/-- updSeq keeps `nextWg`. -/
@[simp] theorem updSeq_nextWg (s : State) (c : Nat) (f : Sequencer → Sequencer) : (s.updSeq c f).nextWg = s.nextWg := rfl
/-- updSeq keeps `nextLaunch`. -/
@[simp] theorem updSeq_nextLaunch (s : State) (c : Nat) (f : Sequencer → Sequencer) : (s.updSeq c f).nextLaunch = s.nextLaunch := rfl
/-- updSeq keeps `freeCtr`. -/
@[simp] theorem updSeq_freeCtr (s : State) (c : Nat) (f : Sequencer → Sequencer) : (s.updSeq c f).freeCtr = s.freeCtr := rfl
/-- updSeq keeps `cur`. -/
@[simp] theorem updSeq_cur (s : State) (c : Nat) (f : Sequencer → Sequencer) : (s.updSeq c f).cur = s.cur := rfl
/-- updSeq keeps `agenda`. -/
@[simp] theorem updSeq_agenda (s : State) (c : Nat) (f : Sequencer → Sequencer) : (s.updSeq c f).agenda = s.agenda := rfl
/-- updSeq keeps the dies. -/
@[simp] theorem updSeq_die_ (s : State) (c : Nat) (f : Sequencer → Sequencer) (e : Nat) : (s.updSeq c f).die e = s.die e := rfl
/-- updSeq keeps the cores. -/
@[simp] theorem updSeq_core_ (s : State) (c : Nat) (f : Sequencer → Sequencer) (e : Nat) : (s.updSeq c f).core e = s.core e := rfl
/-- updSeq keeps the devices. -/
@[simp] theorem updSeq_dev_ (s : State) (c : Nat) (f : Sequencer → Sequencer) (e : Nat) : (s.updSeq c f).dev e = s.dev e := rfl
/-- updSeq keeps the command queues. -/
@[simp] theorem updSeq_queue_ (s : State) (c : Nat) (f : Sequencer → Sequencer) (e q : Nat) : (s.updSeq c f).queue e q = s.queue e q := rfl

/-! ### updQueue -/

/-- updQueue keeps `pkg`. -/
@[simp] theorem updQueue_pkg (s : State) (k q : Nat) (f : CQueue → CQueue) : (s.updQueue k q f).pkg = s.pkg := rfl
/-- updQueue keeps `devs`. -/
@[simp] theorem updQueue_devs (s : State) (k q : Nat) (f : CQueue → CQueue) : (s.updQueue k q f).devs = s.devs := rfl
/-- updQueue keeps `dies`. -/
@[simp] theorem updQueue_dies (s : State) (k q : Nat) (f : CQueue → CQueue) : (s.updQueue k q f).dies = s.dies := rfl
/-- updQueue keeps `cores`. -/
@[simp] theorem updQueue_cores (s : State) (k q : Nat) (f : CQueue → CQueue) : (s.updQueue k q f).cores = s.cores := rfl
/-- updQueue keeps `seqs`. -/
@[simp] theorem updQueue_seqs (s : State) (k q : Nat) (f : CQueue → CQueue) : (s.updQueue k q f).seqs = s.seqs := rfl
/-- updQueue keeps `exports`. -/
@[simp] theorem updQueue_exports (s : State) (k q : Nat) (f : CQueue → CQueue) : (s.updQueue k q f).exports = s.exports := rfl
/-- updQueue keeps `windows`. -/
@[simp] theorem updQueue_windows (s : State) (k q : Nat) (f : CQueue → CQueue) : (s.updQueue k q f).windows = s.windows := rfl
/-- updQueue keeps `launches`. -/
@[simp] theorem updQueue_launches (s : State) (k q : Nat) (f : CQueue → CQueue) : (s.updQueue k q f).launches = s.launches := rfl
/-- updQueue keeps `wgs`. -/
@[simp] theorem updQueue_wgs (s : State) (k q : Nat) (f : CQueue → CQueue) : (s.updQueue k q f).wgs = s.wgs := rfl
/-- updQueue keeps `mem`. -/
@[simp] theorem updQueue_mem (s : State) (k q : Nat) (f : CQueue → CQueue) : (s.updQueue k q f).mem = s.mem := rfl
/-- updQueue keeps `cmem`. -/
@[simp] theorem updQueue_cmem (s : State) (k q : Nat) (f : CQueue → CQueue) : (s.updQueue k q f).cmem = s.cmem := rfl
/-- updQueue keeps `poison`. -/
@[simp] theorem updQueue_poison (s : State) (k q : Nat) (f : CQueue → CQueue) : (s.updQueue k q f).poison = s.poison := rfl
/-- updQueue keeps `net`. -/
@[simp] theorem updQueue_net (s : State) (k q : Nat) (f : CQueue → CQueue) : (s.updQueue k q f).net = s.net := rfl
/-- updQueue keeps `aside`. -/
@[simp] theorem updQueue_aside (s : State) (k q : Nat) (f : CQueue → CQueue) : (s.updQueue k q f).aside = s.aside := rfl
/-- updQueue keeps `msgs`. -/
@[simp] theorem updQueue_msgs (s : State) (k q : Nat) (f : CQueue → CQueue) : (s.updQueue k q f).msgs = s.msgs := rfl
/-- updQueue keeps `inWait`. -/
@[simp] theorem updQueue_inWait (s : State) (k q : Nat) (f : CQueue → CQueue) : (s.updQueue k q f).inWait = s.inWait := rfl
/-- updQueue keeps `linkOut`. -/
@[simp] theorem updQueue_linkOut (s : State) (k q : Nat) (f : CQueue → CQueue) : (s.updQueue k q f).linkOut = s.linkOut := rfl
/-- updQueue keeps `debug`. -/
@[simp] theorem updQueue_debug (s : State) (k q : Nat) (f : CQueue → CQueue) : (s.updQueue k q f).debug = s.debug := rfl
/-- updQueue keeps `nextId`. -/
@[simp] theorem updQueue_nextId (s : State) (k q : Nat) (f : CQueue → CQueue) : (s.updQueue k q f).nextId = s.nextId := rfl
/-- updQueue keeps `nextWg`. -/
@[simp] theorem updQueue_nextWg (s : State) (k q : Nat) (f : CQueue → CQueue) : (s.updQueue k q f).nextWg = s.nextWg := rfl
/-- updQueue keeps `nextLaunch`. -/
@[simp] theorem updQueue_nextLaunch (s : State) (k q : Nat) (f : CQueue → CQueue) : (s.updQueue k q f).nextLaunch = s.nextLaunch := rfl
/-- updQueue keeps `freeCtr`. -/
@[simp] theorem updQueue_freeCtr (s : State) (k q : Nat) (f : CQueue → CQueue) : (s.updQueue k q f).freeCtr = s.freeCtr := rfl
/-- updQueue keeps `cur`. -/
@[simp] theorem updQueue_cur (s : State) (k q : Nat) (f : CQueue → CQueue) : (s.updQueue k q f).cur = s.cur := rfl
/-- updQueue keeps `agenda`. -/
@[simp] theorem updQueue_agenda (s : State) (k q : Nat) (f : CQueue → CQueue) : (s.updQueue k q f).agenda = s.agenda := rfl
/-- updQueue keeps the dies. -/
@[simp] theorem updQueue_die_ (s : State) (k q : Nat) (f : CQueue → CQueue) (e : Nat) : (s.updQueue k q f).die e = s.die e := rfl
/-- updQueue keeps the cores. -/
@[simp] theorem updQueue_core_ (s : State) (k q : Nat) (f : CQueue → CQueue) (e : Nat) : (s.updQueue k q f).core e = s.core e := rfl
/-- updQueue keeps the devices. -/
@[simp] theorem updQueue_dev_ (s : State) (k q : Nat) (f : CQueue → CQueue) (e : Nat) : (s.updQueue k q f).dev e = s.dev e := rfl
/-- updQueue keeps the sequencers. -/
@[simp] theorem updQueue_seq_ (s : State) (k q : Nat) (f : CQueue → CQueue) (e : Nat) : (s.updQueue k q f).seq e = s.seq e := rfl

/-! ### updWg -/

/-- updWg keeps `pkg`. -/
@[simp] theorem updWg_pkg (s : State) (g : Nat) (f : Wg → Wg) : (s.updWg g f).pkg = s.pkg := rfl
/-- updWg keeps `devs`. -/
@[simp] theorem updWg_devs (s : State) (g : Nat) (f : Wg → Wg) : (s.updWg g f).devs = s.devs := rfl
/-- updWg keeps `dies`. -/
@[simp] theorem updWg_dies (s : State) (g : Nat) (f : Wg → Wg) : (s.updWg g f).dies = s.dies := rfl
/-- updWg keeps `cores`. -/
@[simp] theorem updWg_cores (s : State) (g : Nat) (f : Wg → Wg) : (s.updWg g f).cores = s.cores := rfl
/-- updWg keeps `seqs`. -/
@[simp] theorem updWg_seqs (s : State) (g : Nat) (f : Wg → Wg) : (s.updWg g f).seqs = s.seqs := rfl
/-- updWg keeps `queues`. -/
@[simp] theorem updWg_queues (s : State) (g : Nat) (f : Wg → Wg) : (s.updWg g f).queues = s.queues := rfl
/-- updWg keeps `exports`. -/
@[simp] theorem updWg_exports (s : State) (g : Nat) (f : Wg → Wg) : (s.updWg g f).exports = s.exports := rfl
/-- updWg keeps `windows`. -/
@[simp] theorem updWg_windows (s : State) (g : Nat) (f : Wg → Wg) : (s.updWg g f).windows = s.windows := rfl
/-- updWg keeps `launches`. -/
@[simp] theorem updWg_launches (s : State) (g : Nat) (f : Wg → Wg) : (s.updWg g f).launches = s.launches := rfl
/-- updWg keeps `mem`. -/
@[simp] theorem updWg_mem (s : State) (g : Nat) (f : Wg → Wg) : (s.updWg g f).mem = s.mem := rfl
/-- updWg keeps `cmem`. -/
@[simp] theorem updWg_cmem (s : State) (g : Nat) (f : Wg → Wg) : (s.updWg g f).cmem = s.cmem := rfl
/-- updWg keeps `poison`. -/
@[simp] theorem updWg_poison (s : State) (g : Nat) (f : Wg → Wg) : (s.updWg g f).poison = s.poison := rfl
/-- updWg keeps `net`. -/
@[simp] theorem updWg_net (s : State) (g : Nat) (f : Wg → Wg) : (s.updWg g f).net = s.net := rfl
/-- updWg keeps `aside`. -/
@[simp] theorem updWg_aside (s : State) (g : Nat) (f : Wg → Wg) : (s.updWg g f).aside = s.aside := rfl
/-- updWg keeps `msgs`. -/
@[simp] theorem updWg_msgs (s : State) (g : Nat) (f : Wg → Wg) : (s.updWg g f).msgs = s.msgs := rfl
/-- updWg keeps `inWait`. -/
@[simp] theorem updWg_inWait (s : State) (g : Nat) (f : Wg → Wg) : (s.updWg g f).inWait = s.inWait := rfl
/-- updWg keeps `linkOut`. -/
@[simp] theorem updWg_linkOut (s : State) (g : Nat) (f : Wg → Wg) : (s.updWg g f).linkOut = s.linkOut := rfl
/-- updWg keeps `debug`. -/
@[simp] theorem updWg_debug (s : State) (g : Nat) (f : Wg → Wg) : (s.updWg g f).debug = s.debug := rfl
/-- updWg keeps `nextId`. -/
@[simp] theorem updWg_nextId (s : State) (g : Nat) (f : Wg → Wg) : (s.updWg g f).nextId = s.nextId := rfl
/-- updWg keeps `nextWg`. -/
@[simp] theorem updWg_nextWg (s : State) (g : Nat) (f : Wg → Wg) : (s.updWg g f).nextWg = s.nextWg := rfl
/-- updWg keeps `nextLaunch`. -/
@[simp] theorem updWg_nextLaunch (s : State) (g : Nat) (f : Wg → Wg) : (s.updWg g f).nextLaunch = s.nextLaunch := rfl
/-- updWg keeps `freeCtr`. -/
@[simp] theorem updWg_freeCtr (s : State) (g : Nat) (f : Wg → Wg) : (s.updWg g f).freeCtr = s.freeCtr := rfl
/-- updWg keeps `cur`. -/
@[simp] theorem updWg_cur (s : State) (g : Nat) (f : Wg → Wg) : (s.updWg g f).cur = s.cur := rfl
/-- updWg keeps `agenda`. -/
@[simp] theorem updWg_agenda (s : State) (g : Nat) (f : Wg → Wg) : (s.updWg g f).agenda = s.agenda := rfl
/-- updWg keeps the dies. -/
@[simp] theorem updWg_die_ (s : State) (g : Nat) (f : Wg → Wg) (e : Nat) : (s.updWg g f).die e = s.die e := rfl
/-- updWg keeps the cores. -/
@[simp] theorem updWg_core_ (s : State) (g : Nat) (f : Wg → Wg) (e : Nat) : (s.updWg g f).core e = s.core e := rfl
/-- updWg keeps the devices. -/
@[simp] theorem updWg_dev_ (s : State) (g : Nat) (f : Wg → Wg) (e : Nat) : (s.updWg g f).dev e = s.dev e := rfl
/-- updWg keeps the sequencers. -/
@[simp] theorem updWg_seq_ (s : State) (g : Nat) (f : Wg → Wg) (e : Nat) : (s.updWg g f).seq e = s.seq e := rfl
/-- updWg keeps the command queues. -/
@[simp] theorem updWg_queue_ (s : State) (g : Nat) (f : Wg → Wg) (e q : Nat) : (s.updWg g f).queue e q = s.queue e q := rfl

/-! ### updLaunch -/

/-- updLaunch keeps `pkg`. -/
@[simp] theorem updLaunch_pkg (s : State) (l : Nat) (f : Launch → Launch) : (s.updLaunch l f).pkg = s.pkg := rfl
/-- updLaunch keeps `devs`. -/
@[simp] theorem updLaunch_devs (s : State) (l : Nat) (f : Launch → Launch) : (s.updLaunch l f).devs = s.devs := rfl
/-- updLaunch keeps `dies`. -/
@[simp] theorem updLaunch_dies (s : State) (l : Nat) (f : Launch → Launch) : (s.updLaunch l f).dies = s.dies := rfl
/-- updLaunch keeps `cores`. -/
@[simp] theorem updLaunch_cores (s : State) (l : Nat) (f : Launch → Launch) : (s.updLaunch l f).cores = s.cores := rfl
/-- updLaunch keeps `seqs`. -/
@[simp] theorem updLaunch_seqs (s : State) (l : Nat) (f : Launch → Launch) : (s.updLaunch l f).seqs = s.seqs := rfl
/-- updLaunch keeps `queues`. -/
@[simp] theorem updLaunch_queues (s : State) (l : Nat) (f : Launch → Launch) : (s.updLaunch l f).queues = s.queues := rfl
/-- updLaunch keeps `exports`. -/
@[simp] theorem updLaunch_exports (s : State) (l : Nat) (f : Launch → Launch) : (s.updLaunch l f).exports = s.exports := rfl
/-- updLaunch keeps `windows`. -/
@[simp] theorem updLaunch_windows (s : State) (l : Nat) (f : Launch → Launch) : (s.updLaunch l f).windows = s.windows := rfl
/-- updLaunch keeps `wgs`. -/
@[simp] theorem updLaunch_wgs (s : State) (l : Nat) (f : Launch → Launch) : (s.updLaunch l f).wgs = s.wgs := rfl
/-- updLaunch keeps `mem`. -/
@[simp] theorem updLaunch_mem (s : State) (l : Nat) (f : Launch → Launch) : (s.updLaunch l f).mem = s.mem := rfl
/-- updLaunch keeps `cmem`. -/
@[simp] theorem updLaunch_cmem (s : State) (l : Nat) (f : Launch → Launch) : (s.updLaunch l f).cmem = s.cmem := rfl
/-- updLaunch keeps `poison`. -/
@[simp] theorem updLaunch_poison (s : State) (l : Nat) (f : Launch → Launch) : (s.updLaunch l f).poison = s.poison := rfl
/-- updLaunch keeps `net`. -/
@[simp] theorem updLaunch_net (s : State) (l : Nat) (f : Launch → Launch) : (s.updLaunch l f).net = s.net := rfl
/-- updLaunch keeps `aside`. -/
@[simp] theorem updLaunch_aside (s : State) (l : Nat) (f : Launch → Launch) : (s.updLaunch l f).aside = s.aside := rfl
/-- updLaunch keeps `msgs`. -/
@[simp] theorem updLaunch_msgs (s : State) (l : Nat) (f : Launch → Launch) : (s.updLaunch l f).msgs = s.msgs := rfl
/-- updLaunch keeps `inWait`. -/
@[simp] theorem updLaunch_inWait (s : State) (l : Nat) (f : Launch → Launch) : (s.updLaunch l f).inWait = s.inWait := rfl
/-- updLaunch keeps `linkOut`. -/
@[simp] theorem updLaunch_linkOut (s : State) (l : Nat) (f : Launch → Launch) : (s.updLaunch l f).linkOut = s.linkOut := rfl
/-- updLaunch keeps `debug`. -/
@[simp] theorem updLaunch_debug (s : State) (l : Nat) (f : Launch → Launch) : (s.updLaunch l f).debug = s.debug := rfl
/-- updLaunch keeps `nextId`. -/
@[simp] theorem updLaunch_nextId (s : State) (l : Nat) (f : Launch → Launch) : (s.updLaunch l f).nextId = s.nextId := rfl
/-- updLaunch keeps `nextWg`. -/
@[simp] theorem updLaunch_nextWg (s : State) (l : Nat) (f : Launch → Launch) : (s.updLaunch l f).nextWg = s.nextWg := rfl
/-- updLaunch keeps `nextLaunch`. -/
@[simp] theorem updLaunch_nextLaunch (s : State) (l : Nat) (f : Launch → Launch) : (s.updLaunch l f).nextLaunch = s.nextLaunch := rfl
/-- updLaunch keeps `freeCtr`. -/
@[simp] theorem updLaunch_freeCtr (s : State) (l : Nat) (f : Launch → Launch) : (s.updLaunch l f).freeCtr = s.freeCtr := rfl
/-- updLaunch keeps `cur`. -/
@[simp] theorem updLaunch_cur (s : State) (l : Nat) (f : Launch → Launch) : (s.updLaunch l f).cur = s.cur := rfl
/-- updLaunch keeps `agenda`. -/
@[simp] theorem updLaunch_agenda (s : State) (l : Nat) (f : Launch → Launch) : (s.updLaunch l f).agenda = s.agenda := rfl
/-- updLaunch keeps the dies. -/
@[simp] theorem updLaunch_die_ (s : State) (l : Nat) (f : Launch → Launch) (e : Nat) : (s.updLaunch l f).die e = s.die e := rfl
/-- updLaunch keeps the cores. -/
@[simp] theorem updLaunch_core_ (s : State) (l : Nat) (f : Launch → Launch) (e : Nat) : (s.updLaunch l f).core e = s.core e := rfl
/-- updLaunch keeps the devices. -/
@[simp] theorem updLaunch_dev_ (s : State) (l : Nat) (f : Launch → Launch) (e : Nat) : (s.updLaunch l f).dev e = s.dev e := rfl
/-- updLaunch keeps the sequencers. -/
@[simp] theorem updLaunch_seq_ (s : State) (l : Nat) (f : Launch → Launch) (e : Nat) : (s.updLaunch l f).seq e = s.seq e := rfl
/-- updLaunch keeps the command queues. -/
@[simp] theorem updLaunch_queue_ (s : State) (l : Nat) (f : Launch → Launch) (e q : Nat) : (s.updLaunch l f).queue e q = s.queue e q := rfl

/-! ### setWarp -/

/-- setWarp keeps `pkg`. -/
@[simp] theorem setWarp_pkg (s : State) (c sl : Nat) (w : Warp) : (s.setWarp c sl w).pkg = s.pkg := rfl
/-- setWarp keeps `devs`. -/
@[simp] theorem setWarp_devs (s : State) (c sl : Nat) (w : Warp) : (s.setWarp c sl w).devs = s.devs := rfl
/-- setWarp keeps `dies`. -/
@[simp] theorem setWarp_dies (s : State) (c sl : Nat) (w : Warp) : (s.setWarp c sl w).dies = s.dies := rfl
/-- setWarp keeps `seqs`. -/
@[simp] theorem setWarp_seqs (s : State) (c sl : Nat) (w : Warp) : (s.setWarp c sl w).seqs = s.seqs := rfl
/-- setWarp keeps `queues`. -/
@[simp] theorem setWarp_queues (s : State) (c sl : Nat) (w : Warp) : (s.setWarp c sl w).queues = s.queues := rfl
/-- setWarp keeps `exports`. -/
@[simp] theorem setWarp_exports (s : State) (c sl : Nat) (w : Warp) : (s.setWarp c sl w).exports = s.exports := rfl
/-- setWarp keeps `windows`. -/
@[simp] theorem setWarp_windows (s : State) (c sl : Nat) (w : Warp) : (s.setWarp c sl w).windows = s.windows := rfl
/-- setWarp keeps `launches`. -/
@[simp] theorem setWarp_launches (s : State) (c sl : Nat) (w : Warp) : (s.setWarp c sl w).launches = s.launches := rfl
/-- setWarp keeps `wgs`. -/
@[simp] theorem setWarp_wgs (s : State) (c sl : Nat) (w : Warp) : (s.setWarp c sl w).wgs = s.wgs := rfl
/-- setWarp keeps `mem`. -/
@[simp] theorem setWarp_mem (s : State) (c sl : Nat) (w : Warp) : (s.setWarp c sl w).mem = s.mem := rfl
/-- setWarp keeps `cmem`. -/
@[simp] theorem setWarp_cmem (s : State) (c sl : Nat) (w : Warp) : (s.setWarp c sl w).cmem = s.cmem := rfl
/-- setWarp keeps `poison`. -/
@[simp] theorem setWarp_poison (s : State) (c sl : Nat) (w : Warp) : (s.setWarp c sl w).poison = s.poison := rfl
/-- setWarp keeps `net`. -/
@[simp] theorem setWarp_net (s : State) (c sl : Nat) (w : Warp) : (s.setWarp c sl w).net = s.net := rfl
/-- setWarp keeps `aside`. -/
@[simp] theorem setWarp_aside (s : State) (c sl : Nat) (w : Warp) : (s.setWarp c sl w).aside = s.aside := rfl
/-- setWarp keeps `msgs`. -/
@[simp] theorem setWarp_msgs (s : State) (c sl : Nat) (w : Warp) : (s.setWarp c sl w).msgs = s.msgs := rfl
/-- setWarp keeps `inWait`. -/
@[simp] theorem setWarp_inWait (s : State) (c sl : Nat) (w : Warp) : (s.setWarp c sl w).inWait = s.inWait := rfl
/-- setWarp keeps `linkOut`. -/
@[simp] theorem setWarp_linkOut (s : State) (c sl : Nat) (w : Warp) : (s.setWarp c sl w).linkOut = s.linkOut := rfl
/-- setWarp keeps `debug`. -/
@[simp] theorem setWarp_debug (s : State) (c sl : Nat) (w : Warp) : (s.setWarp c sl w).debug = s.debug := rfl
/-- setWarp keeps `nextId`. -/
@[simp] theorem setWarp_nextId (s : State) (c sl : Nat) (w : Warp) : (s.setWarp c sl w).nextId = s.nextId := rfl
/-- setWarp keeps `nextWg`. -/
@[simp] theorem setWarp_nextWg (s : State) (c sl : Nat) (w : Warp) : (s.setWarp c sl w).nextWg = s.nextWg := rfl
/-- setWarp keeps `nextLaunch`. -/
@[simp] theorem setWarp_nextLaunch (s : State) (c sl : Nat) (w : Warp) : (s.setWarp c sl w).nextLaunch = s.nextLaunch := rfl
/-- setWarp keeps `freeCtr`. -/
@[simp] theorem setWarp_freeCtr (s : State) (c sl : Nat) (w : Warp) : (s.setWarp c sl w).freeCtr = s.freeCtr := rfl
/-- setWarp keeps `cur`. -/
@[simp] theorem setWarp_cur (s : State) (c sl : Nat) (w : Warp) : (s.setWarp c sl w).cur = s.cur := rfl
/-- setWarp keeps `agenda`. -/
@[simp] theorem setWarp_agenda (s : State) (c sl : Nat) (w : Warp) : (s.setWarp c sl w).agenda = s.agenda := rfl
/-- setWarp keeps the dies. -/
@[simp] theorem setWarp_die_ (s : State) (c sl : Nat) (w : Warp) (e : Nat) : (s.setWarp c sl w).die e = s.die e := rfl
/-- setWarp keeps the devices. -/
@[simp] theorem setWarp_dev_ (s : State) (c sl : Nat) (w : Warp) (e : Nat) : (s.setWarp c sl w).dev e = s.dev e := rfl
/-- setWarp keeps the sequencers. -/
@[simp] theorem setWarp_seq_ (s : State) (c sl : Nat) (w : Warp) (e : Nat) : (s.setWarp c sl w).seq e = s.seq e := rfl
/-- setWarp keeps the command queues. -/
@[simp] theorem setWarp_queue_ (s : State) (c sl : Nat) (w : Warp) (e q : Nat) : (s.setWarp c sl w).queue e q = s.queue e q := rfl

/-! ### updWarp -/

/-- updWarp keeps `pkg`. -/
@[simp] theorem updWarp_pkg (s : State) (c sl : Nat) (f : Warp → Warp) : (s.updWarp c sl f).pkg = s.pkg := rfl
/-- updWarp keeps `devs`. -/
@[simp] theorem updWarp_devs (s : State) (c sl : Nat) (f : Warp → Warp) : (s.updWarp c sl f).devs = s.devs := rfl
/-- updWarp keeps `dies`. -/
@[simp] theorem updWarp_dies (s : State) (c sl : Nat) (f : Warp → Warp) : (s.updWarp c sl f).dies = s.dies := rfl
/-- updWarp keeps `seqs`. -/
@[simp] theorem updWarp_seqs (s : State) (c sl : Nat) (f : Warp → Warp) : (s.updWarp c sl f).seqs = s.seqs := rfl
/-- updWarp keeps `queues`. -/
@[simp] theorem updWarp_queues (s : State) (c sl : Nat) (f : Warp → Warp) : (s.updWarp c sl f).queues = s.queues := rfl
/-- updWarp keeps `exports`. -/
@[simp] theorem updWarp_exports (s : State) (c sl : Nat) (f : Warp → Warp) : (s.updWarp c sl f).exports = s.exports := rfl
/-- updWarp keeps `windows`. -/
@[simp] theorem updWarp_windows (s : State) (c sl : Nat) (f : Warp → Warp) : (s.updWarp c sl f).windows = s.windows := rfl
/-- updWarp keeps `launches`. -/
@[simp] theorem updWarp_launches (s : State) (c sl : Nat) (f : Warp → Warp) : (s.updWarp c sl f).launches = s.launches := rfl
/-- updWarp keeps `wgs`. -/
@[simp] theorem updWarp_wgs (s : State) (c sl : Nat) (f : Warp → Warp) : (s.updWarp c sl f).wgs = s.wgs := rfl
/-- updWarp keeps `mem`. -/
@[simp] theorem updWarp_mem (s : State) (c sl : Nat) (f : Warp → Warp) : (s.updWarp c sl f).mem = s.mem := rfl
/-- updWarp keeps `cmem`. -/
@[simp] theorem updWarp_cmem (s : State) (c sl : Nat) (f : Warp → Warp) : (s.updWarp c sl f).cmem = s.cmem := rfl
/-- updWarp keeps `poison`. -/
@[simp] theorem updWarp_poison (s : State) (c sl : Nat) (f : Warp → Warp) : (s.updWarp c sl f).poison = s.poison := rfl
/-- updWarp keeps `net`. -/
@[simp] theorem updWarp_net (s : State) (c sl : Nat) (f : Warp → Warp) : (s.updWarp c sl f).net = s.net := rfl
/-- updWarp keeps `aside`. -/
@[simp] theorem updWarp_aside (s : State) (c sl : Nat) (f : Warp → Warp) : (s.updWarp c sl f).aside = s.aside := rfl
/-- updWarp keeps `msgs`. -/
@[simp] theorem updWarp_msgs (s : State) (c sl : Nat) (f : Warp → Warp) : (s.updWarp c sl f).msgs = s.msgs := rfl
/-- updWarp keeps `inWait`. -/
@[simp] theorem updWarp_inWait (s : State) (c sl : Nat) (f : Warp → Warp) : (s.updWarp c sl f).inWait = s.inWait := rfl
/-- updWarp keeps `linkOut`. -/
@[simp] theorem updWarp_linkOut (s : State) (c sl : Nat) (f : Warp → Warp) : (s.updWarp c sl f).linkOut = s.linkOut := rfl
/-- updWarp keeps `debug`. -/
@[simp] theorem updWarp_debug (s : State) (c sl : Nat) (f : Warp → Warp) : (s.updWarp c sl f).debug = s.debug := rfl
/-- updWarp keeps `nextId`. -/
@[simp] theorem updWarp_nextId (s : State) (c sl : Nat) (f : Warp → Warp) : (s.updWarp c sl f).nextId = s.nextId := rfl
/-- updWarp keeps `nextWg`. -/
@[simp] theorem updWarp_nextWg (s : State) (c sl : Nat) (f : Warp → Warp) : (s.updWarp c sl f).nextWg = s.nextWg := rfl
/-- updWarp keeps `nextLaunch`. -/
@[simp] theorem updWarp_nextLaunch (s : State) (c sl : Nat) (f : Warp → Warp) : (s.updWarp c sl f).nextLaunch = s.nextLaunch := rfl
/-- updWarp keeps `freeCtr`. -/
@[simp] theorem updWarp_freeCtr (s : State) (c sl : Nat) (f : Warp → Warp) : (s.updWarp c sl f).freeCtr = s.freeCtr := rfl
/-- updWarp keeps `cur`. -/
@[simp] theorem updWarp_cur (s : State) (c sl : Nat) (f : Warp → Warp) : (s.updWarp c sl f).cur = s.cur := rfl
/-- updWarp keeps `agenda`. -/
@[simp] theorem updWarp_agenda (s : State) (c sl : Nat) (f : Warp → Warp) : (s.updWarp c sl f).agenda = s.agenda := rfl
/-- updWarp keeps the dies. -/
@[simp] theorem updWarp_die_ (s : State) (c sl : Nat) (f : Warp → Warp) (e : Nat) : (s.updWarp c sl f).die e = s.die e := rfl
/-- updWarp keeps the devices. -/
@[simp] theorem updWarp_dev_ (s : State) (c sl : Nat) (f : Warp → Warp) (e : Nat) : (s.updWarp c sl f).dev e = s.dev e := rfl
/-- updWarp keeps the sequencers. -/
@[simp] theorem updWarp_seq_ (s : State) (c sl : Nat) (f : Warp → Warp) (e : Nat) : (s.updWarp c sl f).seq e = s.seq e := rfl
/-- updWarp keeps the command queues. -/
@[simp] theorem updWarp_queue_ (s : State) (c sl : Nat) (f : Warp → Warp) (e q : Nat) : (s.updWarp c sl f).queue e q = s.queue e q := rfl

end Sys2Proof.Machine
end

