-- ==== Sys2Proof/Laws/Issue.lean ====
section
/-! SUPPORT. What an issue does, said once: who issues, the gate of Table 9.7 when nothing stops an instruction, what
finishing an instruction leaves, and where the lanes then stand. -/

namespace Sys2Proof.Machine

open Host (Outcome)
open Sys2Proof.Safety

/-! ### Sorting and merging keep every lane -/

/-- Insertion keeps the members. -/
theorem mem_insertBy {α : Type} (lt : α → α → Bool) (x y : α) (l : List α) : y ∈ insertBy lt x l ↔ y = x ∨ y ∈ l := by
  induction l with
  | nil => simp [insertBy]
  | cons z zs ih =>
    simp only [insertBy]
    split
    · simp
    · simp only [List.mem_cons, ih]
      tauto

/-- Sorting keeps the members. -/
theorem mem_sortBy {α : Type} (lt : α → α → Bool) (y : α) (l : List α) : y ∈ sortBy lt l ↔ y ∈ l := by
  induction l with
  | nil => simp [sortBy]
  | cons x xs ih => simp [sortBy, mem_insertBy, ih]

/-- Lanes in a union. -/
theorem hasLane_or (a b : Word) (l : Nat) : hasLane (a ||| b) l = (hasLane a l || hasLane b l) := by
  simp [hasLane, BitVec.getLsbD_or]

/-- Merging an entry keeps the lanes and addresses of those there. -/
theorem mergeEntry_keeps (es : List Entry) (e x : Entry) (l : Nat) (h : x ∈ es) (hl : hasLane x.mask l = true) :
    ∃ y ∈ mergeEntry es e, y.pc = x.pc ∧ hasLane y.mask l = true := by
  unfold mergeEntry
  split
  · exact ⟨x, h, rfl, hl⟩
  · split
    · refine ⟨_, List.mem_map_of_mem h, ?_⟩
      split <;> simp [hasLane_or, hl]
    · exact ⟨x, by simp [h], rfl, hl⟩

/-- A merged entry's lanes stand at its address. -/
theorem mergeEntry_has (es : List Entry) (e : Entry) (l : Nat) (hl : hasLane e.mask l = true) :
    ∃ y ∈ mergeEntry es e, y.pc = e.pc ∧ hasLane y.mask l = true := by
  unfold mergeEntry
  split
  · rename_i h; simp [h, hasLane] at hl
  · split
    · rename_i h
      obtain ⟨x, hx, hp⟩ := List.any_eq_true.mp h
      have hp := of_decide_eq_true hp
      refine ⟨_, List.mem_map_of_mem hx, ?_⟩
      simp [hp, hasLane_or, hl]
    · exact ⟨e, by simp, rfl, hl⟩

/-- Merging a list of entries keeps the lanes of those there. -/
theorem foldl_merge_keeps (xs es : List Entry) (l : Nat) (pc : Double) (h : ∃ x ∈ es, x.pc = pc ∧ hasLane x.mask l = true) :
    ∃ y ∈ xs.foldl mergeEntry es, y.pc = pc ∧ hasLane y.mask l = true := by
  induction xs generalizing es with
  | nil => exact h
  | cons z zs ih =>
    obtain ⟨x, hx, hp, hl⟩ := h
    obtain ⟨y, hy, hq, hm⟩ := mergeEntry_keeps es z x l hx hl
    exact ih _ ⟨y, hy, hq.trans hp, hm⟩

/-- Merging keeps every lane at its address. -/
theorem merged_keeps (es : List Entry) (l : Nat) (e : Entry) (h : e ∈ es) (hl : hasLane e.mask l = true) :
    ∃ y ∈ es.foldl mergeEntry [], y.pc = e.pc ∧ hasLane y.mask l = true := by
  have go : ∀ (xs acc : List Entry), e ∈ xs → ∃ y ∈ xs.foldl mergeEntry acc, y.pc = e.pc ∧ hasLane y.mask l = true := by
    intro xs
    induction xs with
    | nil => intro _ h; simp at h
    | cons z zs ih =>
      intro acc h
      rcases List.mem_cons.mp h with h | h
      · subst h
        exact foldl_merge_keeps zs _ l e.pc (mergeEntry_has acc e l hl)
      · exact ih _ h
  exact go es [] h

/-- Tidying keeps every lane at its address. -/
theorem tidy_keeps (es : List Entry) (l : Nat) (e : Entry) (h : e ∈ es) (hl : hasLane e.mask l = true) :
    ∃ y ∈ tidy es, y.pc = e.pc ∧ hasLane y.mask l = true := by
  simpa only [tidy, mem_sortBy] using merged_keeps es l e h hl

/-- A member of a list is numbered in it. -/
theorem mem_zipIdx_of_mem {α : Type} {l : List α} {a : α} (h : a ∈ l) : ∃ i, (a, i) ∈ l.zipIdx := by
  obtain ⟨i, hi, rfl⟩ := List.mem_iff_getElem.mp h
  exact ⟨i, by rw [List.mem_zipIdx_iff_getElem?]; simp [hi]⟩

/-- Tidying changed entries keeps every lane at its address when the change keeps lanes and addresses. -/
theorem tidy_map_keeps (g : Entry → Entry) (hg : ∀ e, (g e).pc = e.pc ∧ (g e).mask = e.mask) (es : List Entry) (l : Nat)
    (e : Entry) (h : e ∈ es) (hl : hasLane e.mask l = true) : ∃ y ∈ tidy (es.map g), hasLane y.mask l = true ∧ y.pc = e.pc := by
  obtain ⟨y, hy, hp, hm⟩ := tidy_keeps _ l _ (List.mem_map_of_mem (f := g) h) (by rw [(hg e).2]; exact hl)
  exact ⟨y, hy, hm, hp.trans (hg e).1⟩

/-- Giving a warp entries keeps their lanes at their addresses, past the eighth as overflow parks. -/
theorem setFrontier_keeps (w : Warp) (es : List Entry) (l : Nat) (e : Entry) (h : e ∈ es) (hl : hasLane e.mask l = true) :
    (∃ y ∈ (setFrontier w es).frontier, hasLane y.mask l = true ∧ y.pc = e.pc) ∨
      ∃ p ∈ (setFrontier w es).parks, hasLane p.mask l = true ∧ p.pc = e.pc ∧ p.reason = .overflow := by
  obtain ⟨y, hy, hp, hm⟩ := merged_keeps es l e h hl
  have hy : (y, false) ∈ sortBy (fun a b => prioLt a.1 b.1) ((es.foldl mergeEntry []).map (·, false) ++ w.held.map (·, true)) := by
    simp [mem_sortBy, hy]
  rw [← List.take_append_drop 8 (sortBy _ _), List.mem_append] at hy
  rcases hy with hy | hy
  · exact .inl ⟨y, by simp only [setFrontier, mem_sortBy, List.mem_map, List.mem_filter]; exact ⟨_, ⟨hy, rfl⟩, rfl⟩, hm, hp⟩
  · obtain ⟨i, hi⟩ := mem_zipIdx_of_mem hy
    exact .inr ⟨overflowPark y (w.nextSeq + i), List.mem_append_right _ (List.mem_map.mpr ⟨_, hi, rfl⟩), hm, hp, rfl⟩

/-- Giving a warp entries changes only its frontier, and its parks by overflow records, which may be those of entries held. -/
theorem setFrontier_shape (w : Warp) (es : List Entry) :
    ∃ (fr hd : List Entry) (ov : List Park), (∀ p ∈ ov, p.reason = .overflow) ∧ (∀ e ∈ hd, e ∈ w.held) ∧
      (∀ e ∈ w.held, e ∈ hd ∨ ∃ p ∈ ov, p.mask = e.mask ∧ p.pc = e.pc) ∧
      setFrontier w es = { w with frontier := fr, held := hd, parks := w.parks ++ ov, nextSeq := w.nextSeq + ov.length } := by
  let all := sortBy (fun a b => prioLt a.1 b.1) ((es.foldl mergeEntry []).map (·, false) ++ w.held.map (·, true))
  have held_of : ∀ e, (e, true) ∈ all ↔ e ∈ w.held := by intro e; simp [all, mem_sortBy]
  refine ⟨_, _, (all.drop 8).zipIdx.map fun p => overflowPark p.1.1 (w.nextSeq + p.2), ?_, ?_, ?_, by simp [setFrontier, all]; exact ⟨rfl, rfl⟩⟩
  · intro p hp
    obtain ⟨q, _, rfl⟩ := List.mem_map.mp hp
    rfl
  · intro e he
    simp only [mem_sortBy, List.mem_map, List.mem_filter] at he
    obtain ⟨⟨x, b⟩, ⟨hx, rfl⟩, rfl⟩ := he
    exact (held_of _).mp (List.mem_of_mem_take hx)
  · intro e he
    have h := (held_of e).mpr he
    rw [← List.take_append_drop 8 all, List.mem_append] at h
    rcases h with h | h
    · left
      simp only [mem_sortBy, List.mem_map, List.mem_filter]
      exact ⟨_, ⟨h, rfl⟩, rfl⟩
    · obtain ⟨i, hi⟩ := mem_zipIdx_of_mem h
      exact .inr ⟨_, List.mem_map.mpr ⟨_, hi, rfl⟩, rfl, rfl⟩

/-! ### Settling -/

/-- Taking its header's priority, an entry keeps its address and its lanes. -/
theorem withPrio_keeps (s : State) (c g : Nat) (e : Entry) : (withPrio s c g e).pc = e.pc ∧ (withPrio s c g e).mask = e.mask := by
  unfold withPrio
  split <;> exact ⟨rfl, rfl⟩

/-- Settling changes only the warp's frontier, and keeps every lane at its address. -/
theorem settle_shape (s : State) (c sl : Nat) (k : Core) (w : Warp) :
    ∃ fr, settle (s.setCore c { k with warps := fput k.warps sl w }) c sl =
        s.setCore c { k with warps := fput k.warps sl { w with frontier := fr } } ∧
      ∀ l, ∀ e ∈ w.frontier, hasLane e.mask l = true → ∃ y ∈ fr, hasLane y.mask l = true ∧ y.pc = e.pc := by
  unfold settle
  simp only [State.warp?, setCore_core, fget_fput_same]
  refine ⟨_, (setCore_setWarp s c sl { k with warps := fput k.warps sl w } _).trans (by simp only [fput_fput]; rfl), ?_⟩
  intro l e he hl
  exact tidy_map_keeps _ (withPrio_keeps _ _ _) _ l e he hl

/-! ### Finishing an instruction -/

/-- Finishing an instruction leaves core k and warp w as `Leaves` says, and each new entry's lanes at its address. -/
theorem done_leaves (s : State) (x : Ctx) (k : Core) (w : Warp) (es : List Entry) :
    Leaves s (done s x k w es) x k w ∧
      ∀ e ∈ es, ∀ l, hasLane e.mask l = true → laneAt (done s x k w es) x.core x.slot l e.pc := by
  have hset := setFrontier_shape (countIssue k x.ei w)
    (dropAt (countIssue k x.ei w).frontier x.ei ++ es.map (withPrio s x.core x.g))
  obtain ⟨fr, hd, ov, hov, hsub, hheld, hw⟩ := hset
  obtain ⟨fr', hs, hk⟩ := settle_shape s x.core x.slot (countCore k x.slot)
    (setFrontier (countIssue k x.ei w) (dropAt (countIssue k x.ei w).frontier x.ei ++ es.map (withPrio s x.core x.g)))
  have e1 : done s x k w es = _ := hs
  constructor
  · refine ⟨fr', hd, ov, hov, hsub, hheld, ?_⟩
    rw [e1, hw]
    rfl
  · intro e he l hl
    have hp := withPrio_keeps s x.core x.g e
    have h := setFrontier_keeps (countIssue k x.ei w)
      (dropAt (countIssue k x.ei w).frontier x.ei ++ es.map (withPrio s x.core x.g)) l _
      (List.mem_append_right _ (List.mem_map_of_mem he)) (by rw [hp.2]; exact hl)
    rw [hp.1] at h
    refine ⟨_, (by rw [e1, State.warp?, setCore_core]; exact fget_fput_same _ _ _), ?_⟩
    rcases h with ⟨y, hy, hm, hq⟩ | h
    · obtain ⟨z, hz, hm', hp'⟩ := hk l y hy hm
      exact .inl ⟨z, hz, hm', hp'.trans hq⟩
    · exact .inr h

/-- The entry past an instruction has the issued entry's lanes, at the next instruction. -/
theorem passed_mask (x : Ctx) : (passed x).mask = x.e.mask := by
  unfold passed stepPast
  dsimp only
  split <;> [rfl; (split <;> rfl)]

/-- The entry past an instruction stands at the next one. -/
theorem passed_pc (x : Ctx) : (passed x).pc = nextPc x := by
  unfold passed stepPast nextPc
  dsimp only
  split <;> [rfl; (split <;> rfl)]

/-- Going on at the next word. -/
theorem goOn_leaves (s : State) (x : Ctx) (k : Core) (w : Warp) :
    Leaves s (goOn s x k w) x k w ∧ ∀ l, hasLane x.e.mask l = true → laneAt (goOn s x k w) x.core x.slot l (nextPc x) := by
  have h := done_leaves s x k w [passed x]
  refine ⟨h.1, fun l hl => ?_⟩
  have := h.2 (passed x) (by simp) l (by rw [passed_mask]; exact hl)
  rwa [passed_pc] at this

/-! ### The gate -/

/-- The context of an issue is the warp's own: its instruction and its core. -/
theorem ctxOf_fields {s : State} {c sl ei : Nat} {i : Instr} {x : Ctx} (h : ctxOf s c sl ei i = some x) :
    x.i = i ∧ x.k = s.core c ∧ x.core = c ∧ x.slot = sl ∧ x.ei = ei ∧ s.warp? c sl = some x.w ∧ x.w.frontier[ei]? = some x.e ∧
      x.g = x.w.wg ∧ fget s.wgs x.g = some x.wg ∧ fget s.launches x.wg.launch = some x.l ∧
      x.act = guardLanes x.w x.e.mask i := by
  unfold ctxOf at h
  split at h
  · cases h
  · rename_i w hw
    split at h
    · rename_i e g he hg
      split at h
      · rename_i l hl
        cases h
        exact ⟨rfl, rfl, rfl, rfl, rfl, hw, he, rfl, hg, hl, rfl⟩
      · cases h
    · cases h

/-- With nothing to stop it, an instruction leaves its plan's next state. -/
theorem gate_next {s : State} {x : Ctx} {p : Plan} (h : Clear x) (hp : p.priv = none)
    (h6 : p.surface = true → row6 x = none) (ho : p.own = none) (hl : p.live = true → speculative x.w = false)
    (hw : p.wait = none) : gate s x p = p.next := by
  obtain ⟨h1, h2, h3⟩ := h
  have hc : trapCond x p = none := by
    cases hs : p.surface
    · simp [trapCond, hp, h3, hs, ho]
    · simp [trapCond, hp, h3, hs, ho, h6 hs]
  have hl' : (p.live && speculative x.w) = false := by
    cases hl0 : p.live
    · rfl
    · simp [hl hl0]
  simp only [gate, h1, h2, hc, hl', hw]
  rfl

/-- A warp's instruction answers through the gate. -/
theorem issueIn_warp {i : Instr} {s : State} {x : Ctx} {plan : Ctx → Plan} {body : Nat → Sequencer → State} (h : Issues i s x) :
    issueIn i s plan body = .next (gate s x (plan x)) := by
  unfold issueIn
  rw [h.1]
  simp only [h.2]

/-- An instruction of a warp's stream answers through the gate. -/
theorem issue_warp {i : Instr} {s : State} {x : Ctx} {plan : Ctx → Plan} (h : Issues i s x) :
    issue i s plan = .next (gate s x (plan x)) := issueIn_warp h

/-- A sequencer's instruction answers its body. -/
theorem issueIn_seq {i : Instr} {s : State} {cl : Nat} {plan : Ctx → Plan} {body : Nat → Sequencer → State} (h : SeqIssues i s cl) :
    issueIn i s plan body = .next (body cl (s.seq cl)) := by
  obtain ⟨h1, h2, h3, h4, h5⟩ := h
  unfold issueIn
  rw [h1]
  simp only [seqIssue, h3, h4, h5, Option.isSome_none]
  cases hc : (s.seq cl).cur with
  | none => simp [hc] at h2
  | some f => simp

/-! ### Register writes -/

/-- Writing a row writes what `WroteRow` says. -/
theorem writeV_wrote (x : Ctx) (d : Nat) (f : Nat → Word) : WroteRow x (writeV x.k x.slot x.w d x.act f) d f := by
  unfold WroteRow writeV
  by_cases ha : x.act = 0
  · simp [ha]
  · simp only [ha, if_false]
    refine ⟨⟨_, rfl⟩, ?_, ?_, ?_⟩
    · intro key hk
      simp [rowAt, fget_fput_other _ _ hk]
    · simp [rowAt]
    · intro l hl
      simp [readV, rowStale, rowAt, lanes, hl]

/-- Writing a destination register writes what `Wrote` says. -/
theorem putLanes_wrote (x : Ctx) (d : Nat) (f : Nat → Word) : Wrote x (putLanes x x.k d f) d f := by
  unfold Wrote putLanes
  split
  · exact writeV_wrote x d f
  · rfl

/-- Writing a destination pair writes what `WrotePair` says. -/
theorem putPair_wrote (x : Ctx) (d : Nat) (f : Nat → Double) : WrotePair x (putPair x x.k d f) d f := by
  unfold WrotePair putPair
  split
  · refine ⟨writeV x.k x.slot x.w d x.act fun l => (f l).setWidth 32, ?_, ?_⟩
    · convert writeV_wrote x d (fun l => (f l).setWidth 32) using 2
      apply BitVec.eq_of_toNat_eq
      simp
    · convert writeV_wrote { x with k := writeV x.k x.slot x.w d x.act fun l => (f l).setWidth 32 } (d + 1)
        (fun l => (f l).extractLsb' 32 32) using 2
      apply BitVec.eq_of_toNat_eq
      simp [Nat.shiftRight_eq_div_pow]
  · rfl

end Sys2Proof.Machine
end

