-- ==== Sys2Proof/Laws/Lane.lean ====
section
/-! SUPPORT. The shapes of VALU and SCALAR instructions: whenever one issues with nothing to stop it, it completes, and what it
leaves (one lemma per shape, which the meanings built on it share). -/

namespace Sys2Proof.Machine

open Sys2Proof.Safety

/-- An instruction whose plan only goes on, with core k and warp w. -/
theorem completes_of_plan {i : Instr} {s : State} {x : Ctx} {plan : Ctx → Plan} {k : Core} {w : Warp}
    (he : exec i s = issue i s plan) (hi : Issues i s x) (hc : Clear x) (hp : plan x = { next := goOn s x k w }) :
    Completes i s x k w := by
  refine ⟨goOn s x k w, ?_, (goOn_leaves s x k w).1, (goOn_leaves s x k w).2⟩
  rw [he, issue_warp hi, hp, gate_next hc rfl (by simp) rfl (by simp) rfl]

/-- A lane operation completes with its results in the active lanes. -/
theorem laneOp_completes {i : Instr} {s : State} {x : Ctx} {d : Nat} {f : Ctx → Nat → Word} (he : exec i s = laneOp i s d f)
    (hi : Issues i s x) (hc : Clear x) : ∃ k, Wrote x k d (f x) ∧ Completes i s x k x.w :=
  ⟨_, putLanes_wrote x d (f x), completes_of_plan he hi hc rfl⟩

/-- A lane operation with flags completes with its results in the active lanes and their flags added. -/
theorem laneFlagOp_completes {i : Instr} {s : State} {x : Ctx} {d : Nat} {f : Ctx → Nat → Nat × Flags}
    (he : exec i s = laneFlagOp i s d f) (hi : Issues i s x) (hc : Clear x) :
    ∃ k, Wrote x k d (fun l => wd (f x l).1) ∧ Completes i s x k (withFlags x fun l => (f x l).2) :=
  ⟨_, putLanes_wrote x d _, completes_of_plan he hi hc rfl⟩

/-- A predicate operation completes with its truth values in the active lanes and their flags added. -/
theorem lanePredOp_completes {i : Instr} {s : State} {x : Ctx} {p : Nat} {f : Ctx → Nat → Bool × Flags}
    (he : exec i s = lanePredOp i s p f) (hi : Issues i s x) (hc : Clear x) :
    Completes i s x x.k (withPred x (withFlags x fun l => (f x l).2) p fun l => (f x l).1) :=
  completes_of_plan he hi hc rfl

/-- A scalar operation of a warp completes with its result in the scalar register. -/
theorem scalarOp_completes {i : Instr} {f : FS} {s : State} {x : Ctx} {g : Word → Word → Word} (he : exec i s = scalarOp i f s g)
    (hi : Issues i s x) (hc : Clear x) :
    Completes i s x x.k (withScalar x.w f.d.toNat (g (scalarSrc s x f.a.toNat) (scalarSrc s x f.b.toNat))) := by
  refine ⟨_, ?_, (goOn_leaves s x _ _).1, (goOn_leaves s x _ _).2⟩
  rw [he]
  exact (issueIn_warp hi).trans (by rw [gate_next hc rfl (by simp) rfl (by simp) rfl]; rfl)

/-- A scalar operation of a sequencer completes with its result in the q register. -/
theorem scalarOp_seq {i : Instr} {f : FS} {s : State} {cl : Nat} {g : Word → Word → Word} (he : exec i s = scalarOp i f s g)
    (hi : SeqIssues i s cl) :
    exec i s = .next (s.updSeq cl fun q => seqStep (setQ q f.d.toNat (g (seqQ q f.a.toNat)
      (if hasLiteral i then literalOf i else seqQ q f.b.toNat))) (wordCount i)) := by
  rw [he]
  exact issueIn_seq hi

end Sys2Proof.Machine
end

