-- ==== Sys2Proof/Laws/Memory.lean ====
section
/-! SUPPORT. Memory: a read after a write, writes that leave every other byte alone, and the canonical form that every
memory operation keeps. -/

namespace Sys2Proof.Machine

/-! ### Canonical maps -/

/-- The form from a bound holds from a lower one. -/
theorem memWfFrom_mono {m : Mem} {a b : Nat} (h : a ≤ b) (w : memWfFrom b m = true) : memWfFrom a m = true := by
  cases m with
  | nil => rfl
  | cons p m =>
    simp only [memWfFrom, Bool.and_eq_true, decide_eq_true_eq] at w ⊢
    exact ⟨⟨by omega, w.1.2⟩, w.2⟩

/-- An address below the bound of the form is not listed. -/
theorem fget_below {m : Mem} {lo a : Nat} (w : memWfFrom lo m = true) (h : a < lo) : fget m a = none := by
  cases m with
  | nil => rfl
  | cons p m =>
    simp only [memWfFrom, Bool.and_eq_true, decide_eq_true_eq] at w
    simp [fget, show p.1 ≠ a by omega, show a < p.1 by omega]

/-- Putting a byte other than the unlisted one keeps the form. -/
theorem memWfFrom_fput {m : Mem} {lo a : Nat} {b : Byte} (hb : b ≠ 0) (h : lo ≤ a) (w : memWfFrom lo m = true) :
    memWfFrom lo (fput m a b) = true := by
  induction m generalizing lo with
  | nil => simpa [fput, memWfFrom, h] using hb
  | cons p m ih =>
    obtain ⟨k, v⟩ := p
    simp only [memWfFrom, Bool.and_eq_true, decide_eq_true_eq] at w
    simp only [fput]
    split
    · rename_i hk; subst hk; simpa [memWfFrom, h, w.2] using hb
    · split
      · rename_i h1 h2
        simp only [memWfFrom, Bool.and_eq_true, decide_eq_true_eq]
        exact ⟨⟨h, hb⟩, ⟨by omega, w.1.2⟩, w.2⟩
      · rename_i h1 h2
        simp only [memWfFrom, Bool.and_eq_true, decide_eq_true_eq]
        exact ⟨w.1, ih (by omega) w.2⟩

/-- Removing an entry keeps the form. -/
theorem memWfFrom_fdel {m : Mem} {lo : Nat} (a : Nat) (w : memWfFrom lo m = true) : memWfFrom lo (fdel m a) = true := by
  induction m generalizing lo with
  | nil => rfl
  | cons p m ih =>
    obtain ⟨k, v⟩ := p
    have w' := w
    simp only [memWfFrom, Bool.and_eq_true, decide_eq_true_eq] at w
    simp only [fdel]
    split
    · exact memWfFrom_mono (by omega) w.2
    · split
      · exact w'
      · simp only [memWfFrom, Bool.and_eq_true, decide_eq_true_eq]
        exact ⟨w.1, ih w.2⟩

/-- Leaving entries out keeps the form. -/
theorem memWfFrom_filter {m : Mem} {lo : Nat} (p : Nat × Byte → Bool) (w : memWfFrom lo m = true) :
    memWfFrom lo (m.filter p) = true := by
  induction m generalizing lo with
  | nil => rfl
  | cons q m ih =>
    simp only [memWfFrom, Bool.and_eq_true, decide_eq_true_eq] at w
    simp only [List.filter_cons]
    split
    · simp only [memWfFrom, Bool.and_eq_true, decide_eq_true_eq]
      exact ⟨w.1, ih w.2⟩
    · exact memWfFrom_mono (by omega) (ih w.2)

/-- A byte written keeps the form. -/
theorem memWf_memWrite {m : Mem} (a : Nat) (b : Byte) (w : memWf m = true) : memWf (memWrite m a b) = true := by
  unfold memWrite memWf
  split
  · exact memWfFrom_fdel a w
  · rename_i h; exact memWfFrom_fput h (Nat.zero_le _) w

/-- Bytes written keep the form. -/
theorem memWf_memWriteBytes {m : Mem} (a : Nat) (bs : List Byte) (w : memWf m = true) : memWf (memWriteBytes m a bs) = true := by
  induction bs generalizing m a with
  | nil => exact w
  | cons b bs ih => exact ih (a + 1) (memWf_memWrite a b w)

/-- A number written keeps the form. -/
theorem memWf_memWriteNat {m : Mem} (a n x : Nat) (w : memWf m = true) : memWf (memWriteNat m a n x) = true :=
  memWf_memWriteBytes a _ w

/-- Bits merged keep the form. -/
theorem memWf_memMerge {m : Mem} (a n x keep : Nat) (w : memWf m = true) : memWf (memMerge m a n x keep) = true :=
  memWf_memWriteNat a n _ w

/-- Entries left out keep the form. -/
theorem memWf_filter {m : Mem} (p : Nat × Byte → Bool) (w : memWf m = true) : memWf (m.filter p) = true :=
  memWfFrom_filter p w

/-! ### Reads after writes -/

/-- A removed key of a canonical map is not found. -/
theorem fget_fdel_same {m : Mem} {lo : Nat} (a : Nat) (w : memWfFrom lo m = true) : fget (fdel m a) a = none := by
  induction m generalizing lo with
  | nil => rfl
  | cons p m ih =>
    obtain ⟨k, v⟩ := p
    simp only [memWfFrom, Bool.and_eq_true, decide_eq_true_eq] at w
    simp only [fdel]
    split
    · rename_i hk; subst hk; exact fget_below w.2 (by omega)
    · split
      · rename_i h1 h2; simp [fget, h1, h2]
      · rename_i h1 h2; simp [fget, h1, h2, ih w.2]

/-- The other keys stay when one is removed. -/
theorem fget_fdel_other {m : Mem} {lo a b : Nat} (h : b ≠ a) (w : memWfFrom lo m = true) : fget (fdel m a) b = fget m b := by
  induction m generalizing lo with
  | nil => rfl
  | cons p m ih =>
    obtain ⟨k, v⟩ := p
    simp only [memWfFrom, Bool.and_eq_true, decide_eq_true_eq] at w
    simp only [fdel]
    split
    · rename_i hk
      subst hk
      simp only [fget, if_neg (Ne.symm h)]
      split
      · exact fget_below w.2 (by omega)
      · rfl
    · split
      · rfl
      · simp only [fget, ih w.2]

/-- The byte written is read. -/
theorem memRead_memWrite_same {m : Mem} (a : Nat) (b : Byte) (w : memWf m = true) : memRead (memWrite m a b) a = b := by
  unfold memRead memWrite
  split
  · rename_i h; simp [fget_fdel_same a w, h]
  · simp

/-- Every other byte stays. -/
theorem memRead_memWrite_other {m : Mem} {a c : Nat} (b : Byte) (h : c ≠ a) (w : memWf m = true) :
    memRead (memWrite m a b) c = memRead m c := by
  unfold memRead memWrite
  split
  · rw [fget_fdel_other h w]
  · rw [fget_fput_other _ _ h]

/-- Bytes outside a written run stay. -/
theorem memRead_memWriteBytes_outside {m : Mem} {a c : Nat} (bs : List Byte) (h : c < a ∨ a + bs.length ≤ c)
    (w : memWf m = true) : memRead (memWriteBytes m a bs) c = memRead m c := by
  induction bs generalizing m a with
  | nil => rfl
  | cons b bs ih =>
    simp only [List.length_cons] at h
    simp only [memWriteBytes]
    rw [ih (by omega) (memWf_memWrite a b w), memRead_memWrite_other b (by omega) w]

/-- A byte of a written run is the one written. -/
theorem memRead_memWriteBytes_inside {m : Mem} {a i : Nat} (bs : List Byte) (h : i < bs.length) (w : memWf m = true) :
    memRead (memWriteBytes m a bs) (a + i) = bs.getD i 0 := by
  induction bs generalizing m a i with
  | nil => simp at h
  | cons b bs ih =>
    simp only [memWriteBytes]
    cases i with
    | zero =>
      rw [memRead_memWriteBytes_outside bs (by omega) (memWf_memWrite a b w)]
      simp [memRead_memWrite_same a b w]
    | succ i =>
      have := ih (m := memWrite m a b) (a := a + 1) (i := i) (by simpa using h) (memWf_memWrite a b w)
      simpa [Nat.add_assoc, Nat.add_comm 1 i] using this

/-- A run of n bytes of a number has n bytes. -/
@[simp] theorem length_bytesOfNat (n x : Nat) : (bytesOfNat n x).length = n := by
  induction n generalizing x with
  | zero => rfl
  | succ n ih => simp [bytesOfNat, ih]

/-- The number of the bytes of a number is its low part. -/
theorem natOfBytes_bytesOfNat (n x : Nat) : natOfBytes (bytesOfNat n x) = x % 256 ^ n := by
  induction n generalizing x with
  | zero => simp [bytesOfNat, natOfBytes, Nat.mod_one]
  | succ n ih =>
    simp only [bytesOfNat, natOfBytes, ih, BitVec.toNat_ofNat]
    rw [show (2 ^ 8 : Nat) = 256 from rfl, Nat.pow_succ, Nat.mul_comm (256 ^ n) 256, Nat.mod_mul]

end Sys2Proof.Machine
end

