-- ==== Sys2Proof/Laws/PerInstr.lean ====
section
/-! SUPPORT. Per instruction: its words are as many as it takes, and the opcode maps read them back (Tables 9.2, 9.8 to
9.14). -/

namespace Sys2Proof.Laws

open Sys2Proof.Machine

/-- An instruction's encoding has the words it takes, and the maps give it back from them. -/
def RoundTrip.Statement (i : Instr) : Prop :=
  (encode i).length = wordCount i ∧
    ∀ seq : Bool, wellFormedIn seq i = true → view i ≠ .event →
      build (pageOf i) ((encode i).getD 0 0) ((encode i).getD 1 0) ((encode i).getD 2 0) = some i

/-- A map's arm for a F3 word gives its instruction back. -/
theorem arm_f3 (m : Nat → Word → Word → Word → Option Instr) (g : F3 → Instr) {op : Nat} (h : op < 128) (f : F3) (x l : Word)
    (a : ∀ w x l : Word, m op w x l = some (g (f3Of w))) : m (opOf (f3Word op f)) (f3Word op f) x l = some (g f) := by
  rw [opOf_f3Word f h, a, f3Of_f3Word]

/-- A map's arm for a F3X word gives its instruction back. -/
theorem arm_f3x (m : Nat → Word → Word → Word → Option Instr) (g : F3 → XM → Instr) {op : Nat} (h : op < 128) (f : F3) (y : XM) (l : Word)
    (a : ∀ w x l : Word, m op w x l = some (g (f3Of w) (xmOf x))) : m (opOf (f3Word op f)) (f3Word op f) (xmWord y) l = some (g f y) := by
  rw [opOf_f3Word f h, a, f3Of_f3Word, xmOf_xmWord]

/-- A map's arm for a F3L word gives its instruction back. -/
theorem arm_f3l (m : Nat → Word → Word → Word → Option Instr) (g : F3 → Word → Instr) {op : Nat} (h : op < 128) (f : F3) (l z : Word)
    (a : ∀ w x l : Word, m op w x l = some (g (f3Of w) x)) : m (opOf (f3Word op f)) (f3Word op f) l z = some (g f l) := by
  rw [opOf_f3Word f h, a, f3Of_f3Word]

/-- A map's arm for a F3XL word gives its instruction back. -/
theorem arm_f3xl (m : Nat → Word → Word → Word → Option Instr) (g : F3 → XM → Word → Instr) {op : Nat} (h : op < 128) (f : F3) (y : XM) (l : Word)
    (a : ∀ w x l : Word, m op w x l = some (g (f3Of w) (xmOf x) l)) : m (opOf (f3Word op f)) (f3Word op f) (xmWord y) l = some (g f y l) := by
  rw [opOf_f3Word f h, a, f3Of_f3Word, xmOf_xmWord]

/-- A map's arm for a F2I word gives its instruction back. -/
theorem arm_f2i (m : Nat → Word → Word → Word → Option Instr) (g : F2I → Instr) {op : Nat} (h : op < 128) (f : F2I) (x l : Word)
    (a : ∀ w x l : Word, m op w x l = some (g (f2iOf w))) : m (opOf (f2iWord op f)) (f2iWord op f) x l = some (g f) := by
  rw [opOf_f2iWord f h, a, f2iOf_f2iWord]

/-- A map's arm for a FS word gives its instruction back. -/
theorem arm_fs (m : Nat → Word → Word → Word → Option Instr) (g : FS → Instr) {op : Nat} (h : op < 128) (f : FS) (x l : Word)
    (a : ∀ w x l : Word, m op w x l = some (g (fsOf w))) : m (opOf (fsWord op f)) (fsWord op f) x l = some (g f) := by
  rw [opOf_fsWord f h, a, fsOf_fsWord]

/-- A map's arm for a FSL word gives its instruction back. -/
theorem arm_fsl (m : Nat → Word → Word → Word → Option Instr) (g : FS → Word → Instr) {op : Nat} (h : op < 128) (f : FS) (l z : Word)
    (a : ∀ w x l : Word, m op w x l = some (g (fsOf w) x)) : m (opOf (fsWord op f)) (fsWord op f) l z = some (g f l) := by
  rw [opOf_fsWord f h, a, fsOf_fsWord]

/-- A map's arm for a FB word gives its instruction back. -/
theorem arm_fb (m : Nat → Word → Word → Word → Option Instr) (g : FB → Instr) {op : Nat} (h : op < 128) (f : FB) (x l : Word)
    (a : ∀ w x l : Word, m op w x l = some (g (fbOf w))) : m (opOf (fbWord op f)) (fbWord op f) x l = some (g f) := by
  rw [opOf_fbWord f h, a, fbOf_fbWord]

/-- A map's arm for a FQ word gives its instruction back. -/
theorem arm_fq (m : Nat → Word → Word → Word → Option Instr) (g : FQ → Instr) {op : Nat} (h : op < 128) (f : FQ) (x l : Word)
    (a : ∀ w x l : Word, m op w x l = some (g (fqOf w))) : m (opOf (fqWord op f)) (fqWord op f) x l = some (g f) := by
  rw [opOf_fqWord f h, a, fqOf_fqWord]

/-- iadd. -/
theorem RoundTrip.iadd (f : F3) (x : XM) : RoundTrip.Statement (.iadd f x) :=
  ⟨rfl, fun _ _ _ => arm_f3x buildValu .iadd (op := 0x0) (by decide) f x 0 fun _ _ _ => rfl⟩

/-- isub. -/
theorem RoundTrip.isub (f : F3) (x : XM) : RoundTrip.Statement (.isub f x) :=
  ⟨rfl, fun _ _ _ => arm_f3x buildValu .isub (op := 0x1) (by decide) f x 0 fun _ _ _ => rfl⟩

/-- imul. -/
theorem RoundTrip.imul (f : F3) (x : XM) : RoundTrip.Statement (.imul f x) :=
  ⟨rfl, fun _ _ _ => arm_f3x buildValu .imul (op := 0x2) (by decide) f x 0 fun _ _ _ => rfl⟩

/-- imulhi. -/
theorem RoundTrip.imulhi (f : F3) (x : XM) : RoundTrip.Statement (.imulhi f x) :=
  ⟨rfl, fun _ _ _ => arm_f3x buildValu .imulhi (op := 0x3) (by decide) f x 0 fun _ _ _ => rfl⟩

/-- imad. -/
theorem RoundTrip.imad (f : F3) (x : XM) : RoundTrip.Statement (.imad f x) :=
  ⟨rfl, fun _ _ _ => arm_f3x buildValu .imad (op := 0x4) (by decide) f x 0 fun _ _ _ => rfl⟩

/-- imin. -/
theorem RoundTrip.imin (f : F3) (x : XM) : RoundTrip.Statement (.imin f x) :=
  ⟨rfl, fun _ _ _ => arm_f3x buildValu .imin (op := 0x5) (by decide) f x 0 fun _ _ _ => rfl⟩

/-- imax. -/
theorem RoundTrip.imax (f : F3) (x : XM) : RoundTrip.Statement (.imax f x) :=
  ⟨rfl, fun _ _ _ => arm_f3x buildValu .imax (op := 0x6) (by decide) f x 0 fun _ _ _ => rfl⟩

/-- iaddc. -/
theorem RoundTrip.iaddc (f : F3) (x : XM) : RoundTrip.Statement (.iaddc f x) :=
  ⟨rfl, fun _ _ _ => arm_f3x buildValu .iaddc (op := 0x7) (by decide) f x 0 fun _ _ _ => rfl⟩

/-- and_. -/
theorem RoundTrip.and_ (f : F3) : RoundTrip.Statement (.and_ f) :=
  ⟨rfl, fun _ _ _ => arm_f3 buildValu .and_ (op := 0x8) (by decide) f 0 0 fun _ _ _ => rfl⟩

/-- or_. -/
theorem RoundTrip.or_ (f : F3) : RoundTrip.Statement (.or_ f) :=
  ⟨rfl, fun _ _ _ => arm_f3 buildValu .or_ (op := 0x9) (by decide) f 0 0 fun _ _ _ => rfl⟩

/-- xor_. -/
theorem RoundTrip.xor_ (f : F3) : RoundTrip.Statement (.xor_ f) :=
  ⟨rfl, fun _ _ _ => arm_f3 buildValu .xor_ (op := 0xa) (by decide) f 0 0 fun _ _ _ => rfl⟩

/-- andn. -/
theorem RoundTrip.andn (f : F3) : RoundTrip.Statement (.andn f) :=
  ⟨rfl, fun _ _ _ => arm_f3 buildValu .andn (op := 0xb) (by decide) f 0 0 fun _ _ _ => rfl⟩

/-- shl. -/
theorem RoundTrip.shl (f : F3) : RoundTrip.Statement (.shl f) :=
  ⟨rfl, fun _ _ _ => arm_f3 buildValu .shl (op := 0xc) (by decide) f 0 0 fun _ _ _ => rfl⟩

/-- shr. -/
theorem RoundTrip.shr (f : F3) : RoundTrip.Statement (.shr f) :=
  ⟨rfl, fun _ _ _ => arm_f3 buildValu .shr (op := 0xd) (by decide) f 0 0 fun _ _ _ => rfl⟩

/-- sar. -/
theorem RoundTrip.sar (f : F3) : RoundTrip.Statement (.sar f) :=
  ⟨rfl, fun _ _ _ => arm_f3 buildValu .sar (op := 0xe) (by decide) f 0 0 fun _ _ _ => rfl⟩

/-- rotl. -/
theorem RoundTrip.rotl (f : F3) : RoundTrip.Statement (.rotl f) :=
  ⟨rfl, fun _ _ _ => arm_f3 buildValu .rotl (op := 0xf) (by decide) f 0 0 fun _ _ _ => rfl⟩

/-- bfx. -/
theorem RoundTrip.bfx (f : F3) (x : XM) : RoundTrip.Statement (.bfx f x) :=
  ⟨rfl, fun _ _ _ => arm_f3x buildValu .bfx (op := 0x10) (by decide) f x 0 fun _ _ _ => rfl⟩

/-- bfi. -/
theorem RoundTrip.bfi (f : F3) (x : XM) : RoundTrip.Statement (.bfi f x) :=
  ⟨rfl, fun _ _ _ => arm_f3x buildValu .bfi (op := 0x11) (by decide) f x 0 fun _ _ _ => rfl⟩

/-- prmt. -/
theorem RoundTrip.prmt (f : F3) (x : XM) : RoundTrip.Statement (.prmt f x) :=
  ⟨rfl, fun _ _ _ => arm_f3x buildValu .prmt (op := 0x12) (by decide) f x 0 fun _ _ _ => rfl⟩

/-- lea. -/
theorem RoundTrip.lea (f : F3) (x : XM) : RoundTrip.Statement (.lea f x) :=
  ⟨rfl, fun _ _ _ => arm_f3x buildValu .lea (op := 0x13) (by decide) f x 0 fun _ _ _ => rfl⟩

/-- icmp. -/
theorem RoundTrip.icmp (f : F3) (x : XM) : RoundTrip.Statement (.icmp f x) :=
  ⟨rfl, fun _ _ _ => arm_f3x buildValu .icmp (op := 0x14) (by decide) f x 0 fun _ _ _ => rfl⟩

/-- sel. -/
theorem RoundTrip.sel (f : F3) (x : XM) : RoundTrip.Statement (.sel f x) :=
  ⟨rfl, fun _ _ _ => arm_f3x buildValu .sel (op := 0x15) (by decide) f x 0 fun _ _ _ => rfl⟩

/-- mov. -/
theorem RoundTrip.mov (f : F3) : RoundTrip.Statement (.mov f) :=
  ⟨rfl, fun _ _ _ => arm_f3 buildValu .mov (op := 0x16) (by decide) f 0 0 fun _ _ _ => rfl⟩

/-- hash32. -/
theorem RoundTrip.hash32 (f : F3) (x : XM) : RoundTrip.Statement (.hash32 f x) :=
  ⟨rfl, fun _ _ _ => arm_f3x buildValu .hash32 (op := 0x17) (by decide) f x 0 fun _ _ _ => rfl⟩

/-- fadd. -/
theorem RoundTrip.fadd (f : F3) (x : XM) : RoundTrip.Statement (.fadd f x) :=
  ⟨rfl, fun _ _ _ => arm_f3x buildValu .fadd (op := 0x18) (by decide) f x 0 fun _ _ _ => rfl⟩

/-- fsub. -/
theorem RoundTrip.fsub (f : F3) (x : XM) : RoundTrip.Statement (.fsub f x) :=
  ⟨rfl, fun _ _ _ => arm_f3x buildValu .fsub (op := 0x19) (by decide) f x 0 fun _ _ _ => rfl⟩

/-- fmul. -/
theorem RoundTrip.fmul (f : F3) (x : XM) : RoundTrip.Statement (.fmul f x) :=
  ⟨rfl, fun _ _ _ => arm_f3x buildValu .fmul (op := 0x1a) (by decide) f x 0 fun _ _ _ => rfl⟩

/-- ffma. -/
theorem RoundTrip.ffma (f : F3) (x : XM) : RoundTrip.Statement (.ffma f x) :=
  ⟨rfl, fun _ _ _ => arm_f3x buildValu .ffma (op := 0x1b) (by decide) f x 0 fun _ _ _ => rfl⟩

/-- fmin. -/
theorem RoundTrip.fmin (f : F3) (x : XM) : RoundTrip.Statement (.fmin f x) :=
  ⟨rfl, fun _ _ _ => arm_f3x buildValu .fmin (op := 0x1c) (by decide) f x 0 fun _ _ _ => rfl⟩

/-- fmax. -/
theorem RoundTrip.fmax (f : F3) (x : XM) : RoundTrip.Statement (.fmax f x) :=
  ⟨rfl, fun _ _ _ => arm_f3x buildValu .fmax (op := 0x1d) (by decide) f x 0 fun _ _ _ => rfl⟩

/-- fcmp. -/
theorem RoundTrip.fcmp (f : F3) (x : XM) : RoundTrip.Statement (.fcmp f x) :=
  ⟨rfl, fun _ _ _ => arm_f3x buildValu .fcmp (op := 0x1e) (by decide) f x 0 fun _ _ _ => rfl⟩

/-- fscale. -/
theorem RoundTrip.fscale (f : F3) (x : XM) : RoundTrip.Statement (.fscale f x) :=
  ⟨rfl, fun _ _ _ => arm_f3x buildValu .fscale (op := 0x1f) (by decide) f x 0 fun _ _ _ => rfl⟩

/-- padd. -/
theorem RoundTrip.padd (f : F3) (x : XM) : RoundTrip.Statement (.padd f x) :=
  ⟨rfl, fun _ _ _ => arm_f3x buildValu .padd (op := 0x20) (by decide) f x 0 fun _ _ _ => rfl⟩

/-- pmul. -/
theorem RoundTrip.pmul (f : F3) (x : XM) : RoundTrip.Statement (.pmul f x) :=
  ⟨rfl, fun _ _ _ => arm_f3x buildValu .pmul (op := 0x21) (by decide) f x 0 fun _ _ _ => rfl⟩

/-- pfma. -/
theorem RoundTrip.pfma (f : F3) (x : XM) : RoundTrip.Statement (.pfma f x) :=
  ⟨rfl, fun _ _ _ => arm_f3x buildValu .pfma (op := 0x22) (by decide) f x 0 fun _ _ _ => rfl⟩

/-- cvt. -/
theorem RoundTrip.cvt (f : F3) (x : XM) : RoundTrip.Statement (.cvt f x) :=
  ⟨rfl, fun _ _ _ => arm_f3x buildValu .cvt (op := 0x23) (by decide) f x 0 fun _ _ _ => rfl⟩

/-- iabs. -/
theorem RoundTrip.iabs (f : F3) (x : XM) : RoundTrip.Statement (.iabs f x) :=
  ⟨rfl, fun _ _ _ => arm_f3x buildValu .iabs (op := 0x30) (by decide) f x 0 fun _ _ _ => rfl⟩

/-- ineg. -/
theorem RoundTrip.ineg (f : F3) (x : XM) : RoundTrip.Statement (.ineg f x) :=
  ⟨rfl, fun _ _ _ => arm_f3x buildValu .ineg (op := 0x31) (by decide) f x 0 fun _ _ _ => rfl⟩

/-- not_. -/
theorem RoundTrip.not_ (f : F3) : RoundTrip.Statement (.not_ f) :=
  ⟨rfl, fun _ _ _ => arm_f3 buildValu .not_ (op := 0x32) (by decide) f 0 0 fun _ _ _ => rfl⟩

/-- popc. -/
theorem RoundTrip.popc (f : F3) : RoundTrip.Statement (.popc f) :=
  ⟨rfl, fun _ _ _ => arm_f3 buildValu .popc (op := 0x33) (by decide) f 0 0 fun _ _ _ => rfl⟩

/-- clz. -/
theorem RoundTrip.clz (f : F3) : RoundTrip.Statement (.clz f) :=
  ⟨rfl, fun _ _ _ => arm_f3 buildValu .clz (op := 0x34) (by decide) f 0 0 fun _ _ _ => rfl⟩

/-- brev. -/
theorem RoundTrip.brev (f : F3) : RoundTrip.Statement (.brev f) :=
  ⟨rfl, fun _ _ _ => arm_f3 buildValu .brev (op := 0x35) (by decide) f 0 0 fun _ _ _ => rfl⟩

/-- fclass. -/
theorem RoundTrip.fclass (f : F3) (x : XM) : RoundTrip.Statement (.fclass f x) :=
  ⟨rfl, fun _ _ _ => arm_f3x buildValu .fclass (op := 0x36) (by decide) f x 0 fun _ _ _ => rfl⟩

/-- frnd. -/
theorem RoundTrip.frnd (f : F3) (x : XM) : RoundTrip.Statement (.frnd f x) :=
  ⟨rfl, fun _ _ _ => arm_f3x buildValu .frnd (op := 0x37) (by decide) f x 0 fun _ _ _ => rfl⟩

/-- frcp. -/
theorem RoundTrip.frcp (f : F3) (x : XM) : RoundTrip.Statement (.frcp f x) :=
  ⟨rfl, fun _ _ _ => arm_f3x buildValu .frcp (op := 0x38) (by decide) f x 0 fun _ _ _ => rfl⟩

/-- frsq. -/
theorem RoundTrip.frsq (f : F3) (x : XM) : RoundTrip.Statement (.frsq f x) :=
  ⟨rfl, fun _ _ _ => arm_f3x buildValu .frsq (op := 0x39) (by decide) f x 0 fun _ _ _ => rfl⟩

/-- fsqrt. -/
theorem RoundTrip.fsqrt (f : F3) (x : XM) : RoundTrip.Statement (.fsqrt f x) :=
  ⟨rfl, fun _ _ _ => arm_f3x buildValu .fsqrt (op := 0x3a) (by decide) f x 0 fun _ _ _ => rfl⟩

/-- fexp2. -/
theorem RoundTrip.fexp2 (f : F3) (x : XM) : RoundTrip.Statement (.fexp2 f x) :=
  ⟨rfl, fun _ _ _ => arm_f3x buildValu .fexp2 (op := 0x3b) (by decide) f x 0 fun _ _ _ => rfl⟩

/-- flog2. -/
theorem RoundTrip.flog2 (f : F3) (x : XM) : RoundTrip.Statement (.flog2 f x) :=
  ⟨rfl, fun _ _ _ => arm_f3x buildValu .flog2 (op := 0x3c) (by decide) f x 0 fun _ _ _ => rfl⟩

/-- fsin. -/
theorem RoundTrip.fsin (f : F3) (x : XM) : RoundTrip.Statement (.fsin f x) :=
  ⟨rfl, fun _ _ _ => arm_f3x buildValu .fsin (op := 0x3d) (by decide) f x 0 fun _ _ _ => rfl⟩

/-- fcos. -/
theorem RoundTrip.fcos (f : F3) (x : XM) : RoundTrip.Statement (.fcos f x) :=
  ⟨rfl, fun _ _ _ => arm_f3x buildValu .fcos (op := 0x3e) (by decide) f x 0 fun _ _ _ => rfl⟩

/-- ftanh. -/
theorem RoundTrip.ftanh (f : F3) (x : XM) : RoundTrip.Statement (.ftanh f x) :=
  ⟨rfl, fun _ _ _ => arm_f3x buildValu .ftanh (op := 0x3f) (by decide) f x 0 fun _ _ _ => rfl⟩

/-- movi. -/
theorem RoundTrip.movi (f : F2I) : RoundTrip.Statement (.movi f) :=
  ⟨rfl, fun _ _ _ => arm_f2i buildValu .movi (op := 0x70) (by decide) f 0 0 fun _ _ _ => rfl⟩

/-- qnt. -/
theorem RoundTrip.qnt (f : F3) (x : XM) : RoundTrip.Statement (.qnt f x) :=
  ⟨rfl, fun _ _ _ => arm_f3x buildValu .qnt (op := 0x71) (by decide) f x 0 fun _ _ _ => rfl⟩

/-- dqnt. -/
theorem RoundTrip.dqnt (f : F3) (x : XM) : RoundTrip.Statement (.dqnt f x) :=
  ⟨rfl, fun _ _ _ => arm_f3x buildValu .dqnt (op := 0x72) (by decide) f x 0 fun _ _ _ => rfl⟩

/-- pack. -/
theorem RoundTrip.pack (f : F3) (x : XM) : RoundTrip.Statement (.pack f x) :=
  ⟨rfl, fun _ _ _ => arm_f3x buildValu .pack (op := 0x73) (by decide) f x 0 fun _ _ _ => rfl⟩

/-- unpk. -/
theorem RoundTrip.unpk (f : F3) (x : XM) : RoundTrip.Statement (.unpk f x) :=
  ⟨rfl, fun _ _ _ => arm_f3x buildValu .unpk (op := 0x74) (by decide) f x 0 fun _ _ _ => rfl⟩

/-- shfl. -/
theorem RoundTrip.shfl (f : F3) (x : XM) : RoundTrip.Statement (.shfl f x) :=
  ⟨rfl, fun _ _ _ => arm_f3x buildValu .shfl (op := 0x75) (by decide) f x 0 fun _ _ _ => rfl⟩

/-- bcast. -/
theorem RoundTrip.bcast (f : F3) (x : XM) : RoundTrip.Statement (.bcast f x) :=
  ⟨rfl, fun _ _ _ => arm_f3x buildValu .bcast (op := 0x76) (by decide) f x 0 fun _ _ _ => rfl⟩

/-- vote. -/
theorem RoundTrip.vote (f : F3) (x : XM) : RoundTrip.Statement (.vote f x) :=
  ⟨rfl, fun _ _ _ => arm_f3x buildValu .vote (op := 0x77) (by decide) f x 0 fun _ _ _ => rfl⟩

/-- redadd. -/
theorem RoundTrip.redadd (f : F3) (x : XM) : RoundTrip.Statement (.redadd f x) :=
  ⟨rfl, fun _ _ _ => arm_f3x buildValu .redadd (op := 0x78) (by decide) f x 0 fun _ _ _ => rfl⟩

/-- redmin. -/
theorem RoundTrip.redmin (f : F3) (x : XM) : RoundTrip.Statement (.redmin f x) :=
  ⟨rfl, fun _ _ _ => arm_f3x buildValu .redmin (op := 0x79) (by decide) f x 0 fun _ _ _ => rfl⟩

/-- redmax. -/
theorem RoundTrip.redmax (f : F3) (x : XM) : RoundTrip.Statement (.redmax f x) :=
  ⟨rfl, fun _ _ _ => arm_f3x buildValu .redmax (op := 0x7a) (by decide) f x 0 fun _ _ _ => rfl⟩

/-- redmini. -/
theorem RoundTrip.redmini (f : F3) (x : XM) : RoundTrip.Statement (.redmini f x) :=
  ⟨rfl, fun _ _ _ => arm_f3x buildValu .redmini (op := 0x7b) (by decide) f x 0 fun _ _ _ => rfl⟩

/-- redmaxi. -/
theorem RoundTrip.redmaxi (f : F3) (x : XM) : RoundTrip.Statement (.redmaxi f x) :=
  ⟨rfl, fun _ _ _ => arm_f3x buildValu .redmaxi (op := 0x7c) (by decide) f x 0 fun _ _ _ => rfl⟩

/-- scan. -/
theorem RoundTrip.scan (f : F3) (x : XM) : RoundTrip.Statement (.scan f x) :=
  ⟨rfl, fun _ _ _ => arm_f3x buildValu .scan (op := 0x7d) (by decide) f x 0 fun _ _ _ => rfl⟩

/-- match_. -/
theorem RoundTrip.match_ (f : F3) (x : XM) : RoundTrip.Statement (.match_ f x) :=
  ⟨rfl, fun _ _ _ => arm_f3x buildValu .match_ (op := 0x7e) (by decide) f x 0 fun _ _ _ => rfl⟩

/-- iaddLiteral. -/
theorem RoundTrip.iaddLiteral (f : F3) (x : XM) (l : Word) : RoundTrip.Statement (.iaddLiteral f x l) :=
  ⟨rfl, fun _ _ _ => arm_f3xl buildValu .iaddLiteral (op := 0x40) (by decide) f x l fun _ _ _ => rfl⟩

/-- isubLiteral. -/
theorem RoundTrip.isubLiteral (f : F3) (x : XM) (l : Word) : RoundTrip.Statement (.isubLiteral f x l) :=
  ⟨rfl, fun _ _ _ => arm_f3xl buildValu .isubLiteral (op := 0x41) (by decide) f x l fun _ _ _ => rfl⟩

/-- imulLiteral. -/
theorem RoundTrip.imulLiteral (f : F3) (x : XM) (l : Word) : RoundTrip.Statement (.imulLiteral f x l) :=
  ⟨rfl, fun _ _ _ => arm_f3xl buildValu .imulLiteral (op := 0x42) (by decide) f x l fun _ _ _ => rfl⟩

/-- imulhiLiteral. -/
theorem RoundTrip.imulhiLiteral (f : F3) (x : XM) (l : Word) : RoundTrip.Statement (.imulhiLiteral f x l) :=
  ⟨rfl, fun _ _ _ => arm_f3xl buildValu .imulhiLiteral (op := 0x43) (by decide) f x l fun _ _ _ => rfl⟩

/-- imadLiteral. -/
theorem RoundTrip.imadLiteral (f : F3) (x : XM) (l : Word) : RoundTrip.Statement (.imadLiteral f x l) :=
  ⟨rfl, fun _ _ _ => arm_f3xl buildValu .imadLiteral (op := 0x44) (by decide) f x l fun _ _ _ => rfl⟩

/-- iminLiteral. -/
theorem RoundTrip.iminLiteral (f : F3) (x : XM) (l : Word) : RoundTrip.Statement (.iminLiteral f x l) :=
  ⟨rfl, fun _ _ _ => arm_f3xl buildValu .iminLiteral (op := 0x45) (by decide) f x l fun _ _ _ => rfl⟩

/-- imaxLiteral. -/
theorem RoundTrip.imaxLiteral (f : F3) (x : XM) (l : Word) : RoundTrip.Statement (.imaxLiteral f x l) :=
  ⟨rfl, fun _ _ _ => arm_f3xl buildValu .imaxLiteral (op := 0x46) (by decide) f x l fun _ _ _ => rfl⟩

/-- iaddcLiteral. -/
theorem RoundTrip.iaddcLiteral (f : F3) (x : XM) (l : Word) : RoundTrip.Statement (.iaddcLiteral f x l) :=
  ⟨rfl, fun _ _ _ => arm_f3xl buildValu .iaddcLiteral (op := 0x47) (by decide) f x l fun _ _ _ => rfl⟩

/-- andLiteral. -/
theorem RoundTrip.andLiteral (f : F3) (l : Word) : RoundTrip.Statement (.andLiteral f l) :=
  ⟨rfl, fun _ _ _ => arm_f3l buildValu .andLiteral (op := 0x48) (by decide) f l 0 fun _ _ _ => rfl⟩

/-- orLiteral. -/
theorem RoundTrip.orLiteral (f : F3) (l : Word) : RoundTrip.Statement (.orLiteral f l) :=
  ⟨rfl, fun _ _ _ => arm_f3l buildValu .orLiteral (op := 0x49) (by decide) f l 0 fun _ _ _ => rfl⟩

/-- xorLiteral. -/
theorem RoundTrip.xorLiteral (f : F3) (l : Word) : RoundTrip.Statement (.xorLiteral f l) :=
  ⟨rfl, fun _ _ _ => arm_f3l buildValu .xorLiteral (op := 0x4a) (by decide) f l 0 fun _ _ _ => rfl⟩

/-- andnLiteral. -/
theorem RoundTrip.andnLiteral (f : F3) (l : Word) : RoundTrip.Statement (.andnLiteral f l) :=
  ⟨rfl, fun _ _ _ => arm_f3l buildValu .andnLiteral (op := 0x4b) (by decide) f l 0 fun _ _ _ => rfl⟩

/-- shlLiteral. -/
theorem RoundTrip.shlLiteral (f : F3) (l : Word) : RoundTrip.Statement (.shlLiteral f l) :=
  ⟨rfl, fun _ _ _ => arm_f3l buildValu .shlLiteral (op := 0x4c) (by decide) f l 0 fun _ _ _ => rfl⟩

/-- shrLiteral. -/
theorem RoundTrip.shrLiteral (f : F3) (l : Word) : RoundTrip.Statement (.shrLiteral f l) :=
  ⟨rfl, fun _ _ _ => arm_f3l buildValu .shrLiteral (op := 0x4d) (by decide) f l 0 fun _ _ _ => rfl⟩

/-- sarLiteral. -/
theorem RoundTrip.sarLiteral (f : F3) (l : Word) : RoundTrip.Statement (.sarLiteral f l) :=
  ⟨rfl, fun _ _ _ => arm_f3l buildValu .sarLiteral (op := 0x4e) (by decide) f l 0 fun _ _ _ => rfl⟩

/-- rotlLiteral. -/
theorem RoundTrip.rotlLiteral (f : F3) (l : Word) : RoundTrip.Statement (.rotlLiteral f l) :=
  ⟨rfl, fun _ _ _ => arm_f3l buildValu .rotlLiteral (op := 0x4f) (by decide) f l 0 fun _ _ _ => rfl⟩

/-- bfxLiteral. -/
theorem RoundTrip.bfxLiteral (f : F3) (x : XM) (l : Word) : RoundTrip.Statement (.bfxLiteral f x l) :=
  ⟨rfl, fun _ _ _ => arm_f3xl buildValu .bfxLiteral (op := 0x50) (by decide) f x l fun _ _ _ => rfl⟩

/-- bfiLiteral. -/
theorem RoundTrip.bfiLiteral (f : F3) (x : XM) (l : Word) : RoundTrip.Statement (.bfiLiteral f x l) :=
  ⟨rfl, fun _ _ _ => arm_f3xl buildValu .bfiLiteral (op := 0x51) (by decide) f x l fun _ _ _ => rfl⟩

/-- prmtLiteral. -/
theorem RoundTrip.prmtLiteral (f : F3) (x : XM) (l : Word) : RoundTrip.Statement (.prmtLiteral f x l) :=
  ⟨rfl, fun _ _ _ => arm_f3xl buildValu .prmtLiteral (op := 0x52) (by decide) f x l fun _ _ _ => rfl⟩

/-- leaLiteral. -/
theorem RoundTrip.leaLiteral (f : F3) (x : XM) (l : Word) : RoundTrip.Statement (.leaLiteral f x l) :=
  ⟨rfl, fun _ _ _ => arm_f3xl buildValu .leaLiteral (op := 0x53) (by decide) f x l fun _ _ _ => rfl⟩

/-- icmpLiteral. -/
theorem RoundTrip.icmpLiteral (f : F3) (x : XM) (l : Word) : RoundTrip.Statement (.icmpLiteral f x l) :=
  ⟨rfl, fun _ _ _ => arm_f3xl buildValu .icmpLiteral (op := 0x54) (by decide) f x l fun _ _ _ => rfl⟩

/-- selLiteral. -/
theorem RoundTrip.selLiteral (f : F3) (x : XM) (l : Word) : RoundTrip.Statement (.selLiteral f x l) :=
  ⟨rfl, fun _ _ _ => arm_f3xl buildValu .selLiteral (op := 0x55) (by decide) f x l fun _ _ _ => rfl⟩

/-- movLiteral. -/
theorem RoundTrip.movLiteral (f : F3) (l : Word) : RoundTrip.Statement (.movLiteral f l) :=
  ⟨rfl, fun _ _ _ => arm_f3l buildValu .movLiteral (op := 0x56) (by decide) f l 0 fun _ _ _ => rfl⟩

/-- hash32Literal. -/
theorem RoundTrip.hash32Literal (f : F3) (x : XM) (l : Word) : RoundTrip.Statement (.hash32Literal f x l) :=
  ⟨rfl, fun _ _ _ => arm_f3xl buildValu .hash32Literal (op := 0x57) (by decide) f x l fun _ _ _ => rfl⟩

/-- faddLiteral. -/
theorem RoundTrip.faddLiteral (f : F3) (x : XM) (l : Word) : RoundTrip.Statement (.faddLiteral f x l) :=
  ⟨rfl, fun _ _ _ => arm_f3xl buildValu .faddLiteral (op := 0x58) (by decide) f x l fun _ _ _ => rfl⟩

/-- fsubLiteral. -/
theorem RoundTrip.fsubLiteral (f : F3) (x : XM) (l : Word) : RoundTrip.Statement (.fsubLiteral f x l) :=
  ⟨rfl, fun _ _ _ => arm_f3xl buildValu .fsubLiteral (op := 0x59) (by decide) f x l fun _ _ _ => rfl⟩

/-- fmulLiteral. -/
theorem RoundTrip.fmulLiteral (f : F3) (x : XM) (l : Word) : RoundTrip.Statement (.fmulLiteral f x l) :=
  ⟨rfl, fun _ _ _ => arm_f3xl buildValu .fmulLiteral (op := 0x5a) (by decide) f x l fun _ _ _ => rfl⟩

/-- ffmaLiteral. -/
theorem RoundTrip.ffmaLiteral (f : F3) (x : XM) (l : Word) : RoundTrip.Statement (.ffmaLiteral f x l) :=
  ⟨rfl, fun _ _ _ => arm_f3xl buildValu .ffmaLiteral (op := 0x5b) (by decide) f x l fun _ _ _ => rfl⟩

/-- fminLiteral. -/
theorem RoundTrip.fminLiteral (f : F3) (x : XM) (l : Word) : RoundTrip.Statement (.fminLiteral f x l) :=
  ⟨rfl, fun _ _ _ => arm_f3xl buildValu .fminLiteral (op := 0x5c) (by decide) f x l fun _ _ _ => rfl⟩

/-- fmaxLiteral. -/
theorem RoundTrip.fmaxLiteral (f : F3) (x : XM) (l : Word) : RoundTrip.Statement (.fmaxLiteral f x l) :=
  ⟨rfl, fun _ _ _ => arm_f3xl buildValu .fmaxLiteral (op := 0x5d) (by decide) f x l fun _ _ _ => rfl⟩

/-- fcmpLiteral. -/
theorem RoundTrip.fcmpLiteral (f : F3) (x : XM) (l : Word) : RoundTrip.Statement (.fcmpLiteral f x l) :=
  ⟨rfl, fun _ _ _ => arm_f3xl buildValu .fcmpLiteral (op := 0x5e) (by decide) f x l fun _ _ _ => rfl⟩

/-- fscaleLiteral. -/
theorem RoundTrip.fscaleLiteral (f : F3) (x : XM) (l : Word) : RoundTrip.Statement (.fscaleLiteral f x l) :=
  ⟨rfl, fun _ _ _ => arm_f3xl buildValu .fscaleLiteral (op := 0x5f) (by decide) f x l fun _ _ _ => rfl⟩

/-- paddLiteral. -/
theorem RoundTrip.paddLiteral (f : F3) (x : XM) (l : Word) : RoundTrip.Statement (.paddLiteral f x l) :=
  ⟨rfl, fun _ _ _ => arm_f3xl buildValu .paddLiteral (op := 0x60) (by decide) f x l fun _ _ _ => rfl⟩

/-- pmulLiteral. -/
theorem RoundTrip.pmulLiteral (f : F3) (x : XM) (l : Word) : RoundTrip.Statement (.pmulLiteral f x l) :=
  ⟨rfl, fun _ _ _ => arm_f3xl buildValu .pmulLiteral (op := 0x61) (by decide) f x l fun _ _ _ => rfl⟩

/-- pfmaLiteral. -/
theorem RoundTrip.pfmaLiteral (f : F3) (x : XM) (l : Word) : RoundTrip.Statement (.pfmaLiteral f x l) :=
  ⟨rfl, fun _ _ _ => arm_f3xl buildValu .pfmaLiteral (op := 0x62) (by decide) f x l fun _ _ _ => rfl⟩

/-- cvtLiteral. -/
theorem RoundTrip.cvtLiteral (f : F3) (x : XM) (l : Word) : RoundTrip.Statement (.cvtLiteral f x l) :=
  ⟨rfl, fun _ _ _ => arm_f3xl buildValu .cvtLiteral (op := 0x63) (by decide) f x l fun _ _ _ => rfl⟩

/-- sadd. -/
theorem RoundTrip.sadd (f : FS) : RoundTrip.Statement (.sadd f) :=
  ⟨rfl, fun _ _ _ => arm_fs buildScalar .sadd (op := 0x0) (by decide) f 0 0 fun _ _ _ => rfl⟩

/-- ssub. -/
theorem RoundTrip.ssub (f : FS) : RoundTrip.Statement (.ssub f) :=
  ⟨rfl, fun _ _ _ => arm_fs buildScalar .ssub (op := 0x1) (by decide) f 0 0 fun _ _ _ => rfl⟩

/-- smul. -/
theorem RoundTrip.smul (f : FS) : RoundTrip.Statement (.smul f) :=
  ⟨rfl, fun _ _ _ => arm_fs buildScalar .smul (op := 0x2) (by decide) f 0 0 fun _ _ _ => rfl⟩

/-- sand. -/
theorem RoundTrip.sand (f : FS) : RoundTrip.Statement (.sand f) :=
  ⟨rfl, fun _ _ _ => arm_fs buildScalar .sand (op := 0x3) (by decide) f 0 0 fun _ _ _ => rfl⟩

/-- sor. -/
theorem RoundTrip.sor (f : FS) : RoundTrip.Statement (.sor f) :=
  ⟨rfl, fun _ _ _ => arm_fs buildScalar .sor (op := 0x4) (by decide) f 0 0 fun _ _ _ => rfl⟩

/-- sxor. -/
theorem RoundTrip.sxor (f : FS) : RoundTrip.Statement (.sxor f) :=
  ⟨rfl, fun _ _ _ => arm_fs buildScalar .sxor (op := 0x5) (by decide) f 0 0 fun _ _ _ => rfl⟩

/-- sshl. -/
theorem RoundTrip.sshl (f : FS) : RoundTrip.Statement (.sshl f) :=
  ⟨rfl, fun _ _ _ => arm_fs buildScalar .sshl (op := 0x6) (by decide) f 0 0 fun _ _ _ => rfl⟩

/-- sshr. -/
theorem RoundTrip.sshr (f : FS) : RoundTrip.Statement (.sshr f) :=
  ⟨rfl, fun _ _ _ => arm_fs buildScalar .sshr (op := 0x7) (by decide) f 0 0 fun _ _ _ => rfl⟩

/-- ssar. -/
theorem RoundTrip.ssar (f : FS) : RoundTrip.Statement (.ssar f) :=
  ⟨rfl, fun _ _ _ => arm_fs buildScalar .ssar (op := 0x8) (by decide) f 0 0 fun _ _ _ => rfl⟩

/-- smin. -/
theorem RoundTrip.smin (f : FS) : RoundTrip.Statement (.smin f) :=
  ⟨rfl, fun _ _ _ => arm_fs buildScalar .smin (op := 0x9) (by decide) f 0 0 fun _ _ _ => rfl⟩

/-- smax. -/
theorem RoundTrip.smax (f : FS) : RoundTrip.Statement (.smax f) :=
  ⟨rfl, fun _ _ _ => arm_fs buildScalar .smax (op := 0xa) (by decide) f 0 0 fun _ _ _ => rfl⟩

/-- scmp. -/
theorem RoundTrip.scmp (f : FS) : RoundTrip.Statement (.scmp f) :=
  ⟨rfl, fun _ _ _ => arm_fs buildScalar .scmp (op := 0xb) (by decide) f 0 0 fun _ _ _ => rfl⟩

/-- ssel. -/
theorem RoundTrip.ssel (f : FS) : RoundTrip.Statement (.ssel f) :=
  ⟨rfl, fun _ _ _ => arm_fs buildScalar .ssel (op := 0xc) (by decide) f 0 0 fun _ _ _ => rfl⟩

/-- smov. -/
theorem RoundTrip.smov (f : FS) : RoundTrip.Statement (.smov f) :=
  ⟨rfl, fun _ _ _ => arm_fs buildScalar .smov (op := 0xd) (by decide) f 0 0 fun _ _ _ => rfl⟩

/-- smovi. -/
theorem RoundTrip.smovi (f : FS) : RoundTrip.Statement (.smovi f) :=
  ⟨rfl, fun _ _ _ => arm_fs buildScalar .smovi (op := 0xe) (by decide) f 0 0 fun _ _ _ => rfl⟩

/-- sld. -/
theorem RoundTrip.sld (f : FS) : RoundTrip.Statement (.sld f) :=
  ⟨rfl, fun _ _ _ => arm_fs buildScalar .sld (op := 0xf) (by decide) f 0 0 fun _ _ _ => rfl⟩

/-- readlane. -/
theorem RoundTrip.readlane (f : FS) : RoundTrip.Statement (.readlane f) :=
  ⟨rfl, fun _ _ _ => arm_fs buildScalar .readlane (op := 0x10) (by decide) f 0 0 fun _ _ _ => rfl⟩

/-- sbcast. -/
theorem RoundTrip.sbcast (f : FS) : RoundTrip.Statement (.sbcast f) :=
  ⟨rfl, fun _ _ _ => arm_fs buildScalar .sbcast (op := 0x11) (by decide) f 0 0 fun _ _ _ => rfl⟩

/-- saddLiteral. -/
theorem RoundTrip.saddLiteral (f : FS) (l : Word) : RoundTrip.Statement (.saddLiteral f l) :=
  ⟨rfl, fun _ _ _ => arm_fsl buildScalar .saddLiteral (op := 0x40) (by decide) f l 0 fun _ _ _ => rfl⟩

/-- ssubLiteral. -/
theorem RoundTrip.ssubLiteral (f : FS) (l : Word) : RoundTrip.Statement (.ssubLiteral f l) :=
  ⟨rfl, fun _ _ _ => arm_fsl buildScalar .ssubLiteral (op := 0x41) (by decide) f l 0 fun _ _ _ => rfl⟩

/-- smulLiteral. -/
theorem RoundTrip.smulLiteral (f : FS) (l : Word) : RoundTrip.Statement (.smulLiteral f l) :=
  ⟨rfl, fun _ _ _ => arm_fsl buildScalar .smulLiteral (op := 0x42) (by decide) f l 0 fun _ _ _ => rfl⟩

/-- sandLiteral. -/
theorem RoundTrip.sandLiteral (f : FS) (l : Word) : RoundTrip.Statement (.sandLiteral f l) :=
  ⟨rfl, fun _ _ _ => arm_fsl buildScalar .sandLiteral (op := 0x43) (by decide) f l 0 fun _ _ _ => rfl⟩

/-- sorLiteral. -/
theorem RoundTrip.sorLiteral (f : FS) (l : Word) : RoundTrip.Statement (.sorLiteral f l) :=
  ⟨rfl, fun _ _ _ => arm_fsl buildScalar .sorLiteral (op := 0x44) (by decide) f l 0 fun _ _ _ => rfl⟩

/-- sxorLiteral. -/
theorem RoundTrip.sxorLiteral (f : FS) (l : Word) : RoundTrip.Statement (.sxorLiteral f l) :=
  ⟨rfl, fun _ _ _ => arm_fsl buildScalar .sxorLiteral (op := 0x45) (by decide) f l 0 fun _ _ _ => rfl⟩

/-- sshlLiteral. -/
theorem RoundTrip.sshlLiteral (f : FS) (l : Word) : RoundTrip.Statement (.sshlLiteral f l) :=
  ⟨rfl, fun _ _ _ => arm_fsl buildScalar .sshlLiteral (op := 0x46) (by decide) f l 0 fun _ _ _ => rfl⟩

/-- sshrLiteral. -/
theorem RoundTrip.sshrLiteral (f : FS) (l : Word) : RoundTrip.Statement (.sshrLiteral f l) :=
  ⟨rfl, fun _ _ _ => arm_fsl buildScalar .sshrLiteral (op := 0x47) (by decide) f l 0 fun _ _ _ => rfl⟩

/-- ssarLiteral. -/
theorem RoundTrip.ssarLiteral (f : FS) (l : Word) : RoundTrip.Statement (.ssarLiteral f l) :=
  ⟨rfl, fun _ _ _ => arm_fsl buildScalar .ssarLiteral (op := 0x48) (by decide) f l 0 fun _ _ _ => rfl⟩

/-- sminLiteral. -/
theorem RoundTrip.sminLiteral (f : FS) (l : Word) : RoundTrip.Statement (.sminLiteral f l) :=
  ⟨rfl, fun _ _ _ => arm_fsl buildScalar .sminLiteral (op := 0x49) (by decide) f l 0 fun _ _ _ => rfl⟩

/-- smaxLiteral. -/
theorem RoundTrip.smaxLiteral (f : FS) (l : Word) : RoundTrip.Statement (.smaxLiteral f l) :=
  ⟨rfl, fun _ _ _ => arm_fsl buildScalar .smaxLiteral (op := 0x4a) (by decide) f l 0 fun _ _ _ => rfl⟩

/-- scmpLiteral. -/
theorem RoundTrip.scmpLiteral (f : FS) (l : Word) : RoundTrip.Statement (.scmpLiteral f l) :=
  ⟨rfl, fun _ _ _ => arm_fsl buildScalar .scmpLiteral (op := 0x4b) (by decide) f l 0 fun _ _ _ => rfl⟩

/-- sselLiteral. -/
theorem RoundTrip.sselLiteral (f : FS) (l : Word) : RoundTrip.Statement (.sselLiteral f l) :=
  ⟨rfl, fun _ _ _ => arm_fsl buildScalar .sselLiteral (op := 0x4c) (by decide) f l 0 fun _ _ _ => rfl⟩

/-- smovLiteral. -/
theorem RoundTrip.smovLiteral (f : FS) (l : Word) : RoundTrip.Statement (.smovLiteral f l) :=
  ⟨rfl, fun _ _ _ => arm_fsl buildScalar .smovLiteral (op := 0x4d) (by decide) f l 0 fun _ _ _ => rfl⟩

/-- bra. -/
theorem RoundTrip.bra (f : FB) : RoundTrip.Statement (.bra f) :=
  ⟨rfl, fun _ _ _ => arm_fb buildControl .bra (op := 0x0) (by decide) f 0 0 fun _ _ _ => rfl⟩

/-- brp. -/
theorem RoundTrip.brp (f : FB) : RoundTrip.Statement (.brp f) :=
  ⟨rfl, fun _ _ _ => arm_fb buildControl .brp (op := 0x1) (by decide) f 0 0 fun _ _ _ => rfl⟩

/-- call. -/
theorem RoundTrip.call (f : FB) : RoundTrip.Statement (.call f) :=
  ⟨rfl, fun _ _ _ => arm_fb buildControl .call (op := 0x2) (by decide) f 0 0 fun _ _ _ => rfl⟩

/-- jmpi. -/
theorem RoundTrip.jmpi (f : F3) : RoundTrip.Statement (.jmpi f) :=
  ⟨rfl, fun _ _ _ => arm_f3 buildControl .jmpi (op := 0x3) (by decide) f 0 0 fun _ _ _ => rfl⟩

/-- ret. -/
theorem RoundTrip.ret (f : F3) : RoundTrip.Statement (.ret f) :=
  ⟨rfl, fun _ _ _ => arm_f3 buildControl .ret (op := 0x4) (by decide) f 0 0 fun _ _ _ => rfl⟩

/-- exit. -/
theorem RoundTrip.exit (f : F3) : RoundTrip.Statement (.exit f) :=
  ⟨rfl, fun _ _ _ => arm_f3 buildControl .exit (op := 0x5) (by decide) f 0 0 fun _ _ _ => rfl⟩

/-- trap. -/
theorem RoundTrip.trap (f : F2I) : RoundTrip.Statement (.trap f) :=
  ⟨rfl, fun _ _ _ => arm_f2i buildControl .trap (op := 0x6) (by decide) f 0 0 fun _ _ _ => rfl⟩

/-- rconv. -/
theorem RoundTrip.rconv (f : F3) : RoundTrip.Statement (.rconv f) :=
  ⟨rfl, fun _ _ _ => arm_f3 buildControl .rconv (op := 0x7) (by decide) f 0 0 fun _ _ _ => rfl⟩

/-- yield. -/
theorem RoundTrip.yield (f : F3) : RoundTrip.Statement (.yield f) :=
  ⟨rfl, fun _ _ _ => arm_f3 buildControl .yield (op := 0x8) (by decide) f 0 0 fun _ _ _ => rfl⟩

/-- nop. -/
theorem RoundTrip.nop (f : F3) : RoundTrip.Statement (.nop f) :=
  ⟨rfl, fun _ _ _ => arm_f3 buildControl .nop (op := 0x9) (by decide) f 0 0 fun _ _ _ => rfl⟩

/-- sleep. -/
theorem RoundTrip.sleep (f : F3) : RoundTrip.Statement (.sleep f) :=
  ⟨rfl, fun _ _ _ => arm_f3 buildControl .sleep (op := 0xa) (by decide) f 0 0 fun _ _ _ => rfl⟩

/-- fork. -/
theorem RoundTrip.fork (f : F3) (x : XM) : RoundTrip.Statement (.fork f x) :=
  ⟨rfl, fun _ _ _ => arm_f3x buildControl .fork (op := 0xb) (by decide) f x 0 fun _ _ _ => rfl⟩

/-- join_. -/
theorem RoundTrip.join_ (f : F3) : RoundTrip.Statement (.join_ f) :=
  ⟨rfl, fun _ _ _ => arm_f3 buildControl .join_ (op := 0xc) (by decide) f 0 0 fun _ _ _ => rfl⟩

/-- spawn. -/
theorem RoundTrip.spawn (f : F3) (x : XM) : RoundTrip.Statement (.spawn f x) :=
  ⟨rfl, fun _ _ _ => arm_f3x buildControl .spawn (op := 0xd) (by decide) f x 0 fun _ _ _ => rfl⟩

/-- ldPair. -/
theorem RoundTrip.ldPair (f : F3) (x : XM) : RoundTrip.Statement (.ldPair f x) :=
  ⟨rfl, fun _ _ _ => arm_f3x buildMemory .ldPair (op := 0x0) (by decide) f x 0 fun _ _ _ => rfl⟩

/-- stPair. -/
theorem RoundTrip.stPair (f : F3) (x : XM) : RoundTrip.Statement (.stPair f x) :=
  ⟨rfl, fun _ _ _ => arm_f3x buildMemory .stPair (op := 0x1) (by decide) f x 0 fun _ _ _ => rfl⟩

/-- ldaPair. -/
theorem RoundTrip.ldaPair (f : F3) (x : XM) : RoundTrip.Statement (.ldaPair f x) :=
  ⟨rfl, fun _ _ _ => arm_f3x buildMemory .ldaPair (op := 0x2) (by decide) f x 0 fun _ _ _ => rfl⟩

/-- stlPair. -/
theorem RoundTrip.stlPair (f : F3) (x : XM) : RoundTrip.Statement (.stlPair f x) :=
  ⟨rfl, fun _ _ _ => arm_f3x buildMemory .stlPair (op := 0x3) (by decide) f x 0 fun _ _ _ => rfl⟩

/-- atomPair. -/
theorem RoundTrip.atomPair (f : F3) (x : XM) : RoundTrip.Statement (.atomPair f x) :=
  ⟨rfl, fun _ _ _ => arm_f3x buildMemory .atomPair (op := 0x4) (by decide) f x 0 fun _ _ _ => rfl⟩

/-- atomnPair. -/
theorem RoundTrip.atomnPair (f : F3) (x : XM) : RoundTrip.Statement (.atomnPair f x) :=
  ⟨rfl, fun _ _ _ => arm_f3x buildMemory .atomnPair (op := 0x5) (by decide) f x 0 fun _ _ _ => rfl⟩

/-- casPair. -/
theorem RoundTrip.casPair (f : F3) (x : XM) : RoundTrip.Statement (.casPair f x) :=
  ⟨rfl, fun _ _ _ => arm_f3x buildMemory .casPair (op := 0x6) (by decide) f x 0 fun _ _ _ => rfl⟩

/-- pref. -/
theorem RoundTrip.pref (f : F3) (x : XM) : RoundTrip.Statement (.pref f x) :=
  ⟨rfl, fun _ _ _ => arm_f3x buildMemory .pref (op := 0x7) (by decide) f x 0 fun _ _ _ => rfl⟩

/-- ldLocal. -/
theorem RoundTrip.ldLocal (f : F3) (x : XM) : RoundTrip.Statement (.ldLocal f x) :=
  ⟨rfl, fun _ _ _ => arm_f3x buildMemory .ldLocal (op := 0x8) (by decide) f x 0 fun _ _ _ => rfl⟩

/-- stLocal. -/
theorem RoundTrip.stLocal (f : F3) (x : XM) : RoundTrip.Statement (.stLocal f x) :=
  ⟨rfl, fun _ _ _ => arm_f3x buildMemory .stLocal (op := 0x9) (by decide) f x 0 fun _ _ _ => rfl⟩

/-- ldaLocal. -/
theorem RoundTrip.ldaLocal (f : F3) (x : XM) : RoundTrip.Statement (.ldaLocal f x) :=
  ⟨rfl, fun _ _ _ => arm_f3x buildMemory .ldaLocal (op := 0xa) (by decide) f x 0 fun _ _ _ => rfl⟩

/-- stlLocal. -/
theorem RoundTrip.stlLocal (f : F3) (x : XM) : RoundTrip.Statement (.stlLocal f x) :=
  ⟨rfl, fun _ _ _ => arm_f3x buildMemory .stlLocal (op := 0xb) (by decide) f x 0 fun _ _ _ => rfl⟩

/-- atomLocal. -/
theorem RoundTrip.atomLocal (f : F3) (x : XM) : RoundTrip.Statement (.atomLocal f x) :=
  ⟨rfl, fun _ _ _ => arm_f3x buildMemory .atomLocal (op := 0xc) (by decide) f x 0 fun _ _ _ => rfl⟩

/-- atomnLocal. -/
theorem RoundTrip.atomnLocal (f : F3) (x : XM) : RoundTrip.Statement (.atomnLocal f x) :=
  ⟨rfl, fun _ _ _ => arm_f3x buildMemory .atomnLocal (op := 0xd) (by decide) f x 0 fun _ _ _ => rfl⟩

/-- casLocal. -/
theorem RoundTrip.casLocal (f : F3) (x : XM) : RoundTrip.Statement (.casLocal f x) :=
  ⟨rfl, fun _ _ _ => arm_f3x buildMemory .casLocal (op := 0xe) (by decide) f x 0 fun _ _ _ => rfl⟩

/-- publish. -/
theorem RoundTrip.publish (f : F3) (x : XM) : RoundTrip.Statement (.publish f x) :=
  ⟨rfl, fun _ _ _ => arm_f3x buildMemory .publish (op := 0x10) (by decide) f x 0 fun _ _ _ => rfl⟩

/-- fence. -/
theorem RoundTrip.fence (f : F3) (x : XM) : RoundTrip.Statement (.fence f x) :=
  ⟨rfl, fun _ _ _ => arm_f3x buildMemory .fence (op := 0x11) (by decide) f x 0 fun _ _ _ => rfl⟩

/-- fencex. -/
theorem RoundTrip.fencex (f : F3) (x : XM) : RoundTrip.Statement (.fencex f x) :=
  ⟨rfl, fun _ _ _ => arm_f3x buildMemory .fencex (op := 0x12) (by decide) f x 0 fun _ _ _ => rfl⟩

/-- rdenter. -/
theorem RoundTrip.rdenter (f : F3) : RoundTrip.Statement (.rdenter f) :=
  ⟨rfl, fun _ _ _ => arm_f3 buildMemory .rdenter (op := 0x13) (by decide) f 0 0 fun _ _ _ => rfl⟩

/-- rdexit. -/
theorem RoundTrip.rdexit (f : F3) : RoundTrip.Statement (.rdexit f) :=
  ⟨rfl, fun _ _ _ => arm_f3 buildMemory .rdexit (op := 0x14) (by decide) f 0 0 fun _ _ _ => rfl⟩

/-- retire. -/
theorem RoundTrip.retire (f : F3) (x : XM) : RoundTrip.Statement (.retire f x) :=
  ⟨rfl, fun _ _ _ => arm_f3x buildMemory .retire (op := 0x15) (by decide) f x 0 fun _ _ _ => rfl⟩

/-- grace. -/
theorem RoundTrip.grace (f : F3) : RoundTrip.Statement (.grace f) :=
  ⟨rfl, fun _ _ _ => arm_f3 buildMemory .grace (op := 0x16) (by decide) f 0 0 fun _ _ _ => rfl⟩

/-- append. -/
theorem RoundTrip.append (f : F3) (x : XM) : RoundTrip.Statement (.append f x) :=
  ⟨rfl, fun _ _ _ => arm_f3x buildMemory .append (op := 0x17) (by decide) f x 0 fun _ _ _ => rfl⟩

/-- acommit. -/
theorem RoundTrip.acommit (f : F3) (x : XM) : RoundTrip.Statement (.acommit f x) :=
  ⟨rfl, fun _ _ _ => arm_f3x buildMemory .acommit (op := 0x18) (by decide) f x 0 fun _ _ _ => rfl⟩

/-- ahead. -/
theorem RoundTrip.ahead (f : F3) (x : XM) : RoundTrip.Statement (.ahead f x) :=
  ⟨rfl, fun _ _ _ => arm_f3x buildMemory .ahead (op := 0x19) (by decide) f x 0 fun _ _ _ => rfl⟩

/-- bara. -/
theorem RoundTrip.bara (f : F2I) : RoundTrip.Statement (.bara f) :=
  ⟨rfl, fun _ _ _ => arm_f2i buildMemory .bara (op := 0x1a) (by decide) f 0 0 fun _ _ _ => rfl⟩

/-- barw. -/
theorem RoundTrip.barw (f : F2I) : RoundTrip.Statement (.barw f) :=
  ⟨rfl, fun _ _ _ => arm_f2i buildMemory .barw (op := 0x1b) (by decide) f 0 0 fun _ _ _ => rfl⟩

/-- bar. -/
theorem RoundTrip.bar (f : F2I) : RoundTrip.Statement (.bar f) :=
  ⟨rfl, fun _ _ _ => arm_f2i buildMemory .bar (op := 0x1c) (by decide) f 0 0 fun _ _ _ => rfl⟩

/-- wqpush. -/
theorem RoundTrip.wqpush (f : F3) (x : XM) : RoundTrip.Statement (.wqpush f x) :=
  ⟨rfl, fun _ _ _ => arm_f3x buildMemory .wqpush (op := 0x1d) (by decide) f x 0 fun _ _ _ => rfl⟩

/-- wqpop. -/
theorem RoundTrip.wqpop (f : F3) (x : XM) : RoundTrip.Statement (.wqpop f x) :=
  ⟨rfl, fun _ _ _ => arm_f3x buildMemory .wqpop (op := 0x1e) (by decide) f x 0 fun _ _ _ => rfl⟩

/-- chopenTx. -/
theorem RoundTrip.chopenTx (f : F2I) : RoundTrip.Statement (.chopenTx f) := by
  refine ⟨rfl, fun seq w _ => ?_⟩
  have h : (f2iWord 0x20 f).getLsbD 10 = false := by
    have e := congrArg (fun g : F2I => g.imm.getLsbD 6) (f2iOf_f2iWord 0x20 f)
    simp only [f2iOf, BitVec.getLsbD_extractLsb'] at e
    have q : f.imm.getLsbD 6 = false := by
      have g := (Bool.and_eq_true _ _ ▸ w : _ ∧ fieldsOk seq _ = true).2
      have k : ∀ v : BitVec 7, v.toNat < 64 → v.getLsbD 6 = false := by decide
      exact k f.imm (of_decide_eq_true g)
    rw [q] at e
    simpa using e
  show buildMemory (opOf (f2iWord 0x20 f)) (f2iWord 0x20 f) 0 0 = _
  rw [opOf_f2iWord f (by decide)]
  simp only [buildMemory, h]
  simp [f2iOf_f2iWord]

/-- chopenRx. -/
theorem RoundTrip.chopenRx (f : F2I) : RoundTrip.Statement (.chopenRx f) := by
  refine ⟨rfl, fun seq w _ => ?_⟩
  have h : (f2iWord 0x20 f).getLsbD 10 = true := by
    have e := congrArg (fun g : F2I => g.imm.getLsbD 6) (f2iOf_f2iWord 0x20 f)
    simp only [f2iOf, BitVec.getLsbD_extractLsb'] at e
    have q : f.imm.getLsbD 6 = true := by
      have g := (Bool.and_eq_true _ _ ▸ w : _ ∧ fieldsOk seq _ = true).2
      have k : ∀ v : BitVec 7, 64 ≤ v.toNat → v.getLsbD 6 = true := by decide
      exact k f.imm (of_decide_eq_true g)
    rw [q] at e
    simpa using e
  show buildMemory (opOf (f2iWord 0x20 f)) (f2iWord 0x20 f) 0 0 = _
  rw [opOf_f2iWord f (by decide)]
  simp only [buildMemory, h]
  simp [f2iOf_f2iWord]

/-- chclose. -/
theorem RoundTrip.chclose (f : F2I) : RoundTrip.Statement (.chclose f) :=
  ⟨rfl, fun _ _ _ => arm_f2i buildMemory .chclose (op := 0x21) (by decide) f 0 0 fun _ _ _ => rfl⟩

/-- send. -/
theorem RoundTrip.send (f : F2I) : RoundTrip.Statement (.send f) :=
  ⟨rfl, fun _ _ _ => arm_f2i buildMemory .send (op := 0x22) (by decide) f 0 0 fun _ _ _ => rfl⟩

/-- recv. -/
theorem RoundTrip.recv (f : F2I) : RoundTrip.Statement (.recv f) :=
  ⟨rfl, fun _ _ _ => arm_f2i buildMemory .recv (op := 0x23) (by decide) f 0 0 fun _ _ _ => rfl⟩

/-- chfence. -/
theorem RoundTrip.chfence (f : F2I) : RoundTrip.Statement (.chfence f) :=
  ⟨rfl, fun _ _ _ => arm_f2i buildMemory .chfence (op := 0x24) (by decide) f 0 0 fun _ _ _ => rfl⟩

/-- cpld. -/
theorem RoundTrip.cpld (f : F3) (x : XM) : RoundTrip.Statement (.cpld f x) :=
  ⟨rfl, fun _ _ _ => arm_f3x buildCopy .cpld (op := 0x0) (by decide) f x 0 fun _ _ _ => rfl⟩

/-- cpst. -/
theorem RoundTrip.cpst (f : F3) (x : XM) : RoundTrip.Statement (.cpst f x) :=
  ⟨rfl, fun _ _ _ => arm_f3x buildCopy .cpst (op := 0x1) (by decide) f x 0 fun _ _ _ => rfl⟩

/-- cpgather. -/
theorem RoundTrip.cpgather (f : F3) (x : XM) : RoundTrip.Statement (.cpgather f x) :=
  ⟨rfl, fun _ _ _ => arm_f3x buildCopy .cpgather (op := 0x2) (by decide) f x 0 fun _ _ _ => rfl⟩

/-- cpscatter. -/
theorem RoundTrip.cpscatter (f : F3) (x : XM) : RoundTrip.Statement (.cpscatter f x) :=
  ⟨rfl, fun _ _ _ => arm_f3x buildCopy .cpscatter (op := 0x3) (by decide) f x 0 fun _ _ _ => rfl⟩

/-- cpfill. -/
theorem RoundTrip.cpfill (f : F3) (x : XM) : RoundTrip.Statement (.cpfill f x) :=
  ⟨rfl, fun _ _ _ => arm_f3x buildCopy .cpfill (op := 0x4) (by decide) f x 0 fun _ _ _ => rfl⟩

/-- cppagein. -/
theorem RoundTrip.cppagein (f : F3) (x : XM) : RoundTrip.Statement (.cppagein f x) :=
  ⟨rfl, fun _ _ _ => arm_f3x buildCopy .cppagein (op := 0x5) (by decide) f x 0 fun _ _ _ => rfl⟩

/-- cpstat. -/
theorem RoundTrip.cpstat (f : F3) (x : XM) : RoundTrip.Statement (.cpstat f x) :=
  ⟨rfl, fun _ _ _ => arm_f3x buildCopy .cpstat (op := 0x6) (by decide) f x 0 fun _ _ _ => rfl⟩

/-- cphand. -/
theorem RoundTrip.cphand (f : F3) (x : XM) : RoundTrip.Statement (.cphand f x) :=
  ⟨rfl, fun _ _ _ => arm_f3x buildCopy .cphand (op := 0x7) (by decide) f x 0 fun _ _ _ => rfl⟩

/-- cpcancel. -/
theorem RoundTrip.cpcancel (f : F3) (x : XM) : RoundTrip.Statement (.cpcancel f x) :=
  ⟨rfl, fun _ _ _ => arm_f3x buildCopy .cpcancel (op := 0x8) (by decide) f x 0 fun _ _ _ => rfl⟩

/-- mclaim. -/
theorem RoundTrip.mclaim (f : FQ) : RoundTrip.Statement (.mclaim f) :=
  ⟨rfl, fun _ _ _ => arm_fq buildMatrix .mclaim (op := 0x0) (by decide) f 0 0 fun _ _ _ => rfl⟩

/-- mrel. -/
theorem RoundTrip.mrel (f : FQ) : RoundTrip.Statement (.mrel f) :=
  ⟨rfl, fun _ _ _ => arm_fq buildMatrix .mrel (op := 0x1) (by decide) f 0 0 fun _ _ _ => rfl⟩

/-- mfill. -/
theorem RoundTrip.mfill (f : FQ) : RoundTrip.Statement (.mfill f) := by
  refine ⟨rfl, fun seq w _ => ?_⟩
  have h : (fqWord 0x2 f).getLsbD 6 = false := by
    have e := congrArg (fun g : FQ => g.mode.getLsbD 6) (fqOf_fqWord 0x2 f)
    simp only [fqOf, BitVec.getLsbD_extractLsb'] at e
    have q : f.mode.getLsbD 6 = false := by
      have g := (Bool.and_eq_true _ _ ▸ w : _ ∧ fieldsOk seq _ = true).2
      have k : ∀ v : BitVec 7, v = 0 → v.getLsbD 6 = false := by decide
      exact k f.mode (by simp only [fieldsOk, fq0, Bool.and_eq_true] at g; simpa using g.2)
    rw [q] at e
    simpa using e
  show buildMatrix (opOf (fqWord 0x2 f)) (fqWord 0x2 f) 0 0 = _
  rw [opOf_fqWord f (by decide)]
  simp only [buildMatrix, h]
  simp [fqOf_fqWord]

/-- mfillArg. -/
theorem RoundTrip.mfillArg (f : FQ) : RoundTrip.Statement (.mfillArg f) := by
  refine ⟨rfl, fun seq w _ => ?_⟩
  have h : (fqWord 0x2 f).getLsbD 6 = true := by
    have e := congrArg (fun g : FQ => g.mode.getLsbD 6) (fqOf_fqWord 0x2 f)
    simp only [fqOf, BitVec.getLsbD_extractLsb'] at e
    have q : f.mode.getLsbD 6 = true := by
      have g := (Bool.and_eq_true _ _ ▸ w : _ ∧ fieldsOk seq _ = true).2
      have k : ∀ v : BitVec 7, v.toNat = 0x40 → v.getLsbD 6 = true := by decide
      exact k f.mode (by simp only [fieldsOk, Bool.and_eq_true, decide_eq_true_eq] at g; exact g.1.2)
    rw [q] at e
    simpa using e
  show buildMatrix (opOf (fqWord 0x2 f)) (fqWord 0x2 f) 0 0 = _
  rw [opOf_fqWord f (by decide)]
  simp only [buildMatrix, h]
  simp [fqOf_fqWord]

/-- mzero. -/
theorem RoundTrip.mzero (f : FQ) : RoundTrip.Statement (.mzero f) :=
  ⟨rfl, fun _ _ _ => arm_fq buildMatrix .mzero (op := 0x3) (by decide) f 0 0 fun _ _ _ => rfl⟩

/-- mdrain. -/
theorem RoundTrip.mdrain (f : FQ) : RoundTrip.Statement (.mdrain f) :=
  ⟨rfl, fun _ _ _ => arm_fq buildMatrix .mdrain (op := 0x4) (by decide) f 0 0 fun _ _ _ => rfl⟩

/-- mwait. -/
theorem RoundTrip.mwait (f : FQ) : RoundTrip.Statement (.mwait f) :=
  ⟨rfl, fun _ _ _ => arm_fq buildMatrix .mwait (op := 0x5) (by decide) f 0 0 fun _ _ _ => rfl⟩

/-- mstat. -/
theorem RoundTrip.mstat (f : FQ) : RoundTrip.Statement (.mstat f) :=
  ⟨rfl, fun _ _ _ => arm_fq buildMatrix .mstat (op := 0x6) (by decide) f 0 0 fun _ _ _ => rfl⟩

/-- mscl. -/
theorem RoundTrip.mscl (f : FQ) : RoundTrip.Statement (.mscl f) :=
  ⟨rfl, fun _ _ _ => arm_fq buildMatrix .mscl (op := 0x7) (by decide) f 0 0 fun _ _ _ => rfl⟩

/-- mscacc. -/
theorem RoundTrip.mscacc (f : FQ) : RoundTrip.Statement (.mscacc f) :=
  ⟨rfl, fun _ _ _ => arm_fq buildMatrix .mscacc (op := 0x8) (by decide) f 0 0 fun _ _ _ => rfl⟩

/-- mhad. -/
theorem RoundTrip.mhad (f : FQ) : RoundTrip.Statement (.mhad f) :=
  ⟨rfl, fun _ _ _ => arm_fq buildMatrix .mhad (op := 0x9) (by decide) f 0 0 fun _ _ _ => rfl⟩

/-- mmb. -/
theorem RoundTrip.mmb (f : FQ) : RoundTrip.Statement (.mmb f) :=
  ⟨rfl, fun _ _ _ => arm_fq buildMatrix .mmb (op := 0xa) (by decide) f 0 0 fun _ _ _ => rfl⟩

/-- mmaBf16. -/
theorem RoundTrip.mmaBf16 (f : FQ) : RoundTrip.Statement (.mmaBf16 f) :=
  ⟨rfl, fun _ _ _ => arm_fq buildMatrix .mmaBf16 (op := 0x10) (by decide) f 0 0 fun _ _ _ => rfl⟩

/-- mmaF16. -/
theorem RoundTrip.mmaF16 (f : FQ) : RoundTrip.Statement (.mmaF16 f) :=
  ⟨rfl, fun _ _ _ => arm_fq buildMatrix .mmaF16 (op := 0x11) (by decide) f 0 0 fun _ _ _ => rfl⟩

/-- mmaI8. -/
theorem RoundTrip.mmaI8 (f : FQ) : RoundTrip.Statement (.mmaI8 f) :=
  ⟨rfl, fun _ _ _ => arm_fq buildMatrix .mmaI8 (op := 0x12) (by decide) f 0 0 fun _ _ _ => rfl⟩

/-- mmaP8. -/
theorem RoundTrip.mmaP8 (f : FQ) : RoundTrip.Statement (.mmaP8 f) :=
  ⟨rfl, fun _ _ _ => arm_fq buildMatrix .mmaP8 (op := 0x13) (by decide) f 0 0 fun _ _ _ => rfl⟩

/-- mmaE2m1. -/
theorem RoundTrip.mmaE2m1 (f : FQ) : RoundTrip.Statement (.mmaE2m1 f) :=
  ⟨rfl, fun _ _ _ => arm_fq buildMatrix .mmaE2m1 (op := 0x14) (by decide) f 0 0 fun _ _ _ => rfl⟩

/-- mmaMxp8. -/
theorem RoundTrip.mmaMxp8 (f : FQ) : RoundTrip.Statement (.mmaMxp8 f) :=
  ⟨rfl, fun _ _ _ => arm_fq buildMatrix .mmaMxp8 (op := 0x15) (by decide) f 0 0 fun _ _ _ => rfl⟩

/-- mmaMxe2m1. -/
theorem RoundTrip.mmaMxe2m1 (f : FQ) : RoundTrip.Statement (.mmaMxe2m1 f) :=
  ⟨rfl, fun _ _ _ => arm_fq buildMatrix .mmaMxe2m1 (op := 0x16) (by decide) f 0 0 fun _ _ _ => rfl⟩

/-- csrrd. -/
theorem RoundTrip.csrrd (f : F3) (x : XM) : RoundTrip.Statement (.csrrd f x) :=
  ⟨rfl, fun _ _ _ => arm_f3x buildSystem .csrrd (op := 0x0) (by decide) f x 0 fun _ _ _ => rfl⟩

/-- csrwr. -/
theorem RoundTrip.csrwr (f : F3) (x : XM) : RoundTrip.Statement (.csrwr f x) :=
  ⟨rfl, fun _ _ _ => arm_f3x buildSystem .csrwr (op := 0x1) (by decide) f x 0 fun _ _ _ => rfl⟩

/-- treturn. -/
theorem RoundTrip.treturn (f : F3) : RoundTrip.Statement (.treturn f) :=
  ⟨rfl, fun _ _ _ => arm_f3 buildSystem .treturn (op := 0x2) (by decide) f 0 0 fun _ _ _ => rfl⟩

/-- cycle. -/
theorem RoundTrip.cycle (f : F3) : RoundTrip.Statement (.cycle f) :=
  ⟨rfl, fun _ _ _ => arm_f3 buildSystem .cycle (op := 0x3) (by decide) f 0 0 fun _ _ _ => rfl⟩

/-- genq. -/
theorem RoundTrip.genq (f : F3) : RoundTrip.Statement (.genq f) :=
  ⟨rfl, fun _ _ _ => arm_f3 buildSystem .genq (op := 0x4) (by decide) f 0 0 fun _ _ _ => rfl⟩

/-- dbgbrk. -/
theorem RoundTrip.dbgbrk (f : F2I) : RoundTrip.Statement (.dbgbrk f) :=
  ⟨rfl, fun _ _ _ => arm_f2i buildSystem .dbgbrk (op := 0x5) (by decide) f 0 0 fun _ _ _ => rfl⟩

/-- ckpt. -/
theorem RoundTrip.ckpt (f : F3) : RoundTrip.Statement (.ckpt f) :=
  ⟨rfl, fun _ _ _ => arm_f3 buildSystem .ckpt (op := 0x6) (by decide) f 0 0 fun _ _ _ => rfl⟩

/-- rollbk. -/
theorem RoundTrip.rollbk (f : F3) : RoundTrip.Statement (.rollbk f) :=
  ⟨rfl, fun _ _ _ => arm_f3 buildSystem .rollbk (op := 0x7) (by decide) f 0 0 fun _ _ _ => rfl⟩

/-- sigrd. -/
theorem RoundTrip.sigrd (f : F3) : RoundTrip.Statement (.sigrd f) :=
  ⟨rfl, fun _ _ _ => arm_f3 buildSystem .sigrd (op := 0x8) (by decide) f 0 0 fun _ _ _ => rfl⟩

/-- suspq. -/
theorem RoundTrip.suspq (f : F3) : RoundTrip.Statement (.suspq f) :=
  ⟨rfl, fun _ _ _ => arm_f3 buildSystem .suspq (op := 0x9) (by decide) f 0 0 fun _ _ _ => rfl⟩

/-- spstat. -/
theorem RoundTrip.spstat (f : F3) : RoundTrip.Statement (.spstat f) :=
  ⟨rfl, fun _ _ _ => arm_f3 buildSystem .spstat (op := 0xa) (by decide) f 0 0 fun _ _ _ => rfl⟩

/-- regacq. -/
theorem RoundTrip.regacq (f : FS) : RoundTrip.Statement (.regacq f) :=
  ⟨rfl, fun _ _ _ => arm_fs buildSystem .regacq (op := 0x10) (by decide) f 0 0 fun _ _ _ => rfl⟩

/-- regrel. -/
theorem RoundTrip.regrel (f : FS) : RoundTrip.Statement (.regrel f) :=
  ⟨rfl, fun _ _ _ => arm_fs buildSystem .regrel (op := 0x11) (by decide) f 0 0 fun _ _ _ => rfl⟩

/-- spbegin. -/
theorem RoundTrip.spbegin (f : FS) : RoundTrip.Statement (.spbegin f) :=
  ⟨rfl, fun _ _ _ => arm_fs buildSystem .spbegin (op := 0x12) (by decide) f 0 0 fun _ _ _ => rfl⟩

/-- spguess. -/
theorem RoundTrip.spguess (f : FS) : RoundTrip.Statement (.spguess f) :=
  ⟨rfl, fun _ _ _ => arm_fs buildSystem .spguess (op := 0x13) (by decide) f 0 0 fun _ _ _ => rfl⟩

/-- spcmp. -/
theorem RoundTrip.spcmp (f : FS) : RoundTrip.Statement (.spcmp f) :=
  ⟨rfl, fun _ _ _ => arm_fs buildSystem .spcmp (op := 0x14) (by decide) f 0 0 fun _ _ _ => rfl⟩

/-- spend. -/
theorem RoundTrip.spend (f : FS) : RoundTrip.Statement (.spend f) :=
  ⟨rfl, fun _ _ _ => arm_fs buildSystem .spend (op := 0x15) (by decide) f 0 0 fun _ _ _ => rfl⟩

/-- powerOn. -/
theorem RoundTrip.powerOn (idOk : Bool) (bistOk : Bool) (bad : List (Nat × Nat × Nat)) : RoundTrip.Statement (.powerOn idOk bistOk bad) := ⟨rfl, fun _ _ h => absurd rfl h⟩

/-- registerWrite. -/
theorem RoundTrip.registerWrite (r : Reg) (v : BitVec 64) : RoundTrip.Statement (.registerWrite r v) := ⟨rfl, fun _ _ h => absurd rfl h⟩

/-- strikeReport. -/
theorem RoundTrip.strikeReport (die : Nat) (pos : Nat × Nat) (residue : Bool) :
    RoundTrip.Statement (.strikeReport die pos residue) := ⟨rfl, fun _ _ h => absurd rfl h⟩

/-- replayRestore. -/
theorem RoundTrip.replayRestore (launch : Nat) : RoundTrip.Statement (.replayRestore launch) := ⟨rfl, fun _ _ h => absurd rfl h⟩

/-- rollbackSheadRestore. -/
theorem RoundTrip.rollbackSheadRestore (wg : Nat) : RoundTrip.Statement (.rollbackSheadRestore wg) := ⟨rfl, fun _ _ h => absurd rfl h⟩

/-- agedEntryToHead. -/
theorem RoundTrip.agedEntryToHead (core : Nat) (slot : Nat) (entry : Nat) : RoundTrip.Statement (.agedEntryToHead core slot entry) := ⟨rfl, fun _ _ h => absurd rfl h⟩

/-- overflowRejoin. -/
theorem RoundTrip.overflowRejoin (core : Nat) (slot : Nat) : RoundTrip.Statement (.overflowRejoin core slot) := ⟨rfl, fun _ _ h => absurd rfl h⟩

/-- faultRejoin. -/
theorem RoundTrip.faultRejoin (core : Nat) (slot : Nat) : RoundTrip.Statement (.faultRejoin core slot) := ⟨rfl, fun _ _ h => absurd rfl h⟩

/-- workgroupAdmission. -/
theorem RoundTrip.workgroupAdmission (launch : Nat) (cores : List Nat) : RoundTrip.Statement (.workgroupAdmission launch cores) := ⟨rfl, fun _ _ h => absurd rfl h⟩

/-- regacqGrant. -/
theorem RoundTrip.regacqGrant (core : Nat) (quad : Nat) : RoundTrip.Statement (.regacqGrant core quad) := ⟨rfl, fun _ _ h => absurd rfl h⟩

/-- poolRootPush. -/
theorem RoundTrip.poolRootPush (launch : Nat) : RoundTrip.Statement (.poolRootPush launch) := ⟨rfl, fun _ _ h => absurd rfl h⟩

/-- poolWarpForm. -/
theorem RoundTrip.poolWarpForm (core : Nat) (bin : Nat) : RoundTrip.Statement (.poolWarpForm core bin) := ⟨rfl, fun _ _ h => absurd rfl h⟩

/-- sequencerProgramStart. -/
theorem RoundTrip.sequencerProgramStart (cluster : Nat) : RoundTrip.Statement (.sequencerProgramStart cluster) := ⟨rfl, fun _ _ h => absurd rfl h⟩

/-- translationWalkDone. -/
theorem RoundTrip.translationWalkDone (core : Nat) (walk : Nat) : RoundTrip.Statement (.translationWalkDone core walk) := ⟨rfl, fun _ _ h => absurd rfl h⟩

/-- remoteWindowAccess. -/
theorem RoundTrip.remoteWindowAccess (req : Nat) : RoundTrip.Statement (.remoteWindowAccess req) := ⟨rfl, fun _ _ h => absurd rfl h⟩

/-- homeSliceServe. -/
theorem RoundTrip.homeSliceServe (req : Nat) : RoundTrip.Statement (.homeSliceServe req) := ⟨rfl, fun _ _ h => absurd rfl h⟩

/-- brineEntryLeave. -/
theorem RoundTrip.brineEntryLeave (wg : Nat) (q : BrineQ) : RoundTrip.Statement (.brineEntryLeave wg q) := ⟨rfl, fun _ _ h => absurd rfl h⟩

/-- writeAck. -/
theorem RoundTrip.writeAck (msg : Nat) : RoundTrip.Statement (.writeAck msg) := ⟨rfl, fun _ _ h => absurd rfl h⟩

/-- loadResponse. -/
theorem RoundTrip.loadResponse (msg : Nat) : RoundTrip.Statement (.loadResponse msg) := ⟨rfl, fun _ _ h => absurd rfl h⟩

/-- errorCompletion. -/
theorem RoundTrip.errorCompletion (msg : Nat) : RoundTrip.Statement (.errorCompletion msg) := ⟨rfl, fun _ _ h => absurd rfl h⟩

/-- requestTimeoutExpiry. -/
theorem RoundTrip.requestTimeoutExpiry (req : Nat) : RoundTrip.Statement (.requestTimeoutExpiry req) := ⟨rfl, fun _ _ h => absurd rfl h⟩

/-- inboundAccess. -/
theorem RoundTrip.inboundAccess (a : InboundAccess) : RoundTrip.Statement (.inboundAccess a) := ⟨rfl, fun _ _ h => absurd rfl h⟩

/-- inboundPeerAccess. -/
theorem RoundTrip.inboundPeerAccess (dev : Nat) (exp : Nat) (key : BitVec 16) (initiator : Nat) (a : InboundAccess) : RoundTrip.Statement (.inboundPeerAccess dev exp key initiator a) := ⟨rfl, fun _ _ h => absurd rfl h⟩

/-- channelDelivery. -/
theorem RoundTrip.channelDelivery (req : Nat) : RoundTrip.Statement (.channelDelivery req) := ⟨rfl, fun _ _ h => absurd rfl h⟩

/-- copyCommandComplete. -/
theorem RoundTrip.copyCommandComplete (core : Nat) (cmd : Nat) : RoundTrip.Statement (.copyCommandComplete core cmd) := ⟨rfl, fun _ _ h => absurd rfl h⟩

/-- pageInComplete. -/
theorem RoundTrip.pageInComplete (dev : Nat) (page : Nat) : RoundTrip.Statement (.pageInComplete dev page) := ⟨rfl, fun _ _ h => absurd rfl h⟩

/-- copyAsideComplete. -/
theorem RoundTrip.copyAsideComplete (dev : Nat) (page : Nat) : RoundTrip.Statement (.copyAsideComplete dev page) := ⟨rfl, fun _ _ h => absurd rfl h⟩

/-- arrayOpStart. -/
theorem RoundTrip.arrayOpStart (cluster : Nat) : RoundTrip.Statement (.arrayOpStart cluster) := ⟨rfl, fun _ _ h => absurd rfl h⟩

/-- gracePeriodStart. -/
theorem RoundTrip.gracePeriodStart (dev : Nat) : RoundTrip.Statement (.gracePeriodStart dev) := ⟨rfl, fun _ _ h => absurd rfl h⟩

/-- flipAdopt. -/
theorem RoundTrip.flipAdopt (core : Nat) : RoundTrip.Statement (.flipAdopt core) := ⟨rfl, fun _ _ h => absurd rfl h⟩

/-- flipAck. -/
theorem RoundTrip.flipAck (node : VNode) (child : Nat) : RoundTrip.Statement (.flipAck node child) := ⟨rfl, fun _ _ h => absurd rfl h⟩

/-- drainPoll. -/
theorem RoundTrip.drainPoll (node : VNode) : RoundTrip.Statement (.drainPoll node) := ⟨rfl, fun _ _ h => absurd rfl h⟩

/-- gracePeriodComplete. -/
theorem RoundTrip.gracePeriodComplete (dev : Nat) : RoundTrip.Statement (.gracePeriodComplete dev) := ⟨rfl, fun _ _ h => absurd rfl h⟩

/-- retireEntryAppend. -/
theorem RoundTrip.retireEntryAppend (req : Nat) : RoundTrip.Statement (.retireEntryAppend req) := ⟨rfl, fun _ _ h => absurd rfl h⟩

/-- retireAction. -/
theorem RoundTrip.retireAction (dev : Nat) : RoundTrip.Statement (.retireAction dev) := ⟨rfl, fun _ _ h => absurd rfl h⟩

/-- tagSweep. -/
theorem RoundTrip.tagSweep (core : Nat) : RoundTrip.Statement (.tagSweep core) := ⟨rfl, fun _ _ h => absurd rfl h⟩

/-- generationRenewal. -/
theorem RoundTrip.generationRenewal (core : Nat) (a : AllocId) : RoundTrip.Statement (.generationRenewal core a) := ⟨rfl, fun _ _ h => absurd rfl h⟩

/-- debugHalt. -/
theorem RoundTrip.debugHalt (core : Nat) (slot : Nat) : RoundTrip.Statement (.debugHalt core slot) := ⟨rfl, fun _ _ h => absurd rfl h⟩

/-- debugResume. -/
theorem RoundTrip.debugResume (core : Nat) (slot : Nat) : RoundTrip.Statement (.debugResume core slot) := ⟨rfl, fun _ _ h => absurd rfl h⟩

/-- debugRelease. -/
theorem RoundTrip.debugRelease (core : Nat) (slot : Nat) : RoundTrip.Statement (.debugRelease core slot) := ⟨rfl, fun _ _ h => absurd rfl h⟩

/-- debugRead. -/
theorem RoundTrip.debugRead (core : Nat) (u : DbgUnit) (dst : Nat) : RoundTrip.Statement (.debugRead core u dst) := ⟨rfl, fun _ _ h => absurd rfl h⟩

/-- debugWrite. -/
theorem RoundTrip.debugWrite (core : Nat) (u : DbgUnit) (data : List (Nat × BitVec 32)) (tag : Option (BitVec 16)) : RoundTrip.Statement (.debugWrite core u data tag) := ⟨rfl, fun _ _ h => absurd rfl h⟩

/-- checkpointTake. -/
theorem RoundTrip.checkpointTake (wg : Nat) : RoundTrip.Statement (.checkpointTake wg) := ⟨rfl, fun _ _ h => absurd rfl h⟩

/-- checkpointTaken. -/
theorem RoundTrip.checkpointTaken (wg : Nat) : RoundTrip.Statement (.checkpointTaken wg) := ⟨rfl, fun _ _ h => absurd rfl h⟩

/-- checkpointDeltaAck. -/
theorem RoundTrip.checkpointDeltaAck (wg : Nat) : RoundTrip.Statement (.checkpointDeltaAck wg) := ⟨rfl, fun _ _ h => absurd rfl h⟩

/-- checkpointCommit. -/
theorem RoundTrip.checkpointCommit (wg : Nat) : RoundTrip.Statement (.checkpointCommit wg) := ⟨rfl, fun _ _ h => absurd rfl h⟩

/-- checkpointIntervalExpiry. -/
theorem RoundTrip.checkpointIntervalExpiry (wg : Nat) : RoundTrip.Statement (.checkpointIntervalExpiry wg) := ⟨rfl, fun _ _ h => absurd rfl h⟩

/-- externalOpIssue. -/
theorem RoundTrip.externalOpIssue (wg : Nat) : RoundTrip.Statement (.externalOpIssue wg) := ⟨rfl, fun _ _ h => absurd rfl h⟩

/-- twinVote. -/
theorem RoundTrip.twinVote (wg : Nat) : RoundTrip.Statement (.twinVote wg) := ⟨rfl, fun _ _ h => absurd rfl h⟩

/-- thirdCopyStart. -/
theorem RoundTrip.thirdCopyStart (wg : Nat) (core : Nat) : RoundTrip.Statement (.thirdCopyStart wg core) := ⟨rfl, fun _ _ h => absurd rfl h⟩

/-- preempt. -/
theorem RoundTrip.preempt (wg : Nat) : RoundTrip.Statement (.preempt wg) := ⟨rfl, fun _ _ h => absurd rfl h⟩

/-- contextSave. -/
theorem RoundTrip.contextSave (wg : Nat) : RoundTrip.Statement (.contextSave wg) := ⟨rfl, fun _ _ h => absurd rfl h⟩

/-- contextRestore. -/
theorem RoundTrip.contextRestore (wg : Nat) (core : Nat) : RoundTrip.Statement (.contextRestore wg core) := ⟨rfl, fun _ _ h => absurd rfl h⟩

/-- launchComplete. -/
theorem RoundTrip.launchComplete (launch : Nat) : RoundTrip.Statement (.launchComplete launch) := ⟨rfl, fun _ _ h => absurd rfl h⟩

/-- sleepExpiry. -/
theorem RoundTrip.sleepExpiry (core : Nat) (slot : Nat) : RoundTrip.Statement (.sleepExpiry core slot) := ⟨rfl, fun _ _ h => absurd rfl h⟩

/-- meshArbitration. -/
theorem RoundTrip.meshArbitration (die : Nat) (x : Nat) (y : Nat) (out : Nat) : RoundTrip.Statement (.meshArbitration die x y out) := ⟨rfl, fun _ _ h => absurd rfl h⟩

/-- packetUrgent. -/
theorem RoundTrip.packetUrgent (die : Nat) (x : Nat) (y : Nat) (input : Nat) (vc : Nat) : RoundTrip.Statement (.packetUrgent die x y input vc) := ⟨rfl, fun _ _ h => absurd rfl h⟩

/-- pmodeModeWrite. -/
theorem RoundTrip.pmodeModeWrite (mode : BitVec 2) : RoundTrip.Statement (.pmodeModeWrite mode) := ⟨rfl, fun _ _ h => absurd rfl h⟩

/-- modeChangeDone. -/
theorem RoundTrip.modeChangeDone : RoundTrip.Statement (.modeChangeDone ) := ⟨rfl, fun _ _ h => absurd rfl h⟩

/-- pmodeRefusedClear. -/
theorem RoundTrip.pmodeRefusedClear : RoundTrip.Statement (.pmodeRefusedClear ) := ⟨rfl, fun _ _ h => absurd rfl h⟩

/-- clkptWrite. -/
theorem RoundTrip.clkptWrite (dev : Nat) (v : BitVec 3) : RoundTrip.Statement (.clkptWrite dev v) := ⟨rfl, fun _ _ h => absurd rfl h⟩

/-- clockStretchDone. -/
theorem RoundTrip.clockStretchDone (dev : Nat) : RoundTrip.Statement (.clockStretchDone dev) := ⟨rfl, fun _ _ h => absurd rfl h⟩

/-- hcshareWrite. -/
theorem RoundTrip.hcshareWrite (dev : Nat) (v : BitVec 2) : RoundTrip.Statement (.hcshareWrite dev v) := ⟨rfl, fun _ _ h => absurd rfl h⟩

/-- cxlPortEnable. -/
theorem RoundTrip.cxlPortEnable (port : Nat) : RoundTrip.Statement (.cxlPortEnable port) := ⟨rfl, fun _ _ h => absurd rfl h⟩

/-- cxlPortDisable. -/
theorem RoundTrip.cxlPortDisable (port : Nat) : RoundTrip.Statement (.cxlPortDisable port) := ⟨rfl, fun _ _ h => absurd rfl h⟩

/-- cxlTrainingDone. -/
theorem RoundTrip.cxlTrainingDone (port : Nat) (type3 : Bool) (cap : Nat) : RoundTrip.Statement (.cxlTrainingDone port type3 cap) := ⟨rfl, fun _ _ h => absurd rfl h⟩

/-- expWrite. -/
theorem RoundTrip.expWrite (dev : Nat) (exp : Nat) (v : BitVec 128) : RoundTrip.Statement (.expWrite dev exp v) := ⟨rfl, fun _ _ h => absurd rfl h⟩

/-- pwinWrite. -/
theorem RoundTrip.pwinWrite (dev : Nat) (win : Nat) (v : BitVec 128) : RoundTrip.Statement (.pwinWrite dev win v) := ⟨rfl, fun _ _ h => absurd rfl h⟩

/-- queueEnable. -/
theorem RoundTrip.queueEnable (dev : Nat) (q : Nat) : RoundTrip.Statement (.queueEnable dev q) := ⟨rfl, fun _ _ h => absurd rfl h⟩

/-- queueDisable. -/
theorem RoundTrip.queueDisable (dev : Nat) (q : Nat) : RoundTrip.Statement (.queueDisable dev q) := ⟨rfl, fun _ _ h => absurd rfl h⟩

/-- queueKick. -/
theorem RoundTrip.queueKick (dev : Nat) (q : Nat) (v : BitVec 64) : RoundTrip.Statement (.queueKick dev q v) := ⟨rfl, fun _ _ h => absurd rfl h⟩

/-- packetFetch. -/
theorem RoundTrip.packetFetch (dev : Nat) (q : Nat) : RoundTrip.Statement (.packetFetch dev q) := ⟨rfl, fun _ _ h => absurd rfl h⟩

/-- launchPacket. -/
theorem RoundTrip.launchPacket (dev : Nat) (q : Nat) : RoundTrip.Statement (.launchPacket dev q) := ⟨rfl, fun _ _ h => absurd rfl h⟩

/-- waitPacket. -/
theorem RoundTrip.waitPacket (dev : Nat) (q : Nat) : RoundTrip.Statement (.waitPacket dev q) := ⟨rfl, fun _ _ h => absurd rfl h⟩

/-- waitConditionMet. -/
theorem RoundTrip.waitConditionMet (dev : Nat) (q : Nat) : RoundTrip.Statement (.waitConditionMet dev q) := ⟨rfl, fun _ _ h => absurd rfl h⟩

/-- signalPacket. -/
theorem RoundTrip.signalPacket (dev : Nat) (q : Nat) : RoundTrip.Statement (.signalPacket dev q) := ⟨rfl, fun _ _ h => absurd rfl h⟩

/-- writeThenSignalPacket. -/
theorem RoundTrip.writeThenSignalPacket (dev : Nat) (q : Nat) : RoundTrip.Statement (.writeThenSignalPacket dev q) := ⟨rfl, fun _ _ h => absurd rfl h⟩

/-- copyPacket. -/
theorem RoundTrip.copyPacket (dev : Nat) (q : Nat) : RoundTrip.Statement (.copyPacket dev q) := ⟨rfl, fun _ _ h => absurd rfl h⟩

/-- handoverPacket. -/
theorem RoundTrip.handoverPacket (dev : Nat) (q : Nat) : RoundTrip.Statement (.handoverPacket dev q) := ⟨rfl, fun _ _ h => absurd rfl h⟩

/-- fencePacket. -/
theorem RoundTrip.fencePacket (dev : Nat) (q : Nat) : RoundTrip.Statement (.fencePacket dev q) := ⟨rfl, fun _ _ h => absurd rfl h⟩

/-- dawnPacket. -/
theorem RoundTrip.dawnPacket (dev : Nat) (q : Nat) : RoundTrip.Statement (.dawnPacket dev q) := ⟨rfl, fun _ _ h => absurd rfl h⟩

/-- dawnRequest. -/
theorem RoundTrip.dawnRequest (dev : Nat) (addr : BitVec 64) : RoundTrip.Statement (.dawnRequest dev addr) := ⟨rfl, fun _ _ h => absurd rfl h⟩

/-- launchAbort. -/
theorem RoundTrip.launchAbort (dev : Nat) (id : BitVec 32) : RoundTrip.Statement (.launchAbort dev id) := ⟨rfl, fun _ _ h => absurd rfl h⟩

/-- sliceExpiry. -/
theorem RoundTrip.sliceExpiry (dev : Nat) (q : Nat) : RoundTrip.Statement (.sliceExpiry dev q) := ⟨rfl, fun _ _ h => absurd rfl h⟩

/-- stealRequest. -/
theorem RoundTrip.stealRequest (thief : Nat) (dev : Nat) (q : Nat) : RoundTrip.Statement (.stealRequest thief dev q) := ⟨rfl, fun _ _ h => absurd rfl h⟩

/-- queueOwnershipPass. -/
theorem RoundTrip.queueOwnershipPass (dev : Nat) (q : Nat) : RoundTrip.Statement (.queueOwnershipPass dev q) := ⟨rfl, fun _ _ h => absurd rfl h⟩

/-- queueReturnHome. -/
theorem RoundTrip.queueReturnHome (dev : Nat) (q : Nat) : RoundTrip.Statement (.queueReturnHome dev q) := ⟨rfl, fun _ _ h => absurd rfl h⟩

/-- mailboxMessage. -/
theorem RoundTrip.mailboxMessage (die : Nat) (msg : BitVec 128) : RoundTrip.Statement (.mailboxMessage die msg) := ⟨rfl, fun _ _ h => absurd rfl h⟩

/-- invalPage. -/
theorem RoundTrip.invalPage (dev : Nat) (va : BitVec 64) (space : BitVec 16) (size : BitVec 2) : RoundTrip.Statement (.invalPage dev va space size) := ⟨rfl, fun _ _ h => absurd rfl h⟩

/-- invalSpace. -/
theorem RoundTrip.invalSpace (dev : Nat) (space : BitVec 16) : RoundTrip.Statement (.invalSpace dev space) := ⟨rfl, fun _ _ h => absurd rfl h⟩

/-- invalAll. -/
theorem RoundTrip.invalAll (dev : Nat) : RoundTrip.Statement (.invalAll dev) := ⟨rfl, fun _ _ h => absurd rfl h⟩

/-- invalComplete. -/
theorem RoundTrip.invalComplete (dev : Nat) : RoundTrip.Statement (.invalComplete dev) := ⟨rfl, fun _ _ h => absurd rfl h⟩

/-- resolveResolved. -/
theorem RoundTrip.resolveResolved (dev : Nat) (va : BitVec 64) (space : BitVec 16) : RoundTrip.Statement (.resolveResolved dev va space) := ⟨rfl, fun _ _ h => absurd rfl h⟩

/-- resolveUnresolvable. -/
theorem RoundTrip.resolveUnresolvable (dev : Nat) (va : BitVec 64) (space : BitVec 16) : RoundTrip.Statement (.resolveUnresolvable dev va space) := ⟨rfl, fun _ _ h => absurd rfl h⟩

/-- faultQueueConsume. -/
theorem RoundTrip.faultQueueConsume (dev : Nat) (v : BitVec 64) : RoundTrip.Statement (.faultQueueConsume dev v) := ⟨rfl, fun _ _ h => absurd rfl h⟩

/-- faultQueueEnable. -/
theorem RoundTrip.faultQueueEnable (dev : Nat) : RoundTrip.Statement (.faultQueueEnable dev) := ⟨rfl, fun _ _ h => absurd rfl h⟩

/-- poolReturnPush. -/
theorem RoundTrip.poolReturnPush (dev : Nat) : RoundTrip.Statement (.poolReturnPush dev) := ⟨rfl, fun _ _ h => absurd rfl h⟩

/-- repairApply. -/
theorem RoundTrip.repairApply : RoundTrip.Statement (.repairApply ) := ⟨rfl, fun _ _ h => absurd rfl h⟩

/-- repairApplyDone. -/
theorem RoundTrip.repairApplyDone : RoundTrip.Statement (.repairApplyDone ) := ⟨rfl, fun _ _ h => absurd rfl h⟩

/-- rasRefusedClear. -/
theorem RoundTrip.rasRefusedClear : RoundTrip.Statement (.rasRefusedClear ) := ⟨rfl, fun _ _ h => absurd rfl h⟩

/-- imageLoad. -/
theorem RoundTrip.imageLoad (addr : BitVec 64) (readable : Bool) : RoundTrip.Statement (.imageLoad addr readable) := ⟨rfl, fun _ _ h => absurd rfl h⟩

/-- attestationRequest. -/
theorem RoundTrip.attestationRequest (addr : BitVec 64) : RoundTrip.Statement (.attestationRequest addr) := ⟨rfl, fun _ _ h => absurd rfl h⟩

/-- quoteWrite. -/
theorem RoundTrip.quoteWrite : RoundTrip.Statement (.quoteWrite ) := ⟨rfl, fun _ _ h => absurd rfl h⟩

/-- attdropClear. -/
theorem RoundTrip.attdropClear : RoundTrip.Statement (.attdropClear ) := ⟨rfl, fun _ _ h => absurd rfl h⟩

/-- pendretSet. -/
theorem RoundTrip.pendretSet (die : Nat) (core : Nat) : RoundTrip.Statement (.pendretSet die core) := ⟨rfl, fun _ _ h => absurd rfl h⟩

/-- monitorSample. -/
theorem RoundTrip.monitorSample (die : Nat) (mon : Nat) (v : Nat) : RoundTrip.Statement (.monitorSample die mon v) := ⟨rfl, fun _ _ h => absurd rfl h⟩

/-- monitorClear. -/
theorem RoundTrip.monitorClear (die : Nat) (mon : Nat) : RoundTrip.Statement (.monitorClear die mon) := ⟨rfl, fun _ _ h => absurd rfl h⟩

/-- monitorConfigure. -/
theorem RoundTrip.monitorConfigure (die : Nat) (mon : Nat) (qty : BitVec 4) (src : BitVec 10) : RoundTrip.Statement (.monitorConfigure die mon qty src) := ⟨rfl, fun _ _ h => absurd rfl h⟩

/-- podReplay. -/
theorem RoundTrip.podReplay (dev : Nat) (id : BitVec 32) : RoundTrip.Statement (.podReplay dev id) := ⟨rfl, fun _ _ h => absurd rfl h⟩

/-- podmemWrite. -/
theorem RoundTrip.podmemWrite (dev : Nat) (v : BitVec 1024) : RoundTrip.Statement (.podmemWrite dev v) := ⟨rfl, fun _ _ h => absurd rfl h⟩

/-- peerLinkEnable. -/
theorem RoundTrip.peerLinkEnable (link : Nat) : RoundTrip.Statement (.peerLinkEnable link) := ⟨rfl, fun _ _ h => absurd rfl h⟩

/-- peerLinkTrained. -/
theorem RoundTrip.peerLinkTrained (link : Nat) (peer : Nat) : RoundTrip.Statement (.peerLinkTrained link peer) := ⟨rfl, fun _ _ h => absurd rfl h⟩

/-- heartbeatSend. -/
theorem RoundTrip.heartbeatSend (die : Nat) : RoundTrip.Statement (.heartbeatSend die) := ⟨rfl, fun _ _ h => absurd rfl h⟩

/-- heartbeatTimeout. -/
theorem RoundTrip.heartbeatTimeout (link : Nat) : RoundTrip.Statement (.heartbeatTimeout link) := ⟨rfl, fun _ _ h => absurd rfl h⟩

/-- powerControlTick. -/
theorem RoundTrip.powerControlTick (pwr : BitVec 16) (temps : List Nat) : RoundTrip.Statement (.powerControlTick pwr temps) := ⟨rfl, fun _ _ h => absurd rfl h⟩

/-- thermalStop. -/
theorem RoundTrip.thermalStop (die : Nat) (temp : Nat) : RoundTrip.Statement (.thermalStop die temp) := ⟨rfl, fun _ _ h => absurd rfl h⟩

/-- thermalRestart. -/
theorem RoundTrip.thermalRestart (die : Nat) (temp : Nat) : RoundTrip.Statement (.thermalRestart die temp) := ⟨rfl, fun _ _ h => absurd rfl h⟩

/-- matrixOperationComplete. -/
theorem RoundTrip.matrixOperationComplete (cluster : Nat) : RoundTrip.Statement (.matrixOperationComplete cluster) := ⟨rfl, fun _ _ h => absurd rfl h⟩

/-- heartbeatReceive. -/
theorem RoundTrip.heartbeatReceive (link : Nat) : RoundTrip.Statement (.heartbeatReceive link) := ⟨rfl, fun _ _ h => absurd rfl h⟩

/-- peerLinkDisable. -/
theorem RoundTrip.peerLinkDisable (link : Nat) : RoundTrip.Statement (.peerLinkDisable link) := ⟨rfl, fun _ _ h => absurd rfl h⟩

/-- peerTrafficRelay. -/
theorem RoundTrip.peerTrafficRelay (dev : Nat) (link : Nat) (dest : Nat) (data : List (BitVec 8)) : RoundTrip.Statement (.peerTrafficRelay dev link dest data) := ⟨rfl, fun _ _ h => absurd rfl h⟩

end Sys2Proof.Laws
end

