-- ==== Sys2Proof/Tests/Slice0.lean ====
section
/-! SUPPORT. Tests: ill-formed terms are refused, words written out from the manual's encodings decode, and for every statement a
state and operands that meet its hypotheses. -/

namespace Sys2Proof.Tests

set_option Elab.async false

open Sys2Proof.Machine
open Sys2Proof.Safety

/-! ### Well-formed instructions -/

/-- An F3 word with no operand. -/
def f0 : F3 := { d := 0, a := 0, b := 0, pr := 7, pn := 0 }
/-- An XM word of zeros. -/
def m0 : XM := { c := 0, round := 0, sat := 0, scope := 0, size := 0, off := 0 }
/-- An F2I word with no operand. -/
def i0 : F2I := { d := 0, a := 0, imm := 0, pr := 7, pn := 0 }
/-- An FS word of zeros. -/
def s0 : FS := { d := 0, a := 0, b := 0, imm := 0 }
/-- An FB word, unguarded. -/
def b0 : FB := { pr := 7, pn := 0, off := 0 }
/-- An FQ word of zeros. -/
def q0 : FQ := { qa := 0, qb := 0, x := 0, y := 0, mode := 0 }

/-- Two registers. -/
def f12 : F3 := { f0 with d := 2, a := 4, b := 6 }
/-- A register and a literal. -/
def fLit : F3 := { f12 with b := 0x7F }
/-- One register. -/
def f1 : F3 := { f12 with b := 0 }
/-- A 16-bit float type. -/
def m16 : XM := { m0 with size := 1 }
/-- Three scalar registers. -/
def s12 : FS := { d := 2, a := 4, b := 6, imm := 0 }
/-- Two, and a literal. -/
def sLit : FS := { s12 with b := 31 }

/-! ### A warp that runs one instruction -/

/-- The entry of lane 0 at the last instruction of a clause. -/
def entryOf (i : Instr) : Entry :=
  { pc := 0x1004, clause := some { hdr := 0x1000, page := pageOf i, count := wordCount i }, mask := 1, prio := 0, age := 0
    aged := none, wait := .run, waits := false, mark := none }
/-- A warp of one lane with six blocks and a trap handler. -/
def warpOf (i : Instr) : Warp := { freshWarp 0 0 1 0x1000 placedRec 1 [0, 1, 2, 3, 4, 5] with frontier := [entryOf i], tvec := 0x2000 }
/-- Its workgroup, with 4 KiB of scratchpad. -/
def wg0 : Wg := { placedWg 0 0 1 none with size := 4096 }
/-- Its launch. -/
def launch0 : Launch := placedLaunch 0
/-- A writable page of 64 KiB of stacked DRAM. -/
def tlb0 : Tlb := { space := 0, va := 0x1_0000, size := 65536, pte := 0xC000_0000_0010_0000, pteAt := 0x8000 }
/-- Its core. -/
def core0 (w : Warp) : Core := { Core.reset with warps := [(0, w)], tlb := [tlb0] }
/-- A package in which that core's warp issues. -/
def stateOf (k : Core) (g : Wg) (l : Launch) : State :=
  { State.reset with cores := [(0, k)], wgs := [(0, g)], launches := [(0, l)], nextWg := 1, nextLaunch := 1, nextId := 1, cur := .warp 0 0 0 }
/-- Its context. -/
def ctxIn (i : Instr) (w : Warp) (k : Core) (g : Wg) (l : Launch) : Ctx :=
  { core := 0, slot := 0, ei := 0, w := w, e := entryOf i, k := k, g := 0, wg := g, l := l, i := i, act := guardLanes w 1 i }
/-- The state. -/
def st (i : Instr) : State := stateOf (core0 (warpOf i)) wg0 launch0
/-- The context. -/
def cx (i : Instr) : Ctx := ctxIn i (warpOf i) (core0 (warpOf i)) wg0 launch0

/-- The instruction issues in a state, and nothing stops it. -/
def Ready (i : Instr) (s : State) (x : Ctx) : Prop := Issues i s x ∧ Clear x
/-- Nothing stops it, as a test. -/
def free (x : Ctx) : Bool := row1 x && !waitsFor x.w x.e.mask x.i && (rows35 x).isNone

theorem clear_of {x : Ctx} (h : free x = true) : Clear x := by
  simp only [free, Bool.and_eq_true, Bool.not_eq_true', Option.isNone_iff_eq_none] at h
  exact ⟨h.1.1, h.1.2, h.2⟩

theorem issues_of (i : Instr) (w : Warp) (k : Core) (g : Wg) (l : Launch) (h : fget k.warps 0 = some w) (hw : w.wg = 0)
    (he : w.frontier[0]? = some (entryOf i)) (hg : g.launch = 0) : Issues i (stateOf k g l) (ctxIn i w k g l) := by
  refine ⟨rfl, ?_⟩
  have hs : (stateOf k g l).warp? 0 0 = some w := h
  have hx : fget (stateOf k g l).wgs 0 = some g := rfl
  have hl : fget (stateOf k g l).launches g.launch = some l := by rw [hg]; rfl
  simp only [ctxOf, hs, he, hw, hx, hl, ctxIn]
  rfl

theorem ready_st {i : Instr} (h : free (cx i) = true) : Ready i (st i) (cx i) :=
  ⟨issues_of i _ _ _ _ rfl rfl rfl rfl, clear_of h⟩

theorem all_ready {is : List Instr} (h : (is.all fun i => free (cx i)) = true) : ∀ i ∈ is, Ready i (st i) (cx i) :=
  fun i hi => ready_st (List.all_eq_true.mp h i hi)

theorem lane_zero {l : Nat} (h : hasLane 1 l = true) : l = 0 := by
  simpa [hasLane, BitVec.getLsbD_one] using h

/-- The sequencer of cluster 0 with a program at an instruction. -/
def seqOf (i : Instr) : Sequencer :=
  { Sequencer.reset with
    members := [(0, 0)]
    pc := 0x1004
    clause := some { hdr := 0x1000, page := pageOf i, count := wordCount i }
    cur := some { code := 0x1000, arg := 0x1_0000, core := 0, slot := 0, wg := 0, off := 0, pos := 0, waitReads := [], upto := 0 } }
/-- The state in which it issues. -/
def stq (i : Instr) : State := { stateOf Core.reset { wg0 with cg := some 0 } launch0 with seqs := [(0, seqOf i)], cur := .sequencer 0 }

theorem seq_issues {i : Instr} (h : seqRow1 (seqOf i) i = true) : SeqIssues i (stq i) 0 := ⟨rfl, rfl, rfl, rfl, h⟩

theorem all_seq {is : List Instr} (h : (is.all fun i => seqRow1 (seqOf i) i) = true) : ∀ i ∈ is, SeqIssues i (stq i) 0 :=
  fun i hi => seq_issues (List.all_eq_true.mp h i hi)

theorem at_zero {m : Word} {P : Nat → Prop} (h : m = 1) (p : P 0) : ∀ l, hasLane m l = true → P l := by
  intro l hl
  rw [h] at hl
  rw [lane_zero hl]
  exact p

theorem no_lane {m : Word} {P : Nat → Prop} (h : m = 0) : ∀ l, hasLane m l = true → P l := by
  intro l hl
  simp [h, hasLane] at hl

/-- A context that differs in the warp. -/
def cxw (i : Instr) (w : Warp) : Ctx := ctxIn i w (core0 w) wg0 launch0
/-- Its state. -/
def stw (_ : Instr) (w : Warp) : State := stateOf (core0 w) wg0 launch0

theorem ready_w {i : Instr} {w : Warp} (hg : w.wg = 0) (he : w.frontier[0]? = some (entryOf i)) (h : free (cxw i w) = true) :
    Ready i (stw i w) (cxw i w) := ⟨issues_of i w _ _ _ rfl hg he rfl, clear_of h⟩

/-- A warp of two lanes whose other lane stands elsewhere. -/
def apart (i : Instr) : Warp := { warpOf i with live := 3, frontier := [entryOf i, { entryOf i with pc := 0x3000, clause := none, mask := 2 }] }

/-! ### The VALU page -/

theorem test_meets_IntegerArithmetic :
    (∀ i ∈ ((Claims.integerTable f12 m0 none).take 7).map Prod.fst, Ready i (st i) (cx i)) ∧
    (∀ i ∈ ((Claims.integerTable fLit m0 (some 5)).take 7).map Prod.fst, Ready i (st i) (cx i)) ∧
    (∀ i ∈ [Instr.iabs { f12 with b := 0 } { m0 with size := 1 }, .ineg { f12 with b := 0 } { m0 with sat := 1 },
      .iaddc f12 { m0 with off := 15 }, .iaddcLiteral fLit { m0 with off := 7 } 5], Ready i (st i) (cx i)) :=
  ⟨all_ready (by decide +kernel), all_ready (by decide +kernel), all_ready (by decide +kernel)⟩

theorem test_meets_LogicShiftsAndFields :
    (∀ i ∈ ((Claims.logicTable f12 none).take 8).map Prod.fst ++ ((Claims.logicTable f1 none).drop 8).map Prod.fst ++
      ((Claims.logicTable fLit (some 5)).take 8).map Prod.fst, Ready i (st i) (cx i)) ∧
    (∀ i ∈ [Instr.movLiteral { f1 with a := 0x7F } 5, .bfx f12 { m0 with size := 1 }, .bfxLiteral fLit m0 5, .bfi f12 { m0 with c := 8 },
      .bfiLiteral fLit m0 5, .prmt f12 m0, .prmtLiteral fLit m0 5, .sel f12 { m0 with off := 15 }, .selLiteral fLit { m0 with off := 7 } 5,
      .hash32 f12 m0, .hash32Literal fLit m0 5, .movi { i0 with d := 2, imm := 0x40 }], Ready i (st i) (cx i)) :=
  ⟨all_ready (by decide +kernel), all_ready (by decide +kernel)⟩

theorem test_meets_AddressesAndCompares :
    ∀ i ∈ [Instr.lea f12 { m0 with size := 7, off := 0x4000 }, .leaLiteral fLit m0 5, .icmp { f12 with d := 7 } { m0 with off := 5 },
      .icmpLiteral { fLit with d := 0 } m0 5], Ready i (st i) (cx i) :=
  all_ready (by decide +kernel)

theorem test_meets_FloatArithmetic :
    (∀ i ∈ (Claims.floatTable false f12 m0 none).map Prod.fst ++ (Claims.floatTable false fLit m0 (some 5)).map Prod.fst ++
      (Claims.floatTable true f12 m16 none).map Prod.fst ++ (Claims.floatTable true fLit m16 (some 5)).map Prod.fst,
      Ready i (st i) (cx i)) ∧
    (∀ i ∈ [Instr.fscale f12 { m0 with round := 3 }, .fscaleLiteral fLit m0 5, .fmin f12 m0, .fminLiteral fLit m0 5, .fmax f12 m16,
      .fmaxLiteral fLit m0 5, .frnd f1 { m0 with round := 3 }, .fclass f1 m0, .fcmp { f12 with d := 7 } { m0 with off := 7 },
      .fcmpLiteral { fLit with d := 0 } m0 5], Ready i (st i) (cx i)) :=
  ⟨all_ready (by decide +kernel), all_ready (by decide +kernel)⟩

theorem test_meets_FunctionsAndConversions :
    (∀ i ∈ [Instr.frcp f1 m0, .frsq f1 m0, .fsqrt f1 { m0 with round := 3 }, .fexp2 f1 m0, .flog2 f1 m16, .fsin f1 m0, .fcos f1 m0,
      .ftanh f1 m0, .cvt f1 { m0 with off := 0x194 }, .cvtLiteral { f1 with a := 0x7F } { m0 with off := 0x194 } 5,
      .qnt f1 { m0 with off := 0x14 }, .dqnt f12 { m0 with off := 0x14 }], Ready i (st i) (cx i)) ∧
    ((fmtOfCode 0x14 false).isSome = true) :=
  ⟨all_ready (by decide +kernel), by decide +kernel⟩

theorem test_meets_LaneMovesAndReductions :
    ∀ i ∈ [Instr.shfl f12 { m0 with off := 3 }, .bcast f1 { m0 with off := 63 }, .match_ f1 m0, .pack f1 { m0 with size := 2 },
      .unpk f1 { m0 with off := 1 }, .redadd f1 m0, .redmin f1 m0, .redmax f1 { m0 with size := 2 }, .scan f1 { m0 with off := 6 },
      .vote { f1 with d := 1, a := 7 } { m0 with off := 2 }, .vote { f1 with a := 1 } { m0 with off := 3 },
      .redmini f12 { m0 with off := 7 }, .redmaxi f12 { m0 with size := 2 }], Ready i (st i) (cx i) :=
  all_ready (by decide +kernel)

/-! ### The SCALAR page -/

theorem test_meets_ScalarUnits :
    (∀ i ∈ ((Claims.scalarTable s12 none).take 12).map Prod.fst ++ ((Claims.scalarTable sLit (some 5)).take 12).map Prod.fst ++
      [.smov { s12 with b := 0 }, .smovLiteral { s12 with a := 31, b := 0 } 5, .ssel { s12 with imm := 8 }, .sselLiteral sLit 5,
       .smovi { s0 with imm := 0x200 }, .readlane { s0 with a := 3, imm := 4 }, .sbcast { s0 with a := 3, imm := 4 }],
      Ready i (st i) (cx i)) ∧
    (∀ i ∈ ((Claims.scalarTable s12 none).take 12).map Prod.fst ++ ((Claims.scalarTable { s12 with b := 0 } (some 5)).take 12).map Prod.fst ++
      [.smov { s12 with b := 0 }, .smovLiteral { s12 with b := 0 } 5, .ssel { s12 with imm := 8 }, .sselLiteral { s12 with b := 0 } 5,
       .smovi { s0 with imm := 0x200 }], SeqIssues i (stq i) 0) :=
  ⟨all_ready (by decide +kernel), all_seq (by decide +kernel)⟩

/-! ### Branches, calls, traps and waits -/

/-- A backward branch. -/
def back : FB := { b0 with off := -1 }
/-- A pair of registers, one a target. -/
def fJump : F3 := { f0 with d := 2, a := 4 }
/-- A target alone. -/
def fRet : F3 := { f0 with a := 4 }

theorem test_meets_Branches :
    (∀ i ∈ [Instr.bra back, .brp { back with pr := 0 }, .call back, .jmpi fJump, .ret fRet], Ready i (st i) (cx i)) ∧
    Claims.inPaged (Claims.target (cx (.bra back)) (-1)) ∧
    (∀ l, hasLane (cx (.jmpi fJump)).act l = true → Claims.goodTarget (pairLane (st (.jmpi fJump)) (cx (.jmpi fJump)) 4 l)) ∧
    (∀ l, hasLane (cx (.ret fRet)).act l = true → Claims.goodTarget (pairLane (st (.ret fRet)) (cx (.ret fRet)) 4 l)) := by
  refine ⟨all_ready (by decide +kernel), ?_, at_zero (by decide +kernel) ?_, at_zero (by decide +kernel) ?_⟩
  all_goals (unfold_projs; try unfold Claims.goodTarget); unfold Claims.inPaged; decide +kernel

/-- A sequencer whose register 2 holds a target and whose code lies at an address. -/
def seqAt (i : Instr) (code : Double) (t : Word) : Sequencer :=
  { seqOf i with
    q := [(2, t)]
    cur := some { code := code, arg := 0x1_0000, core := 0, slot := 0, wg := 0, off := 0, pos := 0, waitReads := [], upto := 0 } }

/-- A transfer through q2. -/
def fSeq : F3 := { f0 with a := 2 }

theorem test_meets_SequencerControl :
    (∀ i ∈ [Instr.bra back, .call back, .jmpi { fSeq with d := 31 }, .ret fSeq, .nop f0, .exit f0], SeqIssues i (stq i) 0) ∧
    (∀ code t, SeqIssues (.ret fSeq) { stq (.ret fSeq) with seqs := [(0, seqAt (.ret fSeq) code t)] } 0) ∧
    Claims.goodTarget (Claims.registerTarget 2 (seqAt (.ret fSeq) 0x1000 0x2000)) ∧
    (Claims.registerTarget 2 (seqAt (.ret fSeq) 0x1000 2)).toNat % 4 ≠ 0 ∧
    ¬ Claims.inPaged (Claims.registerTarget 2 (seqAt (.ret fSeq) 0xFE00_0000_0000_0000 4)) ∧
    (∀ i ∈ [Instr.exit f0], ((stq i).seq 0).queue = [] ∧ ((stq i).seq 0).running = none) := by
  refine ⟨all_seq (by decide +kernel), fun code t => ⟨rfl, rfl, rfl, rfl, rfl⟩, ?_, ?_, ?_, ?_⟩
  · unfold Claims.goodTarget Claims.inPaged; decide +kernel
  · decide +kernel
  · unfold Claims.inPaged; decide +kernel
  · decide +kernel

/-- TRAP with the largest immediate. -/
def trap127 : Instr := .trap { i0 with imm := 127 }
/-- TRAP whose guard holds nowhere. -/
def trapNone : Instr := .trap { i0 with pr := 0 }

theorem test_meets_UserTrap :
    (Ready trapNone (st trapNone) (cx trapNone) ∧ (cx trapNone).act = 0) ∧
    (Ready trap127 (st trap127) (cx trap127) ∧ (cx trap127).act ≠ 0 ∧ (cx trap127).w.tvec ≠ 0 ∧ (cx trap127).w.handler = 0) ∧
    (let w := { warpOf trap127 with tvec := 0 }
     Ready trap127 (stw trap127 w) (cxw trap127 w) ∧ speculative w = false ∧ orderedMaps (stw trap127 w) = true) ∧
    ∀ v ∈ [(0 : Double), 0x2000],
      let w := { warpOf trap127 with handler := 1, tvec := v }
      Ready trap127 (stw trap127 w) (cxw trap127 w) ∧ speculative w = false ∧ orderedMaps (stw trap127 w) = true := by
  refine ⟨⟨ready_st (by decide +kernel), by decide +kernel⟩, ⟨ready_st (by decide +kernel), by decide +kernel⟩,
    ⟨ready_w rfl rfl (by decide +kernel), by decide +kernel⟩, fun v hv => ?_⟩
  simp only [List.mem_cons, List.not_mem_nil, or_false] at hv
  obtain rfl | rfl := hv <;> exact ⟨ready_w rfl rfl (by decide +kernel), by decide +kernel⟩

/-- SLEEP by s0. -/
def sleep0 : Instr := .sleep { f0 with a := 0x60 }
/-- A warp whose s0 holds a count. -/
def sleeper (n : Word) : Warp := { warpOf sleep0 with sregs := n :: List.replicate 23 0 }

theorem test_meets_YieldNopSleep :
    (∀ i ∈ [Instr.yield f0, .nop f0, sleep0], Ready i (st i) (cx i)) ∧ Ready sleep0 (stw sleep0 (sleeper 1)) (cxw sleep0 (sleeper 1)) ∧
    Ready sleep0 (stw sleep0 (sleeper (BitVec.allOnes 32))) (cxw sleep0 (sleeper (BitVec.allOnes 32))) :=
  ⟨all_ready (by decide +kernel), ready_w rfl rfl (by decide +kernel), ready_w rfl rfl (by decide +kernel)⟩

theorem test_meets_Reconvergence :
    (Ready (.rconv f0) (st (.rconv f0)) (cx (.rconv f0)) ∧ (cx (.rconv f0)).w.handler = 0 ∧ converged (cx (.rconv f0)).w = true ∧
      (cx (.rconv f0)).w.live ≠ 0) ∧
    Ready (.rconv f0) (stw (.rconv f0) (apart (.rconv f0))) (cxw (.rconv f0) (apart (.rconv f0))) ∧
      hasLane (apart (.rconv f0)).live 1 = true ∧ hasLane (cxw (.rconv f0) (apart (.rconv f0))).e.mask 1 = false ∧
      ∀ y ∈ (apart (.rconv f0)).frontier, hasLane y.mask 1 = true → y.wait ≠ .rconv :=
  ⟨⟨ready_st (by decide +kernel), by decide +kernel⟩, ready_w rfl rfl (by decide +kernel), by decide +kernel⟩

/-- EXIT. -/
def exit_ : Instr := .exit f0
/-- EXIT whose guard holds nowhere. -/
def exitNone : Instr := .exit { f0 with pr := 0 }

theorem depth_zero (i : Instr) (l : Nat) : (cx i).w.depth.getD l 0 = 0 := by
  show (List.replicate 32 0).getD l 0 = 0
  simp only [List.getD, List.getElem?_replicate]
  split <;> rfl

theorem test_meets_ExitLanes :
    (∀ i ∈ [exit_, exitNone], Ready i (st i) (cx i) ∧ ∀ l, hasLane (cx i).act l = true → (cx i).w.depth.getD l 0 = 0) ∧
    (∀ i ∈ [exit_, exitNone], row6 (cx i) = none ∧ (cx i).w.round.st = .idle ∧ readsOf (cx i) = [] ∧ (cx i).wg.pool = false ∧
      (cx i).w.poolThreads = []) ∧
    (cx exitNone).act = 0 ∧ ((cx exit_).act ≠ 0 ∧ (cx exit_).w.live &&& ~~~(cx exit_).act = 0 ∧ orderedMaps (st exit_) = true) ∧
    Ready exit_ (stw exit_ (apart exit_)) (cxw exit_ (apart exit_)) ∧
      (apart exit_).live &&& ~~~(cxw exit_ (apart exit_)).act ≠ 0 :=
  ⟨fun i hi => ⟨all_ready (is := [exit_, exitNone]) (by decide +kernel) i hi, fun l _ => depth_zero i l⟩, by decide +kernel,
    by decide +kernel, by decide +kernel, ready_w rfl rfl (by decide +kernel), by decide +kernel⟩

/-- FORK of v4 and v6 with the object at v8. -/
def fork_ : Instr := .fork { f12 with d := 0 } { m0 with c := 8 }
/-- JOIN of the object at v4. -/
def join_ : Instr := .join_ { f12 with b := 0 }
/-- SPAWN. -/
def spawn_ : Instr := .spawn { f12 with d := 0 } { m0 with c := 8 }
/-- A slice whose first granule holds a nonzero object. -/
def coreOne (w : Warp) : Core := { core0 w with data := [(0, 1)], tags := [(0, 1)] }
/-- A pool workgroup's package, whose pool queue has 4,096 places. -/
def poolState (i : Instr) : State :=
  { stateOf (core0 (warpOf i)) { wg0 with pool := true } launch0 with devs := [(0, { Dev.reset with poolqlog2n := [(0, 12)] })] }
/-- Its context. -/
def poolCtx (i : Instr) : Ctx := ctxIn i (warpOf i) (core0 (warpOf i)) { wg0 with pool := true } launch0

theorem test_meets_ForkJoinSpawn :
    (let s := stateOf (core0 (warpOf fork_)) { wg0 with cg := some 0 } launch0
     let x := ctxIn fork_ (warpOf fork_) (core0 (warpOf fork_)) { wg0 with cg := some 0 } launch0
     Ready fork_ s x ∧ x.act ≠ 0 ∧ x.wg.cg.isSome = true ∧ Claims.goodTarget (pairLane s x 4 0) ∧
       (srcLane s x 8 0).toNat % 8 = 0 ∧ (srcLane s x 8 0).toNat + 8 ≤ x.wg.size ∧
       (s.seq (clusterOf s x.core)).fifo.length + (if (s.seq (clusterOf s x.core)).cur.isSome then 1 else 0) < 4) ∧
    (let s := stateOf (coreOne (warpOf join_)) wg0 launch0
     let x := ctxIn join_ (warpOf join_) (coreOne (warpOf join_)) wg0 launch0
     let o (l : Nat) := (srcLane s x 4 l).toNat
     let v (l : Nat) := sliceNat x.k x.wg.gen (x.wg.base + o l) 8
     Ready join_ s x ∧ (∀ l, hasLane x.act l = true → o l % 8 = 0 ∧ o l + 8 ≤ x.wg.size ∧ v l ≠ 0 ∧ v l ≠ 9) ∧
       staleTrap s x (fun l => 0xFF_0000_0000_0000 + o l) 8 = none ∧
       ∀ l, hasLane x.act l = true → ownBad s x x.wg.gen (x.wg.base + o l) 8 = false) ∧
    Ready spawn_ (poolState spawn_) (poolCtx spawn_) ∧
      (∀ l, hasLane (poolCtx spawn_).act l = true → (pairLane (poolState spawn_) (poolCtx spawn_) 4 l).toNat % 4 = 0) ∧
      poolTotal (poolState spawn_) 0 + joinsOut (poolState spawn_) 0 + (lanesOf (poolCtx spawn_).act).length ≤ poolSlots (poolState spawn_) 0 := by
  refine ⟨⟨⟨issues_of _ _ _ _ _ rfl rfl rfl rfl, clear_of (by decide +kernel)⟩, by decide +kernel, by decide +kernel, ?_, by decide +kernel⟩,
    ⟨⟨issues_of _ _ _ _ _ rfl rfl rfl rfl, clear_of (by decide +kernel)⟩, at_zero (by decide +kernel) (by decide +kernel), by decide +kernel,
      at_zero (by decide +kernel) (by decide +kernel)⟩,
    ⟨⟨rfl, rfl⟩, clear_of (by decide +kernel)⟩, at_zero (by decide +kernel) (by decide +kernel), by decide +kernel⟩
  unfold Claims.goodTarget Claims.inPaged; decide +kernel

/-! ### The MEMORY page -/

/-- A warp whose s0:s1 hold an address. -/
def addrWarp (i : Instr) (lo hi : Word) : Warp := { warpOf i with sregs := lo :: hi :: List.replicate 22 0 }
/-- The last unit of the page the TLB holds. -/
def pagedWarp (i : Instr) : Warp := addrWarp i 0x1_FFC0 0
/-- The core's own slice, through its window. -/
def windowWarp (i : Instr) : Warp := addrWarp i 0 0xFE_0000
/-- An address in s0:s1. -/
def fAddr : F3 := { f0 with d := 12, a := 0x60, b := 8 }
/-- A local offset in v4. -/
def fLocal : F3 := { f0 with d := 12, a := 4, b := 8 }

/-- Lane 0's access lies in the own slice at its start, under generation 1. -/
def ownOk (s : State) (x : Ctx) (e : Nat → Nat) (n : Nat) : Bool :=
  decide (x.act = 1) && decide (e 0 % n = 0) && decide (locate s x (e 0) n = .own 0 1 false)

theorem own_of {s : State} {x : Ctx} {e : Nat → Nat} {n : Nat} (h : ownOk s x e n = true) :
    Claims.Own s x e n (fun _ => 0) (fun _ => 1) := by
  simp only [ownOk, Bool.and_eq_true, decide_eq_true_eq] at h
  exact at_zero h.1.1 ⟨h.1.2, false, h.2⟩

/-- Lane 0's access lies in the page the TLB holds. -/
def pagedOk (s : State) (x : Ctx) (e : Nat → Nat) (n : Nat) (write : Bool) : Bool :=
  decide (x.act = 1) && decide (e 0 % n = 0) && decide (locate s x (e 0) n = .paged) &&
    decide (tlbFind x.k.tlb x.l.rec_.space (e 0) = some tlb0) && decide (permit tlb0.pte write = .ok) && decide (pteTier tlb0.pte ≠ 2)

theorem paged_of {s : State} {x : Ctx} {e : Nat → Nat} {n : Nat} {write : Bool} (h : pagedOk s x e n write = true) :
    Claims.Paged s x e n write fun l => pteAddr tlb0.pte + e l % 65536 := by
  simp only [pagedOk, Bool.and_eq_true, decide_eq_true_eq] at h
  obtain ⟨⟨⟨⟨⟨h1, h2⟩, h3⟩, h4⟩, h5⟩, h6⟩ := h
  exact at_zero h1 ⟨h2, h3, tlb0, h4, h5, fun _ => h6, rfl⟩

/-- The loads and stores of a form with their warps. -/
def forms (l p : F3) (m : XM) : List (Instr × Bool) :=
  [(.ldPair p m, false), (.ldLocal l m, true), (.ldaPair p m, false), (.ldaLocal l m, true)]
/-- The stores. -/
def storeForms (l p : F3) (m : XM) : List (Instr × Bool) :=
  [(.stPair p m, false), (.stLocal l m, true), (.stlPair p { m with scope := 6 }, false), (.stlLocal l { m with scope := 6 }, true),
   (.publish p { m with size := 0 }, false)]

/-- The hypotheses of a load of the own slice in a warp, with uncorrectable data at its start or none. -/
def ownLoad (i : Instr) (a : Nat) (loc : Bool) (n : Nat) (bad : Bool) : Bool :=
  let w := windowWarp i
  let k := { core0 w with tags := if bad then [(0, 1)] else [], badGrans := if bad then [0] else [] }
  let s := stateOf k wg0 launch0
  let x := ctxIn i w k wg0 launch0
  let e := Claims.address s x loc a 0
  free x && ownOk s x e n && (staleTrap s x e n).isNone && (accessWait s x e n true false none).isNone && decide (x.l.rec_.mode ≠ 2) &&
    directBad s x false e n == bad

/-- The hypotheses of a load of a page. -/
def pagedLoad (i : Instr) (n : Nat) : Bool :=
  let w := pagedWarp i
  let s := stw i w
  let x := cxw i w
  let e := Claims.address s x false 0x60 0
  free x && pagedOk s x e n false && (accessWait s x e n true false none).isNone && decide (x.l.rec_.mode ≠ 2)

theorem test_meets_Loads :
    ([false, true].all fun bad =>
      ((forms { fLocal with b := 0 } { fAddr with b := 0 } { m0 with size := 4 }).all fun p => ownLoad p.1 (if p.2 then 4 else 0x60) p.2 16 bad) &&
      (forms { fLocal with b := 0 } { fAddr with b := 0 } { m0 with size := 6 }).all fun p => ownLoad p.1 (if p.2 then 4 else 0x60) p.2 2 bad) = true ∧
    ([Instr.ldPair { fAddr with b := 0 } { m0 with size := 4 }, .ldaPair { fAddr with b := 0 } { m0 with size := 4 }].all fun i => pagedLoad i 16) = true := by
  decide +kernel

/-- The hypotheses of a store to the own slice, of scope `rel` if it releases. -/
def ownStore (i : Instr) (a : Nat) (loc : Bool) (n : Nat) (rel : Option Nat) : Bool :=
  let w := windowWarp i
  let s := stw i w
  let x := cxw i w
  let e := Claims.address s x loc a 0
  free x && memWf x.k.data && !speculative x.w && ownOk s x e n && (accessWait s x e n false true rel).isNone && (row6 x).isNone

/-- The hypotheses of a store to a page. -/
def pagedStore (i : Instr) (n : Nat) (rel : Option Nat) : Bool :=
  let w := pagedWarp i
  let s := stw i w
  let x := cxw i w
  let e := Claims.address s x false 0x60 0
  free x && !speculative x.w && pagedOk s x e n true && (accessWait s x e n false true rel).isNone &&
    (roomWait s x (n * (lanesOf x.act).length)).isNone && (row6 x).isNone

theorem test_meets_Stores :
    ((storeForms { fLocal with d := 0 } { fAddr with d := 0 } { m0 with size := 3 }).all fun p =>
      ownStore p.1 (if p.2 then 4 else 0x60) p.2 8 (match p.1 with | .stlPair .. | .stlLocal .. | .publish .. => some 6 | _ => none)) = true ∧
    ([Instr.stPair { fAddr with d := 0 } { m0 with size := 3 }, .stlPair { fAddr with d := 0 } { m0 with size := 3, scope := 2 },
      .stlPair { fAddr with d := 0 } { m0 with size := 3, scope := 3 }, .publish { fAddr with d := 0 } m0].all fun i =>
      pagedStore i 8 (match i with | .stlPair _ m => some m.scope.toNat | .publish .. => some 6 | _ => none)) = true := by
  decide +kernel

/-- The hypotheses of an atomic on the own slice. -/
def ownAtomic (i : Instr) (a : Nat) (loc : Bool) (n : Nat) (rel : Option Nat) : Bool :=
  let w := windowWarp i
  let s := stw i w
  let x := cxw i w
  let e := Claims.address s x loc a 0
  free x && memWf x.k.data && !speculative x.w && ownOk s x e n && (staleTrap s x e n).isNone &&
    (accessWait s x e n true true rel).isNone && (row6 x).isNone && decide (x.l.rec_.mode = 0) && !directBad s x true e n

/-- The hypotheses of an atomic on a page. -/
def pagedAtomic (i : Instr) (n : Nat) (value : Bool) (rel : Option Nat) : Bool :=
  let w := pagedWarp i
  let s := stw i w
  let x := cxw i w
  let e := Claims.address s x false 0x60 0
  free x && !speculative x.w && pagedOk s x e n true && (accessWait s x e n value true rel).isNone &&
    (roomWait s x (n * (lanesOf x.act).length)).isNone && (row6 x).isNone && decide (x.act ≠ 0) && decide (x.l.rec_.mode = 0)

theorem test_meets_Atomics :
    (∃ n ∈ [4, 8], 10 < (Claims.atomTable n).length ∧ 2 ^ (8 * n) - 1 < 2 ^ (8 * n)) ∧
    ([(Instr.atomPair fAddr { m0 with size := 3, off := 0x5000 }, false, 8, none),
      (.atomLocal fLocal { m0 with size := 2, off := 0x600, scope := 6 }, true, 4, some 6),
      (.atomnPair { fAddr with d := 0 } { m0 with size := 2 }, false, 4, none), (.atomnLocal { fLocal with d := 0 } { m0 with size := 2 }, true, 4, none),
      (.casPair fAddr { m0 with size := 4, c := 12 }, false, 16, none), (.casLocal fLocal { m0 with size := 4, c := 12, off := 0x400, scope := 2 }, true, 16, some 2)].all
      fun p => ownAtomic p.1 (if p.2.1 then 4 else 0x60) p.2.1 p.2.2.1 p.2.2.2) = true ∧
    ([(Instr.atomPair fAddr { m0 with size := 3, off := 0x5000 }, 8, true, none), (.atomnPair { fAddr with d := 0 } { m0 with size := 2 }, 4, false, none),
      (.casPair fAddr { m0 with size := 4, c := 12, off := 0x400, scope := 5 }, 16, true, some 5)].all
      fun p => pagedAtomic p.1 p.2.1 p.2.2.1 p.2.2.2) = true :=
  ⟨⟨8, by decide, by decide⟩, by decide +kernel, by decide +kernel⟩

/-- SLD of s0:s1. -/
def sld_ : Instr := .sld { s0 with d := 23 }

theorem test_meets_ScalarLoadAndPref :
    (Ready sld_ (stw sld_ (windowWarp sld_)) (cxw sld_ (windowWarp sld_)) ∧
      locate (stw sld_ (windowWarp sld_)) (cxw sld_ (windowWarp sld_)) 0xFE_0000_0000_0000 4 = .own 0 1 false ∧
      waitsWith 0 (stw sld_ (windowWarp sld_)) (cxw sld_ (windowWarp sld_)) (fun _ => 0xFE_0000_0000_0000) 4 true false none = none ∧
      ownBad (stw sld_ (windowWarp sld_)) (cxw sld_ (windowWarp sld_)) 1 0 4 = false) ∧
    (Ready sld_ (stw sld_ (pagedWarp sld_)) (cxw sld_ (pagedWarp sld_)) ∧
      locate (stw sld_ (pagedWarp sld_)) (cxw sld_ (pagedWarp sld_)) 0x1_FFC0 4 = .paged ∧
      tlbFind (cxw sld_ (pagedWarp sld_)).k.tlb 0 0x1_FFC0 = some tlb0 ∧ permit tlb0.pte false = .ok ∧
      waitsWith 1 (stw sld_ (pagedWarp sld_)) (cxw sld_ (pagedWarp sld_)) (fun _ => 0x1_FFC0) 4 true false none = none) ∧
    Ready (.pref { fAddr with d := 0, b := 0 } m0) (st (.pref { fAddr with d := 0, b := 0 } m0)) (cx (.pref { fAddr with d := 0, b := 0 } m0)) :=
  ⟨⟨ready_w rfl rfl (by decide +kernel), by decide +kernel⟩, ⟨ready_w rfl rfl (by decide +kernel), by decide +kernel⟩,
    ready_st (by decide +kernel)⟩

/-! ### Fences, sections, retirement, append regions, barriers, queues and channels -/

/-- FENCE.dev. -/
def fence_ : Instr := .fence f0 { m0 with scope := 5 }
/-- FENCEX from a path. -/
def fencex_ (p : BitVec 15) : Instr := .fencex f0 { m0 with off := p, scope := 5 }
/-- A read of lane 0 that has not returned. -/
def read1 : Pending :=
  { id := 0, mask := 1, act := 1, pc := 0x1000, clause := none, dest := .group (some 40) 4 false, pred := none, want := 1, got := []
    preds := [], fail := none, acquire := false, bytes := [], issued := 0, holds := false }
/-- A warp that waits for it. -/
def reader (i : Instr) : Warp := { warpOf i with pend := [read1] }

theorem test_meets_Fences :
    ((Ready fence_ (st fence_) (cx fence_) ∧ row6 (cx fence_) = none ∧ speculative (cx fence_).w = false) ∧ Claims.laneFenced (st fence_) (cx fence_) 5) ∧
    (Ready fence_ (stw fence_ (reader fence_)) (cxw fence_ (reader fence_)) ∧ (cxw fence_ (reader fence_)).act ≠ 0 ∧
      ¬ Claims.laneFenced (stw fence_ (reader fence_)) (cxw fence_ (reader fence_)) 5) ∧
    ([0, 1, 2, 3].all fun p => free (cx (fencex_ p)) && (row6 (cx (fencex_ p))).isNone) = true ∧
    Claims.pathFenced (st (fencex_ 1)) (cx (fencex_ 1)) 1 ∧ Claims.pathFenced (st (fencex_ 2)) (cx (fencex_ 2)) 2 ∧
    Claims.pathFenced (st (fencex_ 3)) (cx (fencex_ 3)) 3 ∧
    (Ready (fencex_ 0) (stw (fencex_ 0) (reader (fencex_ 0))) (cxw (fencex_ 0) (reader (fencex_ 0))) ∧
      ¬ Claims.laneFenced (stw (fencex_ 0) (reader (fencex_ 0))) (cxw (fencex_ 0) (reader (fencex_ 0))) 5) := by
  refine ⟨⟨⟨ready_st (by decide +kernel), by decide +kernel⟩, ?_⟩, ⟨ready_w rfl rfl (by decide +kernel), by decide +kernel, ?_⟩,
    by decide +kernel, ?_, ?_, ?_,
    ready_w rfl rfl (by decide +kernel), ?_⟩
  all_goals first | unfold Claims.laneFenced; decide +kernel | (show ∀ q ∈ ([] : List CopyCmd), _; intro q hq; cases hq) | (show _ = _; decide +kernel)

theorem test_meets_DrainedFences :
    ((fence_ :: [0, 1, 2, 3].map fencex_).all fun i => free (cx i) && (row6 (cx i)).isNone && !speculative (cx i).w &&
      decide ((cx i).w.pend = [] ∧ (cx i).wg.laneQ = [] ∧ (cx i).wg.chanQ = [] ∧ (cx i).wg.left = [] ∧ (cx i).k.copies = []) &&
      decide (((st i).seq (clusterOf (st i) 0)).cur = none ∧ ((st i).seq (clusterOf (st i) 0)).fifo = [])) = true := by
  decide +kernel

/-- RDENTER and RDEXIT. -/
def rdenter_ : Instr := .rdenter f0
/-- RDEXIT. -/
def rdexit_ : Instr := .rdexit f0
/-- A warp whose lane 0 stands in n sections. -/
def depth (i : Instr) (n : Nat) : Warp := { warpOf i with depth := n :: List.replicate 31 0 }

theorem test_meets_ReaderSections :
    ([0, 14].all fun n => free (cxw rdenter_ (depth rdenter_ n)) && decide ((depth rdenter_ n).depth.length = 32) &&
      decide ((depth rdenter_ n).depth.getD 0 0 < 15)) = true ∧
    ([1, 15].all fun n => free (cxw rdexit_ (depth rdexit_ n)) && decide (0 < (depth rdexit_ n).depth.getD 0 0) &&
      decide (readsOf (cxw rdexit_ (depth rdexit_ n)) = [])) = true ∧
    (free (cxw rdenter_ (depth rdenter_ 15)) && free (cxw rdexit_ (depth rdexit_ 0))) = true ∧
    hasLane (cxw rdenter_ (depth rdenter_ 15)).act 0 = true ∧ hasLane (cxw rdexit_ (depth rdexit_ 0)).act 0 = true ∧
    (depth rdenter_ 15).tvec ≠ 0 ∧ (depth rdenter_ 15).handler = 0 := by
  decide +kernel

/-- RETIRE of v4 with an action. -/
def retire_ (a : BitVec 15) : Instr := .retire { f12 with d := 12 } { m0 with c := 8, off := a }
/-- A package whose device has a retire queue and a work queue table. -/
def rqState (_ : Instr) (w : Warp) : State :=
  { stateOf (core0 w) wg0 launch0 with devs := [(0, { Dev.reset with rqbase := 0x8_0000, rqlog2n := 6, wqtbase := 0x4_0000 })] }

/-- The hypotheses of a RETIRE. -/
def retires (i : Instr) : Bool :=
  let s := rqState i (warpOf i)
  let x := cx i
  free x && decide (x.act = 1) && (row6 x).isNone && decide (x.l.rec_.mode = 0) && decide ((pairLane s x 6 0).toNat = 0) &&
    decide ((lanesOf x.act).length ≤ retireRoom s (devOfCore s x.core)) && !acquirePending x && (roomWait s x 32).isNone

theorem test_meets_RetireQueues : ([0, 1, 2].all fun a => retires (retire_ a)) = true := by
  decide +kernel

/-- GRACE. -/
def grace_ : Instr := .grace f0
/-- A warp that waits for a grace period. -/
def waiter (g : Option Nat) (at_ : Double) : Warp := { warpOf grace_ with grace := g, hold := .grace at_ false }

/-- GRACE whose guard holds nowhere. -/
def graceNone : Instr := .grace { f0 with pr := 0 }

theorem test_meets_GraceWaits :
    ([none, some 0, some 2].all fun g => [0x1000, 0x1004, 0x3000].all fun a =>
      let x := cxw grace_ (waiter g a)
      free x && decide (x.act ≠ 0) && (row6 x).isNone && ((waiter g a).depth.all fun d => d == 0) &&
        decide ((a = x.e.pc ∨ (a = Claims.headerOf x ∧ a + 4 = x.e.pc)) = (a ≠ 0x3000))) = true ∧
    (0 + 2 ^ 32 - 0 % 2 ^ 32) % 2 ^ 32 < 2 ^ 31 ∧ ¬ (0 + 2 ^ 32 - 2 % 2 ^ 32) % 2 ^ 32 < 2 ^ 31 ∧
    Claims.laneFenced (stw grace_ (waiter (some 2) 0x3000)) (cxw grace_ (waiter (some 2) 0x3000)) 6 ∧ Ready graceNone (st graceNone) (cx graceNone) ∧
    (cx graceNone).act = 0 := by
  refine ⟨by decide +kernel, by decide, by decide, ?_, ready_st (by decide +kernel), by decide +kernel⟩
  unfold Claims.laneFenced; decide +kernel

/-- APPEND, ACOMMIT and AHEAD of the descriptor at s0:s1. -/
def append_ : Instr := .append fAddr { m0 with size := 3 }
/-- ACOMMIT. -/
def acommit_ : Instr := .acommit { fAddr with d := 0 } { m0 with scope := 5 }
/-- AHEAD. -/
def ahead_ : Instr := .ahead { fAddr with b := 0 } { m0 with scope := 5 }
/-- The hypotheses that all three share, and the conditions of an access. -/
def region (i : Instr) (write : Bool) : Bool :=
  let s := stw i (pagedWarp i)
  let x := cxw i (pagedWarp i)
  free x && pagedOk s x (Claims.address s x false 0x60 0) 64 write && decide (x.l.rec_.mode = 0) && decide (x.w.round.st = .idle) &&
    !acquirePending x && !overlaps x (Claims.address s x false 0x60 0) 64 true && brineRoom s x.core 0 8 && (row6 x).isNone

theorem test_meets_AppendRegions :
    region append_ true = true ∧ region acommit_ true = true ∧ region ahead_ false = true ∧
    accessWait (stw acommit_ (pagedWarp acommit_)) (cxw acommit_ (pagedWarp acommit_))
      (Claims.address (stw acommit_ (pagedWarp acommit_)) (cxw acommit_ (pagedWarp acommit_)) false 0x60 0) 64 false true (some 5) = none ∧
    accessWait (stw ahead_ (pagedWarp ahead_)) (cxw ahead_ (pagedWarp ahead_))
      (fun l => Claims.address (stw ahead_ (pagedWarp ahead_)) (cxw ahead_ (pagedWarp ahead_)) false 0x60 0 l + 16) 8 true false none = none := by
  decide +kernel

/-- BARA at the last barrier, by the count in an s register or for every warp. -/
def bara_ (a : BitVec 7) : Instr := .bara { i0 with d := 2, a := a, imm := 15 }
/-- BAR. -/
def bar_ (a : BitVec 7) : Instr := .bar { i0 with a := a, imm := 15 }
/-- BARW. -/
def barw_ : Instr := .barw { i0 with a := 0x60, imm := 0 }
/-- What a gathered warp meets with a count. -/
def gathered (i : Instr) (n : Word) (c : Option Nat) (nwarps : Nat) (done : Bool) : Bool :=
  let w := addrWarp i n 0
  let g := { wg0 with nwarps := nwarps }
  let x := ctxIn i w (core0 w) g launch0
  free x && decide (x.act = 1) && decide (x.e.mask = x.w.live) && decide (x.w.round.st = .idle) &&
    decide (readsOf { x with act := x.e.mask } = []) &&
    decide (Claims.countOf (stateOf (core0 w) g launch0) x (if c = none then 0x78 else 0x60) = c) &&
    decide (Claims.complete g (Claims.arrival (Claims.barrier g 15) c) = done)

theorem test_meets_Barriers :
    ([bara_ 0x60, bar_ 0x60].all fun i => gathered i 16 (some 16) 1 false && gathered i 1 (some 1) 1 true) = true ∧
    ([bara_ 0x78, bar_ 0x78].all fun i => gathered i 0 none 2 false && gathered i 0 none 1 true) = true ∧
    (Ready barw_ (st barw_) (cx barw_) ∧ (cx barw_).act ≠ 0 ∧ (cx barw_).e.mask = (cx barw_).w.live) ∧
    (∀ i ∈ [Instr.bara { i0 with d := 2, a := 0x78, pr := 0 }, .bar { i0 with a := 0x78, pr := 0 }, .barw { i0 with a := 4, pr := 0 }],
      Ready i (st i) (cx i)) ∧
    ∀ i ∈ [bara_ 0x78, bar_ 0x78, barw_], free (cxw i (apart i)) = true ∧ (cxw i (apart i)).e.mask ≠ (cxw i (apart i)).w.live :=
  ⟨by decide +kernel, by decide +kernel, ⟨ready_st (by decide +kernel), by decide +kernel⟩, all_ready (by decide +kernel), by decide +kernel⟩

/-- WQPUSH of v4 and v8. -/
def push_ (m : XM) : Instr := .wqpush { f0 with a := 0x60, b := 8 } m
/-- WQPOP. -/
def pop_ (m : XM) : Instr := .wqpop { f0 with d := 12, a := 0x60 } m
/-- The hypotheses of a queue operation on a queue. -/
def queueOp (i : Instr) (n : Word) : Bool :=
  let w := addrWarp i n 0
  let s := rqState i w
  let x := cxw i w
  free x && !speculative x.w && decide (x.l.rec_.mode = 0) && decide (x.act = 1) && decide ((srcLane s x 0x60 0) = n) &&
    !acquirePending x && (roomWait s x 16).isNone && (row6 x).isNone && decide (readsOf x = [])

theorem test_meets_WorkQueues :
    ([push_ { m0 with scope := 2 }, push_ { m0 with scope := 3, off := 3 }, pop_ { m0 with scope := 5 }, pop_ { m0 with off := 0xF }].all
      fun i => queueOp i 4095 && queueOp i 4096) = true := by
  decide +kernel

/-- A workgroup with a channel in each state. -/
def chanWg (c : Chan) : Wg := { wg0 with chans := [(3, c)] }
/-- The hypotheses of a channel instruction. -/
def chanOp (i : Instr) (c : Chan) (lo hi : Word) : Bool :=
  let w := addrWarp i lo hi
  let x := ctxIn i w (core0 w) (chanWg c) launch0
  free x && decide (x.act ≠ 0) && !speculative x.w && decide (Claims.channel x.wg 3 = c) && (row6 x).isNone &&
    decide (sendsOf (stateOf (core0 w) (chanWg c) launch0) x (some 3) = []) &&
    decide ((pairLane (stateOf (core0 w) (chanWg c) launch0) x 0x60 0).toNat = lo.toNat + hi.toNat * 2 ^ 32) &&
    (roomWait (stateOf (core0 w) (chanWg c) launch0) x 4).isNone

/-- A channel open for sending to a slice. -/
def txChan : Chan := { Chan.fresh with st := .tx, endpoint := 0xFE_0000_0010_0000 }
/-- A channel that receives one message. -/
def rxChan : Chan := { Chan.fresh with st := .rx, ring := 0, size := 64, delivered := 1 }

theorem test_meets_ChannelsAndSends :
    (chanOp (.chopenTx { i0 with a := 0x60, imm := 3 }) Chan.fresh 0x10_0000 0xFE_0000 = true ∧
      regionOf 0xFE_0000_0010_0000 = .slice 1 0 ∧ coreOfIdx State.reset 0 1 = some 1 ∧ 0 + 4 ≤ addressable (State.reset.dev 0).hcshare) ∧
    (chanOp (.chopenTx { i0 with a := 0x60, imm := 3 }) Chan.fresh 64 0xFD_0000 = true ∧ regionOf 0xFD_0000_0000_0040 = .peer 0 64 ∧
      let s := { State.reset with windows := [(0, { Window.reset with valid := true, size := 1 })] }
      (windowOf s 0 0).valid = true ∧ 64 + 4 ≤ (windowOf s 0 0).size * 65536) ∧
    (chanOp (.chopenRx { i0 with a := 0x60, imm := 67 }) Chan.fresh 0 64 = true ∧
      chanOp (.chopenRx { i0 with a := 0x60, imm := 67 }) Chan.fresh 64 4032 = true ∧ 64 + 4032 ≤ wg0.size) ∧
    ([[], [(3, [[1, 2]])]].all fun again => decide (({ wg0 with again := again } : Wg).size = 4096)) = true ∧
    chanOp (.recv { i0 with d := 2, imm := 3 }) rxChan 0 0 = true ∧
    (let i : Instr := .recv { i0 with d := 2, imm := 3 }
     let x := ctxIn i (warpOf i) (core0 (warpOf i)) (chanWg rxChan) launch0
     ownBad (stateOf x.k x.wg launch0) x x.wg.gen x.wg.base 4 = false) ∧
    (([Chan.fresh, txChan, rxChan].all fun c => chanOp (.chfence { i0 with imm := 3 }) c 0 0 && chanOp (.chclose { i0 with imm := 3 }) c 0 0) = true) ∧
    ([txChan, { txChan with endpoint := 0xFD_0000_0000_0040 }].all fun c => chanOp (.send { i0 with a := 4, imm := 3 }) c 0 0) = true ∧
    regionOf txChan.endpoint = .slice 1 0 ∧ (windowOf State.reset 0 0).valid = false ∧ chanOp (.send { i0 with a := 4, imm := 3 }) rxChan 0 0 = true := by
  decide +kernel

/-! ### The COPY page -/

/-- A command's operands: the record's address in s0:s1, the block from v8. -/
def copyWarp (i : Instr) : Warp := addrWarp i 0x1_0000 0
/-- The launch, which may hand pages over. -/
def handLaunch : Launch := { launch0 with rec_ := { placedRec with hand := true } }
/-- The hypotheses of a counted command. -/
def copyOk (f : F3) (m : XM) (p : Instr × Nat × Bool) : Bool :=
  let w := copyWarp p.1
  let x := ctxIn p.1 w (core0 w) wg0 handLaunch
  let s := stateOf (core0 w) wg0 handLaunch
  free x && !speculative x.w && decide ((lanesOf x.act).head? = some 0) && (copyTrap x (Claims.operands s x p.2.1 f m 0)).isNone &&
    !acquirePending x && decide ((Claims.token x.w (m.off.toNat % 8)).count < 63) && decide (x.l.rec_.mode = 0)
/-- A block and a register of indexes. -/
def fCopy : F3 := { f0 with a := 0x60, b := 8 }
/-- CPHAND in a launch that may not. -/
def hand_ : Instr := .cphand { f0 with a := 0x60, b := 8 } { m0 with c := 9 }

theorem test_meets_CopyCommands :
    (((Claims.copies fCopy { m0 with off := 7 }).take 5).all fun p =>
      copyOk fCopy { m0 with off := 7 } p) = true ∧
    copyOk fCopy { m0 with off := 7, c := 9 } (.cpgather fCopy { m0 with off := 7, c := 9 }, 2, false) = true ∧
    copyOk { fCopy with b := 0 } m0 (.cppagein { fCopy with b := 0 } m0, 5, true) = true ∧
    copyOk { f0 with a := 0x60, b := 8 } { m0 with c := 9 } (hand_, 7, true) = true ∧
    free (cx hand_) = true ∧ (cx hand_).l.rec_.hand = false ∧ (cx hand_).w.tvec ≠ 0 ∧
    (cx (.cpld { fCopy with pr := 0 } m0)).act = 0 ∧ free (cx (.cpld { fCopy with pr := 0 } m0)) = true := by
  decide +kernel

/-- CPSTAT, clearing. -/
def cpstat_ : Instr := .cpstat { f0 with d := 2 } { m0 with off := 0x207 }
/-- CPCANCEL. -/
def cpcancel_ : Instr := .cpcancel f0 { m0 with off := 7 }
/-- Its operands. -/
def args1 : CopyArgs :=
  { op := 0, addr := 0x1_0000, origin := [], word5 := 0, start := 0, index := [], ops := false, oslot := 0, hold := false, count := 1, part := 0 }
/-- A command in the engine. -/
def cmd1 (st : Option Nat) : CopyCmd :=
  { id := 0, slot := 0, wg := 0, tok := 7, seq := 0, args := args1, rec_ := none, pos := 3, pages := [], wait := .no, status := st
    resume := 0, rowBad := none, werr := false, stale := false, staleAddr := 0, writes := [], issued := 0, phases := [], ahead := [], readAt := none, via := none }
/-- A core whose engine holds it. -/
def copying (w : Warp) (st : Option Nat) : Core := { core0 w with copies := [cmd1 st] }

theorem test_meets_CopyStatusAndCancel :
    (free (cx cpstat_) = true ∧ (cx cpstat_).act ≠ 0) ∧
    ([none, some 0, some 2].all fun st => free (ctxIn cpcancel_ (warpOf cpcancel_) (copying (warpOf cpcancel_) st) wg0 launch0)) = true ∧
    free (cx (.cpcancel { f0 with pr := 0 } m0)) = true ∧ (cx (.cpcancel { f0 with pr := 0 } m0)).act = 0 := by
  decide +kernel

/-- A layout of two rows of 32 bytes of 8-bit elements, swizzled. -/
def job1 : Job :=
  { core := 0, dev := 0, g := 0, wg := wg0, l := launch0, rows := none
    lay := { ibound := 0, sp24 := false, swz := 1, rank := 2, fmt := 4, box := [31, 1, 0, 0, 0], stride := [0, 32, 0, 0, 0], dim := [32, 2, 1, 1, 1], base := 0 } }

theorem test_meets_SwizzlePermutes :
    layoutOk job1.lay args1.origin job1.rows = true ∧ job1.per < job1.total ∧ 0 < job1.per ∧ job1.per % job1.per = 0 ∧
    chunkPlace job1 args1 0 ≠ chunkPlace job1 args1 job1.per := by
  decide +kernel

theorem test_meets_CopyCommandEnds :
    let s (st t : Nat) : State := stateOf (copying { warpOf cpstat_ with tokens := List.replicate 8 { Token.fresh with count := 1, status := t } } (some st)) wg0 launch0
    ([(0, 0), (2, 0), (2, 3), (0, 3)].all fun p => decide (copyCmd (s p.1 p.2) 0 0 = some (cmd1 (some p.1)))) = true ∧
    ((s 2 3).warp? 0 0).isSome = true ∧ (cmd1 (some 2)).wait = .no ∧ (cmd1 (some 2)).writes = [] ∧ (cmd1 (some 2)).rowBad = none := by
  decide +kernel

/-! ### The MATRIX page -/

/-- A cluster whose array has slot 0 claimed and whose q1 holds a value. -/
def mxState (i : Instr) (v : Word) (q : List MxOp) : State :=
  { stateOf { Core.reset with array := { MArray.reset with claims := [0] } } { wg0 with cg := some 0, size := 0x20000 } launch0 with
    seqs := [(0, { seqOf i with q := [(1, v)], queue := q })], cur := .sequencer 0 }
/-- A matrix word. -/
def mq (m : BitVec 7) : FQ := { q0 with qa := 1, mode := m }

theorem seq_mx {i : Instr} (v : Word) (q : List MxOp) (h : seqRow1 (seqOf i) i = true) : SeqIssues i (mxState i v q) 0 := ⟨rfl, rfl, rfl, rfl, h⟩

/-- The queued operations in forms the encoding admits. -/
def mxForms : List Instr :=
  [.mclaim (mq 0), .mrel (mq 0), .mfill (mq 0), .mzero { q0 with mode := 15 }, .mdrain (mq 4), .mscl (mq 2), .mscacc { q0 with x := 1 },
   .mhad q0, .mmb (mq 1), .mmaBf16 (mq 64), .mmaF16 (mq 0), .mmaI8 (mq 0x30), .mmaP8 (mq 2), .mmaE2m1 (mq 0), .mmaMxp8 (mq 2), .mmaMxe2m1 (mq 0)]
/-- Eight operations issued. -/
def mxFull : List MxOp := List.replicate 8 { instr := .mzero { q0 with mode := 1 }, value := 0 }

/-- Slot 0 is claimed on every array of the set. -/
theorem slot0 (i : Instr) (v : Word) (h : Nat → Prop) : Claims.claimed (mxState i v []) ((mxState i v []).seq 0) 0 h := by
  intro p hp _
  have e : p = (0, 0, { wg0 with cg := some 0, size := 0x20000 }) := List.mem_singleton.mp hp
  subst e
  exact List.mem_singleton.mpr rfl

theorem test_meets_MatrixQueue :
    (∀ i ∈ mxForms, SeqIssues i (mxState i 0 []) 0 ∧ SeqIssues i (mxState i 0 mxFull) 0) ∧
    Claims.claimed (mxState (.mrel (mq 0)) 1 []) ((mxState (.mrel (mq 0)) 1 []).seq 0) 0 (fun _ => True) ∧
    (∀ p ∈ Claims.arrays (mxState (.mclaim (mq 0)) 2 []) ((mxState (.mclaim (mq 0)) 2 []).seq 0),
      1 ∉ claimsAt ((mxState (.mclaim (mq 0)) 2 []).seq 0) ((mxState (.mclaim (mq 0)) 2 []).core p.2.2.core).array) ∧
    (fget ((mxState (.mmaI8 (mq 0)) 0 []).seq 0).members 0).isSome = true ∧
    (∀ p ∈ Claims.arrays (mxState (.mdrain (mq 4)) 0 []) ((mxState (.mdrain (mq 4)) 0 []).seq 0), 0 + Claims.drained 4 ≤ p.2.2.size) := by
  refine ⟨fun i hi => ?_, slot0 _ _ _, by decide +kernel, by decide +kernel, by decide +kernel⟩
  have h : seqRow1 (seqOf i) i = true := List.all_eq_true.mp (by decide +kernel : (mxForms.all fun i => seqRow1 (seqOf i) i) = true) i hi
  exact ⟨seq_mx 0 [] h, seq_mx 0 mxFull h⟩

/-- A sequencer whose arguments stand in its core's slice. -/
def argState (i : Instr) : State :=
  { mxState i 0 [] with
    cores := [(0, { core0 (warpOf i) with data := [(0, 5)], tags := [(0, 1)] })]
    seqs := [(0, { seqOf i with argaddr := 0xFE_0000_0000_0000 })] }

theorem test_meets_MatrixWaitsAndArguments :
    (∀ i ∈ [Instr.mwait q0, .mstat (mq 0), .mstat (mq 1)], SeqIssues i (mxState i 0 []) 0 ∧ SeqIssues i (mxState i 0 mxFull) 0) ∧
    SeqIssues (.mfillArg { q0 with qa := 28, mode := 0x40 }) (argState (.mfillArg { q0 with qa := 28, mode := 0x40 })) 0 ∧
    (let s := argState (.mfillArg { q0 with qa := 28, mode := 0x40 })
     (s.seq 0).argaddr.toNat % 16 = 0 ∧
       ((s.seq 0).cur.map fun fk => decide ((argRead s fk (s.seq 0).argaddr.toNat).2 = .ok 5)) = some true ∧
       regionOf (s.seq 0).argaddr.toNat = .slice 0 0 ∧ (s.seq 0).running.toList ++ (s.seq 0).queue = []) ∧
    (let s := { argState (.mfillArg { q0 with qa := 28, mode := 0x40 }) with
       seqs := [(0, { seqOf (.mfillArg { q0 with qa := 28, mode := 0x40 }) with
         argaddr := 0xFE_0000_0000_0000, queue := [{ instr := .mdrain (mq 4), value := 0 }] })] }
     ∃ o ∈ (s.seq 0).running.toList ++ (s.seq 0).queue, ∃ d, o.instr = .mdrain d) := by
  refine ⟨fun i hi => ?_, ⟨rfl, rfl, rfl, rfl, by decide +kernel⟩, by decide +kernel, ⟨_, List.mem_singleton.mpr rfl, _, rfl⟩⟩
  have h : seqRow1 (seqOf i) i = true :=
    List.all_eq_true.mp (by decide +kernel : ([Instr.mwait q0, .mstat (mq 0), .mstat (mq 1)].all fun i => seqRow1 (seqOf i) i) = true) i hi
  exact ⟨seq_mx 0 [] h, seq_mx 0 mxFull h⟩

/-- An operation at the head of the queue of free arrays. -/
def opState (i : Instr) (v : Nat) : State := mxState i 0 [{ instr := i, value := v }]

theorem may_start (i : Instr) (v : Nat) : Claims.MayStart (opState i v) 0 { instr := i, value := v } [] := by
  refine ⟨rfl, rfl, rfl, rfl, fun p hp => ?_, List.pairwise_singleton _ _⟩
  have e : p = (0, 0, { wg0 with cg := some 0, size := 0x20000 }) := List.mem_singleton.mp hp
  subst e
  rfl

theorem test_meets_MatrixOperations :
    (∀ i ∈ mxForms, Claims.MayStart (opState i 0) 0 { instr := i, value := 0 } []) ∧
    (∀ i ∈ mxForms, ∃ src ∈ Claims.arrays (opState i 0) ((opState i 0).seq 0), src.1 = 0 % 4) ∧
    ([(Instr.mfill (mq 0), 8192), (.mscl (mq 0), 256), (.mscl (mq 2), 256)].all fun p =>
      !mxStale (opState p.1 64) 0 64 p.2 (fun _ => true) && (mxPoison (opState p.1 64) 0 64 p.2 fun _ => true).isNone) = true ∧
    (∀ f ∈ [mq 0, mq 0x10, mq 0x41, mq 2], f.mode.toNat % 4 < 3) ∧
    ([4, 5, 6, 7, 8, 9, 0x11, 0x1F].all fun m =>
      let s := opState (.mdrain (mq m)) 64
      (Claims.arrays s (s.seq 0)).all (fun p => holdsSlot p.2.2 && memWf (s.core p.2.2.core).data) &&
        (decide (m = 4 ∨ m = 5) || (fmtOfCode m.toNat false).isSome)) = true :=
  ⟨fun i _ => may_start i 0, fun i _ => ⟨_, List.mem_singleton.mpr rfl, rfl⟩, by decide +kernel, by decide +kernel, by decide +kernel⟩

theorem test_meets_SequencerEvents :
    (let fk : Fork := { code := 0x1000, arg := 0x1_0000, core := 0, slot := 0, wg := 0, off := 0, pos := 0, waitReads := [3], upto := 1 }
     let s := { st (.mzero q0) with seqs := [(0, { Sequencer.reset with fifo := [fk] })] }
     (s.seq 0).cur = none ∧ (s.seq 0).fifo = [fk] ∧ forkReady s fk = true) ∧
    (∀ i ∈ [Instr.mclaim (mq 0), .mrel (mq 0), .mzero { q0 with mode := 15 }], (((opState i 1).seq 0).running = none ∧
      ((opState i 1).seq 0).queue = [{ instr := i, value := 1 }])) ∧
    (let s := { st (.mzero q0) with seqs := [(0, { Sequencer.reset with running := some { instr := .mzero q0, value := 0 } })] }
     (s.seq 0).running.isSome = true ∧ (s.seq 0).ending = none) ∧
    ((st (.mzero q0)).die (0 / 40)).stopped = false ∧
    ({ State.reset with dies := [(0, { Die.reset with stopped := true })] }.die (0 / 40)).stopped = true :=
  ⟨⟨rfl, rfl, by decide +kernel⟩, fun _ _ => ⟨rfl, rfl⟩, ⟨rfl, rfl⟩, rfl, rfl⟩

/-! ### The SYSTEM page -/

/-- CSRRD of a number. -/
def csrrd_ (n : BitVec 15) : Instr := .csrrd { f0 with d := 2 } { m0 with off := n }
/-- CSRWR. -/
def csrwr_ (n : BitVec 15) : Instr := .csrwr { f0 with a := 4 } { m0 with off := n }
/-- A warp in its handler. -/
def inHandler (i : Instr) (held : List Entry) : Warp := { warpOf i with handler := 1, held := held }

theorem test_meets_ControlRegisters :
    (((Claims.csrTable (cx (csrrd_ 0))).map fun p => free (cx (csrrd_ (BitVec.ofNat 15 p.1)))).all id) = true ∧
    (((List.range 14 ++ [0x19, 0x20]).all fun n => free (cx (csrwr_ (BitVec.ofNat 15 n))) &&
      free (cxw (csrwr_ (BitVec.ofNat 15 n)) (inHandler (csrwr_ (BitVec.ofNat 15 n)) []))) = true) ∧
    (cx (csrwr_ 6)).act ≠ 0 ∧ (cx (csrwr_ 6)).w.tvec ≠ 0 ∧ free (cx (.csrwr { f0 with a := 4, pr := 0 } m0)) = true ∧
    (cx (.csrwr { f0 with a := 4, pr := 0 } m0)).act = 0 := by
  decide +kernel

/-- TRETURN. -/
def treturn_ : Instr := .treturn f0

theorem test_meets_TrapReturn :
    (free (cx treturn_) = true ∧ (cx treturn_).w.handler = 0 ∧ (cx treturn_).w.tvec ≠ 0) ∧
    (let w := { inHandler treturn_ [{ entryOf treturn_ with pc := 0x3000, mask := 2 }] with live := 3, graceHeld := some (0x3000, some 2) }
     free (cxw treturn_ w) = true ∧ w.handler &&& ~~~(entryOf treturn_).mask = 0 ∧ hasLane w.live 1 = true ∧
       ((w.frontier ++ w.held).all fun y => !hasLane y.mask 1 || decide (y.wait ≠ .rconv)) = true) ∧
    (let w := { apart treturn_ with handler := 3 }
     free (cxw treturn_ w) = true ∧ w.handler &&& ~~~(entryOf treturn_).mask ≠ 0 ∧ hasLane (w.handler &&& ~~~(entryOf treturn_).mask) 1 = true ∧
       (w.frontier.all fun y => !hasLane y.mask 1 || decide (y.wait ≠ .rconv)) = true) := by
  decide +kernel

/-- DBGBRK. -/
def dbgbrk_ : Instr := .dbgbrk { i0 with imm := 127 }
/-- SUSPQ. -/
def suspq_ : Instr := .suspq { f0 with d := 2 }

theorem test_meets_CountersBreaksAndSuspects :
    (([Instr.cycle { f0 with d := 2 }, .genq { f0 with d := 2 }, .sigrd { f0 with d := 2 }, .spstat { f0 with d := 2 }].all fun i => free (cx i)) = true) ∧
    (let clone := { warpOf (.spstat { f0 with d := 2 }) with round := { Round.idle with st := .running, ist := .speculative, inst := 1 } }
     let head := { clone with round := { clone.round with ist := .live, inst := 0, committed := 2 } }
     let x := ctxIn (.spstat { f0 with d := 2 }) clone { core0 clone with warps := [(0, clone), (1, head)] } wg0 launch0
     free x = true ∧ (x.k.warps.filter fun p => decide (p.2.wg = x.g ∧ p.2.round.st = .running ∧ p.2.round.owner = clone.round.owner ∧
       p.2.round.ist ≠ .speculative)).map Prod.fst = [1]) ∧
    (free (cx dbgbrk_) = true ∧ (cx dbgbrk_).act ≠ 0 ∧ (cx dbgbrk_).w.dbgatt = false ∧
      free (cxw dbgbrk_ { warpOf dbgbrk_ with dbgatt := true }) = true) ∧
    (free (cx (.dbgbrk { i0 with pr := 0 })) = true ∧ (cx (.dbgbrk { i0 with pr := 0 })).act = 0) ∧
    (free (cx suspq_) = true ∧ (cx suspq_).wg.cg = none) ∧
    (free (ctxIn suspq_ (warpOf suspq_) (core0 (warpOf suspq_)) { wg0 with cg := some 0 } launch0) = true) ∧
    (free (cx (.suspq { f0 with d := 2, pr := 0 })) = true ∧ (cx (.suspq { f0 with d := 2, pr := 0 })).act = 0) := by
  decide +kernel

/-- REGACQ of a number of blocks. -/
def regacq_ (n : BitVec 10) : Instr := .regacq { s0 with imm := n }
/-- REGREL. -/
def regrel_ : Instr := .regrel s0
/-- A warp of two blocks, with some more held. -/
def small (i : Instr) (ext : Nat) : Warp := { warpOf i with base := 2, ext := ext, blocks := [0, 1, 2, 3].take (2 + ext), genExt := 1 }

theorem test_meets_RegisterBlocks :
    ([1, 4].all fun n => free (cxw (regacq_ n) (small (regacq_ n) 0)) && decide ((small (regacq_ n) 0).base + n.toNat ≤ 6)) = true ∧
    ([0, 5].all fun n => free (cxw (regacq_ n) (small (regacq_ n) 0)) && decide (n.toNat = 0 ∨ 6 < (small (regacq_ n) 0).base + n.toNat)) = true ∧
    free (cxw (regacq_ 1) (small (regacq_ 1) 2)) = true ∧
    ([0, 2].all fun e => free (cxw regrel_ (small regrel_ e)) && decide ((small regrel_ e).round.st = .idle)) = true := by
  decide +kernel

/-- CKPT and ROLLBK. -/
def ckpt_ : Instr := .ckpt f0
/-- ROLLBK. -/
def rollbk_ : Instr := .rollbk f0
/-- A launch of a mode. -/
def modeLaunch (m : Nat) : Launch := { launch0 with rec_ := { placedRec with mode := m } }
/-- A context of it. -/
def cxm (i : Instr) (m : Nat) : Ctx := ctxIn i (warpOf i) (core0 (warpOf i)) wg0 (modeLaunch m)

theorem test_meets_CheckpointAndRollback :
    ([0, 1, 2].all fun m => free (cxm ckpt_ m) && decide ((cxm ckpt_ m).act ≠ 0)) = true ∧
    ([0, 1].all fun m => free (cxm rollbk_ m) && decide ((cxm rollbk_ m).act ≠ 0) && decide ((cxm rollbk_ m).l.phase = .running) &&
      decide ((cxm rollbk_ m).l.attempt < 3) && decide ((cxm rollbk_ m).wg.cg = none ∧ (cxm rollbk_ m).wg.twin = none ∧ (cxm rollbk_ m).wg.third = none) &&
      decide ((cxm rollbk_ m).wg.ck.rollbacks < 8) && !(cxm rollbk_ m).wg.ck.restoring && orderedMaps (st rollbk_) &&
      decide ((cxm rollbk_ m).k.copies = []) && !areaPoisoned (st rollbk_) (cxm rollbk_ m).wg &&
      decide (commitsOf (stateOf (core0 (warpOf rollbk_)) wg0 (modeLaunch m)) 0 = [])) = true ∧
    (let x := ctxIn rollbk_ (warpOf rollbk_) (copying (warpOf rollbk_) none) wg0 launch0
     free x = true ∧ x.act ≠ 0 ∧ x.k.copies.any (fun q => decide (q.wg = x.g)) = true) ∧
    ([Instr.ckpt { f0 with pr := 0 }, .rollbk { f0 with pr := 0 }].all fun i => free (cx i) && decide ((cx i).act = 0)) = true := by
  decide +kernel

/-! ### Speculative rounds -/

/-- SPBEGIN of the descriptor at scratchpad offset 0. -/
def spbegin_ : Instr := .spbegin { s0 with d := 2, a := 4 }
/-- SPGUESS of entry 1, the last one. -/
def spguess_ (last : Bool) : Instr := .spguess { s0 with imm := if last then 9 else 1 }
/-- SPCMP and SPEND. -/
def spcmp_ : Instr := .spcmp s0
/-- SPEND. -/
def spend_ : Instr := .spend s0
/-- A slice with a descriptor of one carry and width 2. -/
def loopCore (w : Warp) : Core := { core0 w with data := [(0, 1), (1, 2)], tags := [(0, 1)] }
/-- A warp in GUESSING with one clone reserved. -/
def guessing (i : Instr) : Warp :=
  { small i 0 with round := { Round.idle with st := .guessing, width := 2, nc := 1, entries := [(0, [0])], masks := [0, 0, 0, 0]
                                              reserved := [{ slot := 1, blocks := [4, 5], privBase := 0 }], ret := 0x2000 } }
/-- A warp in a round. -/
def running (i : Instr) (st : InstState) : Warp :=
  { small i 0 with round := { Round.idle with st := .running, width := 2, nc := 1, entries := [(0, [0]), (1, [0])], masks := [0, 0, 0, 0], ist := st, ret := 0x2000 } }
/-- Its successor. -/
def next1 (i : Instr) : Warp := { running i .speculative with round := { (running i .speculative).round with inst := 1 }, blocks := [4, 5] }
/-- A core with both. -/
def twoCore (i : Instr) (w : Warp) : Core := { core0 w with warps := [(0, w), (1, next1 i)] }

theorem test_meets_RoundBegins :
    let x := ctxIn spbegin_ (warpOf spbegin_) (loopCore (warpOf spbegin_)) wg0 launch0
    let s := stateOf (loopCore (warpOf spbegin_)) wg0 launch0
    let desc := loopDesc (ownNat s x 1 0 32)
    free x = true ∧ scalarSrc s x 4 = 0 ∧ desc.isSome = true ∧ x.w.round.st = .idle ∧ x.wg.gen = 1 ∧ x.wg.base = 0 ∧
      rangeStale x.k 1 0 32 = false ∧ ownBad s x 1 0 32 = false ∧ overlaps x (fun _ => 0xFF_0000_0000_0000) 32 false = false ∧
      (desc.bind fun d => findRoom s 0 (d.psize * 1024)).isSome = true ∧ x.w.sregs.length = 24 := by
  decide +kernel

theorem test_meets_RoundGuesses :
    (free (cxw (spguess_ false) (guessing (spguess_ false))) = true) ∧
    let w := guessing (spguess_ true)
    free (cxw (spguess_ true) w) = true ∧ w.round.st = .guessing ∧ w.pend = [] ∧
      gensReady (stw (spguess_ true) w) 0 (startGens w 1) = true ∧ ((0 : Nat) :: w.round.reserved.map Reserve.slot).Nodup ∧
      1 ≤ w.round.reserved.length := by
  decide +kernel

theorem test_meets_RoundCompares :
    (let x := cxw spcmp_ (running spcmp_ .live)
     free x = true ∧ speculative x.w = false ∧ x.w.round.cmpDone = false ∧ (successor x).isNone = true ∧
       gensReady (stw spcmp_ (running spcmp_ .live)) 0 (squashGens x) = true) ∧
    (let x := ctxIn spcmp_ (running spcmp_ .live) (twoCore spcmp_ (running spcmp_ .live)) wg0 launch0
     let s := stateOf (twoCore spcmp_ (running spcmp_ .live)) wg0 launch0
     free x = true ∧ orderedMaps s = true ∧ successor x = some (1, next1 spcmp_) ∧ carriesMatch x.w 1 = true ∧
       s.warp? 0 1 = some (next1 spcmp_)) ∧
    (let w := { running spcmp_ .live with sregs := List.replicate 24 1, round := { (running spcmp_ .live).round with masks := [1] } }
     carriesMatch w 1 = false ∧ free (ctxIn spcmp_ w (twoCore spcmp_ w) wg0 launch0) = true) ∧
    ([InstState.live, .continuing].all fun i => free (cxw spend_ (running spend_ i)) && !speculative (running spend_ i) &&
      gensReady (stw spend_ (running spend_ i)) 0 (squashGens (cxw spend_ (running spend_ i)))) = true := by
  decide +kernel

/-! ### Moves of the cores, and Vesper -/

/-- An unencoded instruction to fill a warp with. -/
def nop_ : Instr := .nop f0
/-- A state of one warp. -/
def one (w : Warp) : State := stw nop_ w
/-- A park record. -/
def parkOf (r : ParkReason) (ok : Bool) : Park :=
  { pc := 0x4000, clause := none, mask := 2, reason := r, va := 0x1_0000, space := 0, access := 1, resolved := ok, seq := 0, spill := none }

theorem test_meets_FrontierMoves :
    (let e := { entryOf nop_ with age := 1024 }
     let w := { warpOf nop_ with frontier := [e], nextSeq := 1 }
     (one w).warp? 0 0 = some w ∧ w.frontier[0]? = some e ∧ 1024 ≤ e.age ∧ e.aged = none ∧ (w.frontier.map Entry.pc).Nodup ∧
       ∀ y ∈ w.frontier, y.mask ≠ 0 ∧ y.aged = none) ∧
    (let w := { warpOf nop_ with hold := .sleep 0 }
     (one w).warp? 0 0 = some w ∧ w.hold = .sleep 0 ∧ 0 ≤ ((one w).core 0).cycle) ∧
    (∀ p ∈ [parkOf .overflow false, parkOf .xlateFault true, parkOf .xlateError false],
      (one { warpOf nop_ with parks := [p] }).warp? 0 0 = some { warpOf nop_ with parks := [p] } ∧
        ((warpOf nop_).frontier.length + (warpOf nop_).held.length ≤ 7)) ∧
    (warpOf nop_).tvec ≠ 0 ∧ (warpOf nop_).handler = 0 ∧ speculative (warpOf nop_) = false := by
  refine ⟨⟨rfl, rfl, by decide, rfl, by decide, by decide +kernel⟩, ⟨rfl, rfl, by decide⟩, fun p _ => ⟨rfl, by decide⟩, by decide, rfl, rfl⟩

/-- The core of a warp at a generation. -/
def genCore (w : Warp) (g : Nat) : Core := { core0 w with gen := g, sweepDone := g, sweepNow := g }

theorem test_meets_BlocksAndGenerations :
    (let k := { core0 (small nop_ 0) with regacq := [(0, [(0, 4)])] }
     let s := stateOf k wg0 launch0
     fget (s.core 0).regacq 0 = some [(0, 4)] ∧ s.warp? 0 0 = some (small nop_ 0) ∧ 4 ≤ (freeBlocks (s.core 0) 0).length ∧
       genReady s 0 = true) ∧
    risingFrom 0 ((stateOf (coreOne (warpOf nop_)) wg0 launch0).core 0).tags = true ∧
    (∀ a ∈ [AllocId.wg 0, .base 0, .ext 0, .priv 0],
      let w := { small nop_ 2 with round := { (running nop_ .live).round with psize := 1, privGen := 1, privBase := 8192 } }
      let s := stateOf (genCore w 16385) wg0 launch0
      (Claims.allocation s 0 a).isSome = true ∧ genReady s 0 = true) ∧ 16384 ≤ (16385 + 65536 - 1) % 65536 := by
  refine ⟨⟨rfl, rfl, by decide +kernel, by decide +kernel⟩, by decide +kernel, ?_, by decide⟩
  intro a ha
  simp only [List.mem_cons, List.not_mem_nil, or_false] at ha
  obtain rfl | rfl | rfl | rfl := ha <;> exact ⟨rfl, by decide +kernel⟩

/-- A package with a halted warp. -/
def haltedState : State := stateOf { coreOne { warpOf nop_ with halted := true } with rows := [(0, { tag := 1, data := List.replicate 32 7, dirty := false })] } wg0 launch0

theorem test_meets_DebugCommands :
    ((one (warpOf nop_)).warp? 0 0).isSome = true ∧ bootStopped haltedState = false ∧ ¬ Claims.debugged (one (warpOf nop_)) 0 (.row 0 0) ∧
    ¬ Claims.debugged (one (warpOf nop_)) 0 (.granule 0) ∧ Claims.debugged haltedState 0 (.row 0 95) ∧
    Claims.debugged haltedState 0 (.granule 0) ∧ Claims.debugged haltedState 0 (.granule 4095) ∧
    (memWf haltedState.cmem && memWf (haltedState.core 0).data && risingFrom 0 (haltedState.core 0).tags) = true ∧
    (rowAt (haltedState.core 0) 0).data.length = 32 ∧ (rowAt (haltedState.core 0) 0).tag < 65536 ∧ granTag (haltedState.core 0) 0 < 65536 := by
  refine ⟨rfl, rfl, ?_, ?_, ⟨_, rfl, rfl, by decide⟩, ⟨_, wg0, List.mem_singleton.mpr rfl, rfl, rfl, rfl, by decide, by decide⟩,
    ⟨_, wg0, List.mem_singleton.mpr rfl, rfl, rfl, rfl, by decide, by decide⟩, by decide +kernel, by decide +kernel, by decide +kernel,
    by decide +kernel⟩
  · rintro ⟨w, h, hh, _⟩
    cases h
    exact absurd hh (by decide)
  · rintro ⟨p, x, h, hh, _⟩
    cases List.mem_singleton.mp h
    exact absurd hh (by decide)

/-- An access of the companion. -/
def inAcc (k : InboundKind) (a n : Nat) : InboundAccess := { kind := k, addr := a, size := n, marked := false }

theorem test_meets_GracePeriods :
    (let s := { State.reset with devs := [(0, { Dev.reset with retire := [{ space := 0, act := 1, ph := 0, gseq := 1, size := 0, arg := 8, addr := 64 }] })] }
     (s.dev 0).span = false ∧ (s.dev 0).vesper.f = (s.dev 0).vesper.c ∧ wantsGrace s 0 (s.dev 0).vesper.c = true) ∧
    (let v := { Vesper.reset with f := 1, phase := 1 }
     let s := { State.reset with dies := [(0, { Die.reset with vesper := v })], devs := [(0, { Dev.reset with vesper := v })]
                                 cores := [(159, { Core.reset with f := 1 })] }
     (s.core 0).f ≠ (s.die 0).vesper.f ∧ (s.die 0).vesper.f ≠ (s.die 0).vesper.c ∧ 159 ∉ (s.die 0).vesper.acks ∧
       (s.core (0 * 160 + 159)).f = (s.die 0).vesper.f) ∧
    (let v := { Vesper.reset with f := 1, phase := 1, acks := List.range 160 }
     let s := { State.reset with dies := [(0, { Die.reset with vesper := v })], devs := [(0, { Dev.reset with vesper := { v with acks := [] } })] }
     (s.dev 0).span = false ∧ 0 ∈ diesOfDev s.pkg.mode 0 ∧ 0 ∉ (s.dev 0).vesper.acks ∧ (s.die 0).vesper.f = (s.dev 0).vesper.f ∧
       ∀ j, j < 160 → j ∈ (s.die 0).vesper.acks) ∧
    (let v := { Vesper.reset with f := 1, phase := 1, acks := List.range 160 }
     let s := { State.reset with dies := [(0, { Die.reset with vesper := v })]
                                 devs := [(0, { Dev.reset with vesper := { v with acks := [0, 1, 2, 3], poll := some 0, drained := [1, 2, 3] } })] }
     (∀ e ∈ diesOfDev s.pkg.mode (devOfDie s.pkg.mode 0), e ∈ (s.dev (devOfDie s.pkg.mode 0)).vesper.acks) ∧ v.poll = none ∧
       (∀ j ∈ List.range 160, cntOf s (0 * 160 + j) ((1 + 2 ^ 32 - 1) % 2) = 0) ∧ (s.die 0).parked0 = 0 ∧ (s.die 0).ck0 = 0 ∧
       (s.dev (devOfDie s.pkg.mode 0)).vesper.poll ≠ none) ∧
    (let s := { State.reset with cores := [(159, { Core.reset with cnt0 := 1 })] }
     cntOf s 159 0 ≠ 0) ∧
    (let v := { Vesper.reset with f := 1, acks := [0, 1, 2, 3], drained := [0, 1, 2, 3], poll := some 0 }
     let s := { State.reset with devs := [(0, { Dev.reset with vesper := v })] }
     v.f ≠ v.c ∧ (s.dev 0).span = false ∧ (∀ d ∈ diesOfDev s.pkg.mode 0, d ∈ v.acks ∧ d ∈ v.drained) ∧ v.poll = some v.moves) := by
  refine ⟨by decide +kernel, by decide +kernel, ⟨by decide +kernel, by decide +kernel, by decide +kernel, by decide +kernel, fun j h => List.mem_range.mpr h⟩,
    by decide +kernel, by decide +kernel, by decide +kernel⟩

/-! ### Requests at their homes -/

/-- A page table whose one leaf maps the first GiB of space 0, writable, to the second GiB of die 0. -/
def pageMem : Mem :=
  memWriteNat (memWriteNat (memWriteNat [] 0x1000 8 0x1_0001) 0x1_0000 8 (2 ^ 63 + 0x2_0000)) 0x2_0000 8 (2 ^ 63 + 2 ^ 62 + 2 ^ 55 + 0x4000_0000)
/-- A device that uses it. -/
def dev0 : Dev := { Dev.reset with sptbase := 0x1000, ftbase := 0x100_0000, wqtbase := 0x8000, rqbase := 0x9000, rqlog2n := 6 }
/-- Descriptor 1 of its work queues: four slots at virtual address 0x500, and these indices. -/
def queueMem (head tail : Nat) : Mem :=
  memWriteNat (memWriteNat (memWriteNat (memWriteNat pageMem 0x8040 8 0x500) 0x8048 8 (2 + 32)) 0x8050 8 head) 0x8058 8 tail
/-- Core 0's workgroup in that device. -/
def home (m : Mem) (net : List Req) : State :=
  { stateOf (core0 (warpOf nop_)) wg0 launch0 with mem := m, devs := [(0, dev0)], net := net }
/-- A lane's part of a request. -/
def laneOp (a d : Nat) : LaneOp := { lane := 0, at_ := a, data := d, swap := 0, va := a, keep := 0xFFFF_FFFF }
/-- A request of core 0. -/
def reqOf (k : ReqKind) (t : Target) (n : Nat) (ls : List LaneOp) : Req :=
  { id := 5, pc := 0x1004, hdr := 0x1000, core := 0, slot := 0, wg := 0, launch := 0, space := 0, inst := 1, owner := 0, path := .lane, kind := k,
    target := t, size := n, lanes := ls, pend := none, pred := none, cmd := none, acc := 0, release := false, waitReads := [], marks := [],
    external := false, sent := 0, inMesh := false, phase := 0, marked := false, via := none }

theorem test_meets_InboundAccesses :
    (let s := home pageMem []
     (s.aside = [] ∧ s.inWait = [] ∧ s.poison = [] ∧ (s.die 3).stopped = false ∧ memWf s.mem = true) ∧
     ([3 * 2 ^ 37 + Config.dieDram - 8, 0x40].all fun a => decide (a / 2 ^ 37 < 4 ∧ a % 2 ^ 37 + 8 ≤ Config.dieDram)) = true ∧
     ([4 * 2 ^ 37, Config.dieDram - 7].all fun a => decide (¬ (a / 2 ^ 37 < 4 ∧ a % 2 ^ 37 + 8 ≤ Config.dieDram))) = true ∧
     (inAcc (.write (List.replicate 8 7)) 0x40 8).addr = 0x40 ∧ (inAcc (.atomicAdd 8 7) 0x40 8).size = 8 ∧
     (inAcc (.cas 8 7 9) 0x40 8).size = 8 ∧ bootStopped s = false) ∧
    bootStopped { State.reset with pkg := { Package.reset with booterr := 3 } } = true ∧
    ((exportOf (home [] []) 0 1).valid = false ∧ ((home [] []).dev 0).fqen = false) ∧
    (let x : Export := { Export.reset with key := 7, space := 0, valid := true, size := 1, base := 0x3_0000 }
     let s := { home pageMem [] with exports := [(1, x)] }
     exportOf s 0 1 = x ∧ 0x40 + 8 ≤ x.size * 65536 ∧ regionOf (x.base + 0x40) = .paged ∧
       (inXlate s 0 x.space (x.base + 0x40) 8 1).2 = .ok 0x4003_0040 ∧
       (inXlate s 0 x.space (x.base + 0x40) 8 1).1.aside = [] ∧ (inXlate s 0 x.space (x.base + 0x40) 8 1).1.poison = [] ∧
       (x.key ≠ 8 ∧ x.size * 65536 < 0xFFFC + 8)) ∧
    (let x : Export := { Export.reset with key := 7, space := 0, valid := true, ring := true, size := 1, base := 0xFE_0000_0000_0100 }
     let g := { wg0 with chans := [(2, { st := .rx, endpoint := 2, ring := 0x100, size := 16, delivered := 0, received := 0, kept := 0, err := false })] }
     let s := { home pageMem [] with wgs := [(0, g)], exports := [(1, x)] }
     (exportOf s 0 1).ring = true ∧ (match exportRing s 0 1 7 0 (natOfBytes [1, 2, 3, 4]) with | .put _ => true | _ => false) = true) := by
  decide +kernel

theorem test_meets_RetireMoves :
    (let r := reqOf (.retire 1) (.node 0) 8 [laneOp 64 8]
     let s := home [] [r]
     arrived s r.id = some r ∧ fget s.wgs r.wg ≠ none ∧ memWf s.mem = true ∧
       apOf s 0 ((s.dev 0).rqbase + 32 * ((s.dev 0).rqtotal % 2 ^ (s.dev 0).rqlog2n)) = some 0x9000) ∧
    ((List.range 4).all fun a =>
      let e : RetireEntry := { space := 0, act := a, ph := 0, gseq := 1, size := 16, arg := if a = 0 then 1 else 8, addr := 64 }
      let s := { home (queueMem 3 5) [] with devs := [(0, { dev0 with retire := [e], vesper := { Vesper.reset with f := 1, c := 1 } })] }
      let s' := { s with mem := queueMem 1 5 }
      serialGe (s.dev 0).vesper.c e.gseq && memWf s.mem && !(s.dev 0).fqen &&
        (if a = 1 then decide ((awayXlate s 0 0 none 0 e.space e.arg true 2).2 = .ok 0x4000_0008) &&
            decide (apOf (awayXlate s 0 0 none 0 e.space e.arg true 2).1 0 0x4000_0008 = some 0x4000_0008)
         else if a = 0 then
          let d := wqDesc s 0 1
          wqOkDesc d && decide (wqCount d < 4) && decide (2 ^ d.log2n ≤ wqCount (wqDesc s' 0 1)) &&
            decide ((awayXlate s 0 (homeCore s 0 d.at_ / 160) (some (homeCore s 0 d.at_)) 0 d.space (wqSlot d d.tail) true 2).2 = .ok 0x4000_0510) &&
            decide (apOf s 0 (d.at_ + 24) = some 0x8058) && decide (fget (s.dev 0).wq 1 = none) && !wqOkDesc (wqDesc s 0 2)
         else true)) = true := by
  decide +kernel

theorem test_meets_HomeSliceAccesses :
    ([ReqKind.store, .load, .cas, .atom 0 0 true].all fun k =>
      let r := reqOf k (.mem 0x4000_0100) 4 [laneOp 0x4000_0100 7]
      let s := home pageMem [r]
      decide (arrived s r.id = some r) && decide (s.poison = []) &&
        decide (apOf s (devOfCore s r.core) 0x4000_0100 = some 0x4000_0100)) = true ∧
    wg0.left = [] ∧ wg0.laneQ = [] ∧ wg0.copyQ = [] := by
  decide +kernel

/-- An append region's descriptor: base 0x600, size 64, its heads. -/
def regionMem (chead shead : Nat) : Mem :=
  memWriteNat (memWriteNat (memWriteNat (memWriteNat pageMem 0x4000_0200 8 0x600) 0x4000_0208 8 64) 0x4000_0210 8 chead) 0x4000_0218 8 shead

/-- A request of one lane for a descriptor. -/
def descReq (k : ReqKind) (n a : Nat) : Req := reqOf k (.mem a) n [laneOp a 40]

theorem test_meets_HomeSliceQueues :
    ([(ReqKind.append, 16), (.ahead, 8), (.acommit, 8)].all fun p =>
      [(0, 40), (48, 64)].all fun h =>
        let r := descReq p.1 p.2 0x4000_0200
        let s := home (regionMem h.1 h.2) [r]
        let s0 := { s with net := [] }
        decide (arrived s r.id = some r) && memWf s.mem && decide (s.poison = []) && decide (apOf s 0 0x4000_0220 = some 0x4000_0220) &&
          decide (apOf s 0 0x4000_0218 = some 0x4000_0218) && decide (40 ≤ physNat s 0 0x4000_0218 8) &&
          decide (physNat s 0 0x4000_0208 8 = 64) &&
          decide (awayXlate s0 0 0 (some (homeCore s 0 0x4000_0200)) launch0.id 0 0x630 true 4 = (s0, .ok 0x4000_0630)) &&
          decide (wg0.left = [] ∧ wg0.laneQ = [] ∧ wg0.copyQ = [])) = true ∧
    ([(ReqKind.wqpush false, 3, 5), (.wqpush true, 3, 7), (.wqpop false, 3, 5), (.wqpop true, 5, 5)].all fun p =>
      let r := descReq p.1 16 0x8040
      let s := home (queueMem p.2.1 p.2.2) [r]
      let s0 := { s with net := [] }
      let d := wqDesc s 0 1
      decide (arrived s r.id = some r) && memWf s.mem && wqOkDesc d && decide (fget (s.dev 0).wq 1 = none) &&
        decide (d.at_ = 0x8040 ∧ (0x8040 - (s.dev 0).wqtbase) / 64 = 1) &&
        decide (awayXlate s0 0 0 (some (homeCore s 0 0x8040)) launch0.id d.space (wqSlot d d.tail) true 2 =
          (s0, .ok (0x4000_0000 + 0x500 + 16 * (d.tail % 4)))) &&
        decide (awayXlate s0 0 0 (some (homeCore s 0 0x8040)) launch0.id d.space (wqSlot d d.head) false 1 =
          (s0, .ok (0x4000_0000 + 0x500 + 16 * (d.head % 4))))) = true := by
  decide +kernel

theorem test_meets_SliceAccesses :
    ([ReqKind.store, .load, .cas, .atom 0 0 true].all fun k =>
      let o := laneOp 0x40 7
      let r := reqOf k (.slice 0 0x40) 4 [o]
      let s := home [] [r]
      decide (arrived s r.id = some r) && decide ((fget s.launches r.launch).map (fun l => l.rec_.genTrap) = some false) &&
        decide (allocAt s 0 r.launch o.at_ r.size = some (0, wg0)) && !unverifiedAt wg0 o.at_ r.size && memWf (s.core 0).data &&
        !slicePoison (s.core 0) wg0.gen o.at_ r.size &&
        decide (o.keep = 2 ^ (8 * r.size) - 1) && decide (allocAt s 0 r.launch 4096 r.size = none)) = true ∧
    ([0, 3, 4].all fun n =>
      let ch : Chan := { st := .rx, endpoint := 2, ring := 0x100, size := 16, delivered := n, received := 0, kept := 0, err := false }
      let g := { wg0 with chans := [(2, ch)] }
      let r := reqOf (.message 1) (.slice 0 0x100) 4 [laneOp 0x100 7]
      let s := { home [] [r] with wgs := [(0, g)] }
      decide (arrived s r.id = some r) && decide (ringAt s 0 0x100 (fun y => decide (y.launch = r.launch)) = some (0, g, 2, ch)) &&
        holdsSlot g && decide (modeOf s g = 0) && decide ((4 ≤ ch.delivered) = (n = 4)) &&
        decide (ringAt s 0 0x104 (fun y => decide (y.launch = r.launch)) = none)) = true := by
  decide +kernel

/-! ### Brine, responses, the mesh, launches -/

/-- A workgroup with entries at the head of each of its queues. -/
def brineWg : Wg :=
  let r := reqOf .store (.mem 0x4000_0100) 4 [laneOp 0x4000_0100 7]
  { wg0 with laneQ := [r], copyQ := [{ r with path := .copy }], chanQ := [{ r with path := .channel }], appQ := [{ r with path := .append }] }

theorem test_meets_BrineEntries :
    ([0, 999, 1000, 5000].all fun n =>
      let s := { home [] [] with wgs := [(0, brineWg)], cores := [(0, { core0 (warpOf nop_) with cycle := n })] }
      decide (modeOf s brineWg = 0) && [brineWg.laneQ, brineWg.copyQ, brineWg.chanQ, brineWg.appQ].all fun (q : List Req) =>
        decide (q.length = 1) && q.all fun r => decide (r.kind = .store ∧ r.core = brineWg.core ∧ r.acc = 0 ∧ r.marks = []) && !r.release &&
          !farBehind s brineWg r) = true ∧
    brineWg.blocked = none ∧ brineWg.doomed = [] ∧ ((home [] []).core 0).frozen = false ∧ ((home [] []).die 0).stopped = false ∧ 0 < Config.strikeWindow := by
  decide +kernel

/-- A returning access of lane 0 to v3. -/
def pend0 : Pending :=
  { id := 9, mask := 1, act := 1, pc := 0x1004, clause := none, dest := .group (some 3) 4 false, pred := none, want := 1, got := [], preds := []
    fail := none, acquire := false, bytes := [], issued := 0, holds := false }
/-- A message for it. -/
def msgOf (k : MsgKind) (p : Option Nat) : Msg :=
  { kind := k, core := 0, slot := 0, wg := 0, req := 5, path := .lane, pend := p, cmd := none, values := [(0, 77)], preds := [], lane := 0
    cause := 17, addr := 64, src := 0, flits := 0 }

theorem test_meets_Responses :
    ([(MsgKind.ack, none), (.value, some 9), (.error, some 9), (.error, none)].all fun p =>
      let m := msgOf p.1 p.2
      let w := { warpOf nop_ with pend := [pend0] }
      let g := { wg0 with left := if p.1 = .value then [] else [reqOf .store (.mem 0x100) 4 [laneOp 0x100 7]] }
      let s := { stateOf (core0 w) g launch0 with msgs := [m] }
      decide (s.msgs[0]? = some m) && !(s.die (dieOf g.core)).stopped && orderedMaps s && decide (g.phase = .resident) &&
        decide (g.ck.ext = none ∧ g.ck.committed.warps = []) && !partLeft s m.req && decide (s.warp? g.core m.slot = some w) && !speculative w &&
        decide (w.tvec ≠ 0) && decide (w.handler = 0) && decide (w.derr.length = 32)) = true ∧
    (∀ l, hasLane pend0.want l = true → (msgOf .value (some 9)).values.lookup l ≠ none) ∧
    ([0, 20000000].all fun n =>
      let r := reqOf .store (.peer 0 0 Window.reset 0) 4 [laneOp 0 7]
      let w := warpOf nop_
      let s := { home [] [r] with cores := [(0, { core0 w with cycle := n })] }
      decide ((s.net ++ s.aside).find? (fun q => decide (q.id = r.id)) = some r) && decide (s.warp? 0 r.slot = some w) && orderedMaps s &&
        decide (r.sent + w.timeoutCyc ≤ n ↔ n ≠ 0) && !(s.dev (devOfCore s r.core)).fqen &&
        decide (w.derr.getD 0 none = none ∧ 0 < w.derr.length)) = true := by
  refine ⟨by decide +kernel, at_zero rfl (by decide +kernel), by decide +kernel⟩

/-- An acknowledged store ends the forwarding of the bytes it wrote over in an older one (R81). -/
theorem test_performed_supersedes :
    let r := reqOf .store (.mem 0x102) 2 [{ laneOp 0x102 7 with keep := 0xFFFF }]
    (performed [{ reqOf .store (.mem 0x100) 4 [laneOp 0x100 7] with id := 4 }, r] 5).map (fun q => q.lanes.map LaneOp.keep) = [[0xFFFF]] := by
  decide +kernel

/-- A packet at a router. -/
def packet (n age : Nat) : Packet := { req := 5, back := false, more := [], vc := 0, flits := n, dx := 3, dy := 0, age := age, urgent := none }
/-- A die with packets at the first router. -/
def meshDie (qs : FMap (List Packet)) (h : Option (Nat × Nat × Nat)) : Die :=
  { Die.reset with routers := [(0, { inq := qs, outs := (List.range 5).map fun o => (o, { holder := h, vc := 0, grants := 0, last := [0, 0, 0, 0], cycle := none }), full := false })] }

theorem test_meets_MeshRouting :
    ([1, 5].all fun n =>
      let s := { State.reset with dies := [(0, meshDie [(0, [packet n 0]), (16, [packet n 0])] none)] }
      let r := outOf (routerOf (s.die 0) 0 0)
      !(s.die 0).stopped && risingFrom 0 (routerOf (s.die 0) 0 0).inq &&
        [0, 1, 2, 3, 4].any fun o => decide ((r o).cycle ≠ some (s.die 0).cycle) && decide ((r o).holder = none) &&
          !(eligibles (urgeHeads (s.die 0) 0 0 o) 0 0 o).isEmpty) = true ∧
    (let s := { State.reset with dies := [(0, meshDie [] (some (0, 0, 2)))] }
     (outOf (routerOf (s.die 0) 0 0) 4).holder = some (0, 0, 2) ∧ (outOf (routerOf (s.die 0) 0 0) 4).cycle ≠ some (s.die 0).cycle ∧
       risingFrom 0 (routerOf (s.die 0) 0 0).inq = true) ∧
    (let p := { packet 1 0 with back := true, vc := 2, dx := 0 }
     let s := { State.reset with dies := [(0, meshDie [(2, [p])] none)], msgs := [{ msgOf .ack none with flits := 1 }] }
     (eligibles (urgeHeads (s.die 0) 0 0 0) 0 0 0 = [(0, 2, p)] ∧ nextHop 0 0 0 = none ∧ risingFrom 0 (routerOf (s.die 0) 0 0).inq = true)) ∧
    (let s := { State.reset with dies := [(0, meshDie [(0, [packet 1 32])] none)] }
     inQueue (routerOf (s.die 0) 0 0) 0 0 = [packet 1 32] ∧ 32 ≤ (packet 1 32).age ∧
       (outOf (routerOf (s.die 0) 0 0) (routeOut 0 0 (packet 1 32))).cycle ≠ some (s.die 0).cycle) := by
  decide +kernel

/-- A device with its areas placed. -/
def areaDev : Dev := { dev0 with spillbase := [(0, 0x10_0000)], stagebase := [(0, 0x20_0000)], poolqbase := [(0, 0x30_0000)], poolqlog2n := [(0, 8)] }
/-- A launch of one workgroup, not yet admitted. -/
def fresh0 : Launch := { launch0 with next := 0 }
/-- A package with that launch and an empty core. -/
def emptyPkg (k : Core) (l : Launch) : State :=
  { State.reset with cores := [(0, k)], devs := [(0, areaDev)], launches := [(0, l)], nextWg := 1, nextLaunch := 1, mem := pageMem }

theorem test_meets_WorkgroupAdmission :
    (let s := emptyPkg Core.reset fresh0
     fget s.launches 0 = some fresh0 ∧ fresh0.phase = .running ∧ fresh0.rec_.kind = 0 ∧ fresh0.rec_.cgsize = 0 ∧ fresh0.rec_.mode = 0 ∧
       fresh0.next < launchSize fresh0.rec_ ∧ devOfCore s 0 = fresh0.dev ∧ areasOk s 0 fresh0.rec_ = true ∧ 1 ≤ fresh0.rec_.base ∧
       (s.dev 0).ckptUsed ≤ (s.dev 0).ckptsize ∧ (admitOne s 0 fresh0 0 0 none).isSome = true) := by
  decide +kernel

/-- A pool launch. -/
def poolLaunch (va : Double) : Launch :=
  { launch0 with rec_ := { placedRec with kind := 2, roots := va, proots := 1, pncore := 1 }, next := 1 }
/-- Its workgroup. -/
def poolWg : Wg := { wg0 with pool := true, slots := 4, nwarps := 4 }
/-- A core with 32 records in a bin. -/
def binCore : Core := { Core.reset with bins := [(0, { launch := 0, code := 0x1000, recs := List.replicate 32 (0, 0x1_0000, 0x2_0000) })] }

theorem test_meets_PoolWarps :
    ([(0x700 : Double), 0x8000_0000_0000_0000, 0x1_0000_0000].all fun va =>
      let x := poolLaunch va
      let s := { emptyPkg Core.reset x with wgs := [(0, poolWg)] }
      decide (fget s.launches 0 = some x) && !x.rootsPushed && decide (x.rec_.pncore ≤ x.next) && orderedMaps s &&
        ((diesOfDev s.pkg.mode x.dev).all fun d => decide (poolTotal s d + joinsOut s d + rootsOn s x.dev x.rec_ d ≤ poolSlots s d)) &&
        decide (rootAt s x.dev x.rec_.space x.rec_.roots.toNat = if va = 0x700 then some (0, 0, 0) else none) &&
        decide (rootCore s x.dev x.rec_ 0 = some 0) && decide (binFor (s.core 0) 0 0 = some 0)) = true ∧
    (let s := { emptyPkg Core.reset (poolLaunch 0x700) with mem := memWriteNat pageMem 0x4000_0700 8 2 }
     rootAt s 0 0 0x700 = some (2, 0, 0)) ∧
    (let s := { emptyPkg binCore (poolLaunch 0x700) with wgs := [(0, poolWg)] }
     ∃ b, fget (s.core 0).bins 0 = some b ∧ (binReady (s.core 0) b).isSome = true ∧ (s.core 0).bins.length = 1 ∧
       (poolWgFor s 0 0).map (fun p => (p.1, p.2.1)) = some (0, poolWg) ∧ (newPlace (s.core 0) 6).isSome = true ∧ genReady s 0 = true ∧
       clockRuns s 0 = true ∧ b.recs.length ≤ 32 ∧ (s.die 0).poolOwner = []) := by
  refine ⟨by decide +kernel, by decide +kernel, ⟨_, rfl, by decide +kernel⟩⟩

theorem test_meets_LaunchEnds :
    ([(0 : Double), 0x40, 0x9000_0000_0000, 0x8000_0000_0000_0040].all fun c =>
      [LaunchPhase.running, .ended].all fun p =>
        let x := { launch0 with comp := c, phase := p, status := if p = .ended then 2 else 0 }
        let s := { State.reset with launches := [(0, x)], wgs := [(0, { wg0 with phase := .ended, ended := 1 })], nextWg := 1, nextLaunch := 1 }
        decide (fget s.launches 0 = some x) && orderedMaps s && memWf s.cmem && !launchBusy s 0 && !launchAsides s 0 && memWf s.mem &&
          decide (apOf s x.dev c.toNat = if c = 0 ∨ c = 0x40 then some c.toNat else none) && decide (x.rec_.kind ≠ 2) && (launchDone s 0 x || decide (p = .ended ∧ x.status < 256 ∧ x.status ≠ 1 ∧ x.cause = 0)) && !x.double) = true ∧
    ([(LaunchPhase.pending, 0), (.running, 2), (.running, 3)].all fun p =>
      let x := { launch0 with phase := p.1, attempt := p.2 }
      let s := { State.reset with launches := [(0, x)], nextWg := 1, nextLaunch := 1 }
      decide (launchOfId s 0 1 = some (0, x)) && orderedMaps s && devOpen s 0) = true ∧
    ([[], [({ item := 0x5_0000, page := 0x9_0000, queue := 0 } : SnapItem)]].all fun g =>
      let x := { launch0 with phase := .replaying, log := g }
      let s := { State.reset with launches := [(0, x)], nextLaunch := 1 }
      decide (fget s.launches 0 = some x) && !launchBusy s 0 && !launchAsides s 0 && decide (s.poison = []) && memWf s.mem &&
        g.all fun i => decide (apOf s 0 i.item = some 0x5_0000 ∧ apOf s 0 i.page = some 0x9_0000)) = true := by
  decide +kernel

/-! ### Contexts, checkpoints, twins and the pager -/

/-- A core whose warp has two valid rows and a valid granule. -/
def liveCore (w : Warp) : Core :=
  { core0 w with
    rows := [(0, { tag := w.genBase, data := List.replicate 32 7, dirty := true }), (3, { tag := w.genBase, data := List.replicate 32 9, dirty := false })]
    tags := [(0, wg0.gen)]
    data := [(1, 5)] }
/-- A launch of a guarded mode. -/
def launchIn (mode : Nat) : Launch := { launch0 with rec_ := { placedRec with mode := mode } }
/-- A package with that core, its save pool and areas. -/
def guardState (w : Warp) (g : Wg) (mode : Nat) : State :=
  { stateOf (liveCore w) g (launchIn mode) with devs := [(0, { areaDev with savesize := 1000, ckptsize := 1000 })] }
/-- The image of the one warp. -/
def image0 : WgImage := captureWg (guardState (warpOf nop_) wg0 0) 0 wg0
/-- Every row of an image lies in its warp. -/
def rowsFit (im : WgImage) : Bool :=
  decide (im.rows.map fun r => (r.1, r.2.1)).Nodup &&
    im.warps.all fun p => im.rows.all fun r => decide (p.1 = r.1 → r.2.1 < 16 * (p.2.base + p.2.ext))

theorem fits {im : WgImage} (h : rowsFit im = true) :
    (im.rows.map fun r => (r.1, r.2.1)).Nodup ∧
      ∀ old w r data, (old, w) ∈ im.warps → (old, r, data) ∈ im.rows → r < 16 * (w.base + w.ext) := by
  simp only [rowsFit, Bool.and_eq_true, List.all_eq_true, decide_eq_true_eq] at h
  exact ⟨h.1, fun old w r data hw hr => h.2 (old, w) hw (old, r, data) hr rfl⟩

/-- A workgroup as plain as wg0 in a phase. -/
def wgIn (p : WgPhase) : Wg := { wg0 with phase := p }

theorem test_meets_ContextMoves :
    (let s := guardState (warpOf nop_) (wgIn .resident) 0
     orderedMaps s = true ∧ (s.core 0).copies = [] ∧ (s.dev 0).saveUsed + 64 ≤ (s.dev 0).savesize ∧ wg0.ck.restoring = false ∧
       (((s.core 0).warps.all fun p => decide (p.2.round.st ≠ .running ∧ p.2.round.ist ≠ .speculative)) = true) ∧
       (4096 + 2048 * 6 + wg0.size + 65535) / 65536 ≤ 64) ∧
    (let s := guardState (warpOf nop_) (wgIn .stopping) 0
     orderedMaps s = true ∧ (s.core 0).copies = [] ∧ ((s.core 0).warps.all fun p => p.2.pend.isEmpty && p.2.tokens.all fun t => decide (t.count = 0)) = true ∧
       (s.devs.all fun p => p.2.wq.isEmpty) = true) ∧
    (let x := { wgIn .saved with image := some image0 }
     let s := { guardState (warpOf nop_) x 0 with cores := [] }
     devOfCore s 3 = (launchIn 0).dev ∧ matrixFree s 3 (launchIn 0).rec_.space = true ∧ findRoom s 3 x.size = some 0 ∧ rowsFit image0 = true ∧
       image0.rows.length = 2 ∧ image0.warps.length = 1 ∧
       (putImage ((clearMatrix s 3 (launchIn 0).rec_.space false).updWg 0 fun y =>
          { y with phase := .resident, image := none, base := 0, core := 3 }) 0 3 0 image0).isSome = true) := by
  refine ⟨by decide +kernel, by decide +kernel, by decide +kernel⟩

/-- A guarded workgroup whose checkpoint is in a phase. -/
def ckWg (p : CkPhase) : Wg :=
  { wg0 with
    ck := { Ckpt.fresh with
      phase := p, again := decide (p = .idle), ackAt := some 0, pending := some image0, ext := some 0
      extAt := if p = .idle then 0 else 2 } }

theorem test_meets_Checkpoints :
    ([CkPhase.idle, .stopping, .capturing 40, .taken].all fun p =>
      let s := guardState (warpOf nop_) (ckWg p) 1
      let busy := guardState { warpOf nop_ with pend := [pend0] } (ckWg p) 1
      decide (fget s.wgs 0 = some (ckWg p)) && decide ((launchIn 1).rec_.mode = 1) && decide ((ckWg p).phase = .resident) &&
        !(ckWg p).ck.restoring && wgQuiet s 0 (ckWg p) && decide ((ckWg p).ended < (ckWg p).nwarps) &&
        decide ((s.core 0).copies = []) && (busy.core 0).warps.any fun q => decide (q.2.wg = 0 ∧ q.2.round.st ≠ .running ∧
          q.2.round.ist ≠ .speculative) && q.2.pend.any fun r => !ofAtomic (ckWg p).laneQ r) = true ∧
    ([0, 39, 40, 999, 1000, 65535, 65536].all fun n =>
      decide (({ (guardState (warpOf nop_) (ckWg .taken) 1) with cores := [(0, { liveCore (warpOf nop_) with cycle := n })] }.core 0).cycle = n)) = true ∧
    (ckWg .taken).ck.tau + Config.strikeWindow < 65535 ∧ (ckWg .taken).ck.lastTaken + 65536 ≤ 65536 ∧ (ckWg .taken).ck.lapsed = false ∧
    (ckWg .taken).ck.ext = some 0 ∧ (ckWg .taken).ck.extAt = 2 := by
  refine ⟨by decide +kernel, by decide +kernel, by decide, by decide, rfl, rfl, rfl⟩

/-- A twin, its checkpoint taken with this sum. -/
def twinWg (other core : Nat) (sum : Double) (n : Nat) : Wg :=
  { ckWg .taken with core := core, twin := some other, primary := decide (core = 0), ck := { (ckWg .taken).ck with sigmaAt := sum, mismatches := n, ext := none, extAt := 0 } }
/-- Twins on cores 0 and 4. -/
def twins (n : Nat) : State :=
  { guardState (warpOf nop_) wg0 2 with
    wgs := [(0, twinWg 1 0 7 n), (1, twinWg 0 4 8 n)]
    nextWg := 2
    cores := [(0, { Core.reset with cycle := 2000 }), (4, { Core.reset with cycle := 2000 })] }

theorem test_meets_StrikesAndVotes :
    (let s := guardState (warpOf nop_) wg0 0
     orderedMaps s = true ∧ dieOf 0 = 0 ∧ coreStanding s 0 0 0 = some 0 ∧ coreStanding s 0 16 0 = none ∧ (launchIn 0).phase = .running ∧ (launchIn 0).attempt < 3) ∧
    (let x := { wg0 with ck := Ckpt.fresh }
     let s := guardState (warpOf nop_) x 1
     coreStanding s 0 16 9 = none ∧ s.wgs = [(0, x)] ∧ x.ck.ready = false ∧ x.ck.extBusy = false ∧ x.ck.popped = false ∧ x.ck.extWindow = none ∧ x.ck.rollbacks < 8 ∧ x.core < (0 + 1) * 160 ∧
       x.ck.ackAt = none ∧ areaPoisoned s x = false) ∧
    ([[], [(0x4000, 16)]].all fun f =>
      let x := { wg0 with ck := { Ckpt.fresh with restoring := true, committed := image0, firstOffsets := f } }
      let s := { guardState (warpOf nop_) x 1 with cores := [] }
      decide (fget s.wgs 0 = some x) && decide (x.ck.firstOffsets.length ≤ 1) && decide (x.left = [] ∧ x.appQ = []) &&
        !areaPoisoned s x &&
        (putImage s 0 0 x.base x.ck.committed).isSome && memWf s.mem && decide (x.ck.committed.seq = none) &&
        decide (apOf s 0 (0x4000 + 24) = some 0x4018)) = true ∧
    rowsFit image0 = true ∧
    (let s := twins 0
     fget s.wgs 0 = some (twinWg 1 0 7 0) ∧ fget s.wgs 1 = some (twinWg 0 4 8 0) ∧ (launchIn 2).rec_.mode = 2 ∧
       ([twinWg 1 0 7 0, twinWg 0 4 8 0].all fun z => decide (z.ck.phase = .taken) && !z.ck.restoring && !areaPoisoned s z &&
         decide (z.ck.rollbacks < 8) && decide (z.ck.tau + Config.strikeWindow < (s.core z.core).cycle) &&
         decide (z.ck.ackAt = some 0)) = true) ∧
    (let s := twins 2
     clusterOf s 8 ≠ clusterOf s 0 ∧ clusterOf s 8 ≠ clusterOf s 4 ∧ devOfCore s 8 = devOfCore s 0 ∧ (twinWg 1 0 7 2).ck.mismatches = 2 ∧
       (thirdOne s 0 8 none).isSome = true ∧ areaPoisoned s (twinWg 1 0 7 2) = false ∧ (twinWg 1 0 7 2).primary = true) := by
  refine ⟨by decide +kernel, ⟨by decide +kernel, rfl, rfl, rfl, rfl, rfl, by decide, by decide, rfl, by decide +kernel⟩, by decide +kernel, by decide +kernel, by decide +kernel, by decide +kernel⟩

/-- A walk of a lane that waits. -/
def walkOf (va : Nat) : Walk := { slot := 0, entry := 0x1004, space := 0, va := va, access := 1, lanes := 1 }

theorem fget_mem {α : Type} {m : FMap α} {i : Nat} {x : α} (h : fget m i = some x) : (i, x) ∈ m := by
  induction m with
  | nil => simp [fget] at h
  | cons p m ih =>
    simp only [fget] at h
    split at h
    · next e => cases h; exact e ▸ List.mem_cons_self ..
    · split at h
      · cases h
      · exact List.mem_cons_of_mem _ (ih h)

theorem none_wait {s : State} (h : (s.cores.all fun p => p.2.copies.isEmpty) = true) (h' : s.seqs = []) : Claims.noneWait s := by
  refine ⟨fun c => ?_, fun c => by simp only [State.seq, h']; rfl⟩
  simp only [List.all_eq_true, List.isEmpty_iff] at h
  simp only [State.core]
  cases hk : fget s.cores c with
  | none => rfl
  | some k => exact h (c, k) (fget_mem hk)

theorem test_meets_WalksAndResolves :
    ([0x500, 0x1_4000_0000].all fun va =>
      let w := { warpOf nop_ with frontier := [{ entryOf nop_ with wait := .walk }] }
      let s := { home pageMem [] with cores := [(0, { core0 w with walks := [walkOf va] })] }
      decide ((s.core 0).walks = [walkOf va]) && decide (s.warp? 0 0 = some w) && decide ((w.frontier.map Entry.pc).Nodup) &&
        !(s.dev 0).fqen && decide ((s.dev 0).fqknown = []) && !(s.die (dieOf 0)).stopped &&
        (match walkPage s 0 0 va with | .leaf .. => decide (va = 0x500) | .bad kind .. => decide (va ≠ 0x500) && decide (kind = 1))) = true ∧
    Claims.noneWait (home pageMem []) ∧ devOpen (home pageMem []) 0 = true := by
  exact ⟨by decide +kernel, none_wait (by decide +kernel) rfl, by decide +kernel⟩

theorem test_meets_PagerRegisters :
    (let s := { State.reset with devs := [(0, { dev0 with invals := [{ kind := 0, va := 0x500, space := 0, size := 0 }] })] }
     (s.dev 0).invals = [{ kind := 0, va := 0x500, space := 0, size := 0 }] ∧ devOpen s 0 = true ∧ devOpen s 1 = false) ∧
    (let r : FaultRec := { addr := 64, launch := 0, space := 0, core := 0, info := 0, access := 0, sub := 0, kind := 1, entry := none }
     let s := { State.reset with devs := [(0, { dev0 with fqwait := [r], fqen := true, fqlog2n := 6 })] }
     (s.dev 0).fqwait = [r] ∧ (s.dev 0).fqprod + 1 ≤ 0 + 2 ^ (s.dev 0).fqlog2n ∧ memWf s.cmem = true ∧ devOpen s 0 = true) ∧
    (devOpen State.reset 0 = true ∧ (State.reset.dev 0).fqen = false ∧ (State.reset.dev 0).fqwait = []) := by
  decide +kernel

/-- A page-in. -/
def pageIn0 (near : Option Nat) : PageIn :=
  { space := 0, va := 0x3_0000, size := 65536, far := 0x6000_0000, near := near, queue := 1, pte := 2 ^ 63 + 2 ^ 62 + 2 ^ 55 + 0x4000_0000, pteAt := 0x2_0000, core := 0 }
/-- A page table whose leaf is a snapshot page. -/
def snapMem : Mem := memWriteNat pageMem 0x2_0000 8 (2 ^ 63 + 2 ^ 62 + 2 ^ 55 + 2 ^ 54 + 0x4000_0000)
/-- A copy-aside. -/
def aside0 : Aside :=
  { space := 0, va := 0x3_0000, pte := 2 ^ 63 + 2 ^ 62 + 2 ^ 55 + 2 ^ 54 + 0x4000_0000, pteAt := 0x2_0000, item := some 0x7000_0000, queue := 1,
    launch := 0, core := 0, byLaunch := 1, access := 2 }
/-- Does a pop of device 0's work queue q give an item? -/
def pops (s : State) (q launch : Nat) : Bool := match poolPop s 0 q launch with | .item .. => true | _ => false

theorem test_meets_PageMoves :
    (let s := { home (queueMem 3 5) [] with devs := [(0, { dev0 with pageins := [pageIn0 none] })] }
     Claims.noneWait s ∧ (s.dev 0).pageins[0]? = some (pageIn0 none) ∧ pops s 1 0 = true) ∧
    (let s := home (queueMem 3 3) []
     wqOkDesc (wqDesc s 0 1) = true ∧ wqCount (wqDesc s 0 1) = 0) ∧
    (let s := { home pageMem [] with devs := [(0, { dev0 with pageins := [pageIn0 (some 0x7000_0000)] })] }
     Claims.noneWait s ∧ retireRoom s 0 ≠ 0 ∧ memWf s.mem = true ∧ (pageIn0 none).size < 2 ^ 32 ∧ apOf s 0 0x6000_0000 = some 0x6000_0000 ∧
       apOf s 0 0x7000_0000 = some 0x7000_0000 ∧ apOf s 0 0x2_0000 = some 0x2_0000 ∧
       apOf s 0 ((s.dev 0).rqbase + 32 * ((s.dev 0).rqtotal % 2 ^ (s.dev 0).rqlog2n)) = some 0x9000 ∧
       Claims.apart 0x6000_0000 65536 0x7000_0000 65536 ∧ Claims.apart 0x7000_0000 65536 0x2_0000 8 ∧ Claims.apart 0x7000_0000 65536 0x9000 32 ∧
       Claims.apart 0x2_0000 8 0x9000 32 ∧ memNat s.mem 0x2_0000 8 = (pageIn0 none).pte.toNat) ∧
    (let l := { launch0 with pages := [(0x2_0000, 0x4000_0000)] }
     let s := { home snapMem [] with devs := [(0, { dev0 with asides := [aside0] })], launches := [(0, l)] }
     Claims.noneWait s ∧ walkPage s 0 0 0x3_0000 = .leaf aside0.pte aside0.pteAt (2 ^ 30) ∧ aside0.pte.getLsbD 54 = true ∧
       snapLaunch s 0 aside0.pteAt ≠ none ∧ memWf s.mem = true ∧ apOf s 0 (pteAddr aside0.pte) = some 0x4000_0000 ∧
       apOf s 0 0x7000_0000 = some 0x7000_0000 ∧ physNat s 0 aside0.pteAt 8 = aside0.pte.toNat ∧
       Claims.apart 0x4000_0000 65536 0x7000_0000 65536 ∧ Claims.apart 0x4000_0000 65536 0x2_0000 8 ∧ Claims.apart 0x7000_0000 65536 0x2_0000 8) ∧
    (let s := { home (queueMem 3 5) [] with devs := [(0, { dev0 with returns := [(1, 0x7000_0000, 0)] })] }
     (s.dev 0).returns = [(1, 0x7000_0000, 0)] ∧ (poolPush s 0 1 0x7000_0000 0).2 = true ∧
       (poolPush { s with mem := queueMem 1 5 } 0 1 0x7000_0000 0).2 = false) := by
  refine ⟨⟨none_wait (by decide +kernel) rfl, by decide +kernel⟩, by decide +kernel,
    ⟨none_wait (by decide +kernel) rfl, by unfold Claims.apart; decide +kernel⟩,
    ⟨none_wait (by decide +kernel) rfl, by unfold Claims.apart; decide +kernel⟩, by decide +kernel⟩

/-! ### Command queues and the module -/

/-- A queue in order, at work on a packet. -/
def queueOf (p : Option QPacket) : CQueue := { CQueue.reset with en := true, state := 1, log2n := 4, qbase := 0x10_0000, kick := 3, ridx := 2, cur := p }
/-- A packet of a type and body. -/
def packetOf (t body : Nat) : QPacket := { type := t, first := 2, slots := 1, body := body, launch := none, grace := none }
/-- A package that has booted, with that queue. -/
def booted (m : Mem) (q : CQueue) : State :=
  { State.reset with
    pkg := { Package.reset with stage := 6 }
    mem := m
    devs := [(0, areaDev)]
    queues := [(1, q)] }

theorem test_meets_CommandQueues :
    (let s := booted [] (queueOf none)
     0 < 4 / devDies s.pkg.mode ∧ s.pkg.stage = 6 ∧ 4 ≤ ({ (queueOf none) with en := false } : CQueue).log2n ∧ (queueOf none).qbase % 64 = 0 ∧
       3 ≤ (s.queue 0 1).kick ∧ (s.queue 0 1).kick < 18 ∧ 18 ≤ (s.queue 0 1).ridx + 2 ^ (s.queue 0 1).log2n ∧
       (s.queue 0 1).ridx + 2 ^ (s.queue 0 1).log2n < 19) ∧
    ([0x0107, 0x0100].all fun b =>
      let s := { booted [] (queueOf none) with cmem := memWriteNat [] 0x10_0080 64 b, dies := [(0, { Die.reset with turn := some 1 })] }
      queueReady s 0 1 && !dieBusy s 0 1 && decide ((s.die 0).turn = some 1) && decide ((queueOf none).slice = 0) &&
        decide (slotsNat s (queueOf none) 2 1 = b) && decide ((packetErr s 0 b = 0) = (b = 0x0107))) = true := by
  decide +kernel

/-- A launch packet whose record names one small workgroup, of a kind and with a first grid length. -/
def launchPacket_ (kind n : Nat) : QPacket :=
  packetOf 1 (1 + 5 * 256 + (n * 2 ^ 256 + 2 ^ 288 + 2 ^ 320 + 2 ^ 384 + 6 * 2 ^ 389 + kind * 2 ^ 392) * 2 ^ 512)

theorem test_meets_LaunchPackets :
    ([(0, 0), (1, 1000000), (0, 1), (1, 1)].all fun p =>
      let x := launchPacket_ p.1 p.2
      let s := booted [] (queueOf (some x))
      let r := recOf (x.body / 2 ^ 512 % 2 ^ 2048)
      decide ((s.queue 0 1).cur = some x) && !(s.queue 0 1).lapsed && decide ((s.dev 0).dawn = []) && orderedMaps s && decide (r.snapset = 0) &&
        decide (r.kind = p.1) && decide (recInvalid r = decide (p.2 = 0)) && decide (noResidence s 0 r = decide (p.2 = 1000000))) = true := by
  decide +kernel

/-- The body of a packet with doubles at offsets 8, 16 and 24. -/
def bodyOf (a b c : Nat) : Nat := a * 2 ^ 64 + b * 2 ^ 128 + c * 2 ^ 192

theorem test_meets_PacketEffects :
    ([(2, bodyOf 0x100 0 0), (2, bodyOf 0x100 5 0), (2, bodyOf 0x100 5 1), (3, bodyOf 0x100 5 1), (4, bodyOf (2 ^ 63) (2 ^ 63 + 64) 9),
      (5, bodyOf 0x100 0x200 64), (7, 0), (6, bodyOf 0x100 1 0), (6, bodyOf 0x1_0000 1 0), (8, bodyOf (2 ^ 63) 0 0)].all fun p =>
      let x := packetOf p.1 p.2
      let s := booted (memWriteNat [] 0x100_0004 4 1) (queueOf (some x))
      let a := Claims.double x 8
      decide ((s.queue 0 1).cur = some x ∧ x.type = p.1 ∧ (s.queue 0 1).lapsed = false ∧ (s.dev 0).dawn = []) && memWf s.mem && memWf s.cmem &&
        decide (2 ^ 63 ≤ a ∨ (apOf s 0 a).isSome = true) && decide (a + 32 ≤ Claims.double x 16 ∨ p.1 ≠ 4) &&
        decide (2 ^ 63 ≤ Claims.double x 16 ∨ (apOf s 0 (Claims.double x 16)).isSome = true) &&
        (decide (p.1 ≠ 6) || decide (x.grace = none ∧ Claims.double x 16 = 1) && decide (handPageOk s 0 a = decide (a = 0x1_0000)))) = true ∧
    (outNat (booted [] (queueOf none)) 0 0x100 8 = 0) ∧
    ([(0, 1), (1, 0)].all fun p => decide (serialGe p.1 p.2 = decide (p.1 = 1))) = true ∧
    (allBoundary (booted [] (queueOf (some (packetOf 8 (bodyOf (2 ^ 63) 0 0))))) 0 = true ∧ allBoundary (booted [] (queueOf none)) 0 = true ∧
      devOpen (booted [] (queueOf none)) 0 = true) := by
  decide +kernel

theorem test_meets_PagerAndPacketEvents :
    (let s := { home (queueMem 3 5) [] with devs := [(0, { dev0 with
       invals := [{ kind := 0, va := 0x500, space := 0, size := 0 }], pageins := [pageIn0 none, pageIn0 (some 0x7000_0000)], returns := [(1, 0x7000_0000, 0)] })] }
     devOpen s 0 = true ∧ (s.dev 0).invals ≠ [] ∧ (s.dev 0).fqen = false ∧ (s.dev 0).pageins[0]? = some (pageIn0 none) ∧
       pops s 1 0 = true ∧ ((s.dev 0).pageins[1]?).map (fun x => x.near.isSome) = some true ∧ retireRoom s 0 ≠ 0 ∧
       (poolPush s 0 1 0x7000_0000 0).2 = true) ∧
    (let l := { launch0 with pages := [(0x2_0000, 0x4000_0000)] }
     let m := memWriteNat (queueMem 3 5) 0x2_0000 8 (2 ^ 63 + 2 ^ 62 + 2 ^ 55 + 2 ^ 54 + 0x4000_0000)
     let s := { home m [] with devs := [(0, { dev0 with asides := [{ aside0 with item := none }] })], launches := [(0, l)] }
     walkPage s 0 0 0x3_0000 = .leaf aside0.pte aside0.pteAt (2 ^ 30) ∧ aside0.pte.getLsbD 54 = true ∧
       (snapLaunch s 0 aside0.pteAt).isSome = true ∧ pops s 1 1 = true) ∧
    ([(1, 0), (2, bodyOf 0x100 0 0), (2, bodyOf 0x100 5 0), (3, 0), (4, 0), (5, 0), (6, 0), (7, 0), (8, 0)].all fun p =>
      [true, false].all fun w =>
        let x := packetOf p.1 p.2
        let s := booted [] { queueOf (some x) with waiting := w }
        decide ((s.queue 0 1).cur = some x ∧ x.type = p.1 ∧ x.launch = none ∧ (s.queue 0 1).lapsed = false ∧ (s.dev 0).dawn = []) &&
          devOpen s 0 && (allBoundary s 0 || decide (p.1 ≠ 8)) && decide ((s.queue 0 1).waiting = w) &&
          decide (outNat s 0 0x100 8 ≠ 5)) = true := by
  decide +kernel

/-- Two queues of one scheduler, both with a packet kicked, the first with its slice over and its turn begun. -/
def rivals (p : Option QPacket) (owner : Nat) : State :=
  { booted [] (queueOf none) with
    cmem := memWriteNat [] 0x10_0080 64 0x0107
    dies := [(owner, { Die.reset with sched := 5000, turn := some 1 })]
    queues := [(1, { queueOf p with slice := 1, turnFrom := some 0, owner := owner, thief := some 1 }), (2, { queueOf none with owner := owner })] }

theorem test_meets_QueueOwners :
    ([none, some (packetOf 7 0)].all fun p =>
      let s := rivals p 0
      sliceOver s 0 1 && rivalReady s 0 1 && decide ((s.queue 0 1).cur = p) && decide (p.map QPacket.type ≠ some 8)) = true ∧
    (let s := booted [] (queueOf none)
     s.pkg.mode ≠ 2 ∧ (s.queue 0 1).en = true ∧ (s.queue 0 1).nosteal = false ∧ ((s.queue 0 1).owner + 1) % 4 = 1 ∧
       devOfDie s.pkg.mode 1 = 0 ∧ devOfDie s.pkg.mode 0 = 0 ∧ (runList s 1).all (fun p => !queueReady s p.1 p.2) = true) ∧
    (let s := rivals none 0
     (s.queue 0 1).thief = some 1 ∧ (s.queue 0 1).nosteal = false ∧ (s.queue 0 1).cur = none) ∧
    (let s := rivals none 1
     (s.queue 0 1).en = true ∧ (s.queue 0 1).owner ≠ dieAt s.pkg.mode 0 ((s.queue 0 1).homedie % devDies s.pkg.mode) ∧
       (runList s 1).any (fun p => decide (p ≠ (0, 1)) && queueReady s p.1 p.2) = true) ∧
    ((State.reset.die 1).mailbox.length < 64 ∧
      64 ≤ (({ State.reset with dies := [(1, { Die.reset with mailbox := List.replicate 64 0 })] } : State).die 1).mailbox.length) := by
  decide +kernel

theorem test_meets_RegisterWrites :
    (bootStopped { State.reset with pkg := { Package.reset with booterr := 1 } } = true) ∧
    (let s := booted [] (queueOf none)
     bootStopped s = false ∧ 0 < 4 / devDies s.pkg.mode ∧ s.pkg.stage = 6 ∧ (s.dev 0).clkTarget ≤ (s.dev 0).clkpt ∧
       (s.dev 0).rootdev = (s.dev 0).devnum ∧ drained s 0 = true ∧
       (s.cores.all fun p => risingFrom 0 p.2.tags) = true ∧ ¬ (drained (booted [] { queueOf none with en := true }) 0 = true ∧ (3 : BitVec 2) ≠ 3)) := by
  decide +kernel

theorem test_meets_PartitionsAndPorts :
    (let s := { State.reset with pkg := { Package.reset with busy := true, modeNext := 2 } }
     s.pkg.busy = true) ∧
    (let s := { State.reset with pkg := { Package.reset with cxl := [(0, { en := true, state := 1, cap := 0 })] } }
     (cxlOf s 0).state = 1 ∧ bootStopped s = false ∧ (cxlOf s 3).en = false) ∧
    (quiet State.reset = true ∧ bootStopped State.reset = false ∧ State.reset.pkg.mode = 0 ∧ portMapped State.reset 0 = false) ∧
    (portMapped (home (memWriteNat pageMem 0x2_0000 8 (2 ^ 63 + 2 ^ 60 + 2 ^ 55 + Config.farBase)) []) 0 = true) := by
  decide +kernel

/-- The image an address holds and the keys are values the specification leaves open (log 7, log 13): the conditions of IMAGE_LOAD
are met by every package in the stage such an image is for. -/
theorem test_meets_BootAndRepair :
    (∀ st, st = 3 ∨ st = 4 ∨ st = 5 → ∀ i : Config.Image, i.kind = st - 2 →
      let s := { State.reset with pkg := { Package.reset with stage := st } }
      (s.pkg.stage = 3 ∧ i.kind = 1) ∨ (s.pkg.stage = 4 ∧ i.kind = 2) ∨ (s.pkg.stage = 5 ∧ i.kind = 3)) ∧
    (let s := { State.reset with pkg := { Package.reset with stage := 6 } }
     bootStopped s = false ∧ quiet s = true ∧ s.pkg.rasBusy = false ∧ s.pkg.attreqs.length < 4) ∧
    (let s := { State.reset with
       pkg := { Package.reset with stage := 6, rasBusy := true }
       dies := [(0, { Die.reset with corestat := [(5, { CoreStat.reset with pendret := true })] })] }
     s.pkg.rasBusy = true ∧ (coreStat s 5).pendret = true ∧ (s.die 0).retired = [] ∧ coreStanding s 0 16 0 = none ∧ ((List.range 640).all fun e => decide (e = 5) || !(coreStat s e).pendret) = true ∧
       0 < (s.die 0).spares) ∧
    10 < (badOf ((List.range 11).map fun n => (3, n, 0)) 3).length ∧ Package.reset.badPos = [] ∧ Package.reset.repout = 0 ∧
    (let s := { State.reset with pkg := { Package.reset with attreqs := [0x100] } }
     s.pkg.attreqs = [0x100] ∧ s.pkg.busy = false ∧ s.pkg.rasBusy = false ∧ memWf s.cmem = true) := by
  refine ⟨fun st h i hi => ?_, by decide +kernel, by decide +kernel, by decide +kernel, rfl, rfl, by decide +kernel⟩
  obtain rfl | rfl | rfl := h <;> simp [hi]

theorem test_meets_MonitorsLinksAndPower :
    (let hot := { Monitor.reset with qty := 7 }
     let s := { State.reset with dies := [(0, { Die.reset with
       monitors := [(1, hot), (2, { hot with freeze := true }), (4, { Monitor.reset with qty := 3, due := [9, 8] })] })] }
     let later := s.updDie 0 fun x => { x with cycle := 65536 }
     temperatureDue s 0 (monitorOf s 0 1) = false ∧ temperatureDue later 0 (monitorOf later 0 1) = true ∧
     (monitorOf s 0 1).qty = 7 ∧ (monitorOf s 0 1).freeze = false ∧ (monitorOf s 0 2).freeze = true ∧ (monitorOf s 0 3).due = [] ∧
       (monitorOf s 0 4).qty ≠ 7 ∧ (monitorOf s 0 4).due = [9, 8] ∧ bootStopped s = false) ∧
    (let s := { State.reset with
       pkg := { Package.reset with links := [(0, { en := true, state := 2, peer := 7, missed := 4, heard := false }),
                                             (1, { en := true, state := 1, peer := 0, missed := 0, heard := false }),
                                             (2, { en := true, state := 2, peer := 9, missed := 3, heard := true })] }
       devs := [(0, { Dev.reset with route := [(9, 4)] })] }
     (linkOf s 0).state = 2 ∧ 4 ≤ (linkOf s 0).missed ∧ (linkOf s 1).state = 1 ∧ (linkOf s 2).missed < 4 ∧ (linkOf s 3).en = false ∧
       9 ≠ (s.dev 0).devnum ∧ routeLink s 0 9 = some 2 ∧ routeLink s 0 8 = none) ∧
    (let s := { State.reset with dies := [(0, { Die.reset with cycle := 2 ^ 20, stopped := true })] }
     (s.die 0).beatAt + 2 ^ 20 ≤ (s.die 0).cycle ∧ (s.die 0).stopped = true ∧ (s.die 1).stopped = false) ∧
    (0 < 4 / devDies State.reset.pkg.mode ∧ State.reset.pkg.mode ≤ 2 ∧ State.reset.pkg.pwrcap < 5000) ∧
    ([0, 499999, 500000].all fun n =>
      let s := { State.reset with dies := [(0, { Die.reset with sched := n })] }
      decide ((s.die 0).sched < s.pkg.ctlAt + 500000) == decide (n ≠ 500000)) = true := by
  decide +kernel

/-! ### Steps -/

/-- A NOP's word, in a clause at the placed address. -/
def nopState : State := State.reset.withFetchWord 32 0x1200_000E
/-- The same warp inside the clause. -/
def nopInside : State :=
  nopState.updWarp 0 0 fun w => { w with frontier := [{ entryOf (.nop f0) with mask := allLanes }] }

/-- A MCLAIM's word, in a sequencer's program that stands inside its clause. -/
def claimState : State :=
  (State.reset.withFetchWord 32 0).updSeq 0 fun q =>
    { q with pc := 0x1004, clause := some { hdr := 0x1000, page := 5, count := 1 } }
/-- What the issue of an entry reads is there: its warp, workgroup and clause, and a fetched word that decodes. -/
def fetched (s : State) (c sl ei : Nat) : Bool :=
  match s.warp? c sl with
  | none => false
  | some w =>
    match fget s.wgs w.wg, w.frontier[ei]? with
    | some g, some e =>
      let s := s.setWarp c sl (clearRetry w)
      (match e.clause with
        | some cl => !e.waits &&
          (match fetchInstr s c (warpSpace s g) cl e.pc with | .ok ws => (match decode false cl.page ws with | .ok _ => true | .error _ => false) | _ => false)
        | none =>
          match atHeader s c (warpSpace s g) (clearRetry w) g e.mask e.pc false with
          | .go h =>
            let w' := openClause (clearRetry w) ei e h
            let s' := (fillLine s c (warpSpace s g) e.pc.toNat).setWarp c sl w'
            (match w'.frontier[entryAt w' (e.pc + 4)]? with
              | some e' =>
                (match e'.clause with
                  | some cl =>
                    (match fetchInstr s' c (warpSpace s' g) cl e'.pc with
                      | .ok ws => (match decode false cl.page ws with | .ok _ => true | .error _ => false)
                      | _ => false)
                  | none => false)
              | none => false)
          | _ => false)
    | _, _ => false

theorem test_meets_StepRuns :
    ([nopState, nopInside].all fun s =>
      decide (s.agenda = [.issue 0 0 0]) && decide (pickWarp { s with agenda := [] } 0 (quadOf 0) = some (0, 0)) && fetched { s with agenda := [] } 0 0 0 &&
        (dueEvent { s with agenda := [] }).isNone && decide (dueIssue { s with agenda := [] } = some (0, 0, 0))) = true ∧
    (let s := claimState
     let q := s.seq 0
     let s' := s.updCore 0 fun k => { k with quads := 4 :: k.quads }
     s.agenda = [.sequencer 0] ∧ seqIssues { s with agenda := [] } 0 = true ∧ seqCore q = some (0, 0) ∧
       (match fget s.wgs 0, q.clause with
         | some x, some k =>
           (match fetchInstr s' 0 (warpSpace s' x) k q.pc with
             | .ok ws => (match decode true k.page ws with | .ok _ => true | .error _ => false)
             | _ => false)
         | _, _ => false) = true) ∧
    (isEvent (.gracePeriodStart 0) = true ∧ isRegWrite (.gracePeriodStart 0) = false) ∧
    (let i : Instr := .dawnRequest 0 0
     let w : Inbound := { initiator := none, via := none, checked := none, access := inAcc (.write [7]) 0x40 1 }
     isEvent i = true ∧ isRegWrite i = true ∧ companionWaits State.reset = false ∧ companionWaits { State.reset with inWait := [w] } = true) := by
  decide +kernel

/-! ### Ill-formed terms and words -/

/-- A field value no role of its place takes, a guard that negates p7, and a literal out of place. -/
theorem test_register_fields_refused :
    ([Instr.iadd { f12 with a := 0x7E } m0, .iadd { f12 with d := 0x60 } m0, .iadd { f12 with b := 0x7F } m0, .not_ f12, .mov { f1 with pn := 1 },
      .iaddLiteral f12 m0 0, .lea { f12 with d := 3 } m0, .lea { f12 with a := 5 } m0, .icmp { f12 with d := 8 } m0,
      .wqpush { f12 with d := 0, b := 6 } m0, .wqpop { f12 with d := 6, b := 0 } m0, .cpld { f0 with a := 4, b := 12 } m0].all fun i =>
        !wellFormed i) = true ∧
    ([Instr.iadd f12 m0, .not_ f1, .iaddLiteral fLit m0 0, .lea f12 m0, .icmp f12 m0, .wqpush { f12 with d := 0, b := 8 } m0,
      .wqpop { f12 with d := 8, b := 0 } m0, .cpld { f0 with a := 4, b := 8 } m0].all wellFormed) = true := by
  decide +kernel

/-- Scalar fields out of Table 9.5, a literal form without its literal, and unused fields that are not zero. -/
theorem test_scalar_fields_refused :
    ([Instr.sadd { s12 with d := 25 }, .sadd { s12 with a := 28 }, .sadd sLit, .saddLiteral s12 0, .sadd { s12 with imm := 1 }, .regacq { s0 with d := 1 },
      .regrel { s0 with imm := 1 }, .spbegin { s0 with b := 1 }, .spguess { s0 with imm := 16 }, .spcmp { s0 with a := 1 }, .spend { s0 with imm := 1 }].all fun i =>
        !wellFormedIn false i) = true ∧
    ([Instr.sadd s12, .saddLiteral sLit 0, .regacq { s0 with imm := 3 }, .spbegin s0, .spguess s0, .spcmp s0, .spend s0].all (wellFormedIn false)) = true := by
  decide +kernel

/-- Types, roundings and immediates a VALU instruction does not take. -/
theorem test_valu_fields_refused :
    ([Instr.iadd f12 { m0 with size := 6 }, .iadd f12 { m0 with off := 1 }, .fadd f12 { m0 with size := 3 }, .fadd f12 { m0 with round := 4 }, .padd f12 m0,
      .fmin f12 { m0 with round := 1 }, .icmp f12 { m0 with off := 6 }, .iaddc f12 { m0 with off := 16 }, .iabs f1 m0, .redadd f1 { m0 with size := 3 },
      .redadd f1 { m0 with round := 1 }, .scan f1 { m0 with off := 3 }, .scan f1 { m0 with off := 1, sat := 1 }, .cvt f1 { m0 with off := 10 },
      .cvt f1 { m0 with off := 0x1000 }, .qnt f1 { m0 with off := 8 }, .qnt f1 { m0 with off := 9, round := 5 }, .bcast f12 { m0 with off := 1 }].all fun i =>
        !wellFormed i) = true ∧
    ([Instr.iadd f12 { m0 with size := 5 }, .fadd f12 { m0 with size := 2, round := 3 }, .padd f12 m16, .icmp f12 { m0 with off := 5 },
      .iabs f1 m16, .redadd f1 { m0 with size := 2, round := 1 }, .scan f1 { m0 with off := 6 }, .cvt f1 { m0 with off := 0x1011 },
      .qnt f1 { m0 with off := 9 }].all wellFormed) = true := by
  decide +kernel

/-- What memory, synchronisation and system instructions do not take. -/
theorem test_memory_fields_refused :
    ([Instr.atomPair f12 { m0 with size := 2, off := 14 * 2048 }, .atomPair f12 { m0 with size := 1 }, .atomPair f12 { m0 with size := 2, round := 1 },
      .casPair f12 { m0 with size := 1 }, .casPair f12 { m0 with size := 2, off := 2048 }, .fencex f0 { m0 with off := 4 }, .fencex f0 { m0 with off := 32 },
      .wqpush { f12 with d := 0, b := 8 } { m0 with off := 2 }, .csrrd { f0 with d := 2 } { m0 with off := 14 }, .csrrd { f0 with d := 2 } { m0 with off := 4096 },
      .csrwr { f0 with a := 2 } { m0 with off := 0x1A }, .treturn { f0 with pr := 1 }, .bar { i0 with imm := 16 }, .send { i0 with a := 2, imm := 64 },
      .retire f12 { m0 with off := 3 }].all fun i => !wellFormed i) = true ∧
    ([Instr.atomPair f12 { m0 with size := 2, off := 10 * 2048 }, .atomPair f12 { m0 with size := 2, off := 13 * 2048, round := 3 }, .casPair { f12 with d := 8, b := 12 } { m0 with size := 4, c := 16 },
      .fencex f0 { m0 with off := 27 }, .csrrd { f0 with d := 2 } { m0 with off := 0x20 }, .treturn f0, .bar { i0 with imm := 15 }].map wellFormed) =
      [true, true, true, true, true, true, true] := by
  decide +kernel

/-- Sequencer words: fields a form does not use, modes it does not assign, words of the other stream. -/
theorem test_sequencer_fields_refused :
    ([Instr.mclaim { q0 with x := 1 }, .mclaim { q0 with qb := 1 }, .mfillArg q0, .mzero q0, .mdrain { q0 with x := 2, mode := 4 }, .mdrain { q0 with mode := 10 },
      .mdrain { q0 with mode := 4, y := 1 }, .mhad { q0 with mode := 4 }, .mhad { q0 with mode := 66, x := 2 }, .mstat { q0 with mode := 2 },
      .mscl { q0 with mode := 16 }, .mscacc { q0 with y := 2 }, .mmb { q0 with mode := 2 }, .mmaBf16 { q0 with mode := 1 }, .mmaP8 q0, .mmaE2m1 { q0 with mode := 2 },
      .mmaI8 { q0 with mode := 1 }, .mmaMxe2m1 { q0 with mode := 4 }, .iadd f12 m0, .exit { f0 with pr := 0 }, .jmpi { f0 with a := 32 }].all fun i =>
        !wellFormedIn true i) = true ∧
    ([Instr.mclaim { q0 with qa := 5 }, .mzero { q0 with mode := 1 }, .mdrain { q0 with mode := 4 }, .mhad q0, .mmaBf16 { q0 with mode := 64 },
      .exit f0, .jmpi { f0 with a := 31 }, .sadd { s0 with d := 31 }].all (wellFormedIn true)) = true ∧
    ([Instr.mclaim q0, .mmaBf16 q0].all fun i => !wellFormedIn false i) = true := by
  decide +kernel

/-- Events of units the package does not have. -/
theorem test_events_refused :
    ([Instr.gracePeriodStart 4, .heartbeatSend 4, .tagSweep 640, .debugHalt 0 48, .meshArbitration 0 17 0 0, .meshArbitration 0 0 0 5, .registerWrite (.qprio 0 256) 0,
      .strikeReport 0 (17, 0) false, .strikeReport 0 (0, 10) false, .regacqGrant 0 4, .poolWarpForm 0 16, .arrayOpStart 160, .expWrite 0 4096 0, .pwinWrite 0 64 0, .queueKick 4 0 0,
      .stealRequest 4 0 0, .packetUrgent 0 0 0 0 4, .cxlPortEnable 4, .pendretSet 0 160, .monitorClear 0 16, .peerLinkEnable 16, .peerTrafficRelay 0 0 1024 []].all fun i =>
        !wellFormed i) = true ∧
    ([Instr.gracePeriodStart 3, .tagSweep 639, .debugHalt 639 47, .meshArbitration 3 16 9 4, .registerWrite (.qprio 3 255) 0].all wellFormed) = true := by
  decide +kernel

/-- Table 9.17 and the two examples after it, as the manual prints them. -/
theorem test_decode_printed_words :
    decode false 0 [0xE008_07DE] = .ok (.movi { d := 2, a := 0, imm := 0x7D, pr := 7, pn := 0 }, 1) ∧
    decode false 0 [0x100C_1042] = .ok (.and_ { d := 3, a := 2, b := 4, pr := 1, pn := 0 }, 1) ∧
    decode false 0 [0x9414_1FFE, 0x00FF_00FF] = .ok (.xorLiteral { d := 5, a := 3, b := 0x7F, pr := 7, pn := 0 } 0x00FF_00FF, 2) ∧
    decode false 2 [0x01DF_FFE0] = .ok (.bra { pr := 7, pn := 0, off := -32 }, 1) := by
  decide +kernel

/-- A word of each page, each field written at its place in Tables 9.2 and 9.3. -/
theorem test_decode_written_words :
    decode false 0 [0b0011011_0001000_0001001_0001010_010_0, 0b0001011_001_0_000_000_000000000000000] =
      .ok (.ffma { d := 8, a := 9, b := 10, pr := 2, pn := 0 } { m0 with c := 11, round := 1 }, 2) ∧
    decode false 1 [0b0000000_00010_00011_00100_0000000000] = .ok (.sadd { d := 2, a := 3, b := 4, imm := 0 }, 1) ∧
    decode false 1 [0b1001011_00010_00000_11111_0000001010, 3] = .ok (.scmpLiteral { d := 2, a := 0, b := 31, imm := 10 } 3, 2) ∧
    decode false 2 [0b0000101_0000000_0000000_0000000_111_0] = .ok (.exit f0, 1) ∧
    decode false 3 [0b0000000_0000010_0000100_0000000_111_0, 0b0000000_000_0_000_010_000000000010000] =
      .ok (.ldPair { f0 with d := 2, a := 4 } { m0 with size := 2, off := 16 }, 2) ∧
    decode false 3 [0b0010110_0000000_0000000_0000000_111_0] = .ok (.grace f0, 1) ∧
    decode false 4 [0b0000110_0000010_0000000_0000000_111_0, 0b0000000_000_0_000_000_000000000000011] =
      .ok (.cpstat { f0 with d := 2 } { m0 with off := 3 }, 2) ∧
    decode true 5 [0b0000000_00101_00000_0000_0000_0000000] = .ok (.mclaim { q0 with qa := 5 }, 1) ∧
    decode true 5 [0b0010000_00001_00000_0011_0100_0000000] = .ok (.mmaBf16 { qa := 1, qb := 0, x := 3, y := 4, mode := 0 }, 1) ∧
    decode false 6 [0b0000000_0000010_0000000_0000000_111_0, 0b0000000_000_0_000_000_000000000001100] =
      .ok (.csrrd { f0 with d := 2 } { m0 with off := 12 }, 2) := by
  decide +kernel

/-- A word of the other stream, an unassigned opcode, and an instruction cut short by its clause. -/
theorem test_decode_refuses :
    decode false 5 [0x0050_0000] = .error .fields ∧ decode false 0 [0x4800_000E] = .error .unassigned ∧ decode false 0 [0x9414_1FFE] = .error .overrun := by
  decide +kernel

theorem test_meets_Encoding :
    (wellFormedIn false (.ffma f12 m0) = true ∧ view (.ffma f12 m0) ≠ .event) ∧ (wellFormedIn true (.mclaim q0) = true ∧ view (.mclaim q0) ≠ .event) ∧
    decode false 2 [0x01DF_FFE0] = .ok (.bra { pr := 7, pn := 0, off := -32 }, 1) := by
  decide +kernel

theorem test_meets_Invariants :
    (canonicalMemory nopState && orderedMaps nopState && legalMode nopState && (match step nopState with | .next _ => true | _ => false)) = true ∧
    canonicalMemory (home pageMem []) = true := by
  decide +kernel

/-! ### A word of every instruction -/

/-- Words of one page and the instructions they stand for. -/
abbrev Words := List (List Word × Instr)
/-- All of them decode to their instructions, in a stream and on a page. -/
def decodes (seq : Bool) (page : Nat) (ws : Words) : Bool := ws.all fun p => decide (decode seq page p.1 = .ok (p.2, p.1.length))

/-- Words of the VALU page, each its opcode and fields at their places in Tables 9.2, 9.3 and 9.8 to 9.15. -/
def valuWords0 : Words :=
  [([0x000C_2872, 0x0000_0000], .iadd ⟨3, 5, 7, 1, 0⟩ ⟨0, 0, 0, 0, 0, 0⟩),
   ([0x020C_2872, 0x0000_0000], .isub ⟨3, 5, 7, 1, 0⟩ ⟨0, 0, 0, 0, 0, 0⟩),
   ([0x040C_2872, 0x0000_0000], .imul ⟨3, 5, 7, 1, 0⟩ ⟨0, 0, 0, 0, 0, 0⟩),
   ([0x060C_2872, 0x0000_0000], .imulhi ⟨3, 5, 7, 1, 0⟩ ⟨0, 0, 0, 0, 0, 0⟩),
   ([0x080C_2872, 0x1200_0000], .imad ⟨3, 5, 7, 1, 0⟩ ⟨9, 0, 0, 0, 0, 0⟩),
   ([0x0A0C_2872, 0x0000_0000], .imin ⟨3, 5, 7, 1, 0⟩ ⟨0, 0, 0, 0, 0, 0⟩),
   ([0x0C0C_2872, 0x0000_0000], .imax ⟨3, 5, 7, 1, 0⟩ ⟨0, 0, 0, 0, 0, 0⟩),
   ([0x0E0C_2872, 0x0000_0000], .iaddc ⟨3, 5, 7, 1, 0⟩ ⟨0, 0, 0, 0, 0, 0⟩),
   ([0x100C_2872], .and_ ⟨3, 5, 7, 1, 0⟩),
   ([0x120C_2872], .or_ ⟨3, 5, 7, 1, 0⟩),
   ([0x140C_2872], .xor_ ⟨3, 5, 7, 1, 0⟩),
   ([0x160C_2872], .andn ⟨3, 5, 7, 1, 0⟩),
   ([0x180C_2872], .shl ⟨3, 5, 7, 1, 0⟩),
   ([0x1A0C_2872], .shr ⟨3, 5, 7, 1, 0⟩),
   ([0x1C0C_2872], .sar ⟨3, 5, 7, 1, 0⟩),
   ([0x1E0C_2872], .rotl ⟨3, 5, 7, 1, 0⟩),
   ([0x200C_2872, 0x0000_0000], .bfx ⟨3, 5, 7, 1, 0⟩ ⟨0, 0, 0, 0, 0, 0⟩),
   ([0x220C_2872, 0x1200_0000], .bfi ⟨3, 5, 7, 1, 0⟩ ⟨9, 0, 0, 0, 0, 0⟩),
   ([0x240C_2872, 0x1200_0000], .prmt ⟨3, 5, 7, 1, 0⟩ ⟨9, 0, 0, 0, 0, 0⟩),
   ([0x2608_2072, 0x0000_0000], .lea ⟨2, 4, 7, 1, 0⟩ ⟨0, 0, 0, 0, 0, 0⟩),
   ([0x280C_2872, 0x0000_0000], .icmp ⟨3, 5, 7, 1, 0⟩ ⟨0, 0, 0, 0, 0, 0⟩),
   ([0x2A0C_2872, 0x0000_0000], .sel ⟨3, 5, 7, 1, 0⟩ ⟨0, 0, 0, 0, 0, 0⟩),
   ([0x2C0C_2802], .mov ⟨3, 5, 0, 1, 0⟩),
   ([0x2E0C_2872, 0x1200_0000], .hash32 ⟨3, 5, 7, 1, 0⟩ ⟨9, 0, 0, 0, 0, 0⟩),
   ([0x300C_2872, 0x00E0_0000], .fadd ⟨3, 5, 7, 1, 0⟩ ⟨0, 3, 1, 0, 0, 0⟩),
   ([0x320C_2872, 0x0000_0000], .fsub ⟨3, 5, 7, 1, 0⟩ ⟨0, 0, 0, 0, 0, 0⟩),
   ([0x340C_2872, 0x0000_0000], .fmul ⟨3, 5, 7, 1, 0⟩ ⟨0, 0, 0, 0, 0, 0⟩),
   ([0x360C_2872, 0x1200_0000], .ffma ⟨3, 5, 7, 1, 0⟩ ⟨9, 0, 0, 0, 0, 0⟩),
   ([0x380C_2872, 0x0000_0000], .fmin ⟨3, 5, 7, 1, 0⟩ ⟨0, 0, 0, 0, 0, 0⟩),
   ([0x3A0C_2872, 0x0000_0000], .fmax ⟨3, 5, 7, 1, 0⟩ ⟨0, 0, 0, 0, 0, 0⟩),
   ([0x3C0C_2872, 0x0000_0000], .fcmp ⟨3, 5, 7, 1, 0⟩ ⟨0, 0, 0, 0, 0, 0⟩),
   ([0x3E0C_2872, 0x0000_0000], .fscale ⟨3, 5, 7, 1, 0⟩ ⟨0, 0, 0, 0, 0, 0⟩),
   ([0x400C_2872, 0x0000_8000], .padd ⟨3, 5, 7, 1, 0⟩ ⟨0, 0, 0, 0, 1, 0⟩),
   ([0x420C_2872, 0x0000_8000], .pmul ⟨3, 5, 7, 1, 0⟩ ⟨0, 0, 0, 0, 1, 0⟩),
   ([0x440C_2872, 0x1200_8000], .pfma ⟨3, 5, 7, 1, 0⟩ ⟨9, 0, 0, 0, 1, 0⟩),
   ([0x460C_2802, 0x0000_00D1], .cvt ⟨3, 5, 0, 1, 0⟩ ⟨0, 0, 0, 0, 0, 209⟩)]

theorem test_decode_valuWords0 : decodes false 0 valuWords0 = true := by decide +kernel

/-- Words of the VALU page, each its opcode and fields at their places in Tables 9.2, 9.3 and 9.8 to 9.15. -/
def valuWords1 : Words :=
  [([0x600C_2802, 0x0000_8000], .iabs ⟨3, 5, 0, 1, 0⟩ ⟨0, 0, 0, 0, 1, 0⟩),
   ([0x620C_2802, 0x0000_0000], .ineg ⟨3, 5, 0, 1, 0⟩ ⟨0, 0, 0, 0, 0, 0⟩),
   ([0x640C_2802], .not_ ⟨3, 5, 0, 1, 0⟩),
   ([0x660C_2802], .popc ⟨3, 5, 0, 1, 0⟩),
   ([0x680C_2802], .clz ⟨3, 5, 0, 1, 0⟩),
   ([0x6A0C_2802], .brev ⟨3, 5, 0, 1, 0⟩),
   ([0x6C0C_2802, 0x0000_0000], .fclass ⟨3, 5, 0, 1, 0⟩ ⟨0, 0, 0, 0, 0, 0⟩),
   ([0x6E0C_2802, 0x0000_0000], .frnd ⟨3, 5, 0, 1, 0⟩ ⟨0, 0, 0, 0, 0, 0⟩),
   ([0x700C_2802, 0x0000_0000], .frcp ⟨3, 5, 0, 1, 0⟩ ⟨0, 0, 0, 0, 0, 0⟩),
   ([0x720C_2802, 0x0000_0000], .frsq ⟨3, 5, 0, 1, 0⟩ ⟨0, 0, 0, 0, 0, 0⟩),
   ([0x740C_2802, 0x0000_0000], .fsqrt ⟨3, 5, 0, 1, 0⟩ ⟨0, 0, 0, 0, 0, 0⟩),
   ([0x760C_2802, 0x0000_0000], .fexp2 ⟨3, 5, 0, 1, 0⟩ ⟨0, 0, 0, 0, 0, 0⟩),
   ([0x780C_2802, 0x0000_0000], .flog2 ⟨3, 5, 0, 1, 0⟩ ⟨0, 0, 0, 0, 0, 0⟩),
   ([0x7A0C_2802, 0x0000_0000], .fsin ⟨3, 5, 0, 1, 0⟩ ⟨0, 0, 0, 0, 0, 0⟩),
   ([0x7C0C_2802, 0x0000_0000], .fcos ⟨3, 5, 0, 1, 0⟩ ⟨0, 0, 0, 0, 0, 0⟩),
   ([0x7E0C_2802, 0x0000_0000], .ftanh ⟨3, 5, 0, 1, 0⟩ ⟨0, 0, 0, 0, 0, 0⟩),
   ([0x800C_2FF2, 0x0000_0000, 0x00FF_1234], .iaddLiteral ⟨3, 5, 127, 1, 0⟩ ⟨0, 0, 0, 0, 0, 0⟩ 0x00FF_1234),
   ([0x820C_2FF2, 0x0000_0000, 0x00FF_1234], .isubLiteral ⟨3, 5, 127, 1, 0⟩ ⟨0, 0, 0, 0, 0, 0⟩ 0x00FF_1234),
   ([0x840C_2FF2, 0x0000_0000, 0x00FF_1234], .imulLiteral ⟨3, 5, 127, 1, 0⟩ ⟨0, 0, 0, 0, 0, 0⟩ 0x00FF_1234),
   ([0x860C_2FF2, 0x0000_0000, 0x00FF_1234], .imulhiLiteral ⟨3, 5, 127, 1, 0⟩ ⟨0, 0, 0, 0, 0, 0⟩ 0x00FF_1234),
   ([0x880C_2FF2, 0x1200_0000, 0x00FF_1234], .imadLiteral ⟨3, 5, 127, 1, 0⟩ ⟨9, 0, 0, 0, 0, 0⟩ 0x00FF_1234),
   ([0x8A0C_2FF2, 0x0000_0000, 0x00FF_1234], .iminLiteral ⟨3, 5, 127, 1, 0⟩ ⟨0, 0, 0, 0, 0, 0⟩ 0x00FF_1234),
   ([0x8C0C_2FF2, 0x0000_0000, 0x00FF_1234], .imaxLiteral ⟨3, 5, 127, 1, 0⟩ ⟨0, 0, 0, 0, 0, 0⟩ 0x00FF_1234),
   ([0x8E0C_2FF2, 0x0000_0000, 0x00FF_1234], .iaddcLiteral ⟨3, 5, 127, 1, 0⟩ ⟨0, 0, 0, 0, 0, 0⟩ 0x00FF_1234),
   ([0x900C_2FF2, 0x00FF_1234], .andLiteral ⟨3, 5, 127, 1, 0⟩ 0x00FF_1234),
   ([0x920C_2FF2, 0x00FF_1234], .orLiteral ⟨3, 5, 127, 1, 0⟩ 0x00FF_1234),
   ([0x940C_2FF2, 0x00FF_1234], .xorLiteral ⟨3, 5, 127, 1, 0⟩ 0x00FF_1234),
   ([0x960C_2FF2, 0x00FF_1234], .andnLiteral ⟨3, 5, 127, 1, 0⟩ 0x00FF_1234),
   ([0x980C_2FF2, 0x00FF_1234], .shlLiteral ⟨3, 5, 127, 1, 0⟩ 0x00FF_1234),
   ([0x9A0C_2FF2, 0x00FF_1234], .shrLiteral ⟨3, 5, 127, 1, 0⟩ 0x00FF_1234),
   ([0x9C0C_2FF2, 0x00FF_1234], .sarLiteral ⟨3, 5, 127, 1, 0⟩ 0x00FF_1234),
   ([0x9E0C_2FF2, 0x00FF_1234], .rotlLiteral ⟨3, 5, 127, 1, 0⟩ 0x00FF_1234),
   ([0xA00C_2FF2, 0x0000_0000, 0x00FF_1234], .bfxLiteral ⟨3, 5, 127, 1, 0⟩ ⟨0, 0, 0, 0, 0, 0⟩ 0x00FF_1234),
   ([0xA20C_2FF2, 0x1200_0000, 0x00FF_1234], .bfiLiteral ⟨3, 5, 127, 1, 0⟩ ⟨9, 0, 0, 0, 0, 0⟩ 0x00FF_1234),
   ([0xA40C_2FF2, 0x1200_0000, 0x00FF_1234], .prmtLiteral ⟨3, 5, 127, 1, 0⟩ ⟨9, 0, 0, 0, 0, 0⟩ 0x00FF_1234),
   ([0xA608_27F2, 0x0000_0000, 0x00FF_1234], .leaLiteral ⟨2, 4, 127, 1, 0⟩ ⟨0, 0, 0, 0, 0, 0⟩ 0x00FF_1234)]

theorem test_decode_valuWords1 : decodes false 0 valuWords1 = true := by decide +kernel

/-- Words of the VALU page, each its opcode and fields at their places in Tables 9.2, 9.3 and 9.8 to 9.15. -/
def valuWords2 : Words :=
  [([0xA80C_2FF2, 0x0000_0000, 0x00FF_1234], .icmpLiteral ⟨3, 5, 127, 1, 0⟩ ⟨0, 0, 0, 0, 0, 0⟩ 0x00FF_1234),
   ([0xAA0C_2FF2, 0x0000_0000, 0x00FF_1234], .selLiteral ⟨3, 5, 127, 1, 0⟩ ⟨0, 0, 0, 0, 0, 0⟩ 0x00FF_1234),
   ([0xAC0F_F802, 0x00FF_1234], .movLiteral ⟨3, 127, 0, 1, 0⟩ 0x00FF_1234),
   ([0xAE0C_2FF2, 0x1200_0000, 0x00FF_1234], .hash32Literal ⟨3, 5, 127, 1, 0⟩ ⟨9, 0, 0, 0, 0, 0⟩ 0x00FF_1234),
   ([0xB00C_2FF2, 0x00E0_0000, 0x00FF_1234], .faddLiteral ⟨3, 5, 127, 1, 0⟩ ⟨0, 3, 1, 0, 0, 0⟩ 0x00FF_1234),
   ([0xB20C_2FF2, 0x0000_0000, 0x00FF_1234], .fsubLiteral ⟨3, 5, 127, 1, 0⟩ ⟨0, 0, 0, 0, 0, 0⟩ 0x00FF_1234),
   ([0xB40C_2FF2, 0x0000_0000, 0x00FF_1234], .fmulLiteral ⟨3, 5, 127, 1, 0⟩ ⟨0, 0, 0, 0, 0, 0⟩ 0x00FF_1234),
   ([0xB60C_2FF2, 0x1200_0000, 0x00FF_1234], .ffmaLiteral ⟨3, 5, 127, 1, 0⟩ ⟨9, 0, 0, 0, 0, 0⟩ 0x00FF_1234),
   ([0xB80C_2FF2, 0x0000_0000, 0x00FF_1234], .fminLiteral ⟨3, 5, 127, 1, 0⟩ ⟨0, 0, 0, 0, 0, 0⟩ 0x00FF_1234),
   ([0xBA0C_2FF2, 0x0000_0000, 0x00FF_1234], .fmaxLiteral ⟨3, 5, 127, 1, 0⟩ ⟨0, 0, 0, 0, 0, 0⟩ 0x00FF_1234),
   ([0xBC0C_2FF2, 0x0000_0000, 0x00FF_1234], .fcmpLiteral ⟨3, 5, 127, 1, 0⟩ ⟨0, 0, 0, 0, 0, 0⟩ 0x00FF_1234),
   ([0xBE0C_2FF2, 0x0000_0000, 0x00FF_1234], .fscaleLiteral ⟨3, 5, 127, 1, 0⟩ ⟨0, 0, 0, 0, 0, 0⟩ 0x00FF_1234),
   ([0xC00C_2FF2, 0x0000_8000, 0x00FF_1234], .paddLiteral ⟨3, 5, 127, 1, 0⟩ ⟨0, 0, 0, 0, 1, 0⟩ 0x00FF_1234),
   ([0xC20C_2FF2, 0x0000_8000, 0x00FF_1234], .pmulLiteral ⟨3, 5, 127, 1, 0⟩ ⟨0, 0, 0, 0, 1, 0⟩ 0x00FF_1234),
   ([0xC40C_2FF2, 0x1200_8000, 0x00FF_1234], .pfmaLiteral ⟨3, 5, 127, 1, 0⟩ ⟨9, 0, 0, 0, 1, 0⟩ 0x00FF_1234),
   ([0xC60F_F802, 0x0000_00D1, 0x00FF_1234], .cvtLiteral ⟨3, 127, 0, 1, 0⟩ ⟨0, 0, 0, 0, 0, 209⟩ 0x00FF_1234),
   ([0xE00C_07D2], .movi ⟨3, 0, 125, 1, 0⟩),
   ([0xE20C_2802, 0x0000_0019], .qnt ⟨3, 5, 0, 1, 0⟩ ⟨0, 0, 0, 0, 0, 25⟩),
   ([0xE40C_2872, 0x0000_0009], .dqnt ⟨3, 5, 7, 1, 0⟩ ⟨0, 0, 0, 0, 0, 9⟩),
   ([0xE60C_2802, 0x0000_0000], .pack ⟨3, 5, 0, 1, 0⟩ ⟨0, 0, 0, 0, 0, 0⟩),
   ([0xE80C_2802, 0x0000_0000], .unpk ⟨3, 5, 0, 1, 0⟩ ⟨0, 0, 0, 0, 0, 0⟩),
   ([0xEA0C_2872, 0x0000_0000], .shfl ⟨3, 5, 7, 1, 0⟩ ⟨0, 0, 0, 0, 0, 0⟩),
   ([0xEC0C_2802, 0x0000_0000], .bcast ⟨3, 5, 0, 1, 0⟩ ⟨0, 0, 0, 0, 0, 0⟩),
   ([0xEE0C_1002, 0x0000_0000], .vote ⟨3, 2, 0, 1, 0⟩ ⟨0, 0, 0, 0, 0, 0⟩),
   ([0xF00C_2802, 0x0000_0000], .redadd ⟨3, 5, 0, 1, 0⟩ ⟨0, 0, 0, 0, 0, 0⟩),
   ([0xF20C_2802, 0x0000_0000], .redmin ⟨3, 5, 0, 1, 0⟩ ⟨0, 0, 0, 0, 0, 0⟩),
   ([0xF40C_2802, 0x0000_0000], .redmax ⟨3, 5, 0, 1, 0⟩ ⟨0, 0, 0, 0, 0, 0⟩),
   ([0xF608_2872, 0x0000_0000], .redmini ⟨2, 5, 7, 1, 0⟩ ⟨0, 0, 0, 0, 0, 0⟩),
   ([0xF808_2872, 0x0000_0000], .redmaxi ⟨2, 5, 7, 1, 0⟩ ⟨0, 0, 0, 0, 0, 0⟩),
   ([0xFA0C_2802, 0x0000_0000], .scan ⟨3, 5, 0, 1, 0⟩ ⟨0, 0, 0, 0, 0, 0⟩),
   ([0xFC0C_2802, 0x0000_0000], .match_ ⟨3, 5, 0, 1, 0⟩ ⟨0, 0, 0, 0, 0, 0⟩)]

theorem test_decode_valuWords2 : decodes false 0 valuWords2 = true := by decide +kernel

/-- Words of the SCALAR page, each its opcode and fields at their places in Tables 9.2, 9.3 and 9.8 to 9.15. -/
def scalarWords : Words :=
  [([0x0021_9000], .sadd ⟨2, 3, 4, 0⟩),
   ([0x0221_9000], .ssub ⟨2, 3, 4, 0⟩),
   ([0x0421_9000], .smul ⟨2, 3, 4, 0⟩),
   ([0x0621_9000], .sand ⟨2, 3, 4, 0⟩),
   ([0x0821_9000], .sor ⟨2, 3, 4, 0⟩),
   ([0x0A21_9000], .sxor ⟨2, 3, 4, 0⟩),
   ([0x0C21_9000], .sshl ⟨2, 3, 4, 0⟩),
   ([0x0E21_9000], .sshr ⟨2, 3, 4, 0⟩),
   ([0x1021_9000], .ssar ⟨2, 3, 4, 0⟩),
   ([0x1221_9008], .smin ⟨2, 3, 4, 8⟩),
   ([0x1421_9008], .smax ⟨2, 3, 4, 8⟩),
   ([0x1621_900A], .scmp ⟨2, 3, 4, 10⟩),
   ([0x1821_9005], .ssel ⟨2, 3, 4, 5⟩),
   ([0x1A21_8000], .smov ⟨2, 3, 0, 0⟩),
   ([0x1C20_03FF], .smovi ⟨2, 0, 0, 1023⟩),
   ([0x1E22_0008], .sld ⟨2, 4, 0, 8⟩),
   ([0x2021_8007], .readlane ⟨2, 3, 0, 7⟩),
   ([0x2201_8007], .sbcast ⟨0, 3, 0, 7⟩),
   ([0x8021_FC00, 0x00FF_1234], .saddLiteral ⟨2, 3, 31, 0⟩ 0x00FF_1234),
   ([0x8221_FC00, 0x00FF_1234], .ssubLiteral ⟨2, 3, 31, 0⟩ 0x00FF_1234),
   ([0x8421_FC00, 0x00FF_1234], .smulLiteral ⟨2, 3, 31, 0⟩ 0x00FF_1234),
   ([0x8621_FC00, 0x00FF_1234], .sandLiteral ⟨2, 3, 31, 0⟩ 0x00FF_1234),
   ([0x8821_FC00, 0x00FF_1234], .sorLiteral ⟨2, 3, 31, 0⟩ 0x00FF_1234),
   ([0x8A21_FC00, 0x00FF_1234], .sxorLiteral ⟨2, 3, 31, 0⟩ 0x00FF_1234),
   ([0x8C21_FC00, 0x00FF_1234], .sshlLiteral ⟨2, 3, 31, 0⟩ 0x00FF_1234),
   ([0x8E21_FC00, 0x00FF_1234], .sshrLiteral ⟨2, 3, 31, 0⟩ 0x00FF_1234),
   ([0x9021_FC00, 0x00FF_1234], .ssarLiteral ⟨2, 3, 31, 0⟩ 0x00FF_1234),
   ([0x9221_FC08, 0x00FF_1234], .sminLiteral ⟨2, 3, 31, 8⟩ 0x00FF_1234),
   ([0x9421_FC08, 0x00FF_1234], .smaxLiteral ⟨2, 3, 31, 8⟩ 0x00FF_1234),
   ([0x9621_FC0A, 0x00FF_1234], .scmpLiteral ⟨2, 3, 31, 10⟩ 0x00FF_1234),
   ([0x9821_FC05, 0x00FF_1234], .sselLiteral ⟨2, 3, 31, 5⟩ 0x00FF_1234),
   ([0x9A2F_8000, 0x00FF_1234], .smovLiteral ⟨2, 31, 0, 0⟩ 0x00FF_1234)]

theorem test_decode_scalarWords : decodes false 1 scalarWords = true := by decide +kernel

/-- Words of the SCALAR page in a sequencer's stream, each its opcode and fields at their places in Tables 9.2, 9.3 and 9.8 to 9.15. -/
def scalarSeqWords : Words :=
  [([0x01DE_7800], .sadd ⟨29, 28, 30, 0⟩),
   ([0x03DE_7800], .ssub ⟨29, 28, 30, 0⟩),
   ([0x05DE_7800], .smul ⟨29, 28, 30, 0⟩),
   ([0x07DE_7800], .sand ⟨29, 28, 30, 0⟩),
   ([0x09DE_7800], .sor ⟨29, 28, 30, 0⟩),
   ([0x0BDE_7800], .sxor ⟨29, 28, 30, 0⟩),
   ([0x0DDE_7800], .sshl ⟨29, 28, 30, 0⟩),
   ([0x0FDE_7800], .sshr ⟨29, 28, 30, 0⟩),
   ([0x11DE_7800], .ssar ⟨29, 28, 30, 0⟩),
   ([0x13DE_7800], .smin ⟨29, 28, 30, 0⟩),
   ([0x15DE_7800], .smax ⟨29, 28, 30, 0⟩),
   ([0x17DE_7800], .scmp ⟨29, 28, 30, 0⟩),
   ([0x19DE_7800], .ssel ⟨29, 28, 30, 0⟩),
   ([0x1BDE_0000], .smov ⟨29, 28, 0, 0⟩),
   ([0x1DD0_0000], .smovi ⟨29, 0, 0, 0⟩)]

theorem test_decode_scalarSeqWords : decodes true 1 scalarSeqWords = true := by decide +kernel

/-- Words of the CONTROL page, each its opcode and fields at their places in Tables 9.2, 9.3 and 9.8 to 9.15. -/
def controlWords : Words :=
  [([0x0040_0005], .bra ⟨1, 0, 5⟩),
   ([0x029F_FFFE], .brp ⟨2, 0, 2097150⟩),
   ([0x04C0_0007], .call ⟨3, 0, 7⟩),
   ([0x0608_2002], .jmpi ⟨2, 4, 0, 1, 0⟩),
   ([0x0800_2002], .ret ⟨0, 4, 0, 1, 0⟩),
   ([0x0A00_0002], .exit ⟨0, 0, 0, 1, 0⟩),
   ([0x0C00_0092], .trap ⟨0, 0, 9, 1, 0⟩),
   ([0x0E00_000E], .rconv ⟨0, 0, 0, 7, 0⟩),
   ([0x1000_000E], .yield ⟨0, 0, 0, 7, 0⟩),
   ([0x1200_0002], .nop ⟨0, 0, 0, 1, 0⟩),
   ([0x1400_2802], .sleep ⟨0, 5, 0, 1, 0⟩),
   ([0x1600_2062, 0x1200_0000], .fork ⟨0, 4, 6, 1, 0⟩ ⟨9, 0, 0, 0, 0, 0⟩),
   ([0x180C_2802], .join_ ⟨3, 5, 0, 1, 0⟩),
   ([0x1A00_2062, 0x1400_0000], .spawn ⟨0, 4, 6, 1, 0⟩ ⟨10, 0, 0, 0, 0, 0⟩)]

theorem test_decode_controlWords : decodes false 2 controlWords = true := by decide +kernel

/-- Words of the CONTROL page in a sequencer's stream, each its opcode and fields at their places in Tables 9.2, 9.3 and 9.8 to 9.15. -/
def controlSeqWords : Words :=
  [([0x01C0_0005], .bra ⟨7, 0, 5⟩),
   ([0x05C0_0007], .call ⟨7, 0, 7⟩),
   ([0x0614_300E], .jmpi ⟨5, 6, 0, 7, 0⟩),
   ([0x0800_300E], .ret ⟨0, 6, 0, 7, 0⟩),
   ([0x0A00_000E], .exit ⟨0, 0, 0, 7, 0⟩),
   ([0x1200_000E], .nop ⟨0, 0, 0, 7, 0⟩)]

theorem test_decode_controlSeqWords : decodes true 2 controlSeqWords = true := by decide +kernel

/-- Words of the MEMORY page, each its opcode and fields at their places in Tables 9.2, 9.3 and 9.8 to 9.15. -/
def memoryWords : Words :=
  [([0x000C_2002, 0x0001_0010], .ldPair ⟨3, 4, 0, 1, 0⟩ ⟨0, 0, 0, 0, 2, 16⟩),
   ([0x0200_2072, 0x0000_0000], .stPair ⟨0, 4, 7, 1, 0⟩ ⟨0, 0, 0, 0, 0, 0⟩),
   ([0x040C_2002, 0x0000_0000], .ldaPair ⟨3, 4, 0, 1, 0⟩ ⟨0, 0, 0, 0, 0, 0⟩),
   ([0x0600_2072, 0x0000_0000], .stlPair ⟨0, 4, 7, 1, 0⟩ ⟨0, 0, 0, 0, 0, 0⟩),
   ([0x080C_2072, 0x0001_1800], .atomPair ⟨3, 4, 7, 1, 0⟩ ⟨0, 0, 0, 0, 2, 6144⟩),
   ([0x0A00_2072, 0x0001_1800], .atomnPair ⟨0, 4, 7, 1, 0⟩ ⟨0, 0, 0, 0, 2, 6144⟩),
   ([0x0C0C_2072, 0x1201_0000], .casPair ⟨3, 4, 7, 1, 0⟩ ⟨9, 0, 0, 0, 2, 0⟩),
   ([0x0E00_2002, 0x0000_0000], .pref ⟨0, 4, 0, 1, 0⟩ ⟨0, 0, 0, 0, 0, 0⟩),
   ([0x100C_2802, 0x0001_0010], .ldLocal ⟨3, 5, 0, 1, 0⟩ ⟨0, 0, 0, 0, 2, 16⟩),
   ([0x1200_2872, 0x0000_0000], .stLocal ⟨0, 5, 7, 1, 0⟩ ⟨0, 0, 0, 0, 0, 0⟩),
   ([0x140C_2802, 0x0000_0000], .ldaLocal ⟨3, 5, 0, 1, 0⟩ ⟨0, 0, 0, 0, 0, 0⟩),
   ([0x1600_2872, 0x0000_0000], .stlLocal ⟨0, 5, 7, 1, 0⟩ ⟨0, 0, 0, 0, 0, 0⟩),
   ([0x180C_2872, 0x0001_1800], .atomLocal ⟨3, 5, 7, 1, 0⟩ ⟨0, 0, 0, 0, 2, 6144⟩),
   ([0x1A00_2872, 0x0001_1800], .atomnLocal ⟨0, 5, 7, 1, 0⟩ ⟨0, 0, 0, 0, 2, 6144⟩),
   ([0x1C0C_2872, 0x1201_0000], .casLocal ⟨3, 5, 7, 1, 0⟩ ⟨9, 0, 0, 0, 2, 0⟩),
   ([0x2000_2062, 0x0000_0000], .publish ⟨0, 4, 6, 1, 0⟩ ⟨0, 0, 0, 0, 0, 0⟩),
   ([0x2200_0002, 0x0000_0000], .fence ⟨0, 0, 0, 1, 0⟩ ⟨0, 0, 0, 0, 0, 0⟩),
   ([0x2400_0002, 0x0000_0011], .fencex ⟨0, 0, 0, 1, 0⟩ ⟨0, 0, 0, 0, 0, 17⟩),
   ([0x2600_0002], .rdenter ⟨0, 0, 0, 1, 0⟩),
   ([0x2800_0002], .rdexit ⟨0, 0, 0, 1, 0⟩),
   ([0x2A0C_2062, 0x1200_0000], .retire ⟨3, 4, 6, 1, 0⟩ ⟨9, 0, 0, 0, 0, 0⟩),
   ([0x2C00_0002], .grace ⟨0, 0, 0, 1, 0⟩),
   ([0x2E08_2072, 0x0000_0000], .append ⟨2, 4, 7, 1, 0⟩ ⟨0, 0, 0, 0, 0, 0⟩),
   ([0x3000_2062, 0x0000_0000], .acommit ⟨0, 4, 6, 1, 0⟩ ⟨0, 0, 0, 0, 0, 0⟩),
   ([0x3208_2002, 0x0000_0000], .ahead ⟨2, 4, 0, 1, 0⟩ ⟨0, 0, 0, 0, 0, 0⟩),
   ([0x340C_2832], .bara ⟨3, 5, 3, 1, 0⟩),
   ([0x3600_2832], .barw ⟨0, 5, 3, 1, 0⟩),
   ([0x3800_2832], .bar ⟨0, 5, 3, 1, 0⟩),
   ([0x3A00_2882, 0x0000_0005], .wqpush ⟨0, 5, 8, 1, 0⟩ ⟨0, 0, 0, 0, 0, 5⟩),
   ([0x3C10_2802, 0x0000_0000], .wqpop ⟨4, 5, 0, 1, 0⟩ ⟨0, 0, 0, 0, 0, 0⟩),
   ([0x4000_2052], .chopenTx ⟨0, 4, 5, 1, 0⟩),
   ([0x4000_2452], .chopenRx ⟨0, 4, 69, 1, 0⟩),
   ([0x4200_0052], .chclose ⟨0, 0, 5, 1, 0⟩),
   ([0x4400_2852], .send ⟨0, 5, 5, 1, 0⟩),
   ([0x460C_0052], .recv ⟨3, 0, 5, 1, 0⟩),
   ([0x4800_0052], .chfence ⟨0, 0, 5, 1, 0⟩)]

theorem test_decode_memoryWords : decodes false 3 memoryWords = true := by decide +kernel

/-- Words of the COPY page, each its opcode and fields at their places in Tables 9.2, 9.3 and 9.8 to 9.15. -/
def copyWords : Words :=
  [([0x0000_2082, 0x0000_0000], .cpld ⟨0, 4, 8, 1, 0⟩ ⟨0, 0, 0, 0, 0, 0⟩),
   ([0x0200_2082, 0x0000_0000], .cpst ⟨0, 4, 8, 1, 0⟩ ⟨0, 0, 0, 0, 0, 0⟩),
   ([0x0400_2082, 0x1200_0000], .cpgather ⟨0, 4, 8, 1, 0⟩ ⟨9, 0, 0, 0, 0, 0⟩),
   ([0x0600_2082, 0x1200_0000], .cpscatter ⟨0, 4, 8, 1, 0⟩ ⟨9, 0, 0, 0, 0, 0⟩),
   ([0x0800_2082, 0x0000_0000], .cpfill ⟨0, 4, 8, 1, 0⟩ ⟨0, 0, 0, 0, 0, 0⟩),
   ([0x0A00_2002, 0x0000_0000], .cppagein ⟨0, 4, 0, 1, 0⟩ ⟨0, 0, 0, 0, 0, 0⟩),
   ([0x0C08_0002, 0x0000_0000], .cpstat ⟨2, 0, 0, 1, 0⟩ ⟨0, 0, 0, 0, 0, 0⟩),
   ([0x0E00_2072, 0x1200_0000], .cphand ⟨0, 4, 7, 1, 0⟩ ⟨9, 0, 0, 0, 0, 0⟩),
   ([0x1000_0002, 0x0000_0000], .cpcancel ⟨0, 0, 0, 1, 0⟩ ⟨0, 0, 0, 0, 0, 0⟩)]

theorem test_decode_copyWords : decodes false 4 copyWords = true := by decide +kernel

/-- Words of the MATRIX page in a sequencer's stream, each its opcode and fields at their places in Tables 9.2, 9.3 and 9.8 to 9.15. -/
def matrixWords : Words :=
  [([0x0050_0000], .mclaim ⟨5, 0, 0, 0, 0⟩),
   ([0x0250_0000], .mrel ⟨5, 0, 0, 0, 0⟩),
   ([0x0450_1800], .mfill ⟨5, 0, 3, 0, 0⟩),
   ([0x0480_1840], .mfillArg ⟨8, 0, 3, 0, 64⟩),
   ([0x0600_0005], .mzero ⟨0, 0, 0, 0, 5⟩),
   ([0x0850_0804], .mdrain ⟨5, 0, 1, 0, 4⟩),
   ([0x0A00_0000], .mwait ⟨0, 0, 0, 0, 0⟩),
   ([0x0C50_0001], .mstat ⟨5, 0, 0, 0, 1⟩),
   ([0x0E50_0002], .mscl ⟨5, 0, 0, 0, 2⟩),
   ([0x1000_0880], .mscacc ⟨0, 0, 1, 1, 0⟩),
   ([0x1200_1801], .mhad ⟨0, 0, 3, 0, 1⟩),
   ([0x1450_1901], .mmb ⟨5, 0, 3, 2, 1⟩),
   ([0x2050_1940], .mmaBf16 ⟨5, 0, 3, 2, 64⟩),
   ([0x2250_1940], .mmaF16 ⟨5, 0, 3, 2, 64⟩),
   ([0x2450_1940], .mmaI8 ⟨5, 0, 3, 2, 64⟩),
   ([0x2650_1902], .mmaP8 ⟨5, 0, 3, 2, 2⟩),
   ([0x2850_1940], .mmaE2m1 ⟨5, 0, 3, 2, 64⟩),
   ([0x2A50_1902], .mmaMxp8 ⟨5, 0, 3, 2, 2⟩),
   ([0x2C50_1940], .mmaMxe2m1 ⟨5, 0, 3, 2, 64⟩)]

theorem test_decode_matrixWords : decodes true 5 matrixWords = true := by decide +kernel

/-- Words of the SYSTEM page, each its opcode and fields at their places in Tables 9.2, 9.3 and 9.8 to 9.15. -/
def systemWords : Words :=
  [([0x000C_0002, 0x0000_000C], .csrrd ⟨3, 0, 0, 1, 0⟩ ⟨0, 0, 0, 0, 0, 12⟩),
   ([0x0200_2802, 0x0000_000C], .csrwr ⟨0, 5, 0, 1, 0⟩ ⟨0, 0, 0, 0, 0, 12⟩),
   ([0x0400_000E], .treturn ⟨0, 0, 0, 7, 0⟩),
   ([0x0608_0002], .cycle ⟨2, 0, 0, 1, 0⟩),
   ([0x0808_0002], .genq ⟨2, 0, 0, 1, 0⟩),
   ([0x0A00_0092], .dbgbrk ⟨0, 0, 9, 1, 0⟩),
   ([0x0C00_0002], .ckpt ⟨0, 0, 0, 1, 0⟩),
   ([0x0E00_0002], .rollbk ⟨0, 0, 0, 1, 0⟩),
   ([0x1008_0002], .sigrd ⟨2, 0, 0, 1, 0⟩),
   ([0x120C_0002], .suspq ⟨3, 0, 0, 1, 0⟩),
   ([0x140C_0002], .spstat ⟨3, 0, 0, 1, 0⟩),
   ([0x2000_0003], .regacq ⟨0, 0, 0, 3⟩),
   ([0x2200_0000], .regrel ⟨0, 0, 0, 0⟩),
   ([0x2421_8004], .spbegin ⟨2, 3, 0, 4⟩),
   ([0x2600_0005], .spguess ⟨0, 0, 0, 5⟩),
   ([0x2800_0000], .spcmp ⟨0, 0, 0, 0⟩),
   ([0x2A00_0000], .spend ⟨0, 0, 0, 0⟩)]

theorem test_decode_systemWords : decodes false 6 systemWords = true := by decide +kernel

end Sys2Proof.Tests
end

section
/-! O56: register writes, partitions and ports. What the shared operations of the module's registers do, and then the
statements RegisterWrites and PartitionsAndPorts. -/

namespace Sys2Proof.Proofs

open Sys2Proof.Machine Sys2Proof.Safety

/-! ### Finite maps: values changed in place, keys left out -/

/-- A change of every value changes the value found at a key. -/
theorem fget_map {α : Type} (m : FMap α) (f : Nat → α → α) (i : Nat) :
    fget (m.map fun p => (p.1, f p.1 p.2)) i = (fget m i).map (f i) := by
  induction m with
  | nil => rfl
  | cons p m ih =>
    obtain ⟨k, v⟩ := p
    by_cases h : k = i
    · subst h; simp [fget]
    · by_cases hlt : i < k
      · simp [fget, h, hlt]
      · simp [fget, h, hlt, ih]

/-- The value read, with a default that the change leaves as it is. -/
theorem getD_fget_map {α : Type} (m : FMap α) (f : Nat → α → α) (i : Nat) (d : α) (hd : f i d = d) :
    (fget (m.map fun p => (p.1, f p.1 p.2)) i).getD d = f i ((fget m i).getD d) := by
  rw [fget_map]
  cases fget m i with
  | none => exact hd.symm
  | some x => rfl

/-- What is found stands in the map. -/
theorem mem_of_fget {α : Type} {m : FMap α} {i : Nat} {x : α} (h : fget m i = some x) : (i, x) ∈ m := by
  induction m with
  | nil => simp [fget] at h
  | cons p m ih =>
    obtain ⟨k, v⟩ := p
    unfold fget at h
    split at h
    · rename_i hk
      obtain rfl := Option.some.inj h
      simp [hk]
    · split at h
      · cases h
      · exact List.mem_cons_of_mem _ (ih h)

/-- Nothing stands below the lowest key. -/
theorem fget_below {α : Type} {m : FMap α} {lo i : Nat} (hm : risingFrom lo m = true) (hi : i < lo) : fget m i = none := by
  cases m with
  | nil => rfl
  | cons p m =>
    obtain ⟨k, v⟩ := p
    simp only [risingFrom, Bool.and_eq_true, decide_eq_true_eq] at hm
    simp [fget, show k ≠ i by omega, show i < k by omega]

/-- Of a map with rising keys, the part whose keys are chosen. -/
theorem fget_filter_key {α : Type} {m : FMap α} {lo : Nat} (hm : risingFrom lo m = true) (keep : Nat → Bool) (i : Nat) :
    fget (m.filter fun q => keep q.1) i = if keep i then fget m i else none := by
  induction m generalizing lo with
  | nil => simp [fget]
  | cons p m ih =>
    obtain ⟨k, v⟩ := p
    simp only [risingFrom, Bool.and_eq_true, decide_eq_true_eq] at hm
    obtain ⟨-, hrest⟩ := hm
    have htail := ih hrest
    have hbelow : i ≤ k → fget m i = none := fun h => fget_below hrest (by omega)
    by_cases hk : keep k = true
    · simp only [List.filter_cons, hk, if_true, fget, htail]
      by_cases hki : k = i
      · subst hki; simp [hk]
      · by_cases hlt : i < k <;> simp [hki, hlt]
    · simp only [List.filter_cons, hk, Bool.false_eq_true, if_false, htail, fget]
      by_cases hki : k = i
      · subst hki; simp [hk]
      · by_cases hlt : i < k
        · simp [hki, hlt, hbelow (by omega)]
        · simp [hki, hlt]

/-! ### Every core changed in place -/

/-- A core that is absent, as it reads (R251). -/
def absentCore (cycle : Nat) : Core := { Core.reset with cycle := cycle }

/-- A core as it reads. -/
theorem core_eq_getD (s : State) (c : Nat) : s.core c = (fget s.cores c).getD (absentCore (s.die (c / 160)).cycle) := by
  unfold State.core
  cases fget s.cores c <;> rfl

/-- A change of every core that keeps absent cores reads back, while the die's arithmetic clock stays. -/
theorem core_of_map {s t : State} (f : Nat → Core → Core) (c : Nat) (hcores : t.cores = s.cores.map fun p => (p.1, f p.1 p.2))
    (hcycle : (t.die (c / 160)).cycle = (s.die (c / 160)).cycle) (habsent : ∀ n, f c (absentCore n) = absentCore n) :
    t.core c = f c (s.core c) := by
  rw [core_eq_getD, core_eq_getD, hcores, hcycle]
  exact getD_fget_map s.cores f c _ (habsent _)

/-! ### Conditional writes (R7, R373, R407) -/

/-- A device of the current mode takes writes unless the boot has failed. -/
theorem devOpen_of_lt {s : State} {k : Nat} (hb : bootStopped s = false) (hk : k < 4 / devDies s.pkg.mode) :
    devOpen s k = true := by
  simp [devOpen, devExists, hk, hb]

/-- An open device takes the field where its condition holds. -/
theorem putDev_of_open {s : State} {k : Nat} (h : devOpen s k = true) (ok : Bool) (f : Dev → Dev) :
    putDev s k ok f = if ok then s.setDev k (f (s.dev k)) else s := by
  simp [putDev, h, State.updDev]

/-- A queue of an open device takes the field unless the field asks for a queue that is not enabled. -/
theorem putQueue_of_usable {s : State} {k q : Nat} (h : queueUsable s k q = true) (stopped : Bool) (f : CQueue → CQueue) :
    putQueue s k q stopped f = if stopped && (s.queue k q).en then s else s.updQueue k q f := by
  cases stopped <;> cases hen : (s.queue k q).en <;> simp [putQueue, h, hen]

/-- After a boot failure no queue can be used: STAGE is below 6. -/
theorem queueUsable_of_bootStopped {s : State} (hb : bootStopped s = true) (k q : Nat) : queueUsable s k q = false := by
  simp only [bootStopped, decide_eq_true_eq] at hb
  simp [queueUsable, show s.pkg.stage ≠ 6 by omega]

/-- The state that a register write leaves. -/
def regWritten (s : State) (r : Reg) (v : Nat) : State := writeRasReg (writeDevReg (writeQueueReg s r v) r v) r v

/-- What a REGISTER_WRITE comes to. -/
theorem exec_registerWrite (s : State) (r : Reg) (v : BitVec 64) :
    exec (.registerWrite r v) s = .next (regWritten s r v.toNat) := rfl

/-- A write of a field that an open device takes unless the field is in use. -/
theorem registerWrite_dev {s : State} {k : Nat} {r : Reg} {v : BitVec 64} (hopen : devOpen s k = true) (used : Bool)
    (f : Dev → Dev) (hr : regWritten s r v.toNat = putDev s k (!used) f) :
    exec (.registerWrite r v) s = .next (if used then s else s.setDev k (f (s.dev k))) := by
  rw [exec_registerWrite, hr, putDev_of_open hopen]
  cases used <;> rfl

/-- A register write is one conditional write: of a queue's field, a device's, a die's, or of REPOUT and PWRCAP. -/
theorem regWritten_cases (s : State) (r : Reg) (v : Nat) :
    regWritten s r v = s ∨ (∃ k q b f, regWritten s r v = putQueue s k q b f) ∨ (∃ k ok f, regWritten s r v = putDev s k ok f) ∨
      (∃ d ok f, regWritten s r v = putDie s d ok f) ∨
      ∃ out cap, regWritten s r v = if bootStopped s then s else { s with pkg := { s.pkg with repout := out, pwrcap := cap } } := by
  cases r with
  | readOnly o => exact .inl rfl
  | qbase k q | qslice k q | qnosteal k q | qhomedie k q | qprio k q | qlog2n k q | qridx k q =>
    exact .inr (.inl ⟨k, q, _, _, rfl⟩)
  | pcfgRole k | wqtbase k | savebase k | savesize k | ckptbase k | ckptsize k | sptbase k | ftbase k | fqbase k | fqlog2n k
  | fqenClear k | rqbase k | rqlog2n k | rootdev k | devnum k | span k | stagebase k p | spillbase k p | poolqbase k p
  | poolqlog2n k p | pools k p | route k p =>
    exact .inr (.inr (.inl ⟨k, _, _, rfl⟩))
  | elbase d | elen d | ellog2n d | elcons d | susthr d | strthr d => exact .inr (.inr (.inr (.inl ⟨d, _, _, rfl⟩)))
  | monFreeze d m =>
    refine .inr (.inr (.inr (.inl ⟨d, true, fun x =>
      { x with monitors := fput x.monitors m { countDue (monitorOf s d m) with freeze := decide (v % 2 = 1) } }, ?_⟩)))
    cases h : bootStopped s <;> simp [regWritten, writeQueueReg, writeDevReg, writeRasReg, putDie, updMonitor, h]
  | repout => exact .inr (.inr (.inr (.inr ⟨v, s.pkg.pwrcap, rfl⟩)))
  | pwrcap => exact .inr (.inr (.inr (.inr ⟨s.pkg.repout, _, rfl⟩)))

/-- After a boot failure a register write changes nothing (R407). -/
theorem regWritten_of_bootStopped {s : State} (hb : bootStopped s = true) (r : Reg) (v : Nat) : regWritten s r v = s := by
  obtain h | ⟨k, q, b, f, h⟩ | ⟨k, ok, f, h⟩ | ⟨d, ok, f, h⟩ | ⟨out, cap, h⟩ := regWritten_cases s r v
  · exact h
  · rw [h]; simp [putQueue, queueUsable_of_bootStopped hb]
  · rw [h]; simp [putDev, devOpen, hb]
  · rw [h]; simp [putDie, hb]
  · rw [h]; simp [hb]

/-- A register write changes registers only (R7). -/
theorem regWritten_frame (s : State) (r : Reg) (v : Nat) :
    regWritten s r v = { s with
      pkg := { s.pkg with repout := (regWritten s r v).pkg.repout, pwrcap := (regWritten s r v).pkg.pwrcap }
      devs := (regWritten s r v).devs, dies := (regWritten s r v).dies, queues := (regWritten s r v).queues } := by
  obtain h | ⟨k, q, b, f, h⟩ | ⟨k, ok, f, h⟩ | ⟨d, ok, f, h⟩ | ⟨out, cap, h⟩ := regWritten_cases s r v <;> rw [h]
  · unfold putQueue; split <;> rfl
  · unfold putDev; split <;> rfl
  · unfold putDie; split <;> rfl
  · split <;> rfl

/-! ### The home-cache share (R56, R107) -/

/-- The tags of the granules below a share's boundary. -/
def tagsBelow (share : Nat) (k : Core) : FMap Nat := k.tags.filter fun q => decide (q.1 * 64 < addressable share)

/-- A core of the state with the tags beyond a share of its device gone. -/
def coreShared (s : State) (dev share c : Nat) (k : Core) : Core :=
  if devOfCore s c = dev then { k with tags := tagsBelow share k } else k

/-- shareTags takes the tags beyond the share from the device's cores. -/
theorem shareTags_core (s : State) (dev share c : Nat) :
    (shareTags s dev share).core c = coreShared s dev share c (s.core c) := by
  refine core_of_map (coreShared s dev share) c (List.map_congr_left fun p _ => ?_) rfl fun n => ?_
  · unfold coreShared; split <;> rfl
  · unfold coreShared; split <;> rfl

/-- The tags of every core stand by rising keys. -/
theorem rising_tags {s : State} (h : ∀ p ∈ s.cores, risingFrom 0 p.2.tags = true) (c : Nat) :
    risingFrom 0 (s.core c).tags = true := by
  unfold State.core
  split
  · rename_i k hk; exact h _ (mem_of_fget hk)
  · rfl

/-- Granules beyond the share hold tag 0, those below it the tag they had. -/
theorem granTag_tagsBelow {k : Core} (hk : risingFrom 0 k.tags = true) (share n : Nat) :
    granTag { k with tags := tagsBelow share k } n = if n * 64 < addressable share then granTag k n else 0 := by
  simp only [granTag, tagsBelow, fget_filter_key hk fun g => decide (g * 64 < addressable share), decide_eq_true_eq]
  split <;> rfl

/-- HCSHARE_WRITE is ignored unless the device is drained and the share is not 3. -/
theorem hcshareWrite_ignored {s : State} {k : Nat} {share : BitVec 2} (h : ¬ (drained s k = true ∧ share ≠ 3)) :
    exec (.hcshareWrite k share) s = .next s := by
  have hok : (drained s k && decide (share ≠ 3)) = false := by simpa using h
  change execHcshareWrite k share s = _
  simp only [execHcshareWrite, putDev, hok, Bool.and_false, Bool.false_eq_true, if_false]

/-- A drained device takes the share. -/
theorem hcshareWrite_taken {s : State} {k : Nat} {share : BitVec 2} (hopen : devOpen s k = true) (hd : drained s k = true)
    (h3 : share ≠ 3) :
    exec (.hcshareWrite k share) s =
      .next (shareTags (s.setDev k { s.dev k with hcshare := share.toNat }) k share.toNat) := by
  have hok : (drained s k && decide (share ≠ 3)) = true := by simpa [hd] using h3
  change execHcshareWrite k share s = _
  simp only [execHcshareWrite, putDev_of_open hopen, hok, hopen, Bool.and_self, if_true]

/-! ### Clock points, the pod, exports and windows -/

/-- CLKPT_WRITE on an open device. -/
theorem clkptWrite_eq {s : State} {k : Nat} (hopen : devOpen s k = true) (p : BitVec 3) :
    exec (.clkptWrite k p) s = .next (if p.toNat ≤ 5 then s.setDev k { s.dev k with
      clkpt := p.toNat
      clkTarget := if (s.dev k).clkpt < (s.dev k).clkTarget then max (s.dev k).clkTarget p.toNat else p.toNat } else s) := by
  change execClkptWrite k p s = _
  simp [execClkptWrite, putDev_of_open hopen]

/-- The bits of a word between two places. -/
theorem bitsOf_toNat {n : Nat} (w : BitVec n) (hi lo : Nat) : bitsOf w.toNat hi lo = (w.extractLsb' lo (hi + 1 - lo)).toNat := by
  simp [bitsOf, BitVec.extractLsb'_toNat, Nat.shiftRight_eq_div_pow]

/-- What an EXP entry of 128 bits describes (Table 20.3). -/
def exportOfBits (w : BitVec 128) : Export :=
  { key := w.extractLsb' 112 16, space := (w.extractLsb' 96 16).toNat, valid := w.getLsbD 90, ring := w.getLsbD 89
    size := (w.extractLsb' 64 25).toNat, base := (w.extractLsb' 0 64).toNat }

/-- What a PWIN entry of 128 bits describes (Table 20.4). -/
def windowOfBits (w : BitVec 128) : Window :=
  { size := (w.extractLsb' 64 25).toNat, valid := w.getLsbD 63, target := (w.extractLsb' 44 10).toNat
    exp := (w.extractLsb' 32 12).toNat, key := w.extractLsb' 0 16 }

/-- EXP_WRITE on an open device. -/
theorem expWrite_eq {s : State} {k : Nat} (hopen : devOpen s k = true) (i : Nat) (w : BitVec 128) :
    exec (.expWrite k i w) s = .next { s with exports := fput s.exports (k * 4096 + i) (exportOfBits w) } := by
  change execExpWrite k i w s = _
  simp only [execExpWrite, hopen, if_true, bitsOf_toNat, BitVec.testBit_toNat, Nat.reduceAdd, Nat.reduceSub, BitVec.ofNat_toNat,
    BitVec.setWidth_eq]
  rfl

/-- PWIN_WRITE on an open device. -/
theorem pwinWrite_eq {s : State} {k : Nat} (hopen : devOpen s k = true) (i : Nat) (w : BitVec 128) :
    exec (.pwinWrite k i w) s = .next { s with windows := fput s.windows (k * 64 + i) (windowOfBits w) } := by
  change execPwinWrite k i w s = _
  simp only [execPwinWrite, hopen, if_true, bitsOf_toNat, BitVec.testBit_toNat, Nat.reduceAdd, Nat.reduceSub, BitVec.ofNat_toNat,
    BitVec.setWidth_eq]
  rfl

/-- A pod's root with new members: its poll begins anew, and what was said of the old one is dropped (R418). -/
def podChanged (m : BitVec 1024) (d : Dev) : Dev :=
  { d with
    podmem := m, pod := { d.pod with poll := none, drained := [] }
    podIn := d.podIn.filter fun p => match p.2 with | .drained _ => false | _ => true
    podTold := d.podTold.filter fun p => match p.2 with | .poll _ => false | _ => true }

/-- PODMEM_WRITE at the pod's root. -/
theorem podmemWrite_root {s : State} {k : Nat} (hopen : devOpen s k = true) (hroot : (s.dev k).rootdev = (s.dev k).devnum)
    (m : BitVec 1024) : exec (.podmemWrite k m) s = .next (s.setDev k (podChanged m (s.dev k))) := by
  change execPodmemWrite k m s = _
  rw [execPodmemWrite, putDev_of_open hopen, if_pos (decide_eq_true hroot)]
  rfl

/-! ### A new mode (R368) -/

/-- A core after every translation cache is emptied. -/
def coreNoTlbs (k : Core) : Core := { k with tlb := [], copyTlb := [], codeTlb := [], icache := [] }

/-- A die after Vesper's reset. -/
def dieNoVesper (x : Die) : Die := { x with vesper := Vesper.reset, parked0 := 0, parked1 := 0, ck0 := 0, ck1 := 0 }

/-- A device after Vesper's reset. -/
def devNoVesper (d : Dev) : Dev := { d with vesper := Vesper.reset, pod := Vesper.reset, podIn := [], podTold := [] }

/-- clearTlbs empties every core's caches. -/
@[simp] theorem clearTlbs_core (s : State) (c : Nat) : (clearTlbs s).core c = coreNoTlbs (s.core c) :=
  core_of_map (fun _ => coreNoTlbs) c rfl rfl fun _ => rfl

/-- clearTlbs empties every device's inbound cache. -/
@[simp] theorem clearTlbs_dev (s : State) (k : Nat) : (clearTlbs s).dev k = { s.dev k with inTlb := [] } :=
  getD_fget_map s.devs (fun _ d => { d with inTlb := [] }) k Dev.reset rfl

/-- resetVesper resets every die's node. -/
@[simp] theorem resetVesper_die (s : State) (d : Nat) : (resetVesper s).die d = dieNoVesper (s.die d) :=
  getD_fget_map s.dies (fun _ => dieNoVesper) d Die.reset rfl

/-- resetVesper resets every device's nodes. -/
@[simp] theorem resetVesper_dev (s : State) (k : Nat) : (resetVesper s).dev k = devNoVesper (s.dev k) :=
  getD_fget_map s.devs (fun _ => devNoVesper) k Dev.reset rfl

/-- resetVesper leaves every core with fresh tags. -/
@[simp] theorem resetVesper_core (s : State) (c : Nat) : (resetVesper s).core c = freshTags (s.core c) :=
  core_of_map (fun _ => freshTags) c rfl (by rw [resetVesper_die]; rfl) fun _ => rfl

/-- A core with fresh tags has tag 0 at every granule. -/
theorem granTag_freshTags (k : Core) (n : Nat) : granTag (freshTags k) n = 0 := rfl

/-- A core with fresh tags has tag 0 in every register row. -/
theorem rowTag_freshTags (k : Core) (n : Nat) : (rowAt (freshTags k) n).tag = 0 := by
  rw [rowAt, show (freshTags k).rows = k.rows.map fun p => (p.1, { p.2 with tag := 0 }) from rfl,
    getD_fget_map k.rows (fun _ r => { r with tag := 0 }) n _ rfl]

/-- MODE_CHANGE_DONE while a change is under way. -/
theorem modeChangeDone_busy {s : State} (h : s.pkg.busy = true) :
    ∃ t, exec .modeChangeDone s = .next t ∧ t = { resetVesper (clearTlbs s) with
      pkg := { s.pkg with mode := s.pkg.modeNext, busy := false }
      devs := (resetVesper (clearTlbs s)).devs.map fun p => (p.1, { p.2 with launchCtr := 0 })
      queues := t.queues } :=
  ⟨_, show execModeChangeDone s = _ from if_neg (by simp [h]), rfl⟩

/-- PMODE_MODE_WRITE of another mode than the current one. -/
theorem pmodeModeWrite_other {s : State} (hb : bootStopped s = false) {m : BitVec 2} (h : m.toNat ≠ s.pkg.mode) :
    exec (.pmodeModeWrite m) s = .next { s with
      pkg := if m ≠ 3 ∧ quiet s = true then { s.pkg with busy := true, modeNext := m.toNat } else { s.pkg with refused := true } } := by
  have h3 : m = 3 ↔ m.toNat = 3 := BitVec.toNat_inj.symm
  change execPmodeModeWrite m s = _
  rw [execPmodeModeWrite, if_neg (by simp [hb, h])]
  by_cases ha : m ≠ 3 ∧ quiet s = true
  · rw [if_neg (by simpa [← h3] using ha), if_pos ha]
  · rw [if_pos (by simpa [← h3, or_iff_not_imp_left] using ha), if_neg ha]

/-! ### The CXL ports (R364) -/

/-- A port changed is read back. -/
@[simp] theorem cxlOf_updCxl (s : State) (p : Nat) (f : Cxl → Cxl) : cxlOf (updCxl s p f) p = f (cxlOf s p) := by
  simp [cxlOf, updCxl]

/-- A change of a port changes the ports only. -/
theorem updCxl_frame (s : State) (p : Nat) (f : Cxl → Cxl) :
    updCxl s p f = { s with pkg := { s.pkg with cxl := (updCxl s p f).pkg.cxl } } := rfl

/-- CXL_PORT_ENABLE of a port that is not enabled. -/
theorem cxlPortEnable_eq {s : State} {p : Nat} (hb : bootStopped s = false) (h : (cxlOf s p).en = false) :
    exec (.cxlPortEnable p) s = .next (updCxl s p fun _ => { en := true, state := 1, cap := 0 }) :=
  show execCxlPortEnable p s = _ from if_neg (by simp [hb, h])

/-- CXL_PORT_DISABLE. -/
theorem cxlPortDisable_eq {s : State} (hb : bootStopped s = false) (p : Nat) :
    exec (.cxlPortDisable p) s = .next (if portMapped s p then s else updCxl s p fun _ => Cxl.reset) := by
  change execCxlPortDisable p s = _
  cases h : portMapped s p <;> simp [execCxlPortDisable, hb, h]

/-- CXL_TRAINING_DONE of a port that trains. -/
theorem cxlTrainingDone_eq {s : State} {p : Nat} (h : (cxlOf s p).state = 1) (type3 : Bool) (cap : Nat) :
    exec (.cxlTrainingDone p type3 cap) s = .next (updCxl s p fun x =>
      { x with state := if type3 then 2 else 3, cap := if type3 then min cap (2 ^ 24) else 0 }) := by
  change execCxlTrainingDone p type3 cap s = _
  rw [execCxlTrainingDone, if_neg (by simp [h])]
  cases type3 <;> rfl

/-! ### O56 -/

/-- A drained device takes a share: beside the share, only the tags of its cores change. -/
theorem hcshareWrite_effect {s : State} {k : Nat} {share : BitVec 2} (hopen : devOpen s k = true) (hd : drained s k = true)
    (h3 : share ≠ 3) (hr : ∀ p ∈ s.cores, risingFrom 0 p.2.tags = true) :
    ∃ t, exec (.hcshareWrite k share) s = .next t ∧
      t = { s.setDev k { s.dev k with hcshare := share.toNat } with cores := t.cores } ∧ ∀ c,
        (devOfCore s c ≠ k → t.core c = s.core c) ∧
        (devOfCore s c = k → t.core c = { s.core c with tags := (t.core c).tags } ∧
          ∀ n, granTag (t.core c) n = if n * 64 < addressable share.toNat then granTag (s.core c) n else 0) := by
  refine ⟨_, hcshareWrite_taken hopen hd h3, rfl, fun c => ?_⟩
  have hcore : (shareTags (s.setDev k { s.dev k with hcshare := share.toNat }) k share.toNat).core c =
      coreShared s k share.toNat c (s.core c) := shareTags_core ..
  rw [hcore]
  refine ⟨fun h => if_neg h, fun h => ?_⟩
  rw [coreShared, if_pos h]
  exact ⟨rfl, granTag_tagsBelow (rising_tags hr c) _⟩

/-- REGISTER_WRITE and the writes of shares, clock points, the pod's members, exports and windows. -/
theorem registerWrites : Parts.RegisterWrites := by
  intro s v
  refine ⟨fun r hb => ?_, fun r => ⟨_, exec_registerWrite s r v, regWritten_frame s r v.toNat⟩, fun _ => rfl, fun hb => ⟨?_, ?_⟩⟩
  · rw [exec_registerWrite, regWritten_of_bootStopped hb]
  · simp [exec_registerWrite, regWritten, writeQueueReg, writeDevReg, writeRasReg, hb]
  intro k hk
  have hopen : devOpen s k = true := devOpen_of_lt hb hk
  refine ⟨?sptbase, ?fqbase, ?fqen, ?devnum, ?qbase, fun share => ⟨hcshareWrite_ignored, hcshareWrite_effect hopen⟩,
    ?clkIgnored, ?clkTaken, ?podmem, fun i w => ⟨expWrite_eq hopen i w, pwinWrite_eq hopen i w⟩⟩
  case sptbase => exact registerWrite_dev hopen (launchHere s k) (fun d => { d with sptbase := v.toNat }) rfl
  case fqbase => exact registerWrite_dev hopen (s.dev k).fqen (fun d => { d with fqbase := v.toNat }) rfl
  case fqen => exact registerWrite_dev hopen false (fun d => { d with fqen := false }) rfl
  case devnum => exact registerWrite_dev hopen (s.dev k).span (fun d => { d with devnum := v.toNat % 2 ^ 10 }) rfl
  case qbase =>
    intro q hq hstage
    have husable : queueUsable s k q = true := by simp [queueUsable, devExists, hk, hstage, hq]
    rw [exec_registerWrite, show regWritten s (.qbase k q) v.toNat = putQueue s k q _ _ from rfl, putQueue_of_usable husable]
    rfl
  case clkIgnored =>
    intro p hp
    rw [clkptWrite_eq hopen, if_neg (by omega)]
  case clkTaken =>
    intro p hp hcalm
    rw [clkptWrite_eq hopen, if_pos hp, if_neg (by omega)]
  case podmem =>
    intro m hroot
    exact ⟨_, podmemWrite_root hopen hroot m, rfl, rfl, rfl⟩

/-- With the new mode nothing of the old one is left but memory. -/
theorem modeChangeDone_effect {s : State} (h : s.pkg.busy = true) :
    ∃ t, exec .modeChangeDone s = .next t ∧ t.pkg = { s.pkg with mode := s.pkg.modeNext, busy := false } ∧
      t.mem = s.mem ∧ t.cmem = s.cmem ∧
      (∀ c n, (t.core c).tlb = [] ∧ (t.core c).copyTlb = [] ∧ (t.core c).codeTlb = [] ∧ (t.core c).icache = [] ∧
        (t.core c).gen = 1 ∧ (t.core c).f = 0 ∧ (t.core c).c = 0 ∧
        granTag (t.core c) n = 0 ∧ (rowAt (t.core c) n).tag = 0) ∧
      ∀ d, (t.die d).vesper = Vesper.reset ∧ (t.dev d).vesper = Vesper.reset ∧ (t.dev d).launchCtr = 0 ∧ (t.dev d).inTlb = [] := by
  obtain ⟨t, ht, hform⟩ := modeChangeDone_busy h
  have hcore (c : Nat) : t.core c = freshTags (coreNoTlbs (s.core c)) := by
    rw [hform, ← clearTlbs_core, ← resetVesper_core]; rfl
  have hdie (d : Nat) : t.die d = dieNoVesper (s.die d) := by
    rw [hform]; exact resetVesper_die (clearTlbs s) d
  have hdev (k : Nat) : t.dev k = { devNoVesper ((clearTlbs s).dev k) with launchCtr := 0 } := by
    rw [hform, ← resetVesper_dev]
    exact getD_fget_map (resetVesper (clearTlbs s)).devs (fun _ d => { d with launchCtr := 0 }) k Dev.reset rfl
  refine ⟨t, ht, by rw [hform], by rw [hform]; rfl, by rw [hform]; rfl, fun c n => ?_, fun d => ?_⟩
  · rw [hcore]
    exact ⟨rfl, rfl, rfl, rfl, rfl, rfl, rfl, granTag_freshTags _ n, rowTag_freshTags _ n⟩
  · rw [hdie, hdev, clearTlbs_dev]
    exact ⟨rfl, rfl, rfl, rfl⟩

/-- The partition mode, clock points reached, and the CXL ports. -/
theorem partitionsAndPorts : Parts.PartitionsAndPorts := by
  intro s
  refine ⟨modeChangeDone_effect, fun _ => rfl, ?training, fun hb => ⟨?refused, fun m => ⟨?same, pmodeModeWrite_other hb⟩,
    fun p => ⟨?enable, ?disable, ?mapped⟩⟩⟩
  case training =>
    intro p type3 cap h
    exact ⟨_, cxlTrainingDone_eq h type3 cap, cxlOf_updCxl .., updCxl_frame ..⟩
  case refused =>
    change execPmodeRefusedClear s = _
    simp [execPmodeRefusedClear, hb]
  case same =>
    intro h
    exact show execPmodeModeWrite m s = _ from if_pos (.inr h)
  case enable =>
    intro h
    exact ⟨_, cxlPortEnable_eq hb h, cxlOf_updCxl .., updCxl_frame ..⟩
  case disable =>
    intro h
    exact ⟨_, by rw [cxlPortDisable_eq hb, if_neg (by simp [h])], cxlOf_updCxl .., updCxl_frame ..⟩
  case mapped =>
    intro h
    rw [cxlPortDisable_eq hb, if_pos h]

/-- Settles O56: a register write is one conditional write of a field; a mode change maps every core, die and device to its
fresh form. -/
theorem registersAndPartitions : Obligations.RegistersAndPartitions := ⟨registerWrites, partitionsAndPorts⟩

end Sys2Proof.Proofs
end

section
/-! What every step keeps, said once: of the maps' order, of memory's canonical form and of the partition mode. -/

namespace Sys2Proof.Proofs

open Sys2Proof.Machine Sys2Proof.Safety

/-! ### Maps with rising keys -/

section
variable {α : Type} {m : FMap α}

/-- A lower bound may be lowered. -/
theorem rising_mono {a b : Nat} (hab : a ≤ b) (h : risingFrom b m = true) : risingFrom a m = true := by
  cases m with
  | nil => rfl
  | cons p m =>
    simp only [risingFrom, Bool.and_eq_true, decide_eq_true_eq] at h ⊢
    exact ⟨by omega, h.2⟩

/-- Putting a value keeps the keys rising. -/
theorem rising_fput {lo i : Nat} {x : α} (hi : lo ≤ i) (h : risingFrom lo m = true) : risingFrom lo (fput m i x) = true := by
  induction m generalizing lo with
  | nil => simpa [fput, risingFrom] using hi
  | cons p m ih =>
    obtain ⟨k, v⟩ := p
    simp only [risingFrom, Bool.and_eq_true, decide_eq_true_eq] at h
    obtain ⟨hk, hm⟩ := h
    unfold fput
    split
    · subst_vars; simp [risingFrom, hi, hm]
    · split
      · rename_i hlt
        simp [risingFrom, hi, hm, Nat.succ_le_of_lt hlt]
      · simp only [risingFrom, Bool.and_eq_true, decide_eq_true_eq]
        exact ⟨hk, ih (by omega) hm⟩

/-- Removing a key keeps the keys rising. -/
theorem rising_fdel {lo i : Nat} (h : risingFrom lo m = true) : risingFrom lo (fdel m i) = true := by
  induction m generalizing lo with
  | nil => rfl
  | cons p m ih =>
    obtain ⟨k, v⟩ := p
    simp only [risingFrom, Bool.and_eq_true, decide_eq_true_eq] at h
    obtain ⟨hk, hm⟩ := h
    unfold fdel
    split
    · exact rising_mono (by omega) hm
    · split <;> simp only [risingFrom, Bool.and_eq_true, decide_eq_true_eq]
      · exact ⟨hk, hm⟩
      · exact ⟨hk, ih hm⟩

/-- Changing a value keeps the keys rising. -/
theorem rising_fupd {i : Nat} {f : α → α} (h : risingFrom 0 m = true) : risingFrom 0 (fupd m i f) = true := by
  unfold fupd
  split
  · exact rising_fput (Nat.zero_le _) h
  · exact h

/-- Choosing entries keeps the keys rising. -/
theorem rising_filter {lo : Nat} {p : Nat × α → Bool} (h : risingFrom lo m = true) : risingFrom lo (m.filter p) = true := by
  induction m generalizing lo with
  | nil => rfl
  | cons q m ih =>
    simp only [risingFrom, Bool.and_eq_true, decide_eq_true_eq] at h
    obtain ⟨hk, hm⟩ := h
    rw [List.filter_cons]
    split
    · simp only [risingFrom, Bool.and_eq_true, decide_eq_true_eq]
      exact ⟨hk, ih hm⟩
    · exact rising_mono (by omega) (ih hm)

/-- Changing every value keeps the keys rising. -/
theorem rising_map {β : Type} {lo : Nat} {f : Nat × α → Nat × β} (hf : ∀ p, (f p).1 = p.1) (h : risingFrom lo m = true) :
    risingFrom lo (m.map f) = true := by
  induction m generalizing lo with
  | nil => rfl
  | cons q m ih =>
    simp only [List.map_cons, risingFrom, Bool.and_eq_true, decide_eq_true_eq, hf] at h ⊢
    exact ⟨h.1, ih h.2⟩

end

/-! ### What a core and a state keep -/

/-- A core has its warps by rising keys and its slice in the canonical form wherever the state s has. -/
structure CoreKept (s : State) (k : Core) : Prop where
  warps : orderedMaps s = true → risingFrom 0 k.warps = true
  data : canonicalMemory s = true → memWf k.data = true

/-- State t keeps what a state s holds to: its maps by rising keys, its memories in the canonical form, a legal mode. -/
structure Kept (s t : State) : Prop where
  wgs : orderedMaps s = true → risingFrom 0 t.wgs = true
  launches : orderedMaps s = true → risingFrom 0 t.launches = true
  mem : canonicalMemory s = true → memWf t.mem = true
  cmem : canonicalMemory s = true → memWf t.cmem = true
  cores : ∀ p ∈ t.cores, CoreKept s p.2
  mode : legalMode s = true → legalMode t = true

/-- An outcome goes on with a state that keeps what s holds to. -/
def Goes (s : State) (o : Host.Outcome State Fault Refusal) : Prop := ∃ t, o = .next t ∧ Kept s t

/-- A state that comes with an answer keeps. -/
def FstKept {α : Type} (s : State) (p : State × α) : Prop := Kept s p.1

/-- A state that is there keeps. -/
def OptKept (s : State) (o : Option State) : Prop := ∀ t, o = some t → Kept s t

/-- A state that is there with an answer keeps. -/
def OptFstKept {α : Type} (s : State) (o : Option (State × α)) : Prop := ∀ p, o = some p → Kept s p.1

/-- The state a popped pool queue leaves keeps. -/
def PoolKept (s : State) : PoolAns → Prop
  | .item t _ _ | .refused t => Kept s t
  | .empty => True

/-- The state an installed bounce frame leaves keeps. -/
def BounceKept (s : State) : BounceAns → Prop
  | .ok t _ | .none_ t => Kept s t
  | .empty => True

/-- The state a message put in its ring leaves keeps. -/
def RingKept (s : State) : RingAns → Prop
  | .put t => Kept s t
  | .full | .none_ => True

/-- The state an inbound access leaves keeps. -/
def InKept (s : State) : InAns → Prop
  | .done t | .wait t _ => Kept s t

/-- The state a plan leaves keeps. -/
def PlanKept (s : State) (p : Plan) : Prop := Kept s p.next

/-- Someone issues: a sequencer, or a warp's entry whose workgroup and launch exist. -/
def CanIssue (s : State) : Prop :=
  match s.cur with
  | .warp c sl ei => ∀ i, (ctxOf s c sl ei i).isSome = true
  | .sequencer _ => True
  | .nobody => False

/-- The fields of a state that `Kept` speaks of. -/
def tracked (t : State) : FMap Wg × FMap Launch × Mem × Mem × FMap Core × Nat × Nat :=
  (t.wgs, t.launches, t.mem, t.cmem, t.cores, t.pkg.mode, t.pkg.modeNext)

/-- A state keeps what it holds to. -/
theorem kept_refl (s : State) : Kept s s := by
  have cores : ∀ p ∈ s.cores, CoreKept s p.2 := by
    intro p hp
    constructor <;> intro h
    · simp only [orderedMaps, Bool.and_eq_true, List.all_eq_true] at h
      exact h.2 p hp
    · simp only [canonicalMemory, Bool.and_eq_true, List.all_eq_true] at h
      exact h.2 p hp
  refine ⟨fun h => ?_, fun h => ?_, fun h => ?_, fun h => ?_, cores, id⟩
  · simp only [orderedMaps, Bool.and_eq_true] at h
    exact h.1.1
  · simp only [orderedMaps, Bool.and_eq_true] at h
    exact h.1.2
  · simp only [canonicalMemory, Bool.and_eq_true] at h
    exact h.1.1
  · simp only [canonicalMemory, Bool.and_eq_true] at h
    exact h.1.2

section
variable {s t u : State}

/-- What is kept is ordered maps, … -/
theorem Kept.ordered (h : Kept s t) (hs : orderedMaps s = true) : orderedMaps t = true := by
  simp only [orderedMaps, Bool.and_eq_true, List.all_eq_true]
  exact ⟨⟨h.wgs hs, h.launches hs⟩, fun p hp => (h.cores p hp).warps hs⟩

/-- … and canonical memory. -/
theorem Kept.canonical (h : Kept s t) (hs : canonicalMemory s = true) : canonicalMemory t = true := by
  simp only [canonicalMemory, Bool.and_eq_true, List.all_eq_true]
  exact ⟨⟨h.mem hs, h.cmem hs⟩, fun p hp => (h.cores p hp).data hs⟩

/-- Keeping goes on. -/
theorem Kept.trans (h : Kept s t) (g : Kept t u) : Kept s u where
  wgs hs := g.wgs (h.ordered hs)
  launches hs := g.launches (h.ordered hs)
  mem hs := g.mem (h.canonical hs)
  cmem hs := g.cmem (h.canonical hs)
  cores p hp := ⟨fun hs => (g.cores p hp).warps (h.ordered hs), fun hs => (g.cores p hp).data (h.canonical hs)⟩
  mode hs := g.mode (h.mode hs)

/-- The fields of a state that `Kept` does not speak of may change. -/
theorem kept_same (h : Kept s t) (e : tracked u = tracked t) : Kept s u := by
  simp only [tracked, Prod.mk.injEq] at e
  obtain ⟨hw, hl, hm, hc, hk, hp, hn⟩ := e
  refine ⟨hw ▸ h.wgs, hl ▸ h.launches, hm ▸ h.mem, hc ▸ h.cmem, hk ▸ h.cores, ?_⟩
  simpa only [legalMode, hp, hn] using h.mode

section
variable
  {devs : FMap Dev} {dies : FMap Die} {seqs : FMap Sequencer} {queues : FMap CQueue} {exports : FMap Export} {windows
  : FMap Window} {poison : List Nat} {net aside : List Req} {msgs : List Msg} {inWait : List Inbound} {linkOut : List
  LinkMsg} {debug : List DbgEvent} {nextId nextWg nextLaunch freeCtr : Nat} {cur : Issuer} {agenda : List Move}

/-- A change of other fields. -/
theorem kept_frame (h : Kept s t) :
    Kept s { t with
      devs := devs, dies := dies, seqs := seqs, queues := queues, exports := exports, windows := windows, poison :=
      poison, net := net, aside := aside, msgs := msgs, inWait := inWait, linkOut := linkOut, debug := debug, nextId
      := nextId, nextWg := nextWg, nextLaunch := nextLaunch, freeCtr := freeCtr, cur := cur, agenda := agenda } :=
  kept_same h rfl

/-- Device memory changed in its form. -/
theorem kept_mem {m : Mem} (h : Kept s t) (hm : memWf t.mem = true → memWf m = true) :
    Kept s { t with
      mem := m, devs := devs, dies := dies, seqs := seqs, queues := queues, exports := exports, windows := windows,
      poison := poison, net := net, aside := aside, msgs := msgs, inWait := inWait, linkOut := linkOut, debug :=
      debug, nextId := nextId, nextWg := nextWg, nextLaunch := nextLaunch, freeCtr := freeCtr, cur := cur, agenda :=
      agenda } :=
  ⟨h.wgs, h.launches, fun hs => hm (h.mem hs), h.cmem, h.cores, h.mode⟩

/-- Companion memory changed in its form. -/
theorem kept_cmem {m : Mem} (h : Kept s t) (hm : memWf t.cmem = true → memWf m = true) :
    Kept s { t with
      cmem := m, devs := devs, dies := dies, seqs := seqs, queues := queues, exports := exports, windows := windows,
      poison := poison, net := net, aside := aside, msgs := msgs, inWait := inWait, linkOut := linkOut, debug :=
      debug, nextId := nextId, nextWg := nextWg, nextLaunch := nextLaunch, freeCtr := freeCtr, cur := cur, agenda :=
      agenda } :=
  ⟨h.wgs, h.launches, h.mem, fun hs => hm (h.cmem hs), h.cores, h.mode⟩

/-- The workgroups changed, their keys still rising. -/
theorem kept_wgs {m : FMap Wg} (h : Kept s t) (hm : risingFrom 0 t.wgs = true → risingFrom 0 m = true) :
    Kept s { t with
      wgs := m, devs := devs, dies := dies, seqs := seqs, queues := queues, exports := exports, windows := windows,
      poison := poison, net := net, aside := aside, msgs := msgs, inWait := inWait, linkOut := linkOut, debug :=
      debug, nextId := nextId, nextWg := nextWg, nextLaunch := nextLaunch, freeCtr := freeCtr, cur := cur, agenda :=
      agenda } :=
  ⟨fun hs => hm (h.wgs hs), h.launches, h.mem, h.cmem, h.cores, h.mode⟩

/-- The launches changed, their keys still rising. -/
theorem kept_launches {m : FMap Launch} (h : Kept s t) (hm : risingFrom 0 t.launches = true → risingFrom 0 m = true) :
    Kept s { t with
      launches := m, devs := devs, dies := dies, seqs := seqs, queues := queues, exports := exports, windows :=
      windows, poison := poison, net := net, aside := aside, msgs := msgs, inWait := inWait, linkOut := linkOut, debug
      := debug, nextId := nextId, nextWg := nextWg, nextLaunch := nextLaunch, freeCtr := freeCtr, cur := cur, agenda
      := agenda } :=
  ⟨h.wgs, fun hs => hm (h.launches hs), h.mem, h.cmem, h.cores, h.mode⟩

/-- Every core changed in place. -/
theorem kept_cores {f : Nat × Core → Nat × Core} (h : Kept s t) (hf : ∀ p, CoreKept s p.2 → CoreKept s (f p).2) :
    Kept s { t with
      cores := t.cores.map f, devs := devs, dies := dies, seqs := seqs, queues := queues, exports := exports, windows
      := windows, poison := poison, net := net, aside := aside, msgs := msgs, inWait := inWait, linkOut := linkOut,
      debug := debug, nextId := nextId, nextWg := nextWg, nextLaunch := nextLaunch, freeCtr := freeCtr, cur := cur,
      agenda := agenda } := by
  refine ⟨h.wgs, h.launches, h.mem, h.cmem, fun p hp => ?_, h.mode⟩
  obtain ⟨q, hq, rfl⟩ := List.mem_map.mp hp
  exact hf q (h.cores q hq)

/-- The package changed, its modes still legal. -/
theorem kept_pkg {p : Package} (h : Kept s t)
    (hp : t.pkg.mode ≤ 2 ∧ t.pkg.modeNext ≤ 2 → p.mode ≤ 2 ∧ p.modeNext ≤ 2) : Kept s { t with pkg := p } :=
  ⟨h.wgs, h.launches, h.mem, h.cmem, h.cores, fun hs => decide_eq_true (hp (of_decide_eq_true (h.mode hs)))⟩

end

/-- A choice of two. -/
theorem kept_ite {p : Prop} [Decidable p] (h : Kept s t) (g : Kept s u) : Kept s (if p then t else u) := by
  split <;> assumption

/-- A fold of what keeps. -/
theorem kept_foldl {α : Type} {f : State → α → State} {l : List α} (h : Kept s t) (hf : ∀ t a, Kept s t → Kept s (f t a)) :
    Kept s (l.foldl f t) := by
  induction l generalizing t with
  | nil => exact h
  | cons a l ih => exact ih (hf t a h)

/-! ### States with an answer -/

variable {α : Type}

theorem fstKept_mk {a : α} (h : Kept s t) : FstKept s (t, a) := h

theorem planKept_mk {a b : Option TrapInfo} {c d : Bool} {w : Option Wait} (h : Kept s t) :
    PlanKept s { priv := a, surface := c, own := b, live := d, wait := w, next := t } := h

theorem poolKept_item {a b : Nat} (h : Kept s t) : PoolKept s (.item t a b) := h

theorem poolKept_refused (h : Kept s t) : PoolKept s (.refused t) := h

theorem bounceKept_ok {a : Nat} (h : Kept s t) : BounceKept s (.ok t a) := h

theorem bounceKept_none_ (h : Kept s t) : BounceKept s (.none_ t) := h

theorem ringKept_put (h : Kept s t) : RingKept s (.put t) := h

theorem inKept_done (h : Kept s t) : InKept s (.done t) := h

theorem inKept_wait {n : Inbound} (h : Kept s t) : InKept s (.wait t n) := h

theorem FstKept.of_eq {p : State × α} {a : α} (h : FstKept s p) (e : p = (t, a)) : Kept s t := by
  subst e; exact h

theorem OptKept.of_eq {o : Option State} (h : OptKept s o) (e : o = some t) : Kept s t := h t e

theorem OptFstKept.of_eq {o : Option (State × α)} {a : α} (h : OptFstKept s o) (e : o = some (t, a)) : Kept s t := h _ e

theorem PoolKept.of_item {o : PoolAns} {a b : Nat} (h : PoolKept s o) (e : o = .item t a b) : Kept s t := by subst e; exact h

theorem PoolKept.of_refused {o : PoolAns} (h : PoolKept s o) (e : o = .refused t) : Kept s t := by subst e; exact h

theorem BounceKept.of_ok {o : BounceAns} {a : Nat} (h : BounceKept s o) (e : o = .ok t a) : Kept s t := by subst e; exact h

theorem BounceKept.of_none_ {o : BounceAns} (h : BounceKept s o) (e : o = .none_ t) : Kept s t := by subst e; exact h

theorem RingKept.of_put {o : RingAns} (h : RingKept s o) (e : o = .put t) : Kept s t := by subst e; exact h

theorem InKept.of_done {o : InAns} (h : InKept s o) (e : o = .done t) : Kept s t := by subst e; exact h

theorem InKept.of_wait {o : InAns} {n : Inbound} (h : InKept s o) (e : o = .wait t n) : Kept s t := by subst e; exact h

theorem poolKept_ite {p : Prop} [Decidable p] {x y : PoolAns} (h : PoolKept s x) (g : PoolKept s y) :
    PoolKept s (if p then x else y) := by
  split <;> assumption

theorem bounceKept_ite {p : Prop} [Decidable p] {x y : BounceAns} (h : BounceKept s x) (g : BounceKept s y) :
    BounceKept s (if p then x else y) := by
  split <;> assumption

theorem ringKept_ite {p : Prop} [Decidable p] {x y : RingAns} (h : RingKept s x) (g : RingKept s y) :
    RingKept s (if p then x else y) := by
  split <;> assumption

theorem inKept_ite {p : Prop} [Decidable p] {x y : InAns} (h : InKept s x) (g : InKept s y) :
    InKept s (if p then x else y) := by
  split <;> assumption

theorem fstKept_ite {p : Prop} [Decidable p] {x y : State × α} (h : FstKept s x) (g : FstKept s y) :
    FstKept s (if p then x else y) := by
  split <;> assumption

theorem fstKept_foldl {β : Type} {f : State × α → β → State × α} {l : List β} {x : State × α} (h : FstKept s x)
    (hf : ∀ x a, FstKept s x → FstKept s (f x a)) : FstKept s (l.foldl f x) := by
  induction l generalizing x with
  | nil => exact h
  | cons a l ih => exact ih (hf x a h)

theorem optKept_some (h : Kept s t) : OptKept s (some t) := fun _ e => Option.some.inj e ▸ h

theorem optKept_none : OptKept s none := fun _ e => nomatch e

theorem optKept_ite {p : Prop} [Decidable p] {x y : Option State} (h : OptKept s x) (g : OptKept s y) :
    OptKept s (if p then x else y) := by
  split <;> assumption

theorem optFstKept_some {x : State × α} (h : FstKept s x) : OptFstKept s (some x) := fun _ e => Option.some.inj e ▸ h

theorem optFstKept_none : OptFstKept s (none : Option (State × α)) := fun _ e => nomatch e

theorem optFstKept_ite {p : Prop} [Decidable p] {x y : Option (State × α)} (h : OptFstKept s x) (g : OptFstKept s y) :
    OptFstKept s (if p then x else y) := by
  split <;> assumption

theorem optKept_or {x y : Option State} (h : OptKept s x) (g : OptKept s y) : OptKept s (x.or y) := by
  cases x with
  | none => exact g
  | some _ => exact h

theorem optKept_bind {x : Option State} {f : State → Option State} (h : OptKept s x) (hf : ∀ t, Kept s t → OptKept s (f t)) :
    OptKept s (x.bind f) := by
  intro u hu
  obtain ⟨t, ht, hu⟩ := Option.bind_eq_some_iff.mp hu
  exact hf t (h t ht) u hu

theorem optFstKept_map {β : Type} {x : Option (State × α)} {f : State × α → State × β} (h : OptFstKept s x)
    (hf : ∀ p, FstKept s p → FstKept s (f p)) : OptFstKept s (x.map f) := by
  intro q hq
  obtain ⟨p, hp, rfl⟩ := Option.map_eq_some_iff.mp hq
  exact hf p (h p hp)

theorem optKept_map {x : Option (State × α)} {f : State × α → State} (h : OptFstKept s x)
    (hf : ∀ p, FstKept s p → Kept s (f p)) : OptKept s (x.map f) := by
  intro q hq
  obtain ⟨p, hp, rfl⟩ := Option.map_eq_some_iff.mp hq
  exact hf p (h p hp)

/-- A fold of writes keeps memory's form. -/
theorem memWf_foldl {β : Type} {f : Mem → β → Mem} {l : List β} {m : Mem} (hm : memWf m = true)
    (hf : ∀ m b, memWf m = true → memWf (f m b) = true) : memWf (l.foldl f m) = true := by
  induction l generalizing m with
  | nil => exact hm
  | cons b l ih => exact ih (hf m b hm)

theorem planKept_ite {p : Prop} [Decidable p] {x y : Plan} (h : PlanKept s x) (g : PlanKept s y) :
    PlanKept s (if p then x else y) := by
  split <;> assumption

/-! ### Cores -/

variable {k k' : Core} {c : Nat}

/-- A core read. -/
theorem coreKept_core (h : Kept s t) : CoreKept s (t.core c) := by
  unfold State.core
  split
  · rename_i k hk
    exact h.cores _ (mem_of_fget hk)
  · exact ⟨fun _ => rfl, fun _ => rfl⟩

section
variable
  {gen sweepDone sweepNow sweepPos cycle : Nat} {badGrans : List Nat} {tags : FMap Nat} {rows : FMap Row} {regacq :
  FMap (List (Nat × Nat))} {cnt0 cnt1 phase f c : Nat} {tlb copyTlb codeTlb : List Tlb} {icache : List ILine} {walks :
  List Walk} {copies : List CopyCmd} {trails : List CopyTrail} {array : MArray} {mxSpace : Option Nat} {bins : FMap
  Bin} {frozen : Bool} {issueClock : Nat} {quads : List Nat} {staged : Nat}

/-- A change of other fields. -/
theorem coreKept_frame (h : CoreKept s k) :
    CoreKept s { k with
      gen := gen, sweepDone := sweepDone, sweepNow := sweepNow, sweepPos := sweepPos, cycle := cycle, badGrans :=
      badGrans, tags := tags, rows := rows, regacq := regacq, cnt0 := cnt0, cnt1 := cnt1, phase := phase, f := f, c :=
      c, tlb := tlb, copyTlb := copyTlb, codeTlb := codeTlb, icache := icache, walks := walks, copies := copies,
      trails := trails, array := array, mxSpace := mxSpace, bins := bins, frozen := frozen, issueClock := issueClock,
      quads := quads, staged := staged } :=
  ⟨h.warps, h.data⟩

/-- The warps changed, their keys still rising. -/
theorem coreKept_warps {m : FMap Warp} (h : CoreKept s k) (hm : risingFrom 0 k.warps = true → risingFrom 0 m = true) :
    CoreKept s { k with
      warps := m, gen := gen, sweepDone := sweepDone, sweepNow := sweepNow, sweepPos := sweepPos, cycle := cycle,
      badGrans := badGrans, tags := tags, rows := rows, regacq := regacq, cnt0 := cnt0, cnt1 := cnt1, phase := phase,
      f := f, c := c, tlb := tlb, copyTlb := copyTlb, codeTlb := codeTlb, icache := icache, walks := walks, copies :=
      copies, trails := trails, array := array, mxSpace := mxSpace, bins := bins, frozen := frozen, issueClock :=
      issueClock, quads := quads, staged := staged } :=
  ⟨fun hs => hm (h.warps hs), h.data⟩

/-- The slice's bytes changed in their form. -/
theorem coreKept_data {m : Mem} (h : CoreKept s k) (hm : memWf k.data = true → memWf m = true) :
    CoreKept s { k with
      data := m, gen := gen, sweepDone := sweepDone, sweepNow := sweepNow, sweepPos := sweepPos, cycle := cycle,
      badGrans := badGrans, tags := tags, rows := rows, regacq := regacq, cnt0 := cnt0, cnt1 := cnt1, phase := phase,
      f := f, c := c, tlb := tlb, copyTlb := copyTlb, codeTlb := codeTlb, icache := icache, walks := walks, copies :=
      copies, trails := trails, array := array, mxSpace := mxSpace, bins := bins, frozen := frozen, issueClock :=
      issueClock, quads := quads, staged := staged } :=
  ⟨h.warps, fun hs => hm (h.data hs)⟩

end

/-- A choice of two. -/
theorem coreKept_ite {p : Prop} [Decidable p] (h : CoreKept s k) (g : CoreKept s k') : CoreKept s (if p then k else k') := by
  split <;> assumption

/-- A fold of what keeps. -/
theorem coreKept_foldl {α : Type} {f : Core → α → Core} {l : List α} (h : CoreKept s k)
    (hf : ∀ k a, CoreKept s k → CoreKept s (f k a)) : CoreKept s (l.foldl f k) := by
  induction l generalizing k with
  | nil => exact h
  | cons a l ih => exact ih (hf k a h)

/-! ### The units of a state -/

/-- A value put is one of those there, or the new one. -/
theorem mem_fput {α : Type} {m : FMap α} {i : Nat} {x : α} {p : Nat × α} (h : p ∈ fput m i x) : p ∈ m ∨ p = (i, x) := by
  induction m with
  | nil => simpa [fput] using h
  | cons q m ih =>
    unfold fput at h
    split at h
    · rcases List.mem_cons.mp h with h | h <;> simp [h]
    · split at h
      · rcases List.mem_cons.mp h with h | h
        · exact .inr h
        · exact .inl h
      · rcases List.mem_cons.mp h with h | h
        · simp [h]
        · exact (ih h).imp_left (List.mem_cons_of_mem _)

theorem kept_setCore (h : Kept s t) (hk : CoreKept s k) : Kept s (t.setCore c k) where
  wgs := h.wgs
  launches := h.launches
  mem := h.mem
  cmem := h.cmem
  mode := h.mode
  cores p hp := by
    rcases mem_fput hp with hp | rfl
    · exact h.cores p hp
    · exact hk

theorem kept_updCore {f : Core → Core} (h : Kept s t) (hf : ∀ k, CoreKept s k → CoreKept s (f k)) : Kept s (t.updCore c f) :=
  kept_setCore h (hf _ (coreKept_core h))

theorem kept_setDev {d : Dev} (h : Kept s t) : Kept s (t.setDev c d) := kept_frame h
theorem kept_updDev {f : Dev → Dev} (h : Kept s t) : Kept s (t.updDev c f) := kept_frame h
theorem kept_setDie {d : Die} (h : Kept s t) : Kept s (t.setDie c d) := kept_frame h
theorem kept_updDie {f : Die → Die} (h : Kept s t) : Kept s (t.updDie c f) := kept_frame h
theorem kept_updSeq {f : Sequencer → Sequencer} (h : Kept s t) : Kept s (t.updSeq c f) := kept_frame h
theorem kept_updQueue {q : Nat} {f : CQueue → CQueue} (h : Kept s t) : Kept s (t.updQueue c q f) := kept_frame h

theorem kept_updWg {f : Wg → Wg} (h : Kept s t) : Kept s (t.updWg c f) :=
  ⟨fun hs => rising_fupd (h.wgs hs), h.launches, h.mem, h.cmem, h.cores, h.mode⟩

theorem kept_updLaunch {f : Launch → Launch} (h : Kept s t) : Kept s (t.updLaunch c f) :=
  ⟨h.wgs, fun hs => rising_fupd (h.launches hs), h.mem, h.cmem, h.cores, h.mode⟩

theorem kept_setWarp {sl : Nat} {w : Warp} (h : Kept s t) : Kept s (t.setWarp c sl w) :=
  kept_updCore h fun _ hk => coreKept_warps hk (rising_fput (Nat.zero_le _))

theorem kept_updWarp {sl : Nat} {f : Warp → Warp} (h : Kept s t) : Kept s (t.updWarp c sl f) :=
  kept_updCore h fun _ hk => coreKept_warps hk rising_fupd

/-! ### Outcomes -/

theorem goes_next (h : Kept s t) : Goes s (.next t) := ⟨t, rfl, h⟩

theorem Goes.of_eq {o : Host.Outcome State Fault Refusal} (h : Goes s o) (e : o = .next t) : Kept s t := by
  obtain ⟨u, rfl, hu⟩ := h
  cases e
  exact hu

theorem goes_ite {p : Prop} [Decidable p] {o o' : Host.Outcome State Fault Refusal} (h : Goes s o) (g : Goes s o') :
    Goes s (if p then o else o') := by
  split <;> assumption

end

end Sys2Proof.Proofs
end

section
/-! Every function of the model that answers a state keeps what a state holds to, in the order of the model. -/

namespace Sys2Proof.Proofs

open Sys2Proof.Machine Sys2Proof.Safety

section

variable {s t : State}

/-! ### Registers -/

theorem coreKept_writeV {k : Core} {sl : Nat} {w : Warp} {r : Nat} {m : Word} {f : Nat → Word} (hk : CoreKept s k) :
    CoreKept s (writeV k sl w r m f) := coreKept_ite hk (coreKept_frame hk)

/-! ### Translation -/

theorem kept_physWrite {k pa n x : Nat} (h : Kept s t) : Kept s (physWrite t k pa n x) := by
  unfold physWrite
  split
  · exact kept_mem h (memWf_memWriteNat _ _ _)
  · exact h

theorem kept_keepTlbs {k : Nat} {ok : Tlb → Bool} (h : Kept s t) : Kept s (keepTlbs t k ok) := by
  refine kept_cores (kept_updDev h) fun p hp => ?_
  dsimp only
  split
  · exact coreKept_frame hp
  · exact hp

theorem kept_dropTlbs {k : Nat} {q : Inval} (h : Kept s t) : Kept s (dropTlbs t k q) := kept_keepTlbs h

theorem fstKept_casPte {k space va at_ : Nat} {old new : Double} (h : Kept s t) :
    FstKept s (casPte t k space va at_ old new) :=
  fstKept_ite (fstKept_mk (kept_dropTlbs (kept_physWrite h))) (fstKept_mk h)

theorem kept_fqDrainGo {k n : Nat} (h : Kept s t) : Kept s (fqDrainGo t k n) := by
  induction n generalizing t with
  | zero => exact h
  | succ n ih =>
    unfold fqDrainGo
    dsimp only
    split
    · exact h
    · refine kept_ite h (ih (kept_updDev (kept_cmem h (fun hm => ?_))))
      split
      · exact memWf_memWriteNat _ _ _ (memWf_memWriteNat _ _ _ hm)
      · exact memWf_memWriteNat _ _ _ hm

theorem kept_fqDrain {k : Nat} (h : Kept s t) : Kept s (fqDrain t k) := kept_fqDrainGo h

theorem kept_postFault {k : Nat} {r : FaultRec} (h : Kept s t) : Kept s (postFault t k r) :=
  kept_ite h (kept_fqDrain (kept_updDev h))

/-! ### Pools -/

theorem coreKept_binPut {k : Core} {i lid : Nat} {code frame join : Double} (hk : CoreKept s k) :
    CoreKept s (binPut k i lid code frame join) := coreKept_frame hk

theorem kept_frontPush {c lid : Nat} {code frame join : Double} (h : Kept s t) :
    Kept s (frontPush t c lid code frame join) := by
  unfold frontPush
  split
  · exact kept_updCore h fun _ h2 => coreKept_binPut h2
  · exact kept_updDie (kept_physWrite h)

theorem kept_queueTake {d i : Nat} (h : Kept s t) : Kept s (queueTake t d i) := by
  unfold queueTake
  exact kept_updDie (kept_foldl h fun _ _ h1 => kept_physWrite h1)

theorem kept_binRefill {c n : Nat} (h : Kept s t) : Kept s (binRefill t c n) := by
  induction n generalizing t with
  | zero => exact h
  | succ n ih =>
    unfold binRefill
    dsimp only
    split
    · exact h
    · split
      · exact h
      · exact ih (kept_queueTake (kept_updCore h fun _ hk => coreKept_binPut hk))

theorem kept_purgeQueue {d lid : Nat} (h : Kept s t) : Kept s (purgeQueue t d lid) := by
  unfold purgeQueue
  exact kept_updDie (kept_foldl h fun _ _ h1 => kept_physWrite h1)

theorem kept_purgeBins {lid c : Nat} (h : Kept s t) : Kept s (purgeBins lid t c) :=
  kept_ite h (kept_binRefill (kept_setCore h (coreKept_frame (coreKept_core h))))

theorem kept_purgePool {d lid : Nat} (h : Kept s t) : Kept s (purgePool t d lid) :=
  kept_foldl (kept_ite (kept_purgeQueue h) h) fun _ _ h1 => kept_purgeBins h1

/-! ### Teardown -/

theorem coreKept_addCnt {k : Core} {ph : Nat} {d : Int} (hk : CoreKept s k) : CoreKept s (addCnt k ph d) :=
  coreKept_ite (coreKept_frame hk) (coreKept_frame hk)

theorem coreKept_leaveSections {k : Core} {w : Warp} {m : Word} (hk : CoreKept s k) : CoreKept s (leaveSections k w m) :=
  coreKept_addCnt (coreKept_addCnt hk)

theorem kept_dropWarp {c sl : Nat} (h : Kept s t) : Kept s (dropWarp t c sl) := by
  unfold dropWarp
  split
  · exact h
  · exact kept_updCore h fun _ h2 => coreKept_warps (coreKept_leaveSections h2) rising_fdel

theorem kept_addMove {d : Nat} (h : Kept s t) : Kept s (addMove t d) := kept_updDie h

theorem kept_addCk {d : Nat} {n0 n1 : Int} (h : Kept s t) : Kept s (addCk t d n0 n1) := kept_updDie h

theorem kept_releaseGroup {cl : Nat} (h : Kept s t) : Kept s (releaseGroup t cl) :=
  kept_frame (kept_foldl h fun _ _ h1 => kept_updCore h1 fun _ h2 => coreKept_frame h2)

theorem kept_addRestoring {x : Wg} {n : Int} (h : Kept s t) : Kept s (addRestoring t x n) :=
  kept_updCore h fun _ h1 => coreKept_addCnt (coreKept_addCnt h1)

theorem kept_freeWg {g : Nat} (h : Kept s t) : Kept s (freeWg t g) := by
  unfold freeWg
  split
  · exact h
  · refine kept_ite h ?_
    dsimp only
    split
    · refine kept_updWg (kept_updDev ?_)
      split
      · exact kept_updDie (kept_addCk (kept_ite (kept_addRestoring h) h))
      · exact kept_addCk (kept_ite (kept_addRestoring h) h)
    · refine kept_ite (kept_updWg (kept_updDev ?_)) (kept_releaseGroup (kept_updWg (kept_updDev ?_)))
      · split
        · exact kept_updDie (kept_addCk (kept_ite (kept_addRestoring h) h))
        · exact kept_addCk (kept_ite (kept_addRestoring h) h)
      · split
        · exact kept_updDie (kept_addCk (kept_ite (kept_addRestoring h) h))
        · exact kept_addCk (kept_ite (kept_addRestoring h) h)

theorem kept_forgetWgs (h : Kept s t) : Kept s (forgetWgs t) :=
  kept_wgs h rising_filter

theorem kept_withdrawWq {g : Nat} {kept : Req → Bool} (h : Kept s t) : Kept s (withdrawWq t g kept) :=
  kept_frame h

theorem kept_tearWg {g : Nat} (h : Kept s t) : Kept s (tearWg t g) := by
  unfold tearWg
  split
  · exact h
  · refine kept_wgs (kept_freeWg (kept_withdrawWq (kept_updCore ?_ fun _ hk => coreKept_frame hk))) rising_fdel
    exact kept_foldl h fun _ _ h => kept_dropWarp h

theorem kept_clearBins {l : Nat} (h : Kept s t) : Kept s (clearBins t l) := by
  unfold clearBins
  split
  · exact h
  · exact kept_ite h (kept_foldl h fun _ _ h2 => kept_purgePool h2)

theorem kept_endLaunch {l status cause : Nat} {tpc : Double} {wgidx : Nat} {double : Bool} (h : Kept s t) :
    Kept s (endLaunch t l status cause tpc wgidx double) :=
  kept_updLaunch (kept_clearBins (kept_foldl h fun _ _ h1 => kept_tearWg h1))

theorem kept_abortTrap {g cause : Nat} {tpc : Double} {double : Bool} (h : Kept s t) :
    Kept s (abortTrap t g cause tpc double) := by
  unfold abortTrap
  split
  · exact h
  · exact kept_endLaunch h

/-! ### Replay -/

theorem kept_logError {d : Nat} {r : ErrRec} (h : Kept s t) : Kept s (logError t d r) :=
  kept_ite (kept_frame (kept_updDie (kept_cmem h (memWf_memWriteNat _ _ _)))) (kept_updDie h)

theorem kept_updStat {c : Nat} {f : CoreStat → CoreStat} (h : Kept s t) : Kept s (updStat t c f) := by
  unfold updStat
  exact kept_updDie h

theorem kept_noteSample {d qty : Nat} {core : Option Nat} {v : Nat} (h : Kept s t) : Kept s (noteSample t d qty core v) :=
  kept_ite (kept_updDie h) h

theorem kept_noteSuspect {c launch : Nat} (h : Kept s t) : Kept s (noteSuspect t c launch) :=
  kept_logError (kept_updStat h)

theorem kept_noteStrike {d : Nat} {c : Option Nat} {pos : Nat × Nat} {residue : Bool} (h : Kept s t) :
    Kept s (noteStrike t d c pos residue) := by
  unfold noteStrike
  refine kept_logError ?_
  split
  · exact kept_updStat (kept_updDie h)
  · exact kept_updDie h

theorem kept_startReplay {l d cause : Nat} (h : Kept s t) : Kept s (startReplay t l d cause) := by
  unfold startReplay
  split
  · exact h
  · exact kept_ite h (kept_ite (kept_endLaunch h)
        (kept_logError (kept_updDie (kept_updLaunch (kept_clearBins (kept_foldl h fun _ _ h2 => kept_tearWg h2))))))

theorem kept_replayWg {g cause : Nat} (h : Kept s t) : Kept s (replayWg t g cause) := by
  unfold replayWg
  split
  · exact kept_startReplay h
  · exact h

theorem kept_poisonReplay {l d pa : Nat} (h : Kept s t) : Kept s (poisonReplay t l d pa) :=
  kept_startReplay (kept_logError h)

theorem kept_slicePoisonReplay {l c : Nat} (h : Kept s t) : Kept s (slicePoisonReplay t l c) :=
  kept_startReplay (kept_logError (kept_frame h))

theorem kept_badReplay {l d : Nat} {a : Bad} (h : Kept s t) : Kept s (badReplay t l d a) := by
  unfold badReplay
  split
  · exact kept_poisonReplay h
  · exact kept_slicePoisonReplay h

/-! ### Slices -/

theorem coreKept_adopt {k : Core} {gen g : Nat} (hk : CoreKept s k) : CoreKept s (adopt k gen g) :=
  coreKept_ite hk (coreKept_data hk (memWfFrom_filter _))

theorem coreKept_sliceWrite {k : Core} {gen off : Nat} {bs : List Byte} (hk : CoreKept s k) :
    CoreKept s (sliceWrite k gen off bs) :=
  coreKept_ite hk (coreKept_data (coreKept_foldl hk fun _ _ hk => coreKept_adopt hk) (memWf_memWriteBytes _ _))

theorem kept_wgWrite {g off : Nat} {bs : List Byte} (h : Kept s t) : Kept s (wgWrite t g off bs) := by
  unfold wgWrite
  split
  · exact h
  · exact kept_ite h (kept_updWg (kept_updCore h fun _ h2 => coreKept_sliceWrite h2))

theorem coreKept_takeGen {k : Core} (hk : CoreKept s k) : CoreKept s (takeGen k).1 :=
  coreKept_frame hk

/-! ### Sequencers -/

theorem kept_seqFinish {cl : Nat} (h : Kept s t) : Kept s (seqFinish t cl) := by
  unfold seqFinish
  dsimp only
  split
  · exact kept_ite (kept_updSeq (kept_wgWrite h)) h
  · exact h

theorem kept_seqEnd {cl code : Nat} (h : Kept s t) : Kept s (seqEnd t cl code) :=
  kept_ite (kept_seqFinish (kept_updSeq h)) h

/-! ### Operands -/

theorem coreKept_putLanes {x : Ctx} {k : Core} {d : Nat} {f : Nat → Word} (hk : CoreKept s k) :
    CoreKept s (putLanes x k d f) := coreKept_ite (coreKept_writeV hk) hk

theorem coreKept_putPair {x : Ctx} {k : Core} {d : Nat} {f : Nat → Double} (hk : CoreKept s k) :
    CoreKept s (putPair x k d f) := coreKept_ite (coreKept_writeV (coreKept_writeV hk)) hk

/-! ### Issue -/

theorem kept_settle {c sl : Nat} (h : Kept s t) : Kept s (settle t c sl) := by
  unfold settle
  split
  · exact h
  · exact kept_setWarp h

theorem coreKept_countCore {k : Core} {sl : Nat} (hk : CoreKept s k) : CoreKept s (countCore k sl) :=
  coreKept_frame hk

theorem kept_selected {c sl ei : Nat} (h : Kept s t) : Kept s (selected t c sl ei) := by
  unfold selected
  split
  · exact h
  · exact kept_setCore h (coreKept_warps (coreKept_countCore (coreKept_core h)) (rising_fput (Nat.zero_le _)))

theorem kept_enterTrap {c sl : Nat} {m : Word} {t' : TrapInfo} {tpc hdr : Double} {act : Word} (h : Kept s t) :
    Kept s (enterTrap t c sl m t' tpc hdr act) := by
  unfold enterTrap
  split
  · exact h
  · exact kept_ite (kept_abortTrap h) (kept_settle (kept_setWarp (kept_updCore h fun _ h3 => coreKept_frame h3)))

theorem kept_hold {x : Ctx} {a : Wait} (h : Kept s t) : Kept s (hold t x a) := by
  unfold hold
  split <;> exact kept_setWarp h

theorem kept_trapTo {x : Ctx} {t' : TrapInfo} {pc hdr : Double} (h : Kept s t) : Kept s (trapTo t x t' pc hdr) :=
  kept_enterTrap (kept_selected h)

theorem kept_trapHere {x : Ctx} {t' : TrapInfo} (h : Kept s t) : Kept s (trapHere t x t') := kept_trapTo h

theorem kept_gate {x : Ctx} {p : Plan} (h : Kept s t) (hp : PlanKept s p) : Kept s (gate t x p) := by
  unfold gate
  refine kept_ite (kept_trapHere h) (kept_ite (kept_hold h) ?_)
  split
  · exact kept_ite (kept_hold h) (kept_trapHere h)
  · refine kept_ite (kept_hold h) ?_
    split
    · exact kept_hold h
    · exact hp

theorem kept_seqIssue {i : Instr} {cl : Nat} {body : Sequencer → Machine.State} (h : Kept s t)
    (hf : ∀ (a : Sequencer), Kept s (body a)) :
    Kept s (seqIssue i t cl body) := kept_ite h (kept_ite (hf _) (kept_seqEnd h))

theorem goes_issueIn {i : Instr} {plan : Ctx → Plan} {body : Nat → Sequencer → State} (h : Kept s t) (hc : CanIssue t)
    (hp : ∀ x, CoreKept s x.k → PlanKept s (plan x)) (hb : ∀ cl q, Kept s (body cl q)) :
    Goes s (issueIn i t plan body) := by
  unfold CanIssue at hc
  unfold issueIn
  cases hcur : t.cur with
  | nobody => simp [hcur] at hc
  | sequencer cl => exact goes_next (kept_seqIssue h fun q => hb cl q)
  | warp c sl ei =>
    rw [hcur] at hc
    obtain ⟨x, hx⟩ := Option.isSome_iff_exists.mp (hc i)
    have hk : CoreKept s x.k := by
      obtain ⟨-, hk, -⟩ := ctxOf_fields hx
      exact hk ▸ coreKept_core h
    simp only [hx]
    exact goes_next (kept_gate h (hp x hk))

theorem goes_issue {i : Instr} {plan : Ctx → Plan} (h : Kept s t) (hc : CanIssue t)
    (hf : ∀ (a : Ctx), CoreKept s a.k → PlanKept s (plan a)) :
    Goes s (issue i t plan) := goes_issueIn h hc (fun _ h3 => hf _ h3) fun _ _ => kept_seqEnd h

theorem kept_done {x : Ctx} {k : Core} {w : Warp} {es : List Entry} (h : Kept s t) (hk : CoreKept s k) :
    Kept s (done t x k w es) :=
  kept_settle (kept_setCore h (coreKept_warps (coreKept_countCore hk) (rising_fput (Nat.zero_le _))))

theorem kept_goOn {x : Ctx} {k : Core} {w : Warp} (h : Kept s t) (hk : CoreKept s k) : Kept s (goOn t x k w) :=
  kept_done h hk

/-! ### Lanes -/

theorem goes_laneOp {i : Instr} {d : Nat} {f : Ctx → Nat → Word} (h : Kept s t) (hc : CanIssue t) :
    Goes s (laneOp i t d f) := goes_issue h hc fun _ h2 => planKept_mk (kept_goOn h (coreKept_putLanes h2))

theorem goes_laneFlagOp {i : Instr} {d : Nat} {f : Ctx → Nat → Nat × Flags} (h : Kept s t) (hc : CanIssue t) :
    Goes s (laneFlagOp i t d f) :=
  goes_issue h hc fun _ h2 => planKept_mk (kept_goOn h (coreKept_putLanes h2))

theorem goes_lanePredOp {i : Instr} {p : Nat} {f : Ctx → Nat → Bool × Flags} (h : Kept s t) (hc : CanIssue t) :
    Goes s (lanePredOp i t p f) := goes_issue h hc fun _ h2 => planKept_mk (kept_goOn h h2)

theorem goes_intOp {i : Instr} {f : F3} {m : XM} {g : ITy → Int → Int → Int → Int} (h : Kept s t) (hc : CanIssue t) :
    Goes s (intOp i f m t g) := goes_laneOp h hc

theorem goes_bitOp {i : Instr} {f : F3} {g : Word → Word → Word} (h : Kept s t) (hc : CanIssue t) :
    Goes s (bitOp i f t g) := goes_laneOp h hc

theorem goes_carryOp {i : Instr} {f : F3} {m : XM} (h : Kept s t) (hc : CanIssue t) : Goes s (carryOp i f m t) :=
  goes_issue h hc fun _ h2 => planKept_mk (kept_goOn h (coreKept_putLanes h2))

theorem goes_leaOp {i : Instr} {f : F3} {m : XM} (h : Kept s t) (hc : CanIssue t) : Goes s (leaOp i f m t) :=
  goes_issue h hc fun _ h2 => planKept_mk (kept_goOn h (coreKept_putPair h2))

theorem goes_icmpOp {i : Instr} {f : F3} {m : XM} (h : Kept s t) (hc : CanIssue t) : Goes s (icmpOp i f m t) :=
  goes_lanePredOp h hc

theorem goes_selOp {i : Instr} {f : F3} {m : XM} (h : Kept s t) (hc : CanIssue t) : Goes s (selOp i f m t) :=
  goes_laneOp h hc

theorem goes_wordOp3 {i : Instr} {f : F3} {m : XM} {g : Word → Word → Word → Word} (h : Kept s t) (hc : CanIssue t) :
    Goes s (wordOp3 i f m t g) := goes_laneOp h hc

theorem goes_floatOp {i : Instr} {f : F3} {m : XM} {g : RMode → Exact → Exact → Exact → Exact × Flags} (h : Kept s t)
    (hc : CanIssue t) :
    Goes s (floatOp i f m t g) := goes_laneFlagOp h hc

theorem goes_scaleOp {i : Instr} {f : F3} {m : XM} (h : Kept s t) (hc : CanIssue t) : Goes s (scaleOp i f m t) :=
  goes_laneFlagOp h hc

theorem goes_minMaxOp {i : Instr} {f : F3} {m : XM} {isMax : Bool} (h : Kept s t) (hc : CanIssue t) :
    Goes s (minMaxOp i f m t isMax) := goes_laneFlagOp h hc

theorem goes_fcmpOp {i : Instr} {f : F3} {m : XM} (h : Kept s t) (hc : CanIssue t) : Goes s (fcmpOp i f m t) :=
  goes_lanePredOp h hc

theorem goes_fnOp {i : Instr} {f : F3} {m : XM} {g : Fn} (h : Kept s t) (hc : CanIssue t) : Goes s (fnOp i f m t g) :=
  goes_laneFlagOp h hc

theorem goes_packedOp {i : Instr} {f : F3} {m : XM} {g : RMode → Exact → Exact → Exact → Exact × Flags} (h : Kept s t)
    (hc : CanIssue t) :
    Goes s (packedOp i f m t g) := goes_laneFlagOp h hc

theorem goes_cvtOp {i : Instr} {f : F3} {m : XM} (h : Kept s t) (hc : CanIssue t) : Goes s (cvtOp i f m t) :=
  goes_laneFlagOp h hc

theorem goes_reduceOp {i : Instr} {f : F3} {m : XM} {op : Nat} (h : Kept s t) (hc : CanIssue t) :
    Goes s (reduceOp i f m t op) := goes_laneFlagOp h hc

theorem goes_indexReduceOp {i : Instr} {f : F3} {m : XM} {isMax : Bool} (h : Kept s t) (hc : CanIssue t) :
    Goes s (indexReduceOp i f m t isMax) :=
  goes_issue h hc fun _ h2 => planKept_mk (kept_goOn h (coreKept_putPair h2))

/-! ### Scalar instructions -/

theorem goes_scalarOp {i : Instr} {f : FS} {g : Word → Word → Word} (h : Kept s t) (hc : CanIssue t) :
    Goes s (scalarOp i f t g) :=
  goes_issueIn h hc (fun _ h2 => planKept_mk (kept_goOn h h2)) fun _ _ => kept_updSeq h

theorem goes_sselOp {i : Instr} {f : FS} (h : Kept s t) (hc : CanIssue t) : Goes s (sselOp i f t) :=
  goes_issueIn h hc (fun _ h2 => planKept_mk (kept_goOn h h2)) fun _ _ => kept_updSeq h

/-! ### Control -/

theorem kept_branchTo {x : Ctx} {k : Core} {t' : Nat → Double} (h : Kept s t) (hk : CoreKept s k) :
    Kept s (branchTo t x k t') := kept_done h hk

theorem kept_seqJump {cl : Nat} {q : Sequencer} {t' : Double} (h : Kept s t) : Kept s (seqJump t cl q t') :=
  kept_ite (kept_seqEnd h) (kept_ite (kept_seqEnd h) (kept_updSeq h))

theorem goes_execCall {f : FB} (h : Kept s t) (hc : CanIssue t) : Goes s (execCall f t) :=
  goes_issueIn h hc (fun _ h2 => planKept_mk (kept_branchTo h (coreKept_putPair h2))) fun _ _ => kept_seqJump h

theorem goes_execJmpi {f : F3} (h : Kept s t) (hc : CanIssue t) : Goes s (execJmpi f t) :=
  goes_issueIn h hc (fun _ h2 => planKept_mk (kept_branchTo h (coreKept_putPair h2))) fun _ _ => kept_seqJump h

/-! ### Accesses -/

theorem kept_noteBounce {k : Nat} {p : Double} {pa : Nat} (h : Kept s t) : Kept s (noteBounce t k p pa) := by
  unfold noteBounce
  refine kept_ite h ?_
  split
  · exact h
  · exact kept_physWrite h

theorem kept_startAside {k die : Nat} {c : Option Nat} {launch space va acc : Nat} {p : Double} {pteAt lid : Nat}
    (h : Kept s t) :
    Kept s (startAside t k die c launch space va acc p pteAt lid) := kept_ite h (kept_updDev h)

theorem fstKept_serveLeaf {k die : Nat} {c : Option Nat} {launch space va : Nat} {write : Bool} {acc : Nat} {p : Double}
    {pteAt size : Nat} (h : Kept s t) :
    FstKept s (serveLeaf t k die c launch space va write acc p pteAt size) := by
  unfold serveLeaf
  dsimp only
  split
  · exact fstKept_mk (kept_ite (kept_noteBounce h) h)
  · exact fstKept_mk (kept_postFault h)
  · refine fstKept_ite ?_ (fstKept_mk (kept_postFault h))
    split
    · exact fstKept_mk (kept_ite (FstKept.of_eq (fstKept_casPte h) ‹_›)
          (kept_noteBounce (FstKept.of_eq (fstKept_casPte h) ‹_›)))
    · exact fstKept_mk (FstKept.of_eq (fstKept_casPte h) ‹_›)
  · split
    · exact fstKept_mk (kept_startAside h)
    · split
      · exact fstKept_mk (kept_noteBounce (FstKept.of_eq (fstKept_casPte h) ‹_›))
      · exact fstKept_mk (FstKept.of_eq (fstKept_casPte h) ‹_›)

theorem fstKept_awayXlate {k die : Nat} {c : Option Nat} {launch space va : Nat} {write : Bool} {acc : Nat} (h : Kept s t) :
    FstKept s (awayXlate t k die c launch space va write acc) := by
  unfold awayXlate
  refine fstKept_ite (fstKept_mk h) ?_
  split
  · exact fstKept_serveLeaf h
  · exact fstKept_mk (kept_postFault h)

theorem fstKept_laneXlate {x : Ctx} {va : Nat} {write : Bool} {acc : Nat} (h : Kept s t) :
    FstKept s (laneXlate t x va write acc) := by
  unfold laneXlate
  dsimp only
  split
  · exact fstKept_mk h
  · split
    · exact fstKept_mk (FstKept.of_eq (fstKept_serveLeaf h) ‹_›)
    · exact fstKept_mk (FstKept.of_eq (fstKept_serveLeaf h) ‹_›)
    · exact fstKept_ite (fstKept_mk (FstKept.of_eq (fstKept_serveLeaf h) ‹_›))
        (fstKept_mk (kept_updCore (FstKept.of_eq (fstKept_serveLeaf h) ‹_›) fun _ h4 => coreKept_frame h4))

theorem fstKept_lanesXlate {x : Ctx} {e : Nat → Nat} {n : Nat} {write : Bool} {acc : Nat} (h : Kept s t) :
    FstKept s (lanesXlate t x e n write acc) := by
  unfold lanesXlate
  refine fstKept_foldl (fstKept_mk h) fun _ _ h2 => ?_
  split
  · exact fstKept_mk (fstKept_laneXlate h2)
  · exact h2

theorem kept_startWalks {x : Ctx} {e : Nat → Nat} {ls : List Nat} {acc : Nat} (h : Kept s t) :
    Kept s (startWalks t x e ls acc) :=
  kept_updCore h fun _ h2 => coreKept_warps h2 (rising_fput (Nat.zero_le _))

/-! ### Brine -/

theorem kept_sendReq {r : Req} (h : Kept s t) : Kept s (sendReq t r) := kept_frame h

theorem kept_occupancyTrigger {c before : Nat} (h : Kept s t) : Kept s (occupancyTrigger t c before) := by
  refine kept_ite (kept_wgs h (rising_map fun p => ?_)) h
  dsimp only
  split <;> rfl

theorem kept_hashForward {r : Req} (h : Kept s t) : Kept s (hashForward t r) := by
  unfold hashForward
  split
  · exact h
  · exact kept_ite (kept_foldl h fun _ _ h2 => kept_updWg h2) h

theorem kept_accept {r : Req} {spec : Bool} (h : Kept s t) : Kept s (accept t r spec) :=
  kept_hashForward (kept_occupancyTrigger (kept_updWg (kept_frame h)))

theorem kept_sendNow {r : Req} (h : Kept s t) : Kept s (sendNow t r) := kept_sendReq (kept_frame h)

theorem kept_askExternal {x : Ctx} (h : Kept s t) : Kept s (askExternal t x) := by
  unfold askExternal
  exact kept_hold (kept_updWg h)

theorem kept_externally {x : Ctx} {ext : Bool} {t1 : Machine.State} (h : Kept s t) (h1' : Kept s t1) :
    Kept s (externally t x ext t1) := kept_ite (kept_askExternal h) h1'

/-! ### Memory instructions -/

theorem coreKept_writeGroup {k : Core} {sl : Nat} {w : Warp} {m : Word} {d : Option Nat} {n : Nat} {signed : Bool}
    {f : Nat → Nat} (hk : CoreKept s k) :
    CoreKept s (writeGroup k sl w m d n signed f) := by
  unfold writeGroup
  split
  · exact hk
  · exact coreKept_ite (coreKept_writeV hk) (coreKept_foldl hk fun _ _ h1 => coreKept_writeV h1)

theorem kept_withXlate {x : Ctx} {e : Nat → Nat} {n : Nat} {write : Bool} {acc : Nat}
    {body : State → Ctx → (Nat → Nat) → State} (h : Kept s t)
    (hf : ∀ t x pa, Kept s t → CoreKept s x.k → Kept s (body t x pa)) : Kept s (withXlate t x e n write acc body) :=
  have hr := fstKept_lanesXlate h
  kept_ite (kept_startWalks hr) (hf _ _ _ hr (coreKept_core hr))

theorem kept_ownWrite {c off gen : Nat} {bs : List Byte} (h : Kept s t) : Kept s (ownWrite t c off gen bs) := by
  refine kept_wgs (kept_updCore h fun _ hk => coreKept_sliceWrite hk) (rising_map fun p => ?_)
  split <;> rfl

theorem kept_finishReturning {x : Ctx} {p : Pending} (h : Kept s t) : Kept s (finishReturning t x p) := by
  unfold finishReturning
  refine kept_ite ?_ (kept_goOn h (coreKept_core h))
  split
  · exact kept_goOn h (coreKept_writeGroup (coreKept_core h))
  · exact kept_goOn h (coreKept_core h)

theorem kept_poisonOut {x : Ctx} (h : Kept s t) : Kept s (poisonOut t x) :=
  kept_slicePoisonReplay (kept_updCore h fun _ h2 => coreKept_countCore h2)

theorem kept_loadGo {e : Nat → Nat} {n : Nat} {dest : Dest} {acquire : Option Nat} {x : Ctx} {pa : Nat → Nat}
    (h : Kept s t) :
    Kept s (loadGo e n dest acquire t x pa) :=
  kept_ite (kept_poisonOut h) (kept_finishReturning (kept_foldl (kept_frame h) fun _ _ h2 => kept_sendNow h2))

theorem goes_loadOp {i : Instr} {local_ acquire : Bool} {f : F3} {m : XM} (h : Kept s t) (hc : CanIssue t) :
    Goes s (loadOp i local_ acquire f m t) :=
  goes_issue h hc fun _ _ => planKept_mk (kept_externally h (kept_withXlate h fun _ _ _ h3 _ => kept_loadGo h3))

theorem kept_sldSend {x : Ctx} {d : Dest} {va : Nat} {t' : Target × Nat} (h : Kept s t) : Kept s (sldSend t x d va t') := by
  unfold sldSend
  exact kept_finishReturning (kept_sendNow (kept_frame h))

theorem goes_execSld {f : FS} (h : Kept s t) (hc : CanIssue t) : Goes s (execSld f t) := by
  unfold execSld
  refine goes_issue h hc fun _ h2 => planKept_mk ?_
  split
  · split
    · exact kept_startWalks (FstKept.of_eq (fstKept_laneXlate h) ‹_›)
    · exact kept_done (FstKept.of_eq (fstKept_laneXlate h) ‹_›) (coreKept_core (FstKept.of_eq (fstKept_laneXlate h) ‹_›))
    · exact kept_sldSend (FstKept.of_eq (fstKept_laneXlate h) ‹_›)
  · exact kept_ite (kept_poisonOut h) (kept_finishReturning h)
  · exact kept_sldSend h
  · exact kept_sldSend h
  · exact h

theorem kept_storeGo {e data : Nat → Nat} {n : Nat} {rel : Option Nat} {x : Ctx} {pa : Nat → Nat} (h : Kept s t) :
    Kept s (storeGo e data n rel t x pa) := by
  unfold storeGo
  refine kept_goOn (kept_foldl h fun _ _ h2 => ?_) (coreKept_core (kept_foldl h fun _ _ h2 => ?_))
  · split
    · exact kept_ownWrite h2
    · split
      · exact h2
      · exact kept_accept h2
  · split
    · exact kept_ownWrite h2
    · split
      · exact h2
      · exact kept_accept h2

theorem goes_storeOp {i : Instr} {local_ : Bool} {a b n : Nat} {off : Int} {rel : Option Nat} (h : Kept s t)
    (hc : CanIssue t) :
    Goes s (storeOp i local_ a b n off rel t) :=
  goes_issue h hc fun _ _ => planKept_mk (kept_withXlate h fun _ _ _ h3 _ => kept_storeGo h3)

theorem kept_atomGo {e data swap : Nat → Nat} {n : Nat} {kind : ReqKind} {ret : Option (Option Nat)}
    {acquire strong sys ext : Bool} {x : Ctx} {pa : Nat → Nat} (h : Kept s t) :
    Kept s (atomGo e data swap n kind ret acquire strong sys ext t x pa) := by
  unfold atomGo
  refine kept_ite (kept_poisonOut h)
    (kept_ite (kept_finishReturning
        (kept_foldl (kept_frame (fstKept_foldl (fstKept_mk h) fun _ _ h2 => ?_)) fun _ _ h2 => kept_accept h2))
      (kept_goOn (kept_foldl (kept_frame (fstKept_foldl (fstKept_mk h) fun _ _ h2 => ?_)) fun _ _ h2 => kept_accept h2)
        (coreKept_core (kept_foldl (kept_frame (fstKept_foldl (fstKept_mk h) fun _ _ h2 => ?_)) fun _ _ h2 =>
            kept_accept h2))))
  · split
    · exact fstKept_mk (kept_ownWrite h2)
    · exact h2
  · split
    · exact fstKept_mk (kept_ownWrite h2)
    · exact h2
  · split
    · exact fstKept_mk (kept_ownWrite h2)
    · exact h2

theorem goes_atomOp {i : Instr} {local_ : Bool} {f : F3} {m : XM} {kind : ReqKind} {ord : Nat} {ret : Option (Option Nat)}
    (h : Kept s t) (hc : CanIssue t) :
    Goes s (atomOp i local_ f m kind ord ret t) :=
  goes_issue h hc fun _ _ => planKept_mk (kept_externally h (kept_withXlate h fun _ _ _ h3 _ => kept_atomGo h3))

/-! ### Synchronization -/

theorem kept_keepWaiting {x : Ctx} (h : Kept s t) : Kept s (keepWaiting t x) := kept_hold h

theorem kept_fenceGo {x : Ctx} {ready : Bool} (h : Kept s t) (hx : CoreKept s x.k) : Kept s (fenceGo t x ready) :=
  kept_ite (kept_goOn h hx) (kept_keepWaiting h)

theorem goes_execFencex {f : F3} {m : XM} (h : Kept s t) (hc : CanIssue t) : Goes s (execFencex f m t) := by
  refine goes_issue h hc fun x hx => kept_fenceGo h ?_
  split <;> exact hx

theorem coreKept_enterLane {k : Core} {w : Warp} {l : Nat} (hk : CoreKept s k) : CoreKept s (enterLane k w l).1 := by
  unfold enterLane
  dsimp only
  split
  · exact coreKept_addCnt hk
  · exact hk

theorem coreKept_exitLane {k : Core} {w : Warp} {l : Nat} (hk : CoreKept s k) : CoreKept s (exitLane k w l).1 :=
  coreKept_ite (coreKept_addCnt hk) hk

theorem coreKept_eachLane {x : Ctx} {f : Core → Warp → Nat → Core × Warp} (hx : CoreKept s x.k)
    (hf : ∀ k w l, CoreKept s k → CoreKept s (f k w l).1) : CoreKept s (eachLane x f).1 := by
  suffices ∀ (ls : List Nat) (p : Core × Warp), CoreKept s p.1 → CoreKept s (ls.foldl (fun p l => f p.1 p.2 l) p).1 from
    this _ _ hx
  intro ls
  induction ls with
  | nil => exact fun _ h => h
  | cons l ls ih => exact fun p h => ih _ (hf _ _ _ h)

theorem goes_execRdenter {f : F3} (h : Kept s t) (hc : CanIssue t) : Goes s (execRdenter f t) :=
  goes_issue h hc fun _ hx => kept_goOn h (coreKept_eachLane hx fun _ _ _ hk => coreKept_enterLane hk)

theorem goes_execRdexit {f : F3} (h : Kept s t) (hc : CanIssue t) : Goes s (execRdexit f t) :=
  goes_issue h hc fun _ hx => kept_goOn h (coreKept_eachLane hx fun _ _ _ hk => coreKept_exitLane hk)

theorem kept_retireGo {x : Ctx} {f : F3} {m : XM} {act : Nat} (h : Kept s t) : Kept s (retireGo t x f m act) :=
  kept_ite (kept_goOn (kept_foldl (kept_frame h) fun _ _ h2 => kept_accept h2)
      (coreKept_core (kept_foldl (kept_frame h) fun _ _ h2 => kept_accept h2)))
    (kept_finishReturning (kept_foldl (kept_frame h) fun _ _ h2 => kept_accept h2))

theorem kept_graceGo {x : Ctx} (h : Kept s t) (hx : CoreKept s x.k) : Kept s (graceGo t x) := by
  unfold graceGo
  dsimp only
  split
  · exact kept_ite (kept_goOn h hx) (kept_setWarp h)
  · exact kept_ite (kept_setWarp h) (kept_setWarp h)

theorem kept_askCheckpoint {g : Nat} (h : Kept s t) : Kept s (askCheckpoint t g) := kept_updWg h

theorem kept_appendGo {e data : Nat → Nat} {n : Nat} {d : Option Nat} {x : Ctx} {pa : Nat → Nat} (h : Kept s t) :
    Kept s (appendGo e data n d t x pa) :=
  kept_ite (kept_goOn (kept_foldl (kept_frame h) fun _ _ h2 => kept_accept h2)
      (coreKept_core (kept_foldl (kept_frame h) fun _ _ h2 => kept_accept h2)))
    (kept_finishReturning (kept_foldl (kept_frame h) fun _ _ h2 => kept_accept h2))

theorem goes_execAppend {f : F3} {m : XM} (h : Kept s t) (hc : CanIssue t) : Goes s (execAppend f m t) :=
  goes_issue h hc fun _ _ => planKept_mk
    (kept_ite (kept_hold (kept_askCheckpoint h)) (kept_externally h (kept_withXlate h fun _ _ _ h3 _ => kept_appendGo h3)))

theorem kept_acommitGo {e v : Nat → Nat} {scope : Nat} {x : Ctx} {pa : Nat → Nat} (h : Kept s t) :
    Kept s (acommitGo e v scope t x pa) :=
  kept_goOn (kept_foldl h fun _ _ h2 => kept_accept h2) (coreKept_core (kept_foldl h fun _ _ h2 => kept_accept h2))

theorem goes_execAcommit {f : F3} {m : XM} (h : Kept s t) (hc : CanIssue t) : Goes s (execAcommit f m t) :=
  goes_issue h hc fun _ _ => planKept_mk (kept_withXlate h fun _ _ _ h3 _ => kept_acommitGo h3)

theorem kept_aheadGo {e : Nat → Nat} {d : Option Nat} {ext : Bool} {x : Ctx} {pa : Nat → Nat} (h : Kept s t) :
    Kept s (aheadGo e d ext t x pa) :=
  kept_ite (kept_goOn (kept_foldl (kept_frame h) fun _ _ h2 => kept_sendNow h2)
      (coreKept_core (kept_foldl (kept_frame h) fun _ _ h2 => kept_sendNow h2)))
    (kept_finishReturning (kept_foldl (kept_frame h) fun _ _ h2 => kept_sendNow h2))

theorem goes_execAhead {f : F3} {m : XM} (h : Kept s t) (hc : CanIssue t) : Goes s (execAhead f m t) :=
  goes_issue h hc fun _ _ => planKept_mk (kept_externally h (kept_withXlate h fun _ _ _ h3 _ => kept_aheadGo h3))

theorem kept_barSettle {g n : Nat} (h : Kept s t) : Kept s (barSettle t g n) := by
  unfold barSettle
  split
  · exact h
  · refine kept_ite (kept_updCore (kept_updWg h) fun _ hk => coreKept_warps hk (rising_map fun p => ?_)) h
    split
    · split <;> rfl
    · rfl

theorem kept_barArrive {g n : Nat} {count : Option Nat} (h : Kept s t) : Kept s (barArrive t g n count) :=
  kept_barSettle (kept_updWg h)

theorem kept_barStop {x : Ctx} (h : Kept s t) (hx : CoreKept s x.k) : Kept s (barStop t x) := kept_done h hx

theorem goes_execBara {f : F2I} (h : Kept s t) (hc : CanIssue t) : Goes s (execBara f t) :=
  goes_issue h hc fun _ h2 => planKept_mk
    (kept_ite (kept_goOn h h2) (kept_ite (kept_barStop h h2) (kept_barArrive (kept_goOn h (coreKept_putLanes h2)))))

theorem goes_execBarw {f : F2I} (h : Kept s t) (hc : CanIssue t) : Goes s (execBarw f t) :=
  goes_issue h hc fun _ h2 => planKept_mk (kept_ite (kept_goOn h h2) (kept_ite (kept_barStop h h2) (kept_goOn h h2)))

theorem goes_execBar {f : F2I} (h : Kept s t) (hc : CanIssue t) : Goes s (execBar f t) :=
  goes_issue h hc fun _ h2 => planKept_mk
    (kept_ite (kept_goOn h h2) (kept_ite (kept_barStop h h2) (kept_barArrive (kept_goOn h h2))))

theorem kept_queueGo {x : Ctx} {kind : ReqKind} {ops : List (Target × LaneOp)} {dest : Option Nat} {m : XM}
    {returns acquire strong : Bool} (h : Kept s t) :
    Kept s (queueGo t x kind ops dest m returns acquire strong) :=
  kept_ite (kept_finishReturning (kept_foldl (kept_frame h) fun _ _ h2 => kept_accept h2))
    (kept_goOn (kept_foldl (kept_frame h) fun _ _ h2 => kept_accept h2)
      (coreKept_core (kept_foldl (kept_frame h) fun _ _ h2 => kept_accept h2)))

/-! ### Channels -/

theorem kept_updChan {g n : Nat} {f : Chan → Chan} (h : Kept s t) : Kept s (updChan t g n f) := kept_updWg h

theorem goes_execChopenTx {f : F2I} (h : Kept s t) (hc : CanIssue t) : Goes s (execChopenTx f t) :=
  goes_issue h hc fun _ h2 => planKept_mk (kept_ite (kept_goOn h h2) (kept_goOn (kept_updChan h) h2))

theorem kept_takeAgain {g n : Nat} (h : Kept s t) : Kept s (takeAgain t g n) := by
  unfold takeAgain
  split
  · exact h
  · split
    · exact h
    · exact kept_foldl (kept_updWg h) fun _ _ h3 => kept_wgWrite h3

theorem goes_execChopenRx {f : F2I} (h : Kept s t) (hc : CanIssue t) : Goes s (execChopenRx f t) :=
  goes_issue h hc fun _ h2 => planKept_mk
    (kept_ite (kept_goOn h h2)
      (kept_goOn (kept_takeAgain (kept_updChan h)) (coreKept_core (kept_takeAgain (kept_updChan h)))))

theorem goes_execSend {f : F2I} (h : Kept s t) (hc : CanIssue t) : Goes s (execSend f t) :=
  goes_issue h hc fun _ _ => planKept_mk
    (kept_goOn (kept_foldl h fun _ _ h3 => kept_accept h3) (coreKept_core (kept_foldl h fun _ _ h3 => kept_accept h3)))

theorem goes_execRecv {f : F2I} (h : Kept s t) (hc : CanIssue t) : Goes s (execRecv f t) :=
  goes_issue h hc fun _ h2 => planKept_mk
    (kept_ite (kept_goOn h h2) (kept_ite (kept_poisonOut h) (kept_goOn (kept_updChan h) (coreKept_putLanes h2))))

theorem planKept_chanDrain {x : Ctx} {n : Nat} {t1 : Machine.State} (h : Kept s t) (h1' : Kept s t1) :
    PlanKept s (chanDrain t x n t1) := planKept_mk (kept_ite (kept_keepWaiting h) h1')

theorem kept_closeChan {x : Ctx} {n : Nat} (h : Kept s t) : Kept s (closeChan t x n) := by
  unfold closeChan
  exact kept_updChan (kept_ite (kept_updWg h) h)

theorem goes_execChclose {f : F2I} (h : Kept s t) (hc : CanIssue t) : Goes s (execChclose f t) :=
  goes_issue h hc fun _ h2 => planKept_chanDrain h (kept_goOn (kept_ite h (kept_closeChan h)) h2)

/-! ### Engines -/

theorem kept_spawnPush {c lid : Nat} {ls : List LaneOp} (h : Kept s t) : Kept s (spawnPush t c lid ls) :=
  kept_foldl h fun _ _ h1 => kept_frontPush h1

theorem goes_execSpawn {f : F3} {m : XM} (h : Kept s t) (hc : CanIssue t) : Goes s (execSpawn f m t) :=
  goes_issue h hc fun _ h2 => planKept_mk
    (kept_ite (kept_goOn h h2)
      (kept_ite (kept_goOn (kept_accept h) h2) (kept_goOn (kept_spawnPush h) (coreKept_core (kept_spawnPush h)))))

theorem goes_execFork {f : F3} {m : XM} (h : Kept s t) (hc : CanIssue t) : Goes s (execFork f m t) :=
  goes_issue h hc fun _ h2 => planKept_mk
    (kept_ite (kept_goOn h h2)
      (kept_goOn (kept_frame (kept_updSeq (kept_wgWrite h))) (coreKept_core (kept_updSeq (kept_wgWrite h)))))

theorem goes_execJoin {f : F3} (h : Kept s t) (hc : CanIssue t) : Goes s (execJoin f t) :=
  goes_issue h hc fun _ h2 => planKept_mk (kept_ite (kept_poisonOut h) (kept_goOn h (coreKept_putLanes h2)))

theorem kept_settleBars {g : Nat} (h : Kept s t) : Kept s (settleBars t g) :=
  kept_foldl h fun _ _ h1 => kept_barSettle h1

theorem kept_orphanCopies {c sl : Nat} (h : Kept s t) : Kept s (orphanCopies t c sl) :=
  kept_updCore h fun _ h1 => coreKept_frame h1

theorem kept_endWarp {c sl g : Nat} (h : Kept s t) : Kept s (endWarp t c sl g) := by
  unfold endWarp
  dsimp only
  split
  · exact kept_updWg (kept_dropWarp (kept_orphanCopies h))
  · exact kept_ite (kept_updWg (kept_dropWarp (kept_orphanCopies h)))
      (kept_ite (kept_settleBars (kept_updWg (kept_dropWarp (kept_orphanCopies h))))
        (kept_ite (kept_freeWg (kept_updWg (kept_dropWarp (kept_orphanCopies h))))
          (kept_askCheckpoint (kept_updWg (kept_dropWarp (kept_orphanCopies h))))))

theorem kept_endLanes {x : Ctx} {m : Word} (h : Kept s t) : Kept s (endLanes t x m) :=
  kept_ite (kept_endWarp (kept_done h (coreKept_core h))) (kept_settle (kept_updWarp (kept_done h (coreKept_core h))))

theorem kept_joinReq {x : Ctx} {l pa : Nat} (h : Kept s t) : Kept s (joinReq t x l pa) := by
  unfold joinReq
  split
  · exact h
  · exact kept_accept h

theorem kept_exitPool {x : Ctx} (h : Kept s t) : Kept s (exitPool t x) := by
  unfold exitPool
  exact kept_withXlate h fun _ _ _ h2 h3 => kept_endLanes
    (kept_foldl (kept_foldl h2 fun _ _ h4 => kept_postFault h4) fun _ _ h4 => kept_joinReq h4)

theorem goes_execExit {f : F3} (h : Kept s t) (hc : CanIssue t) : Goes s (execExit f t) := by
  unfold execExit
  exact goes_issueIn h hc
    (fun _ h2 => planKept_mk (kept_ite (kept_goOn h h2) (kept_ite (kept_exitPool h) (kept_endLanes h)))) fun _ _ =>
    kept_seqEnd h

/-! ### System -/

theorem goes_execDbgbrk {f : F2I} (h : Kept s t) (hc : CanIssue t) : Goes s (execDbgbrk f t) :=
  goes_issue h hc fun _ h2 => planKept_mk
    (kept_ite (kept_goOn h h2) (kept_ite (kept_goOn (kept_frame h) h2) (kept_trapTo h)))

theorem goes_execSuspq {f : F3} (h : Kept s t) (hc : CanIssue t) : Goes s (execSuspq f t) :=
  goes_issue h hc fun _ h2 => planKept_mk
    (kept_ite (kept_goOn h h2)
      (kept_goOn (kept_foldl h fun _ _ h3 => kept_updCore h3 fun _ h4 => coreKept_frame h4)
        (coreKept_putLanes (coreKept_core (kept_foldl h fun _ _ h3 => kept_updCore h3 fun _ h4 => coreKept_frame h4)))))

/-! ### Rounds -/

theorem fstKept_takeGens {c n : Nat} (h : Kept s t) : FstKept s (takeGens t c n) := by
  induction n generalizing t with
  | zero => exact h
  | succ n ih => exact ih (kept_updCore h fun _ hk => coreKept_frame hk)

theorem optKept_reserveOne {c sl psize : Nat} (h : Kept s t) : OptKept s (reserveOne t c sl psize) := by
  unfold reserveOne
  split
  · exact optKept_none
  · dsimp only
    split
    · exact optKept_ite (optKept_some (kept_setWarp h)) optKept_none
    · exact optKept_none

theorem kept_reserveClones {c sl psize n : Nat} (h : Kept s t) : Kept s (reserveClones t c sl psize n) := by
  induction n generalizing t with
  | zero => exact h
  | succ n ih =>
    unfold reserveClones
    split
    · exact ih (OptKept.of_eq (optKept_reserveOne h) ‹_›)
    · exact h

theorem kept_openRound {x : Ctx} {f : FS} {d : LoopDesc} {privBase : Nat} (h : Kept s t) :
    Kept s (openRound t x f d privBase) := by
  unfold openRound
  dsimp only
  split
  · exact kept_reserveClones (kept_setWarp (kept_frame h))
  · exact kept_done (kept_reserveClones (kept_setWarp (kept_frame h)))
      (coreKept_core (kept_reserveClones (kept_setWarp (kept_frame h))))

theorem goes_execSpbegin {f : FS} (h : Kept s t) (hc : CanIssue t) : Goes s (execSpbegin f t) := by
  unfold execSpbegin
  refine goes_issue h hc fun _ h2 => planKept_mk ?_
  split
  · exact kept_ite (kept_poisonOut h) (kept_openRound h)
  · exact kept_ite (kept_poisonOut h) h

theorem coreKept_copyRows {k : Core} {sl : Nat} {w : Warp} {sl' : Nat} {w' : Warp} (hk : CoreKept s k) :
    CoreKept s (copyRows k sl w sl' w') := coreKept_foldl hk fun _ _ h1 => coreKept_ite (coreKept_frame h1) h1

theorem coreKept_enterSections {k : Core} {w : Warp} (hk : CoreKept s k) : CoreKept s (enterSections k w) :=
  coreKept_addCnt (coreKept_addCnt hk)

theorem kept_cloneOne {c sl i : Nat} {w : Warp} {r : Reserve} (h : Kept s t) : Kept s (cloneOne t c sl i w r) :=
  kept_settle (kept_updCore (kept_addMove (fstKept_takeGens h)) fun _ h1 => coreKept_enterSections
      (coreKept_copyRows (coreKept_warps h1 (rising_fput (Nat.zero_le _)))))

theorem kept_startRound {x : Ctx} {w : Warp} {m : Nat} (h : Kept s t) : Kept s (startRound t x w m) :=
  kept_updWarp (kept_foldl (kept_done (fstKept_takeGens h) (coreKept_core (fstKept_takeGens h))) fun _ _ h2 =>
      kept_cloneOne h2)

theorem kept_squashAbove {c sl : Nat} (h : Kept s t) : Kept s (squashAbove t c sl) := by
  unfold squashAbove
  split
  · exact h
  · dsimp only
    split
    · exact h
    · exact kept_ite h (kept_ite (kept_foldl (kept_updWg (fstKept_takeGens h)) fun _ _ h3 => kept_dropWarp h3)
          (kept_foldl (kept_foldl (kept_updWg (fstKept_takeGens h)) fun _ _ h3 => kept_dropWarp h3) fun _ _ h3 =>
            kept_accept h3))

theorem kept_promote {c sl g dst : Nat} {w : Warp} (h : Kept s t) : Kept s (promote t c sl g dst w) :=
  kept_updWarp (kept_frame (kept_updWg (kept_updSeq (kept_frame (kept_dropWarp (kept_orphanCopies h))))))

theorem goes_execSpcmp {f : FS} (h : Kept s t) (hc : CanIssue t) : Goes s (execSpcmp f t) := by
  unfold execSpcmp
  refine goes_issue h hc fun _ h2 => planKept_mk ?_
  split
  · exact kept_promote (kept_updCore h fun _ h4 => coreKept_frame h4)
  · exact kept_goOn (kept_squashAbove h) (coreKept_core (kept_squashAbove h))

theorem goes_execSpend {f : FS} (h : Kept s t) (hc : CanIssue t) : Goes s (execSpend f t) :=
  goes_issue h hc fun _ h2 => planKept_mk
    (kept_ite (kept_goOn (kept_squashAbove h) (coreKept_core (kept_squashAbove h))) (kept_goOn h h2))

/-! ### Matrix operations -/

theorem kept_seqFail {cl code : Nat} (h : Kept s t) : Kept s (seqFail t cl code) :=
  kept_ite (kept_seqFinish (kept_updSeq h)) h

theorem goes_matrixOp {i : Instr} {qa : BitVec 5} {check : Sequencer → Nat → Option Nat} (h : Kept s t) (hc : CanIssue t) :
    Goes s (matrixOp i qa t check) := by
  unfold matrixOp
  refine goes_issueIn h hc (fun _ h2 => planKept_mk (kept_goOn h h2)) fun _ _ => kept_ite h ?_
  split
  · exact kept_seqFail h
  · exact kept_updSeq h

theorem fstKept_argRead {fk : Fork} {va : Nat} (h : Kept s t) : FstKept s (argRead t fk va) := by
  unfold argRead
  dsimp only
  split
  · exact fstKept_mk h
  · split
    · exact fstKept_mk h
    · split
      · split <;> exact fstKept_mk (FstKept.of_eq (fstKept_awayXlate h) ‹_›)
      · split
        · exact fstKept_mk h
        · refine fstKept_ite (fstKept_mk h) ?_
          split
          · exact fstKept_mk h
          · exact fstKept_ite (fstKept_mk h) (fstKept_ite (fstKept_mk h) (fstKept_ite (fstKept_mk h) (fstKept_mk h)))
      · exact fstKept_mk h
      · exact fstKept_mk h
      · exact fstKept_mk h

theorem kept_argWaits {cl : Nat} {fk : Fork} {va : Nat} (h : Kept s t) : Kept s (argWaits t cl fk va) :=
  kept_ite (kept_frame (kept_updSeq h)) h

theorem goes_execMfillArg {f : FQ} (h : Kept s t) (hc : CanIssue t) : Goes s (execMfillArg f t) := by
  unfold execMfillArg
  refine goes_issueIn h hc (fun _ h2 => planKept_mk (kept_goOn h h2)) fun _ _ => ?_
  split
  · exact h
  · refine kept_ite (kept_seqFail h) (kept_ite h ?_)
    split
    · exact kept_updSeq (FstKept.of_eq (fstKept_argRead h) ‹_›)
    · exact kept_seqFail (FstKept.of_eq (fstKept_argRead h) ‹_›)
    · exact kept_updSeq (FstKept.of_eq (fstKept_argRead h) ‹_›)
    · exact kept_argWaits (FstKept.of_eq (fstKept_argRead h) ‹_›)
    · split
      · exact kept_badReplay (FstKept.of_eq (fstKept_argRead h) ‹_›)
      · exact FstKept.of_eq (fstKept_argRead h) ‹_›

theorem goes_execMwait {f : FQ} (h : Kept s t) (hc : CanIssue t) : Goes s (execMwait f t) :=
  goes_issueIn h hc (fun _ h2 => planKept_mk (kept_goOn h h2)) fun _ _ => kept_ite (kept_updSeq h) h

theorem goes_execMstat {f : FQ} (h : Kept s t) (hc : CanIssue t) : Goes s (execMstat f t) :=
  goes_issueIn h hc (fun _ h2 => planKept_mk (kept_goOn h h2)) fun _ _ => kept_ite h
    (kept_updSeq (kept_ite (kept_foldl h fun _ _ h2 => kept_updCore h2 fun _ h3 => coreKept_frame h3) h))

theorem goes_execMscl {f : FQ} (h : Kept s t) (hc : CanIssue t) : Goes s (execMscl f t) := by
  unfold execMscl
  exact goes_matrixOp h hc

theorem kept_onArrays {cl : Nat} {scaled : Bool} {f : Nat × Nat × Wg → MArray → ArrStep} (h : Kept s t) :
    Kept s (onArrays t cl scaled f) :=
  kept_foldl h fun _ _ h1 => kept_ite (kept_seqFail (kept_noteSuspect (kept_updCore h1 fun _ h2 => coreKept_frame h2)))
    (kept_updCore h1 fun _ h2 => coreKept_frame h2)

theorem kept_onArraysPlain {cl : Nat} {f : Nat × Nat × Wg → MArray → MArray} (h : Kept s t) :
    Kept s (onArraysPlain t cl f) := kept_onArrays h

theorem kept_drainWrite {g pos : Nat} {part : List MxChunk} {v : Nat} {bs : List Byte} (h : Kept s t) :
    Kept s (drainWrite t g pos part v bs) := by
  unfold drainWrite
  split
  · exact kept_wgWrite h
  · exact kept_foldl h fun _ _ h1 => kept_ite h1 (kept_wgWrite h1)

theorem kept_productRun {cl : Nat} {f : FQ} {v : Nat} {part : List MxChunk} {run : Mem → Nat → Nat → MArray → ArrStep}
    (h : Kept s t) :
    Kept s (productRun t cl f v part run) := kept_onArrays h

theorem kept_msclRun {cl : Nat} {f : FQ} {v : Nat} {part : List MxChunk} (h : Kept s t) :
    Kept s (msclRun t cl f v part) := by
  unfold msclRun
  refine kept_ite (kept_seqFail h) ?_
  split
  · exact kept_slicePoisonReplay h
  · exact kept_onArraysPlain h

theorem kept_mdrainRun {cl : Nat} {f : FQ} {v : Nat} {part : List MxChunk} (h : Kept s t) :
    Kept s (mdrainRun t cl f v part) :=
  kept_foldl h fun _ _ h1 => kept_updCore (kept_drainWrite h1) fun _ h2 => coreKept_frame h2

theorem kept_mxRun {cl : Nat} {o : MxOp} {part : List MxChunk} (h : Kept s t) : Kept s (mxRun t cl o part) := by
  unfold mxRun
  dsimp only
  split
  · exact kept_onArraysPlain h
  · exact kept_onArraysPlain h
  · refine kept_ite (kept_seqFail h) ?_
    split
    · exact kept_slicePoisonReplay h
    · exact kept_onArraysPlain h
  · exact kept_onArraysPlain h
  · exact kept_mdrainRun h
  · exact kept_msclRun h
  · exact kept_onArrays h
  · exact kept_onArraysPlain h
  · exact kept_productRun h
  · exact kept_productRun h
  · exact kept_productRun h
  · exact kept_productRun h
  · exact kept_productRun h
  · exact kept_productRun h
  · exact kept_productRun h
  · exact kept_productRun h
  · exact h

theorem goes_execSequencerProgramStart {cluster : Nat} (h : Kept s t) : Goes s (execSequencerProgramStart cluster t) := by
  unfold execSequencerProgramStart
  dsimp only
  split
  · exact goes_ite (goes_next (kept_updSeq h)) (goes_next h)
  · exact goes_next h

theorem goes_execArrayOpStart {cluster : Nat} (h : Kept s t) : Goes s (execArrayOpStart cluster t) := by
  unfold execArrayOpStart
  dsimp only
  split
  · exact goes_next (kept_mxRun (kept_updSeq h))
  · exact goes_next h

theorem kept_matrixChunk {cl pos src chunk : Nat} (h : Kept s t) : Kept s (matrixChunk t cl pos src chunk) := by
  unfold matrixChunk
  dsimp only
  split
  · refine kept_ite h ?_
    split
    · exact kept_updSeq (kept_ite (kept_wgWrite h) h)
    · exact h
  · exact h

theorem kept_faultySum {c elem : Nat} {err : Int} (h : Kept s t) : Kept s (faultySum t c elem err) :=
  kept_updCore h fun _ h1 => coreKept_frame h1

theorem goes_execMatrixOperationComplete {cluster : Nat} (h : Kept s t) : Goes s (execMatrixOperationComplete cluster t) :=
  goes_ite (goes_next (kept_seqFinish (kept_updSeq h))) (goes_next h)

/-! ### Peers -/

theorem fstKept_takeFree (h : Kept s t) : FstKept s (takeFree t) := fstKept_mk (kept_frame h)

theorem fstKept_takeFreeBytes {n : Nat} (h : Kept s t) : FstKept s (takeFreeBytes t n) := by
  induction n generalizing t with
  | zero => exact h
  | succ n ih => exact ih (fstKept_takeFree h)

theorem fstKept_takeFault (h : Kept s t) : FstKept s (takeFault t) := fstKept_mk (kept_frame h)

theorem kept_noteLines {k : Nat} {p : Double} {pa n : Nat} (h : Kept s t) : Kept s (noteLines t k p pa n) :=
  kept_foldl h fun _ _ h1 => kept_noteBounce h1

theorem fstKept_inXlate {k space va n acc : Nat} (h : Kept s t) : FstKept s (inXlate t k space va n acc) := by
  unfold inXlate
  dsimp only
  split
  · exact fstKept_mk (kept_updDev h)
  · split
    · exact fstKept_mk (kept_updDev h)
    · refine fstKept_ite ?_ (fstKept_mk (kept_updDev h))
      split
      · exact fstKept_mk (kept_ite (kept_noteLines (FstKept.of_eq (fstKept_serveLeaf (kept_updDev h)) ‹_›))
            (FstKept.of_eq (fstKept_serveLeaf (kept_updDev h)) ‹_›))
      · exact fstKept_mk (kept_updDev (FstKept.of_eq (fstKept_serveLeaf (kept_updDev h)) ‹_›))
      · exact fstKept_mk (FstKept.of_eq (fstKept_serveLeaf (kept_updDev h)) ‹_›)
    · split
      · exact fstKept_mk (kept_ite (kept_noteLines (FstKept.of_eq (fstKept_serveLeaf (kept_updDev h)) ‹_›))
            (FstKept.of_eq (fstKept_serveLeaf (kept_updDev h)) ‹_›))
      · exact fstKept_mk (kept_updDev (FstKept.of_eq (fstKept_serveLeaf (kept_updDev h)) ‹_›))
      · exact fstKept_mk (FstKept.of_eq (fstKept_serveLeaf (kept_updDev h)) ‹_›)
    · split
      · exact fstKept_mk (kept_ite (kept_noteLines (FstKept.of_eq (fstKept_serveLeaf (kept_updDev h)) ‹_›))
            (FstKept.of_eq (fstKept_serveLeaf (kept_updDev h)) ‹_›))
      · exact fstKept_mk (kept_updDev (FstKept.of_eq (fstKept_serveLeaf (kept_updDev h)) ‹_›))
      · exact fstKept_mk (FstKept.of_eq (fstKept_serveLeaf (kept_updDev h)) ‹_›)

theorem fstKept_peerPlace {k : Nat} {x : Export} {initiator off n acc : Nat} {own : Option Nat} (h : Kept s t) :
    FstKept s (peerPlace t k x initiator off n acc own) := by
  unfold peerPlace
  refine fstKept_ite (fstKept_mk (kept_postFault h)) ?_
  split
  · split
    · exact fstKept_mk (FstKept.of_eq (fstKept_inXlate h) ‹_›)
    · exact fstKept_mk (FstKept.of_eq (fstKept_inXlate h) ‹_›)
    · exact fstKept_mk (kept_postFault (FstKept.of_eq (fstKept_inXlate h) ‹_›))
  · split
    · exact fstKept_mk (kept_postFault h)
    · split
      · exact fstKept_mk h
      · exact fstKept_mk (kept_postFault h)
  · exact fstKept_mk (kept_postFault h)
  · exact fstKept_mk (kept_postFault h)
  · exact fstKept_mk (kept_postFault h)

/-! ### Home slices -/

theorem kept_placeWrite {p : Place} {n v keep : Nat} (h : Kept s t) : Kept s (placeWrite t p n v keep) := by
  unfold placeWrite
  split
  · split
    · exact kept_mem h (memWf_memWriteNat _ _ _)
    · exact h
  · exact kept_ownWrite h

theorem fstKept_joinLane {r : Req} {p : Place} {o : LaneOp} (h : Kept s t) : FstKept s (joinLane t r p o) :=
  fstKept_ite (fstKept_mk (kept_postFault h))
    (fstKept_mk (kept_ite (kept_frontPush (kept_placeWrite h)) (kept_placeWrite h)))

theorem fstKept_plainLane {r : Req} {p : Place} {o : LaneOp} (h : Kept s t) : FstKept s (plainLane t r p o) := by
  unfold plainLane
  dsimp only
  split
  · exact fstKept_mk (kept_placeWrite h)
  · exact fstKept_mk h
  · exact fstKept_mk h
  · exact fstKept_joinLane h
  · exact fstKept_mk (kept_placeWrite h)

theorem fstKept_appendLane {k home : Nat} {r : Req} {o : LaneOp} (h : Kept s t) : FstKept s (appendLane t k home r o) := by
  unfold appendLane
  refine fstKept_ite (fstKept_mk h) (fstKept_ite (fstKept_mk (kept_physWrite h)) ?_)
  dsimp only
  split
  · exact fstKept_mk (kept_physWrite (kept_physWrite (FstKept.of_eq (fstKept_awayXlate h) ‹_›)))
  · exact fstKept_mk (FstKept.of_eq (fstKept_awayXlate h) ‹_›)
  · exact fstKept_mk (FstKept.of_eq (fstKept_awayXlate h) ‹_›)

theorem fstKept_acommitLane {k : Nat} {o : LaneOp} (h : Kept s t) : FstKept s (acommitLane t k o) :=
  fstKept_ite (fstKept_mk h) (fstKept_ite (fstKept_mk h) (fstKept_mk (kept_physWrite h)))

theorem kept_resetShead {k : Nat} {r : Req} {pa : Nat} (h : Kept s t) : Kept s (resetShead t k r pa) := by
  unfold resetShead
  refine kept_ite (kept_physWrite h) ?_
  dsimp only
  split
  · exact kept_physWrite h
  · exact kept_physWrite h
  · exact h

theorem fstKept_itemXlate {k home : Nat} {r : Req} {d : WqDesc} {i : Nat} {write : Bool} (h : Kept s t) :
    FstKept s (itemXlate t k home r d i write) := fstKept_awayXlate h

theorem fstKept_pushLane {k home : Nat} {r : Req} {nb : Bool} {o : LaneOp} (h : Kept s t) :
    FstKept s (pushLane t k home r nb o) := by
  unfold pushLane
  refine fstKept_ite (fstKept_mk h)
    (fstKept_ite (fstKept_mk h) (fstKept_ite ?_ (fstKept_ite (fstKept_mk h) (fstKept_mk h))))
  split
  · exact fstKept_mk (kept_physWrite (kept_physWrite (FstKept.of_eq (fstKept_itemXlate h) ‹_›)))
  · exact fstKept_mk (FstKept.of_eq (fstKept_itemXlate h) ‹_›)
  · exact fstKept_mk (FstKept.of_eq (fstKept_itemXlate h) ‹_›)

theorem fstKept_popLane {k home : Nat} {r : Req} {nb : Bool} {o : LaneOp} (h : Kept s t) :
    FstKept s (popLane t k home r nb o) := by
  unfold popLane
  refine fstKept_ite (fstKept_mk h)
    (fstKept_ite (fstKept_mk h) (fstKept_ite ?_ (fstKept_ite (fstKept_mk h) (fstKept_mk h))))
  split
  · exact fstKept_ite (fstKept_mk (FstKept.of_eq (fstKept_itemXlate h) ‹_›))
      (fstKept_mk (kept_physWrite (FstKept.of_eq (fstKept_itemXlate h) ‹_›)))
  · exact fstKept_mk (FstKept.of_eq (fstKept_itemXlate h) ‹_›)
  · exact fstKept_mk (FstKept.of_eq (fstKept_itemXlate h) ‹_›)

theorem fstKept_loadLane {k : Nat} {r : Req} {o : LaneOp} (h : Kept s t) : FstKept s (loadLane t k r o) :=
  fstKept_ite (fstKept_mk h) (fstKept_mk h)

theorem fstKept_homeLane {k home : Nat} {r : Req} {o : LaneOp} (h : Kept s t) : FstKept s (homeLane t k home r o) := by
  unfold homeLane
  split
  · exact fstKept_loadLane h
  · exact fstKept_appendLane h
  · exact fstKept_acommitLane h
  · exact fstKept_ite (fstKept_mk h) (fstKept_mk h)
  · exact fstKept_pushLane h
  · exact fstKept_popLane h
  · exact fstKept_plainLane h

theorem fstKept_serveGo {f : State → LaneOp → State × Served} {stop : Bool} {os : List LaneOp} {a : Answer} (h : Kept s t)
    (hf : ∀ t o, Kept s t → FstKept s (f t o)) : FstKept s (serveGo f stop os t a) := by
  induction os generalizing t a with
  | nil => exact h
  | cons o os ih =>
    unfold serveGo
    split
    · exact ih (FstKept.of_eq (hf _ _ h) ‹_›)
    · have ho := FstKept.of_eq (hf _ _ h) ‹_›
      exact fstKept_ite ho (ih ho)
    · exact FstKept.of_eq (hf _ _ h) ‹_›
    · exact FstKept.of_eq (hf _ _ h) ‹_›
    · exact FstKept.of_eq (hf _ _ h) ‹_›

theorem kept_sendBack {r : Req} {a : Answer} (h : Kept s t) : Kept s (sendBack t r a) :=
  kept_ite h (kept_frame h)

theorem kept_sendPart {r : Req} {a : Answer} (h : Kept s t) : Kept s (sendPart t r a) :=
  kept_ite (kept_frame h) h

theorem kept_takeNet {id : Nat} (h : Kept s t) : Kept s (takeNet t id) := kept_frame h

theorem kept_setWaiting {k q : Nat} {w : WqWait} (h : Kept s t) : Kept s (setWaiting t k q w) := kept_updDev h

theorem fstKept_waitingLane {k home : Nat} {r : Req} (h : Kept s t) : FstKept s (waitingLane t k home r) := by
  unfold waitingLane
  split
  · exact fstKept_mk h
  · split
    · exact fstKept_mk (kept_ite (kept_sendBack (FstKept.of_eq (fstKept_homeLane h) ‹_›))
          (kept_sendPart (FstKept.of_eq (fstKept_homeLane h) ‹_›)))
    · exact fstKept_mk (kept_sendBack (FstKept.of_eq (fstKept_homeLane h) ‹_›))
    · exact fstKept_mk (kept_frame (FstKept.of_eq (fstKept_homeLane h) ‹_›))
    · exact fstKept_mk (FstKept.of_eq (fstKept_homeLane h) ‹_›)
    · exact fstKept_mk (kept_badReplay (FstKept.of_eq (fstKept_homeLane h) ‹_›))

theorem kept_wqSettle {k home q n : Nat} (h : Kept s t) : Kept s (wqSettle t k home q n) := by
  induction n generalizing t with
  | zero => exact h
  | succ n ih =>
    have step (r : Req) (f : List LaneOp → State → State) (hf : ∀ rest u, Kept s u → Kept s (f rest u)) :
        OptKept s (match waitingLane t k home r with
          | (_, none) => none
          | (u, some rest) => some (f rest u)) := by
      split
      · exact optKept_none
      · exact optKept_some (hf _ _ (FstKept.of_eq (fstKept_waitingLane h) ‹_›))
    unfold wqSettle
    dsimp only
    split
    · rename_i u hu
      refine ih (OptKept.of_eq (optKept_or ?_ ?_) hu)
      · split
        · exact step _ (fun rest u => setWaiting u k q _) fun _ _ h => kept_setWaiting h
        · exact optKept_none
      · split
        · exact step _ (fun rest u => setWaiting u k q _) fun _ _ h => kept_setWaiting h
        · exact optKept_none
    · exact h

theorem kept_afterQueue {k home : Nat} {r : Req} (h : Kept s t) : Kept s (afterQueue t k home r) := by
  unfold afterQueue
  split
  · exact kept_wqSettle h
  · exact kept_wqSettle h
  · exact h

theorem kept_queueSettle {k q : Nat} (h : Kept s t) : Kept s (queueSettle t k q) := kept_wqSettle h

theorem poolKept_poolPop {k q launch : Nat} (h : Kept s t) : PoolKept s (poolPop t k q launch) := by
  unfold poolPop
  refine poolKept_ite (poolKept_refused h) (poolKept_ite trivial ?_)
  split
  · exact poolKept_ite (poolKept_refused (FstKept.of_eq (fstKept_awayXlate h) ‹_›))
      (poolKept_item (kept_queueSettle (kept_physWrite (FstKept.of_eq (fstKept_awayXlate h) ‹_›))))
  · exact poolKept_refused (FstKept.of_eq (fstKept_awayXlate h) ‹_›)

theorem fstKept_poolPush {k q a b : Nat} (h : Kept s t) : FstKept s (poolPush t k q a b) := by
  unfold poolPush
  refine fstKept_ite (fstKept_mk h) ?_
  split
  · exact fstKept_mk (kept_queueSettle (kept_physWrite (kept_physWrite (FstKept.of_eq (fstKept_awayXlate h) ‹_›))))
  · exact fstKept_mk (FstKept.of_eq (fstKept_awayXlate h) ‹_›)

/-! ### The copy engine -/

theorem kept_physZero {k pa n : Nat} (h : Kept s t) : Kept s (physZero t k pa n) := by
  unfold physZero
  split
  · exact kept_mem h (memWfFrom_filter _)
  · exact h

theorem bounceKept_bounceInstall {k c launch space va at_ : Nat} {old : Double} (h : Kept s t) :
    BounceKept s (bounceInstall t k c launch space va at_ old) := by
  unfold bounceInstall
  split
  · exact trivial
  · exact bounceKept_none_ (PoolKept.of_refused (poolKept_poolPop h) ‹_›)
  · dsimp only
    split
    · exact bounceKept_ok
        (kept_postFault (kept_updDev
            (FstKept.of_eq (fstKept_casPte (kept_physZero (kept_physZero (PoolKept.of_item (poolKept_poolPop h) ‹_›))))
              ‹_›)))
    · exact bounceKept_none_
        (FstKept.of_eq (fstKept_casPte (kept_physZero (kept_physZero (PoolKept.of_item (poolKept_poolPop h) ‹_›)))) ‹_›)

theorem kept_startPageIn {k c launch space va : Nat} {p : Double} {at_ size : Nat} (h : Kept s t) :
    Kept s (startPageIn t k c launch space va p at_ size) := by
  unfold startPageIn
  refine kept_ite h ?_
  dsimp only
  split
  · exact kept_updDev (PoolKept.of_item (poolKept_poolPop h) ‹_›)
  · exact kept_updDev (kept_postFault h)
  · exact kept_updDev (PoolKept.of_refused (poolKept_poolPop h) ‹_›)

theorem fstKept_copyXlate {j : Job} {q : CopyCmd} {va : Nat} {write : Bool} (h : Kept s t) :
    FstKept s (copyXlate t j q va write) := by
  unfold copyXlate
  dsimp only
  split
  · exact fstKept_mk h
  · refine fstKept_ite (fstKept_mk h) ?_
    split
    · refine fstKept_ite ?_
        (fstKept_ite (fstKept_mk (kept_startPageIn (kept_updCore h fun _ h3 => coreKept_frame h3)))
          (fstKept_mk (kept_updCore h fun _ h3 => coreKept_frame h3)))
      split
      · exact fstKept_mk (FstKept.of_eq (fstKept_serveLeaf (kept_updCore h fun _ h4 => coreKept_frame h4)) ‹_›)
      · exact fstKept_mk (FstKept.of_eq (fstKept_serveLeaf (kept_updCore h fun _ h4 => coreKept_frame h4)) ‹_›)
      · exact fstKept_mk (kept_updCore
            (FstKept.of_eq (fstKept_serveLeaf (kept_updCore h fun _ h4 => coreKept_frame h4)) ‹_›) fun _ h4 =>
            coreKept_frame h4)
    · split
      · exact fstKept_mk (kept_postFault (kept_updCore h fun _ h4 => coreKept_frame h4))
      · split
        · exact fstKept_mk (BounceKept.of_ok (bounceKept_bounceInstall (kept_updCore h fun _ h5 => coreKept_frame h5)) ‹_›)
        · exact fstKept_mk (kept_postFault
              (BounceKept.of_none_ (bounceKept_bounceInstall (kept_updCore h fun _ h5 => coreKept_frame h5)) ‹_›))
        · exact fstKept_mk (kept_postFault (kept_postFault (kept_updCore h fun _ h5 => coreKept_frame h5)))

theorem fstKept_copyPeer {j : Job} {q : CopyCmd} {w off va n : Nat} (h : Kept s t) :
    FstKept s (copyPeer t j q w off va n) := by
  unfold copyPeer
  dsimp only
  split
  · refine fstKept_ite (fstKept_mk (kept_postFault h)) (fstKept_ite (fstKept_mk (kept_frame h)) ?_)
    split
    · exact fstKept_mk (FstKept.of_eq (fstKept_peerPlace h) ‹_›)
    · exact fstKept_mk (FstKept.of_eq (fstKept_peerPlace h) ‹_›)
    · exact fstKept_mk (kept_frame (FstKept.of_eq (fstKept_peerPlace h) ‹_›))
    · exact fstKept_mk (FstKept.of_eq (fstKept_peerPlace h) ‹_›)
  · split
    · exact fstKept_mk (FstKept.of_eq (fstKept_takeFault (kept_frame h)) ‹_›)
    · exact fstKept_mk (fstKept_takeFreeBytes (FstKept.of_eq (fstKept_takeFault (kept_frame h)) ‹_›))
  · exact fstKept_mk (kept_postFault h)

theorem fstKept_copyRead {j : Job} {q : CopyCmd} {va n : Nat} (h : Kept s t) : FstKept s (copyRead t j q va n) := by
  unfold copyRead
  split
  · split <;> exact fstKept_mk (FstKept.of_eq (fstKept_copyXlate h) ‹_›)
  · exact fstKept_mk h
  · split
    · exact fstKept_mk h
    · exact fstKept_ite (fstKept_mk h) (fstKept_mk h)
  · exact fstKept_copyPeer h
  · exact fstKept_mk h

theorem fstKept_copyGet {j : Job} {q : CopyCmd} {va n : Nat} (h : Kept s t) : FstKept s (copyGet t j q va n) :=
  fstKept_mk (fstKept_copyRead h)

theorem fstKept_copyAccept {j : Job} {q : CopyCmd} {r : Req} (h : Kept s t) : FstKept s (copyAccept t j q r) :=
  fstKept_ite (fstKept_mk h) (fstKept_mk (kept_accept h))

theorem fstKept_copyPut {j : Job} {q : CopyCmd} {k va data keep : Nat} (h : Kept s t) :
    FstKept s (copyPut t j q k va data keep) := by
  unfold copyPut
  split
  · refine fstKept_ite (fstKept_mk h) ?_
    split
    · exact fstKept_copyAccept (kept_noteBounce (FstKept.of_eq (fstKept_copyXlate h) ‹_›))
    · exact fstKept_mk (FstKept.of_eq (fstKept_copyXlate h) ‹_›)
    · exact fstKept_mk (FstKept.of_eq (fstKept_copyXlate h) ‹_›)
    · exact fstKept_mk (FstKept.of_eq (fstKept_copyXlate h) ‹_›)
    · exact fstKept_mk (FstKept.of_eq (fstKept_copyXlate h) ‹_›)
  · exact fstKept_mk (kept_ownWrite h)
  · exact fstKept_copyAccept h
  · exact fstKept_copyAccept h
  · exact fstKept_mk h

/-! ### Copy commands -/

theorem kept_putCmd {c : Nat} {q : CopyCmd} (h : Kept s t) : Kept s (putCmd t c q) :=
  kept_updCore h fun _ h1 => coreKept_frame h1

theorem fstKept_getPieces {j : Job} {ps : List (Nat × Nat)} {q : CopyCmd} (h : Kept s t) : FstKept s (getPieces t j ps q) := by
  induction ps generalizing t q with
  | nil => exact h
  | cons p ps ih =>
    unfold getPieces
    split
    · exact ih (FstKept.of_eq (fstKept_copyGet h) ‹_›)
    · exact FstKept.of_eq (fstKept_copyGet h) ‹_›

theorem kept_chunkStore {j : Job} {a : CopyArgs} {k v : Nat} (h : Kept s t) : Kept s (chunkStore t j a k v) :=
  kept_ite (kept_updCore h fun _ h1 => coreKept_frame h1) (kept_wgWrite h)

theorem fstKept_loadChunk {j : Job} {q : CopyCmd} {inside : Nat} (h : Kept s t) : FstKept s (loadChunk t j q inside) := by
  unfold loadChunk
  split
  · exact fstKept_mk (kept_chunkStore h)
  · exact fstKept_mk h
  · refine fstKept_ite (fstKept_mk (kept_chunkStore h)) ?_
    split
    · exact fstKept_mk (kept_chunkStore (FstKept.of_eq (fstKept_getPieces h) ‹_›))
    · exact fstKept_mk (FstKept.of_eq (fstKept_getPieces h) ‹_›)
    · exact fstKept_mk (FstKept.of_eq (fstKept_getPieces h) ‹_›)

theorem fstKept_storeChunk {j : Job} {q : CopyCmd} {inside v : Nat} (h : Kept s t) :
    FstKept s (storeChunk t j q inside v) := by
  unfold storeChunk
  dsimp only
  split <;> exact fstKept_mk (FstKept.of_eq (fstKept_copyPut h) ‹_›)

theorem fstKept_chunkRun {j : Job} {q : CopyCmd} (h : Kept s t) : FstKept s (chunkRun t j q) := by
  unfold chunkRun
  refine fstKept_ite (fstKept_mk h)
    (fstKept_ite (fstKept_loadChunk h) (fstKept_ite (fstKept_mk h) (fstKept_ite (fstKept_storeChunk h) ?_)))
  split
  · exact fstKept_storeChunk h
  · exact fstKept_storeChunk h
  · exact fstKept_mk h
  · exact fstKept_mk h

theorem fstKept_chunksGo {j : Job} {n : Nat} {q : CopyCmd} (h : Kept s t) : FstKept s (chunksGo j n t q) := by
  induction n generalizing t q with
  | zero => exact h
  | succ n ih =>
    unfold chunksGo
    refine fstKept_ite h ?_
    split
    · exact ih (FstKept.of_eq (fstKept_chunkRun h) ‹_›)
    · exact fstKept_chunkRun h

theorem fstKept_recordGet {j : Job} {q : CopyCmd} (h : Kept s t) : FstKept s (recordGet t j q) := by
  unfold recordGet
  split
  · exact fstKept_mk h
  · exact fstKept_copyGet h

theorem optFstKept_readAhead {j : Job} {q : CopyCmd} {k : Nat} (h : Kept s t) : OptFstKept s (readAhead t j q k) := by
  unfold readAhead
  refine optFstKept_ite optFstKept_none
    (optFstKept_ite (optFstKept_ite ?_ optFstKept_none) (optFstKept_ite ?_ optFstKept_none))
  · split
    · exact optFstKept_some (fstKept_mk (FstKept.of_eq (fstKept_getPieces h) ‹_›))
    · exact optFstKept_none
  · split
    · exact optFstKept_some (fstKept_mk h)
    · exact optFstKept_none

theorem kept_copyAhead {c id k : Nat} {write : Bool} (h : Kept s t) : Kept s (copyAhead t c id k write) := by
  unfold copyAhead
  split
  · exact h
  · split
    · split
      · exact h
      · refine kept_ite h ?_
        split
        · exact h
        · exact kept_ite (kept_putCmd (kept_chunkStore (OptFstKept.of_eq (optFstKept_readAhead h) ‹_›)))
            (kept_putCmd (OptFstKept.of_eq (optFstKept_readAhead h) ‹_›))
    · exact h

theorem fstKept_pageInRun {j : Job} {q : CopyCmd} (h : Kept s t) : FstKept s (pageInRun t j q) := by
  unfold pageInRun
  refine fstKept_ite (fstKept_mk h) ?_
  split
  · exact fstKept_ite (fstKept_mk (kept_startPageIn h)) (fstKept_mk h)
  · exact fstKept_mk (kept_postFault h)

theorem kept_handFrame {k to_ launch pa : Nat} (h : Kept s t) : Kept s (handFrame t k to_ launch pa) := by
  unfold handFrame
  exact kept_postFault (kept_physWrite h)

theorem fstKept_handGo {j : Job} {n : Nat} {q : CopyCmd} (h : Kept s t) : FstKept s (handGo j n t q) := by
  induction n generalizing t q with
  | zero => exact h
  | succ n ih =>
    unfold handGo
    dsimp only
    split
    · exact h
    · exact ih (kept_dropTlbs (kept_handFrame h))

theorem fstKept_handRun {j : Job} {q : CopyCmd} (h : Kept s t) : FstKept s (handRun t j q) :=
  fstKept_ite (fstKept_mk h) (fstKept_ite (fstKept_mk h) (fstKept_ite (fstKept_mk h) (fstKept_handGo h)))

theorem kept_copyWork {c id : Nat} {chunks : Option Nat} (h : Kept s t) : Kept s (copyWork t c id chunks) := by
  unfold copyWork
  split
  · exact h
  · split
    · exact h
    · split
      · exact h
      · refine kept_ite h (kept_ite (kept_putCmd (fstKept_pageInRun h)) (kept_ite (kept_putCmd (fstKept_handRun h)) ?_))
        split
        · refine kept_ite (kept_putCmd (FstKept.of_eq (fstKept_recordGet h) ‹_›))
            (kept_ite (kept_putCmd (FstKept.of_eq (fstKept_recordGet h) ‹_›)) ?_)
          split
          · exact kept_badReplay (FstKept.of_eq (fstKept_chunksGo (FstKept.of_eq (fstKept_recordGet h) ‹_›)) ‹_›)
          · exact kept_putCmd (FstKept.of_eq (fstKept_chunksGo (FstKept.of_eq (fstKept_recordGet h) ‹_›)) ‹_›)
        · exact kept_badReplay (FstKept.of_eq (fstKept_recordGet h) ‹_›)
        · exact kept_putCmd (FstKept.of_eq (fstKept_recordGet h) ‹_›)
        · exact kept_putCmd (FstKept.of_eq (fstKept_recordGet h) ‹_›)
        · exact kept_putCmd (FstKept.of_eq (fstKept_recordGet h) ‹_›)
        · exact kept_putCmd (FstKept.of_eq (fstKept_recordGet h) ‹_›)
        · exact kept_putCmd (FstKept.of_eq (fstKept_recordGet h) ‹_›)

theorem kept_copyRun {c id : Nat} (h : Kept s t) : Kept s (copyRun t c id) := kept_copyWork h

theorem kept_copyStep {c id chunks : Nat} (h : Kept s t) : Kept s (copyStep t c id chunks) := by
  unfold copyStep
  split
  · exact kept_ite (kept_copyWork (kept_putCmd h)) h
  · exact h

theorem kept_copyResume {c : Nat} {p : CopyCmd → Bool} (h : Kept s t) : Kept s (copyResume t c p) := by
  unfold copyResume
  refine kept_foldl h fun _ _ h1 => ?_
  split
  · exact kept_ite (kept_putCmd h1) (kept_copyRun (kept_putCmd h1))
  · exact h1

theorem kept_copyRetry {c : Nat} (h : Kept s t) : Kept s (copyRetry t c) := kept_copyResume h

theorem kept_copyGo {x : Ctx} {t' : Nat} {a : CopyArgs} (h : Kept s t) : Kept s (copyGo t x t' a) :=
  kept_copyRun (kept_goOn (kept_frame h) (coreKept_frame (coreKept_core h)))

theorem goes_copyOp {i : Instr} {op : Nat} {f : F3} {m : XM} {ext : Bool} (h : Kept s t) (hc : CanIssue t) :
    Goes s (copyOp i op f m ext t) := by
  unfold copyOp
  refine goes_issue h hc fun _ h2 => ?_
  dsimp only
  split
  · exact planKept_mk (kept_goOn h h2)
  · exact planKept_mk (kept_externally h (kept_copyGo h))

theorem goes_execCpcancel {f : F3} {m : XM} (h : Kept s t) (hc : CanIssue t) : Goes s (execCpcancel f m t) :=
  goes_issue h hc fun _ h2 => planKept_mk (kept_ite (kept_goOn h h2) (kept_copyResume (kept_goOn h (coreKept_frame h2))))

theorem kept_copyEnd {c : Nat} {q : CopyCmd} (h : Kept s t) : Kept s (copyEnd t c q) :=
  kept_copyRetry (kept_updWarp (kept_updCore (kept_ite h (kept_noteSample h)) fun _ h1 => coreKept_frame h1))

theorem goes_execCopyCommandComplete {core cmd : Nat} (h : Kept s t) : Goes s (execCopyCommandComplete core cmd t) := by
  unfold execCopyCommandComplete
  split
  · exact goes_next h
  · exact goes_ite (goes_next h) (goes_ite (goes_next (kept_copyEnd h)) (goes_next (kept_copyRetry h)))

/-! ### Serving requests -/

theorem kept_joinWaiting {k : Nat} {r : Req} (h : Kept s t) : Kept s (joinWaiting t k r) := by
  unfold joinWaiting
  split
  · exact kept_setWaiting h
  · exact h
  · exact h
  · exact h

theorem kept_serveDone {k home : Nat} {r : Req} {a : Answer} {a' : ServeEnd} (h : Kept s t) :
    Kept s (serveDone t k home r a a') := by
  unfold serveDone
  split
  · exact kept_afterQueue (kept_sendBack h)
  · exact kept_frame (kept_sendPart h)
  · exact kept_afterQueue (kept_joinWaiting (kept_sendPart h))
  · exact kept_badReplay h

theorem fstKept_queueLane {k home : Nat} {r : Req} {o : LaneOp} (h : Kept s t) : FstKept s (queueLane t k home r o) := by
  unfold queueLane
  split
  · exact fstKept_mk (kept_afterQueue (FstKept.of_eq (fstKept_homeLane h) ‹_›))
  · exact fstKept_homeLane h

theorem kept_serveHome {r : Req} {pa : Nat} (h : Kept s t) : Kept s (serveHome t r pa) := by
  unfold serveHome
  dsimp only
  split
  · exact kept_sendBack (kept_resetShead (kept_takeNet h))
  · exact kept_serveDone (fstKept_serveGo (kept_takeNet h) fun _ _ h1 => fstKept_queueLane h1)

theorem kept_peerFail {r : Req} (h : Kept s t) : Kept s (peerFail t r) := kept_sendBack h

theorem kept_answerFree {r : Req} (h : Kept s t) : Kept s (answerFree t r) := by
  unfold answerFree
  split
  · exact kept_peerFail (FstKept.of_eq (fstKept_takeFault h) ‹_›)
  · exact kept_sendBack
      (fstKept_foldl (fstKept_mk (FstKept.of_eq (fstKept_takeFault h) ‹_›)) fun _ _ h2 => fstKept_mk
        (fstKept_takeFreeBytes h2))

theorem fstKept_peerLane {k0 k : Nat} {x : Export} {r : Req} {o : LaneOp} (h : Kept s t) :
    FstKept s (peerLane k0 k x r t o) := by
  unfold peerLane
  dsimp only
  split
  · split
    · exact fstKept_mk (FstKept.of_eq (fstKept_plainLane (FstKept.of_eq (fstKept_peerPlace h) ‹_›)) ‹_›)
    · exact fstKept_plainLane (FstKept.of_eq (fstKept_peerPlace h) ‹_›)
  · split
    · exact fstKept_mk (FstKept.of_eq (fstKept_plainLane (FstKept.of_eq (fstKept_peerPlace h) ‹_›)) ‹_›)
    · exact fstKept_plainLane (FstKept.of_eq (fstKept_peerPlace h) ‹_›)
  · exact fstKept_mk (FstKept.of_eq (fstKept_peerPlace h) ‹_›)
  · exact fstKept_mk (FstKept.of_eq (fstKept_peerPlace h) ‹_›)

theorem kept_peerWait {k : Nat} {x : Export} {r : Req} {rest : List LaneOp} (h : Kept s t) :
    Kept s (peerWait t k x r rest) := kept_frame h

theorem kept_serveExport {r : Req} {d k : Nat} {w : Window} (h : Kept s t) : Kept s (serveExport t r d k w) := by
  unfold serveExport
  dsimp only
  split
  · exact kept_peerFail (kept_postFault (kept_takeNet h))
  · refine kept_ite (kept_peerWait h) ?_
    split
    · exact kept_sendBack (kept_takeNet (fstKept_serveGo h fun _ _ h2 => fstKept_peerLane h2))
    · exact kept_peerWait (kept_sendPart (fstKept_serveGo h fun _ _ h2 => fstKept_peerLane h2))
    · exact kept_peerWait (kept_sendPart (fstKept_serveGo h fun _ _ h2 => fstKept_peerLane h2))
    · exact kept_badReplay (kept_takeNet (fstKept_serveGo h fun _ _ h2 => fstKept_peerLane h2))

theorem kept_servePeer {r : Req} {d : Nat} {w : Window} (h : Kept s t) : Kept s (servePeer t r d w) := by
  unfold servePeer
  split
  · exact kept_serveExport h
  · exact kept_peerFail (kept_postFault (kept_takeNet h))
  · exact kept_answerFree (kept_frame (kept_takeNet h))

theorem goes_execHomeSliceServe {req : Nat} (h : Kept s t) : Goes s (execHomeSliceServe req t) := by
  unfold execHomeSliceServe
  split
  · exact goes_next h
  · split
    · exact goes_next h
    · exact goes_next (kept_serveHome h)
    · exact goes_next (kept_servePeer h)
    · exact goes_next h

theorem fstKept_sliceLane {r : Req} {c : Nat} {o : LaneOp} (h : Kept s t) : FstKept s (sliceLane r c t o) := by
  unfold sliceLane
  dsimp only
  split
  · exact fstKept_mk h
  · exact fstKept_ite (fstKept_mk h) (fstKept_ite (fstKept_ite (fstKept_mk h) (fstKept_mk h)) (fstKept_plainLane h))

theorem goes_execRemoteWindowAccess {req : Nat} (h : Kept s t) : Goes s (execRemoteWindowAccess req t) := by
  unfold execRemoteWindowAccess
  split
  · exact goes_next h
  · split
    · exact goes_next h
    · refine goes_ite (goes_next h) (goes_next ?_)
      split
      · exact kept_badReplay (fstKept_serveGo (kept_takeNet h) fun _ _ h5 => fstKept_sliceLane h5)
      · exact kept_sendBack (fstKept_serveGo (kept_takeNet h) fun _ _ h4 => fstKept_sliceLane h4)
    · exact goes_next h

theorem kept_ringPut {g n : Nat} {c : Chan} {v : Nat} (h : Kept s t) : Kept s (ringPut t g n c v) := by
  unfold ringPut
  exact kept_updChan (kept_wgWrite h)

theorem ringKept_ringDeliver {core off v : Nat} {ok : Wg → Bool} (h : Kept s t) :
    RingKept s (ringDeliver t core off v ok) := by
  unfold ringDeliver
  split
  · exact trivial
  · exact ringKept_ite trivial (ringKept_put (kept_ringPut h))

theorem kept_messageEnd {r : Req} {a : RingAns} (h : Kept s t) (ha : RingKept s a) : Kept s (messageEnd t r a) := by
  unfold messageEnd
  split
  · exact kept_sendBack (kept_takeNet ha)
  · exact h
  · exact kept_sendBack (kept_takeNet h)

theorem ringKept_exportRing {k e : Nat} {key : BitVec 16} {off v : Nat} (h : Kept s t) :
    RingKept s (exportRing t k e key off v) := by
  unfold exportRing
  refine ringKept_ite trivial ?_
  split
  · split
    · exact ringKept_ringDeliver h
    · exact trivial
  · exact trivial
  · exact trivial
  · exact trivial
  · exact trivial

theorem kept_messageRecord {d k : Nat} {w : Window} {off : Nat} (h : Kept s t) : Kept s (messageRecord t d k w off) := by
  unfold messageRecord
  exact kept_postFault h

theorem kept_sendWindow {r : Req} {d : Nat} {w : Window} {off va v : Nat} (h : Kept s t) :
    Kept s (sendWindow t r d w off va v) := by
  unfold sendWindow
  split
  · refine kept_ite h ?_
    split
    · exact kept_messageEnd (kept_messageRecord h) trivial
    · exact kept_messageEnd h (ringKept_exportRing h)
  · split
    · exact kept_messageEnd (FstKept.of_eq (fstKept_takeFault (kept_frame h)) ‹_›) trivial
    · exact kept_sendBack (kept_takeNet (FstKept.of_eq (fstKept_takeFault (kept_frame h)) ‹_›))
  · exact kept_messageEnd (kept_postFault h) trivial

theorem goes_execChannelDelivery {req : Nat} (h : Kept s t) : Goes s (execChannelDelivery req t) := by
  unfold execChannelDelivery
  split
  · exact goes_next h
  · split
    · exact goes_next (kept_messageEnd h (ringKept_ringDeliver h))
    · exact goes_next (kept_sendWindow h)
    · exact goes_next (kept_messageEnd h trivial)
    · exact goes_next h

/-! ### Images -/

theorem coreKept_putArray {k : Core} {a : MArray} (hk : CoreKept s k) : CoreKept s (putArray k a) :=
  coreKept_frame hk

theorem kept_takeArea {k at_ n : Nat} (h : Kept s t) : Kept s (takeArea t k at_ n) := kept_updDev h

theorem kept_clearMatrix {c space : Nat} {holds : Bool} (h : Kept s t) : Kept s (clearMatrix t c space holds) := by
  unfold clearMatrix
  refine kept_updCore h fun _ h2 => coreKept_ite (coreKept_frame ?_) ?_
  · split
    · exact coreKept_ite (coreKept_frame h2) h2
    · exact h2
  · split
    · exact coreKept_ite (coreKept_frame h2) h2
    · exact h2

theorem coreKept_installRows {k : Core} {sl : Nat} {w : Warp} {rs : List (Nat × Nat × List Word)} (hk : CoreKept s k) :
    CoreKept s (installRows k sl w rs) := coreKept_foldl hk fun _ _ h1 => coreKept_frame h1

theorem coreKept_installGrans {k : Core} {base gen : Nat} {gs : FMap (List Byte)} (hk : CoreKept s k) :
    CoreKept s (installGrans k base gen gs) :=
  coreKept_foldl hk fun _ _ hk => coreKept_data hk (fun hm => memWf_memWriteBytes _ _ (memWfFrom_filter _ hm))

theorem kept_reserveAgain {c sl : Nat} {w : Warp} (h : Kept s t) : Kept s (reserveAgain t c sl w) :=
  kept_ite h (kept_updWarp (kept_reserveClones h))

theorem optFstKept_placeWarp {c g : Nat} {im : WgImage} {old : Nat} {w : Warp} (h : Kept s t) :
    OptFstKept s (placeWarp t c g im old w) := by
  unfold placeWarp
  dsimp only
  split
  · exact optFstKept_some
      (fstKept_mk (kept_settle
          (kept_reserveAgain (kept_updCore (fstKept_takeGens h) fun _ h3 => coreKept_installGrans
              (coreKept_installRows (coreKept_enterSections (coreKept_warps h3 (rising_fput (Nat.zero_le _)))))))))
  · exact optFstKept_none

theorem optFstKept_placeWarps {c g : Nat} {im : WgImage} {ws : List (Nat × Warp)} (h : Kept s t) :
    OptFstKept s (placeWarps c g im ws t) := by
  induction ws generalizing t with
  | nil => exact optFstKept_some h
  | cons p ws ih =>
    unfold placeWarps
    split
    · exact optFstKept_none
    · exact optFstKept_map (ih (OptFstKept.of_eq (optFstKept_placeWarp h) ‹_›)) fun _ h => h

theorem optFstKept_putImage {g c base : Nat} {im : WgImage} (h : Kept s t) : OptFstKept s (putImage t g c base im) := by
  refine optFstKept_ite optFstKept_none ?_
  refine optFstKept_map (optFstKept_placeWarps (kept_updWg (fstKept_takeGens h))) fun r hr => kept_addMove ?_
  split
  · exact kept_updCore hr fun _ hk => coreKept_installGrans hk
  · exact kept_updCore (kept_updCore hr fun _ hk => coreKept_installGrans hk) fun _ hk => coreKept_putArray hk

theorem kept_moveReqs {g : Nat} {m : List (Nat × Nat)} (h : Kept s t) : Kept s (moveReqs t g m) :=
  kept_updWg (kept_frame h)

theorem kept_putSeq {g c : Nat} {im : WgImage} {m : List (Nat × Nat)} (h : Kept s t) : Kept s (putSeq t g c im m) := by
  unfold putSeq
  split
  · exact h
  · exact kept_updSeq h

theorem kept_seqBack {cl : Nat} (h : Kept s t) : Kept s (seqBack t cl) := by
  unfold seqBack
  split
  · exact kept_ite (kept_seqFinish h) h
  · exact h

/-! ### Guarded and twin mode -/

theorem kept_squashAll {g : Nat} (h : Kept s t) : Kept s (squashAll t g) := by
  unfold squashAll
  split
  · exact h
  · exact kept_foldl h fun _ _ h2 => kept_squashAbove h2

theorem kept_endHolds {g : Nat} (h : Kept s t) : Kept s (endHolds t g) := by
  unfold endHolds
  split
  · exact h
  · exact kept_copyRetry (kept_updCore h fun _ h2 => coreKept_frame h2)

theorem kept_stopForCk {g : Nat} (h : Kept s t) : Kept s (stopForCk t g) :=
  kept_endHolds (kept_updWg (kept_squashAll h))

theorem coreKept_cleanRows {k : Core} {im : WgImage} (hk : CoreKept s k) : CoreKept s (cleanRows k im) :=
  coreKept_foldl hk fun _ _ h1 => coreKept_frame h1

theorem kept_captureCk {g : Nat} (h : Kept s t) : Kept s (captureCk t g) := by
  unfold captureCk
  split
  · exact h
  · exact kept_updWg (kept_updCore h fun _ h2 => coreKept_cleanRows h2)

theorem goes_execCheckpointTake {wg : Nat} (h : Kept s t) : Goes s (execCheckpointTake wg t) :=
  goes_next (kept_ite (kept_foldl
        (kept_ite (kept_foldl h fun _ _ h2 => kept_stopForCk h2) (kept_ite (kept_foldl h fun _ _ h2 => kept_endHolds h2) h))
        fun _ _ h2 => kept_captureCk h2)
      (kept_ite (kept_foldl h fun _ _ h2 => kept_stopForCk h2) (kept_ite (kept_foldl h fun _ _ h2 => kept_endHolds h2) h)))

theorem goes_execCheckpointTaken {wg : Nat} (h : Kept s t) : Goes s (execCheckpointTaken wg t) := by
  refine goes_ite (goes_next h) (goes_next (kept_frame (kept_foldl h fun _ _ hu => ?_)))
  split
  · exact hu
  · refine kept_updCore (kept_updWg (kept_ite hu (kept_noteSample hu))) fun _ hk => coreKept_warps hk (rising_map fun p => ?_)
    split <;> rfl

theorem goes_execCheckpointDeltaAck {wg : Nat} (h : Kept s t) : Goes s (execCheckpointDeltaAck wg t) :=
  goes_next (kept_updWg h)

theorem goes_execCheckpointIntervalExpiry {wg : Nat} (h : Kept s t) : Goes s (execCheckpointIntervalExpiry wg t) := by
  unfold execCheckpointIntervalExpiry
  split
  · exact goes_next h
  · exact goes_ite (goes_next h) (goes_next (kept_foldl h fun _ _ h3 => kept_updWg (kept_askCheckpoint h3)))

theorem kept_moveCk {x : Wg} {im : WgImage} (h : Kept s t) : Kept s (moveCk t x im) :=
  kept_ite (kept_addMove (kept_addCk h)) (kept_updDev (kept_addMove (kept_addCk (kept_addMove (kept_addCk h)))))

theorem kept_commitOne {g : Nat} (h : Kept s t) : Kept s (commitOne t g) := by
  unfold commitOne
  split
  · exact h
  · split
    · exact h
    · exact kept_ite (kept_freeWg (kept_updWg (kept_updDie (kept_moveCk h)))) (kept_updWg (kept_updDie (kept_moveCk h)))

theorem kept_commitReady {wg : Nat} (h : Kept s t) : Kept s (commitReady t wg) :=
  kept_foldl h fun _ _ h1 => kept_commitOne h1

theorem goes_execCheckpointCommit {wg : Nat} (h : Kept s t) : Goes s (execCheckpointCommit wg t) :=
  goes_next (kept_commitReady h)

theorem goes_execExternalOpIssue {wg : Nat} (h : Kept s t) : Goes s (execExternalOpIssue wg t) := by
  unfold execExternalOpIssue
  dsimp only
  split
  · exact goes_next h
  · exact goes_ite (goes_next (kept_updWg h)) (goes_next h)

theorem kept_forwardWarp {from_ to_ : Nat} (h : Kept s t) : Kept s (forwardWarp t from_ to_) := by
  unfold forwardWarp
  split
  · split
    · split
      · exact kept_updCore h fun _ h8 => coreKept_foldl (coreKept_warps h8 (rising_fput (Nat.zero_le _))) fun _ _ h9 =>
          coreKept_frame h9
      · exact h
    · exact h
  · exact h

theorem kept_extFinish {g sl : Nat} {wrote : Bool} (h : Kept s t) : Kept s (extFinish t g sl wrote) :=
  kept_updWg h

theorem kept_extSettle {g : Nat} (h : Kept s t) : Kept s (extSettle t g) := by
  unfold extSettle
  split
  · exact h
  · split
    · exact h
    · refine kept_ite h (kept_ite (kept_updWg h)
          (kept_ite h (kept_foldl (kept_foldl h fun _ _ h3 => kept_forwardWarp h3) fun _ _ h3 => ?_)))
      split
      · split
        · exact kept_extFinish h3
        · exact h3
      · exact h3

theorem kept_discardHeld {g : Nat} (h : Kept s t) : Kept s (discardHeld t g) := by
  unfold discardHeld
  split
  · exact h
  · exact kept_updCore (kept_updWg (kept_withdrawWq h)) fun _ h2 => coreKept_frame h2

theorem kept_stripWarps {g : Nat} (h : Kept s t) : Kept s (stripWarps t g) := by
  unfold stripWarps
  split
  · exact h
  · exact kept_updCore (kept_foldl h fun _ _ h2 => kept_dropWarp h2) fun _ h2 => coreKept_frame h2

theorem kept_clearSeq {cl : Nat} (h : Kept s t) : Kept s (clearSeq t cl) := kept_updSeq h

theorem kept_rollbackOne {g : Nat} (h : Kept s t) : Kept s (rollbackOne t g) := by
  unfold rollbackOne
  split
  · exact h
  · exact kept_updWg (kept_ite
        (kept_clearSeq (kept_stripWarps
            (kept_discardHeld (kept_ite (kept_logError (kept_updDie h))
                (kept_addMove (kept_addRestoring (kept_logError (kept_updDie h))))))))
        (kept_stripWarps (kept_discardHeld
            (kept_ite (kept_logError (kept_updDie h)) (kept_addMove (kept_addRestoring (kept_logError (kept_updDie h))))))))

theorem kept_sheadBack {x : Wg} (h : Kept s t) : Kept s (sheadBack t x) :=
  kept_foldl h fun _ _ h1 => kept_physWrite h1

theorem kept_finishEnded {g : Nat} {x : Wg} (h : Kept s t) : Kept s (finishEnded t g x) := by
  unfold finishEnded
  refine kept_updWg ?_
  split
  · exact kept_updCore (kept_addRestoring h) fun _ h2 => coreKept_putArray h2
  · exact kept_addRestoring h

theorem kept_finishOne {g : Nat} {x : Wg} (h : Kept s t) : Kept s (finishOne t g x) := by
  unfold finishOne
  dsimp only
  split
  · exact h
  · exact kept_updWg (kept_foldl
        (kept_updWg (kept_updCore
            (kept_addRestoring (kept_moveReqs
                (kept_sheadBack (kept_putSeq (OptFstKept.of_eq (optFstKept_putImage h) ‹_›))))) fun _ h2 =>
            coreKept_frame h2)) fun _ _ h2 => kept_wgWrite h2)

theorem kept_finishRollback {g : Nat} (h : Kept s t) : Kept s (finishRollback t g) := by
  unfold finishRollback
  split
  · exact h
  · exact kept_ite h (kept_ite (kept_poisonReplay h)
        (kept_updCore (kept_ite (kept_finishEnded h) (kept_finishOne h)) fun _ h2 => coreKept_frame h2))

theorem goes_execRollbackSheadRestore {wg : Nat} (h : Kept s t) : Goes s (execRollbackSheadRestore wg t) :=
  goes_next (kept_finishRollback h)

theorem kept_rollbackAll {gs : List Nat} (h : Kept s t) : Kept s (rollbackAll t gs) := by
  unfold rollbackAll
  split
  · exact h
  · exact kept_ite (kept_replayWg (kept_commitReady h))
      (kept_foldl (kept_foldl (kept_commitReady h) fun _ _ h1 => kept_rollbackOne h1) fun _ _ h1 => kept_finishRollback h1)

theorem goes_execCkpt {f : F3} (h : Kept s t) (hc : CanIssue t) : Goes s (execCkpt f t) :=
  goes_issue h hc fun _ h2 => planKept_mk (kept_ite (kept_goOn h h2) (kept_goOn (kept_askCheckpoint h) h2))

theorem goes_execRollbk {f : F3} (h : Kept s t) (hc : CanIssue t) : Goes s (execRollbk f t) :=
  goes_issue h hc fun _ h2 => planKept_mk
    (kept_ite (kept_goOn h h2)
      (kept_ite (kept_endHolds (kept_hold h))
        (kept_ite (kept_replayWg (kept_updCore h fun _ h3 => coreKept_countCore h3))
          (kept_rollbackAll (kept_updCore h fun _ h3 => coreKept_countCore h3)))))

theorem kept_strikeWg {d g : Nat} (h : Kept s t) : Kept s (strikeWg t d g) := by
  unfold strikeWg
  split
  · exact h
  · exact kept_ite (kept_startReplay h) (kept_ite (kept_rollbackAll h) h)

theorem kept_strikeAll {d : Nat} {gs done : List Nat} (h : Kept s t) : Kept s (strikeAll d gs done t) := by
  induction gs generalizing t done with
  | nil => exact h
  | cons g gs ih => exact kept_ite (ih h) (ih (kept_strikeWg h))

theorem goes_execStrikeReport {die : Nat} {pos : Nat × Nat} {residue : Bool} (h : Kept s t) :
    Goes s (execStrikeReport die pos residue t) :=
  goes_next (kept_foldl (kept_strikeAll (kept_foldl (kept_noteStrike h) fun _ _ h2 => kept_commitReady h2)) fun _ _ h2 =>
      kept_ite (kept_updCore h2 fun _ h3 => coreKept_frame h3) h2)

theorem kept_noteMismatch {g : Nat} (h : Kept s t) : Kept s (noteMismatch t g) := by
  unfold noteMismatch
  split
  · exact h
  · exact kept_logError (kept_updDie h)

theorem kept_disagree {gs : List Nat} (h : Kept s t) : Kept s (disagree t gs) :=
  kept_foldl (kept_rollbackAll (kept_foldl h fun _ _ h1 => kept_updWg h1)) fun _ _ h1 => kept_askCheckpoint h1

theorem kept_removeThird {gs : List Nat} (h : Kept s t) : Kept s (removeThird t gs) := by
  refine kept_wgs (kept_foldl h fun _ _ h => kept_tearWg h) (rising_map fun p => ?_)
  dsimp only
  split
  · split <;> rfl
  · rfl

theorem kept_adoptCk {winner loser : Nat} (h : Kept s t) : Kept s (adoptCk t winner loser) := by
  unfold adoptCk
  split
  · exact kept_ite (kept_poisonReplay h)
      (kept_finishRollback (kept_updWg (kept_rollbackOne (kept_updWg (kept_updDev (kept_moveCk h))))))
  · exact h

theorem kept_settleVote {win lose : List (List Nat)} {third : List Nat} (h : Kept s t) :
    Kept s (settleVote t win lose third) := by
  unfold settleVote
  dsimp only
  split
  · exact h
  · exact kept_removeThird
      (kept_foldl (kept_foldl
          (kept_foldl (kept_foldl h fun _ _ h2 => kept_updWg h2) fun _ _ h2 => kept_updWg h2) fun _ _ h2 =>
          kept_commitOne h2) fun _ _ h2 => kept_foldl h2 fun _ _ h3 => kept_adoptCk (kept_updWg h3))

theorem kept_poisonArea {g : Nat} (h : Kept s t) : Kept s (poisonArea t g) := by
  unfold poisonArea
  split
  · exact h
  · exact kept_updDev h

theorem goes_execTwinVote {wg : Nat} (h : Kept s t) : Goes s (execTwinVote wg t) := by
  unfold execTwinVote
  split
  · exact goes_next h
  · refine goes_ite (goes_next h) ?_
    split
    · exact goes_ite (goes_next h) (goes_next (kept_disagree (kept_noteMismatch h)))
    · exact goes_ite (goes_next (kept_settleVote h))
        (goes_ite (goes_next (kept_settleVote h))
          (goes_ite (goes_next (kept_settleVote h))
            (goes_next (kept_startReplay (kept_foldl (kept_noteMismatch h) fun _ _ h4 => kept_poisonArea h4)))))
    · exact goes_next h

theorem optKept_thirdOne {g c : Nat} {cg : Option Nat} (h : Kept s t) : OptKept s (thirdOne t g c cg) := by
  unfold thirdOne
  split
  · dsimp only
    split
    · refine optKept_ite optKept_none (optKept_map (optFstKept_putImage (kept_clearMatrix (kept_takeArea (kept_addCk ?_))))
        fun _ hp => kept_updWg (kept_putSeq hp))
      have hx (x : Option Nat) (y : Wg) (f : Wg → Wg) : Kept s (match x with
          | some h => (({ t with nextWg := t.nextWg + 1, wgs := fput t.wgs t.nextWg y } : State).updWg g f).updWg h f
          | none => ({ t with nextWg := t.nextWg + 1, wgs := fput t.wgs t.nextWg y } : State).updWg g f) := by
        split
        · exact kept_updWg (kept_updWg (kept_wgs h (rising_fput (Nat.zero_le _))))
        · exact kept_updWg (kept_wgs h (rising_fput (Nat.zero_le _)))
      exact kept_ite (kept_updSeq (hx _ _ _)) (hx _ _ _)
    · exact optKept_none
  · exact optKept_none

theorem optKept_thirdAll {core : Nat} {cg : Option Nat} {gs : List Nat} (h : Kept s t) : OptKept s (thirdAll core cg gs t) := by
  induction gs generalizing t with
  | nil => exact optKept_some h
  | cons g gs ih =>
    unfold thirdAll
    split
    · exact optKept_none
    · split
      · exact optKept_none
      · exact optKept_bind (optKept_thirdOne h) fun _ h => ih h

theorem goes_execThirdCopyStart {wg core : Nat} (h : Kept s t) : Goes s (execThirdCopyStart wg core t) := by
  unfold execThirdCopyStart
  split
  · exact goes_next h
  · refine goes_ite (goes_next h) ?_
    dsimp only
    split
    · exact goes_next (kept_replayWg h)
    · split
      · exact goes_next h
      · exact goes_next (kept_updDie (OptKept.of_eq (optKept_thirdAll h) ‹_›))

/-! ### Responses -/

theorem kept_updOwner {g slot : Nat} {f : Warp → Warp} (h : Kept s t) : Kept s (updOwner t g slot f) := by
  unfold updOwner
  split
  · exact h
  · split
    · exact kept_updWg h
    · exact kept_updWarp h

theorem kept_releaseTimeout {g : Nat} {x : Wg} {r : Req} (h : Kept s t) : Kept s (releaseTimeout t g x r) := by
  unfold releaseTimeout
  dsimp only
  split
  · exact kept_ite (kept_enterTrap (kept_updWg h)) (kept_updWg h)
  · exact kept_updWg h

theorem kept_releasesTimeout {g : Nat} (h : Kept s t) : Kept s (releasesTimeout t g) := by
  unfold releasesTimeout
  split
  · exact h
  · split
    · exact kept_ite (kept_releaseTimeout h) h
    · exact h

theorem goes_execBrineEntryLeave {wg : Nat} {q : BrineQ} (h : Kept s t) : Goes s (execBrineEntryLeave wg q t) := by
  unfold execBrineEntryLeave
  split
  · exact goes_next h
  · split
    · exact goes_next h
    · refine goes_ite (goes_next (kept_releasesTimeout h)) (goes_ite (goes_next h) ?_)
      dsimp only
      split
      · exact goes_next (kept_spawnPush (kept_updWg h))
      · exact goes_next (kept_sendReq (kept_updWg (kept_updWg h)))

theorem kept_endTrails {m : Msg} (h : Kept s t) : Kept s (endTrails t m) := by
  unfold endTrails
  split
  · refine kept_ite h (kept_updCore ?_ fun _ h2 => coreKept_frame h2)
    split
    · exact kept_noteSample h
    · exact h
  · exact h

theorem kept_ackReq {m : Msg} (h : Kept s t) : Kept s (ackReq t m) := by
  unfold ackReq
  refine kept_ite h ?_
  dsimp only
  split
  · exact kept_updCore (kept_endTrails (kept_updWg h)) fun _ h3 => coreKept_frame h3
  · exact kept_endTrails (kept_updWg h)

theorem kept_afterMsg {m : Msg} (h : Kept s t) : Kept s (afterMsg t m) := kept_forgetWgs (kept_extSettle h)

theorem optFstKept_takeMsg {i : Nat} {kind : MsgKind} (h : Kept s t) : OptFstKept s (takeMsg t i kind) := by
  unfold takeMsg
  split
  · exact optFstKept_ite (optFstKept_some (fstKept_mk (kept_frame h))) optFstKept_none
  · exact optFstKept_none

theorem goes_execWriteAck {msg : Nat} (h : Kept s t) : Goes s (execWriteAck msg t) := by
  unfold execWriteAck
  split
  · exact goes_next h
  · exact goes_next (kept_afterMsg (kept_ackReq (OptFstKept.of_eq (optFstKept_takeMsg h) ‹_›)))

theorem kept_completePend {c sl : Nat} {w : Warp} {p : Pending} (h : Kept s t) : Kept s (completePend t c sl w p) := by
  unfold completePend
  dsimp only
  split
  · exact kept_setWarp (kept_setCore h (coreKept_writeGroup (coreKept_core h)))
  · exact kept_setWarp h

theorem kept_noteOffsets {m : Msg} (h : Kept s t) : Kept s (noteOffsets t m) := by
  unfold noteOffsets
  split
  · exact h
  · split
    · exact h
    · split
      · dsimp only
        split
        · exact h
        · split
          · exact kept_updWarp (kept_updWg h)
          · exact kept_updWg h
      · exact h

theorem kept_updImage {g : Nat} {f : WgImage → WgImage} (h : Kept s t) : Kept s (updImage t g f) :=
  kept_updWg h

theorem kept_deliver {m : Msg} (h : Kept s t) : Kept s (deliver t m) := by
  unfold deliver
  split
  · exact h
  · dsimp only
    split
    · exact kept_updImage h
    · split
      · exact kept_updImage h
      · exact kept_ite (kept_completePend (kept_updImage h)) (kept_setWarp (kept_updImage h))

theorem kept_atomSample {m : Msg} (h : Kept s t) : Kept s (atomSample t m) := by
  unfold atomSample
  split
  · exact kept_ite (kept_noteSample h) h
  · exact h

theorem goes_execLoadResponse {msg : Nat} (h : Kept s t) : Goes s (execLoadResponse msg t) := by
  unfold execLoadResponse
  split
  · exact goes_next h
  · exact goes_next (kept_afterMsg
        (kept_ackReq (kept_deliver (kept_noteOffsets (kept_atomSample (OptFstKept.of_eq (optFstKept_takeMsg h) ‹_›))))))

theorem kept_failPend {c sl : Nat} {w : Warp} {p : Pending} {cause addr : Nat} (h : Kept s t) :
    Kept s (failPend t c sl w p cause addr) :=
  kept_ite (kept_settle (kept_setWarp h)) (kept_enterTrap (kept_setWarp h))

theorem kept_deferError {g slot lane cause addr : Nat} (h : Kept s t) : Kept s (deferError t g slot lane cause addr) :=
  kept_updOwner h

theorem kept_copyWriteFail {g n status elem : Nat} (h : Kept s t) : Kept s (copyWriteFail t g n status elem) := by
  unfold copyWriteFail
  split
  · exact h
  · exact kept_updCore h fun _ h2 => coreKept_frame h2

theorem kept_failReq {m : Msg} (h : Kept s t) : Kept s (failReq t m) := by
  unfold failReq
  split
  · exact h
  · split
    · dsimp only
      split
      · exact kept_updImage h
      · split
        · exact kept_failPend (kept_updImage h)
        · exact kept_updImage h
    · exact kept_copyWriteFail h
    · refine kept_deferError ?_
      split
      · exact kept_updChan h
      · exact h

theorem goes_execErrorCompletion {msg : Nat} (h : Kept s t) : Goes s (execErrorCompletion msg t) := by
  unfold execErrorCompletion
  split
  · exact goes_next h
  · exact goes_next (kept_afterMsg (kept_ackReq (kept_failReq (OptFstKept.of_eq (optFstKept_takeMsg h) ‹_›))))

theorem kept_timeoutReq {r : Req} (h : Kept s t) : Kept s (timeoutReq t r) := by
  unfold timeoutReq
  split
  · exact h
  · dsimp only
    split
    · exact kept_failReq (kept_updWg h)
    · exact kept_endTrails (kept_updCore (kept_copyWriteFail (kept_updWg h)) fun _ h4 => coreKept_frame h4)
    · split
      · refine kept_foldl ?_ fun _ _ h5 => kept_deferError h5
        split
        · refine kept_updOwner ?_
          split
          · exact kept_updChan (kept_updWg h)
          · exact kept_updWg h
        · split
          · exact kept_updChan (kept_updWg h)
          · exact kept_updWg h
      · refine kept_releasesTimeout (kept_updWg ?_)
        split
        · refine kept_updOwner ?_
          split
          · exact kept_updChan (kept_updWg h)
          · exact kept_updWg h
        · split
          · exact kept_updChan (kept_updWg h)
          · exact kept_updWg h

theorem kept_messageAgain {id : Nat} (h : Kept s t) : Kept s (messageAgain t id) := kept_frame h

theorem kept_postTimeout {c launch space va acc : Nat} (h : Kept s t) : Kept s (postTimeout t c launch space va acc) :=
  kept_postFault h

theorem kept_timeoutSent {r : Req} (h : Kept s t) : Kept s (timeoutSent t r) :=
  kept_ite (kept_messageAgain h)
    (kept_ite h (kept_forgetWgs (kept_extSettle (kept_timeoutReq (kept_postTimeout (kept_frame (kept_takeNet h)))))))

theorem kept_timeoutCopy {c : Nat} {q : CopyCmd} (h : Kept s t) : Kept s (timeoutCopy t c q) := by
  unfold timeoutCopy
  split
  · split
    · exact h
    · exact kept_ite h (kept_putCmd (kept_postTimeout h))
  · exact h

theorem kept_timeoutArg {cl : Nat} {q : Sequencer} (h : Kept s t) : Kept s (timeoutArg t cl q) := by
  unfold timeoutArg
  split
  · refine kept_ite h ?_
    split
    · exact h
    · exact kept_seqFail (kept_postTimeout h)
  · exact h

theorem goes_execRequestTimeoutExpiry {req : Nat} (h : Kept s t) : Goes s (execRequestTimeoutExpiry req t) := by
  unfold execRequestTimeoutExpiry
  split
  · exact goes_next (kept_timeoutSent h)
  · split
    · exact goes_next (kept_timeoutCopy h)
    · split
      · exact goes_next (kept_timeoutArg h)
      · exact goes_next h

theorem kept_retirePush {k : Nat} {e : RetireEntry} (h : Kept s t) : Kept s (retirePush t k e) := by
  unfold retirePush
  exact kept_updDev (kept_physWrite h)

theorem goes_execRetireEntryAppend {req : Nat} (h : Kept s t) : Goes s (execRetireEntryAppend req t) := by
  unfold execRetireEntryAppend
  split
  · exact goes_next h
  · split
    · exact goes_next (kept_sendBack
          (fstKept_foldl (fstKept_mk (kept_takeNet h)) fun _ _ h5 => fstKept_mk (kept_retirePush h5)))
    · exact goes_next h

/-! ### Saving and restoring -/

theorem kept_extAgain {g : Nat} (h : Kept s t) : Kept s (extAgain t g) := kept_updWg h

theorem kept_withdrawPop {r : Req} (h : Kept s t) : Kept s (withdrawPop t r) := by
  unfold withdrawPop
  dsimp only
  split
  · exact h
  · split
    · exact kept_extAgain (kept_updWg h)
    · split
      · exact kept_extAgain (kept_updWg h)
      · exact kept_ite (kept_settle
            (kept_completePend (kept_ite (kept_updWg (kept_extAgain (kept_updWg h))) (kept_extAgain (kept_updWg h)))))
          (kept_settle (kept_setWarp (kept_ite (kept_updWg (kept_extAgain (kept_updWg h))) (kept_extAgain (kept_updWg h)))))

theorem kept_withdrawPush {r : Req} (h : Kept s t) : Kept s (withdrawPush t r) := by
  unfold withdrawPush
  split
  · exact h
  · refine kept_ite (kept_updWg h) ?_
    dsimp only
    split
    · exact kept_extAgain (kept_updWg h)
    · exact kept_ite (kept_settle (kept_setWarp (kept_extAgain (kept_updWg h)))) (kept_extAgain (kept_updWg h))

theorem kept_withdrawWaiting {g : Nat} (h : Kept s t) : Kept s (withdrawWaiting t g) := by
  unfold withdrawWaiting
  refine kept_foldl (kept_withdrawWq h) fun _ _ h1 => ?_
  split
  · exact kept_withdrawPop h1
  · exact kept_withdrawPush h1

theorem kept_withdrawRegacq {g : Nat} (h : Kept s t) : Kept s (withdrawRegacq t g) := by
  unfold withdrawRegacq
  split
  · exact h
  · refine kept_updCore h fun _ hk => coreKept_warps hk (rising_map fun p => ?_)
    split
    · split <;> rfl
    · rfl

theorem kept_preemptOne {g : Nat} (h : Kept s t) : Kept s (preemptOne t g) := by
  unfold preemptOne
  split
  · exact h
  · exact kept_ite (kept_endHolds
        (kept_updWg (kept_updDev (kept_withdrawRegacq (kept_withdrawWaiting (kept_squashAll h))))))
      (kept_updWg (kept_updDev (kept_withdrawRegacq (kept_withdrawWaiting (kept_squashAll h)))))

theorem goes_execPreempt {wg : Nat} (h : Kept s t) : Goes s (execPreempt wg t) := by
  unfold execPreempt
  dsimp only
  split
  · exact goes_next h
  · exact goes_ite (goes_next (kept_foldl h fun _ _ h3 => kept_preemptOne h3)) (goes_next h)

theorem kept_saveEnded {g : Nat} (h : Kept s t) : Kept s (saveEnded t g) := by
  unfold saveEnded
  split
  · exact kept_ite (kept_updWg h) h
  · exact h

theorem kept_saveOne {g : Nat} (h : Kept s t) : Kept s (saveOne t g) := by
  unfold saveOne
  split
  · exact h
  · exact kept_updWg (kept_addMove (kept_stripWarps (kept_updDie h)))

theorem kept_leaveCluster {g : Nat} (h : Kept s t) : Kept s (leaveCluster t g) := by
  unfold leaveCluster
  split
  · exact kept_ite (kept_releaseGroup h) h
  · exact h

theorem goes_execContextSave {wg : Nat} (h : Kept s t) : Goes s (execContextSave wg t) :=
  goes_ite (goes_next (kept_ite
        (kept_foldl (kept_foldl h fun _ _ h2 => kept_withdrawWaiting h2) fun _ _ h2 => kept_endHolds h2) h))
    (goes_next (kept_foldl
        (kept_foldl (kept_foldl
            (kept_ite (kept_foldl (kept_foldl h fun _ _ h2 => kept_withdrawWaiting h2) fun _ _ h2 => kept_endHolds h2) h)
            fun _ _ h2 => kept_saveEnded h2) fun _ _ h2 => kept_saveOne h2) fun _ _ h2 => kept_leaveCluster h2))

theorem kept_sendAgain {g : Nat} {m : List (Nat × Nat)} (h : Kept s t) : Kept s (sendAgain t g m) := by
  unfold sendAgain
  split
  · exact kept_frame (kept_updWg h)
  · exact h

theorem kept_restoreEnded {cg cl space : Nat} (h : Kept s t) : Kept s (restoreEnded t cg cl space) := by
  unfold restoreEnded
  refine kept_foldl h fun _ _ h1 => ?_
  split
  · refine kept_updWg (kept_updSeq ?_)
    split
    · exact kept_updCore (kept_clearMatrix h1) fun _ h5 => coreKept_putArray h5
    · exact h1
  · exact h1

theorem optKept_restoreOne {wg core : Nat} (h : Kept s t) : OptKept s (restoreOne t wg core) := by
  unfold restoreOne
  split
  · exact optKept_none
  · split
    · refine optKept_ite optKept_none ?_
      split
      · exact optKept_none
      · dsimp only
        split
        · exact optKept_none
        · refine optKept_some ?_
          split
          · exact kept_seqBack (kept_restoreEnded
                (kept_updWg (kept_updDev
                    (kept_updDie (kept_addMove
                        (kept_sendAgain (kept_moveReqs
                            (kept_putSeq (OptFstKept.of_eq
                                (optFstKept_putImage (kept_updWg
                                    (kept_ite (kept_updSeq (kept_clearMatrix h)) (kept_clearMatrix h)))) ‹_›)))))))))
          · exact kept_updWg (kept_updDev
                (kept_updDie (kept_addMove
                    (kept_sendAgain (kept_moveReqs
                        (kept_putSeq (OptFstKept.of_eq
                            (optFstKept_putImage (kept_updWg
                                (kept_ite (kept_updSeq (kept_clearMatrix h)) (kept_clearMatrix h)))) ‹_›)))))))
    · exact optKept_none

theorem optKept_restoreMembers {cl : Nat} {gs : List Nat} (h : Kept s t) : OptKept s (restoreMembers cl gs t) := by
  induction gs generalizing t with
  | nil => exact optKept_some h
  | cons g gs ih =>
    unfold restoreMembers
    split
    · exact ih h
    · refine optKept_ite (ih h) (optKept_bind ?_ fun _ h => ih h)
      intro u hu
      obtain ⟨c, -, hc⟩ := Option.bind_eq_some_iff.mp hu
      exact optKept_restoreOne h u hc

theorem optKept_restoreTeam {g c : Nat} (h : Kept s t) : OptKept s (restoreTeam t g c) :=
  optKept_bind (optKept_restoreOne h) fun _ h => optKept_restoreMembers h

theorem optKept_restoreRest {gs : List Nat} (h : Kept s t) : OptKept s (restoreRest gs t) := by
  induction gs generalizing t with
  | nil => exact optKept_some h
  | cons g gs ih =>
    unfold restoreRest
    split
    · exact ih h
    · refine optKept_ite (ih h) (optKept_bind ?_ fun _ h => ih h)
      intro u hu
      obtain ⟨c, -, hc⟩ := List.exists_of_findSome?_eq_some hu
      exact optKept_restoreTeam h u hc

theorem goes_execContextRestore {wg core : Nat} (h : Kept s t) : Goes s (execContextRestore wg core t) := by
  unfold execContextRestore
  split
  · exact goes_next h
  · dsimp only
    split
    · exact goes_next (OptKept.of_eq (optKept_bind (optKept_restoreTeam h) fun _ h => optKept_restoreRest h) ‹_›)
    · exact goes_next h

/-! ### Parked lanes -/

theorem kept_walksDone {c slot pc : Nat} (h : Kept s t) : Kept s (walksDone t c slot pc) :=
  kept_ite h (kept_updWarp h)

theorem goes_execTranslationWalkDone {core walk : Nat} (h : Kept s t) : Goes s (execTranslationWalkDone core walk t) := by
  unfold execTranslationWalkDone
  split
  · exact goes_next h
  · refine goes_next (kept_walksDone ?_)
    split
    · exact kept_updCore (kept_updCore h fun _ h4 => coreKept_frame h4) fun _ h4 => coreKept_frame h4
    · exact kept_updWarp (kept_postFault (kept_updCore h fun _ h4 => coreKept_frame h4))

theorem kept_rejoin {c slot : Nat} {w : Warp} {p : Park} (h : Kept s t) : Kept s (rejoin t c slot w p) :=
  kept_settle (kept_setWarp h)

theorem goes_execOverflowRejoin {core slot : Nat} (h : Kept s t) : Goes s (execOverflowRejoin core slot t) := by
  unfold execOverflowRejoin
  split
  · exact goes_next h
  · split
    · exact goes_next (kept_ite (kept_rejoin h) h)
    · exact goes_next h

theorem goes_execFaultRejoin {core slot : Nat} (h : Kept s t) : Goes s (execFaultRejoin core slot t) := by
  unfold execFaultRejoin
  split
  · exact goes_next h
  · split
    · exact goes_next h
    · exact goes_ite (goes_next h)
        (goes_ite (goes_ite (goes_next (kept_setWarp h)) (goes_next (kept_enterTrap h))) (goes_next (kept_rejoin h)))

theorem kept_resolveParks {k va space : Nat} {ok : Bool} (h : Kept s t) : Kept s (resolveParks t k va space ok) := by
  have hc : Kept s { t with cores := (resolveParks t k va space ok).cores } := by
    refine kept_cores h fun p hp => ?_
    dsimp only
    split
    · exact coreKept_warps hp (rising_map fun _ => rfl)
    · exact hp
  refine kept_wgs hc (rising_map fun p => ?_)
  dsimp only
  split <;> rfl

theorem kept_resolveCopies {k va space : Nat} {ok : Bool} (h : Kept s t) : Kept s (resolveCopies t k va space ok) :=
  kept_foldl h fun _ _ h1 => kept_ite (kept_copyResume h1) (kept_updCore h1 fun _ h2 => coreKept_frame h2)

theorem kept_resolveSeqs {k va space : Nat} {ok : Bool} (h : Kept s t) : Kept s (resolveSeqs t k va space ok) := by
  unfold resolveSeqs
  refine kept_foldl h fun _ _ h1 => ?_
  dsimp only
  split
  · exact kept_ite (kept_seqFinish (kept_updSeq h1)) h1
  · exact h1

theorem kept_resolve {k va space : Nat} {ok : Bool} (h : Kept s t) : Kept s (resolve t k va space ok) := by
  unfold resolve
  exact kept_updDev (kept_resolveSeqs (kept_resolveCopies (kept_resolveParks h)))

theorem kept_askInval {k : Nat} {q : Inval} (h : Kept s t) : Kept s (askInval t k q) :=
  kept_ite (kept_updDev h) h

theorem goes_execInvalComplete {dev : Nat} (h : Kept s t) : Goes s (execInvalComplete dev t) := by
  unfold execInvalComplete
  split
  · exact goes_next h
  · exact goes_next (kept_updDev (kept_dropTlbs h))

theorem kept_physCopy {k from_ to_ n : Nat} (h : Kept s t) : Kept s (physCopy t k from_ to_ n) := by
  unfold physCopy
  split
  · refine kept_mem (kept_physZero h) (fun hm => ?_)
    exact memWf_foldl hm fun _ _ hm => memWf_memWrite _ _ hm
  · exact h

theorem kept_poolReturn {k q a b : Nat} (h : Kept s t) : Kept s (poolReturn t k q a b) := kept_updDev h

theorem kept_resumeAll {k space va size : Nat} {at_ : CopyWait → Option Nat} (h : Kept s t) :
    Kept s (resumeAll t k space va size at_) := kept_foldl h fun _ _ h1 => kept_copyResume h1

theorem goes_execPageInComplete {dev page : Nat} (h : Kept s t) : Goes s (execPageInComplete dev page t) := by
  unfold execPageInComplete
  split
  · exact goes_next h
  · split
    · refine goes_next ?_
      split
      · exact kept_updDev (PoolKept.of_item (poolKept_poolPop h) ‹_›)
      · exact h
      · exact PoolKept.of_refused (poolKept_poolPop h) ‹_›
    · refine goes_ite (goes_next h) (goes_next (kept_resumeAll ?_))
      split
      · exact kept_retirePush (FstKept.of_eq (fstKept_casPte (kept_updDev (kept_physCopy h))) ‹_›)
      · exact kept_poolReturn (FstKept.of_eq (fstKept_casPte (kept_updDev (kept_physCopy h))) ‹_›)

theorem kept_backAside {k : Nat} (h : Kept s t) : Kept s (backAside t k) := kept_frame h

theorem kept_asideRelease {k space va : Nat} (h : Kept s t) : Kept s (asideRelease t k space va) :=
  kept_backAside (kept_resumeAll (kept_resolveParks h))

theorem kept_asideDrop {k page : Nat} {x : Aside} (h : Kept s t) : Kept s (asideDrop t k page x) := by
  unfold asideDrop
  refine kept_asideRelease ?_
  split
  · exact kept_poolReturn (kept_updDev h)
  · exact kept_updDev h

theorem kept_asideItem {k page : Nat} {x : Aside} {p : Double} {at_ : Nat} (h : Kept s t) :
    Kept s (asideItem t k page x p at_) := by
  unfold asideItem
  split
  · exact kept_updDev (PoolKept.of_item (poolKept_poolPop h) ‹_›)
  · exact kept_postFault h
  · exact PoolKept.of_refused (poolKept_poolPop h) ‹_›

theorem goes_execCopyAsideComplete {dev page : Nat} (h : Kept s t) : Goes s (execCopyAsideComplete dev page t) := by
  unfold execCopyAsideComplete
  split
  · exact goes_next h
  · split
    · exact goes_next (kept_asideDrop h)
    · refine goes_ite (goes_next (kept_asideDrop h)) ?_
      split
      · exact goes_next (kept_asideItem h)
      · refine goes_ite (goes_next (kept_updDev h)) ?_
        split
        · exact goes_next (kept_asideRelease
              (kept_updLaunch (kept_physCopy (kept_updDev (FstKept.of_eq (fstKept_casPte h) ‹_›)))))
        · exact goes_next (FstKept.of_eq (fstKept_casPte h) ‹_›)

theorem goes_execPoolReturnPush {dev : Nat} (h : Kept s t) : Goes s (execPoolReturnPush dev t) := by
  unfold execPoolReturnPush
  split
  · exact goes_next h
  · split
    · exact goes_next (kept_updDev (FstKept.of_eq (fstKept_poolPush h) ‹_›))
    · exact goes_next (FstKept.of_eq (fstKept_poolPush h) ‹_›)

/-! ### Grace periods -/

theorem kept_updVesper {n : VNode} {f : Vesper → Vesper} (h : Kept s t) : Kept s (updVesper t n f) := by
  unfold updVesper
  split
  · exact kept_updDie h
  · exact kept_updDev h
  · exact kept_updDev h

theorem kept_podSend {k n : Nat} {m : PodMsg} (h : Kept s t) : Kept s (podSend t k n m) := by
  unfold podSend
  refine kept_ite h ?_
  split
  · exact kept_frame (kept_updDev h)
  · exact h

theorem kept_podHear {k n : Nat} {m : PodMsg} (h : Kept s t) : Kept s (podHear t k n m) := by
  unfold podHear
  refine kept_ite (kept_updDev h) (kept_ite ?_ (kept_updDev ?_))
  · split
    · exact kept_updDev h
    · exact h
  · split
    · exact kept_updDev h
    · exact h

theorem kept_podSay {r : Nat} {m : PodMsg} (h : Kept s t) : Kept s (podSay t r m) :=
  kept_foldl h fun _ _ h1 => kept_podSend h1

theorem kept_podFresh {k : Nat} (h : Kept s t) : Kept s (podFresh t k) := kept_updDev h

theorem kept_sendFlip {ks : List Nat} {f : Nat} (h : Kept s t) : Kept s (sendFlip t ks f) :=
  kept_foldl h fun _ _ h1 => kept_foldl (kept_updVesper h1) fun _ _ h2 => kept_updDie h2

theorem kept_ackFar {node : VNode} (h : Kept s t) : Kept s (ackFar t node) := by
  unfold ackFar
  split
  · split
    · exact kept_ite (kept_podSend h) h
    · exact h
  · exact h

theorem kept_memberStart {k root : Nat} (h : Kept s t) : Kept s (memberStart t k root) := by
  unfold memberStart
  dsimp only
  split
  · exact kept_sendFlip (kept_podFresh h)
  · exact kept_ite (kept_ackFar h) (kept_ite (kept_podSend h) h)

theorem kept_outFar {k : Nat} (h : Kept s t) : Kept s (outFar t k) := by
  unfold outFar
  refine kept_ite h (kept_foldl h fun _ _ h1 => ?_)
  split
  · exact kept_podSend h1
  · exact h1

theorem kept_flipFar {n : VNode} {f : Nat} (h : Kept s t) : Kept s (flipFar t n f) := by
  unfold flipFar
  split
  · exact kept_podSay h
  · exact h

theorem goes_execGracePeriodStart {dev : Nat} (h : Kept s t) : Goes s (execGracePeriodStart dev t) := by
  unfold execGracePeriodStart
  dsimp only
  split
  · refine goes_next ?_
    split
    · exact kept_memberStart (kept_outFar h)
    · exact kept_outFar h
  · exact goes_ite (goes_next (kept_flipFar (kept_outFar h)))
      (goes_ite (goes_next (kept_flipFar
            (kept_sendFlip (kept_updVesper (kept_ite (kept_podFresh (kept_outFar h)) (kept_outFar h))))))
        (goes_next (kept_outFar h)))

theorem goes_execFlipAdopt {core : Nat} (h : Kept s t) : Goes s (execFlipAdopt core t) :=
  goes_ite (goes_next h) (goes_next (kept_updCore h fun _ h2 => coreKept_frame h2))

theorem goes_execFlipAck {node : VNode} {child : Nat} (h : Kept s t) : Goes s (execFlipAck node child t) :=
  goes_ite (goes_next (kept_ackFar (kept_updVesper h))) (goes_next h)

theorem kept_pollFar {node : VNode} (h : Kept s t) : Kept s (pollFar t node) := by
  unfold pollFar
  split
  · exact kept_podSay h
  · exact h

theorem kept_drainFar {node : VNode} (h : Kept s t) : Kept s (drainFar t node) := by
  unfold drainFar
  split
  · split
    · exact kept_podSend h
    · exact h
  · exact h

theorem goes_execDrainPoll {node : VNode} (h : Kept s t) : Goes s (execDrainPoll node t) := by
  unfold execDrainPoll
  refine goes_ite (goes_next h) (goes_ite (goes_next (kept_pollFar (kept_updVesper h))) ?_)
  split
  · exact goes_next (kept_drainFar (kept_pollFar (kept_updVesper h)))
  · exact goes_ite (goes_next (kept_pollFar (kept_updVesper h)))
      (goes_next (kept_updVesper (kept_updVesper (kept_pollFar (kept_updVesper h)))))

theorem kept_setComplete {ks : List Nat} {c : Nat} (h : Kept s t) : Kept s (setComplete t ks c) :=
  kept_foldl h fun _ _ h1 => kept_foldl
    (kept_foldl (kept_updVesper h1) fun _ _ h2 => kept_updVesper (kept_noteSample h2)) fun _ _ h2 =>
    kept_updCore h2 fun _ h3 => coreKept_frame h3

theorem kept_completeFar {n : VNode} {f : Nat} (h : Kept s t) : Kept s (completeFar t n f) := by
  unfold completeFar
  split
  · exact kept_foldl h fun _ _ h1 => kept_podSend h1
  · exact h

theorem kept_memberComplete {k root : Nat} (h : Kept s t) : Kept s (memberComplete t k root) :=
  kept_ite (kept_setComplete (kept_updDev h)) h

theorem goes_execGracePeriodComplete {dev : Nat} (h : Kept s t) : Goes s (execGracePeriodComplete dev t) := by
  unfold execGracePeriodComplete
  refine goes_ite (goes_next ?_)
    (goes_ite (goes_next (kept_completeFar h))
      (goes_ite (goes_next h) (goes_next (kept_completeFar (kept_setComplete (kept_updVesper h))))))
  split
  · exact kept_memberComplete h
  · exact h

theorem kept_retireNext {k : Nat} (h : Kept s t) : Kept s (retireNext t k) := kept_updDev h

theorem kept_retireNotify {k sub : Nat} {e : RetireEntry} (h : Kept s t) : Kept s (retireNotify t k sub e) :=
  kept_retireNext (kept_postFault h)

theorem kept_retireQueueItem {k : Nat} {e : RetireEntry} (h : Kept s t) : Kept s (retireQueueItem t k e) := by
  unfold retireQueueItem
  refine kept_ite (kept_retireNotify h) ?_
  dsimp only
  split
  · exact kept_retireNext
      (kept_queueSettle (kept_physWrite (kept_physWrite (kept_physWrite (FstKept.of_eq (fstKept_awayXlate h) ‹_›)))))
  · exact FstKept.of_eq (fstKept_awayXlate h) ‹_›
  · exact kept_retireNotify (FstKept.of_eq (fstKept_awayXlate h) ‹_›)

theorem goes_execRetireAction {dev : Nat} (h : Kept s t) : Goes s (execRetireAction dev t) := by
  unfold execRetireAction
  split
  · exact goes_next h
  · refine goes_ite (goes_next h)
      (goes_ite (goes_next (kept_retireQueueItem h)) (goes_ite ?_ (goes_next (kept_retireNotify h))))
    split
    · exact goes_next (kept_retireNext (kept_physWrite (FstKept.of_eq (fstKept_awayXlate h) ‹_›)))
    · exact goes_next (FstKept.of_eq (fstKept_awayXlate h) ‹_›)
    · exact goes_next (kept_retireNotify (FstKept.of_eq (fstKept_awayXlate h) ‹_›))

/-! ### Upkeep -/

theorem goes_execAgedEntryToHead {core slot entry : Nat} (h : Kept s t) :
    Goes s (execAgedEntryToHead core slot entry t) := by
  unfold execAgedEntryToHead
  split
  · exact goes_next h
  · split
    · exact goes_next h
    · exact goes_ite (goes_next h) (goes_next (kept_setWarp h))

theorem goes_execSleepExpiry {core slot : Nat} (h : Kept s t) : Goes s (execSleepExpiry core slot t) := by
  unfold execSleepExpiry
  split
  · exact goes_next h
  · split
    · exact goes_next (kept_ite (kept_setWarp h) h)
    · exact goes_next h

theorem goes_execRegacqGrant {core quad : Nat} (h : Kept s t) : Goes s (execRegacqGrant core quad t) := by
  unfold execRegacqGrant
  dsimp only
  split
  · split
    · exact goes_next h
    · exact goes_ite (goes_next h)
        (goes_next (kept_settle
            (kept_setCore h (coreKept_warps (coreKept_takeGen (coreKept_core h)) (rising_fput (Nat.zero_le _))))))
  · exact goes_next h

theorem goes_execPoolWarpForm {core bin : Nat} (h : Kept s t) : Goes s (execPoolWarpForm core bin t) := by
  unfold execPoolWarpForm
  dsimp only
  split
  · exact goes_next h
  · split
    · exact goes_next h
    · exact goes_ite (goes_next h)
        (goes_next (kept_binRefill
            (kept_settle (kept_setCore h
                (coreKept_writeV (coreKept_writeV
                    (coreKept_writeV (coreKept_writeV
                        (coreKept_warps (coreKept_takeGen (coreKept_core h)) (rising_fput (Nat.zero_le _)))))))))))

theorem coreKept_sweepOne {k : Core} {n : Nat} (hk : CoreKept s k) : CoreKept s (sweepOne k n) :=
  coreKept_ite (coreKept_ite (coreKept_frame hk) hk) (coreKept_frame hk)

theorem coreKept_sweepCycle {k : Core} (hk : CoreKept s k) : CoreKept s (sweepCycle k) :=
  coreKept_ite (coreKept_frame (coreKept_sweepOne (coreKept_sweepOne hk)))
    (coreKept_frame (coreKept_sweepOne (coreKept_sweepOne hk)))

theorem coreKept_retagGrans {k : Core} {base n old new : Nat} (hk : CoreKept s k) :
    CoreKept s (retagGrans k base n old new) := coreKept_frame hk

theorem coreKept_retagRows {k : Core} {quad : Nat} {blocks : List Nat} {old new : Nat} (hk : CoreKept s k) :
    CoreKept s (retagRows k quad blocks old new) := coreKept_frame hk

theorem kept_renewTo {core old new : Nat} {a : AllocId} (h : Kept s t) : Kept s (renewTo t core old new a) := by
  unfold renewTo
  split
  · split
    · exact h
    · exact kept_updWg (kept_updCore h fun _ h2 => coreKept_retagGrans h2)
  · split
    · exact h
    · exact kept_setWarp (kept_updCore h fun _ h2 => coreKept_retagRows h2)
  · split
    · exact h
    · exact kept_setWarp (kept_updCore h fun _ h2 => coreKept_retagRows h2)
  · split
    · exact h
    · exact kept_setWarp (kept_updCore h fun _ h2 => coreKept_retagGrans h2)

theorem goes_execGenerationRenewal {core : Nat} {a : AllocId} (h : Kept s t) : Goes s (execGenerationRenewal core a t) := by
  unfold execGenerationRenewal
  split
  · exact goes_next h
  · exact goes_ite (goes_next h) (goes_next (kept_renewTo (kept_setCore h (coreKept_takeGen (coreKept_core h)))))

theorem kept_dbgWarp {core slot : Nat} {f : Warp → Warp} (h : Kept s t) : Kept s (dbgWarp t core slot f) :=
  kept_ite h (kept_updWarp h)

theorem goes_execDebugRead {core : Nat} {u : DbgUnit} {dst : Nat} (h : Kept s t) : Goes s (execDebugRead core u dst t) := by
  refine goes_ite (goes_next h) ?_
  split
  · exact goes_next (kept_frame h)
  · exact goes_next (kept_cmem h (memWf_memWriteBytes _ _))

theorem coreKept_dbgStore {k : Core} {u : DbgUnit} {n : Nat} {data : List (Nat × BitVec 32)} {tag : Option (BitVec 16)}
    (hk : CoreKept s k) : CoreKept s (dbgStore k u n data tag) := by
  unfold dbgStore
  split
  · exact coreKept_frame hk
  · have hd : CoreKept s { k with
        data := data.foldl (fun m p => if p.1 < 64 then memWrite m (64 * n + p.1) (p.2.setWidth 8) else m) k.data } := by
      refine coreKept_data hk fun hm => memWf_foldl hm fun m p hm => ?_
      split
      · exact memWf_memWrite _ _ hm
      · exact hm
    dsimp only
    split
    · exact coreKept_frame hd
    · exact hd

theorem goes_execDebugWrite {core : Nat} {u' : DbgUnit} {data : List (Nat × BitVec 32)} {tag : Option (BitVec 16)}
    (h : Kept s t) :
    Goes s (execDebugWrite core u' data tag t) := by
  unfold execDebugWrite
  refine goes_ite (goes_next h) ?_
  split
  · exact goes_next (kept_frame h)
  · exact goes_next (kept_updCore h fun _ h3 => coreKept_dbgStore h3)

theorem kept_answer {initiator value : Option Nat} {failed : Bool} (h : Kept s t) :
    Kept s (answer t initiator value failed) := kept_frame h

theorem inKept_inboundMem {n : Inbound} (h : Kept s t) : InKept s (inboundMem t n) := by
  refine inKept_ite (kept_answer h) (inKept_ite h (inKept_ite (kept_answer h) (kept_answer ?_)))
  split
  · exact kept_mem h (memWf_memWriteNat _ _ _)
  · exact h

theorem fstKept_inboundPlaces {k : Nat} {x : Export} {initiator acc : Nat} {ps : List (Nat × Nat)} (h : Kept s t) :
    FstKept s (inboundPlaces t k x initiator acc ps) := by
  induction ps generalizing t with
  | nil => exact h
  | cons p ps ih =>
    have more (u : State) (q : Place) (hu : Kept s u) : FstKept s (match inboundPlaces u k x initiator acc ps with
        | (s, .at_ qs) => (s, .at_ ((q, p.2) :: qs))
        | r => r) := by
      split
      · exact FstKept.of_eq (ih hu) ‹_›
      · exact ih hu
    unfold inboundPlaces
    dsimp only
    split
    · exact more _ _ (FstKept.of_eq (fstKept_peerPlace h) ‹_›)
    · exact more _ _ (FstKept.of_eq (fstKept_peerPlace h) ‹_›)
    · exact FstKept.of_eq (fstKept_peerPlace h) ‹_›
    · exact FstKept.of_eq (fstKept_peerPlace h) ‹_›

theorem kept_placesWrite {v : Nat} {ps : List (Place × Nat)} (h : Kept s t) : Kept s (placesWrite t v ps) := by
  induction ps generalizing t v with
  | nil => exact h
  | cons p ps ih => exact ih (kept_placeWrite h)

theorem inKept_inboundData {n : Inbound} {k : Nat} {x : Export} {initiator : Nat} {behind : Bool} (h : Kept s t) :
    InKept s (inboundData t n k x initiator behind) := by
  unfold inboundData
  refine inKept_ite (inKept_wait (kept_frame h)) ?_
  split
  · exact inKept_done (kept_answer (FstKept.of_eq (fstKept_inboundPlaces h) ‹_›))
  · exact inKept_wait (kept_frame (FstKept.of_eq (fstKept_inboundPlaces h) ‹_›))
  · refine inKept_ite (inKept_done (kept_answer (FstKept.of_eq (fstKept_inboundPlaces h) ‹_›)))
      (inKept_done (kept_answer ?_))
    split
    · exact kept_placesWrite (FstKept.of_eq (fstKept_inboundPlaces h) ‹_›)
    · exact FstKept.of_eq (fstKept_inboundPlaces h) ‹_›

theorem inKept_inboundMessage {n : Inbound} {k e : Nat} {key : BitVec 16} {initiator v : Nat} (h : Kept s t) :
    InKept s (inboundMessage t n k e key initiator v) := by
  unfold inboundMessage
  dsimp only
  split
  · exact inKept_done (kept_answer (RingKept.of_put (ringKept_exportRing h) ‹_›))
  · exact inKept_wait h
  · exact inKept_done (kept_answer (kept_postFault h))

theorem inKept_inboundPeer {n : Inbound} {k e : Nat} {key : BitVec 16} {initiator : Nat} {behind : Bool} (h : Kept s t) :
    InKept s (inboundPeer t n k e key initiator behind) := by
  unfold inboundPeer
  refine inKept_ite (inKept_done (kept_answer h)) ?_
  split
  · exact inKept_inboundData h
  · exact inKept_ite (inKept_wait h) (inKept_inboundMessage h)
  · exact inKept_ite (inKept_inboundData h) (inKept_done (kept_answer (kept_postFault h)))

theorem inKept_inboundNow {n : Inbound} {behind : Bool} (h : Kept s t) : InKept s (inboundNow t n behind) := by
  unfold inboundNow
  refine inKept_ite (inKept_done (kept_answer h)) ?_
  split
  · exact inKept_inboundPeer h
  · exact inKept_ite (inKept_wait h) (inKept_inboundMem h)

theorem kept_inboundCome {n : Inbound} (h : Kept s t) : Kept s (inboundCome t n) := by
  unfold inboundCome
  split
  · exact InKept.of_done (inKept_inboundNow h) ‹_›
  · exact kept_frame (InKept.of_wait (inKept_inboundNow h) ‹_›)

theorem kept_inboundRetry {i : Nat} (h : Kept s t) : Kept s (inboundRetry t i) := by
  unfold inboundRetry
  split
  · exact h
  · split
    · exact kept_frame (InKept.of_done (inKept_inboundNow h) ‹_›)
    · exact kept_frame (InKept.of_wait (inKept_inboundNow h) ‹_›)

/-! ### Launches -/

theorem kept_snapForget {k l at_ : Nat} (h : Kept s t) : Kept s (snapForget t k l at_) := by
  refine kept_launches h (rising_map fun p => ?_)
  dsimp only
  split <;> rfl

theorem kept_snapMark {k l space : Nat} {ps : List (Nat × Double × Nat)} (h : Kept s t) :
    Kept s (snapMark t k l space ps) :=
  kept_foldl h fun _ _ h1 => kept_updLaunch (fstKept_casPte (kept_snapForget h1))

theorem kept_dropPte {k at_ : Nat} (h : Kept s t) : Kept s (dropPte t k at_) := kept_keepTlbs h

theorem kept_snapEnd {l : Nat} (h : Kept s t) : Kept s (snapEnd t l) := by
  unfold snapEnd
  split
  · exact h
  · exact kept_updLaunch
      (kept_foldl (kept_foldl h fun _ _ h2 => kept_ite (kept_dropPte (kept_physWrite h2)) h2) fun _ _ h2 =>
        kept_poolReturn h2)

theorem kept_endEarly {l status : Nat} (h : Kept s t) : Kept s (endEarly t l status) := kept_updLaunch h

theorem fstKept_launchNew {k q slot tag : Nat} {comp : Double} {r : LRec} (h : Kept s t) :
    FstKept s (launchNew t k q slot tag comp r) := by
  have hl (x : Launch) (f : Dev → Dev) :
      Kept s (({ t with nextLaunch := t.nextLaunch + 1, launches := fput t.launches t.nextLaunch x } : State).updDev k f) :=
    kept_updDev (kept_launches h (rising_fput (Nat.zero_le _)))
  exact kept_ite (kept_endEarly (hl _ _)) (kept_ite (kept_endEarly (hl _ _)) (kept_ite (kept_endEarly (hl _ _)) (hl _ _)))

theorem kept_clearCode {k : Nat} (h : Kept s t) : Kept s (clearCode t k) := by
  refine kept_cores h fun p hp => ?_
  dsimp only
  split
  · exact coreKept_frame hp
  · exact hp

theorem kept_launchAdmit {l : Nat} (h : Kept s t) : Kept s (launchAdmit t l) := by
  unfold launchAdmit
  split
  · exact h
  · refine kept_ite h ?_
    split
    · exact kept_endEarly h
    · exact kept_ite h (kept_updLaunch (kept_clearCode (kept_snapMark h)))

theorem optKept_newWarps {c g : Nat} {l : LRec} {is : List Nat} (h : Kept s t) : OptKept s (newWarps c g l is t) := by
  induction is generalizing t with
  | nil => exact optKept_some h
  | cons i is ih =>
    unfold newWarps
    split
    · exact optKept_none
    · refine ih (kept_settle (kept_updCore (fstKept_takeGens h) fun _ hk => ?_))
      exact coreKept_writeV (coreKept_writeV (coreKept_warps hk (rising_fput (Nat.zero_le _))))

theorem optFstKept_admitOne {lid : Nat} {x : Launch} {idx c : Nat} {cg : Option Nat} (h : Kept s t) :
    OptFstKept s (admitOne t lid x idx c cg) := by
  unfold admitOne
  dsimp only
  split
  · refine optFstKept_ite optFstKept_none ?_
    split
    · exact optFstKept_none
    · exact optFstKept_ite optFstKept_none
        (optFstKept_some (fstKept_mk
            (kept_updWg (kept_takeArea
                (OptKept.of_eq (optKept_newWarps
                    (kept_ite (kept_updSeq (kept_wgs (fstKept_takeGens (kept_clearMatrix h)) (rising_fput (Nat.zero_le _))))
                      (kept_wgs (fstKept_takeGens (kept_clearMatrix h)) (rising_fput (Nat.zero_le _))))) ‹_›)))))
  · exact optFstKept_none

theorem optFstKept_admitList {lid : Nat} {x : Launch} {cg : Option Nat} {r : List (Nat × Nat)} (h : Kept s t) :
    OptFstKept s (admitList lid x cg r t) := by
  induction r generalizing t with
  | nil => exact optFstKept_some h
  | cons p r ih =>
    unfold admitList
    split
    · exact optFstKept_none
    · exact optFstKept_map (ih (OptFstKept.of_eq (optFstKept_admitOne h) ‹_›)) fun _ h => h

theorem optFstKept_admitCopy {lid : Nat} {x : Launch} {idxs cs : List Nat} (h : Kept s t) :
    OptFstKept s (admitCopy t lid x idxs cs) :=
  optFstKept_ite (optFstKept_admitList h) (optFstKept_ite (optFstKept_admitList h) optFstKept_none)

theorem kept_tieTwins {as bs : List Nat} (h : Kept s t) : Kept s (tieTwins t as bs) :=
  kept_foldl h fun _ _ h1 => kept_updWg (kept_updWg h1)

theorem optKept_admitGroups {lid : Nat} {x : Launch} {gs : List (List Nat)} {cs : List Nat} (h : Kept s t) :
    OptKept s (admitGroups lid x gs cs t) := by
  induction gs generalizing t cs with
  | nil => exact optKept_some h
  | cons idxs gs ih =>
    unfold admitGroups
    dsimp only
    split
    · exact optKept_none
    · have ha := OptFstKept.of_eq (optFstKept_admitCopy h) ‹_›
      refine optKept_ite (ih ha) (optKept_ite optKept_none ?_)
      split
      · exact optKept_none
      · exact ih (kept_tieTwins (OptFstKept.of_eq (optFstKept_admitCopy ha) ‹_›))

theorem goes_execWorkgroupAdmission {launch : Nat} {cores : List Nat} (h : Kept s t) :
    Goes s (execWorkgroupAdmission launch cores t) := by
  unfold execWorkgroupAdmission
  split
  · exact goes_next h
  · refine goes_ite (goes_next h) (goes_ite (goes_next (kept_endLaunch h)) (goes_ite (goes_next h) ?_))
    split
    · exact goes_next h
    · exact goes_next (kept_updLaunch (OptKept.of_eq (optKept_admitGroups h) ‹_›))

theorem goes_execPoolRootPush {launch : Nat} (h : Kept s t) : Goes s (execPoolRootPush launch t) := by
  unfold execPoolRootPush
  split
  · exact goes_next h
  · refine goes_ite (goes_next h) ?_
    split
    · exact goes_next (kept_endLaunch h)
    · refine goes_ite (goes_next (kept_endLaunch h)) (goes_next (kept_updLaunch (kept_foldl h fun _ _ h4 => ?_)))
      split
      · exact kept_frontPush h4
      · exact h4

theorem kept_outWrite {k a n v : Nat} (h : Kept s t) : Kept s (outWrite t k a n v) :=
  kept_ite (kept_cmem h (memWf_memWriteNat _ _ _)) (kept_physWrite h)

theorem kept_closePacket {l : Nat} {x : Launch} (h : Kept s t) : Kept s (closePacket t l x) := kept_updQueue h

theorem goes_execLaunchComplete {launch : Nat} (h : Kept s t) : Goes s (execLaunchComplete launch t) := by
  unfold execLaunchComplete
  split
  · exact goes_next h
  · rename_i x hx
    have he := kept_ite (p := launchDone t launch x = true) (kept_endLaunch (l := launch) (status := 0) (cause := 0) (tpc := 0)
      (wgidx := 0) (double := false) h) h
    dsimp only
    split
    · exact goes_next he
    · refine goes_ite (goes_next he) ?_
      have hu : ∀ x, Kept s _ := fun x => kept_updLaunch (c := launch) (f := fun x => { x with comp := 0 })
        (kept_closePacket (l := launch) (x := x) (kept_snapEnd (l := launch)
          (kept_ite (p := x.comp = 0) he (kept_outWrite (k := x.dev) (a := x.comp.toNat) (n := 32) (v := completionWords x) he))))
      exact goes_ite (goes_next (hu _)) (goes_next (kept_launches (kept_forgetWgs (hu _)) rising_fdel))

theorem goes_execLaunchAbort {dev : Nat} {id : BitVec 32} (h : Kept s t) : Goes s (execLaunchAbort dev id t) := by
  unfold execLaunchAbort
  split
  · exact goes_next (kept_ite (kept_endLaunch h) h)
  · exact goes_next h

theorem goes_execPodReplay {dev : Nat} {id : BitVec 32} (h : Kept s t) : Goes s (execPodReplay dev id t) := by
  unfold execPodReplay
  split
  · exact goes_next h
  · exact goes_ite (goes_next h)
      (goes_ite (goes_next (kept_ite (kept_endEarly h) (kept_updLaunch h))) (goes_next (kept_startReplay h)))

theorem goes_execReplayRestore {launch : Nat} (h : Kept s t) : Goes s (execReplayRestore launch t) := by
  unfold execReplayRestore
  split
  · exact goes_next h
  · exact goes_ite (goes_next h)
      (goes_ite (goes_next (kept_endLaunch h))
        (goes_next (kept_updLaunch (kept_clearCode (kept_foldl h fun _ _ h3 => kept_physCopy h3)))))

/-! ### The mesh -/

theorem kept_arrivePacket {p : Packet} (h : Kept s t) : Kept s (arrivePacket t p) := by
  unfold arrivePacket
  refine kept_ite ?_ (kept_frame h)
  split
  · exact kept_frame h
  · exact h

theorem kept_passFlit {die x y o : Nat} {r : RouterOut} {i vc left : Nat} (h : Kept s t) :
    Kept s (passFlit t die x y o r i vc left) := by
  unfold passFlit
  refine kept_ite (kept_setDie h) ?_
  dsimp only
  split
  · exact kept_setDie h
  · exact kept_arrivePacket (kept_setDie h)
  · exact kept_setDie h

theorem kept_waitSample {die x y i vc : Nat} (h : Kept s t) : Kept s (waitSample t die x y i vc) := by
  unfold waitSample
  split
  · exact kept_noteSample h
  · exact h

theorem goes_execMeshArbitration {die x y out : Nat} (h : Kept s t) : Goes s (execMeshArbitration die x y out t) := by
  unfold execMeshArbitration
  refine goes_ite (goes_next h) ?_
  dsimp only
  split
  · exact goes_ite (goes_next (kept_passFlit (kept_setDie (kept_setDie h))))
      (goes_next (kept_updDie (kept_setDie (kept_setDie h))))
  · split
    · exact goes_next (kept_setDie h)
    · exact goes_next (kept_passFlit (kept_updDie (kept_waitSample (kept_setDie h))))

theorem goes_execPacketUrgent {die x y input vc : Nat} (h : Kept s t) : Goes s (execPacketUrgent die x y input vc t) := by
  unfold execPacketUrgent
  dsimp only
  split
  · exact goes_next h
  · exact goes_ite (goes_next h) (goes_next (kept_setDie h))

theorem kept_enterMesh {src : Nat} {p : Packet} (h : Kept s t) : Kept s (enterMesh t src p) := by
  unfold enterMesh
  exact kept_updDie h

theorem kept_enterReq {r : Req} (h : Kept s t) : Kept s (enterReq t r) := by
  unfold enterReq
  refine kept_ite h ?_
  split
  · exact kept_enterMesh h
  · exact h

theorem kept_enterMsg {id : Nat} (h : Kept s t) : Kept s (enterMsg t id) := by
  unfold enterMsg
  dsimp only
  split
  · exact h
  · split
    · exact kept_ite (kept_enterMesh h) h
    · exact h

theorem kept_meshTick {d : Nat} (h : Kept s t) : Kept s (meshTick t d) := by
  unfold meshTick
  exact kept_updDie (kept_foldl (kept_foldl h fun _ _ h1 => kept_enterReq h1) fun _ _ h1 => kept_enterMsg h1)

/-! ### Command queues -/

theorem kept_endTurn {k q : Nat} (h : Kept s t) : Kept s (endTurn t k q) := by
  unfold endTurn
  exact kept_updQueue (kept_ite (kept_updDie h) h)

theorem kept_stopQueue {k q err : Nat} (h : Kept s t) : Kept s (stopQueue t k q err) :=
  kept_updQueue (kept_endTurn h)

theorem kept_lookReady {d : Nat} (h : Kept s t) : Kept s (lookReady t d) :=
  kept_foldl h fun _ _ h1 => kept_ite h1 (kept_updQueue h1)

theorem kept_tickSched {d n : Nat} (h : Kept s t) : Kept s (tickSched t d n) := kept_updDie (kept_lookReady h)

theorem kept_beginTurn {k q : Nat} (h : Kept s t) : Kept s (beginTurn t k q) := by
  unfold beginTurn
  refine kept_ite h (kept_updQueue (kept_updDie ?_))
  split
  · exact kept_endTurn h
  · exact h

theorem kept_slotFault {k q : Nat} (h : Kept s t) : Kept s (slotFault t k q) := kept_ite (kept_stopQueue h) h

theorem goes_execPacketFetch {dev q : Nat} (h : Kept s t) : Goes s (execPacketFetch dev q t) :=
  goes_ite (goes_next h)
    (goes_ite (goes_next (kept_stopQueue (kept_beginTurn h))) (goes_next (kept_updQueue (kept_beginTurn h))))

theorem kept_dawnWrite {k a : Nat} (h : Kept s t) : Kept s (dawnWrite t k a) := kept_outWrite h

theorem kept_dawnSettle {k : Nat} (h : Kept s t) : Kept s (dawnSettle t k) :=
  kept_ite (kept_updDev (kept_foldl h fun _ _ h1 => kept_dawnWrite h1)) h

theorem kept_packetEnd {k q : Nat} (h : Kept s t) : Kept s (packetEnd t k q) := by
  unfold packetEnd
  split
  · exact h
  · exact kept_dawnSettle (kept_ite (kept_endTurn (kept_updQueue h)) (kept_updQueue h))

theorem kept_packetStand {k q : Nat} (h : Kept s t) : Kept s (packetStand t k q) :=
  kept_dawnSettle (kept_updQueue h)

theorem goes_execLaunchPacket {dev q : Nat} (h : Kept s t) : Goes s (execLaunchPacket dev q t) := by
  unfold execLaunchPacket
  split
  · exact goes_next h
  · dsimp only
    split
    · refine goes_next (kept_packetEnd (kept_launchAdmit (kept_updQueue ?_)))
      split
      · exact fstKept_mk h
      · exact fstKept_launchNew h
    · refine goes_ite (goes_next (kept_launchAdmit (kept_updQueue ?_)))
        (goes_next (kept_packetEnd (kept_updQueue (kept_launchAdmit (kept_updQueue ?_)))))
      · split
        · exact fstKept_mk h
        · exact fstKept_launchNew h
      · split
        · exact fstKept_mk h
        · exact fstKept_launchNew h

theorem goes_execWaitPacket {dev q : Nat} (h : Kept s t) : Goes s (execWaitPacket dev q t) := by
  unfold execWaitPacket
  split
  · exact goes_next h
  · exact goes_next (kept_ite (kept_packetEnd h) (kept_packetStand h))

theorem goes_execWaitConditionMet {dev q : Nat} (h : Kept s t) : Goes s (execWaitConditionMet dev q t) := by
  unfold execWaitConditionMet
  split
  · exact goes_next h
  · exact goes_next (kept_ite (kept_packetEnd h) h)

theorem goes_execSignalPacket {dev q : Nat} (h : Kept s t) : Goes s (execSignalPacket dev q t) := by
  unfold execSignalPacket
  split
  · exact goes_next h
  · exact goes_next (kept_packetEnd (kept_outWrite h))

theorem goes_execWriteThenSignalPacket {dev q : Nat} (h : Kept s t) : Goes s (execWriteThenSignalPacket dev q t) := by
  unfold execWriteThenSignalPacket
  split
  · exact goes_next h
  · exact goes_next (kept_packetEnd (kept_outWrite (kept_outWrite h)))

theorem goes_execCopyPacket {dev q : Nat} (h : Kept s t) : Goes s (execCopyPacket dev q t) := by
  unfold execCopyPacket
  split
  · exact goes_next h
  · exact goes_next (kept_packetEnd (kept_outWrite h))

theorem kept_dropFrame {k pa : Nat} (h : Kept s t) : Kept s (dropFrame t k pa) := kept_keepTlbs h

theorem fstKept_handPages {k to_ n pa : Nat} (h : Kept s t) : FstKept s (handPages k to_ n pa t) := by
  induction n generalizing t pa with
  | zero => exact h
  | succ n ih => exact fstKept_ite (ih (kept_dropFrame (kept_handFrame h))) h

theorem kept_handoverDone {k q : Nat} (h : Kept s t) : Kept s (handoverDone t k q) := by
  unfold handoverDone
  exact kept_updQueue h

theorem goes_execHandoverPacket {dev q : Nat} (h : Kept s t) : Goes s (execHandoverPacket dev q t) := by
  unfold execHandoverPacket
  split
  · exact goes_next (kept_handoverDone h)
  · exact goes_ite (goes_next (kept_packetEnd (fstKept_handPages h)))
      (goes_next (kept_packetEnd (kept_updQueue (fstKept_handPages h))))

theorem goes_execFencePacket {dev q : Nat} (h : Kept s t) : Goes s (execFencePacket dev q t) := by
  unfold execFencePacket
  split
  · exact goes_next h
  · exact goes_next (kept_packetEnd h)

theorem goes_execDawnPacket {dev q : Nat} (h : Kept s t) : Goes s (execDawnPacket dev q t) := by
  unfold execDawnPacket
  split
  · exact goes_next h
  · exact goes_ite (goes_next (kept_packetEnd (kept_dawnWrite h))) (goes_next h)

theorem goes_execSliceExpiry {dev q : Nat} (h : Kept s t) : Goes s (execSliceExpiry dev q t) :=
  goes_ite (goes_next h) (goes_ite (goes_next (kept_endTurn h)) (goes_next (kept_updQueue h)))

theorem kept_passQueue {k q d : Nat} (h : Kept s t) : Kept s (passQueue t k q d) := by
  unfold passQueue
  exact kept_updQueue (kept_endTurn h)

theorem goes_execQueueOwnershipPass {dev q : Nat} (h : Kept s t) : Goes s (execQueueOwnershipPass dev q t) := by
  unfold execQueueOwnershipPass
  dsimp only
  split
  · exact goes_next (kept_ite (kept_passQueue h) h)
  · exact goes_next h

theorem goes_execQueueReturnHome {dev q : Nat} (h : Kept s t) : Goes s (execQueueReturnHome dev q t) :=
  goes_ite (goes_next (kept_passQueue h)) (goes_next h)

/-! ### The module -/

theorem kept_putDev {k : Nat} {ok : Bool} {f : Dev → Dev} (h : Kept s t) : Kept s (putDev t k ok f) :=
  kept_ite (kept_updDev h) h

theorem kept_putQueue {k q : Nat} {stopped : Bool} {f : CQueue → CQueue} (h : Kept s t) :
    Kept s (putQueue t k q stopped f) := kept_ite (kept_updQueue h) h

theorem kept_putDie {d : Nat} {ok : Bool} {f : Die → Die} (h : Kept s t) : Kept s (putDie t d ok f) :=
  kept_ite (kept_updDie h) h

theorem kept_updMonitor {d m : Nat} {f : Monitor → Monitor} (h : Kept s t) : Kept s (updMonitor t d m f) :=
  kept_updDie h

theorem kept_writeQueueReg {r : Reg} {v : Nat} (h : Kept s t) : Kept s (writeQueueReg t r v) := by
  unfold writeQueueReg
  split
  · exact kept_putQueue h
  · exact kept_putQueue h
  · exact kept_putQueue h
  · exact kept_putQueue h
  · exact kept_putQueue h
  · exact kept_putQueue h
  · exact kept_putQueue h
  · exact h

theorem kept_writeDevReg {r : Reg} {v : Nat} (h : Kept s t) : Kept s (writeDevReg t r v) := by
  unfold writeDevReg
  dsimp only
  split
  · exact kept_putDev h
  · exact kept_putDev h
  · exact kept_putDev h
  · exact kept_putDev h
  · exact kept_putDev h
  · exact kept_putDev h
  · exact kept_putDev h
  · exact kept_putDev h
  · exact kept_putDev h
  · exact kept_putDev h
  · exact kept_putDev h
  · exact kept_putDev h
  · exact kept_putDev h
  · exact kept_putDev h
  · exact kept_putDev h
  · exact kept_putDev h
  · exact kept_putDev h
  · exact kept_putDev h
  · exact kept_putDev h
  · exact kept_putDev h
  · exact kept_putDev h
  · exact kept_putDev h
  · exact h

theorem kept_writeRasReg {r : Reg} {v : Nat} (h : Kept s t) : Kept s (writeRasReg t r v) := by
  unfold writeRasReg
  split
  · exact kept_ite h (kept_pkg h id)
  · exact kept_ite h (kept_pkg h id)
  · exact kept_putDie h
  · exact kept_putDie h
  · exact kept_putDie h
  · exact kept_putDie h
  · exact kept_putDie h
  · exact kept_putDie h
  · exact kept_ite h (kept_updMonitor h)
  · exact h

theorem goes_execRegisterWrite {r : Reg} {v : BitVec 64} (h : Kept s t) : Goes s (execRegisterWrite r v t) := by
  unfold execRegisterWrite
  exact goes_next (kept_writeRasReg (kept_writeDevReg (kept_writeQueueReg h)))

theorem coreKept_freshTags {k : Core} (hk : CoreKept s k) : CoreKept s (freshTags k) :=
  coreKept_frame hk

theorem kept_resetVesper (h : Kept s t) : Kept s (resetVesper t) :=
  kept_cores h fun _ hp => coreKept_freshTags hp

theorem kept_clearTlbs (h : Kept s t) : Kept s (clearTlbs t) :=
  kept_cores h fun _ hp => coreKept_frame hp

theorem goes_execPmodeModeWrite {mode : BitVec 2} (h : Kept s t) : Goes s (execPmodeModeWrite mode t) := by
  unfold execPmodeModeWrite
  dsimp only
  split
  · exact goes_next h
  · split
    · exact goes_next (kept_pkg h id)
    · rename_i hm
      refine goes_next (kept_pkg h fun hl => ?_)
      have hlt := mode.isLt
      simp only [not_or] at hl hm ⊢
      exact ⟨hl.1, by omega⟩

theorem goes_execModeChangeDone (h : Kept s t) : Goes s (execModeChangeDone t) := by
  have hp : Kept s (let u := resetVesper (clearTlbs t); { u with pkg := { u.pkg with mode := u.pkg.modeNext, busy := false } }) :=
    kept_pkg (kept_resetVesper (kept_clearTlbs h)) fun hl => ⟨hl.2, hl.2⟩
  exact goes_ite (goes_next h) (goes_next (kept_frame (kept_frame hp)))

theorem kept_shareTags {dev share : Nat} (h : Kept s t) : Kept s (shareTags t dev share) := by
  refine kept_cores h fun p hp => ?_
  dsimp only
  split
  · exact coreKept_frame hp
  · exact hp

theorem goes_execClockStretchDone {dev : Nat} (h : Kept s t) : Goes s (execClockStretchDone dev t) :=
  goes_next (kept_updDev h)

theorem kept_updCxl {p : Nat} {f : Cxl → Cxl} (h : Kept s t) : Kept s (updCxl t p f) :=
  kept_pkg h id

theorem goes_execCxlPortEnable {port : Nat} (h : Kept s t) : Goes s (execCxlPortEnable port t) := by
  unfold execCxlPortEnable
  exact goes_ite (goes_next h) (goes_next (kept_updCxl h))

theorem goes_execCxlPortDisable {port : Nat} (h : Kept s t) : Goes s (execCxlPortDisable port t) := by
  unfold execCxlPortDisable
  exact goes_ite (goes_next h) (goes_next (kept_updCxl h))

theorem goes_execCxlTrainingDone {port : Nat} {type3 : Bool} {cap : Nat} (h : Kept s t) :
    Goes s (execCxlTrainingDone port type3 cap t) := by
  unfold execCxlTrainingDone
  exact goes_ite (goes_next h) (goes_next (kept_updCxl h))

/-! ### Partitions, repair and power -/

theorem kept_updPkg {f : Package → Package} (h : Kept s t)
    (hf : ∀ p, (f p).mode = p.mode ∧ (f p).modeNext = p.modeNext) : Kept s (t.updPkg f) := by
  refine kept_same h ?_
  obtain ⟨hm, hn⟩ := hf t.pkg
  simp [tracked, State.updPkg, hm, hn]

theorem kept_noteBad {d : Nat} {pos : Nat × Nat} (h : Kept s t) : Kept s (noteBad t d pos) :=
  kept_logError (kept_updDie h)

theorem kept_powerOn {u : State} (h : Kept s t) (hw : u.wgs = []) (hl : u.launches = []) (hk : u.cores = []) (hm : u.mem = [])
    (hc : u.cmem = t.cmem) (hp : legalMode u = true) : Kept s u where
  wgs _ := hw ▸ rfl
  launches _ := hl ▸ rfl
  mem _ := hm ▸ rfl
  cmem hs := hc ▸ h.cmem hs
  cores p hp := by simp [hk] at hp
  mode _ := hp

theorem goes_execPowerOn {idOk bistOk : Bool} {bad : List (Nat × Nat × Nat)} (h : Kept s t) :
    Goes s (execPowerOn idOk bistOk bad t) := by
  have hr : Kept s { State.reset with
      cmem := t.cmem, linkOut := t.linkOut, debug := t.debug, freeCtr := t.freeCtr, agenda := t.agenda, cur := t.cur } :=
    kept_powerOn h rfl rfl rfl rfl rfl rfl
  refine goes_ite (goes_next (kept_updPkg hr fun _ => ⟨rfl, rfl⟩)) ?_
  have hb (f : Package → Package) (hf : ∀ p, (f p).mode = p.mode ∧ (f p).modeNext = p.modeNext) :=
    kept_foldl (l := List.range 4) (kept_updPkg hr hf) fun _ d h =>
      kept_foldl (l := badOf bad d) h fun _ pos h => kept_noteBad (d := d) (pos := pos) h
  refine goes_ite (goes_next (kept_updPkg (hb _ ?_) fun _ => ⟨rfl, rfl⟩))
    (goes_next (kept_updPkg (hb _ ?_) fun _ => ⟨rfl, rfl⟩))
  · exact fun _ => ⟨rfl, rfl⟩
  · exact fun _ => ⟨rfl, rfl⟩

theorem kept_retireCore {c : Nat} (h : Kept s t) : Kept s (retireCore t c) := by
  unfold retireCore
  refine kept_ite h ?_
  split
  · exact kept_updDie (kept_updPkg h fun _ => ⟨rfl, rfl⟩)
  · exact kept_logError (kept_updDie h)

theorem kept_repairDram {d : Nat} (h : Kept s t) : Kept s (repairDram t d) := by
  unfold repairDram
  exact kept_updDie h

theorem kept_resetRetired {n m : Nat} (h : Kept s t) :
    Kept s (resetVesper ((List.range m).foldl repairDram ((List.range n).foldl retireCore t))) :=
  kept_resetVesper (kept_foldl (kept_foldl h fun _ _ h => kept_retireCore h) fun _ _ h => kept_repairDram h)

theorem kept_applyRepair {write : Bool} (h : Kept s t) : Kept s (applyRepair t write) := by
  unfold applyRepair
  exact kept_ite (kept_cmem (kept_updPkg (kept_resetRetired h) fun _ => ⟨rfl, rfl⟩) (memWf_memWriteBytes _ _))
    (kept_updPkg (kept_resetRetired h) fun _ => ⟨rfl, rfl⟩)

theorem kept_markBad (h : Kept s t) : Kept s (markBad t) := by
  unfold markBad
  refine kept_foldl h fun _ _ h1 => ?_
  split
  · exact kept_updStat h1
  · exact h1

theorem kept_applyBist (h : Kept s t) : Kept s (applyBist t) :=
  kept_ite (kept_applyRepair (kept_markBad h)) (kept_markBad h)

theorem goes_execRepairApply (h : Kept s t) : Goes s (execRepairApply t) :=
  goes_ite (goes_next h)
    (goes_ite (goes_next (kept_updPkg h fun _ => ⟨rfl, rfl⟩)) (goes_next (kept_updPkg h fun _ => ⟨rfl, rfl⟩)))

theorem goes_execRepairApplyDone (h : Kept s t) : Goes s (execRepairApplyDone t) :=
  goes_ite (goes_next (kept_updPkg (kept_applyRepair h) fun _ => ⟨rfl, rfl⟩)) (goes_next h)

theorem goes_execRasRefusedClear (h : Kept s t) : Goes s (execRasRefusedClear t) :=
  goes_next (kept_ite h (kept_updPkg h fun _ => ⟨rfl, rfl⟩))

theorem goes_execPendretSet {die core : Nat} (h : Kept s t) : Goes s (execPendretSet die core t) :=
  goes_next (kept_ite h (kept_updStat h))

theorem kept_takeMap {payload : List Byte} (h : Kept s t) : Kept s (takeMap t payload) :=
  kept_updPkg h fun _ => ⟨rfl, rfl⟩

theorem kept_takeFirmware {payload : List Byte} (h : Kept s t) : Kept s (takeFirmware t payload) :=
  kept_updPkg (kept_updDie h) fun _ => ⟨rfl, rfl⟩

theorem kept_imageApply {i : Config.Image} (h : Kept s t) : Kept s (imageApply t i) :=
  kept_ite (kept_updPkg
      (kept_foldl (kept_takeMap (kept_updPkg h fun _ => ⟨rfl, rfl⟩)) fun _ _ h1 => kept_updDie h1) fun _ => ⟨rfl, rfl⟩)
    (kept_ite (kept_updPkg
        (kept_foldl (kept_takeMap (kept_updPkg h fun _ => ⟨rfl, rfl⟩)) fun _ _ h1 => kept_updDie h1) fun _ => ⟨rfl, rfl⟩)
      (kept_ite (kept_takeFirmware (kept_updPkg h fun _ => ⟨rfl, rfl⟩))
        (kept_applyBist (kept_updPkg (kept_takeFirmware (kept_updPkg h fun _ => ⟨rfl, rfl⟩)) fun _ => ⟨rfl, rfl⟩))))

theorem goes_execImageLoad {addr : BitVec 64} {readable : Bool} (h : Kept s t) : Goes s (execImageLoad addr readable t) :=
  goes_ite (goes_next (kept_updPkg h fun _ => ⟨rfl, rfl⟩))
    (goes_ite (goes_next (kept_updPkg h fun _ => ⟨rfl, rfl⟩))
      (goes_ite (goes_next (kept_updPkg h fun _ => ⟨rfl, rfl⟩)) (goes_next (kept_imageApply h))))

theorem goes_execAttestationRequest {addr : BitVec 64} (h : Kept s t) : Goes s (execAttestationRequest addr t) :=
  goes_ite (goes_next h)
    (goes_ite (goes_next (kept_updPkg h fun _ => ⟨rfl, rfl⟩)) (goes_next (kept_updPkg h fun _ => ⟨rfl, rfl⟩)))

theorem goes_execQuoteWrite (h : Kept s t) : Goes s (execQuoteWrite t) := by
  unfold execQuoteWrite
  split
  · exact goes_next h
  · refine goes_ite (goes_next h) (goes_next (kept_cmem (kept_updPkg h fun _ => ⟨rfl, rfl⟩) ?_))
    exact memWf_memWriteBytes _ _

theorem goes_execAttdropClear (h : Kept s t) : Goes s (execAttdropClear t) :=
  goes_next (kept_ite h (kept_updPkg h fun _ => ⟨rfl, rfl⟩))

theorem goes_execMonitorSample {die mon v : Nat} (h : Kept s t) : Goes s (execMonitorSample die mon v t) := by
  unfold execMonitorSample
  refine goes_ite (goes_ite (goes_next h) (goes_next (kept_updMonitor h))) ?_
  split
  · exact goes_next h
  · exact goes_next (kept_updMonitor h)

theorem goes_execMonitorClear {die mon : Nat} (h : Kept s t) : Goes s (execMonitorClear die mon t) :=
  goes_next (kept_ite h (kept_updMonitor h))

theorem goes_execMonitorConfigure {die mon : Nat} {qty : BitVec 4} {src : BitVec 10} (h : Kept s t) :
    Goes s (execMonitorConfigure die mon qty src t) := goes_ite (goes_next h) (goes_next (kept_updMonitor h))

theorem kept_updLink {l : Nat} {f : Link → Link} (h : Kept s t) : Kept s (updLink t l f) :=
  kept_updPkg h fun _ => ⟨rfl, rfl⟩

theorem goes_execHeartbeatSend {die : Nat} (h : Kept s t) : Goes s (execHeartbeatSend die t) :=
  goes_ite (goes_next h) (goes_next (kept_updDie (kept_foldl h fun _ _ h2 => kept_updLink (kept_frame h2))))

theorem goes_execHeartbeatTimeout {link : Nat} (h : Kept s t) : Goes s (execHeartbeatTimeout link t) :=
  goes_ite (goes_next (kept_logError (kept_updLink h))) (goes_next h)

theorem goes_execPeerTrafficRelay {dev link dest : Nat} {data : List (BitVec 8)} (h : Kept s t) :
    Goes s (execPeerTrafficRelay dev link dest data t) := by
  unfold execPeerTrafficRelay
  refine goes_ite (goes_next h) ?_
  split
  · exact goes_next (kept_frame h)
  · exact goes_next (kept_answer (kept_postFault h))

theorem kept_powerStep {k : Nat} (h : Kept s t) : Kept s (powerStep t k) :=
  kept_ite (kept_updDev h) (kept_updDev h)

theorem goes_execPowerControlTick {pwr : BitVec 16} {temps : List Nat} (h : Kept s t) :
    Goes s (execPowerControlTick pwr temps t) := by
  unfold execPowerControlTick
  refine goes_ite (goes_next h)
    (goes_next (kept_foldl (kept_foldl (kept_updPkg h fun _ => ⟨rfl, rfl⟩) fun _ _ h2 => ?_) fun _ _ h2 =>
        kept_powerStep h2))
  split
  · exact kept_updDie h2
  · exact h2

/-! ### Vector instructions -/

theorem goes_execVote {f : F3} {x : XM} (h : Kept s t) (hc : CanIssue t) : Goes s (execVote f x t) :=
  goes_issue h hc fun _ h2 => planKept_mk (kept_ite (kept_goOn h (coreKept_putLanes h2)) (kept_goOn h h2))

/-! ### Fetching -/

theorem goes_onNext {f : State → State} {o : Host.Outcome State Fault Refusal} (h : Goes s o)
    (hf : ∀ t, Kept s t → Kept s (f t)) : Goes s (onNext f o) := by
  obtain ⟨t, rfl, ht⟩ := h
  exact goes_next (hf t ht)

theorem kept_fillLine {c space va : Nat} (h : Kept s t) : Kept s (fillLine t c space va) := by
  unfold fillLine
  refine kept_ite h ?_
  dsimp only
  split
  · split
    · exact kept_updCore h fun _ h3 => coreKept_frame h3
    · exact h
  · exact h

theorem kept_fillWords {c space va n : Nat} (h : Kept s t) : Kept s (fillWords t c space va n) :=
  kept_foldl h fun _ _ h1 => kept_fillLine h1

theorem kept_trapEarly {c sl ei : Nat} {e : Entry} {t' : TrapInfo} {act : Word} (h : Kept s t) :
    Kept s (trapEarly t c sl ei e t' act) := by
  unfold trapEarly
  split
  · exact h
  · exact kept_ite (kept_setWarp h) (kept_enterTrap (kept_selected h))

theorem kept_fetchFails {c sl ei : Nat} {g : Wg} {e : Entry} {a : Fetched} (h : Kept s t) :
    Kept s (fetchFails t c sl ei g e a) := by
  unfold fetchFails
  split
  · exact h
  · exact kept_trapEarly h
  · exact kept_poisonReplay h
  · exact kept_updWarp (kept_postFault h)

theorem kept_afterIssue {c sl g : Nat} {opened : Option Double} (h : Kept s t) : Kept s (afterIssue c sl g opened t) := by
  unfold afterIssue
  refine kept_extSettle ?_
  split
  · exact kept_updWarp (kept_frame h)
  · exact kept_frame h

theorem kept_seqFetchFails {cl c : Nat} {x : Wg} {a : Fetched} (h : Kept s t) : Kept s (seqFetchFails t cl c x a) := by
  unfold seqFetchFails
  split
  · exact h
  · exact kept_seqEnd h
  · exact kept_poisonReplay h
  · exact kept_updSeq (kept_postFault h)

/-! ### Registers of the package -/

theorem kept_registerRead {off n : Nat} (h : Kept s t) : Kept s (registerRead t off n) :=
  kept_ite h (kept_ite (kept_answer h) (kept_answer h))

theorem goes_runWrites {fs : List (State → Host.Outcome State Fault Refusal)} (h : Kept s t)
    (hf : ∀ f ∈ fs, ∀ t, Kept s t → Goes s (f t)) : Goes s (runWrites fs t) := by
  induction fs generalizing t with
  | nil => exact goes_next h
  | cons f fs ih =>
    obtain ⟨u, hu, hk⟩ := hf f (List.mem_cons_self ..) t h
    unfold runWrites
    rw [hu]
    exact ih hk fun g hg => hf g (List.mem_cons_of_mem _ hg)

theorem kept_companionWrite {a : Nat} {data : List Byte} (h : Kept s t) : Kept s (companionWrite t a data) :=
  kept_ite (kept_cmem h (memWf_memWriteBytes _ _)) h

theorem kept_meshWeights {d : Nat} {ws : List Nat} (h : Kept s t) : Kept s (meshWeights t d ws) :=
  kept_ite h (kept_ite (kept_updDie h) h)

/-! ### Clocks -/

theorem kept_tickCore {c : Nat} (h : Kept s t) : Kept s (tickCore t c) := by
  have hk := coreKept_core (c := c) h
  exact kept_setCore h ⟨fun hs => rising_map (fun _ => rfl) (hk.warps hs), (coreKept_sweepCycle hk).data⟩

theorem kept_writeFree {k pa i : Nat} (h : Kept s t) : Kept s (writeFree k pa t i) :=
  kept_physWrite (fstKept_takeFree h)

theorem kept_spillParks {c n : Nat} (h : Kept s t) : Kept s (spillParks c n t) := by
  induction n generalizing t with
  | zero => exact h
  | succ n ih =>
    refine kept_ite h ?_
    split
    · exact ih (kept_updWarp (kept_foldl h fun _ _ h => kept_writeFree h))
    · exact h

theorem kept_stageBrine {c : Nat} (h : Kept s t) : Kept s (stageBrine t c) := by
  unfold stageBrine
  exact kept_ite (kept_ite h (kept_foldl h fun _ _ h1 => kept_writeFree h1))
    (kept_updCore (kept_ite h (kept_foldl h fun _ _ h1 => kept_writeFree h1)) fun _ h1 => coreKept_frame h1)

theorem kept_toPrivate {c : Nat} (h : Kept s t) : Kept s (toPrivate t c) := by
  unfold toPrivate
  exact kept_stageBrine (kept_spillParks h)

theorem kept_backFromAside (h : Kept s t) : Kept s (backFromAside t) := kept_frame h

theorem kept_clockSamples {d : Nat} (h : Kept s t) : Kept s (clockSamples t d) :=
  kept_ite (kept_updDie (kept_noteSample (kept_ite (kept_foldl h fun _ _ h1 => kept_noteSample h1) h)))
    (kept_ite (kept_foldl h fun _ _ h1 => kept_noteSample h1) h)

theorem kept_tickOnce {d : Nat} {cs : List Nat} (h : Kept s t) : Kept s (tickOnce t d cs) :=
  kept_foldl (kept_backFromAside
      (kept_foldl (kept_clockSamples (kept_updDie (kept_meshTick (kept_foldl h fun _ _ h1 => kept_tickCore h1))))
        fun _ _ h1 => kept_toPrivate h1)) fun _ _ h1 => kept_copyRetry h1

theorem kept_tickDie {d n : Nat} (h : Kept s t) : Kept s (tickDie t d n) := by
  induction n generalizing t with
  | zero => exact h
  | succ n ih => exact kept_ite h (ih (kept_tickOnce h))

/-! ### The default move -/

theorem kept_pollAll {k : Nat} (h : Kept s t) : Kept s (pollAll t k) := by
  unfold pollAll
  refine kept_foldl h fun _ _ h1 => ?_
  split
  · exact Goes.of_eq (goes_execDrainPoll h1) ‹_›
  · exact h1
  · exact h1

theorem optKept_dueEvent (he : ∀ f ∈ autoEvents t, Goes s (f t)) : OptKept s (dueEvent t) := by
  intro u hu
  obtain ⟨f, hf, hfu⟩ := List.exists_of_findSome?_eq_some hu
  obtain ⟨v, hv, hk⟩ := he f hf
  simp only [hv] at hfu
  split at hfu
  · cases hfu
  · exact Option.some.inj hfu ▸ hk

theorem kept_tickAll (h : Kept s t) : Kept s (tickAll t) :=
  kept_foldl (kept_foldl h fun _ _ h1 => kept_pollAll h1) fun _ _ h1 => kept_ite (kept_tickSched (kept_tickDie h1))
    (kept_tickDie h1)

end

end Sys2Proof.Proofs
end

section
/-! Every instruction and every event, and so every step, goes on with a state that keeps what a state holds to. -/

namespace Sys2Proof.Proofs

open Sys2Proof.Machine Sys2Proof.Safety

section

variable {s t : State}

/-- Every instruction that can issue goes on, and so does every event. -/
theorem goes_exec {i : Instr} (h : Kept s t) (hc : view i ≠ .event → CanIssue t) : Goes s (exec i t) := by
  unfold exec
  cases i with
  | iadd => exact goes_intOp h (hc nofun)
  | isub => exact goes_intOp h (hc nofun)
  | imul => exact goes_intOp h (hc nofun)
  | imulhi => exact goes_intOp h (hc nofun)
  | imad => exact goes_intOp h (hc nofun)
  | imin => exact goes_intOp h (hc nofun)
  | imax => exact goes_intOp h (hc nofun)
  | iaddc => exact goes_carryOp h (hc nofun)
  | and_ => exact goes_bitOp h (hc nofun)
  | or_ => exact goes_bitOp h (hc nofun)
  | xor_ => exact goes_bitOp h (hc nofun)
  | andn => exact goes_bitOp h (hc nofun)
  | shl => exact goes_bitOp h (hc nofun)
  | shr => exact goes_bitOp h (hc nofun)
  | sar => exact goes_bitOp h (hc nofun)
  | rotl => exact goes_bitOp h (hc nofun)
  | bfx => exact goes_wordOp3 h (hc nofun)
  | bfi => exact goes_wordOp3 h (hc nofun)
  | prmt => exact goes_wordOp3 h (hc nofun)
  | lea => exact goes_leaOp h (hc nofun)
  | icmp => exact goes_icmpOp h (hc nofun)
  | sel => exact goes_selOp h (hc nofun)
  | mov => exact goes_bitOp h (hc nofun)
  | hash32 => exact goes_wordOp3 h (hc nofun)
  | fadd => exact goes_floatOp h (hc nofun)
  | fsub => exact goes_floatOp h (hc nofun)
  | fmul => exact goes_floatOp h (hc nofun)
  | ffma => exact goes_floatOp h (hc nofun)
  | fmin => exact goes_minMaxOp h (hc nofun)
  | fmax => exact goes_minMaxOp h (hc nofun)
  | fcmp => exact goes_fcmpOp h (hc nofun)
  | fscale => exact goes_scaleOp h (hc nofun)
  | padd => exact goes_packedOp h (hc nofun)
  | pmul => exact goes_packedOp h (hc nofun)
  | pfma => exact goes_packedOp h (hc nofun)
  | cvt => exact goes_cvtOp h (hc nofun)
  | iabs => exact goes_intOp h (hc nofun)
  | ineg => exact goes_intOp h (hc nofun)
  | not_ => exact goes_bitOp h (hc nofun)
  | popc => exact goes_bitOp h (hc nofun)
  | clz => exact goes_bitOp h (hc nofun)
  | brev => exact goes_bitOp h (hc nofun)
  | fclass => exact goes_wordOp3 h (hc nofun)
  | frnd => exact goes_laneFlagOp h (hc nofun)
  | frcp => exact goes_fnOp h (hc nofun)
  | frsq => exact goes_fnOp h (hc nofun)
  | fsqrt => exact goes_fnOp h (hc nofun)
  | fexp2 => exact goes_fnOp h (hc nofun)
  | flog2 => exact goes_fnOp h (hc nofun)
  | fsin => exact goes_fnOp h (hc nofun)
  | fcos => exact goes_fnOp h (hc nofun)
  | ftanh => exact goes_fnOp h (hc nofun)
  | movi => exact goes_laneOp h (hc nofun)
  | qnt => exact goes_laneFlagOp h (hc nofun)
  | dqnt => exact goes_laneFlagOp h (hc nofun)
  | pack => exact goes_laneOp h (hc nofun)
  | unpk => exact goes_laneOp h (hc nofun)
  | shfl => exact goes_laneOp h (hc nofun)
  | bcast => exact goes_laneOp h (hc nofun)
  | vote => exact goes_execVote h (hc nofun)
  | redadd => exact goes_reduceOp h (hc nofun)
  | redmin => exact goes_reduceOp h (hc nofun)
  | redmax => exact goes_reduceOp h (hc nofun)
  | redmini => exact goes_indexReduceOp h (hc nofun)
  | redmaxi => exact goes_indexReduceOp h (hc nofun)
  | scan => exact goes_laneFlagOp h (hc nofun)
  | match_ => exact goes_laneOp h (hc nofun)
  | iaddLiteral => exact goes_intOp h (hc nofun)
  | isubLiteral => exact goes_intOp h (hc nofun)
  | imulLiteral => exact goes_intOp h (hc nofun)
  | imulhiLiteral => exact goes_intOp h (hc nofun)
  | imadLiteral => exact goes_intOp h (hc nofun)
  | iminLiteral => exact goes_intOp h (hc nofun)
  | imaxLiteral => exact goes_intOp h (hc nofun)
  | iaddcLiteral => exact goes_carryOp h (hc nofun)
  | andLiteral => exact goes_bitOp h (hc nofun)
  | orLiteral => exact goes_bitOp h (hc nofun)
  | xorLiteral => exact goes_bitOp h (hc nofun)
  | andnLiteral => exact goes_bitOp h (hc nofun)
  | shlLiteral => exact goes_bitOp h (hc nofun)
  | shrLiteral => exact goes_bitOp h (hc nofun)
  | sarLiteral => exact goes_bitOp h (hc nofun)
  | rotlLiteral => exact goes_bitOp h (hc nofun)
  | bfxLiteral => exact goes_wordOp3 h (hc nofun)
  | bfiLiteral => exact goes_wordOp3 h (hc nofun)
  | prmtLiteral => exact goes_wordOp3 h (hc nofun)
  | leaLiteral => exact goes_leaOp h (hc nofun)
  | icmpLiteral => exact goes_icmpOp h (hc nofun)
  | selLiteral => exact goes_selOp h (hc nofun)
  | movLiteral => exact goes_bitOp h (hc nofun)
  | hash32Literal => exact goes_wordOp3 h (hc nofun)
  | faddLiteral => exact goes_floatOp h (hc nofun)
  | fsubLiteral => exact goes_floatOp h (hc nofun)
  | fmulLiteral => exact goes_floatOp h (hc nofun)
  | ffmaLiteral => exact goes_floatOp h (hc nofun)
  | fminLiteral => exact goes_minMaxOp h (hc nofun)
  | fmaxLiteral => exact goes_minMaxOp h (hc nofun)
  | fcmpLiteral => exact goes_fcmpOp h (hc nofun)
  | fscaleLiteral => exact goes_scaleOp h (hc nofun)
  | paddLiteral => exact goes_packedOp h (hc nofun)
  | pmulLiteral => exact goes_packedOp h (hc nofun)
  | pfmaLiteral => exact goes_packedOp h (hc nofun)
  | cvtLiteral => exact goes_cvtOp h (hc nofun)
  | sadd => exact goes_scalarOp h (hc nofun)
  | ssub => exact goes_scalarOp h (hc nofun)
  | smul => exact goes_scalarOp h (hc nofun)
  | sand => exact goes_scalarOp h (hc nofun)
  | sor => exact goes_scalarOp h (hc nofun)
  | sxor => exact goes_scalarOp h (hc nofun)
  | sshl => exact goes_scalarOp h (hc nofun)
  | sshr => exact goes_scalarOp h (hc nofun)
  | ssar => exact goes_scalarOp h (hc nofun)
  | smin => exact goes_scalarOp h (hc nofun)
  | smax => exact goes_scalarOp h (hc nofun)
  | scmp => exact goes_scalarOp h (hc nofun)
  | ssel => exact goes_sselOp h (hc nofun)
  | smov => exact goes_scalarOp h (hc nofun)
  | smovi => exact goes_scalarOp h (hc nofun)
  | sld => exact goes_execSld h (hc nofun)
  | readlane => exact goes_issue h (hc nofun) fun _ h2 => planKept_mk (kept_goOn h h2)
  | sbcast => exact goes_issue h (hc nofun) fun _ h2 => planKept_mk (kept_goOn h (coreKept_putLanes h2))
  | saddLiteral => exact goes_scalarOp h (hc nofun)
  | ssubLiteral => exact goes_scalarOp h (hc nofun)
  | smulLiteral => exact goes_scalarOp h (hc nofun)
  | sandLiteral => exact goes_scalarOp h (hc nofun)
  | sorLiteral => exact goes_scalarOp h (hc nofun)
  | sxorLiteral => exact goes_scalarOp h (hc nofun)
  | sshlLiteral => exact goes_scalarOp h (hc nofun)
  | sshrLiteral => exact goes_scalarOp h (hc nofun)
  | ssarLiteral => exact goes_scalarOp h (hc nofun)
  | sminLiteral => exact goes_scalarOp h (hc nofun)
  | smaxLiteral => exact goes_scalarOp h (hc nofun)
  | scmpLiteral => exact goes_scalarOp h (hc nofun)
  | sselLiteral => exact goes_sselOp h (hc nofun)
  | smovLiteral => exact goes_scalarOp h (hc nofun)
  | bra => exact goes_issueIn h (hc nofun) (fun _ h2 => planKept_mk (kept_branchTo h h2)) fun _ _ => kept_seqJump h
  | brp => exact goes_issue h (hc nofun) fun _ h2 => planKept_mk (kept_ite (kept_goOn h h2) (kept_done h h2))
  | call => exact goes_execCall h (hc nofun)
  | jmpi => exact goes_execJmpi h (hc nofun)
  | ret => exact goes_issueIn h (hc nofun) (fun _ h2 => planKept_mk (kept_branchTo h h2)) fun _ _ => kept_seqJump h
  | exit => exact goes_execExit h (hc nofun)
  | trap => exact goes_issue h (hc nofun) fun _ h2 => planKept_mk (kept_ite (kept_goOn h h2) (kept_trapTo h))
  | rconv => exact goes_issue h (hc nofun) fun _ h2 => planKept_mk (kept_settle (kept_updWarp (kept_done h h2)))
  | yield => exact goes_issue h (hc nofun) fun _ h2 => planKept_mk (kept_goOn h h2)
  | nop => exact goes_issueIn h (hc nofun) (fun _ h2 => planKept_mk (kept_goOn h h2)) fun _ _ => kept_updSeq h
  | sleep => exact goes_issue h (hc nofun) fun _ h2 => planKept_mk (kept_goOn h h2)
  | fork => exact goes_execFork h (hc nofun)
  | join_ => exact goes_execJoin h (hc nofun)
  | spawn => exact goes_execSpawn h (hc nofun)
  | ldPair => exact goes_loadOp h (hc nofun)
  | stPair => exact goes_storeOp h (hc nofun)
  | ldaPair => exact goes_loadOp h (hc nofun)
  | stlPair => exact goes_storeOp h (hc nofun)
  | atomPair => exact goes_atomOp h (hc nofun)
  | atomnPair => exact goes_atomOp h (hc nofun)
  | casPair => exact goes_atomOp h (hc nofun)
  | pref => exact goes_issue h (hc nofun) fun _ h2 => planKept_mk (kept_goOn h h2)
  | ldLocal => exact goes_loadOp h (hc nofun)
  | stLocal => exact goes_storeOp h (hc nofun)
  | ldaLocal => exact goes_loadOp h (hc nofun)
  | stlLocal => exact goes_storeOp h (hc nofun)
  | atomLocal => exact goes_atomOp h (hc nofun)
  | atomnLocal => exact goes_atomOp h (hc nofun)
  | casLocal => exact goes_atomOp h (hc nofun)
  | publish => exact goes_storeOp h (hc nofun)
  | fence => exact goes_issue h (hc nofun) fun _ h2 => planKept_mk (kept_fenceGo h h2)
  | fencex => exact goes_execFencex h (hc nofun)
  | rdenter => exact goes_execRdenter h (hc nofun)
  | rdexit => exact goes_execRdexit h (hc nofun)
  | retire => exact goes_issue h (hc nofun) fun _ h2 => planKept_mk (kept_externally h (kept_retireGo h))
  | grace => exact goes_issue h (hc nofun) fun _ h2 => planKept_mk (kept_ite (kept_goOn h h2) (kept_graceGo h h2))
  | append => exact goes_execAppend h (hc nofun)
  | acommit => exact goes_execAcommit h (hc nofun)
  | ahead => exact goes_execAhead h (hc nofun)
  | bara => exact goes_execBara h (hc nofun)
  | barw => exact goes_execBarw h (hc nofun)
  | bar => exact goes_execBar h (hc nofun)
  | wqpush => exact goes_issue h (hc nofun) fun _ h2 => planKept_mk (kept_externally h (kept_queueGo h))
  | wqpop => exact goes_issue h (hc nofun) fun _ h2 => planKept_mk (kept_externally h (kept_queueGo h))
  | chopenTx => exact goes_execChopenTx h (hc nofun)
  | chopenRx => exact goes_execChopenRx h (hc nofun)
  | chclose => exact goes_execChclose h (hc nofun)
  | send => exact goes_execSend h (hc nofun)
  | recv => exact goes_execRecv h (hc nofun)
  | chfence => exact goes_issue h (hc nofun) fun _ h2 => planKept_chanDrain h (kept_goOn h h2)
  | cpld => exact goes_copyOp h (hc nofun)
  | cpst => exact goes_copyOp h (hc nofun)
  | cpgather => exact goes_copyOp h (hc nofun)
  | cpscatter => exact goes_copyOp h (hc nofun)
  | cpfill => exact goes_copyOp h (hc nofun)
  | cppagein => exact goes_copyOp h (hc nofun)
  | cpstat => exact goes_issue h (hc nofun) fun _ h2 => planKept_mk (kept_goOn h (coreKept_putPair h2))
  | cphand => exact goes_copyOp h (hc nofun)
  | cpcancel => exact goes_execCpcancel h (hc nofun)
  | mclaim => exact goes_matrixOp h (hc nofun)
  | mrel => exact goes_matrixOp h (hc nofun)
  | mfill => exact goes_matrixOp h (hc nofun)
  | mfillArg => exact goes_execMfillArg h (hc nofun)
  | mzero => exact goes_matrixOp h (hc nofun)
  | mdrain => exact goes_matrixOp h (hc nofun)
  | mwait => exact goes_execMwait h (hc nofun)
  | mstat => exact goes_execMstat h (hc nofun)
  | mscl => exact goes_execMscl h (hc nofun)
  | mscacc => exact goes_matrixOp h (hc nofun)
  | mhad => exact goes_matrixOp h (hc nofun)
  | mmb => exact goes_matrixOp h (hc nofun)
  | mmaBf16 => exact goes_matrixOp h (hc nofun)
  | mmaF16 => exact goes_matrixOp h (hc nofun)
  | mmaI8 => exact goes_matrixOp h (hc nofun)
  | mmaP8 => exact goes_matrixOp h (hc nofun)
  | mmaE2m1 => exact goes_matrixOp h (hc nofun)
  | mmaMxp8 => exact goes_matrixOp h (hc nofun)
  | mmaMxe2m1 => exact goes_matrixOp h (hc nofun)
  | csrrd => exact goes_issue h (hc nofun) fun _ h2 => planKept_mk (kept_goOn h (coreKept_putLanes h2))
  | csrwr => exact goes_issue h (hc nofun) fun _ h2 => planKept_mk (kept_goOn h h2)
  | treturn => exact goes_issue h (hc nofun) fun _ h2 => planKept_mk (kept_settle (kept_updWarp (kept_done h h2)))
  | cycle => exact goes_issue h (hc nofun) fun _ h2 => planKept_mk (kept_goOn h (coreKept_putPair h2))
  | genq => exact goes_issue h (hc nofun) fun _ h2 => planKept_mk (kept_goOn h (coreKept_putPair h2))
  | dbgbrk => exact goes_execDbgbrk h (hc nofun)
  | ckpt => exact goes_execCkpt h (hc nofun)
  | rollbk => exact goes_execRollbk h (hc nofun)
  | sigrd => exact goes_issue h (hc nofun) fun _ h2 => planKept_mk (kept_goOn h (coreKept_putPair h2))
  | suspq => exact goes_execSuspq h (hc nofun)
  | spstat => exact goes_issue h (hc nofun) fun _ h2 => planKept_mk (kept_goOn h (coreKept_putLanes h2))
  | regacq => exact goes_issue h (hc nofun) fun _ h2 => planKept_mk (kept_done h (coreKept_frame h2))
  | regrel => exact goes_issue h (hc nofun) fun _ h2 => planKept_mk (kept_goOn h h2)
  | spbegin => exact goes_execSpbegin h (hc nofun)
  | spguess => exact goes_issue h (hc nofun) fun _ h2 => planKept_mk (kept_ite (kept_startRound h) (kept_goOn h h2))
  | spcmp => exact goes_execSpcmp h (hc nofun)
  | spend => exact goes_execSpend h (hc nofun)
  | powerOn => exact goes_execPowerOn h
  | registerWrite => exact goes_execRegisterWrite h
  | strikeReport => exact goes_execStrikeReport h
  | replayRestore => exact goes_execReplayRestore h
  | rollbackSheadRestore => exact goes_next (kept_finishRollback h)
  | agedEntryToHead => exact goes_execAgedEntryToHead h
  | overflowRejoin => exact goes_execOverflowRejoin h
  | faultRejoin => exact goes_execFaultRejoin h
  | workgroupAdmission => exact goes_execWorkgroupAdmission h
  | regacqGrant => exact goes_execRegacqGrant h
  | poolRootPush => exact goes_execPoolRootPush h
  | poolWarpForm => exact goes_execPoolWarpForm h
  | sequencerProgramStart => exact goes_execSequencerProgramStart h
  | translationWalkDone => exact goes_execTranslationWalkDone h
  | remoteWindowAccess => exact goes_execRemoteWindowAccess h
  | homeSliceServe => exact goes_execHomeSliceServe h
  | brineEntryLeave => exact goes_execBrineEntryLeave h
  | writeAck => exact goes_execWriteAck h
  | loadResponse => exact goes_execLoadResponse h
  | errorCompletion => exact goes_execErrorCompletion h
  | requestTimeoutExpiry => exact goes_execRequestTimeoutExpiry h
  | inboundAccess => exact goes_next (kept_inboundCome h)
  | inboundPeerAccess => exact goes_next (kept_inboundCome h)
  | channelDelivery => exact goes_execChannelDelivery h
  | copyCommandComplete => exact goes_execCopyCommandComplete h
  | pageInComplete => exact goes_execPageInComplete h
  | copyAsideComplete => exact goes_execCopyAsideComplete h
  | arrayOpStart => exact goes_execArrayOpStart h
  | gracePeriodStart => exact goes_execGracePeriodStart h
  | flipAdopt => exact goes_ite (goes_next h) (goes_next (kept_updCore h fun _ h2 => coreKept_frame h2))
  | flipAck => exact goes_ite (goes_next (kept_ackFar (kept_updVesper h))) (goes_next h)
  | drainPoll => exact goes_execDrainPoll h
  | gracePeriodComplete => exact goes_execGracePeriodComplete h
  | retireEntryAppend => exact goes_execRetireEntryAppend h
  | retireAction => exact goes_execRetireAction h
  | tagSweep => exact goes_next (kept_updCore h fun _ h2 => coreKept_frame h2)
  | generationRenewal => exact goes_execGenerationRenewal h
  | debugHalt => exact goes_next (kept_dbgWarp h)
  | debugResume => exact goes_next (kept_dbgWarp h)
  | debugRelease => exact goes_next (kept_dbgWarp h)
  | debugRead => exact goes_execDebugRead h
  | debugWrite => exact goes_execDebugWrite h
  | checkpointTake => exact goes_execCheckpointTake h
  | checkpointTaken => exact goes_execCheckpointTaken h
  | checkpointDeltaAck => exact goes_next (kept_updWg h)
  | checkpointCommit => exact goes_next (kept_commitReady h)
  | checkpointIntervalExpiry => exact goes_execCheckpointIntervalExpiry h
  | externalOpIssue => exact goes_execExternalOpIssue h
  | twinVote => exact goes_execTwinVote h
  | thirdCopyStart => exact goes_execThirdCopyStart h
  | preempt => exact goes_execPreempt h
  | contextSave => exact goes_execContextSave h
  | contextRestore => exact goes_execContextRestore h
  | launchComplete => exact goes_execLaunchComplete h
  | sleepExpiry => exact goes_execSleepExpiry h
  | meshArbitration => exact goes_execMeshArbitration h
  | packetUrgent => exact goes_execPacketUrgent h
  | pmodeModeWrite => exact goes_execPmodeModeWrite h
  | modeChangeDone => exact goes_execModeChangeDone h
  | pmodeRefusedClear => exact goes_next (kept_ite h (kept_pkg h id))
  | clkptWrite => exact goes_next (kept_putDev h)
  | clockStretchDone => exact goes_next (kept_updDev h)
  | hcshareWrite => exact goes_next (kept_ite (kept_shareTags (kept_putDev h)) (kept_putDev h))
  | cxlPortEnable => exact goes_execCxlPortEnable h
  | cxlPortDisable => exact goes_execCxlPortDisable h
  | cxlTrainingDone => exact goes_execCxlTrainingDone h
  | expWrite => exact goes_ite (goes_next (kept_frame h)) (goes_next h)
  | pwinWrite => exact goes_ite (goes_next (kept_frame h)) (goes_next h)
  | queueEnable => exact goes_ite (goes_next h) (goes_next (kept_updQueue h))
  | queueDisable => exact goes_ite (goes_next h) (goes_next (kept_updQueue h))
  | queueKick => exact goes_ite (goes_next h) (goes_ite (goes_next (kept_stopQueue h)) (goes_next (kept_updQueue h)))
  | packetFetch => exact goes_execPacketFetch h
  | launchPacket => exact goes_execLaunchPacket h
  | waitPacket => exact goes_execWaitPacket h
  | waitConditionMet => exact goes_execWaitConditionMet h
  | signalPacket => exact goes_execSignalPacket h
  | writeThenSignalPacket => exact goes_execWriteThenSignalPacket h
  | copyPacket => exact goes_execCopyPacket h
  | handoverPacket => exact goes_execHandoverPacket h
  | fencePacket => exact goes_execFencePacket h
  | dawnPacket => exact goes_execDawnPacket h
  | dawnRequest => exact goes_ite (goes_next h) (goes_next (kept_dawnSettle (kept_updDev h)))
  | launchAbort => exact goes_execLaunchAbort h
  | sliceExpiry => exact goes_ite (goes_next h) (goes_ite (goes_next (kept_endTurn h)) (goes_next (kept_updQueue h)))
  | stealRequest => exact goes_ite (goes_next h) (goes_next (kept_updQueue h))
  | queueOwnershipPass => exact goes_execQueueOwnershipPass h
  | queueReturnHome => exact goes_ite (goes_next (kept_passQueue h)) (goes_next h)
  | mailboxMessage => exact goes_ite (goes_next h) (goes_next (kept_updDie h))
  | invalPage => exact goes_next (kept_askInval h)
  | invalSpace => exact goes_next (kept_askInval h)
  | invalAll => exact goes_next (kept_askInval h)
  | invalComplete => exact goes_execInvalComplete h
  | resolveResolved => exact goes_next (kept_ite (kept_resolve h) h)
  | resolveUnresolvable => exact goes_next (kept_ite (kept_resolve h) h)
  | faultQueueConsume => exact goes_next (kept_ite (kept_fqDrain (kept_updDev h)) h)
  | faultQueueEnable => exact goes_ite (goes_next h) (goes_next (kept_fqDrain (kept_updDev h)))
  | poolReturnPush => exact goes_execPoolReturnPush h
  | repairApply => exact goes_execRepairApply h
  | repairApplyDone => exact goes_ite (goes_next (kept_updPkg (kept_applyRepair h) fun _ => ⟨rfl, rfl⟩)) (goes_next h)
  | rasRefusedClear => exact goes_next (kept_ite h (kept_updPkg h fun _ => ⟨rfl, rfl⟩))
  | imageLoad => exact goes_execImageLoad h
  | attestationRequest => exact goes_execAttestationRequest h
  | quoteWrite => exact goes_execQuoteWrite h
  | attdropClear => exact goes_next (kept_ite h (kept_updPkg h fun _ => ⟨rfl, rfl⟩))
  | pendretSet => exact goes_next (kept_ite h (kept_updStat h))
  | monitorSample => exact goes_execMonitorSample h
  | monitorClear => exact goes_next (kept_ite h (kept_updMonitor h))
  | monitorConfigure => exact goes_ite (goes_next h) (goes_next (kept_updMonitor h))
  | podReplay => exact goes_execPodReplay h
  | podmemWrite => exact goes_next (kept_putDev h)
  | peerLinkEnable => exact goes_ite (goes_next h) (goes_next (kept_updLink h))
  | peerLinkTrained => exact goes_ite (goes_next (kept_updLink h)) (goes_next h)
  | heartbeatSend => exact goes_execHeartbeatSend h
  | heartbeatTimeout => exact goes_ite (goes_next (kept_logError (kept_updLink h))) (goes_next h)
  | powerControlTick => exact goes_execPowerControlTick h
  | thermalStop => exact goes_ite (goes_next h) (goes_next (kept_logError (kept_updDie h)))
  | thermalRestart => exact goes_ite (goes_next h) (goes_next (kept_updDie h))
  | matrixOperationComplete => exact goes_ite (goes_next (kept_seqFinish (kept_updSeq h))) (goes_next h)
  | heartbeatReceive => exact goes_ite (goes_next (kept_updLink h)) (goes_next h)
  | peerLinkDisable => exact goes_next (kept_ite h (kept_updLink h))
  | peerTrafficRelay => exact goes_execPeerTrafficRelay h

/-! ### A list of deeds -/

/-- Every deed of a list goes on from every state that keeps what s holds to. -/
def DeedsGo (s : State) (fs : List Deed) : Prop := ∀ f ∈ fs, ∀ t, Kept s t → Goes s (f t)

theorem deedsGo_nil : DeedsGo s [] := fun _ hf => nomatch hf

theorem deedsGo_cons {f : Deed} {fs : List Deed} (h : ∀ {t}, Kept s t → Goes s (f t)) (hs : DeedsGo s fs) :
    DeedsGo s (f :: fs) := by
  intro g hg t ht
  rcases List.mem_cons.mp hg with rfl | hg
  · exact h ht
  · exact hs g hg t ht

theorem deedsGo_one {f : Deed} (h : ∀ {t}, Kept s t → Goes s (f t)) : DeedsGo s [f] := deedsGo_cons h deedsGo_nil

theorem deedsGo_append {fs gs : List Deed} (hf : DeedsGo s fs) (hg : DeedsGo s gs) : DeedsGo s (fs ++ gs) :=
  fun f h => (List.mem_append.mp h).elim (hf f) (hg f)

theorem deedsGo_map {α : Type} {g : α → Deed} {l : List α} (h : ∀ {a t}, Kept s t → Goes s (g a t)) :
    DeedsGo s (l.map g) := by
  intro f hf t ht
  obtain ⟨a, -, rfl⟩ := List.mem_map.mp hf
  exact h ht

theorem deedsGo_flatMap {α : Type} {g : α → List Deed} {l : List α} (h : ∀ a, DeedsGo s (g a)) :
    DeedsGo s (l.flatMap g) := by
  intro f hf
  obtain ⟨a, -, hf⟩ := List.mem_flatMap.mp hf
  exact h a f hf

theorem deedsGo_ite {p : Prop} [Decidable p] {fs gs : List Deed} (hf : DeedsGo s fs) (hg : DeedsGo s gs) :
    DeedsGo s (if p then fs else gs) := by
  split <;> assumption

/-! ### Issues -/

/-- The warp in a slot is there, and so are its workgroup and its launch. -/
def Launched (t : State) (c sl : Nat) : Prop :=
  ∃ w g l, t.warp? c sl = some w ∧ fget t.wgs w.wg = some g ∧ fget t.launches g.launch = some l

/-- A change of a core that keeps its warps keeps every warp. -/
theorem warp?_updCore {c d sl : Nat} {f : Core → Core} (hf : ∀ k, (f k).warps = k.warps) :
    (t.updCore c f).warp? d sl = t.warp? d sl := by
  by_cases hd : d = c
  · subst hd
    simp [State.warp?, hf]
  · simp [State.warp?, State.updCore, setCore_core_other _ _ hd]

/-- A line fetched into the instruction cache leaves the warps, the workgroups and the launches. -/
theorem fillLine_leaves {c space va : Nat} :
    (∀ d sl, (fillLine t c space va).warp? d sl = t.warp? d sl) ∧ (fillLine t c space va).wgs = t.wgs ∧
      (fillLine t c space va).launches = t.launches := by
  unfold fillLine
  split
  · exact ⟨fun _ _ => rfl, rfl, rfl⟩
  · dsimp only
    split
    · split
      · exact ⟨fun _ _ => warp?_updCore fun _ => rfl, rfl, rfl⟩
      · exact ⟨fun _ _ => rfl, rfl, rfl⟩
    · exact ⟨fun _ _ => rfl, rfl, rfl⟩

/-- So do an instruction's lines. -/
theorem fillWords_leaves {c space va n : Nat} :
    (∀ d sl, (fillWords t c space va n).warp? d sl = t.warp? d sl) ∧ (fillWords t c space va n).wgs = t.wgs ∧
      (fillWords t c space va n).launches = t.launches := by
  unfold fillWords
  generalize List.range n = is
  induction is generalizing t with
  | nil => exact ⟨fun _ _ => rfl, rfl, rfl⟩
  | cons i is ih =>
    obtain ⟨hw, hg, hl⟩ := fillLine_leaves (t := t) (c := c) (space := space) (va := va + 4 * i)
    obtain ⟨hw', hg', hl'⟩ := ih (t := fillLine t c space (va + 4 * i))
    exact ⟨fun d sl => (hw' d sl).trans (hw d sl), hg'.trans hg, hl'.trans hl⟩

theorem launched_fillLine {c sl d space va : Nat} (h : Launched t c sl) : Launched (fillLine t d space va) c sl := by
  obtain ⟨hw, hg, hl⟩ := fillLine_leaves (t := t) (c := d) (space := space) (va := va)
  simpa only [Launched, hw, hg, hl] using h

/-- A warp written over one of its own workgroup's stays launched. -/
theorem launched_setWarp {c sl : Nat} {w v : Warp} (h : Launched t c sl) (hv : t.warp? c sl = some v) (hw : w.wg = v.wg) :
    Launched (t.setWarp c sl w) c sl := by
  obtain ⟨v', g, l, hv', hg, hl⟩ := h
  cases hv.symm.trans hv'
  exact ⟨w, g, l, setWarp_warp .., by simpa [hw] using hg, hl⟩

/-- An entry of a launched warp can issue. -/
theorem canIssue_of_launched {c sl ei : Nat} {w : Warp} {e : Entry} (h : Launched t c sl) (hw : t.warp? c sl = some w)
    (he : w.frontier[ei]? = some e) : CanIssue { t with cur := .warp c sl ei } := by
  obtain ⟨w', g, l, hw', hg, hl⟩ := h
  cases hw.symm.trans hw'
  intro i
  have hw : State.warp? { t with cur := .warp c sl ei } c sl = some w := hw
  simp [ctxOf, hw, he, hg, hl]

theorem goes_issueInside {c sl ei g : Nat} {x : Wg} {opened : Option Double} (h : Kept s t) (hl : Launched t c sl) :
    Goes s (issueInside t c sl ei g x opened) := by
  unfold issueInside
  split
  · exact goes_next h
  · rename_i w hw
    split
    · exact goes_next h
    · rename_i e he
      split
      · exact goes_next h
      · split
        · rename_i ws _
          obtain ⟨hw', hg', hl'⟩ :=
            fillWords_leaves (t := t) (c := c) (space := warpSpace t x) (va := e.pc.toNat) (n := ws.length)
          have hf := kept_fillWords (c := c) (space := warpSpace t x) (va := e.pc.toNat) (n := ws.length) h
          have hlf : Launched (fillWords t c (warpSpace t x) e.pc.toNat ws.length) c sl := by
            simpa only [Launched, hw', hg', hl'] using hl
          dsimp only
          split
          · have hc := canIssue_of_launched hlf ((hw' c sl).trans hw) he
            exact goes_onNext (goes_exec (kept_frame hf) fun _ => hc) fun _ h => kept_afterIssue h
          · exact goes_next (kept_afterIssue (kept_trapEarly hf))
        · exact goes_next (kept_afterIssue (kept_fetchFails h))

theorem goes_issueWarp {c sl ei : Nat} (h : Kept s t) (hl : Launched t c sl) : Goes s (issueWarp t c sl ei) := by
  unfold issueWarp
  split
  · exact goes_next h
  · rename_i w hw
    have hk : Kept s (t.setWarp c sl (clearRetry w)) := kept_setWarp h
    have hlw : Launched (t.setWarp c sl (clearRetry w)) c sl := launched_setWarp hl hw rfl
    split
    · refine goes_ite (goes_issueInside hk hlw) ?_
      dsimp only
      split
      · exact goes_next hk
      · exact goes_next (kept_fetchFails hk)
      · exact goes_next (kept_trapEarly (kept_setWarp hk))
      · refine goes_issueInside (kept_setWarp (kept_fillLine hk))
          (launched_setWarp (v := clearRetry w) (launched_fillLine hlw) ?_ rfl)
        exact (fillLine_leaves.1 c sl).trans (setWarp_warp t c sl (clearRetry w))
    · exact goes_next h

/-- The pick of a quadrant is a launched warp (R36). -/
theorem launched_of_pickEntry {c sl ei : Nat} (h : pickEntry t c sl = some ei) : Launched t c sl := by
  unfold pickEntry at h
  split at h
  · cases h
  · rename_i w hw
    split at h
    · cases h
    · rename_i g hg
      split at h
      · cases h
      · rename_i hn
        have hi : wgIssues t w.wg g sl w = true := by
          by_contra hi
          exact hn (by simp [hi])
        simp only [wgIssues, Bool.and_eq_true] at hi
        obtain ⟨⟨⟨⟨⟨⟨-, hrun⟩, -⟩, -⟩, -⟩, -⟩, -⟩ := hi
        split at hrun
        · rename_i l hl
          exact ⟨w, g, l, hw, hg, hl⟩
        · cases hrun

/-- A choice by folding over a list is one of the list. -/
theorem mem_of_foldl_pick {α : Type} {f : Option α → α → Option α} {l : List α} {b : Option α} {x : α}
    (hf : ∀ b p, f b p = some p ∨ f b p = b) (h : l.foldl f b = some x) : x ∈ l ∨ b = some x := by
  induction l generalizing b with
  | nil => exact .inr h
  | cons p l ih =>
    rcases ih h with h | h
    · exact .inl (List.mem_cons_of_mem _ h)
    · rcases hf b p with hp | hp
      · exact .inl (by simp [Option.some.inj (hp.symm.trans h)])
      · exact .inr (hp.symm.trans h)

theorem launched_of_pickWarp {c q sl ei : Nat} (h : pickWarp t c q = some (sl, ei)) : Launched t c sl := by
  unfold pickWarp at h
  dsimp only at h
  split at h
  · cases h
  · obtain ⟨⟨sl', w, ei'⟩, hx, he⟩ := Option.map_eq_some_iff.mp h
    obtain ⟨rfl, rfl⟩ := Prod.mk.inj he
    have hm : (sl', w, ei') ∈ ((t.core c).warps.filter fun p => decide (quadOf p.1 = q)).filterMap fun p =>
        (pickEntry t c p.1).map fun e => (p.1, p.2, e) := by
      refine (mem_of_foldl_pick (fun b p => ?_) hx).elim (fun hm => ?_) nofun
      · cases b with
        | none => exact .inl rfl
        | some y => exact ite_eq_or_eq ..
      · split at hm
        · exact List.mem_of_mem_filter hm
        · exact List.mem_of_mem_filter hm
    obtain ⟨p, -, hp⟩ := List.mem_filterMap.mp hm
    obtain ⟨e, he, hp⟩ := Option.map_eq_some_iff.mp hp
    cases hp
    exact launched_of_pickEntry he

theorem launched_of_dueIssue {c sl ei : Nat} (h : dueIssue t = some (c, sl, ei)) : Launched t c sl := by
  obtain ⟨p, -, hp⟩ := List.exists_of_findSome?_eq_some h
  obtain ⟨q, -, hq⟩ := List.exists_of_findSome?_eq_some hp
  obtain ⟨e, he, hq⟩ := Option.map_eq_some_iff.mp hq
  cases hq
  exact launched_of_pickWarp he

theorem goes_seqInside {cl c : Nat} {x : Wg} (h : Kept s t) : Goes s (seqInside t cl c x) := by
  unfold seqInside
  dsimp only
  split
  · exact goes_next h
  · split
    · split
      · exact goes_onNext (goes_exec (kept_frame (kept_fillWords h)) fun _ => trivial) fun _ h => kept_frame h
      · exact goes_next (kept_seqEnd (kept_fillWords h))
    · exact goes_next (kept_seqFetchFails h)

theorem goes_issueSeq {cl : Nat} (h : Kept s t) : Goes s (issueSeq t cl) := by
  unfold issueSeq
  dsimp only
  split
  · exact goes_next h
  · split
    · exact goes_next h
    · have hq {c : Nat} : Kept s (t.updCore c fun k => { k with quads := 4 :: k.quads }) :=
        kept_updCore h fun _ hk => coreKept_frame hk
      refine goes_ite (goes_next h) ?_
      split
      · exact goes_seqInside hq
      · split
        · exact goes_ite (goes_next (kept_seqEnd hq)) (goes_seqInside (kept_updSeq (kept_fillLine hq)))
        · exact goes_next (kept_seqFetchFails hq)

/-! ### Moves -/

theorem deedsGo_rasEvents {o v : Nat} : DeedsGo s (rasEvents o v) :=
  deedsGo_ite (deedsGo_append (deedsGo_ite (deedsGo_one goes_execRasRefusedClear) deedsGo_nil)
      (deedsGo_ite (deedsGo_one goes_execRepairApply) deedsGo_nil)) <|
  deedsGo_ite (deedsGo_one goes_execRegisterWrite) <|
  deedsGo_ite (deedsGo_one goes_execImageLoad) <|
  deedsGo_ite (deedsGo_one goes_execAttestationRequest) <|
  deedsGo_ite (deedsGo_ite (deedsGo_one goes_execAttdropClear) deedsGo_nil) deedsGo_nil

theorem deedsGo_monitorEvents {d m v : Nat} : DeedsGo s (monitorEvents d m v) :=
  deedsGo_append (deedsGo_append (deedsGo_one goes_execMonitorConfigure)
      (deedsGo_ite (deedsGo_one goes_execMonitorClear) deedsGo_nil))
    (deedsGo_one goes_execRegisterWrite)

theorem deedsGo_dieRasEvents {d o v : Nat} : DeedsGo s (dieRasEvents d o v) :=
  deedsGo_ite (deedsGo_one goes_execRegisterWrite) <|
  deedsGo_ite (deedsGo_cons goes_execRegisterWrite (deedsGo_one goes_execRegisterWrite)) <|
  deedsGo_ite (deedsGo_one goes_execRegisterWrite) <|
  deedsGo_ite (deedsGo_cons goes_execRegisterWrite (deedsGo_one goes_execRegisterWrite)) <|
  deedsGo_ite (deedsGo_ite (deedsGo_one goes_execPendretSet) deedsGo_nil) <|
  deedsGo_ite deedsGo_monitorEvents deedsGo_nil

theorem deedsGo_rasWrites {off v : Nat} : DeedsGo s (rasWrites off v) :=
  deedsGo_ite deedsGo_rasEvents (deedsGo_ite deedsGo_dieRasEvents deedsGo_nil)

/-- An event is no instruction's word. -/
theorem view_of_isEvent {i : Instr} (h : isEvent i = true) : view i = .event := by
  unfold isEvent at h
  split at h
  · assumption
  · cases h

theorem goes_runMove {m : Move} (h : Kept s t) : Goes s (runMove t m) := by
  cases m with
  | event i =>
    show Goes s (if _ then _ else _)
    split
    · rename_i hi
      have hv := view_of_isEvent (Bool.and_eq_true_iff.mp hi).1
      exact goes_exec h fun hn => absurd hv hn
    · exact goes_next h
  | issue c sl e =>
    show Goes s (if _ then _ else _)
    split
    · rename_i hp
      exact goes_issueWarp h (launched_of_pickWarp hp)
    · exact goes_next h
  | sequencer => exact goes_issueSeq h
  | clock => exact goes_next (kept_tickDie h)
  | schedClock => exact goes_next (kept_tickSched h)
  | poison => exact goes_next (kept_frame h)
  | corrected => exact goes_next (kept_logError (kept_updDie h))
  | mailbox => exact goes_next (kept_updDie h)
  | poisonSlice => exact goes_next (kept_updCore h fun _ hk => coreKept_frame hk)
  | copyAhead => exact goes_next (kept_copyAhead h)
  | rasWrite => exact goes_ite (goes_next h) (goes_runWrites h deedsGo_rasWrites)
  | copyStep => exact goes_next (kept_copyStep h)
  | inbound => exact goes_next (kept_inboundRetry h)
  | registerRead => exact goes_next (kept_registerRead h)
  | companionWrite => exact goes_next (kept_companionWrite h)
  | meshWeights => exact goes_next (kept_meshWeights h)
  | slotFault => exact goes_next (kept_slotFault h)
  | matrixChunk => exact goes_next (kept_matrixChunk h)
  | faultySum => exact goes_next (kept_faultySum h)
  | pod => exact goes_next (kept_podHear h)

/-! ### The default move -/

theorem deedsGo_launchEvents {u : State} {l : Nat} {x : Launch} : DeedsGo s (launchEvents u l x) :=
  deedsGo_cons goes_execLaunchComplete <| deedsGo_cons goes_execReplayRestore <| deedsGo_cons goes_execWorkgroupAdmission <|
  deedsGo_one goes_execPoolRootPush

theorem deedsGo_wgEvents {u : State} {g : Nat} {x : Wg} : DeedsGo s (wgEvents u g x) :=
  deedsGo_append
    (deedsGo_cons goes_execRollbackSheadRestore <| deedsGo_cons goes_execCheckpointTaken <|
      deedsGo_cons goes_execCheckpointDeltaAck <| deedsGo_cons goes_execCheckpointCommit <| deedsGo_cons goes_execTwinVote <|
      deedsGo_cons goes_execCheckpointIntervalExpiry <| deedsGo_cons goes_execCheckpointTake <|
      deedsGo_cons goes_execExternalOpIssue <| deedsGo_cons goes_execContextSave <| deedsGo_cons goes_execBrineEntryLeave <|
      deedsGo_cons goes_execBrineEntryLeave <| deedsGo_cons goes_execBrineEntryLeave <|
      deedsGo_one goes_execBrineEntryLeave)
    (deedsGo_ite (deedsGo_map goes_execThirdCopyStart) deedsGo_nil)

theorem deedsGo_warpEvents {c sl : Nat} {w : Warp} : DeedsGo s (warpEvents c sl w) :=
  deedsGo_append
    (deedsGo_append
      (deedsGo_cons goes_execSleepExpiry <| deedsGo_cons goes_execOverflowRejoin <| deedsGo_one goes_execFaultRejoin)
      (deedsGo_map goes_execAgedEntryToHead))
    (deedsGo_cons goes_execGenerationRenewal <| deedsGo_cons goes_execGenerationRenewal <| deedsGo_one goes_execGenerationRenewal)

theorem deedsGo_coreEvents {c : Nat} {k : Core} : DeedsGo s (coreEvents c k) :=
  deedsGo_append (deedsGo_append (deedsGo_append (deedsGo_append
    (deedsGo_flatMap fun _ => deedsGo_warpEvents) (deedsGo_map goes_execRegacqGrant)) (deedsGo_map goes_execPoolWarpForm))
    (deedsGo_map goes_execTranslationWalkDone)) (deedsGo_map goes_execCopyCommandComplete)

theorem deedsGo_reqEvents {r : Req} : DeedsGo s (reqEvents r) :=
  deedsGo_cons goes_execHomeSliceServe <| deedsGo_cons goes_execRemoteWindowAccess <| deedsGo_cons goes_execChannelDelivery <|
  deedsGo_cons goes_execRetireEntryAppend <| deedsGo_one goes_execRequestTimeoutExpiry

theorem deedsGo_msgEvents {u : State} : DeedsGo s (msgEvents u) :=
  deedsGo_map fun {p} _ h => by
    generalize p.1.kind = kind
    cases kind with
    | ack => exact goes_execWriteAck h
    | value => exact goes_execLoadResponse h
    | error => exact goes_execErrorCompletion h

theorem deedsGo_vesperEvents {u : State} {k : Nat} : DeedsGo s (vesperEvents u k) :=
  deedsGo_append (deedsGo_append (deedsGo_flatMap fun _ => deedsGo_map goes_execFlipAdopt)
      (deedsGo_flatMap fun _ => deedsGo_map goes_execFlipAck))
    (deedsGo_cons goes_execGracePeriodComplete <| deedsGo_one goes_execGracePeriodStart)

theorem deedsGo_devEvents {u : State} {k : Nat} {d : Dev} : DeedsGo s (devEvents u k d) :=
  deedsGo_append (deedsGo_append (deedsGo_append
    (deedsGo_cons goes_execInvalComplete <| deedsGo_cons goes_execRetireAction <| deedsGo_cons goes_execPoolReturnPush <|
      deedsGo_one goes_execClockStretchDone)
    (deedsGo_map goes_execPageInComplete)) (deedsGo_map goes_execCopyAsideComplete)) deedsGo_vesperEvents

theorem goes_packetEvent {k q : Nat} {p : QPacket} (h : Kept s t) : Goes s (packetEvent k q p t) := by
  unfold packetEvent
  generalize p.type = n
  match n with
  | 1 => exact goes_execLaunchPacket h
  | 2 => exact goes_execWaitPacket h
  | 3 => exact goes_execSignalPacket h
  | 4 => exact goes_execWriteThenSignalPacket h
  | 5 => exact goes_execCopyPacket h
  | 6 => exact goes_execHandoverPacket h
  | 7 => exact goes_execFencePacket h
  | 0 | _ + 8 => exact goes_execDawnPacket h

theorem deedsGo_queueEvents {u : State} : DeedsGo s (queueEvents u) := by
  refine deedsGo_append (deedsGo_append (deedsGo_flatMap fun p => deedsGo_append ?_ ?_) (deedsGo_flatMap fun p => ?_))
    (deedsGo_map goes_execPacketFetch)
  · cases p.2.cur with
    | none => exact deedsGo_nil
    | some x => exact deedsGo_one goes_packetEvent
  · exact deedsGo_ite (deedsGo_one goes_execHandoverPacket) deedsGo_nil
  · exact deedsGo_cons goes_execSliceExpiry <| deedsGo_cons goes_execQueueOwnershipPass <| deedsGo_one goes_execQueueReturnHome

theorem deedsGo_clusterEvents {cl : Nat} : DeedsGo s (clusterEvents cl) :=
  deedsGo_cons goes_execMatrixOperationComplete <| deedsGo_cons goes_execArrayOpStart <|
  deedsGo_one goes_execSequencerProgramStart

theorem deedsGo_meshEvents {d : Nat} {x : Die} : DeedsGo s (meshEvents d x) :=
  deedsGo_flatMap fun _ => deedsGo_append (deedsGo_map goes_execPacketUrgent) (deedsGo_map goes_execMeshArbitration)

/-- Every event that may be due goes on. -/
theorem deedsGo_autoEvents {u : State} : DeedsGo s (autoEvents u) := by
  unfold autoEvents
  iterate 14 refine deedsGo_append ?_ ?_
  · exact deedsGo_flatMap fun _ => deedsGo_launchEvents
  · exact deedsGo_flatMap fun _ => deedsGo_wgEvents
  · exact deedsGo_flatMap fun _ => deedsGo_coreEvents
  · exact deedsGo_map goes_execGenerationRenewal
  · exact deedsGo_msgEvents
  · exact deedsGo_flatMap fun _ => deedsGo_reqEvents
  · exact deedsGo_flatMap fun _ => deedsGo_meshEvents
  · exact deedsGo_flatMap fun _ => deedsGo_clusterEvents
  · exact deedsGo_flatMap fun _ => deedsGo_devEvents
  · exact deedsGo_queueEvents
  · exact deedsGo_map fun h => goes_next (kept_inboundRetry h)
  · exact deedsGo_cons goes_execModeChangeDone <| deedsGo_cons goes_execRepairApplyDone <| deedsGo_one goes_execQuoteWrite
  · exact deedsGo_flatMap fun _ => deedsGo_map goes_execMonitorSample
  · exact deedsGo_map goes_execHeartbeatSend
  · exact deedsGo_map goes_execHeartbeatTimeout

theorem goes_autoMove (h : Kept s t) : Goes s (autoMove t) := by
  unfold autoMove
  split
  · exact goes_next (OptKept.of_eq (optKept_dueEvent fun f hf => deedsGo_autoEvents f hf t h) ‹_›)
  · split
    · exact goes_issueWarp h (launched_of_dueIssue ‹_›)
    · split
      · exact goes_issueSeq h
      · exact goes_next (kept_tickAll h)

/-- Every step goes on, with a state that keeps what s holds to. -/
theorem goes_step (h : Kept s t) : Goes s (step t) := by
  unfold step
  split
  · exact goes_runMove (kept_frame h)
  · exact goes_autoMove h

end

/-- Settles O6: no step, from a state of ordered maps, leaves them otherwise. -/
theorem stepKeepsMapsOrdered : Obligations.StepKeepsMapsOrdered := by
  unfold Obligations.StepKeepsMapsOrdered
  intro s t hs ht
  exact ((goes_step (kept_refl s)).of_eq ht).ordered hs

end Sys2Proof.Proofs
end

section
/-! A step runs the instruction decoded at the PC, a sequencer's word or an event, and goes on. -/

namespace Sys2Proof.Proofs

open Sys2Proof.Machine Sys2Proof.Safety

section
variable {s : State}

/-- The words fetched at an entry inside its clause, decoded, run. -/
theorem issueInside_runs {c sl ei n : Nat} {w : Warp} {x : Wg} {e : Entry} {cl : Clause} {ws : List Word} {i : Instr}
    {opened : Option Double} (g : Nat) (hw : s.warp? c sl = some w) (he : w.frontier[ei]? = some e) (hcl : e.clause = some cl)
    (hf : fetchInstr s c (warpSpace s x) cl e.pc = .ok ws) (hd : decode false cl.page ws = .ok (i, n)) :
    issueInside s c sl ei g x opened =
      onNext (afterIssue c sl g opened)
        (exec i { fillWords s c (warpSpace s x) e.pc.toNat ws.length with cur := .warp c sl ei }) := by
  simp only [issueInside, hw, he, hcl, hf, hd]

/-- An entry that does not wait at its clause's header stands where it is. -/
theorem standing_of_not_waits {c space : Nat} {e : Entry} (h : e.waits = false) : standing s c space e = e := by
  unfold standing
  split
  · simp [h]
  · rfl

theorem issueWarp_runsAt {c sl ei : Nat} : Claims.RunsAt (issueWarp s c sl ei) s c sl ei := by
  intro w g e cl ws i n hw hg he hcl hwait hf hd
  unfold issueWarp
  simp only [hw, hg, he, standing_of_not_waits hwait, hcl, hwait, Option.isSome_some, Bool.not_false, Bool.and_self, if_true]
  exact issueInside_runs w.wg (setWarp_warp ..) he hcl hf hd

theorem issueWarp_runsFromHeader {c sl ei : Nat} : Claims.RunsFromHeader (issueWarp s c sl ei) s c sl ei := by
  intro w g e e' cl h ws i n hw hg he hcl hgo w' ei' s' he' hcl' hf hd
  have hsp : warpSpace (s.setWarp c sl (clearRetry w)) g = warpSpace s g := rfl
  have hst : standing (s.setWarp c sl (clearRetry w)) c (warpSpace s g) e = e := by
    simp only [standing, hcl]
  have hhdr : hdrOf e = e.pc := by simp only [hdrOf, hcl]
  have hchk : checked e = false := by simp only [checked, hcl]
  have hpc : (openEntry e h).pc = e.pc + 4 := by simp only [openEntry, hcl]
  have hs : issueWarp s c sl ei = issueInside s' c sl ei' w.wg g (some e.pc) := by
    unfold issueWarp
    simp only [hw, hg, hsp, he, hst, hcl, hhdr, hchk, hgo, hpc, Option.isSome_none, Bool.false_and, Bool.false_eq_true, if_false]
    rfl
  have hw' : s'.warp? c sl = some w' := setWarp_warp ..
  rw [hs]
  exact issueInside_runs w.wg hw' he' hcl' hf hd

theorem stepRunsInstruction : Parts.StepRunsInstruction := by
  refine ⟨fun s rest c sl ei ha hp => ?_, fun s c sl ei ha hd hi => ?_⟩
  · have hs : step s = issueWarp { s with agenda := rest } c sl ei := by
      simp only [step, ha, runMove, hp, if_true]
    exact hs ▸ ⟨issueWarp_runsAt, issueWarp_runsFromHeader⟩
  · have hs : step s = issueWarp s c sl ei := by
      simp only [step, ha, autoMove, hd, hi]
    exact hs ▸ ⟨issueWarp_runsAt, issueWarp_runsFromHeader⟩

theorem stepRunsSequencerWord : Parts.StepRunsSequencerWord := by
  intro s rest cl c g x k ws i n ha hi hc hx hk s' hf hd
  have hi : seqIssues { s with agenda := rest } cl = true := hi
  have hq : State.seq { s with agenda := rest } cl = s.seq cl := rfl
  simp only [step, ha, runMove, issueSeq, hq, hc, hx, hi, hk]
  show seqInside s' cl c x = _
  have hq : s'.seq cl = s.seq cl := rfl
  simp only [seqInside, hq, hk, hf, hd]

theorem stepRunsEvent : Parts.StepRunsEvent := by
  intro s rest i ha hi s'
  have hs : step s = if isEvent i && !(isRegWrite i && companionWaits s') then exec i s' else .next s' := by
    simp only [step, ha, runMove, s']
  rw [hs, hi]
  refine ⟨fun h => ?_, fun hr hw => ?_⟩
  · rcases h with h | h <;> simp [h]
  · simp [hr, hw]

theorem stepGoesOn : Parts.StepGoesOn := by
  intro s
  obtain ⟨t, ht, -⟩ := goes_step (kept_refl s)
  rw [ht]
  rfl

end

/-- Settles O4: a step of each kind unfolds to the instruction's or event's meaning, and every step goes on as it keeps. -/
theorem stepRuns : Obligations.StepRuns := ⟨stepRunsInstruction, stepRunsSequencerWord, stepRunsEvent, stepGoesOn⟩

end Sys2Proof.Proofs
end

section
/-! The frontier's moves: an aged entry goes to the head, a sleeping warp wakes, parked lanes rejoin. -/

namespace Sys2Proof.Proofs

open Sys2Proof.Machine Sys2Proof.Safety

/-! ### Sorting -/

/-- Insertion adds one member. -/
theorem insertBy_perm {α : Type} (lt : α → α → Bool) (x : α) (l : List α) : (insertBy lt x l).Perm (x :: l) := by
  induction l with
  | nil => exact .refl _
  | cons y ys ih =>
    unfold insertBy
    split
    · exact .refl _
    · exact (ih.cons y).trans (.swap x y ys)

/-- Sorting keeps the members, each as often. -/
theorem sortBy_perm {α : Type} (lt : α → α → Bool) (l : List α) : (sortBy lt l).Perm l := by
  induction l with
  | nil => exact .refl _
  | cons x xs ih => exact (insertBy_perm _ x _).trans (ih.cons x)

/-- Sorting by an order that agrees with a rank sorts by the rank. -/
theorem sortBy_ranked {α β : Type} [LinearOrder β] {lt : α → α → Bool} (r : α → β)
    (hle : ∀ x y, lt x y = true → r x ≤ r y)
    (hlt : ∀ x y, r x < r y → lt x y = true) (l : List α) : (sortBy lt l).Pairwise fun x y => r x ≤ r y := by
  have insert (x : α) (ys : List α) (h : ys.Pairwise fun x y => r x ≤ r y) :
      (insertBy (fun a b => !(lt b a)) x ys).Pairwise fun x y => r x ≤ r y := by
    induction ys with
    | nil => simp [insertBy]
    | cons y ys ih =>
      obtain ⟨hy, hys⟩ := List.pairwise_cons.mp h
      unfold insertBy
      split
      · rename_i hxy
        have hxy : r x ≤ r y := by
          by_contra hc
          simp [hlt y x (lt_of_not_ge hc)] at hxy
        exact List.pairwise_cons.mpr ⟨fun z hz => (List.mem_cons.mp hz).elim (· ▸ hxy) fun hz => hxy.trans (hy z hz), h⟩
      · rename_i hxy
        have hyx : r y ≤ r x := hle y x (by simpa using hxy)
        refine List.pairwise_cons.mpr ⟨fun z hz => ?_, ih hys⟩
        rcases (mem_insertBy _ _ _ _).mp hz with rfl | hz
        · exact hyx
        · exact hy z hz
  induction l with
  | nil => exact .nil
  | cons x xs ih => exact insert x _ ih

/-- Merging entries that stand apart adds one after the other. -/
theorem foldl_merge_apart (es acc : List Entry) (hpc : ((acc ++ es).map Entry.pc).Nodup) (hm : ∀ e ∈ es, e.mask ≠ 0) :
    es.foldl mergeEntry acc = acc ++ es := by
  induction es generalizing acc with
  | nil => simp
  | cons e es ih =>
    have hne : acc.any (fun x => decide (x.pc = e.pc)) = false := by
      simp only [List.any_eq_false, decide_eq_true_eq]
      intro x hx he
      simp only [List.map_append, List.map_cons, List.nodup_append] at hpc
      exact hpc.2.2 x.pc (List.mem_map_of_mem hx) e.pc (List.mem_cons_self ..) he
    have hstep : mergeEntry acc e = acc ++ [e] := by
      have hme : ¬e.mask = 0 := hm e (List.mem_cons_self ..)
      simp only [mergeEntry, hne, if_neg hme, Bool.false_eq_true, if_false]
    rw [List.foldl_cons, hstep, ih _ (by simpa using hpc) fun x hx => hm x (List.mem_cons_of_mem _ hx)]
    simp

/-- Merging makes no more entries than there are. -/
theorem foldl_merge_length (es acc : List Entry) : (es.foldl mergeEntry acc).length ≤ acc.length + es.length := by
  induction es generalizing acc with
  | nil => simp
  | cons e es ih =>
    have hstep : (mergeEntry acc e).length ≤ acc.length + 1 := by
      unfold mergeEntry
      split
      · omega
      · split <;> simp
    have := ih (mergeEntry acc e)
    simp only [List.foldl_cons, List.length_cons]
    omega

/-! ### Ageing -/

/-- Where R17 puts an entry: the aged ones as they aged, then the others. -/
def agedRank (e : Entry) : WithTop Nat :=
  match e.aged with
  | some n => n
  | none => ⊤

theorem agedRank_le_of_entryLt (x y : Entry) (h : entryLt x y = true) : agedRank x ≤ agedRank y := by
  unfold entryLt at h
  unfold agedRank
  cases hx : x.aged <;> cases hy : y.aged <;> simp only [hx, hy, decide_eq_true_eq] at h ⊢
  · exact le_refl _
  · cases h
  · exact le_top
  · exact_mod_cast h.le

theorem entryLt_of_agedRank_lt (x y : Entry) (h : agedRank x < agedRank y) : entryLt x y = true := by
  unfold agedRank at h
  unfold entryLt
  cases hx : x.aged <;> cases hy : y.aged <;> simp only [hx, hy] at h ⊢
  · exact absurd h (lt_irrefl _)
  · exact absurd h not_top_lt
  · exact decide_eq_true (by exact_mod_cast h)

/-- Tidying entries that stand apart only sorts them. -/
theorem tidy_apart {es : List Entry} (hpc : (es.map Entry.pc).Nodup) (hm : ∀ e ∈ es, e.mask ≠ 0) :
    tidy es = sortBy entryLt es := by
  simpa [tidy] using congrArg (sortBy entryLt) (foldl_merge_apart es [] (by simpa using hpc) hm)

/-- Replacing a member. -/
theorem setAt_eq_set {α : Type} (l : List α) (n : Nat) (x : α) : setAt l n x = l.set n x := by
  induction l generalizing n with
  | nil => rfl
  | cons y ys ih => cases n <;> simp [setAt, ih]

/-- The aged entry stands behind the entries aged before it and before all others (R17). -/
theorem agedToHead_place {c sl n : Nat} {s : State} {w : Warp} {e : Entry} (hw : s.warp? c sl = some w)
    (he : w.frontier[n]? = some e) (hage : 1024 ≤ e.age) (hnone : e.aged = none) (hpc : (w.frontier.map Entry.pc).Nodup)
    (hall : ∀ y ∈ w.frontier, y.mask ≠ 0 ∧ ∀ a, y.aged = some a → a < w.nextSeq) :
    ∃ (fr : List Entry) (i : Nat),
      exec (.agedEntryToHead c sl n) s = .next (s.setWarp c sl { w with frontier := fr, nextSeq := w.nextSeq + 1 }) ∧
      fr[i]? = some { e with aged := some w.nextSeq } ∧
      (∀ y, y ∈ fr ↔ y = { e with aged := some w.nextSeq } ∨ (y ∈ w.frontier ∧ y.pc ≠ e.pc)) ∧
      ∀ (j : Nat) (y : Entry), fr[j]? = some y → (j < i → Entry.aged y ≠ none) ∧ (i < j → Entry.aged y = none) := by
  obtain ⟨hn, rfl⟩ := List.getElem?_eq_some_iff.mp he
  set e := w.frontier[n]
  set e' : Entry := { e with aged := some w.nextSeq }
  set es := w.frontier.set n e'
  have hes : es.map Entry.pc = w.frontier.map Entry.pc := by
    rw [List.map_set]
    exact List.set_getElem_self (as := w.frontier.map Entry.pc) (by simpa using hn) ▸ by simp [e', e]
  have hmem (y : Entry) : y ∈ es ↔ y = e' ∨ (y ∈ w.frontier ∧ y.pc ≠ e.pc) := by
    have apart (j : Nat) (hj : j < w.frontier.length) : w.frontier[j].pc = e.pc ↔ j = n := by
      have h := hpc.getElem_inj_iff (i := j) (j := n) (hi := by simpa using hj) (hj := by simpa using hn)
      simpa using h
    constructor
    · intro hy
      obtain ⟨j, hj, rfl⟩ := List.mem_iff_getElem.mp hy
      rw [List.length_set] at hj
      by_cases hjn : j = n
      · exact .inl (by simp [es, hjn])
      · have hy : es[j] = w.frontier[j] := by simp [es, Ne.symm hjn]
        exact .inr ⟨hy ▸ List.getElem_mem hj, fun h => hjn ((apart j hj).mp (hy ▸ h))⟩
    · rintro (rfl | ⟨hy, hne⟩)
      · exact List.mem_set hn e'
      · obtain ⟨j, hj, rfl⟩ := List.mem_iff_getElem.mp hy
        have hjn : n ≠ j := fun h => hne ((apart j hj).mpr h.symm)
        exact List.mem_iff_getElem.mpr ⟨j, by simpa [es] using hj, by simp [es, hjn]⟩
  have hnd : (es.map Entry.pc).Nodup := hes ▸ hpc
  have hmask : ∀ y ∈ es, y.mask ≠ 0 := by
    intro y hy
    rcases (hmem y).mp hy with rfl | ⟨hy, -⟩
    · exact (hall e (List.getElem_mem hn)).1
    · exact (hall y hy).1
  have htidy := tidy_apart hnd hmask
  have hsorted := sortBy_ranked agedRank agedRank_le_of_entryLt entryLt_of_agedRank_lt es
  have hperm := sortBy_perm entryLt es
  obtain ⟨i, hi, hei⟩ := List.mem_iff_getElem.mp (hperm.mem_iff.mpr ((hmem e').mpr (.inl rfl)))
  refine ⟨sortBy entryLt es, i, ?_, by simp [hei, hi], fun y => hperm.mem_iff.trans (hmem y), fun j y hj => ?_⟩
  · have hx : ¬(e.age < Config.ageBound ∨ e.aged.isSome) := by simp [hnone, Config.ageBound, hage]
    show execAgedEntryToHead c sl n s = _
    simp only [execAgedEntryToHead, hw, he, setAt_eq_set]
    rw [if_neg hx, htidy]
  · obtain ⟨hjl, hy⟩ := List.getElem?_eq_some_iff.mp hj
    have hrank : agedRank e' = ((w.nextSeq : Nat) : WithTop Nat) := rfl
    constructor
    · intro hji hnone'
      have h := List.pairwise_iff_getElem.mp hsorted j i hjl hi hji
      rw [hy, hei, hrank, agedRank, hnone'] at h
      exact absurd (top_le_iff.mp h) (WithTop.coe_ne_top)
    · intro hij
      have h := List.pairwise_iff_getElem.mp hsorted i j hi hjl hij
      rw [hy, hei, hrank, agedRank] at h
      rcases (hmem y).mp (hperm.mem_iff.mp (hy ▸ List.getElem_mem hjl)) with rfl | ⟨hyf, -⟩
      · have hnd' := (hperm.map Entry.pc).nodup_iff.mpr hnd
        have := (hnd'.getElem_inj_iff (i := i) (j := j) (hi := by simpa using hi) (hj := by simpa using hjl)).mp
          (by simp [hei, hy])
        omega
      · cases ha : y.aged with
        | none => rfl
        | some a =>
          have := (hall y hyf).2 a ha
          simp only [ha, Nat.cast_le] at h
          omega

/-! ### Rejoining -/

/-- Settling a warp written changes only its frontier, and keeps every lane at its address. -/
theorem settle_setWarp (s : State) (c sl : Nat) (w : Warp) :
    ∃ fr, settle (s.setWarp c sl w) c sl = s.setWarp c sl { w with frontier := fr } ∧
      ∀ l, ∀ e ∈ w.frontier, hasLane e.mask l = true → ∃ y ∈ fr, hasLane y.mask l = true ∧ y.pc = e.pc :=
  settle_shape s c sl (s.core c) w

/-- Where there is room, giving a warp entries parks none. -/
theorem setFrontier_room {w : Warp} {es : List Entry} (h : es.length + w.held.length ≤ 8) :
    ∃ fr hd, setFrontier w es = { w with frontier := fr, held := hd } ∧
      ∀ e ∈ es, ∀ l, hasLane e.mask l = true → ∃ y ∈ fr, hasLane y.mask l = true ∧ y.pc = e.pc := by
  let all := sortBy (fun a b => prioLt a.1 b.1) ((es.foldl mergeEntry []).map (·, false) ++ w.held.map (·, true))
  have hlen : all.length ≤ 8 := by
    have := foldl_merge_length es []
    simp only [all, (sortBy_perm _ _).length_eq, List.length_append, List.length_map]
    simp only [List.length_nil] at this
    omega
  have hdrop : all.drop 8 = [] := List.drop_eq_nil_of_le hlen
  have htake : all.take 8 = all := List.take_of_length_le hlen
  refine ⟨sortBy entryLt ((all.filter fun p => !p.2).map Prod.fst),
    sortBy entryLt ((all.filter fun p => p.2).map Prod.fst), ?_, ?_⟩
  · simp only [setFrontier]
    simp only [all] at hdrop htake
    simp [all, hdrop, htake]
  · intro e he l hl
    obtain ⟨y, hy, hp, hm⟩ := merged_keeps es l e he hl
    refine ⟨y, ?_, hm, hp⟩
    simp only [mem_sortBy, List.mem_map, List.mem_filter]
    exact ⟨(y, false), ⟨by simp [all, mem_sortBy, hy], rfl⟩, rfl⟩

/-- The oldest of some park records is the one with the least number. -/
theorem oldestPark_eq {w : Warp} {ok : Park → Bool} {p : Park} (hp : p ∈ w.parks) (hok : ok p = true)
    (hmin : ∀ q ∈ w.parks, ok q = true → q ≠ p → p.seq < q.seq) : oldestPark w ok = some p := by
  have fold (ps : List Park) (b : Option Park) (hps : ∀ q ∈ ps, q ≠ p → p.seq < q.seq)
      (hb : ∀ q, b = some q → q ≠ p → p.seq < q.seq) (h : p ∈ ps ∨ b = some p) :
      ps.foldl (fun b p => match b with | some q => if p.seq < q.seq then some p else b | none => some p) b = some p := by
    induction ps generalizing b with
    | nil => exact h.resolve_left (List.not_mem_nil)
    | cons q ps ih =>
      have hq := hps q (List.mem_cons_self ..)
      refine ih _ (fun r hr => hps r (List.mem_cons_of_mem _ hr)) (fun r hr hne => ?_) ?_
      · cases b with
        | none => exact Option.some.inj hr ▸ hq (Option.some.inj hr ▸ hne)
        | some x =>
          dsimp only at hr
          split at hr
          · exact Option.some.inj hr ▸ hq (Option.some.inj hr ▸ hne)
          · exact hb r hr hne
      · rcases h with h | rfl
        · rcases List.mem_cons.mp h with rfl | h
          · cases b with
            | none => exact .inr rfl
            | some x =>
              by_cases hx : x = p
              · subst hx
                exact .inr (by simp)
              · exact .inr (if_pos (hb x rfl hx))
          · exact .inl h
        · by_cases hqp : q = p
          · subst hqp
            exact .inr (by simp)
          · exact .inr (if_neg (not_lt_of_gt (hq hqp)))
  exact fold _ none (fun q hq => hmin q (List.mem_filter.mp hq).1 (List.mem_filter.mp hq).2) nofun
    (.inl (List.mem_filter.mpr ⟨hp, hok⟩))

/-- What a warp is in when the lanes of a park record stand in it again (R19). -/
def Rejoined (s : State) (c sl : Nat) (w : Warp) (p : Park) (t : State) : Prop :=
  ∃ fr hd,
    t = s.setWarp c sl { w with frontier := fr, held := hd, parks := w.parks.filter fun q => decide (q.seq ≠ p.seq) } ∧
    (∀ e ∈ w.frontier, ∀ l, hasLane e.mask l = true → laneAt t c sl l e.pc) ∧
    (if w.handler = 0 ∨ p.mask &&& w.handler ≠ 0 then ∀ l, hasLane p.mask l = true → laneAt t c sl l p.pc
     else ∀ l, hasLane p.mask l = true → ∃ e ∈ hd, hasLane e.mask l = true ∧ e.pc = p.pc)

/-- Lanes of a frontier written stand where their entries do. -/
theorem laneAt_setWarp {s : State} {c sl l : Nat} {w : Warp} {pc : Double}
    (h : ∃ y ∈ w.frontier, hasLane y.mask l = true ∧ y.pc = pc) :
    laneAt (s.setWarp c sl w) c sl l pc :=
  ⟨w, setWarp_warp .., .inl h⟩

theorem rejoin_rejoined {s : State} {c sl : Nat} {w : Warp} {p : Park} (hroom : w.frontier.length + w.held.length ≤ 7) :
    Rejoined s c sl w p (rejoin s c sl w p) := by
  obtain ⟨hepc, hemask⟩ := withPrio_keeps s c w.wg (parkEntryBack p)
  have hepc : (withPrio s c w.wg (parkEntryBack p)).pc = p.pc := hepc
  have hemask : (withPrio s c w.wg (parkEntryBack p)).mask = p.mask := hemask
  unfold rejoin
  dsimp only
  split
  · rename_i hh
    obtain ⟨fr, hd, hset, hfr⟩ := setFrontier_room
      (w := { w with parks := w.parks.filter fun q => decide (q.seq ≠ p.seq) })
      (es := w.frontier ++ [withPrio s c w.wg (parkEntryBack p)]) (by simp; omega)
    rw [hset]
    obtain ⟨fr', hs, hfr'⟩ := settle_setWarp s c sl
      { w with frontier := fr, held := hd, parks := w.parks.filter fun q => decide (q.seq ≠ p.seq) }
    have stands (e : Entry) (he : e ∈ w.frontier ++ [withPrio s c w.wg (parkEntryBack p)]) (l : Nat)
        (hl : hasLane e.mask l = true) : ∃ y ∈ fr', hasLane y.mask l = true ∧ y.pc = e.pc := by
      obtain ⟨y, hy, hyl, hyp⟩ := hfr e he l hl
      obtain ⟨z, hz, hzl, hzp⟩ := hfr' l y hy hyl
      exact ⟨z, hz, hzl, hzp.trans hyp⟩
    refine ⟨fr', hd, hs, fun e he l hl => ?_, ?_⟩
    · rw [hs]
      exact laneAt_setWarp (stands e (List.mem_append_left _ he) l hl)
    · rw [if_pos hh, hs]
      intro l hl
      have := stands _ (List.mem_append_right _ (List.mem_singleton_self _)) l (hemask ▸ hl)
      exact laneAt_setWarp (hepc ▸ this)
  · rename_i hh
    obtain ⟨fr, hs, hfr⟩ := settle_setWarp s c sl
      { w with
        parks := w.parks.filter fun q => decide (q.seq ≠ p.seq)
        held := tidy (w.held ++ [withPrio s c w.wg (parkEntryBack p)]) }
    refine ⟨fr, _, hs, fun e he l hl => ?_, ?_⟩
    · rw [hs]
      exact laneAt_setWarp (hfr l e he hl)
    · rw [if_neg hh]
      intro l hl
      obtain ⟨y, hy, hyp, hyl⟩ := tidy_keeps (w.held ++ [withPrio s c w.wg (parkEntryBack p)]) l _
        (List.mem_append_right _ (List.mem_singleton_self _)) (hemask ▸ hl)
      exact ⟨y, hy, hyl, hyp.trans hepc⟩

/-- A trap of a warp with a handler that is not in it writes the frame and sends the lanes to TVEC (R244). -/
theorem enterTrap_frame {s : State} {c sl : Nat} {w : Warp} {m act : Word} {i : TrapInfo} {tpc hdr : Double}
    (hw : s.warp? c sl = some w) (htvec : w.tvec ≠ 0) (hh : w.handler = 0) :
    ∃ v, (enterTrap s c sl m i tpc hdr act).warp? c sl = some v ∧ v.tcause = BitVec.ofNat 6 i.cause ∧
      v.taddr = BitVec.ofNat 64 i.addr ∧ v.tpc = tpc ∧ v.handler = m ∧ v.tmask = m ∧
      (enterTrap s c sl m i tpc hdr act).mem = s.mem ∧
      ∀ l, hasLane m l = true → laneAt (enterTrap s c sl m i tpc hdr act) c sl l w.tvec := by
  have ht : ¬(w.tvec = 0 ∨ w.handler ≠ 0) := fun h => h.elim htvec fun h => h hh
  unfold enterTrap
  simp only [hw, if_neg ht]
  generalize hu : s.updCore c _ = u
  have hmem : u.mem = s.mem := hu ▸ rfl
  obtain ⟨fr, hs, hfr⟩ := settle_setWarp u c sl _
  rw [hs]
  refine ⟨_, setWarp_warp .., rfl, rfl, rfl, rfl, rfl, hmem, fun l hl => laneAt_setWarp ?_⟩
  exact hfr l _ (List.mem_singleton_self _) hl

/-- Settles O39: ageing sorts by the time of ageing, waking forgets the hold, and a rejoin keeps every lane at its address. -/
theorem frontierMoves : Obligations.FrontierMoves := by
  refine ⟨fun c sl n s w e => agedToHead_place, fun c sl u s w hw hhold hu => ?_, fun c sl s w p hw hp hroom => ?_⟩
  · show execSleepExpiry c sl s = _
    simp only [execSleepExpiry, hw, hhold, if_pos hu]
  · have hroom' : frontierRoom w = true := decide_eq_true hroom
    refine ⟨fun ho hmin => ?_, fun hready hmin => ⟨fun hf => ?_, fun he hh htvec hspec => ?_⟩⟩
    · refine ⟨rejoin s c sl w p, ?_, rejoin_rejoined hroom⟩
      have hold := oldestPark_eq (ok := fun p => decide (p.reason = .overflow)) hp (decide_eq_true ho) fun q hq hqo =>
        hmin q hq (of_decide_eq_true hqo)
      show execOverflowRejoin c sl s = _
      simp only [execOverflowRejoin, hw, hold, hroom', if_true]
    all_goals
      have hold := oldestPark_eq
        (ok := fun p => decide (p.reason = .xlateError) || (decide (p.reason = .xlateFault) && p.resolved)) hp
        (by simpa using hready) fun q hq hqo => hmin q hq (by simpa using hqo)
    · refine ⟨rejoin s c sl w p, ?_, rejoin_rejoined hroom⟩
      show execFaultRejoin c sl s = _
      simp only [execFaultRejoin, hw, hold, hroom', hf, Bool.not_true, Bool.false_eq_true, if_false, reduceCtorEq]
    · obtain ⟨hdr, hx⟩ : ∃ hdr, execFaultRejoin c sl s =
          .next (enterTrap s c sl p.mask (trapAt cBOUNDS p.va.toNat) p.pc hdr p.mask) := by
        simp only [execFaultRejoin, hw, hold, hroom', he, hspec, Bool.not_true, Bool.false_eq_true, if_false, if_true]
        exact ⟨_, rfl⟩
      obtain ⟨v, hv, hcause, haddr, htpc, hhandler, htmask, hmem, hlanes⟩ := enterTrap_frame (m := p.mask)
        (i := trapAt cBOUNDS p.va.toNat) (tpc := p.pc) (hdr := hdr) (act := p.mask) hw htvec hh
      refine ⟨_, v, hx, hv, hcause, ?_, htpc, hhandler, htmask, hmem, hlanes⟩
      rw [haddr]
      exact BitVec.ofNat_toNat .. ▸ BitVec.setWidth_eq _

end Sys2Proof.Proofs
end

section
/-! The events of a sequencer and its arrays: a program starts, an operation starts on every array, an operation ends. -/

namespace Sys2Proof.Proofs

open Sys2Proof.Machine Sys2Proof.Safety

section
variable {s : State} {cl : Nat}

/-- An array's core with the array changed. -/
def stepArray (f : Nat × Nat × Wg → MArray → MArray) (s : State) (p : Nat × Nat × Wg) : State :=
  s.updCore p.2.2.core fun k => { k with array := f p k.array }

theorem onArraysPlain_eq (f : Nat × Nat × Wg → MArray → MArray) :
    onArraysPlain s cl f = (Claims.arrays s (s.seq cl)).foldl (stepArray f) s := by
  simp only [onArraysPlain, onArrays, Bool.false_eq_true, if_false]
  rfl

/-- A change of arrays leaves everything but the arrays' cores. -/
theorem foldl_stepArray_leaves (f : Nat × Nat × Wg → MArray → MArray) (ps : List (Nat × Nat × Wg)) :
    (ps.foldl (stepArray f) s).seqs = s.seqs ∧ (ps.foldl (stepArray f) s).mem = s.mem ∧
      ∀ c, (∀ p ∈ ps, p.2.2.core ≠ c) → (ps.foldl (stepArray f) s).core c = s.core c := by
  induction ps generalizing s with
  | nil => exact ⟨rfl, rfl, fun _ _ => rfl⟩
  | cons p ps ih =>
    obtain ⟨hq, hm, hc⟩ := ih (s := stepArray f s p)
    refine ⟨hq, hm, fun c h => (hc c fun p hp => h p (List.mem_cons_of_mem _ hp)).trans ?_⟩
    exact setCore_core_other _ _ (h p (List.mem_cons_self ..)).symm

/-- Arrays of cores of their own are each changed once. -/
theorem foldl_stepArray_array (f : Nat × Nat × Wg → MArray → MArray) {ps : List (Nat × Nat × Wg)}
    (hps : ps.Pairwise fun p q => p.2.2.core ≠ q.2.2.core) {p : Nat × Nat × Wg} (hp : p ∈ ps) :
    ((ps.foldl (stepArray f) s).core p.2.2.core).array = f p (s.core p.2.2.core).array := by
  induction ps generalizing s with
  | nil => cases hp
  | cons q ps ih =>
    obtain ⟨hq, hps⟩ := List.pairwise_cons.mp hps
    rcases List.mem_cons.mp hp with rfl | hp
    · rw [List.foldl_cons, (foldl_stepArray_leaves f ps).2.2 _ fun r hr => (hq r hr).symm]
      simp [stepArray]
    · rw [List.foldl_cons, ih hps hp]
      exact congrArg (fun k : Core => f p k.array) (setCore_core_other _ _ (hq p hp).symm)

/-- An operation that changes every array by itself, started, changes every array of the set and nothing else it is asked for. -/
theorem arrayOpStart_plain {o : MxOp} {rest : List MxOp} {f : Nat × Nat × Wg → MArray → MArray}
    (hstop : (s.die (cl / 40)).stopped = false) (hrun : (s.seq cl).running = none) (hqueue : (s.seq cl).queue = o :: rest)
    (hps : (Claims.arrays s (s.seq cl)).Pairwise fun p q => p.2.2.core ≠ q.2.2.core)
    (ho : ∀ t, mxRun t cl o (s.seq cl).part = onArraysPlain t cl f) :
    ∃ t, exec (.arrayOpStart cl) s = .next t ∧ (t.seq cl).running = some o ∧ (t.seq cl).queue = rest ∧ t.mem = s.mem ∧
      ∀ p ∈ Claims.arrays s (s.seq cl), (t.core p.2.2.core).array = f p (s.core p.2.2.core).array := by
  let u := s.updSeq cl fun q => { q with running := some o, queue := rest, part := [] }
  have hu : u.seq cl = { s.seq cl with running := some o, queue := rest, part := [] } := updSeq_seq ..
  have harr : Claims.arrays u (u.seq cl) = Claims.arrays s (s.seq cl) := by rw [hu]; rfl
  have hx : exec (.arrayOpStart cl) s = .next (mxRun u cl o (s.seq cl).part) := by
    show execArrayOpStart cl s = _
    simp only [execArrayOpStart, hrun, hqueue, clusterStopped, hstop]
    rfl
  obtain ⟨hseqs, hmem, -⟩ := foldl_stepArray_leaves (s := u) f (Claims.arrays s (s.seq cl))
  have hseq : ((Claims.arrays s (s.seq cl)).foldl (stepArray f) u).seq cl = u.seq cl :=
    congrArg (fun m => (fget m cl).getD Sequencer.reset) hseqs
  refine ⟨_, hx.trans (by rw [ho, onArraysPlain_eq, harr]), ?_, ?_, hmem, fun p hp => ?_⟩
  · rw [hseq, hu]
  · rw [hseq, hu]
  · exact foldl_stepArray_array f hps hp

/-- The slots of a mask are the bits of a number. -/
theorem mem_maskSlots {v n : Nat} : n ∈ maskSlots (BitVec.ofNat 32 v) ↔ n < 16 ∧ v / 2 ^ n % 2 = 1 := by
  simp only [maskSlots, List.mem_filter, List.mem_range, BitVec.getLsbD_ofNat, Bool.and_eq_true, decide_eq_true_eq,
    Nat.testBit_eq_decide_div_mod_eq]
  constructor
  · exact fun ⟨hn, _, hv⟩ => ⟨hn, hv⟩
  · exact fun ⟨hn, hv⟩ => ⟨hn, by omega, hv⟩

/-- What MZERO does of one accumulator and one partial tile (R313). -/
theorem zeroStep_eq (b c : Bool) (n : Nat) (a : MArray) :
    (let a := if b then { a with acc := fdel a.acc n } else a
     if c then { a with pb := fdel a.pb n, pbFmt := fdel a.pbFmt n } else a) =
      { a with
        acc := if b then fdel a.acc n else a.acc
        pb := if c then fdel a.pb n else a.pb
        pbFmt := if c then fdel a.pbFmt n else a.pbFmt } := by
  cases b <;> cases c <;> rfl

/-- A sequencer whose program has not ended does not finish. -/
theorem seqFinish_running (h : (s.seq cl).ending = none) : seqFinish s cl = s := by
  unfold seqFinish
  dsimp only
  split
  · rename_i he
    cases h.symm.trans he
  · rfl

end

/-- On a die whose clock a thermal stop holds nothing starts or ends (R421). -/
theorem sequencer_stopped {s : State} {cl : Nat} (h : (s.die (cl / 40)).stopped = true) :
    ∀ i ∈ [Instr.sequencerProgramStart cl, .arrayOpStart cl, .matrixOperationComplete cl], exec i s = .next s := by
  intro i hi
  simp only [List.mem_cons, List.not_mem_nil, or_false] at hi
  rcases hi with rfl | rfl | rfl
  · show execSequencerProgramStart cl s = _
    unfold execSequencerProgramStart
    dsimp only
    split
    · simp [clusterStopped, h]
    · rfl
  · show execArrayOpStart cl s = _
    unfold execArrayOpStart
    dsimp only
    split
    · rename_i hs
      simp [clusterStopped, h] at hs
    · rfl
  · show execMatrixOperationComplete cl s = _
    simp [execMatrixOperationComplete, clusterStopped, h]

/-- A free sequencer starts the oldest forked program (R48, R241). -/
theorem programStart {s : State} {cl : Nat} {fk : Fork} {rest : List Fork} (hstop : (s.die (cl / 40)).stopped = false)
    (hcur : (s.seq cl).cur = none) (hfifo : (s.seq cl).fifo = fk :: rest) (hready : forkReady s fk = true) :
    ∃ q', exec (.sequencerProgramStart cl) s = .next (s.updSeq cl fun _ => q') ∧ q'.cur = some fk ∧ q'.fifo = rest ∧
      q'.pc = fk.code ∧ q'.clause = none ∧ q'.argaddr = fk.arg ∧ q'.ending = none ∧ q'.stalled = none ∧
      q'.members = (s.seq cl).members ∧ q'.queue = (s.seq cl).queue ∧ q'.running = (s.seq cl).running ∧
      ∀ n, Claims.readQ q' n = match n with
        | 1 => BitVec.ofNat 32 fk.arg.toNat
        | 2 => BitVec.ofNat 32 (fk.arg.toNat / 2 ^ 32)
        | 3 => BitVec.ofNat 32 fk.pos
        | _ => 0 := by
  refine ⟨setQ (setQ (setQ { s.seq cl with
      q := [], fifo := rest, cur := some fk, pc := fk.code, clause := none, argaddr := fk.arg, ending := none, stalled := none }
      1 (fk.arg.setWidth 32)) 2 (fk.arg.extractLsb' 32 32)) 3 (BitVec.ofNat 32 fk.pos), ?_,
    rfl, rfl, rfl, rfl, rfl, rfl, rfl, rfl, rfl, rfl, fun n => ?_⟩
  · show execSequencerProgramStart cl s = _
    simp only [execSequencerProgramStart, hcur, hfifo, hready, clusterStopped, hstop, Bool.not_false, Bool.and_self, if_true]
    rfl
  · match n with
    | 0 => rfl
    | 1 => exact BitVec.eq_of_toNat_eq (by simp [Claims.readQ, setQ, fput, fget])
    | 2 => exact BitVec.eq_of_toNat_eq (by simp [Claims.readQ, setQ, fput, fget, Nat.shiftRight_eq_div_pow])
    | 3 => rfl
    | n + 4 => simp [Claims.readQ, setQ, fput, fget]

/-- Settles O33: starting a program, starting an operation and ending one each unfold to what the sequencer then holds. -/
theorem sequencerEvents : Obligations.SequencerEvents := by
  intro s cl
  refine ⟨sequencer_stopped, fun hstop => ⟨fun fk rest => programStart hstop,
    fun o rest f hrun hqueue hps => ⟨fun n ho => ?_, fun n ho => ?_, fun ho => ?_⟩, fun o hrun hend => ?_⟩⟩
  · obtain ⟨t, hx, hr, hq, hm, ht⟩ := arrayOpStart_plain hstop hrun hqueue hps fun t => by simp only [mxRun, ho]; rfl
    exact ⟨t, hx, hr, hq, hm, fun p hp => by rw [ht p hp, List.mem_append, mem_maskSlots]⟩
  · obtain ⟨t, hx, hr, hq, hm, ht⟩ := arrayOpStart_plain hstop hrun hqueue hps fun t => by simp only [mxRun, ho]; rfl
    refine ⟨t, hx, hr, hq, hm, fun p hp => ?_⟩
    rw [ht p hp, List.mem_filter, Bool.not_eq_true', List.contains_eq_mem, decide_eq_false_iff_not, mem_maskSlots]
  · obtain ⟨t, hx, hr, hq, hm, ht⟩ := arrayOpStart_plain hstop hrun hqueue hps fun t => by simp only [mxRun, ho]; rfl
    refine ⟨t, hx, hr, hq, hm, fun p hp => (ht p hp).trans ?_⟩
    rw [show List.range 2 = [0, 1] from rfl]
    simp only [List.foldl_cons, List.foldl_nil, zeroStep_eq]
  · show execMatrixOperationComplete cl s = _
    simp only [execMatrixOperationComplete, hrun, clusterStopped, hstop, Option.isSome_some, Bool.not_false, Bool.and_self,
      if_true]
    refine congrArg _ (seqFinish_running ?_)
    rw [updSeq_seq, hend]

end Sys2Proof.Proofs
end

section
/-! Blocks and generations: a grant takes free blocks, a sweep clears the old tags, a renewal retags an allocation. -/

namespace Sys2Proof.Proofs

open Sys2Proof.Machine Sys2Proof.Safety

/-! ### Grants -/

/-- An entry past some words of its clause keeps its lanes and stands that many words on. -/
theorem stepPast_keeps (e : Entry) (n : Nat) :
    (stepPast e n).mask = e.mask ∧ (stepPast e n).pc = e.pc + BitVec.ofNat 64 (4 * n) := by
  unfold stepPast
  dsimp only
  split
  · exact ⟨rfl, rfl⟩
  · split <;> exact ⟨rfl, rfl⟩

/-- The request at the head of a quadrant's queue gets free blocks, and its lanes go on (R31). -/
theorem regacqGrant_grants {s : State} {c q slot b : Nat} {rest : List (Nat × Nat)} {w : Warp}
    (hreq : fget (s.core c).regacq q = some ((slot, b) :: rest)) (hw : s.warp? c slot = some w)
    (hb : b ≤ (freeBlocks (s.core c) q).length) (hgen : genReady s c = true) :
    ∃ t w' bs, exec (.regacqGrant c q) s = .next t ∧ t.warp? c slot = some w' ∧ bs.length = b ∧
      (∀ y ∈ bs, y ∈ freeBlocks (s.core c) q) ∧
      w' = { w with
        blocks := w.blocks ++ bs, ext := b, genExt := Claims.following (s.core c), hold := .none, frontier := w'.frontier } ∧
      t = s.setCore c { s.core c with
        gen := Claims.following (s.core c), regacq := fput (s.core c).regacq q rest, warps := fput (s.core c).warps slot w' } ∧
      ∀ e ∈ w.frontier, ∀ l, hasLane e.mask l = true → laneAt t c slot l (e.pc + 4) := by
  have hw' : fget (s.core c).warps slot = some w := hw
  have hn : ¬((freeBlocks (s.core c) q).length < b ∨ (!genReady s c) = true) := by
    rw [hgen]
    simpa using hb
  obtain ⟨fr, hs, hfr⟩ := settle_shape s c slot
    { s.core c with gen := Claims.following (s.core c), regacq := fput (s.core c).regacq q rest }
    { w with
      blocks := w.blocks ++ (freeBlocks (s.core c) q).take b, ext := b, genExt := Claims.following (s.core c), hold := .none
      frontier := w.frontier.map fun e => stepPast e 1 }
  refine ⟨_, _, (freeBlocks (s.core c) q).take b, ?_, ?_, by simp [hb], fun y hy => List.mem_of_mem_take hy, rfl, hs, ?_⟩
  · show execRegacqGrant c q s = _
    simp only [execRegacqGrant, hreq, hw', if_neg hn]
    rfl
  · rw [hs]
    simp [State.warp?]
  · intro e he l hl
    obtain ⟨hm, hp⟩ := stepPast_keeps e 1
    obtain ⟨y, hy, hyl, hyp⟩ := hfr l _ (List.mem_map_of_mem he) (hm ▸ hl)
    rw [hs]
    exact ⟨_, by simp [State.warp?]; rfl, .inl ⟨y, hy, hyl, hyp.trans hp⟩⟩

/-! ### Sweeps -/

/-- A value is there after a choice of entries if it was and is chosen, the keys rising. -/
theorem fget_filter {α : Type} {m : FMap α} {lo : Nat} (hm : risingFrom lo m = true) (p : Nat × α → Bool) (i : Nat) :
    fget (m.filter p) i = (fget m i).filter fun x => p (i, x) := by
  induction m generalizing lo with
  | nil => rfl
  | cons q m ih =>
    obtain ⟨k, v⟩ := q
    simp only [risingFrom, Bool.and_eq_true, decide_eq_true_eq] at hm
    obtain ⟨-, hm⟩ := hm
    have hbelow (hi : i ≤ k) : fget m i = none := fget_below hm (by omega)
    rw [List.filter_cons]
    by_cases hki : k = i
    · subst hki
      cases hp : p (k, v) <;> simp [fget, hp, ih hm, hbelow, Option.filter]
    · by_cases hlt : i < k
      · cases p (k, v) <;> simp [fget, hki, hlt, ih hm, hbelow hlt.le]
      · cases p (k, v) <;> simp [fget, hki, hlt, ih hm]

/-- Is the n-th tag of a core one that a sweep still has to clear? -/
def sweeps (k : Core) (n tag : Nat) : Bool := decide (k.sweepPos ≤ n) && sweepOld k.sweepNow k.gen tag

theorem sweeps_iff {k : Core} {n tag : Nat} : sweeps k n tag = true ↔ k.sweepPos ≤ n ∧ Claims.old k.sweepNow k.gen tag := by
  simp only [sweeps, sweepOld, Bool.and_eq_true, decide_eq_true_eq]
  rfl

/-- A cleared tag is no more old. -/
theorem sweeps_zero {k : Core} {n : Nat} : sweeps k n 0 = false := by
  simp [sweeps, sweepOld]

/-- A row after a sweep. -/
def sweptRow (k : Core) (n : Nat) (r : Row) : Row := if sweeps k (n + 11264) r.tag then { r with tag := 0 } else r

/-- A sweep that completes clears the old tags it has still to test (R112, log 78). -/
theorem tagSweep_clears {s : State} {c : Nat} (h : risingFrom 0 (s.core c).tags = true) :
    ∃ k, exec (.tagSweep c) s = .next (s.setCore c k) ∧
      k = { s.core c with
        tags := k.tags, rows := k.rows, sweepPos := 0, sweepDone := (s.core c).sweepNow, sweepNow := (s.core c).gen } ∧
      let old := Claims.old (s.core c).sweepNow (s.core c).gen
      ∀ n,
        let grain : Prop := (s.core c).sweepPos ≤ n ∧ old (granTag (s.core c) n)
        let row : Prop := (s.core c).sweepPos ≤ n + 11264 ∧ old (rowAt (s.core c) n).tag
        (grain → granTag k n = 0) ∧ (¬ grain → granTag k n = granTag (s.core c) n) ∧
        (rowAt k n).data = (rowAt (s.core c) n).data ∧
        (row → (rowAt k n).tag = 0) ∧ (¬ row → (rowAt k n).tag = (rowAt (s.core c) n).tag) := by
  generalize hk : s.core c = k at h
  obtain ⟨k', hx, hk', htags, hrows⟩ : ∃ k', exec (.tagSweep c) s = .next (s.setCore c k') ∧
      k' = { s.core c with
        tags := k'.tags, rows := k'.rows, sweepPos := 0, sweepDone := (s.core c).sweepNow, sweepNow := (s.core c).gen } ∧
      k'.tags = (s.core c).tags.filter (fun p => !sweeps (s.core c) p.1 p.2) ∧
      k'.rows = (s.core c).rows.map fun p =>
        if sweeps (s.core c) (p.1 + 11264) p.2.tag then (p.1, { p.2 with tag := 0 }) else p := ⟨_, rfl, rfl, rfl, rfl⟩
  rw [hk] at hk' htags hrows
  refine ⟨k', hx, hk', fun n => ?_⟩
  have htag : granTag k' n = if sweeps k n (granTag k n) then 0 else granTag k n := by
    rw [granTag, granTag, htags, fget_filter h]
    cases fget k.tags n with
    | none => simp
    | some v => cases hv : sweeps k n v <;> simp [hv, Option.filter]
  have hrow : rowAt k' n = sweptRow k n (rowAt k n) := by
    have hmap : k'.rows = k.rows.map fun p => (p.1, sweptRow k p.1 p.2) := by
      rw [hrows]
      refine List.map_congr_left fun p _ => ?_
      unfold sweptRow
      split <;> rfl
    rw [rowAt, hmap]
    exact getD_fget_map k.rows (sweptRow k) n _ (by simp [sweptRow, sweeps_zero])
  simp only [← sweeps_iff, htag, hrow, sweptRow]
  refine ⟨fun hs => if_pos hs, fun hs => if_neg hs, ?_, fun hs => ?_, fun hs => ?_⟩
  · split <;> rfl
  · rw [if_pos hs]
  · rw [if_neg hs]

/-! ### Renewals -/

/-- The granules of a range that bore a generation bear the new one, no others. -/
theorem granTag_retagGrans {k : Core} {base n old new m : Nat} (hold : old ≠ 0) :
    granTag (retagGrans k base n old new) m =
      if (base / 64 ≤ m ∧ m < (base + n + 63) / 64) ∧ granTag k m = old then new else granTag k m := by
  have hmap : (retagGrans k base n old new).tags = k.tags.map fun p =>
      (p.1, if (base / 64 ≤ p.1 ∧ p.1 < (base + n + 63) / 64) ∧ p.2 = old then new else p.2) := by
    refine List.map_congr_left fun p _ => ?_
    simp only [Bool.and_eq_true, decide_eq_true_eq]
    split <;> rfl
  rw [granTag, hmap]
  exact getD_fget_map k.tags (fun i v => if (base / 64 ≤ i ∧ i < (base + n + 63) / 64) ∧ v = old then new else v) m 0
    (if_neg fun h => hold h.2.symm)

/-- The rows of some blocks that bore a generation bear the new one, no others, and keep their data. -/
theorem rowAt_retagRows {k : Core} {quad : Nat} {blocks : List Nat} {old new m : Nat} (hold : old ≠ 0) :
    rowAt (retagRows k quad blocks old new) m =
      if (m / 384 = quad ∧ m % 384 / 16 ∈ blocks) ∧ (rowAt k m).tag = old then { rowAt k m with tag := new } else rowAt k m := by
  have hmap : (retagRows k quad blocks old new).rows = k.rows.map fun p =>
      (p.1, if (p.1 / 384 = quad ∧ p.1 % 384 / 16 ∈ blocks) ∧ p.2.tag = old then { p.2 with tag := new } else p.2) := by
    refine List.map_congr_left fun p _ => ?_
    simp only [Bool.and_eq_true, decide_eq_true_eq, List.contains_iff_mem]
    split <;> rfl
  rw [rowAt, hmap]
  exact getD_fget_map k.rows
    (fun i r => if (i / 384 = quad ∧ i % 384 / 16 ∈ blocks) ∧ r.tag = old then { r with tag := new } else r) m _
    (if_neg fun h => hold h.2.symm)

/-- What a renewal from generation g to h leaves of a state: the allocation's rows and granules that bore g bear h, no others. -/
def Renewed (s t : State) (c g h : Nat) (rows grans : Nat → Prop) : Prop :=
  t = { s with cores := t.cores, wgs := t.wgs } ∧ (∀ d, d ≠ c → fget t.cores d = fget s.cores d) ∧ (t.core c).gen = h ∧
    (t.core c).data = (s.core c).data ∧
    ∀ n,
      (rowAt (t.core c) n).data = (rowAt (s.core c) n).data ∧
      (rows n → (rowAt (s.core c) n).tag = g → (rowAt (t.core c) n).tag = h) ∧
      (¬ (rows n ∧ (rowAt (s.core c) n).tag = g) → (rowAt (t.core c) n).tag = (rowAt (s.core c) n).tag) ∧
      (grans n → granTag (s.core c) n = g → granTag (t.core c) n = h) ∧
      (¬ (grans n ∧ granTag (s.core c) n = g) → granTag (t.core c) n = granTag (s.core c) n)

section
variable {s : State} {c g h : Nat} {k : Core} {wgs : FMap Wg}

/-- Granules retagged. -/
theorem renewed_grans {base n : Nat} (hg : g ≠ 0) (hgen : k.gen = h) (hdata : k.data = (s.core c).data)
    (hrows : k.rows = (s.core c).rows) (htags : k.tags = (retagGrans (s.core c) base n g h).tags) :
    Renewed s { s.setCore c k with wgs := wgs } c g h (fun _ => False)
      fun m => base / 64 ≤ m ∧ m < (base + n + 63) / 64 := by
  have hk : State.core { s.setCore c k with wgs := wgs } c = k := setCore_core s c k
  refine ⟨rfl, fun d hd => fget_fput_other _ _ hd, (congrArg Core.gen hk).trans hgen,
    (congrArg Core.data hk).trans hdata, fun m => ?_⟩
  have hrow : rowAt k m = rowAt (s.core c) m := by rw [rowAt, rowAt, hrows]
  have htag : granTag k m = granTag (retagGrans (s.core c) base n g h) m := by rw [granTag, granTag, htags]
  rw [hk, hrow, htag, granTag_retagGrans hg]
  exact ⟨rfl, nofun, fun _ => rfl, fun hm ht => if_pos ⟨hm, ht⟩, fun hm => if_neg hm⟩

/-- Rows retagged. -/
theorem renewed_rows {quad : Nat} {blocks : List Nat} (hg : g ≠ 0) (hgen : k.gen = h) (hdata : k.data = (s.core c).data)
    (htags : k.tags = (s.core c).tags) (hrows : k.rows = (retagRows (s.core c) quad blocks g h).rows) :
    Renewed s { s.setCore c k with wgs := wgs } c g h (fun r => r / 384 = quad ∧ r % 384 / 16 ∈ blocks) fun _ => False := by
  have hk : State.core { s.setCore c k with wgs := wgs } c = k := setCore_core s c k
  refine ⟨rfl, fun d hd => fget_fput_other _ _ hd, (congrArg Core.gen hk).trans hgen,
    (congrArg Core.data hk).trans hdata, fun m => ?_⟩
  have htag : granTag k m = granTag (s.core c) m := by rw [granTag, granTag, htags]
  have hrow : rowAt k m = rowAt (retagRows (s.core c) quad blocks g h) m := by rw [rowAt, rowAt, hrows]
  rw [hk, htag, hrow, rowAt_retagRows hg]
  refine ⟨?_, fun hm ht => ?_, fun hm => ?_, nofun, fun _ => rfl⟩
  · split <;> rfl
  · rw [if_pos ⟨hm, ht⟩]
  · rw [if_neg hm]

end

/-- A core changed and then changed with a warp of it is written once. -/
theorem setCore_updCore_setWarp {s : State} {c sl : Nat} {k : Core} {f : Core → Core} {w : Warp} :
    ((s.setCore c k).updCore c f).setWarp c sl w = s.setCore c { f k with warps := fput (f k).warps sl w } := by
  simp [State.setWarp, State.updCore]

/-- The warp in a slot of a core written. -/
theorem warp?_setCore {s : State} {c sl : Nat} {k : Core} : (s.setCore c k).warp? c sl = fget k.warps sl := by
  simp [State.warp?]

/-- An allocation of an age takes the next generation (R113). -/
theorem generationRenewal_renews {s : State} {c : Nat} {a : AllocId} {g : Nat} {rows grans : Nat → Prop}
    (ha : Claims.allocation s c a = some (g, rows, grans)) (hg : g ≠ 0) (hage : 16384 ≤ ((s.core c).gen + 65536 - g) % 65536)
    (hready : genReady s c = true) :
    ∃ t, exec (.generationRenewal c a) s = .next t ∧ Claims.allocation t c a = some (Claims.following (s.core c), rows, grans) ∧
      Renewed s t c g (Claims.following (s.core c)) rows grans := by
  have hn : ¬(((s.core c).gen + 65536 - g) % 65536 < Config.renewAge ∨ (!genReady s c) = true) := by
    simpa [hready, Config.renewAge] using hage
  have hx (halloc : allocGen s c a = some g) : exec (.generationRenewal c a) s =
      .next (renewTo (s.setCore c { s.core c with gen := Claims.following (s.core c) }) c g (Claims.following (s.core c)) a) := by
    show execGenerationRenewal c a s = _
    simp only [execGenerationRenewal, halloc, if_neg hn]
    rfl
  generalize Claims.following (s.core c) = h at hx ⊢
  cases a with
  | wg i =>
    simp only [Claims.allocation] at ha
    split at ha
    · rename_i x hi
      split at ha
      · rename_i hlive
        obtain ⟨rfl, rfl, rfl⟩ := ha
        obtain ⟨hcore, hsaved, hended⟩ := hlive
        have hslot : holdsSlot x = true := by
          cases hp : x.phase <;> simp_all [holdsSlot]
        have hr (k : Core) : renewTo (s.setCore c k) c x.gen h (.wg i) =
            { s.setCore c (retagGrans k x.base x.size x.gen h) with wgs := fput s.wgs i { x with gen := h } } := by
          simp only [renewTo, setCore_wgs, hi, State.updWg, State.updCore, setCore_setCore, setCore_core, fupd_some _ hi]
        refine ⟨_, hx (by simp [allocGen, hi, hcore, hslot]), ?_, ?_⟩
        · simp only [hr, Claims.allocation, fget_fput_same]
          exact if_pos ⟨hcore, hsaved, hended⟩
        · rw [hr]
          exact renewed_grans hg rfl rfl rfl rfl
      · cases ha
    · cases ha
  | base sl =>
    simp only [Claims.allocation] at ha
    split at ha
    · rename_i w hw
      obtain ⟨rfl, rfl, rfl⟩ := ha
      have hw' : fget (s.core c).warps sl = some w := hw
      refine ⟨_, hx (by simp [allocGen, hw]), ?_, ?_⟩
      · simp only [renewTo, warp?_setCore, hw', setCore_updCore_setWarp, Claims.allocation, fget_fput_same]
      · simp only [renewTo, warp?_setCore, hw', setCore_updCore_setWarp]
        exact renewed_rows (wgs := s.wgs) hg rfl rfl rfl rfl
    · cases ha
  | ext sl =>
    simp only [Claims.allocation] at ha
    split at ha
    · rename_i w hw
      split at ha
      · cases ha
      · rename_i hext
        obtain ⟨rfl, rfl, rfl⟩ := ha
        have hw' : fget (s.core c).warps sl = some w := hw
        refine ⟨_, hx (by simp [allocGen, hw, hext]), ?_, ?_⟩
        · simp only [renewTo, warp?_setCore, hw', setCore_updCore_setWarp, Claims.allocation, fget_fput_same, if_neg hext]
        · simp only [renewTo, warp?_setCore, hw', setCore_updCore_setWarp]
          exact renewed_rows (wgs := s.wgs) hg rfl rfl rfl rfl
    · cases ha
  | priv sl =>
    simp only [Claims.allocation] at ha
    split at ha
    · rename_i w hw
      split at ha
      · rename_i hround
        obtain ⟨rfl, rfl, rfl⟩ := ha
        have hw' : fget (s.core c).warps sl = some w := hw
        refine ⟨_, hx (by simp [allocGen, hw, hround]), ?_, ?_⟩
        · simp only [renewTo, warp?_setCore, hw', setCore_updCore_setWarp, Claims.allocation, fget_fput_same, if_pos hround]
        · simp only [renewTo, warp?_setCore, hw', setCore_updCore_setWarp]
          exact renewed_grans (wgs := s.wgs) hg rfl rfl rfl rfl
      · cases ha
    · cases ha

/-- Settles O40: a grant, a sweep and a renewal each leave the tags and blocks that their rules give. -/
theorem blocksAndGenerations : Obligations.BlocksAndGenerations :=
  ⟨fun _ _ _ _ _ _ _ => regacqGrant_grants, fun _ _ => tagSweep_clears, fun _ _ _ _ _ _ => generationRenewal_renews⟩

end Sys2Proof.Proofs
end

section
/-! Branches move the active lanes to their targets; RCONV holds an entry until every live lane is there. -/

namespace Sys2Proof.Proofs

open Sys2Proof.Machine Sys2Proof.Safety

/-! ### Lanes -/

theorem mem_lanesOf {m : Word} {l : Nat} : l ∈ lanesOf m ↔ hasLane m l = true := by
  simp only [lanesOf, lanes, List.mem_filter, List.mem_range, and_iff_right_iff_imp, hasLane]
  exact fun h => BitVec.lt_of_getLsbD h

theorem hasLane_and {a b : Word} {l : Nat} : hasLane (a &&& b) l = (hasLane a l && hasLane b l) := by
  simp [hasLane]

theorem hasLane_without {a b : Word} {l : Nat} : hasLane (a &&& ~~~b) l = (hasLane a l && !hasLane b l) := by
  cases hl : decide (l < 32)
  · simp [hasLane, BitVec.getLsbD_of_ge _ _ (by simpa using hl)]
  · simp [hasLane, of_decide_eq_true hl]

theorem hasLane_one {l : Nat} (h : l < 32) : hasLane (BitVec.ofNat 32 (1 <<< l)) l = true := by
  rw [hasLane, BitVec.getLsbD_ofNat]
  simp [h, Nat.testBit_shiftLeft]

/-- A word of no lanes. -/
theorem eq_zero_of_no_lane {m : Word} (h : ∀ l, hasLane m l = false) : m = 0 :=
  BitVec.eq_of_getLsbD_eq fun l _ => by simpa [hasLane] using h l

/-- A word of a lane. -/
theorem ne_zero_of_hasLane {m : Word} {l : Nat} (h : hasLane m l = true) : m ≠ 0 := by
  rintro rfl
  simp [hasLane] at h

/-! ### Branches (R235, R236) -/

section
variable {s : State} {x : Ctx}

/-- An instruction with nothing to stop it but its own check, which passes, leaves its plan's next state. -/
theorem issueIn_own {i : Instr} {plan : Ctx → Plan} {body : Nat → Sequencer → State} {o : Option TrapInfo} {n : State}
    (hi : Issues i s x) (hc : Clear x) (hp : plan x = { own := o, next := n }) (ho : o = none) :
    issueIn i s plan body = .next n := by
  rw [issueIn_warp hi, hp, gate_next hc rfl (by simp) ho (by simp) rfl]

/-- A branch puts the active lanes at their targets and the entry's others at the next instruction. -/
theorem branchTo_moves {k : Core} {t : Nat → Double} :
    Leaves s (branchTo s x k t) x k x.w ∧
      ∀ l, hasLane x.e.mask l = true → laneAt (branchTo s x k t) x.core x.slot l (Claims.split x t l) := by
  obtain ⟨hleaves, hlanes⟩ := done_leaves s x k x.w
    (part (passed x) (x.e.mask &&& ~~~x.act) :: (lanesOf x.act).map fun l => Entry.at_ (t l) (1 <<< l) 0)
  refine ⟨hleaves, fun l hl => ?_⟩
  unfold Claims.split
  split
  · rename_i ha
    have hlt : l < 32 := BitVec.lt_of_getLsbD ha
    exact hlanes _ (List.mem_cons_of_mem _ (List.mem_map_of_mem (mem_lanesOf.mpr ha))) l (hasLane_one hlt)
  · rename_i ha
    have h := hlanes _ (List.mem_cons_self ..) l (by simpa [part, hasLane_without, hl] using ha)
    exact passed_pc x ▸ h

/-- A static target in paged memory raises no trap. -/
theorem targetTrap_none {t : Double} (h : Claims.inPaged t) : targetTrap t = none := by
  simp [targetTrap, targetOk, show regionOf t.toNat = .paged from h]

/-- Targets that lanes may go to raise no trap. -/
theorem lanesTrap_none {t : Nat → Double} (h : ∀ l, hasLane x.act l = true → Claims.goodTarget (t l)) :
    lanesTrap x t = none := by
  have good (cause : Nat) (bad : Nat → Bool) (hb : ∀ l, hasLane x.act l = true → bad (t l).toNat = false) :
      firstBad x.act cause (fun l => (t l).toNat) bad = none := by
    unfold firstBad
    rw [Option.map_eq_none_iff, List.find?_eq_none]
    exact fun l hl => by simp [hb l (mem_lanesOf.mp hl)]
  unfold lanesTrap
  rw [good _ _ fun l hl => ?_, good _ _ fun l hl => ?_, Option.or_none]
  · obtain ⟨-, hpaged⟩ := h l hl
    simp [show regionOf (t l).toNat = .paged from hpaged]
  · obtain ⟨halign, -⟩ := h l hl
    simp [halign]

theorem branches : Parts.Branches := by
  intro s x f g hc
  have ht : Claims.target x f.off = branchTarget (hdrOf x.e) f.off := rfl
  have hret : nextPc x = retOf x := (passed_pc x).symm
  simp only [ht, hret]
  refine ⟨fun hi ht => ?_, fun hi ht => ?_, fun hi ht => ?_, fun hi ht => ?_, fun hi ht => ?_⟩
  · exact ⟨_, issueIn_own hi hc rfl (targetTrap_none ht), branchTo_moves⟩
  · refine ⟨_, issueIn_own (body := fun cl _ => seqEnd s cl 1) hi hc rfl (targetTrap_none ht), ?_⟩
    by_cases ha : x.act = 0
    · simpa only [ha, if_true, ne_eq, not_true, if_false] using hret ▸ goOn_leaves s x x.k x.w
    · obtain ⟨hleaves, hlanes⟩ := done_leaves s x x.k x.w [Entry.at_ (branchTarget (hdrOf x.e) f.off) x.e.mask 0]
      simp only [if_neg ha, if_pos ha]
      exact ⟨hleaves, hlanes _ (List.mem_singleton_self _)⟩
  · exact ⟨_, putPair_wrote .., _, issueIn_own hi hc rfl (targetTrap_none ht), branchTo_moves⟩
  · exact ⟨_, putPair_wrote .., _, issueIn_own hi hc rfl (lanesTrap_none ht), branchTo_moves⟩
  · exact ⟨_, issueIn_own hi hc rfl (lanesTrap_none ht), branchTo_moves⟩

end

/-! ### Reconvergence (R22, R239) -/

/-- No entry with lane l of a list waits at RCONV. -/
def AwayFromRconv (es : List Entry) (l : Nat) : Prop := ∀ y ∈ es, hasLane y.mask l = true → y.wait ≠ .rconv

/-- Merging does not bring a lane to an RCONV. -/
theorem mergeEntry_away {es : List Entry} {e : Entry} {l : Nat} (hes : AwayFromRconv es l)
    (he : hasLane e.mask l = true → e.wait ≠ .rconv) : AwayFromRconv (mergeEntry es e) l := by
  unfold mergeEntry
  split
  · exact hes
  · split
    · intro y hy hl
      obtain ⟨z, hz, rfl⟩ := List.mem_map.mp hy
      by_cases hpc : z.pc = e.pc
      · rw [if_pos hpc] at hl ⊢
        by_cases hw : z.wait = e.wait
        · rw [hasLane_or, Bool.or_eq_true] at hl
          exact if_pos hw ▸ hl.elim (hes z hz) fun hl => hw ▸ he hl
        · exact if_neg hw ▸ nofun
      · rw [if_neg hpc] at hl ⊢
        exact hes z hz hl
    · intro y hy hl
      rcases List.mem_append.mp hy with hy | hy
      · exact hes y hy hl
      · exact List.mem_singleton.mp hy ▸ he (List.mem_singleton.mp hy ▸ hl)

theorem foldl_merge_away {es acc : List Entry} {l : Nat} (hes : AwayFromRconv es l) (hacc : AwayFromRconv acc l) :
    AwayFromRconv (es.foldl mergeEntry acc) l := by
  induction es generalizing acc with
  | nil => exact hacc
  | cons e es ih =>
    exact ih (fun y hy => hes y (List.mem_cons_of_mem _ hy)) (mergeEntry_away hacc (hes e (List.mem_cons_self ..)))

theorem tidy_away {es : List Entry} {l : Nat} (hes : AwayFromRconv es l) : AwayFromRconv (tidy es) l := fun y hy =>
  foldl_merge_away hes (acc := []) nofun y ((mem_sortBy ..).mp hy)

theorem setFrontier_away {w : Warp} {es : List Entry} {l : Nat} (hes : AwayFromRconv es l) :
    AwayFromRconv (setFrontier w es).frontier l := by
  intro y hy
  refine foldl_merge_away hes (acc := []) nofun y ?_
  simp only [setFrontier, mem_sortBy, List.mem_map, List.mem_filter] at hy
  obtain ⟨⟨z, b⟩, ⟨hz, hb⟩, rfl⟩ := hy
  simpa [mem_sortBy, show b = false by simpa using hb] using List.mem_of_mem_take hz

/-- An entry's header's priority does not change its wait. -/
theorem withPrio_wait {s : State} {c g : Nat} {e : Entry} : (withPrio s c g e).wait = e.wait := by
  unfold withPrio
  split <;> rfl

theorem map_withPrio_away {s : State} {c g l : Nat} {es : List Entry} (hes : AwayFromRconv es l) :
    AwayFromRconv (es.map (withPrio s c g)) l := by
  intro y hy hl
  obtain ⟨z, hz, rfl⟩ := List.mem_map.mp hy
  rw [withPrio_wait]
  exact hes z hz ((withPrio_keeps s c g z).2 ▸ hl)

/-- A lane of a union of masks is in one of them. -/
theorem hasLane_foldl_or {es : List Entry} {a : Word} {l : Nat} (h : hasLane (es.foldl (fun m e => m ||| e.mask) a) l = true) :
    hasLane a l = true ∨ ∃ e ∈ es, hasLane e.mask l = true := by
  induction es generalizing a with
  | nil => exact .inl h
  | cons e es ih =>
    rcases ih h with h | ⟨y, hy, hl⟩
    · rw [hasLane_or, Bool.or_eq_true] at h
      exact h.imp_right fun h => ⟨e, List.mem_cons_self .., h⟩
    · exact .inr ⟨y, List.mem_cons_of_mem _ hy, hl⟩

/-- While a live lane is away from every RCONV, none releases. -/
theorem rconvRelease_away {w : Warp} {l : Nat} (hh : w.handler = 0) (hlive : hasLane w.live l = true)
    (haway : AwayFromRconv w.frontier l) : rconvRelease w = w := by
  unfold rconvRelease
  simp only [hh, if_true]
  refine if_pos (.inr fun hm => ?_)
  have hl := hm ▸ hlive
  rw [hasLane_and, Bool.and_eq_true] at hl
  obtain h | ⟨e, he, hel⟩ := hasLane_foldl_or hl.1
  · simp [hasLane] at h
  · obtain ⟨he, hwait⟩ := List.mem_filter.mp he
    exact haway e he hel (of_decide_eq_true hwait).1

/-- Settling a warp of a core written. -/
theorem settle_eq (s : State) (c sl : Nat) (k : Core) (w : Warp) :
    settle (s.setCore c { k with warps := fput k.warps sl w }) c sl =
      s.setCore c { k with warps := fput k.warps sl { w with
        frontier := tidy (w.frontier.map (withPrio (s.setCore c { k with warps := fput k.warps sl w }) c w.wg)) } } := by
  unfold settle
  simp only [State.warp?, setCore_core, fget_fput_same]
  exact (setCore_setWarp s c sl { k with warps := fput k.warps sl w } _).trans (by simp only [fput_fput])

/-- The warp of a core written, changed. -/
theorem updWarp_setCore {s : State} {c sl : Nat} {k : Core} {w : Warp} {f : Warp → Warp} :
    (s.setCore c { k with warps := fput k.warps sl w }).updWarp c sl f =
      s.setCore c { k with warps := fput k.warps sl (f w) } := by
  simp [State.updWarp, State.updCore, fupd]

section
variable {s : State} {x : Ctx} {f : F3}

/-- The warp whose issuing entry now waits at the RCONV. -/
def atRconv (s : State) (x : Ctx) : Warp :=
  replaceEntry (countIssue x.k x.ei x.w) x.ei [withPrio s x.core x.g { issued x.e with wait := .rconv }]

/-- The same, its entries settled. -/
def settledAtRconv (s : State) (x : Ctx) : Warp :=
  { atRconv s x with
    frontier := tidy ((atRconv s x).frontier.map
      (withPrio (s.setCore x.core { countCore x.k x.slot with warps := fput x.k.warps x.slot (atRconv s x) }) x.core
        (atRconv s x).wg)) }

/-- RCONV lets the entry wait, releases if every live lane waits, and settles. -/
theorem rconv_next (hi : Issues (.rconv f) s x) (hc : Clear x) :
    ∃ fr, exec (.rconv f) s = .next (s.setCore x.core { countCore x.k x.slot with
        warps := fput x.k.warps x.slot { rconvRelease (settledAtRconv s x) with frontier := fr } }) ∧
      ∀ l, ∀ e ∈ (rconvRelease (settledAtRconv s x)).frontier, hasLane e.mask l = true →
        ∃ y ∈ fr, hasLane y.mask l = true ∧ y.pc = e.pc := by
  obtain ⟨fr, hs, hfr⟩ := settle_shape s x.core x.slot (countCore x.k x.slot) (rconvRelease (settledAtRconv s x))
  refine ⟨fr, (issueIn_own (body := fun cl _ => seqEnd s cl 1) hi hc rfl rfl).trans (congrArg _ ?_), hfr⟩
  have hd : done s x x.k x.w [{ issued x.e with wait := .rconv }] =
      s.setCore x.core { countCore x.k x.slot with warps := fput x.k.warps x.slot (settledAtRconv s x) } :=
    settle_eq s x.core x.slot (countCore x.k x.slot) (atRconv s x)
  rw [hd]
  exact (congrArg (settle · x.core x.slot) (updWarp_setCore (k := countCore x.k x.slot))).trans hs

/-- The entry that waits changes only where the warp's lanes stand. -/
theorem atRconv_shape : ∃ (fr hd : List Entry) (ov : List Park), (∀ p ∈ ov, p.reason = .overflow) ∧
    (∀ e ∈ hd, e ∈ x.w.held) ∧ (∀ e ∈ x.w.held, e ∈ hd ∨ ∃ p ∈ ov, p.mask = e.mask ∧ p.pc = e.pc) ∧
    atRconv s x = { countIssue x.k x.ei x.w with
      frontier := fr, held := hd, parks := x.w.parks ++ ov, nextSeq := x.w.nextSeq + ov.length } :=
  setFrontier_shape (countIssue x.k x.ei x.w) _

theorem mem_of_mem_dropAt {α : Type} {l : List α} {n : Nat} {y : α} (h : y ∈ dropAt l n) : y ∈ l := by
  induction l generalizing n with
  | nil => exact h
  | cons z l ih =>
    cases n with
    | zero => exact List.mem_cons_of_mem _ h
    | succ n => exact (List.mem_cons.mp h).elim (· ▸ List.mem_cons_self ..) fun h => List.mem_cons_of_mem _ (ih h)

/-- Counting an issue keeps the lanes of every entry, which waits as it did or issues again. -/
theorem mem_ageOthers {es : List Entry} {n : Nat} {y : Entry} (h : y ∈ ageOthers es n) :
    ∃ z ∈ es, y.mask = z.mask ∧ (y.wait = z.wait ∨ y.wait = .run) := by
  obtain ⟨⟨z, i⟩, hz, rfl⟩ := List.mem_map.mp h
  refine ⟨z, List.fst_mem_of_mem_zipIdx hz, ?_⟩
  dsimp only
  split
  · exact ⟨rfl, .inr rfl⟩
  · split <;> exact ⟨rfl, .inl rfl⟩

/-- The entry's lanes stand at the RCONV, in the frontier or parked by an overflow. -/
theorem settledAtRconv_stands {n : Nat} (hn : hasLane x.e.mask n = true) :
    (∃ y ∈ (settledAtRconv s x).frontier, hasLane y.mask n = true ∧ y.pc = x.e.pc) ∨
      ∃ p ∈ (settledAtRconv s x).parks, hasLane p.mask n = true ∧ p.pc = x.e.pc ∧ p.reason = .overflow := by
  obtain ⟨hpc, hmask⟩ := withPrio_keeps s x.core x.g { issued x.e with wait := .rconv }
  have hstands := setFrontier_keeps (countIssue x.k x.ei x.w) _ n _
    (List.mem_append_right (dropAt (countIssue x.k x.ei x.w).frontier x.ei) (List.mem_singleton_self _)) (hmask.symm ▸ hn)
  rw [hpc] at hstands
  refine hstands.imp (fun ⟨y, hy, hyl, hyp⟩ => ?_) id
  obtain ⟨z, hz, hzl, hzp⟩ := tidy_map_keeps (withPrio (s.setCore x.core
    { countCore x.k x.slot with warps := fput x.k.warps x.slot (atRconv s x) }) x.core (atRconv s x).wg)
    (withPrio_keeps _ _ _) _ n y hy hyl
  exact ⟨z, hz, hzl, hzp.trans hyp⟩

/-- The warp settled is the warp with other entries. -/
theorem settledAtRconv_shape : ∃ (fr hd : List Entry) (ov : List Park), (∀ p ∈ ov, p.reason = .overflow) ∧
    (∀ e ∈ hd, e ∈ x.w.held) ∧ (∀ e ∈ x.w.held, e ∈ hd ∨ ∃ p ∈ ov, p.mask = e.mask ∧ p.pc = e.pc) ∧
    settledAtRconv s x = { countIssue x.k x.ei x.w with
      frontier := fr, held := hd, parks := x.w.parks ++ ov, nextSeq := x.w.nextSeq + ov.length } := by
  obtain ⟨_, hd, ov, hov, hsub, hheld, hshape⟩ := atRconv_shape (s := s) (x := x)
  have hfront : settledAtRconv s x = { atRconv s x with frontier := (settledAtRconv s x).frontier } := rfl
  exact ⟨_, hd, ov, hov, hsub, hheld, hfront.trans (by rw [hshape])⟩

/-- The entry that waits stands at an RCONV alone, so a lane away from every RCONV stays away. -/
theorem settledAtRconv_away {l : Nat} (hl : hasLane x.e.mask l = false)
    (haway : ∀ y ∈ x.w.frontier, hasLane y.mask l = true → y.wait ≠ .rconv) :
    AwayFromRconv (settledAtRconv s x).frontier l := by
  have hes : AwayFromRconv (dropAt (countIssue x.k x.ei x.w).frontier x.ei ++
      [withPrio s x.core x.g { issued x.e with wait := .rconv }]) l := by
    intro y hy hyl
    rcases List.mem_append.mp hy with hy | hy
    · obtain ⟨z, hz, hmask, hwait⟩ := mem_ageOthers (mem_of_mem_dropAt hy)
      exact hwait.elim (fun h => h ▸ haway z hz (hmask ▸ hyl)) fun h => h ▸ nofun
    · rw [List.mem_singleton.mp hy, (withPrio_keeps ..).2] at hyl
      exact absurd hyl (by simpa [issued] using hl)
  exact tidy_away (map_withPrio_away (setFrontier_away hes))

/-- While a live lane is away from every RCONV, none releases. -/
theorem settledAtRconv_stays {l : Nat} (hh : x.w.handler = 0) (hlive : hasLane x.w.live l = true)
    (hl : hasLane x.e.mask l = false) (haway : ∀ y ∈ x.w.frontier, hasLane y.mask l = true → y.wait ≠ .rconv) :
    rconvRelease (settledAtRconv s x) = settledAtRconv s x := by
  obtain ⟨_, _, _, -, -, -, hshape⟩ := settledAtRconv_shape (s := s) (x := x)
  have hfields : (settledAtRconv s x).handler = x.w.handler ∧ (settledAtRconv s x).live = x.w.live := by
    rw [hshape]
    exact ⟨rfl, rfl⟩
  exact rconvRelease_away (hfields.1.trans hh) (hfields.2.symm ▸ hlive) (settledAtRconv_away hl haway)

/-- While a live lane is away from every RCONV, the entry's lanes wait at the instruction. -/
theorem rconv_waits {l : Nat} (hi : Issues (.rconv f) s x) (hc : Clear x) (hh : x.w.handler = 0)
    (hlive : hasLane x.w.live l = true) (hl : hasLane x.e.mask l = false)
    (haway : ∀ y ∈ x.w.frontier, hasLane y.mask l = true → y.wait ≠ .rconv) :
    Claims.Moves (.rconv f) s x x.k x.w fun _ => x.e.pc := by
  obtain ⟨fr, hx, hfr⟩ := rconv_next hi hc
  rw [settledAtRconv_stays hh hlive hl haway] at hx hfr
  refine ⟨_, hx, ?_, fun n hn => ?_⟩
  · obtain ⟨_, hd, ov, hov, hsub, hheld, hshape⟩ := settledAtRconv_shape (s := s) (x := x)
    refine ⟨fr, hd, ov, hov, hsub, hheld, ?_⟩
    rw [hshape]
    rfl
  · refine ⟨_, by simp only [State.warp?, setCore_core]; exact fget_fput_same .., ?_⟩
    rcases settledAtRconv_stands hn with ⟨y, hy, hyl, hyp⟩ | hpark
    · obtain ⟨v, hv, hvl, hvp⟩ := hfr n y hy hyl
      exact .inl ⟨v, hv, hvl, hvp.trans hyp⟩
    · exact .inr hpark

theorem mergeEntry_nil {e : Entry} (h : e.mask ≠ 0) : mergeEntry [] e = [e] := by
  rw [mergeEntry, if_neg h]
  rfl

/-- A single entry is tidy. -/
theorem tidy_single {e : Entry} (h : e.mask ≠ 0) : tidy [e] = [e] := by
  simp [tidy, mergeEntry_nil h, sortBy, insertBy]

theorem setFrontier_single {w : Warp} {e : Entry} (h : e.mask ≠ 0) (hheld : w.held = []) :
    setFrontier w [e] = { w with frontier := [e] } := by
  simp [setFrontier, mergeEntry_nil h, hheld, sortBy, insertBy]

/-- A converged warp at an RCONV has its one entry there. -/
theorem settledAtRconv_single (hfront : x.w.frontier = [x.e]) (hei : x.ei = 0) (hm : x.e.mask ≠ 0) (hheld : x.w.held = []) :
    ∃ e, settledAtRconv s x = { countIssue x.k x.ei x.w with frontier := [e] } ∧ e.pc = x.e.pc ∧ e.mask = x.e.mask ∧
      e.wait = .rconv := by
  obtain ⟨hpc, hmask⟩ := withPrio_keeps s x.core x.g { issued x.e with wait := .rconv }
  have hwait : (withPrio s x.core x.g { issued x.e with wait := .rconv }).wait = .rconv := withPrio_wait
  have hat : atRconv s x = { countIssue x.k x.ei x.w with
      frontier := [withPrio s x.core x.g { issued x.e with wait := .rconv }] } := by
    have hdrop : dropAt (countIssue x.k x.ei x.w).frontier x.ei = [] := by
      simp [countIssue, ageOthers, hfront, hei, dropAt]
    rw [atRconv, replaceEntry, hdrop]
    exact setFrontier_single (hmask ▸ hm) hheld
  refine ⟨withPrio (s.setCore x.core { countCore x.k x.slot with warps := fput x.k.warps x.slot (atRconv s x) }) x.core
    (atRconv s x).wg (withPrio s x.core x.g { issued x.e with wait := .rconv }), ?_, ?_, ?_, ?_⟩
  · have htidy : tidy ((atRconv s x).frontier.map (withPrio (s.setCore x.core
        { countCore x.k x.slot with warps := fput x.k.warps x.slot (atRconv s x) }) x.core (atRconv s x).wg)) =
        [withPrio (s.setCore x.core { countCore x.k x.slot with warps := fput x.k.warps x.slot (atRconv s x) }) x.core
          (atRconv s x).wg (withPrio s x.core x.g { issued x.e with wait := .rconv })] := by
      have hf : (atRconv s x).frontier = [withPrio s x.core x.g { issued x.e with wait := .rconv }] := by rw [hat]
      rw [hf]
      exact tidy_single (by rw [(withPrio_keeps ..).2, hmask]; exact hm)
    rw [settledAtRconv, htidy]
    generalize withPrio _ _ _ _ = e
    rw [hat]
  · rw [(withPrio_keeps ..).1, hpc]
    rfl
  · rw [(withPrio_keeps ..).2, hmask]
    rfl
  · rw [withPrio_wait, hwait]

/-- A barrier at which the one entry holds every live lane releases it. -/
theorem rconvRelease_single {w : Warp} {e : Entry} (hh : w.handler = 0) (hlive : w.live ≠ 0) (hf : w.frontier = [e])
    (hm : e.mask = w.live) (hwait : e.wait = .rconv) (hheld : w.held = []) :
    rconvRelease w = { w with frontier := [stepPast { e with wait := .run } 1] } := by
  have hand : ¬e.mask &&& w.live = 0 := by simpa only [hm, BitVec.and_self] using hlive
  have hneed : ¬(w.live = 0 ∨ (0 ||| e.mask) &&& w.live ≠ w.live) := by
    rintro (h | h)
    · exact hlive h
    · simp [hm] at h
  have hstep : (stepPast { e with wait := .run } 1).mask ≠ 0 := by
    rw [(stepPast_keeps _ _).1]
    exact hm ▸ hlive
  have hset := setFrontier_single hstep hheld
  unfold rconvRelease
  simp only [hf, hh, if_true, hwait, List.filter_cons, hand, not_false_eq_true, ne_eq, and_self, decide_true, List.filter_nil,
    List.foldl_cons, List.foldl_nil, if_neg hneed, not_true, decide_false, Bool.false_eq_true, if_false, List.nil_append,
    hset, List.isEmpty_nil, Bool.not_true, Bool.or_false]

/-- A converged warp's one entry is the one that issues. -/
theorem converged_entry {i : Instr} (hi : Issues i s x) (h : converged x.w = true) :
    x.w.frontier = [x.e] ∧ x.ei = 0 ∧ x.e.mask = x.w.live ∧ x.w.parks = [] ∧ x.w.held = [] := by
  obtain ⟨-, -, -, -, -, -, he, -⟩ := ctxOf_fields hi.2
  unfold converged at h
  split at h
  · rename_i e hf
    simp only [Bool.and_eq_true, decide_eq_true_eq, List.isEmpty_iff] at h
    obtain ⟨⟨hm, hp⟩, hh⟩ := h
    rw [hf] at he
    obtain ⟨hei, rfl⟩ : x.ei = 0 ∧ e = x.e := by
      cases hn : x.ei with
      | zero => exact ⟨rfl, by simpa [hn] using he⟩
      | succ n => simp [hn] at he
    exact ⟨hf, hei, hm, hp, hh⟩
  · cases h

/-- When the issuing entry holds every live lane, the barrier releases at once. -/
theorem rconv_releases (hi : Issues (.rconv f) s x) (hc : Clear x) (hh : x.w.handler = 0)
    (hconv : converged x.w = true) (hlive : x.w.live ≠ 0) : Completes (.rconv f) s x x.k x.w := by
  obtain ⟨hfront, hei, hmask, hparks, hheld⟩ := converged_entry hi hconv
  have hnext : nextPc x = x.e.pc + BitVec.ofNat 64 (4 * 1) := by
    rw [nextPc, (ctxOf_fields hi.2).1]
    rfl
  obtain ⟨e, hsettled, hpc, hm, hwait⟩ := settledAtRconv_single (s := s) hfront hei (hmask ▸ hlive) hheld
  have hrelease := rconvRelease_single (w := settledAtRconv s x) (e := e) (by rw [hsettled]; exact hh)
    (by rw [hsettled]; exact hlive) (by rw [hsettled]) (by rw [hsettled]; exact hm.trans hmask) hwait
    (by rw [hsettled]; exact hheld)
  obtain ⟨fr, hx, hfr⟩ := rconv_next hi hc
  rw [hrelease] at hx hfr
  refine ⟨_, hx, ⟨fr, x.w.held, [], nofun, fun _ h => h, fun _ h => .inl h, ?_⟩, fun l hl => ?_⟩
  · rw [hsettled]
    simp only [List.append_nil]
    rfl
  · obtain ⟨hsm, hsp⟩ := stepPast_keeps { e with wait := .run } 1
    obtain ⟨y, hy, hyl, hyp⟩ := hfr l _ (List.mem_singleton_self _) (by rw [hsm]; exact hm ▸ hl)
    refine ⟨_, by simp only [State.warp?, setCore_core]; exact fget_fput_same .., .inl ⟨y, hy, hyl, ?_⟩⟩
    rw [hyp, hsp, hnext, ← hpc]

end

theorem reconvergence : Parts.Reconvergence :=
  fun _ _ _ hi hc hh => ⟨rconv_releases hi hc hh, fun _ hlive hl haway => rconv_waits hi hc hh hlive hl haway⟩

/-- Settles O18: a branch is finished with an entry for each lane's target, and RCONV's entry waits until no lane is away. -/
theorem branchesAndReconvergence : Obligations.BranchesAndReconvergence := ⟨branches, reconvergence⟩

end Sys2Proof.Proofs
end

section
/-! EXIT ends its lanes; FORK, JOIN and SPAWN go on past what they give the sequencer, read or push. -/

namespace Sys2Proof.Proofs

open Sys2Proof.Machine Sys2Proof.Safety

/-! ### A slot that stays without a warp -/

/-- A key taken out of rising keys is gone. -/
theorem fget_fdel_self {α : Type} {m : FMap α} {lo : Nat} (hm : risingFrom lo m = true) (i : Nat) : fget (fdel m i) i = none := by
  induction m generalizing lo with
  | nil => rfl
  | cons p m ih =>
    obtain ⟨k, v⟩ := p
    simp only [risingFrom, Bool.and_eq_true, decide_eq_true_eq] at hm
    obtain ⟨-, hrest⟩ := hm
    unfold fdel
    split
    · exact fget_below hrest (by omega)
    · rename_i hki
      split
      · rename_i hlt
        simp [fget, hki, hlt]
      · rename_i hlt
        simp [fget, hki, hlt, ih hrest]

/-- Nothing is found after a change of the values either. -/
theorem fget_map_none {α : Type} {m : FMap α} {f : Nat × α → Nat × α} {i : Nat} (hf : ∀ p, (f p).1 = p.1)
    (h : fget m i = none) : fget (m.map f) i = none := by
  have hm : m.map f = m.map fun p => (p.1, (f (p.1, p.2)).2) := List.map_congr_left fun p _ => Prod.ext (hf p) rfl
  rw [hm, fget_map m (fun k x => (f (k, x)).2) i, h]
  rfl

section
variable {s : State} {c sl : Nat}

/-- A core changed without a warp put in the slot leaves it free. -/
theorem updCore_free {d : Nat} {f : Core → Core} (hf : ∀ k, fget k.warps sl = none → fget (f k).warps sl = none)
    (h : s.warp? c sl = none) : (s.updCore d f).warp? c sl = none := by
  by_cases hcd : c = d
  · subst hcd
    simpa [State.warp?] using hf _ h
  · simpa only [State.warp?, State.updCore, setCore_core_other _ _ hcd] using h

theorem foldl_free {α : Type} {f : State → α → State} (hf : ∀ s a, s.warp? c sl = none → (f s a).warp? c sl = none) :
    ∀ (as : List α) {s : State}, s.warp? c sl = none → (as.foldl f s).warp? c sl = none
  | [], _, h => h
  | a :: as, _, h => foldl_free hf as (hf _ a h)

theorem barSettle_free {g n : Nat} (h : s.warp? c sl = none) : (barSettle s g n).warp? c sl = none := by
  unfold barSettle
  split
  · exact h
  · dsimp only
    split
    · refine updCore_free (fun k hk => ?_) h
      refine fget_map_none (fun q => ?_) hk
      split
      · split <;> rfl
      · rfl
    · exact h

theorem releaseGroup_free {cl : Nat} (h : s.warp? c sl = none) : (releaseGroup s cl).warp? c sl = none :=
  foldl_free (f := fun s j => s.updCore (cl / 40 * 160 + j) fun k => { k with array := { k.array with claims := [] } })
    (fun _ _ h => updCore_free (fun _ hk => hk) h) _ h

theorem addRestoring_free {x : Wg} {n : Int} (h : s.warp? c sl = none) : (addRestoring s x n).warp? c sl = none :=
  updCore_free (fun _ hk => hk) h

theorem ite_free {p : Prop} [Decidable p] {t : State} (hs : s.warp? c sl = none) (ht : t.warp? c sl = none) :
    (if p then s else t).warp? c sl = none := by
  split <;> assumption

theorem updWg_free {g : Nat} {f : Wg → Wg} (h : s.warp? c sl = none) : (s.updWg g f).warp? c sl = none := h

theorem updDev_free {d : Nat} {f : Dev → Dev} (h : s.warp? c sl = none) : (s.updDev d f).warp? c sl = none := h

theorem updDie_free {d : Nat} {f : Die → Die} (h : s.warp? c sl = none) : (s.updDie d f).warp? c sl = none := by
  unfold State.warp? State.core at h ⊢
  rw [show (s.updDie d f).cores = s.cores from rfl]
  cases hk : fget s.cores c with
  | none => rfl
  | some k => simpa only [hk] using h

theorem freeWg_free {g : Nat} (h : s.warp? c sl = none) : (freeWg s g).warp? c sl = none := by
  unfold freeWg
  split
  · exact h
  · rename_i x _
    refine ite_free h ?_
    have hrestored : (if x.ck.restoring then addRestoring s x (-1) else s).warp? c sl = none := ite_free (addRestoring_free h) h
    cases x.cg
    case' some => refine ite_free ?_ (releaseGroup_free ?_)
    all_goals
      refine updWg_free (updDev_free ?_)
      split
      · exact updDie_free (updDie_free hrestored)
      · exact updDie_free hrestored

theorem settleBars_free {g : Nat} (h : s.warp? c sl = none) : (settleBars s g).warp? c sl = none :=
  foldl_free (fun _ _ => barSettle_free) _ h

/-- A warp dropped leaves its slot free. -/
theorem dropWarp_free (hm : risingFrom 0 (s.core c).warps = true) : (dropWarp s c sl).warp? c sl = none := by
  unfold dropWarp
  split
  · assumption
  · rw [State.warp?, updCore_core]
    exact fget_fdel_self hm sl

/-- The end of a warp leaves its slot free. -/
theorem endWarp_free {g : Nat} (hm : risingFrom 0 (s.core c).warps = true) : (endWarp s c sl g).warp? c sl = none := by
  have hdrop : (dropWarp (orphanCopies s c sl) c sl).warp? c sl = none := dropWarp_free (by simpa [orphanCopies] using hm)
  unfold endWarp
  dsimp only
  split
  · exact updWg_free hdrop
  · exact ite_free (updWg_free hdrop) (ite_free (settleBars_free (updWg_free hdrop))
      (ite_free (freeWg_free (updWg_free hdrop)) (updWg_free (updWg_free hdrop))))

end

/-! ### EXIT (R24, R238) -/

/-- Lane l of a warp stands at an address, in the frontier or parked by an overflow. -/
def StandsAt (w : Warp) (l : Nat) (pc : Double) : Prop :=
  (∃ e ∈ w.frontier, hasLane e.mask l = true ∧ e.pc = pc) ∨
    ∃ p ∈ w.parks, hasLane p.mask l = true ∧ p.pc = pc ∧ p.reason = .overflow

theorem laneAt_iff {s : State} {c sl l : Nat} {pc : Double} :
    laneAt s c sl l pc ↔ ∃ w, s.warp? c sl = some w ∧ StandsAt w l pc := Iff.rfl

/-- Warp w' is warp w but for where its lanes stand, its handler and what it waits for. -/
def Restood (w w' : Warp) : Prop :=
  w' = { w with
    frontier := w'.frontier, held := w'.held, parks := w'.parks, nextSeq := w'.nextSeq, handler := w'.handler
    hold := w'.hold, grace := w'.grace, graceHeld := w'.graceHeld, rconvSplit := w'.rconvSplit }

theorem Restood.trans {u v w : Warp} (huv : Restood u v) (hvw : Restood v w) : Restood u w :=
  Eq.trans hvw (congrArg (fun v : Warp => { v with
    frontier := w.frontier, held := w.held, parks := w.parks, nextSeq := w.nextSeq, handler := w.handler
    hold := w.hold, grace := w.grace, graceHeld := w.graceHeld, rconvSplit := w.rconvSplit }) huv)

/-- A barrier stays, or lets the entries at one of its addresses go on. -/
theorem rconvRelease_cases (w : Warp) :
    rconvRelease w = w ∨ ∃ e b, e ∈ w.frontier ∧ e.wait = .rconv ∧
      rconvRelease w =
        { setFrontier w ((w.frontier.filter fun y => decide (y.pc ≠ e.pc)) ++ [stepPast { e with wait := .run } 1]) with
          rconvSplit := b } := by
  unfold rconvRelease
  generalize (if w.handler = 0 then w.live else w.handler) = need
  dsimp only
  split
  · exact .inl rfl
  · split
    · exact .inl rfl
    · rename_i e rest hwaiting
      obtain ⟨he, hwait⟩ := List.mem_filter.mp (hwaiting ▸ List.mem_cons_self .. : e ∈ _)
      exact .inr ⟨e, _, he, (of_decide_eq_true hwait).1, rfl⟩

theorem rconvRelease_restood (w : Warp) : Restood w (rconvRelease w) := by
  obtain h | ⟨e, b, -, -, h⟩ := rconvRelease_cases w <;>
    · rw [h]
      rfl

theorem leaveHandler_restood (w : Warp) (m : Word) : Restood w (leaveHandler w m) := by
  generalize hv : leaveHandler w m = v
  unfold leaveHandler at hv
  dsimp only at hv
  split at hv <;> exact hv ▸ rfl

/-- A release does not touch what the warp waits for. -/
theorem rconvRelease_waits (w : Warp) :
    (rconvRelease w).grace = w.grace ∧ (rconvRelease w).graceHeld = w.graceHeld ∧ (rconvRelease w).hold = w.hold := by
  obtain h | ⟨e, b, -, -, h⟩ := rconvRelease_cases w <;>
    · rw [h]
      exact ⟨rfl, rfl, rfl⟩

/-- No entry of a list at an address waits at an RCONV. -/
def NoRconvAt (es : List Entry) (pc : Double) : Prop := ∀ y ∈ es, y.pc = pc → y.wait ≠ .rconv

theorem mergeEntry_noRconvAt {es : List Entry} {e : Entry} {pc : Double} (hes : NoRconvAt es pc)
    (he : e.pc = pc → e.wait ≠ .rconv) : NoRconvAt (mergeEntry es e) pc := by
  unfold mergeEntry
  split
  · exact hes
  · split
    · intro y hy hpc
      obtain ⟨z, hz, rfl⟩ := List.mem_map.mp hy
      by_cases hzpc : z.pc = e.pc
      · rw [if_pos hzpc] at hpc ⊢
        by_cases hw : z.wait = e.wait
        · exact if_pos hw ▸ hes z hz hpc
        · exact if_neg hw ▸ nofun
      · rw [if_neg hzpc] at hpc ⊢
        exact hes z hz hpc
    · intro y hy hpc
      rcases List.mem_append.mp hy with hy | hy
      · exact hes y hy hpc
      · exact List.mem_singleton.mp hy ▸ he (List.mem_singleton.mp hy ▸ hpc)

theorem foldl_merge_noRconvAt {es acc : List Entry} {pc : Double} (hes : NoRconvAt es pc) (hacc : NoRconvAt acc pc) :
    NoRconvAt (es.foldl mergeEntry acc) pc := by
  induction es generalizing acc with
  | nil => exact hacc
  | cons e es ih =>
    exact ih (fun y hy => hes y (List.mem_cons_of_mem _ hy)) (mergeEntry_noRconvAt hacc (hes e (List.mem_cons_self ..)))

theorem tidy_noRconvAt {es : List Entry} {pc : Double} (hes : NoRconvAt es pc) : NoRconvAt (tidy es) pc := fun y hy =>
  foldl_merge_noRconvAt hes (acc := []) nofun y ((mem_sortBy ..).mp hy)

theorem map_withPrio_noRconvAt {s : State} {c g : Nat} {es : List Entry} {pc : Double} (hes : NoRconvAt es pc) :
    NoRconvAt (es.map (withPrio s c g)) pc := by
  intro y hy hpc
  obtain ⟨z, hz, rfl⟩ := List.mem_map.mp hy
  rw [withPrio_wait]
  exact hes z hz ((withPrio_keeps s c g z).1 ▸ hpc)

/-- An entry that runs brings the entries at its address to run. -/
theorem mergeEntry_run {es : List Entry} {e : Entry} (hm : e.mask ≠ 0) (he : e.wait = .run) :
    NoRconvAt (mergeEntry es e) e.pc := by
  unfold mergeEntry
  rw [if_neg hm]
  split
  · intro y hy hpc
    obtain ⟨z, hz, rfl⟩ := List.mem_map.mp hy
    by_cases hzpc : z.pc = e.pc
    · rw [if_pos hzpc, he]
      dsimp only
      split <;> simp_all
    · rw [if_neg hzpc] at hpc
      exact absurd hpc hzpc
  · rename_i hany
    intro y hy hpc
    rcases List.mem_append.mp hy with hy | hy
    · exact absurd (List.any_eq_true.mpr ⟨y, hy, decide_eq_true hpc⟩) hany
    · rw [List.mem_singleton.mp hy, he]
      nofun

/-- A frontier given with a running entry last has none at that entry's address that waits at an RCONV. -/
theorem setFrontier_run {w : Warp} {es : List Entry} {e : Entry} (hm : e.mask ≠ 0) (he : e.wait = .run) :
    NoRconvAt (setFrontier w (es ++ [e])).frontier e.pc := by
  intro y hy
  refine mergeEntry_run (es := es.foldl mergeEntry []) hm he y ?_
  simp only [setFrontier, mem_sortBy, List.mem_map, List.mem_filter, List.foldl_append, List.foldl_cons, List.foldl_nil] at hy
  obtain ⟨⟨z, b⟩, ⟨hz, hb⟩, rfl⟩ := hy
  simpa [mem_sortBy, show b = false by simpa using hb] using List.mem_of_mem_take hz

/-- After an issue that leaves one running entry, none at its address waits at an RCONV. -/
theorem done_run {s : State} {x : Ctx} {k : Core} {w v : Warp} {e : Entry} (hm : e.mask ≠ 0) (he : e.wait = .run)
    (hv : (done s x k w [e]).warp? x.core x.slot = some v) : NoRconvAt v.frontier e.pc := by
  obtain ⟨hpc, hmask⟩ := withPrio_keeps s x.core x.g e
  have hrun := setFrontier_run (w := countIssue k x.ei w) (es := dropAt (countIssue k x.ei w).frontier x.ei)
    (e := withPrio s x.core x.g e) (hmask ▸ hm) (withPrio_wait.trans he)
  rw [hpc] at hrun
  have hdone : done s x k w [e] = _ := settle_eq s x.core x.slot (countCore k x.slot)
    (replaceEntry (countIssue k x.ei w) x.ei [withPrio s x.core x.g e])
  rw [hdone, State.warp?, setCore_core, fget_fput_same] at hv
  obtain rfl := Option.some.inj hv
  exact tidy_noRconvAt (map_withPrio_noRconvAt hrun)

/-- A release at another address leaves a lane where it stands. -/
theorem rconvRelease_stands {w : Warp} {l : Nat} {pc : Double} (hn : NoRconvAt w.frontier pc) (h : StandsAt w l pc) :
    StandsAt (rconvRelease w) l pc := by
  obtain hw | ⟨e, b, he, hwait, hw⟩ := rconvRelease_cases w
  · exact hw.symm ▸ h
  · rw [hw]
    rcases h with ⟨y, hy, hyl, rfl⟩ | ⟨p, hp, hrest⟩
    · have hapart : y.pc ≠ e.pc := fun hpc => hn e he hpc.symm hwait
      exact setFrontier_keeps w _ l y (List.mem_append_left _ (List.mem_filter.mpr ⟨hy, decide_eq_true hapart⟩)) hyl
    · exact .inr ⟨p, List.mem_append_left _ hp, hrest⟩

/-- Entries let past a barrier stand where they stood. -/
theorem barRelease_stands {w : Warp} {l : Nat} {pc : Double} (h : StandsAt w l pc) : StandsAt (barRelease w) l pc := by
  refine h.imp_left fun ⟨y, hy, hyl, hpc⟩ => ⟨_, List.mem_map_of_mem hy, ?_⟩
  split <;> exact ⟨hyl, hpc⟩

/-- A warp after the ended lanes of an EXIT leave the barriers and the handler. -/
def leftBy (x : Ctx) (m : Word) (w : Warp) : Warp :=
  barRelease (rconvRelease (if x.w.handler &&& m ≠ 0 then leaveHandler w m else w))

theorem leftBy_restood (x : Ctx) (m : Word) (w : Warp) : Restood w (leftBy x m w) := by
  have hhandler : Restood w (if x.w.handler &&& m ≠ 0 then leaveHandler w m else w) := by
    split
    · exact leaveHandler_restood w m
    · rfl
  exact (hhandler.trans (rconvRelease_restood _)).trans rfl

theorem Restood.live {w w' : Warp} (h : Restood w w') : w'.live = w.live := by
  unfold Restood at h
  rw [h]

section
variable {s : State} {x : Ctx} {f : F3}

/-- EXIT with its checks passed goes on to the end of its lanes. -/
theorem exit_next (hi : Issues (.exit f) s x) (hc : Clear x) (h6 : row6 x = none)
    (hdepth : ∀ l, hasLane x.act l = true → x.w.depth.getD l 0 = 0) (hround : x.w.round.st = .idle) (hreads : readsOf x = [])
    (hpool : x.wg.pool = false) (hthreads : x.w.poolThreads = []) :
    exec (.exit f) s = .next (if x.act = 0 then goOn s x x.k x.w else endLanes s x x.act) := by
  have hjoins : (maskOf fun l => hasLane x.act l && decide (joinOf x.w l ≠ 0 ∧ joinOf x.w l % 32 = 0)) = 0 := by
    simp only [joinOf, hthreads, fget, Option.getD_none, ne_eq, not_true, false_and, decide_false, Bool.and_false]
    decide
  have hopen : ((lanesOf x.act).any fun l => decide (depthOf x.w l ≠ 0)) = false := by
    rw [List.any_eq_false]
    exact fun l hl => by simpa [depthOf] using hdepth l (mem_lanesOf.mp hl)
  have hnone : lanesOf 0#32 = [] := by decide
  refine (issueIn_warp hi).trans (congrArg _ ((gate_next hc rfl (fun _ => h6) ?_ (by simp) ?_).trans ?_))
  · simp only [hopen, hround, hjoins]
    simp [firstBad, hnone]
  · simp only [hreads, hjoins]
    simp [countFull, laneCount, hnone]
  · simp only [hpool, Bool.false_eq_true, if_false]

/-- The warp at the issue of an EXIT that some lanes outlive. -/
def exited (x : Ctx) (m : Word) : Warp := { x.w with live := x.w.live &&& ~~~m }

/-- The entry of an EXIT without the ended lanes. -/
def outlived (x : Ctx) (m : Word) : Entry := part (passed x) (x.e.mask &&& ~~~m)

/-- Warp w is the warp of an EXIT whose lanes are gone, before they leave the barriers and the handler. -/
def LanesGone (x : Ctx) (m : Word) (w : Warp) : Prop :=
  w = { x.w with
    live := x.w.live &&& ~~~m, frontier := w.frontier, held := w.held, parks := w.parks, nextSeq := w.nextSeq
    waitCount := 0, lastIssue := x.k.issueClock + 1 }

theorem done_exited {m : Word} : ∃ w, (done s x x.k (exited x m) [outlived x m]).warp? x.core x.slot = some w ∧
    LanesGone x m w := by
  obtain ⟨⟨fr, hd, ov, -, -, -, hdone⟩, -⟩ := done_leaves s x x.k (exited x m) [outlived x m]
  exact ⟨_, (congrArg (State.warp? · x.core x.slot) hdone).trans (warp?_setCore.trans (fget_fput_same ..)), rfl⟩

theorem LanesGone.fields {m : Word} {w : Warp} (h : LanesGone x m w) :
    w.live = x.w.live &&& ~~~m ∧ w.grace = x.w.grace ∧ w.graceHeld = x.w.graceHeld ∧
      w.hold = x.w.hold := by
  unfold LanesGone at h
  rw [h]
  exact ⟨rfl, rfl, rfl, rfl⟩

/-- The warp an EXIT leaves is the one that issued it but for its live lanes, where they stand and what it waits for. -/
theorem LanesGone.restood {m : Word} {w v : Warp} (h : LanesGone x m w) (hv : Restood w v) :
    v = { x.w with
      live := x.w.live &&& ~~~m, frontier := v.frontier, held := v.held, parks := v.parks, nextSeq := v.nextSeq
      handler := v.handler, hold := v.hold, grace := v.grace, graceHeld := v.graceHeld, rconvSplit := v.rconvSplit
      waitCount := 0, lastIssue := x.k.issueClock + 1 } :=
  Eq.trans hv (congrArg (fun w : Warp => { w with
    frontier := v.frontier, held := v.held, parks := v.parks, nextSeq := v.nextSeq, handler := v.handler
    hold := v.hold, grace := v.grace, graceHeld := v.graceHeld, rconvSplit := v.rconvSplit }) h)

/-- Lanes that outlive an EXIT outside a handler stand at the next instruction. -/
theorem leftBy_stands {m : Word} {l : Nat} {w : Warp} (hl : hasLane (x.e.mask &&& ~~~m) l = true)
    (hw : (done s x x.k (exited x m) [outlived x m]).warp? x.core x.slot = some w) (hh : x.w.handler = 0) :
    StandsAt (leftBy x m w) l (nextPc x) := by
  have hpc : (outlived x m).pc = nextPc x := passed_pc x
  have hrun : (outlived x m).wait = .run := by
    unfold outlived part passed stepPast
    dsimp only
    split
    · rfl
    · split <;> rfl
  obtain ⟨v, hv, hstands⟩ := (done_leaves s x x.k (exited x m) [outlived x m]).2 _ (List.mem_singleton_self _) l hl
  obtain rfl := Option.some.inj (hw.symm.trans hv)
  rw [leftBy, if_neg (by simp [hh])]
  exact hpc ▸ barRelease_stands (rconvRelease_stands (done_run (ne_zero_of_hasLane hl) hrun hw) hstands)

/-- Lanes that end outside the handler leave what the warp waits for. -/
theorem leftBy_waits {w : Warp} {m : Word} (h : x.w.handler &&& m = 0) :
    (leftBy x m w).grace = w.grace ∧ (leftBy x m w).graceHeld = w.graceHeld ∧ (leftBy x m w).hold = w.hold := by
  rw [leftBy, if_neg (by simp [h])]
  exact rconvRelease_waits w

/-- EXIT that some lanes outlive changes only the warp. -/
theorem endLanes_leaves {m : Word} (hk : x.k = s.core x.core) (hlive : x.w.live &&& ~~~m ≠ 0) :
    ∃ w v, LanesGone x m w ∧ Restood w v ∧
      endLanes s x m = s.setCore x.core { countCore x.k x.slot with warps := fput x.k.warps x.slot v } ∧
      (x.w.handler &&& m = 0 → v.grace = w.grace ∧ v.graceHeld = w.graceHeld ∧ v.hold = w.hold) ∧
      ∀ l, hasLane (x.e.mask &&& ~~~m) l = true → x.w.handler = 0 → StandsAt v l (nextPc x) := by
  obtain ⟨w, hw, hgone⟩ := done_exited (s := s) (x := x) (m := m)
  obtain ⟨⟨_, _, _, -, -, -, hdone⟩, -⟩ := done_leaves s x x.k (exited x m) [outlived x m]
  obtain ⟨fr, hs, hfr⟩ := settle_shape s x.core x.slot (countCore x.k x.slot) (leftBy x m w)
  refine ⟨w, { leftBy x m w with frontier := fr }, hgone, (leftBy_restood x m w).trans rfl, ?_, leftBy_waits, fun l hl hh => ?_⟩
  · have hend : endLanes s x m =
        settle ((done s x x.k (exited x m) [outlived x m]).updWarp x.core x.slot (leftBy x m)) x.core x.slot := by
      unfold endLanes
      dsimp only
      rw [if_neg hlive, hk]
      rfl
    have hw' := hw
    rw [hdone] at hw'
    obtain rfl := Option.some.inj ((warp?_setCore.trans (fget_fput_same ..)).symm.trans hw')
    rw [hend, hdone]
    exact (congrArg (settle · x.core x.slot) (updWarp_setCore (k := countCore x.k x.slot))).trans hs
  · refine (leftBy_stands hl hw hh).imp_left fun ⟨e, he, hel, hpc⟩ => ?_
    obtain ⟨y, hy, hyl, hyp⟩ := hfr l e he hel
    exact ⟨y, hy, hyl, hyp.trans hpc⟩

/-- With no lane left the warp ends. -/
theorem endLanes_ended {m : Word} (hlive : x.w.live &&& ~~~m = 0) (ho : orderedMaps s = true) :
    (endLanes s x m).warp? x.core x.slot = none := by
  rw [endLanes, if_pos hlive]
  exact endWarp_free ((coreKept_core (kept_done (kept_refl s) (coreKept_core (kept_refl s)))).warps ho)

theorem exitLanes : Parts.ExitLanes := by
  intro f s x hi hc h6 hdepth hround hreads hpool hthreads
  have hnext := exit_next hi hc h6 hdepth hround hreads hpool hthreads
  refine ⟨fun ha => ⟨_, hnext.trans (by rw [if_pos ha]), goOn_leaves s x x.k x.w⟩, fun ha hlive => ?_, fun ha hlive ho => ?_⟩
  · obtain ⟨w, v, hgone, hv, hend, hwaits, hstands⟩ := endLanes_leaves (ctxOf_fields hi.2).2.1 hlive
    obtain ⟨hlive', hgrace, hgraceHeld, hhold⟩ := hgone.fields
    have hslot : (s.setCore x.core { countCore x.k x.slot with warps := fput x.k.warps x.slot v }).warp? x.core x.slot = some v :=
      warp?_setCore.trans (fget_fput_same ..)
    refine ⟨_, v, hnext.trans ((congrArg _ (if_neg ha)).trans (congrArg _ hend)), hslot, hv.live.trans hlive',
      fun l hl _ hh => ⟨v, hslot, hstands l hl hh⟩, fun hh => ?_, ?_, rfl⟩
    · obtain ⟨h1, h2, h3⟩ := hwaits hh
      exact ⟨h1.trans hgrace, h2.trans hgraceHeld, h3.trans hhold⟩
    · rw [hv.live.trans hlive']
      exact hgone.restood hv
  · exact ⟨_, hnext.trans (by rw [if_neg ha]), endLanes_ended hlive ho⟩

/-! ### FORK, JOIN and SPAWN (R48, R241 to R243) -/

/-- An object's place that is aligned and inside the allocation raises no trap. -/
theorem objectTrap_none {o : Nat} (h8 : o % 8 = 0) (hsize : o + 8 ≤ x.wg.size) : objectTrap x o = none := by
  rw [objectTrap, if_neg (not_not.mpr h8), if_neg (by omega)]

/-- Values that are good in every active lane raise no trap. -/
theorem firstBad_none {m : Word} {cause : Nat} {v : Nat → Nat} {bad : Nat → Bool}
    (h : ∀ l, hasLane m l = true → bad (v l) = false) : firstBad m cause v bad = none := by
  rw [firstBad, Option.map_eq_none_iff, List.find?_eq_none]
  exact fun l hl => by simp [h l (mem_lanesOf.mp hl)]

/-- With its checks passed, an instruction of a warp that is not speculative leaves its plan's next state. -/
theorem issue_next {i : Instr} {plan : Ctx → Plan} (hi : Issues i s x) (hc : Clear x) (hspec : speculative x.w = false)
    (hsurface : (plan x).surface = false) (hpriv : (plan x).priv = none) (hown : (plan x).own = none)
    (hwait : (plan x).wait = none) : issue i s plan = .next (plan x).next :=
  (issue_warp hi).trans (congrArg _ (gate_next hc hpriv (by simp [hsurface]) hown (fun _ => hspec) hwait))

theorem localAddr_aligned {o : Nat} (h : o % 8 = 0) : localAddr o % 8 = 0 := by
  unfold localAddr
  omega

/-- Records pushed one for each lane. -/
theorem spawnPush_map {c lid : Nat} {code frame join : Nat → Double} :
    ∀ (ls : List Nat) (s : State), spawnPush s c lid (ls.map fun l =>
      { lane := l, at_ := 0, data := (frame l).toNat, swap := (join l).toNat, va := (code l).toNat, keep := 0 }) =
      ls.foldl (fun s l => frontPush s c lid (code l) (frame l) (join l)) s := by
  intro ls s
  simp only [spawnPush, List.foldl_map, BitVec.ofNat_toNat, BitVec.setWidth_eq]

theorem targetOk_of_paged {t : Double} (h : Claims.inPaged t) : targetOk t = true := decide_eq_true h

theorem forkJoinSpawn : Parts.ForkJoinSpawn := by
  intro f m s x hc hspec
  refine ⟨fun hi ha hcg => ?_, fun hi => ?_, fun hi hpool => ?_⟩
  · intro l code o cl hcode h8 hsize hbusy k s'
    obtain ⟨halign, hpaged⟩ := hcode
    have hok : ¬(!targetOk code) = true := by
      rw [targetOk_of_paged hpaged]
      nofun
    refine ⟨_, (issue_next hi hc hspec rfl ?_ ?_ ?_).trans (congrArg _ (if_neg ha)), goOn_leaves _ x _ x.w⟩
    · simp [Option.isSome_iff_ne_none.mp hcg]
    · exact (if_neg ha).trans ((if_neg (not_not.mpr halign)).trans ((if_neg hok).trans (objectTrap_none h8 hsize)))
    · exact if_neg fun h => Nat.not_le.mpr hbusy h.2
  · intro o v hgood hstale hbad
    have hnever {p : Nat → Bool} (hp : ∀ l, hasLane x.act l = true → p l = false) : (lanesOf x.act).any p = false :=
      List.any_eq_false.mpr fun l hl => by simp [hp l (mem_lanesOf.mp hl)]
    have hzero := hnever fun l hl => decide_eq_false (hgood l hl).2.2.1
    have hnine := hnever fun l hl => decide_eq_false (hgood l hl).2.2.2
    have hhurt := hnever hbad
    refine ⟨putLanes x x.k f.d.toNat fun l => BitVec.ofNat 32 (v l), putLanes_wrote .., _,
      (issue_next hi hc hspec rfl rfl ?_ ?_).trans (congrArg _ ?_), goOn_leaves _ x _ x.w⟩
    · refine Option.or_eq_none_iff.mpr ⟨Option.or_eq_none_iff.mpr ⟨Option.or_eq_none_iff.mpr ⟨firstBad_none fun l hl => ?_,
        List.findSome?_eq_none_iff.mpr fun l hl => ?_⟩, hstale⟩, if_neg ?_⟩
      · exact decide_eq_false (not_not.mpr (localAddr_aligned (hgood l hl).1))
      · obtain ⟨h8, hsize, -⟩ := hgood l (mem_lanesOf.mp hl)
        exact objectTrap_none h8 hsize
      · exact fun h => Bool.noConfusion (hnine.symm.trans (Bool.and_eq_true_iff.mp h).2)
    · exact if_neg fun h => Bool.noConfusion (hzero.symm.trans (Bool.and_eq_true_iff.mp h).2)
    · exact if_neg fun h => Bool.noConfusion (hhurt.symm.trans h)
  · intro code frame join hgood hroom s'
    refine ⟨_, (issue_next hi hc hspec rfl ?_ ?_ ?_).trans (congrArg _ ?_), goOn_leaves _ x _ x.w⟩
    · simp [hpool]
    · refine Option.or_eq_none_iff.mpr ⟨firstBad_none fun l hl => decide_eq_false (not_not.mpr (hgood l hl).1),
        List.findSome?_eq_none_iff.mpr fun l hl => Option.map_eq_none_iff.mpr (List.find?_eq_none.mpr fun v hv => ?_)⟩
      obtain ⟨-, hcode, hframe, hjoin⟩ := hgood l (mem_lanesOf.mp hl)
      simp only [List.mem_cons, List.not_mem_nil, or_false] at hv
      rw [decide_eq_true_eq, Nat.not_le]
      rcases hv with rfl | rfl | rfl <;> assumption
    · by_cases ha : x.act = 0
      · exact if_pos ha
      · refine (if_neg ha).trans ((if_neg (by simp [hspec])).trans (if_pos (decide_eq_true ?_)))
        rw [List.length_map]
        exact hroom
    · by_cases ha : x.act = 0
      · have hnone : s' = s := by
          show (lanesOf x.act).foldl _ s = s
          rw [ha, show lanesOf 0 = [] by decide]
          rfl
        rw [hnone, ← (ctxOf_fields hi.2).2.1]
        exact if_pos ha
      · refine (if_neg ha).trans ((if_neg (by simp [hspec])).trans ?_)
        dsimp only
        rw [spawnPush_map]

end

/-- Settles O19: EXIT by what its lanes leave or the end of the warp; FORK, JOIN and SPAWN by their plans, the checks passed. -/
theorem exitForkJoinSpawn : Obligations.ExitForkJoinSpawn := ⟨exitLanes, forkJoinSpawn⟩

end Sys2Proof.Proofs
end

section
/-! A finished walk caches its leaf or parks its lanes; the pager's answer marks the records of a page. -/

namespace Sys2Proof.Proofs

open Sys2Proof.Machine Sys2Proof.Safety

/-! ### TRANSLATION_WALK_DONE (R85, R388 to R391) -/

/-- A walk reads no core. -/
theorem walkPage_setCore (s : State) (c : Nat) (h : Core) (k space va : Nat) :
    walkPage (s.setCore c h) k space va = walkPage s k space va := rfl

/-- An added translation stands with those there. -/
theorem mem_tlbAdd {ts : List Tlb} {t : Tlb} : t ∈ tlbAdd ts t ∧ ∀ y ∈ ts, y ∈ tlbAdd ts t := by
  unfold tlbAdd
  split
  · rename_i h
    exact ⟨List.contains_iff_mem.mp h, fun _ hy => hy⟩
  · exact ⟨List.mem_cons_self .., fun _ hy => List.mem_cons_of_mem _ hy⟩

/-- An entry at an address that waits for walks issues again. -/
def afterWalks (pc : Nat) (e : Entry) : Entry := if e.pc.toNat = pc ∧ e.wait = .walk then { e with wait := .run } else e

/-- A warp whose walks for an address are done. -/
def walked (pc : Nat) (w : Warp) : Warp :=
  { w with frontier := w.frontier.map (afterWalks pc), held := w.held.map (afterWalks pc) }

theorem walksDone_last {s : State} {c sl pc : Nat} (h : (s.core c).walks = []) :
    walksDone s c sl pc = s.updWarp c sl (walked pc) := by
  rw [walksDone, h]
  rfl

section
variable {s : State} {c : Nat} {q : Walk} {w : Warp}

/-- A warp of a core written, changed. -/
theorem updWarp_setCore_some {sl : Nat} {k : Core} {f : Warp → Warp} (hw : fget k.warps sl = some w) :
    (s.setCore c k).updWarp c sl f = s.setCore c { k with warps := fput k.warps sl (f w) } := by
  simp only [State.updWarp, State.updCore, setCore_core, setCore_setCore, fupd_some f hw]

/-- The state without a core's one walk. -/
def unwalked (s : State) (c : Nat) : State := s.setCore c { s.core c with walks := [] }

theorem unwalked_eq (hq : (s.core c).walks = [q]) :
    (s.updCore c fun k => { k with walks := dropAt k.walks 0 }) = unwalked s c := by
  simp only [State.updCore, unwalked, hq, dropAt]

/-- A leaf goes into the core's TLB, and the entry issues again. -/
theorem walkDone_leaf {p : Double} {a n : Nat} (hq : (s.core c).walks = [q]) (hw : s.warp? c q.slot = some w)
    (hstop : (s.die (dieOf c)).stopped = false) (hp : walkPage s (devOfCore s c) q.space q.va = .leaf p a n) :
    exec (.translationWalkDone c 0) s = .next (s.setCore c { s.core c with
      walks := [], tlb := tlbAdd (s.core c).tlb (tlbOf q.space q.va p a n),
      warps := fput (s.core c).warps q.slot (walked q.entry w) }) := by
  have hp' : walkPage (unwalked s c) (devOfCore s c) q.space q.va = .leaf p a n := hp
  have hcached : ((unwalked s c).updCore c fun k => { k with tlb := tlbAdd k.tlb (tlbOf q.space q.va p a n) }) =
      s.setCore c { s.core c with walks := [], tlb := tlbAdd (s.core c).tlb (tlbOf q.space q.va p a n) } := by
    simp only [State.updCore, unwalked, setCore_core, setCore_setCore]
  show execTranslationWalkDone c 0 s = _
  unfold execTranslationWalkDone
  simp only [hstop, Bool.false_eq_true, if_false, hq, List.getElem?_cons_zero, unwalked_eq hq, hp', hcached]
  rw [walksDone_last (by rw [setCore_core])]
  exact congrArg _ (updWarp_setCore_some (k := { s.core c with
    walks := [], tlb := tlbAdd (s.core c).tlb (tlbOf q.space q.va p a n) }) hw)

theorem updWarp_warp {sl : Nat} {f : Warp → Warp} (hw : s.warp? c sl = some w) :
    (s.updWarp c sl f).warp? c sl = some (f w) := by
  simp only [State.updWarp, State.updCore, State.warp?, setCore_core, fupd_some f hw, fget_fput_same]

theorem updWarp_walks {sl : Nat} {f : Warp → Warp} : ((s.updWarp c sl f).core c).walks = (s.core c).walks := by
  simp only [State.updWarp, updCore_core]

/-- Records that wait are written to the ring, which is no page's memory. -/
theorem fqDrainGo_shape (k : Nat) : ∀ (n : Nat) (s : State), ∃ m ds, fqDrainGo s k n = { s with cmem := m, devs := ds }
  | 0, s => ⟨_, _, rfl⟩
  | n + 1, s => by
    unfold fqDrainGo
    dsimp only
    split
    · exact ⟨_, _, rfl⟩
    · rename_i r rest _
      generalize (if r.entry.isSome = true then 2 else 1) = take
      split
      · exact ⟨_, _, rfl⟩
      · obtain ⟨m, ds, h⟩ := fqDrainGo_shape k n _
        exact ⟨m, ds, h⟩

/-- A posted fault changes the device and its ring. -/
theorem postFault_shape (s : State) (k : Nat) (r : FaultRec) : ∃ m ds, postFault s k r = { s with cmem := m, devs := ds } := by
  unfold postFault
  dsimp only
  split
  · exact ⟨_, _, rfl⟩
  · obtain ⟨m, ds, h⟩ := fqDrainGo_shape k _ _
    exact ⟨m, ds, h⟩

theorem postFault_core {k d : Nat} {r : FaultRec} : (postFault s k r).core d = s.core d := by
  obtain ⟨m, ds, h⟩ := postFault_shape s k r
  rw [h]
  rfl

theorem postFault_mem {k : Nat} {r : FaultRec} : (postFault s k r).mem = s.mem := by
  obtain ⟨m, ds, h⟩ := postFault_shape s k r
  rw [h]

/-- Where no record of a page is known and none can be written, a posted fault waits. -/
theorem postFault_waits {k : Nat} {r : FaultRec} (hen : (s.dev k).fqen = false) (hknown : (s.dev k).fqknown = []) :
    ((postFault s k r).dev k).fqwait = (s.dev k).fqwait ++ [r] := by
  have hstays (t : State) (n : Nat) (ht : (t.dev k).fqen = false) : fqDrainGo t k n = t := by
    cases n with
    | zero => rfl
    | succ n =>
      unfold fqDrainGo
      dsimp only
      split
      · rfl
      · simp [ht]
  unfold postFault fqDrain
  simp only [hknown, List.contains_nil, Bool.and_false, Bool.false_eq_true, if_false]
  rw [hstays _ _ (by simp [hen]), updDev_dev]

/-- Anything else posts its record and parks the lanes; the rest of the entry issues again. -/
theorem walkDone_bad {kind sub : Nat} {info : Double} (hq : (s.core c).walks = [q])
    (hstop : (s.die (dieOf c)).stopped = false) (hp : walkPage s (devOfCore s c) q.space q.va = .bad kind sub info) :
    ∃ launch, exec (.translationWalkDone c 0) s = .next (((postFault (unwalked s c) (devOfCore s c)
      (walkRecord (unwalked s c) (some c) launch q.space q.va q.access kind sub info)).updWarp c q.slot
        fun w => parkEntry w q.entry q.lanes q).updWarp c q.slot (walked q.entry)) := by
  have hp' : walkPage (unwalked s c) (devOfCore s c) q.space q.va = .bad kind sub info := hp
  apply Exists.intro
  show execTranslationWalkDone c 0 s = _
  unfold execTranslationWalkDone
  simp only [hstop, Bool.false_eq_true, if_false, hq, List.getElem?_cons_zero, unwalked_eq hq, hp']
  rw [walksDone_last]
  rw [updWarp_walks, postFault_core, unwalked, setCore_core]

/-- Of entries at different addresses the one at an address is the one there. -/
theorem eq_of_pc {es : List Entry} {e y : Entry} (hes : (es.map Entry.pc).Nodup) (he : e ∈ es) (hy : y ∈ es) (h : y.pc = e.pc) :
    y = e := List.inj_on_of_nodup_map hes hy he h

/-- The record of lanes parked on a fault of a walk. -/
def parkOf (q : Walk) (e : Entry) (n : Nat) : Park :=
  { pc := e.pc, clause := e.clause, mask := q.lanes &&& e.mask, reason := .xlateFault, va := BitVec.ofNat 64 q.va
    space := q.space, access := q.access, resolved := false, seq := n, spill := none }

/-- Lanes taken out of the entries at an address. -/
def cut (pc : Double) (m : Word) (es : List Entry) : List Entry :=
  (es.map fun y => if y.pc = pc then { y with mask := y.mask &&& ~~~m } else y).filter fun y => decide (y.mask ≠ 0)

/-- The lanes of a walk leave the entry at its address for a park record. -/
theorem parkEntry_eq {e : Entry} (he : e ∈ w.frontier) (hpc : e.pc.toNat = q.entry) (hes : (w.frontier.map Entry.pc).Nodup)
    (hm : q.lanes &&& e.mask ≠ 0) : parkEntry w q.entry q.lanes q = { w with
      frontier := cut e.pc (q.lanes &&& e.mask) w.frontier, held := cut e.pc (q.lanes &&& e.mask) w.held
      parks := w.parks ++ [parkOf q e w.nextSeq], nextSeq := w.nextSeq + 1 } := by
  have hfind : (w.frontier ++ w.held).find? (fun e => decide (e.pc.toNat = q.entry ∧ e.mask &&& q.lanes ≠ 0)) = some e := by
    rw [List.find?_append]
    cases hfound : w.frontier.find? fun e => decide (e.pc.toNat = q.entry ∧ e.mask &&& q.lanes ≠ 0) with
    | none =>
      exact absurd (decide_eq_true ⟨hpc, BitVec.and_comm q.lanes e.mask ▸ hm⟩) (List.find?_eq_none.mp hfound e he)
    | some y =>
      have hgood := List.find?_some hfound
      obtain ⟨hypc, -⟩ := of_decide_eq_true hgood
      rw [eq_of_pc hes he (List.mem_of_find?_eq_some hfound) (BitVec.eq_of_toNat_eq (hypc.trans hpc.symm)), Option.some_or]
  unfold parkEntry
  rw [hfind]
  rfl

/-- Entries elsewhere keep their lanes. -/
theorem mem_cut {es : List Entry} {y : Entry} {pc : Double} {m : Word} (hy : y ∈ es) (hpc : y.pc ≠ pc) (hm : y.mask ≠ 0) :
    y ∈ cut pc m es :=
  List.mem_filter.mpr ⟨List.mem_map.mpr ⟨y, hy, if_neg hpc⟩, decide_eq_true hm⟩

/-- The entry at the address keeps its other lanes. -/
theorem mask_of_mem_cut {es : List Entry} {e y : Entry} {m : Word} (hes : (es.map Entry.pc).Nodup) (he : e ∈ es)
    (hy : y ∈ cut e.pc m es) (hpc : y.pc = e.pc) : y.mask = e.mask &&& ~~~m := by
  obtain ⟨hy, -⟩ := List.mem_filter.mp hy
  obtain ⟨z, hz, rfl⟩ := List.mem_map.mp hy
  by_cases hzpc : z.pc = e.pc
  · rw [if_pos hzpc, eq_of_pc hes he hz hzpc]
  · rw [if_neg hzpc] at hpc
    exact absurd hpc hzpc

theorem afterWalks_keeps (pc : Nat) (e : Entry) : (afterWalks pc e).pc = e.pc ∧ (afterWalks pc e).mask = e.mask := by
  unfold afterWalks
  split <;> exact ⟨rfl, rfl⟩

/-- Once the lanes of a walk are parked, the entry at its address is left with the others. -/
theorem walked_mask {es : List Entry} {e y : Entry} {pc : Nat} {m : Word} (hes : (es.map Entry.pc).Nodup) (he : e ∈ es)
    (hy : y ∈ (cut e.pc (m &&& e.mask) es).map (afterWalks pc)) (hpc : y.pc = e.pc) : y.mask = e.mask &&& ~~~m := by
  obtain ⟨z, hz, rfl⟩ := List.mem_map.mp hy
  obtain ⟨hzpc, hzm⟩ := afterWalks_keeps pc z
  rw [hzm, mask_of_mem_cut hes he hz (hzpc ▸ hpc)]
  refine BitVec.eq_of_getLsbD_eq fun i hi => ?_
  simp only [BitVec.getLsbD_and, BitVec.getLsbD_not, hi, decide_true, Bool.true_and]
  cases e.mask.getLsbD i <;> simp

/-- Entries elsewhere stand as they stood. -/
theorem mem_walked {es : List Entry} {e y : Entry} {pc : Nat} {m : Word} (he : e.pc.toNat = pc) (hy : y ∈ es)
    (hpc : y.pc ≠ e.pc) (hm : y.mask ≠ 0) : y ∈ (cut e.pc m es).map (afterWalks pc) :=
  List.mem_map.mpr ⟨y, mem_cut hy hpc hm, if_neg fun h => hpc (BitVec.eq_of_toNat_eq (h.1.trans he.symm))⟩

end

/-! ### The pager's answer (R396) -/

/-- State t is state s but for the cores of a device, each of which reads as it did. -/
structure Reread (k : Nat) (s t : State) : Prop where
  rest : ∃ m, t = { s with cores := m }
  core : ∀ c, t.core c = s.core c
  elsewhere : ∀ c, devOfCore s c ≠ k → fget t.cores c = fget s.cores c

theorem Reread.refl (k : Nat) (s : State) : Reread k s s := ⟨⟨_, rfl⟩, fun _ => rfl, fun _ _ => rfl⟩

theorem Reread.foldl {α : Type} {k : Nat} {s : State} {f : State → α → State} {as : List α}
    (hf : ∀ t, ∀ a ∈ as, Reread k s t → Reread k s (f t a)) : ∀ {t : State}, Reread k s t → Reread k s (as.foldl f t) := by
  induction as with
  | nil => exact id
  | cons a as ih =>
    intro t ht
    exact ih (fun t b hb => hf t b (List.mem_cons_of_mem _ hb)) (hf t a (List.mem_cons_self ..) ht)

theorem Reread.updCore {k c : Nat} {s t : State} {f : Core → Core} (h : Reread k s t) (hc : devOfCore s c = k)
    (hf : f (s.core c) = s.core c) : Reread k s (t.updCore c f) := by
  obtain ⟨⟨m, rfl⟩, hcore, helse⟩ := h
  refine ⟨⟨_, rfl⟩, fun d => ?_, fun d hd => ?_⟩
  · by_cases hdc : d = c
    · rw [hdc, updCore_core, hcore, hf]
    · exact (setCore_core_other _ _ hdc).trans (hcore d)
  · exact (fget_fput_other _ _ fun hdc => absurd (hdc ▸ hc) hd).trans (helse d hd)

theorem copyResume_none {s : State} {c : Nat} {p : CopyCmd → Bool} (h : (s.core c).copies = []) : copyResume s c p = s := by
  rw [copyResume, h]
  rfl

theorem copies_none {k : Core} {f : CopyCmd → CopyCmd} (h : k.copies = []) : { k with copies := k.copies.map f } = k := by
  rw [h, List.map_nil, ← h]

/-- With no command in the engines the pager's answer changes none. -/
theorem resolveCopies_reread {s : State} {k va space : Nat} {ok : Bool} (h : ∀ c, (s.core c).copies = []) :
    Reread k s (resolveCopies s k va space ok) := by
  unfold resolveCopies
  refine Reread.foldl (fun t c hc ht => ?_) (Reread.refl k s)
  have hdev : devOfCore s c = k := of_decide_eq_true (List.mem_filter.mp hc).2
  have hnone : (t.core c).copies = [] := ht.core c ▸ h c
  dsimp only
  split
  · rw [copyResume_none hnone]
    exact ht
  · exact ht.updCore hdev (copies_none (h c))

/-- With no sequencer waiting for a fetch the pager's answer changes none. -/
theorem resolveSeqs_eq {s : State} {k va space : Nat} {ok : Bool} (h : ∀ c, (s.seq c).stalled = none) :
    resolveSeqs s k va space ok = s := by
  unfold resolveSeqs
  refine List.foldl_fixed' (fun cl => ?_) _
  dsimp only
  split
  · rw [h cl]
    exact if_neg (by simp)
  · rfl

/-- The records of the warps of a device, with the pager's answer. -/
theorem resolvePark_answered {va space : Nat} {ok : Bool} : resolvePark va space ok = Claims.answeredPark va space ok := by
  funext p
  unfold resolvePark Claims.answeredPark samePage
  simp only [decide_eq_true_eq]
  split
  · rename_i h
    cases ok <;> simp [h.1]
  · rfl

/-- A core of a device, its warps' records with the pager's answer. -/
def answeredCore (va space : Nat) (ok : Bool) (h : Core) : Core :=
  { h with warps := h.warps.map fun q => (q.1, resolveWarp va space ok q.2) }

theorem resolveParks_cores {s : State} {k va space c : Nat} {ok : Bool} :
    fget (resolveParks s k va space ok).cores c =
      (fget s.cores c).map fun h => if devOfCore s c = k then answeredCore va space ok h else h := by
  refine Eq.trans (congrArg (fget · c) (List.map_congr_left fun p _ => ?_))
    (fget_map s.cores (fun d h => if devOfCore s d = k then answeredCore va space ok h else h) c)
  dsimp only
  split <;> rfl

theorem resolveParks_core {s : State} {k va space c : Nat} {ok : Bool} : (resolveParks s k va space ok).core c =
    if devOfCore s c = k then answeredCore va space ok (s.core c) else s.core c := by
  unfold State.core
  rw [resolveParks_cores]
  cases fget s.cores c with
  | none => exact (ite_self _).symm
  | some h => rfl

theorem resolve_answers {s : State} {k va space : Nat} {ok : Bool} (hwait : Claims.noneWait s) :
    (resolve s k va space ok).mem = s.mem ∧
      (∀ c sl w, devOfCore s c = k → s.warp? c sl = some w →
        (resolve s k va space ok).warp? c sl = some { w with parks := w.parks.map (Claims.answeredPark va space ok) }) ∧
      (∀ c, devOfCore s c ≠ k → fget (resolve s k va space ok).cores c = fget s.cores c) ∧
      ∀ p, p ∈ ((resolve s k va space ok).dev k).fqknown ↔ p ∈ (s.dev k).fqknown ∧ p.2 ≠ (space, va / 65536) := by
  obtain ⟨hcopies, hseqs⟩ := hwait
  have hcopies' (c : Nat) : ((resolveParks s k va space ok).core c).copies = [] := by
    rw [resolveParks_core]
    split <;> exact hcopies c
  obtain ⟨⟨m, hrest⟩, hcore, helse⟩ := resolveCopies_reread (k := k) (va := va) (space := space) (ok := ok) hcopies'
  have hseqs' : resolveSeqs (resolveCopies (resolveParks s k va space ok) k va space ok) k va space ok =
      resolveCopies (resolveParks s k va space ok) k va space ok :=
    resolveSeqs_eq (by rw [hrest]; exact hseqs)
  unfold resolve
  dsimp only
  rw [hseqs']
  refine ⟨?_, fun c sl w hc hw => ?_, fun c hc => (helse c hc).trans ?_, fun p => ?_⟩
  · rw [hrest]
    rfl
  · refine (congrArg (fget ·.warps sl) ((hcore c).trans resolveParks_core)).trans ?_
    rw [if_pos hc]
    refine (fget_map _ (fun _ w => resolveWarp va space ok w) sl).trans ?_
    rw [show fget (s.core c).warps sl = some w from hw, Option.map_some, resolveWarp, resolvePark_answered]
  · rw [resolveParks_cores]
    simp only [hc, if_false, Option.map_id']
  · rw [updDev_dev, hrest, List.mem_filter, Bool.not_eq_true', decide_eq_false_iff_not]
    rfl

/-- Settles O52: the two ends of a walk by what they leave of the core, and the pager's answer by the records it marks. -/
theorem walksAndResolves : Obligations.WalksAndResolves := by
  refine ⟨fun s c q w hq hw hstop => ⟨fun p a n hp => ?_, fun kind sub info e hp he hpc hes hm => ?_⟩,
    fun s k va space ok hwait hopen => ?_⟩
  · exact ⟨_, walkDone_leaf hq hw hstop hp, mem_tlbAdd⟩
  · obtain ⟨launch, hx⟩ := walkDone_bad hq hstop hp
    have hw' : (postFault (unwalked s c) (devOfCore s c)
        (walkRecord (unwalked s c) (some c) launch q.space q.va q.access kind sub info)).warp? c q.slot = some w := by
      rw [State.warp?, postFault_core, unwalked, setCore_core]
      exact hw
    have hv := updWarp_warp (f := walked q.entry) (updWarp_warp (f := fun w => parkEntry w q.entry q.lanes q) hw')
    rw [parkEntry_eq he hpc hes hm] at hv
    exact ⟨_, _, hx, postFault_mem, hv, rfl, fun y hy hyp => walked_mask hes he hy hyp,
      fun y hy hyp hym => mem_walked hpc hy hyp hym, fun hen hknown => ⟨_, postFault_waits hen hknown, rfl, rfl, rfl, rfl, rfl⟩⟩
  · have hexec : exec (if ok then .resolveResolved k va space else .resolveUnresolvable k va space) s =
        .next (resolve s k va.toNat space.toNat ok) := by
      cases ok <;> exact congrArg _ (if_pos hopen)
    exact ⟨_, hexec, resolve_answers hwait⟩

end Sys2Proof.Proofs
end

section
/-! ROLLBK ends the held commands in the engine of the core that the workgroup's record names, which need not be the core of
the warp that issues it. -/

namespace Sys2Proof.Proofs

open Sys2Proof.Machine Sys2Proof.Safety

/-! ### A warp on another core than its workgroup -/

/-- ROLLBK, unguarded. -/
def strayRollbk : F3 := { d := 0, a := 0, b := 0, pr := 7, pn := 0 }

/-- The entry at it, the last instruction of its clause. -/
def strayEntry : Entry :=
  { pc := 0x1004, clause := some { hdr := 0x1000, page := pageOf (.rollbk strayRollbk), count := 1 }, mask := 1, prio := 0
    age := 0, aged := none, wait := .run, waits := false, mark := none }

/-- A warp of one lane there. -/
def strayWarp : Warp := { freshWarp 0 0 1 0x1000 placedRec 1 [0, 1, 2, 3, 4, 5] with frontier := [strayEntry] }

/-- A command of the workgroup under HOLD at a fault. -/
def strayCopy : CopyCmd :=
  { id := 0, slot := 0, wg := 0, tok := 7, seq := 0
    args := { op := 0, addr := 0x1_0000, origin := [], word5 := 0, start := 0, index := [], ops := false, oslot := 0
              hold := true, count := 1, part := 0 }
    rec_ := none, pos := 3, pages := [], wait := .fault 0x1_0000, status := none, resume := 0, rowBad := none, werr := false
    stale := false, staleAddr := 0, writes := [], issued := 0, phases := [], ahead := [], readAt := none, via := none }

/-- Core 0 with the warp and the command. -/
def strayCore : Core := { Core.reset with warps := [(0, strayWarp)], copies := [strayCopy] }

/-- The workgroup, whose record names core 1. -/
def strayWg : Wg := { placedWg 0 0 1 none with core := 1 }

/-- A package in which the warp issues. -/
def strayState : State :=
  { State.reset with
    cores := [(0, strayCore)], wgs := [(0, strayWg)], launches := [(0, placedLaunch 0)], nextWg := 1, nextLaunch := 1
    nextId := 1, cur := .warp 0 0 0 }

/-- The context of the issue. -/
def strayCtx : Ctx :=
  { core := 0, slot := 0, ei := 0, w := strayWarp, e := strayEntry, k := strayCore, g := 0, wg := strayWg
    l := placedLaunch 0, i := .rollbk strayRollbk, act := 1 }

theorem stray_issues : Issues (.rollbk strayRollbk) strayState strayCtx := ⟨rfl, rfl⟩

theorem stray_clear : Clear strayCtx := ⟨by decide, by decide, by decide⟩

/-- The outcomes of the commands in core 0's engine after a step. -/
def strayOutcomes : Host.Outcome State Fault Refusal → List (Option Nat)
  | .next t => (t.core 0).copies.map CopyCmd.status
  | .fault _ | .refused _ => []

/-- The command of core 0 has no outcome after the step: the model ends those of core 1. -/
theorem stray_stays : strayOutcomes (exec (.rollbk strayRollbk) strayState) = [none] := by
  decide

/-- Refutes O37: where a warp of core 0 issues ROLLBK and its workgroup's record names core 1, the command that is under HOLD
in the engine of core 0 does not end FAULTED. -/
theorem not_blocksCheckpointsRollbacks : ¬ Obligations.BlocksCheckpointsRollbacks := by
  rintro ⟨-, h⟩
  obtain ⟨-, hrollbk⟩ := h strayRollbk strayState strayCtx stray_clear rfl
  obtain ⟨-, hcopies, -⟩ := hrollbk stray_issues
  have hended := hcopies (by decide) ⟨strayCopy, List.mem_singleton_self _, rfl⟩
  have hout := stray_stays.symm.trans (congrArg strayOutcomes hended)
  exact absurd hout (by decide)

end Sys2Proof.Proofs
end

section
/-! Warps as they are created: their slot and blocks are free, and the registers written at the start read back. -/

namespace Sys2Proof.Proofs

open Sys2Proof.Machine Sys2Proof.Safety

/-! ### Registers written and read back (R109, R110) -/

section
variable {k : Core} {sl sl' d r l : Nat} {w w' : Warp} {m : Word} {f : Nat → Word}

theorem readV_writeV_same (hl : hasLane m l = true) : readV (writeV k sl w d m f) sl w d l = f l := by
  have hlt : l < 32 := BitVec.lt_of_getLsbD hl
  unfold writeV
  rw [if_neg (ne_zero_of_hasLane hl)]
  simp [readV, rowStale, rowAt, lanes, hlt, hl]

theorem readV_writeV_other (h : rowKey sl' w' r ≠ rowKey sl w d) :
    readV (writeV k sl w d m f) sl' w' r l = readV k sl' w' r l := by
  unfold writeV
  split
  · rfl
  · have hrow (row : Row) : rowAt { k with rows := fput k.rows (rowKey sl w d) row } (rowKey sl' w' r) =
        rowAt k (rowKey sl' w' r) := by
      rw [rowAt, rowAt, fget_fput_other _ _ h]
    unfold readV rowStale
    rw [hrow]

/-- Two registers of a block stand in two rows. -/
theorem rowKey_ne (h : r % 16 ≠ d % 16) : rowKey sl w r ≠ rowKey sl w d := by
  unfold rowKey
  omega

/-- Rows of different blocks of a quadrant, or of different quadrants, differ. -/
theorem rowKey_apart (hb : w.blocks.getD (r / 16) 0 < 24) (hb' : w'.blocks.getD (d / 16) 0 < 24)
    (h : quadOf sl = quadOf sl' → w.blocks.getD (r / 16) 0 ≠ w'.blocks.getD (d / 16) 0) : rowKey sl w r ≠ rowKey sl' w' d := by
  unfold rowKey
  by_cases hq : quadOf sl = quadOf sl'
  · have := h hq
    omega
  · omega

theorem writeV_warps : (writeV k sl w d m f).warps = k.warps := by
  unfold writeV
  split <;> rfl

end

theorem hasLane_bit {n l : Nat} : hasLane (BitVec.ofNat 32 (1 <<< n)) l = (decide (l < 32) && decide (n = l)) := by
  rw [hasLane, BitVec.getLsbD_ofNat, Nat.one_shiftLeft, Nat.testBit_two_pow]

theorem hasLane_maskOf {p : Nat → Bool} {l : Nat} : hasLane (maskOf p) l = (decide (l < 32) && p l) := by
  have hfold : ∀ (ls : List Nat) (m : Word),
      hasLane (ls.foldl (fun m l => if p l then m ||| (1 <<< l) else m) m) l =
        (hasLane m l || (decide (l < 32) && decide (l ∈ ls) && p l)) := by
    intro ls
    induction ls with
    | nil => simp
    | cons n ls ih =>
      intro m
      rw [List.foldl_cons, ih]
      by_cases hl : n = l
      · subst hl
        by_cases hlt : n < 32 <;> cases p n <;> simp [hasLane_or, hasLane_bit, hlt]
      · split <;> simp [hasLane_or, hasLane_bit, hl, Ne.symm hl]
  rw [maskOf, hfold]
  by_cases hl : l < 32 <;> simp [hasLane, lanes, hl]

/-! ### A place for a warp (R25) -/

/-- A warp's slot stands among those in use. -/
theorem mem_usedSlots {k : Core} {sl : Nat} {w : Warp} (h : fget k.warps sl = some w) : sl ∈ usedSlots k :=
  List.mem_flatMap.mpr ⟨_, mem_of_fget h, List.mem_cons_self ..⟩

/-- A warp's blocks stand among those of its quadrant in use. -/
theorem mem_usedBlocks {k : Core} {sl b : Nat} {w : Warp} (h : fget k.warps sl = some w) (hb : b ∈ w.blocks) :
    b ∈ usedBlocks k (quadOf sl) :=
  List.mem_flatMap.mpr ⟨_, mem_of_fget h, by simp [hb]⟩

/-- A new place is a free slot with as many free blocks of its quadrant as asked for. -/
theorem newPlace_free {k : Core} {base sl : Nat} {blocks : List Nat} (h : newPlace k base = some (sl, blocks)) :
    sl ∉ usedSlots k ∧ blocks.length = base ∧ ∀ b ∈ blocks, b < 24 ∧ b ∉ usedBlocks k (quadOf sl) := by
  obtain ⟨q, -, hq⟩ := List.exists_of_findSome?_eq_some h
  split at hq
  · rename_i sl' hsl
    dsimp only at hq
    split at hq
    · rename_i hlen
      obtain ⟨rfl, rfl⟩ := Prod.mk.inj (Option.some.inj hq)
      obtain ⟨hmem, hfree⟩ := List.mem_filter.mp (List.mem_of_mem_head? hsl)
      obtain ⟨i, hi, rfl⟩ := List.mem_map.mp hmem
      have hquad : quadOf (q * Config.slotsPerQuad + i) = q := by
        simp only [quadOf, Config.slotsPerQuad, List.mem_range] at hi ⊢
        omega
      refine ⟨by simpa using hfree, by rw [List.length_take, Nat.min_eq_left hlen], fun b hb => ?_⟩
      obtain ⟨hlt, hunused⟩ := List.mem_filter.mp (List.mem_of_mem_take hb)
      rw [hquad]
      exact ⟨List.mem_range.mp hlt, by simpa using hunused⟩
    · cases hq
  · cases hq

/-! ### A warp of one entry settles -/

/-- Settling keeps a single entry's address and lanes. -/
theorem settle_one {s : State} {c sl : Nat} {k : Core} {w : Warp} {e : Entry} (hw : fget k.warps sl = some w)
    (he : w.frontier = [e]) (hm : e.mask ≠ 0) :
    ∃ e', settle (s.setCore c k) c sl = s.setCore c { k with warps := fput k.warps sl { w with frontier := [e'] } } ∧
      e'.pc = e.pc ∧ e'.mask = e.mask ∧ e'.clause = e.clause := by
  refine ⟨withPrio (s.setCore c k) c w.wg e, ?_, (withPrio_keeps ..).1, (withPrio_keeps ..).2, ?_⟩
  · unfold settle
    simp only [warp?_setCore, hw, he, List.map_cons, List.map_nil]
    rw [tidy_single (by rw [(withPrio_keeps ..).2]; exact hm), setCore_setWarp]
  · unfold withPrio
    split <;> rfl

/-! ### The warps of a workgroup (R328) -/

/-- A warp as its workgroup starts it, in a slot of a core: one entry at the code pointer with every lane, base blocks, the
argument block's address in v0:v1. -/
structure Started (r : LRec) (g i : Nat) (k : Core) (sl : Nat) (w : Warp) : Prop where
  place : fget k.warps sl = some w
  wg : w.wg = g
  idx : w.idx = i
  live : w.live = allLanes
  entry : ∃ e, w.frontier = [e] ∧ e.pc = r.code ∧ e.mask = allLanes ∧ e.clause = none
  length : w.blocks.length = r.base
  block : w.blocks.getD 0 0 < 24
  base : w.base = r.base
  sregs : w.sregs = List.replicate 24 0
  preds : w.preds = List.replicate 7 0
  tvec : w.tvec = r.tvec
  args : ∀ n, n < 32 → readV k sl w 0 n = r.args.extractLsb' 0 32 ∧ readV k sl w 1 n = r.args.extractLsb' 32 32

/-- The core after a warp is placed in it: the warp in its slot, v0 and v1 written. -/
def startedCore (k : Core) (sl : Nat) (w : Warp) (r : LRec) : Core :=
  writeV (writeV { k with warps := fput k.warps sl w } sl w 0 allLanes fun _ => r.args.extractLsb' 0 32) sl w 1 allLanes
    fun _ => r.args.extractLsb' 32 32

section
variable {k : Core} {r : LRec} {g i gen sl : Nat} {blocks : List Nat} {e : Entry}

theorem hasLane_allLanes {n : Nat} (h : n < 32) : hasLane allLanes n = true := by
  interval_cases n <;> rfl

/-- The first of a place's blocks is one of them. -/
theorem first_block (hr : 1 ≤ r.base) (h : blocks.length = r.base) : blocks.getD 0 0 ∈ blocks := by
  cases blocks with
  | nil =>
    rw [List.length_nil] at h
    omega
  | cons b bs => exact List.mem_cons_self ..

/-- A warp started reads its registers. -/
theorem started_new (hr : 1 ≤ r.base) (h : newPlace k r.base = some (sl, blocks)) (he : e.pc = r.code) (hm : e.mask = allLanes)
    (hc : e.clause = none) :
    let w := freshWarp g i allLanes r.code r gen blocks
    let j := startedCore k sl w r
    Started r g i { j with warps := fput j.warps sl { w with frontier := [e] } } sl { w with frontier := [e] } := by
  obtain ⟨-, hlen, hfree⟩ := newPlace_free h
  intro w j
  exact {
    place := fget_fput_same ..
    wg := rfl, idx := rfl, live := rfl, base := rfl, sregs := rfl, preds := rfl, tvec := rfl
    entry := ⟨e, rfl, he, hm, hc⟩
    length := hlen
    block := (hfree _ (first_block hr hlen)).1
    args := fun n hn =>
      ⟨(readV_writeV_other (rowKey_ne (by decide))).trans (readV_writeV_same (hasLane_allLanes hn)),
        readV_writeV_same (hasLane_allLanes hn)⟩ }

/-- Another warp placed leaves one that has started. -/
theorem started_keeps {w' : Warp} {g' i' sl' : Nat} (hr : 1 ≤ r.base) (h : newPlace k r.base = some (sl, blocks))
    (hs : Started r g' i' k sl' w') :
    let w := freshWarp g i allLanes r.code r gen blocks
    let j := startedCore k sl w r
    Started r g' i' { j with warps := fput j.warps sl { w with frontier := [e] } } sl' w' := by
  obtain ⟨hslot, hlen, hfree⟩ := newPlace_free h
  intro w j
  have hne : sl' ≠ sl := fun heq => hslot (heq ▸ mem_usedSlots hs.place)
  have hblock : (freshWarp g i allLanes r.code r gen blocks).blocks.getD 0 0 < 24 := (hfree _ (first_block hr hlen)).1
  have hapart {n d : Nat} (hn : n / 16 = 0) (hd : d / 16 = 0) : rowKey sl' w' n ≠ rowKey sl w d := by
    refine rowKey_apart (hn ▸ hs.block) (hd ▸ hblock) fun hq hb => ?_
    rw [hn, hd] at hb
    have hused := mem_usedBlocks hs.place (first_block hr hs.length)
    rw [hb, hq] at hused
    exact (hfree _ (first_block hr hlen)).2 hused
  have hread {n l : Nat} (hn : n / 16 = 0) : readV j sl' w' n l = readV k sl' w' n l :=
    (readV_writeV_other (hapart hn rfl)).trans (readV_writeV_other (hapart hn rfl))
  have hplace : fget (fput j.warps sl { w with frontier := [e] }) sl' = some w' := by
    have hj : j.warps = fput k.warps sl w := writeV_warps.trans writeV_warps
    rw [fget_fput_other _ _ hne, hj, fget_fput_other _ _ hne]
    exact hs.place
  exact { hs with
    place := hplace
    args := fun n hn => ⟨(hread rfl).trans (hs.args n hn).1, (hread rfl).trans (hs.args n hn).2⟩ }

theorem Started.withGen {w : Warp} {n : Nat} (h : Started r g i k sl w) : Started r g i { k with gen := n } sl w := { h with }

/-- The next warp of a workgroup takes a generation and a place. -/
theorem newWarps_cons {s : State} {c : Nat} {is : List Nat} (h : newPlace (s.core c) r.base = some (sl, blocks)) :
    newWarps c g r (i :: is) s =
      newWarps c g r is (settle (s.setCore c (startedCore { s.core c with gen := nextGen (s.core c) } sl
        (freshWarp g i allLanes r.code r (nextGen (s.core c)) blocks) r)) c sl) := by
  rw [newWarps, h]
  simp only [takeGens, State.updCore, setCore_core, setCore_setCore, List.getD_cons_zero]
  rfl

/-- State t has the memory, the launches and the workgroups of state s. -/
structure Beside (s t : State) : Prop where
  mem : t.mem = s.mem
  launches : t.launches = s.launches
  wgs : t.wgs = s.wgs
  nextWg : t.nextWg = s.nextWg

/-- The warps of a workgroup all start, and change only cores. -/
theorem newWarps_start {c : Nat} (hr : 1 ≤ r.base) : ∀ (is : List Nat) {s t : State}, newWarps c g r is s = some t →
    Beside s t ∧
      (∀ i sl w, Started r g i (s.core c) sl w → Started r g i (t.core c) sl w) ∧
      ∀ i ∈ is, ∃ sl w, Started r g i (t.core c) sl w
  | [], s, t, h => by
    obtain rfl := Option.some.inj h
    exact ⟨⟨rfl, rfl, rfl, rfl⟩, fun _ _ _ h => h, nofun⟩
  | i :: is, s, t, h => by
    cases hp : newPlace (s.core c) r.base with
    | none =>
      rw [newWarps, hp] at h
      cases h
    | some p =>
      obtain ⟨sl, blocks⟩ := p
      have hp' : newPlace { s.core c with gen := nextGen (s.core c) } r.base = some (sl, blocks) := hp
      rw [newWarps_cons hp] at h
      obtain ⟨e, hs, he, hm, hcl⟩ := settle_one (s := s) (c := c) (sl := sl)
        (k := startedCore { s.core c with gen := nextGen (s.core c) } sl
          (freshWarp g i allLanes r.code r (nextGen (s.core c)) blocks) r)
        (by rw [startedCore, writeV_warps, writeV_warps]; exact fget_fput_same ..) rfl (show allLanes ≠ 0 by decide)
      rw [hs] at h
      obtain ⟨⟨hmem, hlaunches, hwgs, hnext⟩, hkeeps, hstart⟩ := newWarps_start hr is h
      rw [setCore_core] at hkeeps
      refine ⟨⟨hmem, hlaunches, hwgs, hnext⟩, fun i' sl' w' hw => hkeeps _ _ _ (started_keeps hr hp' hw.withGen), fun i' hi' => ?_⟩
      rcases List.mem_cons.mp hi' with rfl | hi'
      · exact ⟨_, _, hkeeps _ _ _ (started_new hr hp' he hm hcl)⟩
      · exact hstart i' hi'

end

/-! ### WORKGROUP_ADMISSION (R25, R38, R57, R108) -/

/-- A place found for an allocation is at a whole KiB. -/
theorem findRoom_aligned {s : State} {c n base : Nat} (h : findRoom s c n = some base) : base % 1024 = 0 := by
  have hstart : ∀ b ∈ 0 :: (sliceRanges s c).map (fun p => alignUp (p.1 + p.2) 1024), b % 1024 = 0 := by
    intro b hb
    rcases List.mem_cons.mp hb with rfl | hb
    · rfl
    · obtain ⟨p, -, rfl⟩ := List.mem_map.mp hb
      exact Nat.mul_mod_left _ _
  unfold findRoom at h
  dsimp only at h
  revert base
  refine List.foldlRecOn (motive := fun a => ∀ {base : Nat}, a = some base → base % 1024 = 0) _ _ (by nofun)
    fun a ha b hb z hz => ?_
  have hb' := hstart b (List.mem_filter.mp hb).1
  cases a with
  | none => exact Option.some.inj hz ▸ hb'
  | some y =>
    obtain rfl := Option.some.inj hz
    rcases min_choice y b with h | h <;> rw [h] <;> [exact ha rfl; exact hb']

/-- What an admission of one workgroup leaves. -/
structure Admitted (s : State) (l c i : Nat) (r : LRec) (t : State) (g : Nat) : Prop where
  number : g = s.nextWg
  next : t.nextWg = s.nextWg + 1
  mem : t.mem = s.mem
  launches : t.launches = s.launches
  wg : ∃ y, fget t.wgs g = some y ∧ y.launch = l ∧ y.index = i ∧ y.core = c ∧ y.phase = .resident ∧ y.nwarps = r.warps ∧
    y.ended = 0 ∧ y.size = (r.scratch + 1023) / 1024 * 1024 ∧ y.base % 1024 = 0
  warps : ∀ j, j < r.warps → ∃ sl w, Started r g j (t.core c) sl w

theorem admitOne_admits {s t : State} {l c i g : Nat} {x : Launch} (hkind : x.rec_.kind = 0) (hbase : 1 ≤ x.rec_.base)
    (h : admitOne s l x i c none = some (t, g)) : Admitted s l c i x.rec_ t g := by
  unfold admitOne at h
  simp only [hkind, OfNat.zero_ne_ofNat, decide_false, Bool.false_eq_true, if_false, Option.isSome_none] at h
  split at h
  · rename_i base area hroom harea
    split at h
    · cases h
    · split at h
      · cases h
      · rename_i u hu
        split at h
        · cases h
        · obtain ⟨rfl, rfl⟩ := Prod.mk.inj (Option.some.inj h)
          obtain ⟨⟨hmem, hlaunches, hwgs, hnext⟩, -, hstart⟩ := newWarps_start hbase _ hu
          have hy := (congrArg (fget · s.nextWg) hwgs).trans (fget_fput_same ..)
          exact {
            number := rfl
            next := hnext
            mem := hmem
            launches := hlaunches
            wg := ⟨_, (congrArg (fget · s.nextWg) (fupd_some _ hy)).trans (fget_fput_same ..), rfl, rfl, rfl, rfl, rfl, rfl, rfl,
              findRoom_aligned hroom⟩
            warps := fun j hj => hstart j (List.mem_range.mpr hj) }
  · cases h

/-- With one workgroup left of a plain launch, the next is admitted alone. -/
theorem nextGroups_plain {r : LRec} {n : Nat} (hkind : r.kind = 0) (hcg : r.cgsize = 0) (hn : n < launchSize r) :
    nextGroups r n = [[n]] := by
  have hone : min 1 (launchSize r - n) = 1 := by omega
  simp [nextGroups, groupSize, hcg, hkind, Nat.not_le.mpr hn, hone]

theorem workgroupAdmission : Parts.WorkgroupAdmission := by
  intro s l c x hl hphase hkind hcg hmode hnext hdev hareas hbase hck hone
  obtain ⟨⟨u, g⟩, hu⟩ := Option.isSome_iff_exists.mp hone
  have hadm := admitOne_admits hkind hbase hu
  have hgroups : admitGroups l x [[x.next]] [c] s = some u := by
    simp [admitGroups, admitCopy, admitList, hcg, hmode, hu]
  have hexec : exec (.workgroupAdmission l [c]) s = .next (u.updLaunch l fun x => { x with next := x.next + 1 }) := by
    show execWorkgroupAdmission l [c] s = _
    unfold execWorkgroupAdmission
    rw [hl]
    simp only [nextGroups_plain hkind hcg hnext, recCopies, recUnits, areaSize, hphase, hkind, hmode, hdev, hareas, List.map_cons,
      List.map_nil, List.length_cons, List.length_nil, List.sum_cons, List.sum_nil, List.any_cons, List.any_nil]
    simp [hgroups, Nat.not_lt.mpr hck]
  obtain ⟨y, hy, hlaunch, hindex, hcore, hyphase, hwarps, hended, hsize, hbase'⟩ := hadm.wg
  refine ⟨_, g, y, hexec, hadm.mem, ?_, hadm.number, hadm.next, hy, hlaunch, hindex, hcore, hyphase, hwarps, hended, hsize, hbase',
    fun i hi => ?_⟩
  · have hx := (congrArg (fget · l) hadm.launches).trans hl
    exact (congrArg (fget · l) (fupd_some _ hx)).trans (fget_fput_same ..)
  · obtain ⟨sl, w, hw⟩ := hadm.warps i hi
    obtain ⟨e, hfront, hpc, hmask, hclause⟩ := hw.entry
    exact ⟨sl, w, e, hw.place, hw.wg, hw.idx, hw.live, hfront, hpc, hmask, hclause, hw.length, hw.base, hw.sregs, hw.preds, hw.tvec,
      hw.args⟩

end Sys2Proof.Proofs
end

section
/-! A pool launch's roots go to the front ends, and its bins form warps. -/

namespace Sys2Proof.Proofs

open Sys2Proof.Machine Sys2Proof.Safety

/-! ### The end of a launch (R381) -/

section
variable {s t u : State} {g : Nat}

/-- State t has the launches and the workgroups of state s. -/
def SameUnits (s t : State) : Prop := t.launches = s.launches ∧ t.wgs = s.wgs

theorem SameUnits.refl (s : State) : SameUnits s s := ⟨rfl, rfl⟩

theorem SameUnits.trans (h : SameUnits s t) (h' : SameUnits t u) : SameUnits s u :=
  ⟨h'.1.trans h.1, h'.2.trans h.2⟩

theorem SameUnits.ite {p : Prop} [Decidable p] (ht : SameUnits s t) (hu : SameUnits s u) : SameUnits s (if p then t else u) := by
  split <;> assumption

theorem SameUnits.foldl {α : Type} {f : State → α → State} (hf : ∀ t a, SameUnits t (f t a)) :
    ∀ (as : List α) {t : State}, SameUnits s t → SameUnits s (as.foldl f t)
  | [], _, h => h
  | a :: as, _, h => SameUnits.foldl hf as (h.trans (hf _ a))

theorem updDev_units {k : Nat} {f : Dev → Dev} (h : SameUnits s t) : SameUnits s (t.updDev k f) := h

theorem updDie_units {d : Nat} {f : Die → Die} (h : SameUnits s t) : SameUnits s (t.updDie d f) := h

theorem dropWarp_units {c sl : Nat} : SameUnits s (dropWarp s c sl) := by
  unfold dropWarp
  split <;> exact ⟨rfl, rfl⟩

theorem physWrite_units {k pa n x : Nat} : SameUnits s (physWrite s k pa n x) := by
  unfold physWrite
  split <;> exact ⟨rfl, rfl⟩

theorem queueTake_units {d i : Nat} : SameUnits s (queueTake s d i) :=
  (SameUnits.foldl (fun _ _ => physWrite_units) _ (SameUnits.refl s)).trans ⟨rfl, rfl⟩

theorem binRefill_units {c : Nat} : ∀ (n : Nat) {s : State}, SameUnits s (binRefill s c n)
  | 0, s => SameUnits.refl s
  | n + 1, s => by
    unfold binRefill
    dsimp only
    split
    · exact SameUnits.refl s
    · split
      · exact SameUnits.refl s
      · refine SameUnits.trans (SameUnits.trans ?_ queueTake_units) (binRefill_units n)
        exact ⟨rfl, rfl⟩

theorem purgePool_units {d l : Nat} : SameUnits s (purgePool s d l) := by
  refine SameUnits.foldl (fun t c => ?_) _ (SameUnits.ite ?_ (SameUnits.refl s))
  · unfold purgeBins
    dsimp only
    split
    · exact SameUnits.refl t
    · exact SameUnits.trans ⟨rfl, rfl⟩ (binRefill_units _)
  · exact (SameUnits.foldl (fun _ _ => physWrite_units) _ (SameUnits.refl s)).trans ⟨rfl, rfl⟩

theorem clearBins_units {l : Nat} : SameUnits s (clearBins s l) := by
  unfold clearBins
  split
  · exact SameUnits.refl s
  · exact SameUnits.ite (SameUnits.refl s) (SameUnits.foldl (fun _ _ => purgePool_units) _ (SameUnits.refl s))

theorem releaseGroup_units {cl : Nat} : SameUnits s (releaseGroup s cl) :=
  (SameUnits.foldl (f := fun s j => s.updCore (cl / 40 * 160 + j) fun k => { k with array := { k.array with claims := [] } })
    (fun _ _ => ⟨rfl, rfl⟩) _ (SameUnits.refl s)).trans ⟨rfl, rfl⟩

/-- State t has the launches of state s, and its workgroups but for the record of one. -/
def Freed (s : State) (g : Nat) (t : State) : Prop :=
  t.launches = s.launches ∧ (t.wgs = s.wgs ∨ ∃ f, t.wgs = fupd s.wgs g f)

theorem SameUnits.freed (h : SameUnits s t) : Freed s g t := ⟨h.1, .inl h.2⟩

theorem Freed.units (h : Freed s g t) (h' : SameUnits t u) : Freed s g u := by
  obtain ⟨hlaunches, hwgs⟩ := h
  obtain ⟨hlaunches', hwgs'⟩ := h'
  exact ⟨hlaunches'.trans hlaunches, hwgs' ▸ hwgs⟩

theorem Freed.ite {p : Prop} [Decidable p] (ht : Freed s g t) (hu : Freed s g u) : Freed s g (if p then t else u) := by
  split <;> assumption

theorem SameUnits.trans_freed (h : SameUnits s t) (h' : Freed t g u) : Freed s g u := by
  obtain ⟨hlaunches, hwgs⟩ := h
  rwa [Freed, ← hlaunches, ← hwgs]

theorem updWg_freed {f : Wg → Wg} (h : SameUnits s t) : Freed s g (t.updWg g f) :=
  ⟨h.1, .inr ⟨f, congrArg (fupd · g f) h.2⟩⟩

/-- A workgroup freed leaves the other records as they are. -/
theorem freeWg_freed : Freed s g (freeWg s g) := by
  unfold freeWg
  split
  · exact (SameUnits.refl s).freed
  · rename_i x _
    split
    · exact (SameUnits.refl s).freed
    · have hrestored : SameUnits s (if x.ck.restoring then addRestoring s x (-1) else s) :=
        SameUnits.ite ⟨rfl, rfl⟩ (SameUnits.refl s)
      dsimp only
      cases x.cg
      case' some =>
        refine Freed.ite ?_ (Freed.units ?_ releaseGroup_units)
      all_goals
        refine updWg_freed (updDev_units ?_)
        split
        · exact updDie_units (updDie_units hrestored)
        · exact updDie_units hrestored

/-- Keys that rise come once. -/
theorem fget_of_mem {α : Type} {m : FMap α} {lo : Nat} {p : Nat × α} (hm : risingFrom lo m = true) (hp : p ∈ m) :
    fget m p.1 = some p.2 := by
  induction m generalizing lo with
  | nil => cases hp
  | cons q m ih =>
    obtain ⟨i, v⟩ := q
    simp only [risingFrom, Bool.and_eq_true, decide_eq_true_eq] at hm
    obtain ⟨-, hrest⟩ := hm
    rcases List.mem_cons.mp hp with rfl | hp
    · simp [fget]
    · have hlt : i < p.1 := by
        by_contra hle
        have := fget_below hrest (show p.1 < i + 1 by omega)
        rw [ih hrest hp] at this
        cases this
      simp [fget, show i ≠ p.1 by omega, show ¬p.1 < i by omega, ih hrest hp]

/-- Of rising keys, those left after one is taken out. -/
theorem mem_fdel {α : Type} {m : FMap α} {lo i : Nat} {p : Nat × α} (hm : risingFrom lo m = true) (hp : p ∈ fdel m i) :
    p ∈ m ∧ p.1 ≠ i := by
  refine ⟨?_, fun hpi => ?_⟩
  · clear hm
    induction m with
    | nil => exact hp
    | cons q m ih =>
      unfold fdel at hp
      split at hp
      · exact List.mem_cons_of_mem _ hp
      · split at hp
        · exact hp
        · exact (List.mem_cons.mp hp).elim (· ▸ List.mem_cons_self ..) fun h => List.mem_cons_of_mem _ (ih h)
  · have := fget_of_mem (rising_fdel hm) hp
    rw [hpi, fget_fdel_self hm] at this
    cases this

theorem mem_fupd {α : Type} {m : FMap α} {i : Nat} {f : α → α} {p : Nat × α} (h : p ∈ fupd m i f) : p ∈ m ∨ p.1 = i := by
  unfold fupd at h
  split at h
  · exact (mem_fput h).imp_right (congrArg Prod.fst)
  · exact .inl h

theorem fget_fupd_self {α : Type} {m : FMap α} {i : Nat} {f : α → α} : fget (fupd m i f) i = (fget m i).map f := by
  unfold fupd
  split
  · rename_i h
    rw [fget_fput_same, h, Option.map_some]
  · rename_i h
    rw [h, Option.map_none]

/-- A workgroup torn down is gone, the others stand. -/
theorem tearWg_units (hm : risingFrom 0 s.wgs = true) : (tearWg s g).launches = s.launches ∧
    risingFrom 0 (tearWg s g).wgs = true ∧ ∀ p ∈ (tearWg s g).wgs, p ∈ s.wgs ∧ p.1 ≠ g := by
  unfold tearWg
  split
  · rename_i hnone
    refine ⟨rfl, hm, fun p hp => ⟨hp, fun hpg => ?_⟩⟩
    rw [← hpg, fget_of_mem hm hp] at hnone
    cases hnone
  · rename_i x _
    have hcleared : SameUnits s (withdrawWq (((wgSlots (s.core x.core) g).foldl (fun s sl => dropWarp s x.core sl) s).updCore
        x.core fun k => { k with
          copies := k.copies.filter fun q => decide (q.wg ≠ g), trails := k.trails.filter fun q => decide (q.wg ≠ g) }) g
        fun _ => false) :=
      (SameUnits.foldl (fun _ _ => dropWarp_units) _ (SameUnits.refl s)).trans ⟨rfl, rfl⟩
    obtain ⟨hlaunches, hwgs⟩ := hcleared.trans_freed freeWg_freed
    have hrise : risingFrom 0 (freeWg _ g).wgs = true := hwgs.elim (· ▸ hm) fun ⟨f, h⟩ => h ▸ rising_fupd hm
    refine ⟨hlaunches, rising_fdel hrise, fun p hp => ?_⟩
    obtain ⟨hp, hpg⟩ := mem_fdel hrise hp
    refine ⟨?_, hpg⟩
    rcases hwgs with h | ⟨f, h⟩
    · exact h ▸ hp
    · exact (mem_fupd (h ▸ hp)).elim id fun h => absurd h hpg

/-- Workgroups torn down are gone, the others stand. -/
theorem tearWgs_units : ∀ (gs : List Nat) {s : State}, risingFrom 0 s.wgs = true →
    (gs.foldl tearWg s).launches = s.launches ∧ ∀ p ∈ (gs.foldl tearWg s).wgs, p ∈ s.wgs ∧ p.1 ∉ gs
  | [], s, _ => ⟨rfl, fun p hp => ⟨hp, nofun⟩⟩
  | g :: gs, s, hm => by
    obtain ⟨hl, hm', hg⟩ := tearWg_units (g := g) hm
    obtain ⟨hl', hgs⟩ := tearWgs_units gs hm'
    refine ⟨hl'.trans hl, fun p hp => ?_⟩
    obtain ⟨hp', hnot⟩ := hgs p hp
    obtain ⟨hps, hne⟩ := hg p hp'
    exact ⟨hps, fun h => (List.mem_cons.mp h).elim hne hnot⟩

/-- A launch that ends stands with its status, and none of its workgroups is left. -/
theorem endLaunch_torn {l status cause wgidx : Nat} {tpc : Double} {double : Bool} (ho : orderedMaps s = true) :
    Claims.torn s (endLaunch s l status cause tpc wgidx double) l fun y =>
      { y with phase := .ended, status := status, cause := cause, tpc := tpc, wgidx := wgidx, double := double } := by
  have hm : risingFrom 0 s.wgs = true := (kept_refl s).wgs ho
  obtain ⟨hlaunches, hwgs⟩ := tearWgs_units (launchWgs s l) hm
  obtain ⟨hlaunches', hwgs'⟩ := clearBins_units (s := (launchWgs s l).foldl tearWg s) (l := l)
  refine ⟨?_, fun p hp hpl => ?_⟩
  · exact fget_fupd_self.trans (congrArg (fun m => (fget m l).map _) (hlaunches'.trans hlaunches))
  · obtain ⟨hps, hnot⟩ := hwgs p (hwgs' ▸ hp)
    exact hnot (List.mem_map_of_mem (List.mem_filter.mpr ⟨hps, decide_eq_true hpl⟩))

end

/-! ### POOL_ROOT_PUSH (R40, R46) -/

section
variable {s : State} {l c i : Nat} {x : Launch} {code frame join : Double}

/-- The bin for a launch and a code pointer is theirs or free. -/
theorem binFor_bin {k : Core} (h : binFor k l code = some i) :
    (∃ b, fget k.bins i = some b ∧ b.code = code ∧ b.launch = l) ∨ fget k.bins i = none := by
  unfold binFor at h
  split at h
  · rename_i j hj
    have hfound := List.find?_some hj
    split at h
    · rename_i b hb
      rw [hb] at hfound
      split at h
      · obtain rfl := Option.some.inj h
        exact .inl ⟨b, hb, of_decide_eq_true hfound⟩
      · cases h
    · cases h
  · have hfree := List.find?_some h
    exact .inr (Option.isNone_iff_eq_none.mp hfree)

/-- A record put into the bin found for it stands behind the bin's records. -/
theorem binPut_binFor {k : Core} (h : binFor k l code = some i) :
    fget (binPut k i l code frame join).bins i =
      some { launch := l, code := code, recs := ((fget k.bins i).elim [] Bin.recs) ++ [(k.cycle, frame, join)] } := by
  unfold binPut
  rcases binFor_bin h with ⟨b, hb, rfl, rfl⟩ | hnone
  · simp [hb]
  · simp [hnone]

/-- What holds when the one root of a pool launch is to be pushed. -/
structure RootDue (s : State) (l : Nat) (x : Launch) : Prop where
  launch : fget s.launches l = some x
  phase : x.phase = .running
  kind : x.rec_.kind = 2
  fresh : x.rootsPushed = false
  stand : x.rec_.pncore ≤ x.next
  one : x.rec_.proots = 1
  room : ∀ d ∈ diesOfDev s.pkg.mode x.dev, poolTotal s d + joinsOut s d + rootsOn s x.dev x.rec_ d ≤ poolSlots s d

theorem RootDue.open (h : RootDue s l x) : ¬(x.phase ≠ .running ∨ x.rec_.kind ≠ 2 ∨ x.rootsPushed = true ∨
    x.next < x.rec_.pncore ∨ (!((diesOfDev s.pkg.mode x.dev).all fun d =>
      decide (rootsOn s x.dev x.rec_ d = 0) || poolRoom s d (rootsOn s x.dev x.rec_ d))) = true) := by
  have hroom : ((diesOfDev s.pkg.mode x.dev).all fun d =>
      decide (rootsOn s x.dev x.rec_ d = 0) || poolRoom s d (rootsOn s x.dev x.rec_ d)) = true :=
    List.all_eq_true.mpr fun d hd => by simp [poolRoom, h.room d hd]
  simp [h.phase, h.kind, h.fresh, h.stand, hroom]

theorem poolRootPush_unread (h : RootDue s l x) (hr : rootAt s x.dev x.rec_.space x.rec_.roots.toNat = none) :
    exec (.poolRootPush l) s = .next (endLaunch s l 4 0 0 0 false) := by
  show execPoolRootPush l s = _
  unfold execPoolRootPush
  simp only [h.launch, if_neg h.open, h.one, List.range_one, List.map_cons, List.map_nil, Nat.mul_zero, Nat.add_zero, hr, allSome]

theorem poolRootPush_invalid (h : RootDue s l x)
    (hr : rootAt s x.dev x.rec_.space x.rec_.roots.toNat = some (code, frame, join)) (hok : rootOk (code, frame, join) = false) :
    exec (.poolRootPush l) s = .next (endLaunch s l 4 0 0 0 false) := by
  show execPoolRootPush l s = _
  unfold execPoolRootPush
  simp only [h.launch, if_neg h.open]
  simp [h.one, hr, allSome, hok]

theorem poolRootPush_pushes (h : RootDue s l x)
    (hr : rootAt s x.dev x.rec_.space x.rec_.roots.toNat = some (code, frame, join)) (hok : rootOk (code, frame, join) = true)
    (hc : rootCore s x.dev x.rec_ 0 = some c) (hi : binFor (s.core c) l code = some i) :
    exec (.poolRootPush l) s = .next ((s.updCore c fun k => binPut k i l code frame join).updLaunch l
      fun x => { x with rootsPushed := true }) := by
  show execPoolRootPush l s = _
  unfold execPoolRootPush
  simp only [h.launch, if_neg h.open]
  simp [h.one, hr, allSome, hok, hc, frontPush, hi]

end

/-! ### POOL_WARP_FORM (R41, R42) -/

section
variable {s : State} {c n : Nat}

theorem core_of_fget {k : Core} (h : fget s.cores c = some k) : s.core c = k := by
  rw [State.core, h]

theorem physWrite_keepsCores {k pa n x : Nat} : (physWrite s k pa n x).cores = s.cores := by
  unfold physWrite
  split <;> rfl

theorem queueTake_keepsCores {d i : Nat} : (queueTake s d i).cores = s.cores :=
  List.foldlRecOn (motive := fun t => State.cores t = s.cores) _ _ rfl fun _ h _ _ => physWrite_keepsCores.trans h

/-- A record taken from the die's queue into a bin changes a core in its bins alone. -/
theorem queueTake_binPut {k : Core} {b lid d i : Nat} {code frame join : Double} (h : fget s.cores c = some k) :
    fget (queueTake (s.updCore c fun k => binPut k b lid code frame join) d i).cores c =
      some { k with bins := (binPut k b lid code frame join).bins } := by
  rw [queueTake_keepsCores, State.updCore, State.setCore, fget_fput_same, core_of_fget h]
  rfl

/-- Records that come from the die's queue change a core in its bins alone. -/
theorem binRefill_bins : ∀ (n : Nat) {s : State} {k : Core}, fget s.cores c = some k →
    ∃ b, fget (binRefill s c n).cores c = some { k with bins := b }
  | 0, _, k, h => ⟨k.bins, h⟩
  | n + 1, s, k, h => by
    unfold binRefill
    dsimp only
    split
    · exact ⟨k.bins, h⟩
    · split
      · exact ⟨k.bins, h⟩
      · obtain ⟨b, hb⟩ := binRefill_bins n (queueTake_binPut h)
        exact ⟨b, hb⟩

theorem binRefill_setCore {k : Core} : ∃ b, (binRefill (s.setCore c k) c n).core c = { k with bins := b } := by
  obtain ⟨b, hb⟩ := binRefill_bins (s := s.setCore c k) n (fget_fput_same ..)
  exact ⟨b, core_of_fget hb⟩

/-- With no record of a launch that has a pool workgroup on the core, none comes from the queue. -/
theorem binRefill_idle (h : ∀ o ∈ (s.die (dieOf c)).poolOwner, poolHere s c o = false) : binRefill s c n = s := by
  cases n with
  | zero => rfl
  | succ n =>
    have hnone : ((s.die (dieOf c)).poolOwner.zipIdx.find? fun p => poolHere s c p.1) = none :=
      List.find?_eq_none.mpr fun p hp => by simp [h p.1 (List.fst_mem_of_mem_zipIdx hp)]
    simp only [binRefill, hnone]

theorem binRefill_mem {k : Core} (h : ∀ o ∈ (s.die (dieOf c)).poolOwner, poolHere s c o = false) :
    (binRefill (s.setCore c k) c n).mem = s.mem := by
  have hidle : binRefill (s.setCore c k) c n = s.setCore c k := binRefill_idle h
  rw [hidle]
  rfl

/-- A bin that can form a warp is ready, and a workgroup of its launch has a free slot. -/
theorem poolForm_ready {b : Bin} {q : Nat × (Nat × Wg × LRec) × Nat × List Nat} (h : poolForm s c b = some q) :
    binReady (s.core c) b = some q.1 ∧ poolWgFor s c b.launch ≠ none := by
  unfold poolForm at h
  dsimp only at h
  split at h
  · rename_i u p hu hp
    split at h
    · obtain ⟨r, -, rfl⟩ := Option.map_eq_some_iff.mp h
      exact ⟨hu, by simp [hp]⟩
    · cases h
  · cases h

/-- A bin ready has a record. -/
theorem binReady_recs {k : Core} {b : Bin} {since : Nat} (h : binReady k b = some since) : 0 < b.recs.length := by
  unfold binReady at h
  split at h
  · cases h
  · rename_i hrecs
    simp [hrecs]

/-- The frame and the join of a lane's record. -/
def laneRec (b : Bin) (i : Nat) : Double × Double :=
  match b.recs[i]? with
  | some r => r.2
  | none => (0, 0)

theorem laneRec_of {b : Bin} {i : Nat} {r : Nat × Double × Double} (h : b.recs[i]? = some r) : laneRec b i = r.2 := by
  rw [laneRec, h]

/-- The warp that a bin's records form. -/
def poolWarp (k : Core) (b : Bin) (g : Nat) (x : Wg) (l : LRec) (blocks : List Nat) : Warp :=
  { freshWarp g (freeIdx k g x.slots) (maskOf fun i => decide (i < b.recs.length)) b.code l (nextGen k) blocks with
    poolThreads := (List.range b.recs.length).map fun i => (i, (laneRec b i).2.toNat) }

/-- The core once a bin's warp is placed in it: the bin gone, the warp in its slot, the lanes' frames in v0:v1 and their joins in
v2:v3. -/
def formedCore (k : Core) (bin : Nat) (b : Bin) (sl : Nat) (w : Warp) : Core :=
  let half (d : Double) (h : Nat) : Word := d.extractLsb' (32 * h) 32
  let k := { k with gen := nextGen k, bins := fdel k.bins bin, warps := fput k.warps sl w }
  let k := writeV k sl w 0 w.live fun i => half (laneRec b i).1 0
  let k := writeV k sl w 1 w.live fun i => half (laneRec b i).1 1
  let k := writeV k sl w 2 w.live fun i => half (laneRec b i).2 0
  writeV k sl w 3 w.live fun i => half (laneRec b i).2 1

theorem poolWarpForm_forms {bin since g sl : Nat} {b : Bin} {x : Wg} {l : LRec} {blocks : List Nat}
    (hb : fget (s.core c).bins bin = some b) (hform : poolForm s c b = some (since, (g, x, l), sl, blocks))
    (hfirst : ∀ p ∈ (s.core c).bins, ∀ q, poolForm s c p.2 = some q → since ≤ q.1) :
    let t := settle (s.setCore c (formedCore (s.core c) bin b sl (poolWarp (s.core c) b g x l blocks))) c sl
    exec (.poolWarpForm c bin) s = .next (binRefill t c (t.die (dieOf c)).poolOwner.length) := by
  show execPoolWarpForm c bin s = _
  unfold execPoolWarpForm
  simp only [hb, hform]
  rw [if_neg]
  · rfl
  · simp only [List.any_eq_true, not_exists, not_and]
    intro p hp
    cases hq : poolForm s c p.2 with
    | none => simp
    | some q => simpa using hfirst p hp q hq

/-- A formed warp's lanes read their frame in v0:v1 and their join in v2:v3. -/
theorem formedCore_reads {k : Core} {bin sl i : Nat} {b : Bin} {w : Warp} (hl : hasLane w.live i = true) :
    readV (formedCore k bin b sl w) sl w 0 i = (laneRec b i).1.extractLsb' 0 32 ∧
      readV (formedCore k bin b sl w) sl w 1 i = (laneRec b i).1.extractLsb' 32 32 ∧
      readV (formedCore k bin b sl w) sl w 2 i = (laneRec b i).2.extractLsb' 0 32 ∧
      readV (formedCore k bin b sl w) sl w 3 i = (laneRec b i).2.extractLsb' 32 32 := by
  have hkeep {k : Core} {r d : Nat} {f : Nat → Word} (h : r % 16 ≠ d % 16) :
      readV (writeV k sl w d w.live f) sl w r i = readV k sl w r i := readV_writeV_other (rowKey_ne h)
  unfold formedCore
  dsimp only
  rw [hkeep (r := 0) (d := 3) (by decide), hkeep (r := 0) (d := 2) (by decide), hkeep (r := 0) (d := 1) (by decide),
    hkeep (r := 1) (d := 3) (by decide), hkeep (r := 1) (d := 2) (by decide), hkeep (r := 2) (d := 3) (by decide)]
  exact ⟨readV_writeV_same hl, readV_writeV_same hl, readV_writeV_same hl, readV_writeV_same hl⟩

theorem formedCore_warps {k : Core} {bin sl : Nat} {b : Bin} {w : Warp} :
    (formedCore k bin b sl w).warps = fput k.warps sl w :=
  writeV_warps.trans (writeV_warps.trans (writeV_warps.trans writeV_warps))

/-- A bin's warp as it is formed: the records that follow from the die's queue change the core in its bins alone. -/
theorem poolWarpForm_leaves {bin since g sl : Nat} {b : Bin} {x : Wg} {l : LRec} {blocks : List Nat} {w : Warp} {k : Core}
    (hb : fget (s.core c).bins bin = some b) (hform : poolForm s c b = some (since, (g, x, l), sl, blocks))
    (hfirst : ∀ p ∈ (s.core c).bins, ∀ q, poolForm s c p.2 = some q → since ≤ q.1)
    (hw : poolWarp (s.core c) b g x l blocks = w) (hk : formedCore (s.core c) bin b sl w = k) (hlive : w.live ≠ 0) :
    ∃ t e bins, exec (.poolWarpForm c bin) s = .next t ∧
      ((∀ o ∈ (s.die (dieOf c)).poolOwner, poolHere s c o = false) → t.mem = s.mem) ∧
      t.core c = { k with warps := fput k.warps sl { w with frontier := [e] }, bins := bins } ∧ e.pc = b.code ∧
      e.mask = w.live := by
  have hplace : fget k.warps sl = some w := by rw [← hk, formedCore_warps, fget_fput_same]
  have hfront : w.frontier = [Entry.at_ b.code w.live 0] := by rw [← hw]; rfl
  obtain ⟨e, hset, hpc, hmask, -⟩ := settle_one (s := s) (c := c) hplace hfront hlive
  have hexec := poolWarpForm_forms hb hform hfirst
  simp only [hw, hk, hset] at hexec
  obtain ⟨bins, hcore⟩ := binRefill_setCore
  exact ⟨_, e, bins, hexec, binRefill_mem, hcore, hpc, hmask⟩

end

theorem poolWarps : Parts.PoolWarps := by
  refine ⟨fun s l x hl hphase hkind hfresh hstand hone hroom => ?_,
    fun s c bin since g sl b x l blocks hb hready hfirst hwg hplace hgen hclock hbase hmax => ?_⟩
  · have hdue : RootDue s l x := ⟨hl, hphase, hkind, hfresh, hstand, hone, hroom⟩
    refine ⟨fun code frame join c i hroot hgood hc hi => ?_, fun hbad ho => ⟨_, ?_, endLaunch_torn ho⟩⟩
    · refine ⟨_, (fget (s.core c).bins i).elim [] Bin.recs, poolRootPush_pushes hdue hroot (decide_eq_true hgood) hc hi, rfl,
        ?_, ?_, ?_⟩
      · exact (congrArg (fget · l) (fupd_some _ hl)).trans (fget_fput_same ..)
      · rw [updLaunch_core_, updCore_core]
        exact binPut_binFor hi
      · cases fget (s.core c).bins i <;> rfl
    · rcases hbad with hnone | ⟨code, frame, join, hroot, hbad⟩
      · exact poolRootPush_unread hdue hnone
      · exact poolRootPush_invalid hdue hroot (decide_eq_false hbad)
  · have hform : poolForm s c b = some (since, (g, x, l), sl, blocks) := by
      simp [poolForm, hready, hwg, hplace, hgen, hclock]
    have hlongest : ∀ p ∈ (s.core c).bins, ∀ q, poolForm s c p.2 = some q → since ≤ q.1 := fun p hp q hq =>
      hfirst p hp _ (poolForm_ready hq).1 (poolForm_ready hq).2
    generalize hw : poolWarp (s.core c) b g x l blocks = w
    have hlane (n : Nat) : hasLane w.live n = (decide (n < 32) && decide (n < b.recs.length)) := hw ▸ hasLane_maskOf
    have hlive : w.live ≠ 0 := ne_zero_of_hasLane (l := 0) (by simp [hlane, binReady_recs hready])
    obtain ⟨t, e, bins, hexec, hmem, hcore, hpc, hmask⟩ := poolWarpForm_leaves hb hform hlongest hw rfl hlive
    refine ⟨t, { w with frontier := [e] }, e, hexec, hmem, ?_, ?_, rfl, hpc, hmask, ?_, fun n hn => by simp [hlane, hn],
      fun n r hr => ?_⟩
    · rw [State.warp?, hcore]
      exact fget_fput_same ..
    · exact hw ▸ rfl
    · exact hw ▸ rfl
    · have hn : n < b.recs.length := (List.getElem?_eq_some_iff.mp hr).1
      have hreads := formedCore_reads (k := s.core c) (bin := bin) (b := b) (sl := sl) (w := w) (i := n)
        (by simp [hlane, hn, Nat.lt_of_lt_of_le hn hmax])
      rw [laneRec_of hr] at hreads
      rw [hcore]
      exact hreads

/-- Settles O47: a workgroup's warps are placed one by one, each where no other stands, so what one starts with stays; a launch
that ends INVALID loses its workgroups one by one; records from the die's queue change a core's bins alone. -/
theorem admissionsAndPools : Obligations.AdmissionsAndPools := ⟨workgroupAdmission, poolWarps⟩

end Sys2Proof.Proofs
end

section
/-! O5, and what lanes of an access have in common: their addresses, their places and their translation. -/

namespace Sys2Proof.Proofs

open Sys2Proof.Machine Sys2Proof.Safety

/-- Settles O5: what every step keeps includes the canonical form of memory and slices. -/
theorem stepKeepsMemoryCanonical : Obligations.StepKeepsMemoryCanonical :=
  fun s _ hs ht => ((goes_step (kept_refl s)).of_eq ht).canonical hs

section
variable {s : State} {x : Ctx} {e : Nat → Nat} {n : Nat}

/-! ### Lanes, addresses and places -/

theorem laneAddr_eq (isLocal : Bool) (a : Nat) (off : Int) :
    laneAddr s x isLocal a off = Claims.address s x isLocal a off := by
  funext l
  unfold laneAddr Claims.address
  split <;> rw [BitVec.toNat_ofInt] <;> rfl

theorem sizeBytes_eq {c : Nat} (h : c ≤ 6) : sizeBytes c = Claims.bytesOf c := by
  interval_cases c <;> rfl

/-- The fields of an instruction that nothing stops are those row 1 accepts. -/
theorem fieldsOk_of_clear {i : Instr} (hi : Issues i s x) (hc : Clear x) : fieldsOk false i = true := by
  obtain ⟨hrow, -⟩ := hc
  simp only [row1, wellFormedIn, Bool.and_eq_true] at hrow
  rw [← (ctxOf_fields hi.2).1]
  exact hrow.1.2

theorem locate_paged {va : Nat} : locate s x va n = .paged ↔ regionOf va = .paged := by
  unfold locate
  cases regionOf va with
  | paged => simp
  | local_ o => dsimp only; split_ifs <;> simp
  | slice i o =>
    simp only [reduceCtorEq, iff_false]
    split
    · simp
    · split_ifs
      · simp
      · split <;> simp
      · simp
  | peer w o => dsimp only; split_ifs <;> simp
  | reserved => simp

theorem direct_paged {write : Bool} {va : Nat} (h : locate s x va n = .paged) : direct s x write va n = none := by
  rw [direct, h]

theorem direct_own {write priv : Bool} {va off gen : Nat} (h : locate s x va n = .own off gen priv)
    (hw : write = false ∨ speculative x.w = false) : direct s x write va n = some (off, gen) := by
  rw [direct, h]
  rcases hw with hw | hw <;> simp [hw]

theorem targetOf_paged {va pa : Nat} (h : locate s x va n = .paged) : targetOf s x va n pa = some (.mem pa, pa) := by
  rw [targetOf, h]

/-! ### Translation of lanes (R85) -/

theorem lanesXlate_unpaged {write : Bool} {acc : Nat} (h : ∀ l, hasLane x.act l = true → locate s x (e l) n ≠ .paged) :
    lanesXlate s x e n write acc = (s, []) := by
  have fold : ∀ ls : List Nat, (∀ l ∈ ls, locate s x (e l) n ≠ .paged) →
      ls.foldl (fun (r : State × List (Nat × LaneX)) l =>
        match locate r.1 x (e l) n with
        | .paged => let q := laneXlate r.1 x (e l) write acc; (q.1, r.2 ++ [(l, q.2)])
        | _ => r) (s, []) = (s, []) := by
    intro ls
    induction ls with
    | nil => exact fun _ => rfl
    | cons l ls ih =>
      intro hl
      rw [List.foldl_cons]
      have hne := hl l (List.mem_cons_self ..)
      cases hloc : locate s x (e l) n with
      | paged => exact absurd hloc hne
      | _ => exact ih fun j hj => hl j (List.mem_cons_of_mem _ hj)
  exact fold _ fun l hl => h l (mem_lanesOf.mp hl)

/-- A lane whose page the core's TLB holds and permits translates at once. -/
theorem laneXlate_held {write : Bool} {acc : Nat} {va : Nat} {t : Tlb} (hk : x.k = s.core x.core)
    (ht : tlbFind x.k.tlb x.l.rec_.space va = some t) (hp : permit t.pte write = .ok)
    (hw : write = true → pteTier t.pte ≠ 2) :
    laneXlate s x va write acc = (s, .ok (pteAddr t.pte + va % t.size)) := by
  have hleaf (k die : Nat) (c : Option Nat) (launch space : Nat) :
      serveLeaf s k die c launch space va write acc t.pte t.pteAt t.size = (s, .ok (pteAddr t.pte + va % t.size)) := by
    simp only [serveLeaf, hp]
    cases write with
    | false => rfl
    | true => simp [noteBounce, hw rfl]
  simp only [laneXlate, ← hk, ht, hleaf]

theorem lanesXlate_paged {write : Bool} {acc : Nat} {pa : Nat → Nat} (hk : x.k = s.core x.core)
    (h : Claims.Paged s x e n write pa) :
    lanesXlate s x e n write acc = (s, (lanesOf x.act).map fun l => (l, .ok (pa l))) := by
  have fold : ∀ (ls : List Nat) (done : List (Nat × LaneX)), (∀ l ∈ ls, hasLane x.act l = true) →
      ls.foldl (fun (r : State × List (Nat × LaneX)) l =>
        match locate r.1 x (e l) n with
        | .paged => let q := laneXlate r.1 x (e l) write acc; (q.1, r.2 ++ [(l, q.2)])
        | _ => r) (s, done) = (s, done ++ ls.map fun l => (l, .ok (pa l))) := by
    intro ls
    induction ls with
    | nil => intro done _; simp
    | cons l ls ih =>
      intro done hl
      obtain ⟨-, hloc, t, ht, hp, hw, hpa⟩ := h l (hl l (List.mem_cons_self ..))
      simp only [List.foldl_cons, hloc, laneXlate_held hk ht hp hw]
      rw [ih _ fun j hj => hl j (List.mem_cons_of_mem _ hj)]
      simp [hpa]
  exact fold _ _ fun l hl => mem_lanesOf.mp hl

/-- What stands beside a lane of a list. -/
theorem find?_map_lane {β : Type} {f : Nat → β} {ls : List Nat} {l : Nat} (h : l ∈ ls) :
    (ls.map fun j => (j, f j)).find? (fun p => decide (p.1 = l)) = some (l, f l) := by
  induction ls with
  | nil => cases h
  | cons j ls ih =>
    rw [List.map_cons, List.find?_cons]
    by_cases hj : j = l
    · simp [hj]
    · rw [decide_eq_false hj]
      exact ih ((List.mem_cons.mp h).resolve_left (Ne.symm hj))

/-- With no lane parked the access is that of the issuing context. -/
theorem unparked_ctx {acc : Nat} (hk : x.k = s.core x.core) :
    ({ x with
        act := x.act &&& ~~~(maskOf ([] : List Nat).contains)
        e := part x.e (x.e.mask &&& ~~~(maskOf ([] : List Nat).contains))
        w := parkAll x.w x e [] acc, k := s.core x.core } : Ctx) = x := by
  have hmask (m : Word) : m &&& ~~~(maskOf ([] : List Nat).contains) = m := by
    rw [show maskOf ([] : List Nat).contains = 0#32 by decide, BitVec.not_zero, BitVec.and_allOnes]
  rw [hmask, hmask, ← hk]
  rfl

theorem withXlate_unpaged {write : Bool} {acc : Nat} {body : State → Ctx → (Nat → Nat) → State} (hk : x.k = s.core x.core)
    (h : ∀ l, hasLane x.act l = true → locate s x (e l) n ≠ .paged) :
    ∃ pa, withXlate s x e n write acc body = body s x pa := by
  unfold withXlate
  simp only [lanesXlate_unpaged h, List.filter_nil, List.map_nil, ne_eq, not_true_eq_false, if_false, unparked_ctx hk]
  exact ⟨_, rfl⟩

theorem withXlate_paged {write : Bool} {acc : Nat} {body : State → Ctx → (Nat → Nat) → State} {pa : Nat → Nat}
    (hk : x.k = s.core x.core) (h : Claims.Paged s x e n write pa) :
    ∃ pa', (∀ l, hasLane x.act l = true → pa' l = pa l) ∧ withXlate s x e n write acc body = body s x pa' := by
  have hnone (p : LaneX) (hp : ∀ a, LaneX.ok a ≠ p) :
      ((((lanesOf x.act).map fun l => (l, LaneX.ok (pa l))).filter fun q => decide (q.2 = p)).map Prod.fst) = [] := by
    rw [List.map_eq_nil_iff, List.filter_eq_nil_iff]
    intro q hq
    obtain ⟨l, -, rfl⟩ := List.mem_map.mp hq
    simpa using hp (pa l)
  unfold withXlate
  simp only [lanesXlate_paged hk h, hnone .walk nofun, hnone .park nofun, ne_eq, not_true_eq_false, if_false, unparked_ctx hk]
  refine ⟨_, fun l hl => ?_, rfl⟩
  simp only [find?_map_lane (f := fun l => LaneX.ok (pa l)) (mem_lanesOf.mpr hl)]

end
end Sys2Proof.Proofs
end

section
/-! Requests as they are made and combined: accepted into the lane queue, sent on their way, one for each target. -/

namespace Sys2Proof.Proofs

open Sys2Proof.Machine Sys2Proof.Safety

/-! ### Requests made one after the other (R62, R81) -/

/-- A change of values that keeps the keys changes the value found. -/
theorem fget_map_keys {α : Type} {m : FMap α} {f : Nat × α → Nat × α} (hf : ∀ p, (f p).1 = p.1) (i : Nat) :
    fget (m.map f) i = (fget m i).map fun v => (f (i, v)).2 := by
  have hm : m.map f = m.map fun p => (p.1, (f (p.1, p.2)).2) := List.map_congr_left fun p _ => Prod.ext (hf p) rfl
  rw [hm, fget_map m fun k v => (f (k, v)).2]

/-- Requests made one for each of a list, each from the state as it then is. -/
def Made {α : Type} (q : State → α → Req) (rs : List Req) (as : List α) : Prop :=
  List.Forall₂ (fun r a => ∃ t, r = q t a) rs as

section
variable {α β : Type} {q : State → α → Req} {rs : List Req} {as : List α}

/-- What a request of each takes from no state. -/
theorem Made.map {F : Req → β} {G : α → β} (h : Made q rs as) (hF : ∀ t a, F (q t a) = G a) : rs.map F = as.map G := by
  induction h with
  | nil => rfl
  | cons hr _ ih =>
    obtain ⟨t, rfl⟩ := hr
    rw [List.map_cons, List.map_cons, hF, ih]

/-- Every request is one of the list's. -/
theorem Made.all {P : Req → Prop} (h : Made q rs as) (hP : ∀ t a, P (q t a)) : ∀ r ∈ rs, P r := by
  induction h with
  | nil => exact fun _ hr => absurd hr List.not_mem_nil
  | cons hr _ ih =>
    obtain ⟨t, rfl⟩ := hr
    exact List.forall_mem_cons.mpr ⟨hP t _, ih⟩

end

/-- An accepted request stands at the end of its workgroup's lane queue; nothing else changes but numbers and workgroups. -/
theorem accept_lane {s : State} {r : Req} {y : Wg} (hext : r.external = false) (hpath : r.path = .lane)
    (hy : fget s.wgs r.wg = some y) :
    ∃ wgs y', accept s r false = { s with nextId := s.nextId + 1, wgs := wgs } ∧ fget wgs r.wg = some y' ∧
      y'.laneQ = y.laneQ ++ [r] := by
  have hforward (t : State) : hashForward t r = t := by
    unfold hashForward
    split
    · rfl
    · simp [hext]
  have htrigger (t : State) (b : Nat) {z : Wg} (hz : fget t.wgs r.wg = some z) :
      ∃ wgs z', occupancyTrigger t r.core b = { t with wgs := wgs } ∧ fget wgs r.wg = some z' ∧ z'.laneQ = z.laneQ := by
    unfold occupancyTrigger
    dsimp only
    split
    · refine ⟨_, _, rfl, (fget_map_keys (fun p => ?_) _).trans (congrArg _ hz), ?_⟩
      · split <;> rfl
      · dsimp only
        split <;> rfl
    · exact ⟨_, z, rfl, hz, rfl⟩
  have hqueue (t : State) : (enqueue t y r false).laneQ = y.laneQ ++ [r] := by
    unfold enqueue
    simp only [hpath, Bool.false_eq_true, if_false]
    split <;> rfl
  unfold accept
  simp only [hforward]
  obtain ⟨wgs, z', he, hz, hlane⟩ := htrigger
    (({ s with nextId := s.nextId + 1 } : State).updWg r.wg fun g => enqueue { s with nextId := s.nextId + 1 } g r false) _
    ((congrArg (fget · r.wg) (fupd_some _ hy)).trans (fget_fput_same ..))
  exact ⟨wgs, z', he, hz, hlane.trans (hqueue _)⟩

/-- Requests accepted one after the other stand at the end of the lane queue in their order. -/
theorem accepts_lane {α : Type} {q : State → α → Req} {g : Nat}
    (hq : ∀ t a, (q t a).wg = g ∧ (q t a).path = .lane ∧ (q t a).external = false) (as : List α) :
    ∀ {s : State} {y : Wg}, fget s.wgs g = some y →
      ∃ n wgs y' rs, as.foldl (fun t a => accept t (q t a) false) s = { s with nextId := n, wgs := wgs } ∧
        fget wgs g = some y' ∧ y'.laneQ = y.laneQ ++ rs ∧ Made q rs as := by
  induction as with
  | nil => exact fun hy => ⟨_, _, _, [], rfl, hy, (List.append_nil _).symm, .nil⟩
  | cons a as ih =>
    intro s y hy
    obtain ⟨hwg, hpath, hext⟩ := hq s a
    obtain ⟨wgs, z, he, hz, hlane⟩ := accept_lane hext hpath (hwg ▸ hy)
    obtain ⟨n, wgs', y', rs, hfold, hy', hqueue, hmade⟩ := ih (s := { s with nextId := s.nextId + 1, wgs := wgs }) (hwg ▸ hz)
    refine ⟨n, wgs', y', q s a :: rs, ?_, hy', ?_, .cons ⟨s, rfl⟩ hmade⟩
    · rw [List.foldl_cons, he, hfold]
    · rw [hqueue, hlane, List.append_assoc]
      rfl

/-- A request sent travels; nothing else changes but numbers. -/
theorem sendNow_travels (s : State) (r : Req) : ∃ sent inMesh,
    sendNow s r = { s with nextId := s.nextId + 1, net := s.net ++ [{ r with sent := sent, inMesh := inMesh }] } := ⟨_, _, rfl⟩

/-- Requests sent one after the other travel. -/
theorem sends_travel {α : Type} {q : State → α → Req} (as : List α) : ∀ (s : State),
    ∃ n rs, as.foldl (fun t a => sendNow t (q t a)) s = { s with nextId := n, net := s.net ++ rs } ∧
      ∀ a ∈ as, ∃ r ∈ rs, ∃ t sent inMesh, r = { q t a with sent := sent, inMesh := inMesh } := by
  induction as with
  | nil => exact fun s => ⟨s.nextId, [], by rw [List.append_nil]; rfl, nofun⟩
  | cons a as ih =>
    intro s
    obtain ⟨sent, inMesh, hsend⟩ := sendNow_travels s (q s a)
    obtain ⟨n, rs, hfold, hmade⟩ := ih (sendNow s (q s a))
    refine ⟨n, { q s a with sent := sent, inMesh := inMesh } :: rs, ?_, fun b hb => ?_⟩
    · rw [List.foldl_cons, hfold, hsend]
      simp only [List.append_assoc, List.cons_append, List.nil_append]
    · rcases List.mem_cons.mp hb with rfl | hb
      · exact ⟨_, List.mem_cons_self .., s, _, _, rfl⟩
      · obtain ⟨r, hr, h⟩ := hmade b hb
        exact ⟨r, List.mem_cons_of_mem _ hr, h⟩

/-! ### Lanes grouped by target (R62) -/

/-- Every operation is in the group of its target. -/
theorem mem_groupOps {ops : List (Target × LaneOp)} {p : Target × LaneOp} (h : p ∈ ops) :
    ∃ g ∈ groupOps ops, g.1 = p.1 ∧ p.2 ∈ g.2 := by
  refine ⟨_, List.mem_map.mpr ⟨p.1, ?_, rfl⟩, rfl, ?_⟩
  · exact List.mem_eraseDups.mpr (List.mem_map_of_mem h)
  · exact List.mem_map.mpr ⟨p, List.mem_filter.mpr ⟨h, decide_eq_true rfl⟩, rfl⟩

/-- The operations of the active lanes are grouped as their lanes are. -/
theorem groupOps_lanes {x : Ctx} {tgt : Nat → Target} {op : Nat → LaneOp} :
    groupOps ((lanesOf x.act).map fun l => (tgt l, op l)) = (Claims.combined x tgt).map fun p => (p.1, p.2.map op) := by
  simp only [groupOps, Claims.combined, List.map_map, List.filter_map]
  rfl

end Sys2Proof.Proofs
end

section
/-! The checks of an access passed, and the registers a returning access writes. -/

namespace Sys2Proof.Proofs

open Sys2Proof.Machine Sys2Proof.Safety

section
variable {s : State} {x : Ctx} {e : Nat → Nat} {n : Nat}

/-! ### The checks of an access (R257, Table 7.4) -/

/-- With its checks passed, an instruction leaves its plan's next state. -/
theorem issue_passed {i : Instr} {plan : Ctx → Plan} (hi : Issues i s x) (hc : Clear x) (hpriv : (plan x).priv = none)
    (hsurface : (plan x).surface = true → row6 x = none) (hown : (plan x).own = none)
    (hlive : (plan x).live = true → speculative x.w = false) (hwait : (plan x).wait = none) :
    issue i s plan = .next (plan x).next :=
  (issue_warp hi).trans (congrArg _ (gate_next hc hpriv hsurface hown hlive hwait))

theorem addrTrap_none {align : Nat} (h : ∀ l, hasLane x.act l = true → e l % align = 0 ∧ locate s x (e l) n ≠ .bad) :
    addrTrap s x e align n = none :=
  Option.or_eq_none_iff.mpr ⟨firstBad_none fun l hl => decide_eq_false (not_not.mpr (h l hl).1),
    firstBad_none fun l hl => decide_eq_false (h l hl).2⟩

/-- Paged lanes read no stale granule of the own slice. -/
theorem staleTrap_paged (h : ∀ l, hasLane x.act l = true → locate s x (e l) n = .paged) : staleTrap s x e n = none := by
  unfold staleTrap
  split
  · exact firstBad_none fun l hl => by rw [h l hl]
  · rfl

/-- An operation that is not external, or in plain mode, issues at once. -/
theorem externally_go {ext : Bool} {go : State} (h : ext = false ∨ x.l.rec_.mode = 0) : externally s x ext go = go := by
  unfold externally
  rcases h with h | h <;> simp [h]

theorem own_unpaged {off gen : Nat → Nat} (h : Claims.Own s x e n off gen) :
    ∀ l, hasLane x.act l = true → locate s x (e l) n ≠ .paged := by
  intro l hl
  obtain ⟨-, priv, hloc⟩ := h l hl
  rw [hloc]
  nofun

theorem own_addrTrap {off gen : Nat → Nat} (h : Claims.Own s x e n off gen) : addrTrap s x e n n = none :=
  addrTrap_none fun l hl => by
    obtain ⟨halign, priv, hloc⟩ := h l hl
    exact ⟨halign, hloc ▸ nofun⟩

theorem paged_addrTrap {write : Bool} {pa : Nat → Nat} (h : Claims.Paged s x e n write pa) : addrTrap s x e n n = none :=
  addrTrap_none fun l hl => by
    obtain ⟨halign, hloc, -⟩ := h l hl
    exact ⟨halign, hloc ▸ nofun⟩

theorem paged_direct {write w : Bool} {pa : Nat → Nat} (h : Claims.Paged s x e n write pa) {l : Nat} (hl : l ∈ lanesOf x.act) :
    direct s x w (e l) n = none :=
  direct_paged (h l (mem_lanesOf.mp hl)).2.1

theorem own_direct {off gen : Nat → Nat} (h : Claims.Own s x e n off gen) {write : Bool}
    (hw : write = false ∨ speculative x.w = false) {l : Nat} (hl : l ∈ lanesOf x.act) :
    direct s x write (e l) n = some (off l, gen l) := by
  obtain ⟨-, priv, hloc⟩ := h l (mem_lanesOf.mp hl)
  exact direct_own hloc hw

/-! ### Registers a returning access writes (R255, R258) -/

theorem completesOn_goOn {i : Instr} {t : State} {k : Core} {w : Warp} (h : exec i s = .next (goOn t x k w)) :
    Claims.CompletesOn i s t x k w := ⟨_, h, goOn_leaves t x k w⟩

/-- Only the values of active lanes are written. -/
theorem writeV_congr {k : Core} {sl r : Nat} {w : Warp} {m : Word} {f g : Nat → Word}
    (h : ∀ l, hasLane m l = true → f l = g l) : writeV k sl w r m f = writeV k sl w r m g := by
  have hlanes : (lanes.map fun l => if hasLane m l then f l else readV k sl w r l) =
      lanes.map fun l => if hasLane m l then g l else readV k sl w r l :=
    List.map_congr_left fun l _ => by split <;> simp_all
  simp only [writeV, hlanes]

/-- Consecutive registers written one after the other. -/
theorem foldl_writeV_wrote (f : Nat → Nat → Word) (d m : Nat) : ∀ (a : Nat) (x : Ctx),
    Claims.WroteRegs x ((List.range' a m).foldl (fun k i => writeV k x.slot x.w (d + i) x.act (f i)) x.k) (d + a)
      ((List.range' a m).map f) := by
  induction m with
  | zero => exact fun _ _ => rfl
  | succ m ih =>
    intro a x
    exact ⟨_, writeV_wrote x (d + a) (f a), ih (a + 1) { x with k := writeV x.k x.slot x.w (d + a) x.act (f a) }⟩

/-- A short value, zero- or sign-extended (Table 12.2). -/
theorem extended_short {size v : Nat} (hs : size ≤ 6) (hn : Claims.bytesOf size < 4) (hv : v < 256 ^ Claims.bytesOf size) :
    (if decide (5 ≤ size) = true then BitVec.ofInt 32 (sext (8 * Claims.bytesOf size) v) else wd v) = Claims.extended size v := by
  have hmod : v % 2 ^ (8 * Claims.bytesOf size) = v := Nat.mod_eq_of_lt (by rwa [Nat.pow_mul])
  rw [sext, hmod]
  interval_cases size <;> simp [Claims.extended, Claims.bytesOf, wd] at hn ⊢
  all_goals split <;> simp

/-- A group's registers hold the values, as a load of the size extends them (Table 12.2). -/
theorem writeGroup_wrote {size d : Nat} {f : Nat → Nat} (hs : size ≤ 6)
    (hf : ∀ l, hasLane x.act l = true → f l < 256 ^ Claims.bytesOf size) :
    Claims.WroteGroup x
      (writeGroup x.k x.slot x.w x.act (if d < 0x60 then some d else none) (Claims.bytesOf size) (decide (5 ≤ size)) f) size d f := by
  unfold Claims.WroteGroup
  by_cases hd : 0x60 ≤ d
  · rw [if_pos hd, if_neg (Nat.not_lt.mpr hd)]
    rfl
  rw [if_neg hd, if_pos (Nat.not_le.mp hd)]
  by_cases hn : Claims.bytesOf size < 4
  · rw [if_pos hn.le]
    exact ⟨_, writeV_wrote x d _, (if_pos hn).trans (writeV_congr fun l hl => extended_short hs hn (hf l hl))⟩
  · have hregs := foldl_writeV_wrote (fun i l => wd (f l / 2 ^ (32 * i))) d (Claims.bytesOf size / 4) 0 x
    rw [← List.range_eq_range'] at hregs
    rw [writeGroup, if_neg hn]
    split
    · have h2 : size = 2 := by
        interval_cases size <;> simp [Claims.bytesOf] at *
      subst h2
      have hword : (fun l => Claims.extended 2 (f l)) = fun l => wd (f l / 2 ^ (32 * 0)) := by
        funext l
        simp [Claims.extended, wd]
      rw [hword]
      exact hregs
    · exact hregs

end
end Sys2Proof.Proofs
end

section
/-! Loads of the own slice and of paged memory. -/

namespace Sys2Proof.Proofs

open Sys2Proof.Machine Sys2Proof.Safety

section
variable {s : State} {x : Ctx} {e : Nat → Nat} {n : Nat}

/-- A returning access with nothing to wait for writes its group at once. -/
theorem finishReturning_group {p : Pending} {d : Option Nat} {signed : Bool} (hwant : p.want = 0)
    (hdest : p.dest = .group d n signed) :
    finishReturning s x p =
      goOn s x (writeGroup (s.core x.core) x.slot x.w p.act d n signed (valueOf p.got)) x.w := by
  unfold finishReturning
  dsimp only
  rw [if_pos hwant, hdest]

/-- One that waits stays outstanding. -/
theorem finishReturning_waits {p : Pending} (hwant : p.want ≠ 0) :
    finishReturning s x p = goOn s x (s.core x.core) { x.w with pend := x.w.pend ++ [p] } := if_neg hwant

theorem writeGroup_congr {k : Core} {sl : Nat} {w : Warp} {m : Word} {d : Option Nat} {signed : Bool} {f g : Nat → Nat}
    (h : ∀ l, hasLane m l = true → f l = g l) : writeGroup k sl w m d n signed f = writeGroup k sl w m d n signed g := by
  unfold writeGroup
  cases d with
  | none => rfl
  | some r =>
    dsimp only
    split
    · exact writeV_congr fun l hl => by rw [h l hl]
    · exact List.foldl_ext _ _ _ fun k i _ => writeV_congr fun l hl => by rw [h l hl]

theorem valueOf_map {f : Nat → Nat} {ls : List Nat} {l : Nat} (h : l ∈ ls) : valueOf (ls.map fun j => (j, f j)) l = f l := by
  rw [valueOf, find?_map_lane h]

theorem maskOf_lanesOf (m : Word) : maskOf (lanesOf m).contains = m := by
  refine BitVec.eq_of_getLsbD_eq fun l hl => ?_
  have h := hasLane_maskOf (p := (lanesOf m).contains) (l := l)
  rw [decide_eq_true hl, Bool.true_and] at h
  refine h.trans (Bool.eq_iff_iff.mpr ?_)
  rw [List.contains_iff_mem]
  exact mem_lanesOf

theorem filterMap_lanes {α : Type} {m : Word} {f : Nat → Option α} {g : Nat → α} (h : ∀ l ∈ lanesOf m, f l = some (g l)) :
    (lanesOf m).filterMap f = (lanesOf m).map g := List.filterMap_eq_map_iff_forall_eq_some.mpr h

/-- Bytes held in Brine replace bytes read. -/
theorem overlay_length {g a : Nat} {t : Target} {bs : List Byte} : (overlay s g t a bs).length = bs.length := by
  unfold overlay
  split
  · rfl
  · dsimp only
    split
    · rfl
    · rw [List.length_map, List.length_zipIdx]

theorem natOfBytes_lt (bs : List Byte) : natOfBytes bs < 256 ^ bs.length := by
  induction bs with
  | nil => exact Nat.one_pos
  | cons b bs ih =>
    have hb := b.isLt
    rw [natOfBytes, List.length_cons, Nat.pow_succ]
    omega

theorem ownNat_lt {gen off : Nat} : ownNat s x gen off n < 256 ^ n := by
  have h := natOfBytes_lt (overlay s x.g (.slice x.core 0) off (sliceBytes x.k gen off n))
  rwa [overlay_length, sliceBytes, List.length_map, List.length_range] at h

/-! ### Loads (R255 to R258, R260) -/

/-- A load of the own slice writes its group at once. -/
theorem loadGo_own {off gen pa : Nat → Nat} {d : Option Nat} {signed : Bool} {acquire : Option Nat} (hk : x.k = s.core x.core)
    (hown : Claims.Own s x e n off gen) (hbad : directBad s x false e n = false) :
    loadGo e n (.group d n signed) acquire s x pa =
      goOn { s with nextId := s.nextId + 1 } x
        (writeGroup x.k x.slot x.w x.act d n signed
          (valueOf ((lanesOf x.act).map fun l => (l, ownNat s x (gen l) (off l) n)))) x.w := by
  have hdirect {l : Nat} (hl : l ∈ lanesOf x.act) : direct s x false (e l) n = some (off l, gen l) := own_direct hown (.inl rfl) hl
  have hfar : ((lanesOf x.act).filter fun l => (direct s x false (e l) n).isNone) = [] :=
    List.filter_eq_nil_iff.mpr fun l hl => by simp [hdirect hl]
  unfold loadGo
  rw [if_neg (by simp [hbad])]
  simp only [hfar]
  rw [filterMap_lanes (g := fun l => (l, ownNat s x (gen l) (off l) n))]
  · refine (finishReturning_group (d := d) (n := n) (signed := signed) (by rfl) rfl).trans ?_
    rw [hk]
    rfl
  · intro l hl
    rw [hdirect hl]

theorem exec_load {f : F3} {m : XM} {p : Instr × Bool × Bool} (hp : p ∈ Claims.loads f m) :
    exec p.1 s = loadOp p.1 p.2.1 p.2.2 f m s ∧ (fieldsOk false p.1 = true → m.size.toNat ≤ 6) := by
  simp only [Claims.loads, List.mem_cons, List.not_mem_nil, or_false] at hp
  rcases hp with rfl | rfl | rfl | rfl <;> exact ⟨rfl, by simp +contextual [fieldsOk]⟩

/-- A load that no check stops and that is no external operation accesses its lanes, translated. -/
theorem load_accesses {f : F3} {m : XM} {p : Instr × Bool × Bool} (hp : p ∈ Claims.loads f m) (hi : Issues p.1 s x) (hc : Clear x)
    (hn : n = Claims.bytesOf m.size.toNat) (he : e = Claims.address s x p.2.1 f.a.toNat m.off.toInt)
    (haddr : addrTrap s x e n n = none) (hstale : staleTrap s x e n = none)
    (hwait : accessWait s x e n true false none = none)
    (hext : p.2.2 = false ∨ x.l.rec_.mode ≠ 2 ∨ outside s x e n = false) :
    m.size.toNat ≤ 6 ∧ exec p.1 s = .next (withXlate s x e n false 1
      (loadGo e n (.group (if f.d.toNat < 0x60 then some f.d.toNat else none) n (decide (5 ≤ m.size.toNat)))
        (if p.2.2 then some m.scope.toNat else none))) := by
  subst hn he
  obtain ⟨hexec, hsize⟩ := exec_load (s := s) hp
  have hsize := hsize (fieldsOk_of_clear hi hc)
  refine ⟨hsize, hexec.trans ?_⟩
  unfold loadOp
  simp only [laneAddr_eq, sizeBytes_eq hsize]
  exact (issue_passed hi hc rfl (by nofun) (Option.or_eq_none_iff.mpr ⟨haddr, hstale⟩) (by nofun) hwait).trans
    (congrArg _ (externally_go (by rcases hext with h | h | h <;> simp [h])))

theorem ownSliceLoads : Parts.OwnSliceLoads := by
  intro f m p hp s x off gen n e hi hc hown hstale hwait hext
  have hk := (ctxOf_fields hi.2).2.1
  obtain ⟨hsize, hexec⟩ := load_accesses hp hi hc rfl rfl (own_addrTrap hown) hstale hwait hext
  obtain ⟨pa, hlanes⟩ := withXlate_unpaged (write := false) (acc := 1)
    (body := loadGo e n (.group (if f.d.toNat < 0x60 then some f.d.toNat else none) n (decide (5 ≤ m.size.toNat)))
      (if p.2.2 then some m.scope.toNat else none)) hk (own_unpaged hown)
  have hexec := hexec.trans (congrArg _ hlanes)
  refine ⟨fun hbad => ?_, fun hbad => hexec.trans (congrArg _ (if_pos hbad))⟩
  rw [loadGo_own hk hown hbad] at hexec
  refine ⟨_, ?_, completesOn_goOn hexec⟩
  rw [writeGroup_congr fun l hl => valueOf_map (mem_lanesOf.mpr hl)]
  exact writeGroup_wrote hsize fun l _ => ownNat_lt

/-- A load of paged memory leaves one access outstanding and a request on its way for each lane's bytes. -/
theorem loadGo_paged {pa pa' : Nat → Nat} {dest : Dest} {acquire : Option Nat} (hk : x.k = s.core x.core) (ha : x.act ≠ 0)
    (hpaged : Claims.Paged s x e n false pa) (hpa : ∀ l, hasLane x.act l = true → pa' l = pa l) :
    ∃ i rs q, loadGo e n dest acquire s x pa' =
        goOn { s with nextId := i, net := s.net ++ rs } x x.k { x.w with pend := x.w.pend ++ [q] } ∧
      (q.id = s.nextId ∧ q.want = x.act ∧ q.act = x.act ∧ q.got = []) ∧
      ∀ l, hasLane x.act l = true → ∃ r ∈ rs, r.kind = .load ∧ r.pend = some s.nextId ∧ r.size = n ∧
        ∃ o ∈ r.lanes, o.lane = l ∧ o.at_ = pa l := by
  have hdirect {l : Nat} (hl : l ∈ lanesOf x.act) : direct s x false (e l) n = none := paged_direct hpaged hl
  have hbad : directBad s x false e n = false := List.any_eq_false.mpr fun l hl => by simp [hdirect hl]
  have hfar : ((lanesOf x.act).filter fun l => (direct s x false (e l) n).isNone) = lanesOf x.act :=
    List.filter_eq_self.mpr fun l hl => by simp [hdirect hl]
  unfold loadGo
  rw [if_neg (by simp [hbad])]
  simp only [hfar, maskOf_lanesOf]
  rw [List.filterMap_eq_nil_iff.mpr fun l hl => by rw [hdirect hl],
    filterMap_lanes (g := fun l => (Target.mem (pa' l / 64 * 64),
      ({ lane := l, at_ := pa' l, data := 0, swap := 0, va := e l, keep := 0 } : LaneOp)))
      fun l hl => by rw [targetOf_paged (hpaged l (mem_lanesOf.mp hl)).2.1]; rfl]
  have hp : (mkPend s x dest none x.act [] acquire.isSome false ((lanesOf x.act).map fun l => (e l, n))).id = s.nextId := rfl
  obtain ⟨i, rs, hfold, hmade⟩ := sends_travel (q := fun t g =>
      { mkReq t x .lane .load g.1 n g.2 (some s.nextId) none false [] with marked := decide (acquire = some 6) })
    (groupOps ((lanesOf x.act).map fun l => (Target.mem (pa' l / 64 * 64),
      ({ lane := l, at_ := pa' l, data := 0, swap := 0, va := e l, keep := 0 } : LaneOp)))) { s with nextId := s.nextId + 1 }
  refine ⟨i, rs, _, ?_, ⟨hp, rfl, rfl, rfl⟩, fun l hl => ?_⟩
  · rw [hp, hfold, finishReturning_waits (x := x) ha, hk]
    rfl
  · obtain ⟨g, hg, -, hop⟩ := mem_groupOps (List.mem_map_of_mem (mem_lanesOf.mpr hl))
    obtain ⟨r, hr, t, sent, inMesh, rfl⟩ := hmade g hg
    exact ⟨_, hr, rfl, rfl, rfl, _, hop, rfl, hpa l hl⟩

theorem pagedLoads : Parts.PagedLoads := by
  intro f m p hp s x pa n e hi hc ha hpaged hwait hext
  have hk := (ctxOf_fields hi.2).2.1
  obtain ⟨-, hexec⟩ := load_accesses hp hi hc rfl rfl (paged_addrTrap hpaged)
    (staleTrap_paged fun l hl => (hpaged l hl).2.1) hwait (hext.symm.imp_right .inl)
  obtain ⟨pa', hpa, hlanes⟩ := withXlate_paged (acc := 1)
    (body := loadGo e n (.group (if f.d.toNat < 0x60 then some f.d.toNat else none) n (decide (5 ≤ m.size.toNat)))
      (if p.2.2 then some m.scope.toNat else none)) hk hpaged
  obtain ⟨i, rs, q, hgo, ⟨hid, hwant, hact, hgot⟩, hreq⟩ := loadGo_paged hk ha hpaged hpa
  obtain ⟨t, hnext, ⟨fr, hd, ov, -, -, -, rfl⟩, hat⟩ := completesOn_goOn (hexec.trans (congrArg _ (hlanes.trans hgo)))
  refine ⟨_, q, fr, hd, ov, hnext, hid, hwant, hact, hgot, fun l hl => ?_, setCore_core .., hat, rfl, rfl, rfl, rfl,
    fun c hcore => setCore_core_other _ _ hcore⟩
  obtain ⟨r, hr, h⟩ := hreq l hl
  exact ⟨r, List.mem_append_right _ hr, h⟩

/-- Settles O20: the own slice is read as it stands; for a page one request for each lane's bytes travels. -/
theorem loads : Obligations.Loads := ⟨ownSliceLoads, pagedLoads⟩

end
end Sys2Proof.Proofs
end

section
/-! A CAS of 16 bytes on the own slice writes four registers (R255, R263): the values before it, of which the statement of
O22 names the first register alone and leaves the others as they were. -/

namespace Sys2Proof.Proofs

open Sys2Proof.Machine Sys2Proof.Safety

/-! ### A warp of one lane at a CAS of 16 bytes -/

/-- v12:v15 from the bytes at the offset in v4, compared with v8:v11. -/
def wideF : F3 := { d := 12, a := 4, b := 8, pr := 7, pn := 0 }

/-- Size 4 names 16 bytes; the new value is in v12:v15. -/
def wideM : XM := { c := 12, round := 0, sat := 0, scope := 0, size := 4, off := 0 }

/-- The entry at it, the last instruction of its clause. -/
def wideEntry : Entry :=
  { pc := 0x1004, clause := some { hdr := 0x1000, page := pageOf (.casLocal wideF wideM), count := 2 }, mask := 1, prio := 0
    age := 0, aged := none, wait := .run, waits := false, mark := none }

/-- A warp of one lane there, its registers as at its start. -/
def wideWarp : Warp := { freshWarp 0 0 1 0x1000 placedRec 1 [0, 1, 2, 3, 4, 5] with frontier := [wideEntry] }

/-- Its workgroup, with 4 KiB of scratchpad. -/
def wideWg : Wg := { placedWg 0 0 1 none with size := 4096 }

/-- Core 0 with the warp; byte 4 of the workgroup's scratchpad is 7. -/
def wideCore : Core := { Core.reset with warps := [(0, wideWarp)], tags := [(0, 1)], data := [(4, 7)] }

/-- A package in which the warp issues. -/
def wideState : State :=
  { State.reset with
    cores := [(0, wideCore)], wgs := [(0, wideWg)], launches := [(0, placedLaunch 0)], nextWg := 1, nextLaunch := 1
    nextId := 1, cur := .warp 0 0 0 }

/-- The context of the issue. -/
def wideCtx : Ctx :=
  { core := 0, slot := 0, ei := 0, w := wideWarp, e := wideEntry, k := wideCore, g := 0, wg := wideWg
    l := placedLaunch 0, i := .casLocal wideF wideM, act := 1 }

/-- Its lane's address: the first byte of the scratchpad. -/
def wideAddr : Nat → Nat := Claims.address wideState wideCtx true 4 0

theorem wide_issues : Issues (.casLocal wideF wideM) wideState wideCtx := ⟨rfl, rfl⟩

theorem wide_clear : Clear wideCtx := ⟨by decide, by decide, by decide⟩

theorem wide_lane {l : Nat} (h : hasLane wideCtx.act l = true) : l = 0 := by
  simpa [hasLane, wideCtx, BitVec.getLsbD_one] using h

theorem wide_own : Claims.Own wideState wideCtx wideAddr 16 (fun _ => 0) fun _ => 1 := by
  intro l hl
  rw [wide_lane hl]
  exact ⟨by decide, false, by decide⟩

/-- Lane 0 of v13 in core 0 after a step. -/
def wideSecond : Host.Outcome State Fault Refusal → Option Word
  | .next t => some ((rowAt (t.core 0) (rowKey 0 wideWarp 13)).data.getD 0 0)
  | .fault _ | .refused _ => none

theorem wideSecond_setCore (s : State) (k : Core) :
    wideSecond (.next (s.setCore wideCtx.core k)) = some ((rowAt k (rowKey 0 wideWarp 13)).data.getD 0 0) :=
  congrArg (fun c => some ((rowAt c (rowKey 0 wideWarp 13)).data.getD 0 0)) (setCore_core s wideCtx.core k)

/-- The second register of the group holds bytes 4 to 7. -/
theorem wide_second : wideSecond (exec (.casLocal wideF wideM) wideState) = some 7 := by
  decide

/-- Refutes O22: a CAS of 16 bytes writes v12 to v15, where the statement leaves every row but v12's as it was. -/
theorem not_atomics : ¬ Obligations.Atomics := by
  rintro ⟨-, hown, -⟩
  have hcas := hown wideF wideM (.casLocal wideF wideM, true, 0, true) (by simp [Claims.atomics, wideM]) wideState wideCtx
    (fun _ => 0) 1 wide_issues wide_clear rfl rfl wide_own (fun _ _ => rfl) (by decide) (by decide) nofun (.inr (.inl rfl))
    (by decide)
  obtain ⟨s', k, ⟨t, hnext, ⟨fr, hd, ov, -, -, -, rfl⟩, -⟩, -, -, hgroup, ⟨d, tg, bg, hcore⟩, -⟩ := hcas
  obtain ⟨k', hrow, rfl⟩ := hgroup
  obtain ⟨-, hothers, -⟩ := hrow
  have hkept : rowAt k (rowKey 0 wideWarp 13) = rowAt (s'.core 0) (rowKey 0 wideWarp 13) := hothers _ (rowKey_ne (by decide))
  have hrows : rowAt (s'.core 0) (rowKey 0 wideWarp 13) = rowAt wideCore (rowKey 0 wideWarp 13) := by
    rw [show s'.core 0 = _ from hcore]
    rfl
  have hsecond : some ((rowAt k (rowKey 0 wideWarp 13)).data.getD 0 0) = some 7 := by
    have hread := (congrArg wideSecond hnext).symm.trans wide_second
    rw [wideSecond_setCore] at hread
    exact hread
  rw [hkept, hrows] at hsecond
  exact absurd hsecond (by decide)

end Sys2Proof.Proofs
end

section
/-! A slice as it is written: which bytes an event changes (R110, R111), and what a write leaves of a package. -/

namespace Sys2Proof.Proofs

open Sys2Proof.Machine Sys2Proof.Safety

/-! ### Bytes of a slice -/

/-- A memory in canonical form lists rising addresses. -/
theorem rising_of_memWf {m : Mem} : ∀ {lo : Nat}, memWfFrom lo m = true → risingFrom lo m = true := by
  induction m with
  | nil => exact fun _ => rfl
  | cons p m ih =>
    intro lo h
    simp only [memWfFrom, Bool.and_eq_true, decide_eq_true_eq] at h
    simp only [risingFrom, Bool.and_eq_true, decide_eq_true_eq]
    exact ⟨h.1.1, ih h.2⟩

/-- A core changed in its slice alone. -/
def SliceOnly (k k' : Core) : Prop := ∃ d tg bg, k' = { k with data := d, tags := tg, badGrans := bg }

theorem SliceOnly.refl (k : Core) : SliceOnly k k := ⟨_, _, _, rfl⟩

theorem SliceOnly.trans {k k' k'' : Core} (h : SliceOnly k k') (h' : SliceOnly k' k'') : SliceOnly k k'' := by
  obtain ⟨_, _, _, rfl⟩ := h
  obtain ⟨_, _, _, rfl⟩ := h'
  exact ⟨_, _, _, rfl⟩

section
variable {k : Core} {gen : Nat}

theorem sliceOnly_adopt (g : Nat) : SliceOnly k (adopt k gen g) := by
  unfold adopt
  split
  · exact .refl k
  · exact ⟨_, _, _, rfl⟩

theorem memWf_adopt {g : Nat} (h : memWf k.data = true) : memWf (adopt k gen g).data = true := by
  unfold adopt
  split
  · exact h
  · exact memWf_filter _ h

theorem granTag_adopt (g i : Nat) : granTag (adopt k gen g) i = if i = g then gen else granTag k i := by
  unfold adopt
  by_cases hg : granTag k g = gen
  · rw [if_pos hg]
    split <;> simp_all
  · rw [if_neg hg]
    by_cases hi : i = g
    · simp [granTag, hi]
    · simp [granTag, hi, fget_fput_other _ _ hi]

/-- Adopting a granule fills it with the zeros that it reads as (R110). -/
theorem sliceByte_adopt {g a : Nat} (h : memWf k.data = true) : sliceByte (adopt k gen g) gen a = sliceByte k gen a := by
  by_cases hg : granTag k g = gen
  · rw [adopt, if_pos hg]
  have hfilter := fget_filter_key (rising_of_memWf h) (fun b => !(decide (g * 64 ≤ b) && decide (b < g * 64 + 64))) a
  have hread : memRead (adopt k gen g).data a = if a / 64 = g then 0 else memRead k.data a := by
    rw [adopt, if_neg hg, memRead]
    dsimp only
    rw [hfilter]
    by_cases ha : a / 64 = g
    · rw [if_pos ha, if_neg (by simp; omega)]
      rfl
    · rw [if_neg ha, if_pos (by simp; omega)]
      rfl
  simp only [sliceByte, sliceStale, granTag_adopt, hread]
  by_cases ha : a / 64 = g <;> simp [ha, hg]

/-- Granules that adopt a generation one after the other. -/
theorem adopts_slice (f : Nat → Nat) (js : List Nat) : ∀ {k : Core}, memWf k.data = true →
    let k' := js.foldl (fun k j => adopt k gen (f j)) k
    SliceOnly k k' ∧ memWf k'.data = true ∧ (∀ a, sliceByte k' gen a = sliceByte k gen a) ∧
      (∀ i, granTag k' i = if i ∈ js.map f then gen else granTag k i) := by
  induction js with
  | nil => exact fun h => ⟨.refl _, h, fun _ => rfl, fun _ => by simp⟩
  | cons j js ih =>
    intro k h
    obtain ⟨honly, hwf, hbyte, htag⟩ := ih (k := adopt k gen (f j)) (memWf_adopt h)
    refine ⟨(sliceOnly_adopt _).trans honly, hwf, fun a => (hbyte a).trans (sliceByte_adopt h), fun i => (htag i).trans ?_⟩
    rw [granTag_adopt, List.map_cons]
    by_cases hi : i = f j <;> simp [hi]

theorem sliceByte_congr {k' : Core} {a : Nat} (htags : k'.tags = k.tags) (hdata : memRead k'.data a = memRead k.data a) :
    sliceByte k' gen a = sliceByte k gen a := by
  rw [sliceByte, sliceByte, sliceStale, sliceStale, granTag, granTag, htags, hdata]

/-- A write changes a slice in the bytes written, and leaves them under its generation. -/
theorem sliceWrite_slice {off : Nat} {bs : List Byte} (h : memWf k.data = true) :
    SliceOnly k (sliceWrite k gen off bs) ∧ memWf (sliceWrite k gen off bs).data = true ∧
      (∀ i, i < bs.length → sliceByte (sliceWrite k gen off bs) gen (off + i) = bs.getD i 0) ∧
      ∀ a, a < off ∨ off + bs.length ≤ a → sliceByte (sliceWrite k gen off bs) gen a = sliceByte k gen a := by
  unfold sliceWrite
  by_cases hbs : bs.isEmpty = true
  · rw [if_pos hbs, List.isEmpty_iff.mp hbs]
    exact ⟨.refl k, h, nofun, fun _ _ => rfl⟩
  rw [if_neg hbs]
  obtain ⟨⟨d, tg, bg, honly⟩, hwf, hbyte, htag⟩ :=
    adopts_slice (gen := gen) (fun i => off / 64 + i) (List.range ((off + bs.length + 63) / 64 - off / 64)) h
  refine ⟨⟨_, _, _, by rw [honly]⟩, memWf_memWriteBytes _ _ hwf, fun i hi => ?_, fun a ha => ?_⟩
  · have hin : (off + i) / 64 ∈ (List.range ((off + bs.length + 63) / 64 - off / 64)).map fun i => off / 64 + i :=
      List.mem_map.mpr ⟨(off + i) / 64 - off / 64, List.mem_range.mpr (by omega), by omega⟩
    have hfresh := (htag ((off + i) / 64)).trans (if_pos hin)
    simp only [granTag] at hfresh
    simp only [sliceByte, sliceStale, granTag, hfresh, ne_eq, not_true_eq_false, decide_false, Bool.false_eq_true, if_false]
    exact memRead_memWriteBytes_inside bs hi hwf
  · exact (sliceByte_congr (by rfl) (memRead_memWriteBytes_outside bs ha hwf)).trans (hbyte a)

end

/-- A byte of a number. -/
theorem getD_bytesOfNat {n i : Nat} (v : Nat) (h : i < n) : (bytesOfNat n v).getD i 0 = BitVec.ofNat 8 (v / 256 ^ i) := by
  induction n generalizing v i with
  | zero => cases h
  | succ n ih =>
    cases i with
    | zero => simp [bytesOfNat]
    | succ i =>
      rw [bytesOfNat, List.getD_cons_succ, ih _ (Nat.lt_of_succ_lt_succ h), Nat.div_div_eq_div_mul, Nat.pow_succ, Nat.mul_comm 256]

/-- The number written is read back. -/
theorem sliceNat_sliceWrite {k : Core} {gen off n v : Nat} (h : memWf k.data = true) :
    sliceNat (sliceWrite k gen off (bytesOfNat n v)) gen off n = v % 256 ^ n := by
  obtain ⟨-, -, hin, -⟩ := sliceWrite_slice (gen := gen) (off := off) (bs := bytesOfNat n v) h
  rw [length_bytesOfNat] at hin
  have hbytes : sliceBytes (sliceWrite k gen off (bytesOfNat n v)) gen off n = bytesOfNat n v := by
    refine List.ext_getElem (by simp [sliceBytes]) fun i hi hi' => ?_
    rw [length_bytesOfNat] at hi'
    simp only [sliceBytes, List.getElem_map, List.getElem_range, hin i hi']
    exact List.getD_eq_getElem _ _ (by simpa using hi')
  rw [sliceNat, hbytes, natOfBytes_bytesOfNat]

/-! ### A write as the package sees it -/

/-- A package changed in its cores and in what its workgroups' checkpoints note. -/
def Noted (s t : State) : Prop :=
  ∃ (cores : FMap Core) (ck : Nat × Wg → Ckpt),
    t = { s with cores := cores, wgs := s.wgs.map fun p => (p.1, { p.2 with ck := ck p }) }

theorem Noted.refl (s : State) : Noted s s :=
  ⟨s.cores, fun p => p.2.ck, congrArg (fun m => { s with wgs := m }) (List.map_id s.wgs).symm⟩

theorem Noted.trans {s t u : State} (h : Noted s t) (h' : Noted t u) : Noted s u := by
  obtain ⟨_, ck, rfl⟩ := h
  obtain ⟨cores, ck', rfl⟩ := h'
  exact ⟨cores, fun p => ck' (p.1, { p.2 with ck := ck p }), congrArg (fun m => { s with cores := cores, wgs := m }) List.map_map⟩

section
variable {s t : State}

/-- Every workgroup is the same but for its checkpoint. -/
theorem Noted.wg (h : Noted s t) (ck : Ckpt) (g : Nat) :
    (fget t.wgs g).map (fun y => { y with ck := ck }) = (fget s.wgs g).map fun y => { y with ck := ck } := by
  obtain ⟨_, ck', rfl⟩ := h
  exact (congrArg (Option.map fun y => { y with ck := ck })
    (fget_map_keys (m := s.wgs) (f := fun p => (p.1, { p.2 with ck := ck' p })) (fun _ => rfl) g)).trans (Option.map_map ..)

theorem Noted.allocAt (h : Noted s t) (c launch off n : Nat) :
    (allocAt t c launch off n).map (fun p => p.2.gen) = (allocAt s c launch off n).map fun p => p.2.gen := by
  obtain ⟨_, _, rfl⟩ := h
  unfold Machine.allocAt
  rw [List.find?_map, Option.map_map]
  rfl

theorem locate_slice {x : Ctx} {va n i o : Nat} (h : regionOf va = .slice i o) :
    locate s x va n =
      (coreOfIdx s (devOfCore s x.core) i).elim .bad fun c =>
        if addressable (s.dev (devOfCore s x.core)).hcshare < o + n then .bad
        else if c = x.core then
          ((Machine.allocAt s c x.wg.launch o n).map fun p => p.2.gen).elim .bad fun gen => .own o gen false
        else .slice c o := by
  rw [locate, h]
  dsimp only
  cases coreOfIdx s (devOfCore s x.core) i with
  | none => rfl
  | some c =>
    dsimp only [Option.elim]
    cases Machine.allocAt s c x.wg.launch o n <;> rfl

/-- An access lies where it lay. -/
theorem Noted.locate (h : Noted s t) (x : Ctx) (va n : Nat) : locate t x va n = locate s x va n := by
  have hall := h.allocAt
  obtain ⟨_, _, rfl⟩ := h
  cases hva : regionOf va with
  | slice i o =>
    rw [locate_slice hva, locate_slice hva]
    simp only [hall]
    rfl
  | peer w o =>
    rw [Machine.locate, Machine.locate, hva]
    rfl
  | _ => rw [Machine.locate, Machine.locate, hva]

end

section
variable (s : State) (c off gen : Nat) (bs : List Byte)

/-- What a write of the slice notes of one workgroup. -/
def notedAt (p : Nat × Wg) : Nat × Wg :=
  if p.2.core = c ∧ p.2.base ≤ off ∧ off < p.2.base + p.2.size then
    (p.1, noteWrite p.2 (modeOf (s.updCore c fun k => sliceWrite k gen off bs) p.2) off bs.length)
  else p

theorem notedAt_ck (p : Nat × Wg) : notedAt s c off gen bs p = (p.1, { p.2 with ck := (notedAt s c off gen bs p).2.ck }) := by
  unfold notedAt
  split
  · unfold noteWrite
    split <;> rfl
  · rfl

theorem noted_ownWrite : Noted s (ownWrite s c off gen bs) :=
  ⟨_, _, congrArg (fun m => { s.updCore c fun k => sliceWrite k gen off bs with wgs := m })
    (List.map_congr_left fun p _ => notedAt_ck s c off gen bs p)⟩

@[simp] theorem ownWrite_core : (ownWrite s c off gen bs).core c = sliceWrite (s.core c) gen off bs :=
  updCore_core s c fun k => sliceWrite k gen off bs

theorem ownWrite_core_other {d : Nat} (h : d ≠ c) : (ownWrite s c off gen bs).core d = s.core d := setCore_core_other s _ h

end
end Sys2Proof.Proofs
end

section
/-! Stores to the own slice and to paged memory. -/

namespace Sys2Proof.Proofs

open Sys2Proof.Machine Sys2Proof.Safety

/-! ### Lanes that write a slice in order (R82) -/

/-- The slice after the writes of some lanes. -/
def lanesWritten (gen : Nat) (off : Nat → Nat) (n : Nat) (data : Nat → Nat) (ls : List Nat) (k : Core) : Core :=
  ls.foldl (fun k l => sliceWrite k gen (off l) (bytesOfNat n (data l))) k

section
variable {gen n : Nat} {off data : Nat → Nat}

theorem lanesWritten_slice (ls : List Nat) : ∀ {k : Core}, memWf k.data = true →
    let k' := lanesWritten gen off n data ls k
    SliceOnly k k' ∧ memWf k'.data = true ∧
      ∀ a, (∀ l ∈ ls, ¬ (off l ≤ a ∧ a < off l + n)) → sliceByte k' gen a = sliceByte k gen a := by
  induction ls with
  | nil => exact fun h => ⟨.refl _, h, fun _ _ => rfl⟩
  | cons l ls ih =>
    intro k h
    obtain ⟨hfirst, hwf, -, hout⟩ := sliceWrite_slice (gen := gen) (off := off l) (bs := bytesOfNat n (data l)) h
    obtain ⟨honly, hwf', hbyte⟩ := ih hwf
    refine ⟨hfirst.trans honly, hwf', fun a ha => (hbyte a fun j hj => ha j (List.mem_cons_of_mem _ hj)).trans (hout a ?_)⟩
    have hl := ha l (List.mem_cons_self ..)
    rw [length_bytesOfNat]
    omega

/-- A byte of a lane that no later lane covers is that lane's. -/
theorem lanesWritten_last {l i : Nat} {ls : List Nat} (hi : i < n) (hl : l ∈ ls) (hsorted : ls.Pairwise (· < ·))
    (hlast : ∀ j ∈ ls, l < j → ¬ (off j ≤ off l + i ∧ off l + i < off j + n)) : ∀ {k : Core}, memWf k.data = true →
    sliceByte (lanesWritten gen off n data ls k) gen (off l + i) = BitVec.ofNat 8 (data l / 256 ^ i) := by
  induction ls with
  | nil => cases hl
  | cons j ls ih =>
    intro k h
    obtain ⟨hj, hsorted⟩ := List.pairwise_cons.mp hsorted
    obtain ⟨-, hwf, hin, -⟩ := sliceWrite_slice (gen := gen) (off := off j) (bs := bytesOfNat n (data j)) h
    rcases List.mem_cons.mp hl with rfl | hl
    · obtain ⟨-, -, hout⟩ := lanesWritten_slice (gen := gen) (off := off) (n := n) (data := data) ls hwf
      have hlater := hout (off l + i) fun j hmem => hlast j (List.mem_cons_of_mem _ hmem) (hj j hmem)
      exact hlater.trans ((hin i (by rwa [length_bytesOfNat])).trans (getD_bytesOfNat _ hi))
    · exact ih hl hsorted (fun j hmem => hlast j (List.mem_cons_of_mem _ hmem)) hwf

end

theorem lanesOf_sorted (m : Word) : (lanesOf m).Pairwise (· < ·) :=
  List.Pairwise.filter _ List.pairwise_lt_range

section
variable {s : State} {x : Ctx} {e : Nat → Nat} {n : Nat}

theorem Noted.own {t : State} {off gen : Nat → Nat} (h : Noted s t) (hown : Claims.Own s x e n off gen) :
    Claims.Own t x e n off gen := fun l hl => by
  rw [h.locate]
  exact hown l hl

/-- Writes of a core's slice one after the other. -/
theorem foldl_ownWrite {F : State → Nat → State} {c gen : Nat} {off data : Nat → Nat} (ls : List Nat)
    (hF : ∀ t, Noted s t → ∀ l ∈ ls, F t l = ownWrite t c (off l) gen (bytesOfNat n (data l))) : ∀ {t : State}, Noted s t →
    Noted s (ls.foldl F t) ∧ (ls.foldl F t).core c = lanesWritten gen off n data ls (t.core c) ∧
      ∀ d, d ≠ c → (ls.foldl F t).core d = t.core d := by
  induction ls with
  | nil => exact fun h => ⟨h, rfl, fun _ _ => rfl⟩
  | cons l ls ih =>
    intro t h
    rw [List.foldl_cons, hF t h l (List.mem_cons_self ..)]
    obtain ⟨hnoted, hcore, hother⟩ := ih (fun u hu j hj => hF u hu j (List.mem_cons_of_mem _ hj))
      (h.trans (noted_ownWrite t c (off l) gen (bytesOfNat n (data l))))
    exact ⟨hnoted, hcore.trans (congrArg _ (ownWrite_core ..)),
      fun d hd => (hother d hd).trans (ownWrite_core_other _ _ _ _ _ hd)⟩

theorem exec_store {f : F3} {m : XM} {p : Instr × Bool × Nat × Option Nat} (hp : p ∈ Claims.stores f m)
    (hok : fieldsOk false p.1 = true) :
    exec p.1 s = storeOp p.1 p.2.1 f.a.toNat f.b.toNat p.2.2.1 m.off.toInt p.2.2.2 s := by
  simp only [Claims.stores, List.mem_cons, List.not_mem_nil, or_false] at hp
  rcases hp with rfl | rfl | rfl | rfl | rfl
  case inr.inr.inr.inr => rfl
  all_goals
    rw [← sizeBytes_eq (by simp [fieldsOk] at hok; omega)]
    rfl

/-- A store that no check stops writes its lanes, translated. -/
theorem store_accesses {f : F3} {m : XM} {p : Instr × Bool × Nat × Option Nat} (hp : p ∈ Claims.stores f m)
    (hi : Issues p.1 s x) (hc : Clear x) (hn : n = p.2.2.1) (he : e = Claims.address s x p.2.1 f.a.toNat m.off.toInt)
    (haddr : addrTrap s x e n n = none) (hwait : accessWait s x e n false true p.2.2.2 = none)
    (hroom : roomWait s x (brineLoad s x e n) = none) (hrow : p.2.2.2.isSome = true → row6 x = none) :
    exec p.1 s = .next (withXlate s x e n true 2 (storeGo e (groupLane s x f.b.toNat n) n p.2.2.2)) := by
  subst hn he
  rw [exec_store hp (fieldsOk_of_clear hi hc)]
  unfold storeOp
  simp only [laneAddr_eq]
  exact issue_passed hi hc rfl hrow haddr (by nofun) (Option.or_eq_none_iff.mpr ⟨hwait, hroom⟩)

/-- Stores to the own slice are written in ascending lane order. -/
theorem storeGo_own {off data pa : Nat → Nat} {gen : Nat} {rel : Option Nat} (hown : Claims.Own s x e n off fun _ => gen)
    (hspec : speculative x.w = false) :
    ∃ t, storeGo e data n rel s x pa = goOn t x (t.core x.core) x.w ∧ Noted s t ∧
      t.core x.core = lanesWritten gen off n data (lanesOf x.act) (s.core x.core) ∧ ∀ c, c ≠ x.core → t.core c = s.core c := by
  refine ⟨_, rfl, foldl_ownWrite _ (fun t ht l hl => ?_) (.refl s)⟩
  rw [own_direct (ht.own hown) (.inr hspec) hl]

theorem ownSliceStores : Parts.OwnSliceStores := by
  intro f m p hp s x off gen n e data hi hc hwf hspec hown hwait hrow
  have hk := (ctxOf_fields hi.2).2.1
  have hload : brineLoad s x e n = 0 := by
    have hnone : ((lanesOf x.act).filter fun l => (direct s x true (e l) n).isNone) = [] :=
      List.filter_eq_nil_iff.mpr fun l hl => by simp [own_direct hown (.inr hspec) hl]
    simp [brineLoad, hnone]
  have hexec := store_accesses hp hi hc rfl rfl (own_addrTrap hown) hwait (if_pos hload) hrow
  obtain ⟨pa, hlanes⟩ := withXlate_unpaged (write := true) (acc := 2) (body := storeGo e data n p.2.2.2) hk (own_unpaged hown)
  obtain ⟨t, hgo, hnoted, hcore, hother⟩ := storeGo_own (data := data) (pa := pa) (rel := p.2.2.2) hown hspec
  rw [← hk] at hcore
  obtain ⟨honly, -, hout⟩ := lanesWritten_slice (gen := gen) (off := off) (n := n) (data := data) (lanesOf x.act) hwf
  have hwgs := hnoted.wg x.wg.ck
  refine ⟨t, completesOn_goOn (hexec.trans (congrArg _ (hlanes.trans hgo))), ?_, ?_, hcore ▸ honly, hother, hwgs,
    fun l i hl hlast hlater => ?_, fun a ha => ?_⟩
  · obtain ⟨_, _, rfl⟩ := hnoted
    rfl
  · obtain ⟨_, _, rfl⟩ := hnoted
    rfl
  · rw [hcore]
    exact lanesWritten_last hlast (mem_lanesOf.mpr hl) (lanesOf_sorted _) (fun j hj => hlater j (mem_lanesOf.mp hj)) hwf
  · rw [hcore]
    exact hout a fun l hl => ha l (mem_lanesOf.mp hl)

/-- Stores to paged memory enter the lane queue in ascending lane order. -/
theorem storeGo_paged {data pa pa' : Nat → Nat} {rel : Option Nat} {strong : Bool} {waits : List Nat} (hk : x.k = s.core x.core)
    (hg : fget s.wgs x.g = some x.wg) (hpaged : Claims.Paged s x e n true pa)
    (hpa : ∀ l, hasLane x.act l = true → pa' l = pa l) (hspec : speculative x.w = false)
    (hstrong : strong = match rel with | some sc => decide (2 < sc) | none => false)
    (hwaits : waits = if strong then readsOf x else []) :
    ∃ i wgs g rs, storeGo e data n rel s x pa' = goOn { s with nextId := i, wgs := wgs } x x.k x.w ∧ fget wgs x.g = some g ∧
      g.laneQ = x.wg.laneQ ++ rs ∧
      Made (fun t l => { mkReq t x .lane .store (.mem (pa l)) n
          [{ lane := l, at_ := pa l, data := data l % 2 ^ (8 * n), swap := 0, va := e l, keep := 2 ^ (8 * n) - 1 }]
          none none strong waits with marked := decide (rel = some 6) }) rs (lanesOf x.act) := by
  obtain ⟨i, wgs, g, rs, hfold, hgs, hqueue, hmade⟩ := accepts_lane (g := x.g)
    (q := fun t l => { mkReq t x .lane .store (.mem (pa l)) n
          [{ lane := l, at_ := pa l, data := data l % 2 ^ (8 * n), swap := 0, va := e l, keep := 2 ^ (8 * n) - 1 }]
          none none strong waits with marked := decide (rel = some 6) }) (fun _ _ => ⟨rfl, rfl, rfl⟩) (lanesOf x.act) hg
  refine ⟨i, wgs, g, rs, ?_, hgs, hqueue, hmade⟩
  rw [hk]
  refine Eq.trans ?_ (congrArg (fun t => goOn t x (t.core x.core) x.w) hfold)
  unfold storeGo
  refine congrArg (fun t => goOn t x (t.core x.core) x.w) (List.foldl_ext _ _ _ fun t l hl => ?_)
  have hlane := mem_lanesOf.mp hl
  have hloc : locate t x (e l) n = .paged := locate_paged.mpr (locate_paged.mp (hpaged l hlane).2.1)
  rw [direct_paged hloc, targetOf_paged hloc, hspec, hpa l hlane, hwaits, hstrong]
  cases rel <;> simp

theorem pagedStores : Parts.PagedStores := by
  intro f m p hp s x pa n e strong hi hc hspec hpaged hwait hroom hrow
  obtain ⟨-, hk, -, -, -, -, -, -, hg, -⟩ := ctxOf_fields hi.2
  have hload : brineLoad s x e n = n * (lanesOf x.act).length := by
    have hall : ((lanesOf x.act).filter fun l => (direct s x true (e l) n).isNone) = lanesOf x.act :=
      List.filter_eq_self.mpr fun l hl => by simp [paged_direct hpaged hl]
    rw [brineLoad, hall, Nat.mul_comm]
  have hexec := store_accesses hp hi hc rfl rfl (paged_addrTrap hpaged) hwait (hload ▸ hroom) hrow
  obtain ⟨pa', hpa, hlanes⟩ := withXlate_paged (acc := 2) (body := storeGo e (groupLane s x f.b.toNat n) n p.2.2.2) hk hpaged
  obtain ⟨i, wgs, g, rs, hgo, hgs, hqueue, hmade⟩ := storeGo_paged (strong := strong) hk hg hpaged hpa hspec rfl rfl
  exact ⟨_, g, completesOn_goOn (hexec.trans (congrArg _ (hlanes.trans hgo))), rfl, rfl, rfl, fun _ => rfl, hgs, rs, hqueue,
    hmade.map fun _ _ => rfl, hmade.all fun _ _ => rfl⟩

/-- Settles O21: the own slice is written lane after lane; for a page each lane's write enters the lane queue. -/
theorem stores : Obligations.Stores := ⟨ownSliceStores, pagedStores⟩

end
end Sys2Proof.Proofs
end

section
/-! What a slice performs (R58, R109, R276, R277), and the answer that goes back for it. -/

namespace Sys2Proof.Proofs

open Sys2Proof.Machine Sys2Proof.Safety

/-! ### The answer (R88, R258) -/

section
variable {s t : State} {r : Req}

/-- An answer adds messages alone. -/
theorem sendBack_adds (t : State) (r : Req) (a : Answer) : ∃ ms, sendBack t r a = { t with msgs := t.msgs ++ ms } := by
  unfold sendBack
  split
  · exact ⟨[], by rw [List.append_nil]⟩
  · exact ⟨_, rfl⟩

theorem sendMsg_src (s : State) (r : Req) (m : Msg) : ∃ src flits, sendMsg s r m = { m with src := src, flits := flits } := by
  unfold sendMsg
  split
  · exact ⟨_, _, rfl⟩
  · exact ⟨m.src, m.flits, rfl⟩

theorem sendMsg_same (s : State) (r : Req) (m : Msg) :
    (sendMsg s r m).kind = m.kind ∧ (sendMsg s r m).cause = m.cause ∧ (sendMsg s r m).addr = m.addr ∧
      (sendMsg s r m).lane = m.lane := by
  obtain ⟨src, flits, h⟩ := sendMsg_src s r m
  rw [h]
  exact ⟨rfl, rfl, rfl, rfl⟩

/-- A request served without an error is answered with its values and predicates. -/
theorem sendBack_answered {a : Answer} (hnet : t.net = s.net.filter fun q => decide (q.id ≠ r.id)) (hmsgs : t.msgs = s.msgs)
    (hwg : (fget t.wgs r.wg).isSome = (fget s.wgs r.wg).isSome) (herrors : a.errors = []) :
    Claims.answered s (sendBack t r a) r a.values a.preds := by
  unfold Claims.answered sendBack heardBy
  rw [hwg]
  cases hs : fget s.wgs r.wg with
  | none => exact ⟨hnet, hmsgs⟩
  | some y =>
    simp only [Option.isSome_some, Bool.not_true, Bool.false_eq_true, if_false, reduceCtorEq, herrors, List.map_cons, List.map_nil, hmsgs]
    obtain ⟨src, flits, hsend⟩ := sendMsg_src t r
      (answerMsg r (if r.pend.isSome then .value else .ack) a
        (if r.cmd.isSome then (match r.lanes with | o :: _ => o.swap | [] => 0) else 0) 0 0)
    exact ⟨hnet, _, src, flits, congrArg (fun m => s.msgs ++ [m]) hsend⟩

/-- The first of a request's errors goes back to its lane. -/
theorem sendBack_error {l cause addr : Nat} {es : List (Nat × Nat × Nat)} {a : Answer} (hmsgs : t.msgs = s.msgs)
    (hwg : fget t.wgs r.wg ≠ none) (hcmd : r.cmd = none) (herrors : a.errors = (l, cause, addr) :: es) :
    ∃ m ms, (sendBack t r a).msgs = s.msgs ++ m :: ms ∧ m.kind = .error ∧ m.cause = cause ∧ m.addr = addr ∧ m.lane = l ∧
      (r.pend = none → es = [] → ms = []) := by
  obtain ⟨y, hy⟩ := Option.ne_none_iff_exists'.mp hwg
  unfold sendBack heardBy
  simp only [hy, Option.isSome_some, Bool.not_true, Bool.false_eq_true, if_false, herrors, hcmd, Option.isSome_none, hmsgs]
  by_cases htrap : failureTraps r = true
  · obtain ⟨hkind, hcause, haddr, hlane⟩ := sendMsg_same t r (answerMsg r .error {} l cause addr)
    rw [if_pos htrap]
    exact ⟨_, [], rfl, hkind, hcause, haddr, hlane, fun _ _ => rfl⟩
  · obtain ⟨hkind, hcause, haddr, hlane⟩ := sendMsg_same t r { answerMsg r .error {} l cause addr with pend := none }
    rw [if_neg htrap]
    refine ⟨_, _, rfl, hkind, hcause, haddr, hlane, fun hpend hes => ?_⟩
    simp [hpend, hes]

end

theorem Noted.isSome {s t : State} (h : Noted s t) (g : Nat) : (fget t.wgs g).isSome = (fget s.wgs g).isSome := by
  obtain ⟨_, ck, rfl⟩ := h
  exact (congrArg Option.isSome (fget_map_keys (m := s.wgs) (f := fun p => (p.1, { p.2 with ck := ck p })) (fun _ => rfl) g)).trans
    (Option.isSome_map ..)

theorem overlay_idle {s : State} {g a : Nat} {tgt : Target} {bs : List Byte}
    (h : ∀ x, fget s.wgs g = some x → x.left = [] ∧ x.laneQ = [] ∧ x.copyQ = []) : overlay s g tgt a bs = bs := by
  unfold overlay
  cases hg : fget s.wgs g with
  | none => rfl
  | some x =>
    obtain ⟨hleft, hlane, hcopy⟩ := h x hg
    simp [hleft, hlane, hcopy]

/-! ### One lane at a slice -/

section
variable {s : State} {r : Req} {o : LaneOp} {c off : Nat}

theorem sliceWaits_single (hlanes : r.lanes = [o])
    (h : ∀ g y, allocAt s c r.launch o.at_ r.size = some (g, y) → unverifiedAt y o.at_ r.size = false) :
    sliceWaits s r c = false := by
  unfold sliceWaits
  rw [hlanes]
  cases ha : allocAt s c r.launch o.at_ r.size with
  | none => simp [ha]
  | some p => simp [ha, h p.1 p.2 ha]

/-- What a request of one lane does where it is served. -/
theorem exec_remote (harr : arrived s r.id = some r) (htarget : r.target = .slice c off) (hlanes : r.lanes = [o])
    (hkind : ∀ ch, r.kind ≠ .message ch) (hwaits : sliceWaits s r c = false) :
    let g := serveGo (sliceLane r c) false [o] (takeNet s r.id) {}
    exec (.remoteWindowAccess r.id) s =
      .next (match g.2.2 with | .poison b => badReplay g.1 r.launch (dieOf r.core) b | _ => sendBack g.1 r g.2.1) := by
  change execRemoteWindowAccess r.id s = _
  unfold execRemoteWindowAccess
  rw [harr]
  dsimp only
  rw [htarget]
  split
  case h_1 ch hk => exact absurd hk (hkind ch)
  case h_2 heq _ =>
    obtain ⟨rfl, rfl⟩ := Target.slice.inj heq
    rw [hwaits, hlanes]
    rfl
  case h_3 hk => exact (hk c off rfl).elim

/-- Under policy zero no lane of a request traps on a stale granule. -/
theorem sliceLane_held {g : Nat} {y : Wg} (htrap : (fget s.launches r.launch).map (fun l => l.rec_.genTrap) = some false)
    (halloc : allocAt s c r.launch o.at_ r.size = some (g, y)) (hpoison : slicePoison (s.core c) y.gen o.at_ r.size = false) :
    sliceLane r c s o =
      if r.kind = .load then
        (s, .done (some (natOfBytes (overlay s r.wg (.slice c 0) o.at_ (sliceBytes (s.core c) y.gen o.at_ r.size)))) none)
      else plainLane s r (.slice c o.at_ y.gen) o := by
  obtain ⟨l, hl, htrap⟩ := Option.map_eq_some_iff.mp htrap
  unfold sliceLane
  simp [hl, htrap, halloc, hpoison]

/-- A full write of a place in a slice. -/
theorem placeWrite_slice {gen n v at_ : Nat} :
    placeWrite s (.slice c at_ gen) n v (2 ^ (8 * n) - 1) = ownWrite s c at_ gen (bytesOfNat n (v % 2 ^ (8 * n))) := by
  simp [placeWrite, Nat.and_two_pow_sub_one_eq_mod]

theorem plainLane_store {p : Place} (hkind : r.kind = .store) :
    plainLane s r p o = (placeWrite s p r.size o.data o.keep, .done none none) := by
  unfold plainLane
  rw [hkind]

/-- An atomic at a slice without uncorrectable data. -/
theorem plainLane_atomic {gen at_ : Nat} (hkind : r.kind = .cas ∨ ∃ op rnd ret, r.kind = .atom op rnd ret)
    (hpoison : slicePoison (s.core c) gen at_ r.size = false) :
    plainLane s r (.slice c at_ gen) o =
      (placeWrite s (.slice c at_ gen) r.size (unitNew r.kind r.size (sliceNat (s.core c) gen at_ r.size) o) (2 ^ (8 * r.size) - 1),
        .done (some (sliceNat (s.core c) gen at_ r.size)) none) := by
  unfold plainLane
  rcases hkind with hkind | ⟨op, rnd, ret, hkind⟩
  all_goals
    rw [hkind]
    simp only [hpoison, Bool.false_eq_true, if_false]
    rfl

/-- What a request at a slice leaves as it was. -/
def Ran (s t : State) (c id : Nat) : Prop :=
  exec (.remoteWindowAccess id) s = .next t ∧ t.mem = s.mem ∧ (∀ d, d ≠ c → fget t.cores d = fget s.cores d) ∧
    t.launches = s.launches ∧ t.devs = s.devs ∧ t.dies = s.dies

/-- The bytes of a slice after a write of n of them. -/
def WroteSlice (s t : State) (c gen at_ n v : Nat) : Prop :=
  sliceNat (t.core c) gen at_ n = v ∧
    (∀ b, b < at_ ∨ at_ + n ≤ b → sliceByte (t.core c) gen b = sliceByte (s.core c) gen b) ∧
    t.core c = { s.core c with data := (t.core c).data, tags := (t.core c).tags, badGrans := (t.core c).badGrans }

/-- A write of the slice that is answered. -/
theorem wrote_answered {gen n v : Nat} {a : Answer} (hwf : memWf (s.core c).data = true) (herrors : a.errors = [])
    (hexec : exec (.remoteWindowAccess r.id) s =
      .next (sendBack (ownWrite (takeNet s r.id) c o.at_ gen (bytesOfNat n (v % 2 ^ (8 * n)))) r a)) :
    ∃ t, Ran s t c r.id ∧ WroteSlice s t c gen o.at_ n (v % 2 ^ (8 * n)) ∧ Claims.answered s t r a.values a.preds := by
  have hnoted := noted_ownWrite (takeNet s r.id) c o.at_ gen (bytesOfNat n (v % 2 ^ (8 * n)))
  obtain ⟨⟨d, tg, bg, honly⟩, -, -, hout⟩ :=
    sliceWrite_slice (gen := gen) (off := o.at_) (bs := bytesOfNat n (v % 2 ^ (8 * n))) hwf
  have hback := sendBack_answered (s := s) (t := ownWrite (takeNet s r.id) c o.at_ gen (bytesOfNat n (v % 2 ^ (8 * n)))) (r := r)
    rfl rfl (hnoted.isSome r.wg) herrors
  obtain ⟨ms, hms⟩ := sendBack_adds (ownWrite (takeNet s r.id) c o.at_ gen (bytesOfNat n (v % 2 ^ (8 * n)))) r a
  have hcore : (sendBack (ownWrite (takeNet s r.id) c o.at_ gen (bytesOfNat n (v % 2 ^ (8 * n)))) r a).core c =
      sliceWrite (s.core c) gen o.at_ (bytesOfNat n (v % 2 ^ (8 * n))) := by
    rw [hms]
    exact ownWrite_core ..
  refine ⟨_, ⟨hexec, ?_⟩, ⟨?_, ?_, ?_⟩, hback⟩
  · rw [hms]
    exact ⟨rfl, fun d hd => fget_fput_other _ _ hd, rfl, rfl, rfl⟩
  · rw [hcore, sliceNat_sliceWrite hwf, show 256 ^ n = 2 ^ (8 * n) from (Nat.pow_mul 2 8 n).symm, Nat.mod_mod]
  · rw [hcore]
    exact fun b hb => hout b (by rwa [length_bytesOfNat])
  · rw [hcore, honly]

theorem ne_message_of_access (hkind : r.kind = .store ∨ r.kind = .load ∨ r.kind = .cas ∨ ∃ op rnd ret, r.kind = .atom op rnd ret) :
    ∀ ch, r.kind ≠ .message ch := by
  intro ch h
  rcases hkind with hk | hk | hk | ⟨_, _, _, hk⟩ <;> rw [hk] at h <;> cases h

/-- Accesses inside an allocation. -/
theorem remote_access {g : Nat} {y : Wg} (harr : arrived s r.id = some r) (htarget : r.target = .slice c off)
    (hlanes : r.lanes = [o]) (htrap : (fget s.launches r.launch).map (fun l => l.rec_.genTrap) = some false)
    (halloc : allocAt s c r.launch o.at_ r.size = some (g, y)) (hverified : unverifiedAt y o.at_ r.size = false)
    (hwf : memWf (s.core c).data = true) (hpoison : slicePoison (s.core c) y.gen o.at_ r.size = false) :
    (r.kind = .store → o.keep = 2 ^ (8 * r.size) - 1 →
      ∃ t, Ran s t c r.id ∧ WroteSlice s t c y.gen o.at_ r.size (o.data % 2 ^ (8 * r.size)) ∧ Claims.answered s t r [] []) ∧
    ((r.kind = .cas ∨ ∃ op rnd ret, r.kind = .atom op rnd ret) →
      ∃ t, Ran s t c r.id ∧
        WroteSlice s t c y.gen o.at_ r.size
          (unitNew r.kind r.size (sliceNat (s.core c) y.gen o.at_ r.size) o % 2 ^ (8 * r.size)) ∧
        Claims.answered s t r [(o.lane, sliceNat (s.core c) y.gen o.at_ r.size)] []) ∧
    (r.kind = .load → (∀ x, fget s.wgs r.wg = some x → x.left = [] ∧ x.laneQ = [] ∧ x.copyQ = []) →
      ∃ t, Ran s t c r.id ∧ t.cores = s.cores ∧
        Claims.answered s t r [(o.lane, sliceNat (s.core c) y.gen o.at_ r.size)] []) := by
  have hwaits := sliceWaits_single (s := s) (c := c) hlanes fun _ _ h => by
    obtain ⟨rfl, rfl⟩ := Prod.mk.inj (Option.some.inj (halloc.symm.trans h))
    exact hverified
  have hlane := sliceLane_held (s := takeNet s r.id) htrap halloc hpoison
  refine ⟨fun hkind hkeep => ?_, fun hkind => ?_, fun hkind hidle => ?_⟩
  · have hexec := exec_remote harr htarget hlanes (ne_message_of_access (.inl hkind)) hwaits
    rw [if_neg (by rw [hkind]; nofun), plainLane_store hkind, hkeep, placeWrite_slice] at hlane
    simp only [serveGo, hlane] at hexec
    exact wrote_answered hwf rfl hexec
  · have hexec := exec_remote harr htarget hlanes (ne_message_of_access (.inr (.inr hkind))) hwaits
    rw [if_neg (by rcases hkind with hk | ⟨_, _, _, hk⟩ <;> rw [hk] <;> nofun), plainLane_atomic (s := takeNet s r.id) hkind hpoison,
      placeWrite_slice] at hlane
    simp only [serveGo, hlane] at hexec
    exact wrote_answered hwf rfl hexec
  · have hexec := exec_remote harr htarget hlanes (ne_message_of_access (.inr (.inl hkind))) hwaits
    rw [if_pos hkind, overlay_idle (s := takeNet s r.id) hidle] at hlane
    simp only [serveGo, hlane] at hexec
    have hback := sendBack_answered (s := s) (t := takeNet s r.id) (r := r)
      (a := { values := [(o.lane, sliceNat (s.core c) y.gen o.at_ r.size)] }) rfl rfl rfl rfl
    obtain ⟨ms, hms⟩ := sendBack_adds (takeNet s r.id) r { values := [(o.lane, sliceNat (s.core c) y.gen o.at_ r.size)] }
    refine ⟨sendBack (takeNet s r.id) r { values := [(o.lane, sliceNat (s.core c) y.gen o.at_ r.size)] }, ⟨hexec, ?_⟩, ?_, hback⟩
    · rw [hms]
      exact ⟨rfl, fun _ _ => rfl, rfl, rfl, rfl⟩
    · rw [hms]
      rfl

/-- A range that no allocation of the launch holds is an error. -/
theorem remote_bounds (harr : arrived s r.id = some r) (htarget : r.target = .slice c off) (hlanes : r.lanes = [o])
    (halloc : allocAt s c r.launch o.at_ r.size = none) (hkind : r.kind = .store ∨ r.kind = .load) (hcmd : r.cmd = none)
    (hwg : fget s.wgs r.wg ≠ none) :
    ∃ t m ms, exec (.remoteWindowAccess r.id) s = .next t ∧ t.msgs = s.msgs ++ m :: ms ∧ m.kind = .error ∧ m.cause = 17 ∧
      m.addr = o.va ∧ m.lane = o.lane ∧ t.mem = s.mem ∧ t.cores = s.cores := by
  have hwaits := sliceWaits_single (s := s) (c := c) hlanes fun _ _ h => by
    rw [halloc] at h
    cases h
  have hexec := exec_remote harr htarget hlanes (ne_message_of_access (hkind.imp_right .inl)) hwaits
  have hlane : sliceLane r c (takeNet s r.id) o = (takeNet s r.id, .error cBOUNDS o.va) := by
    unfold sliceLane
    rw [show allocAt (takeNet s r.id) c r.launch o.at_ r.size = none from halloc]
  simp only [serveGo, hlane] at hexec
  obtain ⟨m, ms, hmsgs, hm⟩ := sendBack_error (s := s) (t := takeNet s r.id) (r := r) (l := o.lane) (cause := cBOUNDS)
    (addr := o.va) (es := []) (a := { errors := [(o.lane, cBOUNDS, o.va)] }) rfl hwg hcmd rfl
  obtain ⟨hkind, hcause, haddr, hlane, -⟩ := hm
  obtain ⟨ms', hms'⟩ := sendBack_adds (takeNet s r.id) r { errors := [(o.lane, cBOUNDS, o.va)] }
  refine ⟨_, m, ms, hexec, hmsgs, hkind, hcause, haddr, hlane, ?_⟩
  exact (congrArg (fun u : State => u.mem = s.mem ∧ u.cores = s.cores) hms').mpr ⟨rfl, rfl⟩

/-! ### One message at a ring (R276, R277) -/

theorem exec_delivery {chan : Nat} (harr : arrived s r.id = some r) (htarget : r.target = .slice c off) (hlanes : r.lanes = [o])
    (hkind : r.kind = .message chan) :
    exec (.channelDelivery r.id) s =
      .next (messageEnd s r (ringDeliver s c off o.data fun y => decide (y.launch = r.launch))) := by
  change execChannelDelivery r.id s = _
  unfold execChannelDelivery
  rw [harr]
  dsimp only
  rw [hkind, htarget, hlanes]

theorem wgWrite_some {g at_ : Nat} {y : Wg} {bs : List Byte} (hy : fget s.wgs g = some y) (hslot : holdsSlot y = true) :
    ∃ ck, wgWrite s g at_ bs =
      { s.updCore y.core (fun k => sliceWrite k y.gen (y.base + at_) bs) with wgs := fput s.wgs g { y with ck := ck } } := by
  have hnote (m p len : Nat) : ∃ ck, noteWrite y m p len = { y with ck := ck } := by
    unfold noteWrite
    split
    · exact ⟨y.ck, rfl⟩
    · exact ⟨_, rfl⟩
  unfold wgWrite
  rw [hy]
  simp only [hslot, Bool.not_true, Bool.false_eq_true, if_false, State.updWg]
  obtain ⟨ck, hck⟩ := hnote (modeOf (s.updCore y.core fun k => sliceWrite k y.gen (y.base + at_) bs) y) (y.base + at_) bs.length
  exact ⟨ck, congrArg (fun m => { s.updCore y.core (fun k => sliceWrite k y.gen (y.base + at_) bs) with wgs := m })
    ((fupd_some _ hy).trans (congrArg _ hck))⟩

/-- A message in a ring's next place. -/
theorem ringPut_puts {g n v : Nat} {y : Wg} {ch : Chan} (hy : fget s.wgs g = some y) (hslot : holdsSlot y = true) :
    ∃ y' cores wgs, ringPut s g n ch v = { s with cores := cores, wgs := wgs } ∧
      (ringPut s g n ch v).core y.core = sliceWrite (s.core y.core) y.gen
        (y.base + (ch.ring + 4 * (ch.delivered % (ch.size / 4)))) (bytesOfNat 4 v) ∧
      fget wgs g = some y' ∧ fget y'.chans n = some { ch with delivered := ch.delivered + 1 } ∧
      ∀ i, (fget wgs i).isSome = (fget s.wgs i).isSome := by
  obtain ⟨ck, hwrite⟩ := wgWrite_some (at_ := ch.ring + 4 * (ch.delivered % (ch.size / 4))) (bs := bytesOfNat 4 v) hy hslot
  unfold ringPut updChan State.updWg
  rw [hwrite]
  refine ⟨_, _, _, congrArg (fun m => { s.updCore y.core (fun k => sliceWrite k y.gen (y.base +
    (ch.ring + 4 * (ch.delivered % (ch.size / 4)))) (bytesOfNat 4 v)) with wgs := m }) (fupd_some _ (fget_fput_same ..)),
    updCore_core s y.core fun k => sliceWrite k y.gen (y.base + (ch.ring + 4 * (ch.delivered % (ch.size / 4)))) (bytesOfNat 4 v),
    fget_fput_same .., fget_fput_same .., fun i => ?_⟩
  by_cases hi : i = g
  · rw [hi, fget_fput_same, hy]
    rfl
  · rw [fget_fput_other _ _ hi, fget_fput_other _ _ hi]

/-- A message that finds room is delivered. -/
theorem delivery_put {chan g n : Nat} {y : Wg} {ch : Chan} (harr : arrived s r.id = some r) (htarget : r.target = .slice c off)
    (hlanes : r.lanes = [o]) (hkind : r.kind = .message chan)
    (hring : ringAt s c off (fun y => decide (y.launch = r.launch)) = some (g, y, n, ch)) (hy : fget s.wgs g = some y)
    (hcore : y.core = c) (hslot : holdsSlot y = true) (hroom : ¬ ch.size / 4 ≤ ringHeld (modeOf s y) ch)
    (hwf : memWf (s.core c).data = true) :
    ∃ t y', exec (.channelDelivery r.id) s = .next t ∧ Claims.answered s t r [] [] ∧ fget t.wgs g = some y' ∧
      fget y'.chans n = some { ch with delivered := ch.delivered + 1 } ∧ t.mem = s.mem ∧
      sliceNat (t.core c) y.gen (y.base + (ch.ring + 4 * (ch.delivered % (ch.size / 4)))) 4 = o.data % 2 ^ 32 := by
  subst hcore
  obtain ⟨y', cores, wgs, hput, hwrite, hg, hch, hsome⟩ := ringPut_puts (n := n) (v := o.data) (ch := ch) hy hslot
  have hexec := exec_delivery harr htarget hlanes hkind
  rw [ringDeliver, hring] at hexec
  dsimp only at hexec
  rw [if_neg hroom, messageEnd, hput] at hexec
  rw [hput] at hwrite
  obtain ⟨ms, hms⟩ := sendBack_adds (takeNet { s with cores := cores, wgs := wgs } r.id) r {}
  have hback := sendBack_answered (s := s) (t := takeNet { s with cores := cores, wgs := wgs } r.id) (r := r) (a := {})
    rfl rfl (hsome r.wg) rfl
  rw [hms] at hexec hback
  refine ⟨_, y', hexec, hback, hg, hch, rfl, ?_⟩
  exact (congrArg (fun k => sliceNat k y.gen (y.base + (ch.ring + 4 * (ch.delivered % (ch.size / 4)))) 4) hwrite).trans
    (sliceNat_sliceWrite hwf)

/-- A message for no ring is refused. -/
theorem delivery_refused {chan : Nat} (harr : arrived s r.id = some r) (htarget : r.target = .slice c off)
    (hlanes : r.lanes = [o]) (hkind : r.kind = .message chan)
    (hring : ringAt s c off (fun y => decide (y.launch = r.launch)) = none) (hcmd : r.cmd = none) (hpend : r.pend = none)
    (hwg : fget s.wgs r.wg ≠ none) :
    ∃ t m, exec (.channelDelivery r.id) s = .next t ∧ t.msgs = s.msgs ++ [m] ∧ m.kind = .error ∧ m.cause = 11 ∧ m.lane = o.lane ∧
      t.mem = s.mem ∧ t.cores = s.cores := by
  have hexec := exec_delivery harr htarget hlanes hkind
  rw [ringDeliver, hring] at hexec
  dsimp only at hexec
  rw [messageEnd, hlanes] at hexec
  obtain ⟨m, ms, hmsgs, hkind, hcause, -, hlane, hms⟩ := sendBack_error (s := s) (t := takeNet s r.id) (r := r) (l := o.lane)
    (cause := cCHANNEL) (addr := o.va) (es := []) (a := { errors := [(o.lane, cCHANNEL, o.va)] }) rfl hwg hcmd rfl
  rw [hms hpend rfl] at hmsgs
  obtain ⟨ms', hms'⟩ := sendBack_adds (takeNet s r.id) r { errors := [(o.lane, cCHANNEL, o.va)] }
  refine ⟨_, m, hexec, hmsgs, hkind, hcause, hlane, ?_⟩
  exact (congrArg (fun u : State => u.mem = s.mem ∧ u.cores = s.cores) hms').mpr ⟨rfl, rfl⟩

/-- Settles O44: an allocation is accessed under its generation, and a message goes to its ring's next place. -/
theorem sliceAccesses : Obligations.SliceAccesses := by
  intro s r o c off harr htarget hlanes
  refine ⟨fun g y htrap halloc hverified hwf _ hpoison => remote_access harr htarget hlanes htrap halloc hverified hwf hpoison,
    fun halloc hkind hcmd hwg => remote_bounds harr htarget hlanes halloc hkind hcmd hwg,
    fun chan g y n ch hkind hring hy hcore hslot _ _ => ⟨fun hfull => ?_, fun hroom hwf => ?_⟩,
    fun chan hkind hring hcmd hpend hwg => delivery_refused harr htarget hlanes hkind hring hcmd hpend hwg⟩
  · rw [exec_delivery harr htarget hlanes hkind, ringDeliver, hring]
    dsimp only
    rw [if_pos (show ch.size / 4 ≤ ringHeld (modeOf s y) ch from hfull)]
    rfl
  · exact delivery_put harr htarget hlanes hkind hring hy hcore hslot hroom hwf

end
end Sys2Proof.Proofs
end

section
/-! What a home slice performs (R61, R62, R67, R263, R268, R269, R273). -/

namespace Sys2Proof.Proofs

open Sys2Proof.Machine Sys2Proof.Safety

/-! ### Numbers in memory -/

section
variable {m : Mem} {a b n v : Nat}

theorem memNat_congr {m' : Mem} (h : ∀ i, i < n → memRead m' (a + i) = memRead m (a + i)) : memNat m' a n = memNat m a n :=
  congrArg natOfBytes (List.map_congr_left fun i hi => h i (List.mem_range.mp hi))

theorem memNat_lt : memNat m a n < 256 ^ n := by
  have h := natOfBytes_lt (memBytes m a n)
  rwa [memBytes, List.length_map, List.length_range] at h

theorem memNat_memWriteNat (h : memWf m = true) : memNat (memWriteNat m a n v) a n = v % 256 ^ n := by
  have hbytes : memBytes (memWriteNat m a n v) a n = bytesOfNat n v := by
    refine List.ext_getElem (by simp [memBytes]) fun i hi hi' => ?_
    simp only [memBytes, List.getElem_map, List.getElem_range, memWriteNat, memRead_memWriteBytes_inside _ hi' h]
    exact List.getD_eq_getElem _ _ hi'
  rw [memNat, hbytes, natOfBytes_bytesOfNat]

theorem outside_memWriteNat (h : memWf m = true) : Claims.outside m (memWriteNat m a n v) a n := fun c hc =>
  memRead_memWriteBytes_outside _ (by rwa [length_bytesOfNat]) h

/-- Two numbers written beside each other. -/
theorem memWriteNat_apart {k w : Nat} (h : memWf m = true) (hab : a + n ≤ b ∨ b + k ≤ a) :
    memNat (memWriteNat (memWriteNat m a n v) b k w) a n = v % 256 ^ n ∧
      memNat (memWriteNat (memWriteNat m a n v) b k w) b k = w % 256 ^ k ∧
      ∀ c, (c < a ∨ a + n ≤ c) → (c < b ∨ b + k ≤ c) → memRead (memWriteNat (memWriteNat m a n v) b k w) c = memRead m c := by
  have hfirst : memWf (memWriteNat m a n v) = true := memWf_memWriteNat a n v h
  refine ⟨?_, memNat_memWriteNat hfirst, fun c ha hb => ?_⟩
  · exact (memNat_congr fun i hi => outside_memWriteNat hfirst _ (by omega)).trans (memNat_memWriteNat h)
  · exact (outside_memWriteNat hfirst c hb).trans (outside_memWriteNat h c ha)

/-- A number's bytes are those of its low part. -/
theorem bytesOfNat_mod : bytesOfNat n (v % 256 ^ n) = bytesOfNat n v := by
  induction n generalizing v with
  | zero => rfl
  | succ n ih =>
    have hlow : BitVec.ofNat 8 (v % 256 ^ (n + 1)) = BitVec.ofNat 8 v := by
      apply BitVec.eq_of_toNat_eq
      rw [BitVec.toNat_ofNat, BitVec.toNat_ofNat]
      exact Nat.mod_mod_of_dvd _ (Dvd.intro_left _ (Nat.pow_succ ..).symm)
    rw [bytesOfNat, bytesOfNat, hlow, Nat.pow_succ, Nat.mul_comm, Nat.mod_mul_right_div_self, ih]

/-- A number merged with all its bits is written. -/
theorem memMerge_full : memMerge m a n v (2 ^ (8 * n) - 1) = memWriteNat m a n v := by
  simp only [memMerge, Nat.sub_self, Nat.and_zero, Nat.zero_or, Nat.and_two_pow_sub_one_eq_mod]
  rw [memWriteNat, Nat.pow_mul, bytesOfNat_mod]
  rfl

end

/-! ### Lanes at a home slice -/

/-- Nothing waits at the work queue of a request, if it names one. -/
def Quiet (s : State) (k : Nat) (r : Req) : Prop :=
  ∀ nb pa, r.kind = .wqpush nb ∨ r.kind = .wqpop nb → r.target = .mem pa → fget (s.dev k).wq (queueAt s k pa) = none

section
variable {s t : State} {r : Req} {o : LaneOp} {k home pa : Nat}

/-- Where nothing waits, nothing is served after an operation. -/
theorem afterQueue_quiet (h : Quiet t k r) : afterQueue t k home r = t := by
  have hnone (q : Nat) (hq : fget (t.dev k).wq q = none) : wqSettle t k home q (2 * wqLanes t k q) = t := by
    rw [wqLanes, wqWaiting, hq]
    rfl
  unfold afterQueue
  split
  · exact hnone _ (h _ _ (.inl ‹_›) ‹_›)
  · exact hnone _ (h _ _ (.inr ‹_›) ‹_›)
  · rfl

theorem queueLane_done {v : Option Nat} {p : Option Bool} (hquiet : Quiet t k r)
    (h : homeLane s k home r o = (t, .done v p)) : queueLane s k home r o = (t, .done v p) := by
  rw [queueLane, h]
  exact congrArg (·, Served.done v p) (afterQueue_quiet hquiet)

/-- A request of data at its home slice, all its lanes served. -/
theorem exec_home {m : Mem} {a : Answer} (harr : arrived s r.id = some r) (htarget : r.target = .mem pa)
    (hkind : ∀ n, r.kind ≠ .message n ∧ r.kind ≠ .sheadReset n) (hquiet : Quiet s (devOfCore s r.core) r)
    (hserve : serveGo (fun s' o => queueLane s' (devOfCore s r.core) (homeCore s (devOfCore s r.core) pa) r o)
      (decide (r.kind = .append)) r.lanes (takeNet s r.id) {} = ({ takeNet s r.id with mem := m }, a, .all)) :
    exec (.homeSliceServe r.id) s = .next (sendBack { takeNet s r.id with mem := m } r a) := by
  have hhome : serveHome s r pa = sendBack { takeNet s r.id with mem := m } r a := by
    unfold serveHome
    dsimp only
    split
    · exact absurd ‹_› (hkind _).2
    · rw [hserve]
      obtain ⟨ms, hms⟩ := sendBack_adds { takeNet s r.id with mem := m } r a
      exact afterQueue_quiet (by rw [hms]; exact hquiet)
  change execHomeSliceServe r.id s = _
  unfold execHomeSliceServe
  rw [harr]
  dsimp only
  rw [htarget]
  split
  case h_1 => exact absurd ‹_› (hkind _).1
  case h_2 heq _ =>
    obtain rfl := Target.mem.inj heq
    rw [hhome]
  case h_3 heq _ => cases heq
  case h_4 hmem _ => exact (hmem pa rfl).elim

/-- Its answer. -/
theorem home_answered {m : Mem} {a : Answer} (herrors : a.errors = [])
    (hexec : exec (.homeSliceServe r.id) s = .next (sendBack { takeNet s r.id with mem := m } r a)) :
    ∃ t, exec (.homeSliceServe r.id) s = .next t ∧ Claims.served s t ∧ Claims.answered s t r a.values a.preds ∧ t.mem = m := by
  obtain ⟨ms, hms⟩ := sendBack_adds { takeNet s r.id with mem := m } r a
  have hback := sendBack_answered (s := s) (t := { takeNet s r.id with mem := m }) (r := r) (a := a) rfl rfl rfl herrors
  rw [hms] at hback hexec
  exact ⟨_, hexec, rfl, hback, rfl⟩

/-- What a lane that is done answers. -/
def doneAnswer (o : LaneOp) (v : Option Nat) (p : Option Bool) : Answer :=
  { values := match v with | some x => [(o.lane, x)] | none => []
    preds := match p with | some b => [(o.lane, b)] | none => [] }

/-- A request of one lane at its home slice. -/
theorem home_lane {m : Mem} {v : Option Nat} {p : Option Bool} (harr : arrived s r.id = some r) (htarget : r.target = .mem pa)
    (hlanes : r.lanes = [o]) (hkind : ∀ n, r.kind ≠ .message n ∧ r.kind ≠ .sheadReset n)
    (hquiet : Quiet s (devOfCore s r.core) r)
    (hlane : homeLane (takeNet s r.id) (devOfCore s r.core) (homeCore s (devOfCore s r.core) pa) r o =
      ({ takeNet s r.id with mem := m }, .done v p)) :
    ∃ t, exec (.homeSliceServe r.id) s = .next t ∧ Claims.served s t ∧
      Claims.answered s t r (doneAnswer o v p).values (doneAnswer o v p).preds ∧ t.mem = m := by
  refine home_answered (a := doneAnswer o v p) rfl (exec_home harr htarget hkind hquiet ?_)
  rw [hlanes, serveGo, queueLane_done (t := { takeNet s r.id with mem := m }) hquiet hlane]
  rfl

/-- Memory and the values after lanes that each change it and answer one, in order. -/
def lanesServed (g : Mem → LaneOp → Mem) (v : Mem → LaneOp → Option Nat) (os : List LaneOp) (p : Mem × List (Nat × Nat)) :
    Mem × List (Nat × Nat) :=
  os.foldl (fun p o => (g p.1 o, p.2 ++ (doneAnswer o (v p.1 o) none).values)) p

theorem serveGo_lanes {f : State → LaneOp → State × Served} {g : Mem → LaneOp → Mem} {v : Mem → LaneOp → Option Nat} {u : State}
    (os : List LaneOp) (hf : ∀ m, ∀ o ∈ os, f { u with mem := m } o = ({ u with mem := g m o }, .done (v m o) none)) :
    ∀ (m : Mem) (a : Answer), serveGo f false os { u with mem := m } a =
      ({ u with mem := (lanesServed g v os (m, a.values)).1 }, { a with values := (lanesServed g v os (m, a.values)).2 }, .all) := by
  induction os with
  | nil => exact fun _ _ => rfl
  | cons o os ih =>
    intro m a
    rw [serveGo, hf m o (List.mem_cons_self ..)]
    dsimp only
    rw [ih fun m o ho => hf m o (List.mem_cons_of_mem _ ho)]
    simp only [List.append_nil]
    rfl

/-- Lanes that answer nothing. -/
theorem lanesServed_silent (g : Mem → LaneOp → Mem) (os : List LaneOp) :
    ∀ p, lanesServed g (fun _ _ => none) os p = (os.foldl g p.1, p.2) := by
  induction os with
  | nil => exact fun _ => rfl
  | cons o os ih => exact fun p => (ih _).trans (congrArg (os.foldl g (g p.1 o), ·) (List.append_nil _))

/-- Lanes that change nothing. -/
theorem lanesServed_reads (f : Mem → LaneOp → Nat) (os : List LaneOp) :
    ∀ p, lanesServed (fun m _ => m) (fun m o => some (f m o)) os p = (p.1, p.2 ++ os.map fun o => (o.lane, f p.1 o)) := by
  induction os with
  | nil => exact fun p => congrArg (p.1, ·) (List.append_nil _).symm
  | cons o os ih => exact fun p => (ih _).trans (congrArg (p.1, ·) (List.append_assoc ..))

theorem poisoned_clean {n : Nat} (h : s.poison = []) : poisoned s k pa n = false := by
  rw [poisoned, h]
  rfl

theorem physNat_at {n a : Nat} (h : apOf s k pa = some a) : physNat s k pa n = memNat s.mem a n := by
  rw [physNat, h]

theorem physWrite_at {n a v : Nat} (h : apOf s k pa = some a) : physWrite s k pa n v = { s with mem := memWriteNat s.mem a n v } := by
  rw [physWrite, h]

theorem physNat_lt {n : Nat} : physNat s k pa n < 256 ^ n := by
  unfold physNat
  split
  · exact memNat_lt
  · exact Nat.pow_pos (by decide)

/-- A read of memory over which nothing is held. -/
theorem readOver_idle {n : Nat} (h : ∀ x, fget s.wgs r.wg = some x → x.left = [] ∧ x.laneQ = [] ∧ x.copyQ = []) :
    readOver s r k pa n = physNat s k pa n := by
  rw [readOver, overlay_idle h, natOfBytes_bytesOfNat, Nat.mod_eq_of_lt physNat_lt]

/-! ### Stores, loads and atomics (R61, R62, R263) -/

theorem homeLane_store {a : Nat} (hkind : r.kind = .store) (ha : apOf s k o.at_ = some a) :
    homeLane s k home r o = ({ s with mem := memMerge s.mem a r.size o.data o.keep }, .done none none) := by
  rw [homeLane, hkind]
  dsimp only
  rw [plainLane_store hkind, placeWrite, ha]

theorem homeLane_load {a : Nat} (hkind : r.kind = .load) (ha : apOf s k o.at_ = some a) (hclean : s.poison = [])
    (hidle : ∀ x, fget s.wgs r.wg = some x → x.left = [] ∧ x.laneQ = [] ∧ x.copyQ = []) :
    homeLane s k home r o = (s, .done (some (memNat s.mem a r.size)) none) := by
  rw [homeLane, hkind]
  dsimp only
  rw [loadLane, poisoned_clean hclean, readOver_idle hidle, physNat_at ha]
  rfl

theorem homeLane_atomic {a : Nat} (hkind : r.kind = .cas ∨ ∃ op rnd ret, r.kind = .atom op rnd ret) (ha : apOf s k o.at_ = some a)
    (hclean : s.poison = []) :
    homeLane s k home r o =
      ({ s with mem := memWriteNat s.mem a r.size (unitNew r.kind r.size (memNat s.mem a r.size) o) },
        .done (some (memNat s.mem a r.size)) none) := by
  have hplain : homeLane s k home r o = plainLane s r (.mem k o.at_) o := by
    rcases hkind with hkind | ⟨op, rnd, ret, hkind⟩ <;> rw [homeLane, hkind]
  have hserved : plainLane s r (.mem k o.at_) o =
      (placeWrite s (.mem k o.at_) r.size (unitNew r.kind r.size (placeNat s r.size (.mem k o.at_)) o) (2 ^ (8 * r.size) - 1),
        .done (some (placeNat s r.size (.mem k o.at_))) none) := by
    unfold plainLane
    rcases hkind with hkind | ⟨op, rnd, ret, hkind⟩
    all_goals
      rw [hkind]
      simp only [poisoned_clean hclean, Bool.false_eq_true, if_false]
  rw [hplain, hserved, placeNat, physNat_at ha, placeWrite, ha]
  simp only [memMerge_full]

/-- A request of data is served lane after lane. -/
theorem home_lanes {g : Mem → LaneOp → Mem} {v : Mem → LaneOp → Option Nat} (harr : arrived s r.id = some r)
    (htarget : r.target = .mem pa)
    (hkind : r.kind = .store ∨ r.kind = .load ∨ r.kind = .cas ∨ ∃ op rnd ret, r.kind = .atom op rnd ret)
    (hlane : ∀ m, ∀ o ∈ r.lanes,
      homeLane { takeNet s r.id with mem := m } (devOfCore s r.core) (homeCore s (devOfCore s r.core) pa) r o =
        ({ takeNet s r.id with mem := g m o }, .done (v m o) none)) :
    ∃ t, exec (.homeSliceServe r.id) s = .next t ∧ Claims.served s t ∧
      Claims.answered s t r (lanesServed g v r.lanes (s.mem, [])).2 [] ∧ t.mem = (lanesServed g v r.lanes (s.mem, [])).1 := by
  have hplain : (∀ n, r.kind ≠ .message n ∧ r.kind ≠ .sheadReset n) ∧ r.kind ≠ .append ∧
      ∀ nb, ¬ (r.kind = .wqpush nb ∨ r.kind = .wqpop nb) := by
    rcases hkind with hk | hk | hk | ⟨_, _, _, hk⟩ <;> simp [hk]
  obtain ⟨hpath, happend, hqueue⟩ := hplain
  have hquiet (t : State) (k : Nat) : Quiet t k r := fun nb _ h => absurd h (hqueue nb)
  refine home_answered (a := { values := (lanesServed g v r.lanes (s.mem, [])).2 }) rfl
    (exec_home harr htarget hpath (hquiet _ _) ?_)
  rw [decide_eq_false happend]
  exact serveGo_lanes (u := takeNet s r.id) r.lanes (fun m o ho => queueLane_done (hquiet _ _) (hlane m o ho)) s.mem {}

theorem homeSliceAccesses : Parts.HomeSliceAccesses := by
  intro s r pa ap harr htarget hclean hap
  refine ⟨fun hkind => ?_, fun hkind hidle => ?_, fun hkind => ?_⟩
  · obtain ⟨t, hexec, hserved, hback, hmem⟩ := home_lanes harr htarget (.inl hkind)
      fun m o ho => homeLane_store (s := { takeNet s r.id with mem := m }) hkind (hap o ho)
    rw [lanesServed_silent fun m o => memMerge m (ap o) r.size o.data o.keep] at hback hmem
    exact ⟨t, hexec, hserved, hback, hmem⟩
  · obtain ⟨t, hexec, hserved, hback, hmem⟩ := home_lanes harr htarget (.inr (.inl hkind))
      fun m o ho => homeLane_load (s := { takeNet s r.id with mem := m }) hkind (hap o ho) hclean hidle
    rw [lanesServed_reads fun m o => memNat m (ap o) r.size] at hback hmem
    exact ⟨t, hexec, hserved, hmem, hback⟩
  · obtain ⟨t, hexec, hserved, hback, hmem⟩ := home_lanes harr htarget (.inr (.inr hkind))
      fun m o ho => homeLane_atomic (s := { takeNet s r.id with mem := m }) hkind (hap o ho) hclean
    exact ⟨t, hexec, hserved, hmem, hback⟩

end
end Sys2Proof.Proofs
end

section
/-! Append regions and work queues at a home slice (R67, R268, R269, R273). -/

namespace Sys2Proof.Proofs

open Sys2Proof.Machine Sys2Proof.Safety

section
variable {s : State} {r : Req} {o : LaneOp} {k home : Nat}

/-- A byte with a bit set. -/
theorem memRead_setBit {m : Mem} {b : Nat} (h : memWf m = true) :
    memRead (memWriteNat m b 1 (memNat m b 1 ||| 1)) b = memRead m b ||| 1 := by
  have hbyte : memNat m b 1 = (memRead m b).toNat := by simp [memNat, memBytes, natOfBytes]
  have hread := memRead_memWriteBytes_inside (m := m) (a := b) (i := 0) (bytesOfNat 1 (memNat m b 1 ||| 1)) (by simp) h
  rw [hbyte] at hread ⊢
  refine hread.trans ?_
  apply BitVec.eq_of_toNat_eq
  simp [bytesOfNat]

/-! ### Append regions -/

/-- An APPEND past its region's capacity sets the full flag. -/
theorem appendLane_full {b : Nat} (hclean : s.poison = []) (hb : apOf s k (o.at_ + 32) = some b)
    (hfull : appendField s k o.at_ 1 < alignUp (appendField s k o.at_ 3) r.size + r.size) :
    appendLane s k home r o =
      ({ s with mem := memWriteNat s.mem b 1 (memNat s.mem b 1 ||| 1) }, .done (some (2 ^ 64 - 1)) none) := by
  unfold appendLane
  simp only [poisoned_clean hclean, Bool.false_eq_true, if_false, physNat_at hb, physWrite_at hb]
  exact if_pos hfull

/-- An APPEND that fits writes its row and moves SHEAD past it. -/
theorem appendLane_fits {a b row : Nat} (hclean : s.poison = [])
    (hfits : alignUp (appendField s k o.at_ 3) r.size + r.size ≤ appendField s k o.at_ 1)
    (hrow : awayXlate s k (dieOf home) (some home) (launchNo s r.launch) r.space
      ((appendField s k o.at_ 0 + alignUp (appendField s k o.at_ 3) r.size) % 2 ^ 64) true 4 = (s, .ok row))
    (ha : apOf s k row = some a) (hb : apOf s k (o.at_ + 24) = some b) :
    appendLane s k home r o =
      ({ s with mem := memWriteNat (memWriteNat s.mem a r.size o.data) b 8 (alignUp (appendField s k o.at_ 3) r.size + r.size) },
        .done (some (alignUp (appendField s k o.at_ 3) r.size)) none) := by
  unfold appendLane
  simp only [poisoned_clean hclean, Bool.false_eq_true, if_false]
  rw [if_neg (Nat.not_lt.mpr hfits)]
  simp only [hrow]
  rw [physWrite_at ha, physWrite_at (s := { s with mem := memWriteNat s.mem a r.size o.data }) hb]

theorem acommitLane_raises {b : Nat} (hclean : s.poison = []) (hdata : o.data ≤ appendField s k o.at_ 3)
    (hb : apOf s k (o.at_ + 16) = some b) :
    acommitLane s k o =
      ({ s with mem := memWriteNat s.mem b 8 (max (appendField s k o.at_ 2) o.data) }, .done none none) := by
  unfold acommitLane
  simp only [poisoned_clean hclean, Bool.false_eq_true, if_false]
  rw [if_neg (Nat.not_lt.mpr hdata), physWrite_at hb]

/-! ### Work queues -/

section
variable {nb : Bool}

/-- A push with room writes its item and TAIL + 1. -/
theorem pushLane_room {a b row : Nat} (hclean : s.poison = []) (hok : wqOkDesc (wqDesc s k (queueAt s k o.at_)) = true)
    (hroom : wqCount (wqDesc s k (queueAt s k o.at_)) < 2 ^ (wqDesc s k (queueAt s k o.at_)).log2n)
    (hrow : itemXlate s k home r (wqDesc s k (queueAt s k o.at_)) (wqDesc s k (queueAt s k o.at_)).tail true = (s, .ok row))
    (ha : apOf s k row = some a) (hb : apOf s k ((wqDesc s k (queueAt s k o.at_)).at_ + 24) = some b) :
    pushLane s k home r nb o =
      ({ s with mem := memWriteNat (memWriteNat s.mem a 16 o.data) b 8 (((wqDesc s k (queueAt s k o.at_)).tail + 1) % 2 ^ 64) },
        .done none (if nb then some true else none)) := by
  unfold pushLane
  simp only [poisoned_clean hclean, Bool.false_eq_true, if_false, hok, Bool.not_true]
  rw [if_pos hroom]
  simp only [hrow]
  rw [physWrite_at ha, physWrite_at (s := { s with mem := memWriteNat s.mem a 16 o.data }) hb]

/-- A pop of an item answers it and writes HEAD + 1. -/
theorem popLane_item {b row : Nat} (hclean : s.poison = []) (hok : wqOkDesc (wqDesc s k (queueAt s k o.at_)) = true)
    (hitem : wqCount (wqDesc s k (queueAt s k o.at_)) ≠ 0)
    (hrow : itemXlate s k home r (wqDesc s k (queueAt s k o.at_)) (wqDesc s k (queueAt s k o.at_)).head false = (s, .ok row))
    (hb : apOf s k ((wqDesc s k (queueAt s k o.at_)).at_ + 16) = some b) :
    popLane s k home r nb o =
      ({ s with mem := memWriteNat s.mem b 8 (((wqDesc s k (queueAt s k o.at_)).head + 1) % 2 ^ 64) },
        .done (some (physNat s k row 16)) (if nb then some true else none)) := by
  unfold popLane
  simp only [poisoned_clean hclean, Bool.false_eq_true, if_false, hok, Bool.not_true]
  rw [if_pos hitem]
  simp only [hrow, poisoned_clean hclean, Bool.false_eq_true, if_false]
  rw [physWrite_at hb]

theorem pushLane_full (hclean : s.poison = []) (hok : wqOkDesc (wqDesc s k (queueAt s k o.at_)) = true)
    (hfull : 2 ^ (wqDesc s k (queueAt s k o.at_)).log2n ≤ wqCount (wqDesc s k (queueAt s k o.at_))) :
    pushLane s k home r true o = (s, .done none (some false)) := by
  unfold pushLane
  simp only [poisoned_clean hclean, Bool.false_eq_true, if_false, hok, Bool.not_true]
  rw [if_neg (Nat.not_lt.mpr hfull)]
  rfl

theorem popLane_empty (hclean : s.poison = []) (hok : wqOkDesc (wqDesc s k (queueAt s k o.at_)) = true)
    (hempty : wqCount (wqDesc s k (queueAt s k o.at_)) = 0) : popLane s k home r true o = (s, .done none (some false)) := by
  unfold popLane
  simp only [poisoned_clean hclean, Bool.false_eq_true, if_false, hok, Bool.not_true]
  rw [if_neg (not_not.mpr hempty)]
  rfl

end

theorem doneAnswer_pred (nb : Bool) (v : Option Nat) :
    (doneAnswer o v (if nb then some true else none)).preds = if nb then [(o.lane, true)] else [] := by
  cases nb <;> rfl

/-- A request of one lane on an append region. -/
theorem home_region {m : Mem} {v : Option Nat} (harr : arrived s r.id = some r) (htarget : r.target = .mem o.at_)
    (hlanes : r.lanes = [o]) (hkind : r.kind = .append ∨ r.kind = .acommit ∨ r.kind = .ahead)
    (hlane : homeLane (takeNet s r.id) (devOfCore s r.core) (homeCore s (devOfCore s r.core) o.at_) r o =
      ({ takeNet s r.id with mem := m }, .done v none)) :
    ∃ t, exec (.homeSliceServe r.id) s = .next t ∧ Claims.served s t ∧
      Claims.answered s t r (doneAnswer o v none).values [] ∧ t.mem = m := by
  refine home_lane harr htarget hlanes ?_ (fun nb pa h => ?_) hlane
  · rcases hkind with hk | hk | hk <;> simp [hk]
  · rcases hkind with hk | hk | hk <;> simp [hk] at h

/-- A request of one lane on a work queue at which nothing waits. -/
theorem home_queue {m : Mem} {v : Option Nat} {p : Option Bool} {nb : Bool} (harr : arrived s r.id = some r)
    (htarget : r.target = .mem o.at_) (hlanes : r.lanes = [o]) (hkind : r.kind = .wqpush nb ∨ r.kind = .wqpop nb)
    (hfree : fget (s.dev (devOfCore s r.core)).wq (queueAt s (devOfCore s r.core) o.at_) = none)
    (hlane : homeLane (takeNet s r.id) (devOfCore s r.core) (homeCore s (devOfCore s r.core) o.at_) r o =
      ({ takeNet s r.id with mem := m }, .done v p)) :
    ∃ t, exec (.homeSliceServe r.id) s = .next t ∧ Claims.served s t ∧
      Claims.answered s t r (doneAnswer o v p).values (doneAnswer o v p).preds ∧ t.mem = m := by
  refine home_lane harr htarget hlanes ?_ (fun _ pa _ h => ?_) hlane
  · rcases hkind with hk | hk <;> simp [hk]
  · obtain rfl := Target.mem.inj (htarget.symm.trans h)
    exact hfree

theorem homeSliceQueues : Parts.HomeSliceQueues := by
  intro s r o harr htarget hlanes hclean hwf k home field launch run
  refine ⟨fun hkind _ => ⟨fun hfull b hb => ?_, fun hfits a b row hrow ha hb hab => ?_⟩, fun hkind hidle => ?_,
    fun hkind hdata b hb => ?_, fun hok hfree => ⟨fun nb row a b hkind hroom hrow ha hb hab => ?_,
      fun nb row b hkind hitem hrow hb => ?_, fun hkind => ?_⟩⟩
  · obtain ⟨t, hexec, hserved, hback, hmem⟩ := home_region harr htarget hlanes (.inl hkind) (by
      rw [homeLane, hkind]
      exact appendLane_full (s := takeNet s r.id) hclean hb hfull)
    refine ⟨t, hexec, hserved, hback, ?_⟩
    rw [hmem]
    exact ⟨memRead_setBit hwf, outside_memWriteNat hwf⟩
  · obtain ⟨t, hexec, hserved, hback, hmem⟩ := home_region harr htarget hlanes (.inl hkind) (by
      rw [homeLane, hkind]
      exact appendLane_fits (s := takeNet s r.id) hclean hfits hrow ha hb)
    refine ⟨t, hexec, hserved, hback, ?_⟩
    rw [hmem, Nat.pow_mul]
    exact memWriteNat_apart hwf hab
  · obtain ⟨t, hexec, hserved, hback, hmem⟩ := home_region harr htarget hlanes (.inr (.inr hkind)) (by
      rw [homeLane, hkind]
      dsimp only
      rw [poisoned_clean (s := takeNet s r.id) hclean, readOver_idle (s := takeNet s r.id) hidle]
      rfl)
    exact ⟨t, hexec, hserved, hmem, hback⟩
  · obtain ⟨t, hexec, hserved, hback, hmem⟩ := home_region harr htarget hlanes (.inr (.inl hkind)) (by
      rw [homeLane, hkind]
      exact acommitLane_raises (s := takeNet s r.id) hclean hdata hb)
    refine ⟨t, hexec, hserved, hback, ?_⟩
    rw [hmem]
    exact ⟨memNat_memWriteNat hwf, outside_memWriteNat hwf⟩
  · obtain ⟨t, hexec, hserved, hback, hmem⟩ := home_queue harr htarget hlanes (.inl hkind) hfree (by
      rw [homeLane, hkind]
      exact pushLane_room (s := takeNet s r.id) hclean hok hroom hrow ha hb)
    rw [doneAnswer_pred] at hback
    refine ⟨t, hexec, hserved, hback, ?_⟩
    obtain ⟨hitem, htail, hrest⟩ := memWriteNat_apart (n := 16) (k := 8) (v := o.data) hwf hab
    rw [hmem]
    exact ⟨hitem, htail.trans (Nat.mod_mod ..), hrest⟩
  · obtain ⟨t, hexec, hserved, hback, hmem⟩ := home_queue harr htarget hlanes (.inr hkind) hfree (by
      rw [homeLane, hkind]
      exact popLane_item (s := takeNet s r.id) hclean hok hitem hrow hb)
    rw [doneAnswer_pred] at hback
    refine ⟨t, hexec, hserved, hback, ?_⟩
    rw [hmem]
    exact ⟨(memNat_memWriteNat hwf).trans (Nat.mod_mod ..), outside_memWriteNat hwf⟩
  · rcases hkind with ⟨hkind, hfull⟩ | ⟨hkind, hempty⟩
    · obtain ⟨t, hexec, hserved, hback, hmem⟩ := home_queue harr htarget hlanes (.inl hkind) hfree (by
        rw [homeLane, hkind]
        exact pushLane_full (s := takeNet s r.id) hclean hok hfull)
      exact ⟨t, hexec, hserved, hmem, hback⟩
    · obtain ⟨t, hexec, hserved, hback, hmem⟩ := home_queue harr htarget hlanes (.inr hkind) hfree (by
        rw [homeLane, hkind]
        exact popLane_empty (s := takeNet s r.id) hclean hok hempty)
      exact ⟨t, hexec, hserved, hmem, hback⟩

/-- Settles O43: the lanes of a request are served in order, each by what its kind does to the bytes of its place. -/
theorem homeSlices : Obligations.HomeSlices := ⟨homeSliceAccesses, homeSliceQueues⟩

end
end Sys2Proof.Proofs
end

section
/-! APPEND, ACOMMIT, AHEAD, WQPUSH and WQPOP (R62, R67, R268, R269, R272, R273): their requests, and the trap of a queue number. -/

namespace Sys2Proof.Proofs

open Sys2Proof.Machine Sys2Proof.Safety

section
variable {s : State} {x : Ctx}

/-! ### Requests accepted for groups of lanes -/

/-- What a statement about a lane queue says of a request. -/
def shape (r : Req) : ReqKind × Target × Nat × Bool × List (Nat × Nat × Nat × Nat) :=
  (r.kind, r.target, r.size, r.release, r.lanes.map fun o => (o.lane, o.va, o.data, o.swap))

/-- The requests of an instruction's lanes, one for each target, at the end of the lane queue. -/
theorem accepted_groups {q : State → Target × List LaneOp → Req} {tgt : Nat → Target} {op : Nat → LaneOp} {kind : ReqKind}
    {size : Nat} {release : Bool} {data : Nat → Nat × Nat × Nat} {id : Nat} (hg : fget s.wgs x.g = some x.wg)
    (hq : ∀ t a, (q t a).wg = x.g ∧ (q t a).path = .lane ∧ (q t a).external = false)
    (hshape : ∀ t a, shape (q t a) = (kind, a.1, size, release, a.2.map fun o => (o.lane, o.va, o.data, o.swap)))
    (hop : ∀ l, ((op l).lane, (op l).va, (op l).data, (op l).swap) = (l, data l)) :
    ∃ n wgs y rs,
      (groupOps ((lanesOf x.act).map fun l => (tgt l, op l))).foldl (fun t a => accept t (q t a) false)
        { s with nextId := id } = { s with nextId := n, wgs := wgs } ∧
      fget wgs x.g = some y ∧ y.laneQ = x.wg.laneQ ++ rs ∧
      rs.map shape = (Claims.combined x tgt).map (fun p => (kind, p.1, size, release, p.2.map fun l => (l, data l))) ∧
      Made q rs (groupOps ((lanesOf x.act).map fun l => (tgt l, op l))) := by
  obtain ⟨n, wgs, y, rs, hfold, hy, hqueue, hmade⟩ :=
    accepts_lane hq (groupOps ((lanesOf x.act).map fun l => (tgt l, op l))) (s := { s with nextId := id }) hg
  refine ⟨n, wgs, y, rs, hfold, hy, hqueue, ?_, hmade⟩
  rw [hmade.map hshape, groupOps_lanes, List.map_map]
  exact List.map_congr_left fun p _ => congrArg (fun os => (kind, p.1, size, release, os))
    (List.map_map.trans (List.map_congr_left fun l _ => hop l))

/-- The access that an instruction leaves outstanding, or none. -/
def Awaits (s : State) (x : Ctx) (dest : Option Dest) (pend : List Pending) (rs : List Req) : Prop :=
  match dest with
  | none => pend = x.w.pend
  | some d => ∃ q, pend = x.w.pend ++ [q] ∧ q.id = s.nextId ∧ q.dest = d ∧ q.want = x.act ∧ q.act = x.act ∧
      ∀ r ∈ rs, r.pend = some s.nextId

/-- An instruction that goes on with requests accepted has put them into its lane queue. -/
theorem queues_goOn {i : Instr} {dest : Option Dest} {kind : ReqKind} {size n : Nat} {release : Bool}
    {groups : List (Target × List Nat)} {data : Nat → Nat × Nat × Nat} {pend : List Pending} {wgs : FMap Wg} {y : Wg} {rs : List Req}
    (hexec : exec i s = .next (goOn { s with nextId := n, wgs := wgs } x x.k { x.w with pend := pend }))
    (hy : fget wgs x.g = some y) (hqueue : y.laneQ = x.wg.laneQ ++ rs)
    (hrs : rs.map shape = groups.map (fun p => (kind, p.1, size, release, p.2.map fun l => (l, data l))))
    (hdest : Awaits s x dest pend rs) : Claims.Queues i s x dest kind size release groups data := by
  obtain ⟨t, hnext, ⟨fr, hd, ov, -, -, -, rfl⟩, hat⟩ := completesOn_goOn hexec
  refine ⟨_, y, _, rs, hnext, hy, hqueue, hrs, warp?_setCore.trans (fget_fput_same ..), ?_, rfl, rfl, rfl, rfl, ?_, ?_, rfl, rfl, hat⟩
  · cases dest <;> exact hdest
  · rw [setCore_core]
  · rw [setCore_core]

end
end Sys2Proof.Proofs
end

section
/-! Append regions: APPEND, ACOMMIT and AHEAD (R67, R268, R269). -/

namespace Sys2Proof.Proofs

open Sys2Proof.Machine Sys2Proof.Safety

section
variable {s : State} {x : Ctx}

/-- Descriptors the core's TLB holds pass their checks. -/
theorem descTrap_none {e : Nat → Nat} {write : Bool} {pa : Nat → Nat} (h : Claims.Paged s x e 64 write pa) : descTrap x e = none :=
  Option.or_eq_none_iff.mpr ⟨firstBad_none fun l hl => decide_eq_false (not_not.mpr (h l hl).1),
    firstBad_none fun l hl => decide_eq_false (not_not.mpr (locate_paged.mp (h l hl).2.1))⟩

/-- Lanes' operations at descriptors, their translations known on the active lanes. -/
theorem map_lanes_congr {α : Type} {f : Nat → Nat → α} {pa pa' : Nat → Nat} (h : ∀ l, hasLane x.act l = true → pa' l = pa l) :
    ((lanesOf x.act).map fun l => f l (pa' l)) = (lanesOf x.act).map fun l => f l (pa l) :=
  List.map_congr_left fun l hl => by rw [h l (mem_lanesOf.mp hl)]

/-- An APPEND outside a round in plain mode accepts its requests and waits for their offsets. -/
theorem appendGo_plain {e data pa pa' : Nat → Nat} {n : Nat} {d : Option Nat} (hk : x.k = s.core x.core)
    (hg : fget s.wgs x.g = some x.wg) (ha : x.act ≠ 0) (hmode : x.l.rec_.mode = 0) (hround : x.w.round.st = .idle)
    (hpa : ∀ l, hasLane x.act l = true → pa' l = pa l) :
    ∃ i wgs y rs pend, appendGo e data n d s x pa' = goOn { s with nextId := i, wgs := wgs } x x.k { x.w with pend := pend } ∧
      fget wgs x.g = some y ∧ y.laneQ = x.wg.laneQ ++ rs ∧
      rs.map shape = (Claims.combined x fun l => .mem (pa l)).map
        (fun p => (.append, p.1, n, false, p.2.map fun l => (l, e l, data l % 2 ^ (8 * n), 0))) ∧
      Awaits s x (some (.group d 8 false)) pend rs := by
  have hpath : throughAppQ x = false := by simp [throughAppQ, hmode]
  obtain ⟨i, wgs, y, rs, hfold, hy, hqueue, hshape, hmade⟩ := accepted_groups (id := s.nextId + 1) (tgt := fun l => .mem (pa l))
    (op := fun l => { lane := l, at_ := pa l, data := data l % 2 ^ (8 * n), swap := 0, va := e l, keep := 0 })
    (q := fun t g => asExternal x true (mkReq t x .lane .append g.1 n g.2 (some s.nextId) none false []))
    (kind := .append) (size := n) (release := false) (data := fun l => (e l, data l % 2 ^ (8 * n), 0)) hg
    (fun _ _ => ⟨rfl, rfl, by simp [asExternal, hmode]⟩) (fun _ _ => rfl) (fun _ => rfl)
  refine ⟨i, wgs, y, rs, x.w.pend ++ [mkPend s x (.group d 8 false) none x.act [] false false
    ((lanesOf x.act).flatMap fun l => [(e l, 16), (e l + 24, 9)])], ?_, hy, hqueue, hshape, _, rfl, rfl, rfl, rfl, rfl,
    hmade.all fun _ _ => rfl⟩
  have hidle : ¬ x.w.round.st = .running := hround ▸ nofun
  unfold appendGo
  simp only [hpath, hidle, ne_eq, not_false_eq_true, true_or, decide_true, Bool.false_eq_true, if_false, if_neg ha]
  rw [map_lanes_congr (f := fun l a => ((.mem a : Target),
    ({ lane := l, at_ := a, data := data l % 2 ^ (8 * n), swap := 0, va := e l, keep := 0 } : LaneOp))) hpa]
  refine (congrArg (fun t : State => finishReturning t x _) hfold).trans ?_
  rw [finishReturning_waits ha, hk]
  rfl

/-- An ACOMMIT outside a round accepts its requests. -/
theorem acommitGo_idle {e v pa pa' : Nat → Nat} {scope : Nat} (hk : x.k = s.core x.core) (hg : fget s.wgs x.g = some x.wg)
    (hspec : speculative x.w = false) (hround : x.w.round.st = .idle) (hpa : ∀ l, hasLane x.act l = true → pa' l = pa l) :
    ∃ i wgs y rs, acommitGo e v scope s x pa' = goOn { s with nextId := i, wgs := wgs } x x.k x.w ∧
      fget wgs x.g = some y ∧ y.laneQ = x.wg.laneQ ++ rs ∧
      rs.map shape = (Claims.combined x fun l => .mem (pa l)).map
        (fun p => (.acommit, p.1, 8, decide (2 < scope), p.2.map fun l => (l, e l, v l, 0))) := by
  obtain ⟨i, wgs, y, rs, hfold, hy, hqueue, hshape, -⟩ := accepted_groups (id := s.nextId) (tgt := fun l => .mem (pa l))
    (op := fun l => { lane := l, at_ := pa l, data := v l, swap := 0, va := e l, keep := 0 })
    (q := fun t g => mkReq t x .lane .acommit g.1 8 g.2 none none (decide (2 < scope)) (if 2 < scope then readsOf x else []))
    (kind := .acommit) (size := 8) (release := decide (2 < scope)) (data := fun l => (e l, v l, 0)) hg
    (fun _ _ => ⟨rfl, rfl, rfl⟩) (fun _ _ => rfl) (fun _ => rfl)
  refine ⟨i, wgs, y, rs, ?_, hy, hqueue, hshape⟩
  have hidle : ¬ x.w.round.st = .running := hround ▸ nofun
  unfold acommitGo
  simp only [hspec, hidle, if_false]
  rw [map_lanes_congr (f := fun l a => ((.mem a : Target),
    ({ lane := l, at_ := a, data := v l, swap := 0, va := e l, keep := 0 } : LaneOp))) hpa]
  rw [hk]
  exact congrArg (fun t : State => goOn t x (t.core x.core) x.w) hfold

/-- An AHEAD in plain mode sends its requests and waits for what they read. -/
theorem aheadGo_plain {e pa pa' : Nat → Nat} {d : Option Nat} {ext : Bool} (hk : x.k = s.core x.core) (ha : x.act ≠ 0)
    (hpa : ∀ l, hasLane x.act l = true → pa' l = pa l) :
    ∃ i rs q, aheadGo e d ext s x pa' =
        goOn { s with nextId := i, net := s.net ++ rs } x x.k { x.w with pend := x.w.pend ++ [q] } ∧
      (q.id = s.nextId ∧ q.dest = .group d 8 false ∧ q.want = x.act ∧ q.acquire = true) ∧
      ∀ l, hasLane x.act l = true → ∃ r ∈ rs, r.kind = .ahead ∧ r.target = .mem (pa l) ∧ r.pend = some s.nextId ∧
        ∃ o ∈ r.lanes, o.lane = l := by
  obtain ⟨i, rs, hfold, hmade⟩ := sends_travel
    (q := fun t g => asExternal x ext (mkReq t x .lane .ahead g.1 8 g.2 (some s.nextId) none false []))
    (groupOps ((lanesOf x.act).map fun l => ((.mem (pa l) : Target),
      ({ lane := l, at_ := pa l, data := 0, swap := 0, va := e l, keep := 0 } : LaneOp)))) { s with nextId := s.nextId + 1 }
  refine ⟨i, rs, mkPend s x (.group d 8 false) none x.act [] true false ((lanesOf x.act).map fun l => (e l + 16, 8)), ?_,
    ⟨rfl, rfl, rfl, rfl⟩, fun l hl => ?_⟩
  · unfold aheadGo
    simp only [if_neg ha]
    rw [map_lanes_congr (f := fun l a => ((.mem a : Target),
      ({ lane := l, at_ := a, data := 0, swap := 0, va := e l, keep := 0 } : LaneOp))) hpa]
    refine (congrArg (fun t : State => finishReturning t x _) hfold).trans ?_
    rw [finishReturning_waits ha, hk]
    rfl
  · obtain ⟨g, hg, htarget, hop⟩ := mem_groupOps (List.mem_map_of_mem (f := fun l => ((.mem (pa l) : Target),
      ({ lane := l, at_ := pa l, data := 0, swap := 0, va := e l, keep := 0 } : LaneOp))) (mem_lanesOf.mpr hl))
    obtain ⟨r, hr, t, sent, inMesh, rfl⟩ := hmade g hg
    exact ⟨_, hr, rfl, htarget, rfl, _, hop, rfl⟩

theorem appendRegions : Parts.AppendRegions := by
  intro f m s x pa hc ha hmode hround hspec e n pair groups
  refine ⟨fun hi hdesc hacquire hmeets hroom hcount => ?_, fun hi hdesc hrow hwait hroom => ?_, fun hi hdesc hwait => ?_⟩
  all_goals obtain ⟨-, hk, -, -, -, -, -, -, hg, -⟩ := ctxOf_fields hi.2
  · obtain ⟨pa', hpa, hlanes⟩ := withXlate_paged (acc := 4)
      (body := appendGo e (groupLane s x f.b.toNat n) n (destReg f.d)) hk hdesc
    obtain ⟨i, wgs, y, rs, pend, hgo, hy, hqueue, hshape, hpend⟩ := appendGo_plain (e := e) (data := groupLane s x f.b.toNat n)
      (n := n) (d := destReg f.d) hk hg ha hmode hround hpa
    have hsize : sizeBytes m.size.toNat = n := sizeBytes_eq (by
      have := fieldsOk_of_clear hi hc
      simp [fieldsOk] at this
      omega)
    have hexec : exec (.append f m) s =
        .next (withXlate s x e 64 true 4 (appendGo e (groupLane s x f.b.toNat n) n (destReg f.d))) := by
      change execAppend f m s = _
      unfold execAppend
      simp only [laneAddr_eq, hsize]
      have happend : appendWait x e = none := if_pos (hround ▸ nofun)
      have hfifth : fifthDesc x e = false := by simp [fifthDesc, throughAppQ, hmode]
      refine (issue_passed hi hc rfl (by nofun) (descTrap_none hdesc) (fun _ => hspec) ?_).trans (congrArg _ ?_)
      · dsimp only
        rw [hacquire, hmeets, happend, hmode, laneCount, hroom, hcount]
        rfl
      · dsimp only
        rw [hfifth]
        exact externally_go (.inr hmode)
    exact queues_goOn (hexec.trans (congrArg _ (hlanes.trans hgo))) hy hqueue hshape hpend
  · obtain ⟨pa', hpa, hlanes⟩ := withXlate_paged (acc := 4)
      (body := acommitGo e (fun l => (pairLane s x f.b.toNat l).toNat) m.scope.toNat) hk hdesc
    obtain ⟨i, wgs, y, rs, hgo, hy, hqueue, hshape⟩ := acommitGo_idle (e := e)
      (v := fun l => (pairLane s x f.b.toNat l).toNat) (scope := m.scope.toNat) hk hg hspec hround hpa
    have hexec : exec (.acommit f m) s =
        .next (withXlate s x e 64 true 4 (acommitGo e (fun l => (pairLane s x f.b.toNat l).toNat) m.scope.toNat)) := by
      change execAcommit f m s = _
      unfold execAcommit
      simp only [laneAddr_eq]
      exact issue_passed hi hc rfl (fun _ => hrow) (descTrap_none hdesc) (by nofun) (Option.or_eq_none_iff.mpr ⟨hwait, hroom⟩)
    exact queues_goOn (pend := x.w.pend) (hexec.trans (congrArg _ (hlanes.trans hgo))) hy hqueue hshape rfl
  · obtain ⟨pa', hpa, hlanes⟩ := withXlate_paged (acc := 1)
      (body := aheadGo e (destReg f.d) (decide (x.l.rec_.mode = 2 ∧ x.act ≠ 0) && !speculative x.w)) hk hdesc
    obtain ⟨i, rs, q, hgo, ⟨hid, hdest, hwant, hacquire⟩, hreq⟩ := aheadGo_plain (e := e) (d := destReg f.d)
      (ext := decide (x.l.rec_.mode = 2 ∧ x.act ≠ 0) && !speculative x.w) hk ha hpa
    have hexec : exec (.ahead f m) s = .next (withXlate s x e 64 false 1
        (aheadGo e (destReg f.d) (decide (x.l.rec_.mode = 2 ∧ x.act ≠ 0) && !speculative x.w))) := by
      change execAhead f m s = _
      unfold execAhead
      simp only [laneAddr_eq]
      exact (issue_passed hi hc rfl (by nofun) (descTrap_none hdesc) (by nofun) hwait).trans
        (congrArg _ (externally_go (.inr hmode)))
    obtain ⟨t, hnext, ⟨fr, hd, ov, -, -, -, rfl⟩, hat⟩ := completesOn_goOn (hexec.trans (congrArg _ (hlanes.trans hgo)))
    refine ⟨_, _, q, hnext, warp?_setCore.trans (fget_fput_same ..), rfl, hid, hdest, hwant, hacquire, rfl, rfl, ?_, rfl, rfl,
      fun l hl => ?_, hat⟩
    · rw [setCore_core]
    · obtain ⟨r, hr, h⟩ := hreq l hl
      exact ⟨r, List.mem_append_right _ hr, h⟩

end
end Sys2Proof.Proofs
end

section
/-! The trap of an issuing instruction (R244, R245), and the work queues' requests (R272, R273). -/

namespace Sys2Proof.Proofs

open Sys2Proof.Machine Sys2Proof.Safety

section
variable {s : State} {x : Ctx} {i : Instr}

/-! ### A trap at the issuing instruction -/

/-- The frontier's lanes stand held, or parked past the seventh entry, while a handler runs. -/
theorem holdFrontier_holds {w : Warp} {y : Entry} {l : Nat} (hy : y ∈ w.frontier) (hl : hasLane y.mask l = true) :
    (∃ h ∈ (holdFrontier w).held, hasLane h.mask l = true ∧ h.pc = y.pc) ∨
      ∃ p ∈ (holdFrontier w).parks, hasLane p.mask l = true ∧ p.pc = y.pc ∧ p.reason = .overflow := by
  obtain ⟨z, hz, hpc, hlane⟩ := merged_keeps (w.held ++ w.frontier) l y (List.mem_append_right _ hy) hl
  have hz := (mem_sortBy prioLt z _).mpr hz
  rw [← List.take_append_drop 7 (sortBy prioLt _), List.mem_append] at hz
  rcases hz with hz | hz
  · exact .inl ⟨z, (mem_sortBy entryLt z _).mpr hz, hlane, hpc⟩
  · obtain ⟨j, hj⟩ := mem_zipIdx_of_mem hz
    exact .inr ⟨_, List.mem_append_right _ (List.mem_map.mpr ⟨(z, j), hj, rfl⟩), hlane, hpc, rfl⟩

/-- An entry's lanes that do not trap stand where they stood. -/
theorem withdraw_keeps {k : Core} {ei : Nat} {w : Warp} {m : Word} {y : Entry} {l : Nat} (hy : y ∈ w.frontier)
    (hl : hasLane y.mask l = true) (hm : hasLane m l = false) :
    ∃ z ∈ (withdraw (countIssue k ei w) m).frontier, hasLane z.mask l = true ∧ z.pc = y.pc := by
  obtain ⟨j, hj⟩ := mem_zipIdx_of_mem hy
  have haged : ∃ z ∈ ageOthers w.frontier ei, z.mask = y.mask ∧ z.pc = y.pc := by
    refine ⟨_, List.mem_map.mpr ⟨(y, j), hj, rfl⟩, ?_⟩
    dsimp only
    split
    · exact ⟨rfl, rfl⟩
    · split <;> exact ⟨rfl, rfl⟩
  obtain ⟨z, hz, hmask, hpc⟩ := haged
  have hlane : hasLane (z.mask &&& ~~~m) l = true := by rw [hasLane_without, hmask, hl, hm]; rfl
  exact ⟨_, List.mem_filter.mpr ⟨List.mem_map.mpr ⟨z, hz, rfl⟩, decide_eq_true (ne_zero_of_hasLane hlane)⟩, hlane, hpc⟩

theorem clearDerr_getD (w : Warp) (m : Word) (l : Nat) :
    (clearDerr w m).derr.getD l none = if hasLane m l then none else w.derr.getD l none := by
  simp only [clearDerr, List.getD_eq_getElem?_getD, List.getElem?_map, List.getElem?_zipIdx]
  cases w.derr[l]? with
  | none => simp
  | some d => simp

theorem selected_eq (hi : Issues i s x) :
    selected s x.core x.slot x.ei =
      s.setCore x.core { countCore x.k x.slot with warps := fput x.k.warps x.slot (countIssue x.k x.ei x.w) } := by
  obtain ⟨-, hk, -, -, -, hw, -⟩ := ctxOf_fields hi.2
  rw [selected, hw, hk]

/-- A warp with a handler that is not in it takes the trap (R244). -/
theorem trapHere_enters (hi : Issues i s x) (htvec : x.w.tvec ≠ 0) (hhandler : x.w.handler = 0) (t : TrapInfo) :
    Claims.Enters s (trapHere s x t) x t.cause t.info (BitVec.ofNat 64 t.addr) x.e.pc (Claims.headerOf x) := by
  have hno : ¬ ((countIssue x.k x.ei x.w).tvec = 0 ∨ (countIssue x.k x.ei x.w).handler ≠ 0) :=
    fun h => h.elim htvec fun h => h hhandler
  unfold trapHere trapTo enterTrap
  rw [selected_eq hi, warp?_setCore]
  simp only [fget_fput_same, if_neg hno]
  obtain ⟨fr, hs, hfr⟩ := settle_setWarp _ x.core x.slot _
  rw [hs, setCore_updCore_setWarp]
  refine ⟨_, warp?_setCore.trans (fget_fput_same ..), rfl, rfl, rfl, rfl, rfl, rfl, rfl, rfl, fun l hl => ?_, fun y hy l hl hm => ?_,
    fun l _ => clearDerr_getD (withdraw (countIssue x.k x.ei x.w) x.e.mask) x.act l, rfl, rfl, rfl,
    x.k.regacq.map fun p => (p.1, p.2.filter fun r => decide (r.1 ≠ x.slot)), ?_⟩
  · exact ⟨_, warp?_setCore.trans (fget_fput_same ..), .inl (hfr l _ (List.mem_singleton_self _) hl)⟩
  · obtain ⟨z, hz, hlane, hpc⟩ := withdraw_keeps (k := x.k) (ei := x.ei) hy hl hm
    rw [← hpc]
    exact holdFrontier_holds (w := clearDerr (withdraw (countIssue x.k x.ei x.w) x.e.mask) x.act) hz hlane
  · simp only [fput_fput]
    rfl

/-- An instruction's own check traps a warp that speculates on nothing (row 7 of Table 9.7). -/
theorem gate_traps {p : Plan} {t : TrapInfo} (hc : Clear x) (hspec : speculative x.w = false) (hpriv : p.priv = none)
    (hsurface : p.surface = true → row6 x = none) (hown : p.own = some t) : gate s x p = trapHere s x t := by
  obtain ⟨hrow, hwaits, hrows⟩ := hc
  have htrap : trapCond x p = some t := by
    cases hs : p.surface with
    | false => simp [trapCond, hpriv, hrows, hs, hown]
    | true => simp [trapCond, hpriv, hrows, hs, hown, hsurface hs]
  simp only [gate, hrow, hwaits, htrap, hspec]
  rfl

theorem issue_traps {plan : Ctx → Plan} {t : TrapInfo} (hi : Issues i s x) (hc : Clear x) (hspec : speculative x.w = false)
    (hpriv : (plan x).priv = none) (hsurface : (plan x).surface = true → row6 x = none) (hown : (plan x).own = some t) :
    issue i s plan = .next (trapHere s x t) :=
  (issue_warp hi).trans (congrArg _ (gate_traps hc hspec hpriv hsurface hown))

/-! ### Work queues (R272, R273) -/

theorem queueWait_none {bytes : Nat} {rel : Option Nat} (hacquire : acquirePending x = false) (hroom : roomWait s x bytes = none)
    (hreads : ∀ sc, rel = some sc → sc ≤ 2 → readsOf x = []) : queueWait s x bytes rel = none := by
  unfold queueWait
  rw [hacquire, hroom]
  cases rel with
  | none => rfl
  | some sc => simp [show ¬ (sc ≤ 2 ∧ readsOf x ≠ []) from fun h => h.2 (hreads sc rfl h.1)]

theorem nbPred_isSome (m : XM) : (nbPred m).isSome = m.off.getLsbD 0 := by
  unfold nbPred
  split <;> simp_all

/-- The address of the descriptor a lane names. -/
def queueDesc (s : State) (x : Ctx) (a l : Nat) : Nat := (s.dev (devOfCore s x.core)).wqtbase + 64 * (srcLane s x a l).toNat

/-- A work-queue operation in plain mode accepts its requests; one that returns leaves its access outstanding. -/
theorem queueGo_plain {kind : ReqKind} {a : Nat} {data : Nat → Nat} {dest : Option Nat} {m : XM} {returns acquire strong : Bool}
    (hk : x.k = s.core x.core) (hg : fget s.wgs x.g = some x.wg) (ha : x.act ≠ 0) (hspec : speculative x.w = false)
    (hmode : x.l.rec_.mode = 0) :
    ∃ i wgs y rs pend, queueGo s x kind (queueOps s x a data) dest m returns acquire strong =
        goOn { s with nextId := i, wgs := wgs } x x.k { x.w with pend := pend } ∧
      fget wgs x.g = some y ∧ y.laneQ = x.wg.laneQ ++ rs ∧
      rs.map shape = (Claims.combined x fun l => .mem (queueDesc s x a l)).map
        (fun p => (kind, p.1, 16, strong, p.2.map fun l => (l, queueDesc s x a l, data l, 0))) ∧
      Awaits s x (if returns then some (.group dest 16 false) else none) pend rs := by
  obtain ⟨i, wgs, y, rs, hfold, hy, hqueue, hshape, hmade⟩ := accepted_groups (id := s.nextId + 1)
    (tgt := fun l => .mem (queueDesc s x a l))
    (op := fun l => { lane := l, at_ := queueDesc s x a l, data := data l, swap := 0, va := queueDesc s x a l, keep := 0 })
    (q := fun t g => asExternal x true { mkReq t x .lane kind g.1 16 g.2 (if returns then some s.nextId else none) (nbPred m) strong
      (if strong then readsOf x else []) with phase := 2 })
    (kind := kind) (size := 16) (release := strong) (data := fun l => (queueDesc s x a l, data l, 0)) hg
    (fun _ _ => ⟨rfl, rfl, by simp [asExternal, hmode]⟩) (fun _ _ => rfl) (fun _ => rfl)
  cases returns with
  | false =>
    refine ⟨i, wgs, y, rs, x.w.pend, ?_, hy, hqueue, hshape, rfl⟩
    unfold queueGo
    simp only [hspec, Bool.not_false, Bool.false_and, Bool.false_eq_true, if_false]
    rw [hk]
    exact congrArg (fun t : State => goOn t x (t.core x.core) x.w) hfold
  | true =>
    refine ⟨i, wgs, y, rs, x.w.pend ++ [mkPend s x (.group dest 16 false) (nbPred m) x.act [] acquire
      (acquire && (nbPred m).isNone) []], ?_, hy, hqueue, hshape, _, rfl, rfl, rfl, rfl, rfl, hmade.all fun _ _ => rfl⟩
    unfold queueGo
    simp only [hspec, Bool.not_false, Bool.true_and, ne_eq, ha, not_false_eq_true, decide_true, if_true]
    refine (congrArg (fun t : State => finishReturning t x _) hfold).trans ?_
    rw [finishReturning_waits ha, hk]
    rfl

theorem workQueues : Parts.WorkQueues := by
  intro f m s x hc hspec hmode ha q desc nb groups
  refine ⟨fun hq hacquire hroom => ?_, fun hbad htvec hhandler => ?_⟩
  · have hown : queueTrap s x f.a.toNat = none :=
      if_neg (by simpa using fun l hl => hq l (mem_lanesOf.mp hl))
    refine ⟨fun hi hrow hreads => ?_, fun hi => ?_⟩
    all_goals obtain ⟨-, hk, -, -, -, -, -, -, hg, -⟩ := ctxOf_fields hi.2
    · have hwait : queueWait s x (16 * laneCount x.act) (some m.scope.toNat) = none :=
        queueWait_none hacquire hroom fun sc h => Option.some.inj h ▸ hreads
      have hexec : exec (.wqpush f m) s = .next (queueGo s x (.wqpush nb)
          (queueOps s x f.a.toNat (groupLane s x f.b.toNat 16)) none m nb false (decide (2 < m.scope.toNat))) := by
        change execWqpush f m s = _
        unfold execWqpush
        simp only [nbPred_isSome]
        exact (issue_passed hi hc rfl (fun _ => hrow) hown (by nofun) hwait).trans (congrArg _ (externally_go (.inr hmode)))
      obtain ⟨i, wgs, y, rs, pend, hgo, hy, hqueue, hshape, hpend⟩ := queueGo_plain (kind := .wqpush nb) (a := f.a.toNat)
        (data := groupLane s x f.b.toNat 16) (dest := none) (m := m) (returns := nb) (acquire := false)
        (strong := decide (2 < m.scope.toNat)) hk hg ha hspec hmode
      exact queues_goOn (hexec.trans (congrArg _ hgo)) hy hqueue hshape hpend
    · have hwait : queueWait s x (16 * laneCount x.act) none = none := queueWait_none hacquire hroom nofun
      have hexec : exec (.wqpop f m) s = .next (queueGo s x (.wqpop nb)
          (queueOps s x f.a.toNat fun _ => 0) (destReg f.d) m true true false) := by
        change execWqpop f m s = _
        unfold execWqpop
        simp only [nbPred_isSome]
        exact (issue_passed hi hc rfl (by nofun) hown (fun _ => hspec) hwait).trans (congrArg _ (externally_go (.inr hmode)))
      obtain ⟨i, wgs, y, rs, pend, hgo, hy, hqueue, hshape, hpend⟩ := queueGo_plain (kind := .wqpop nb) (a := f.a.toNat)
        (data := fun _ => 0) (dest := destReg f.d) (m := m) (returns := true) (acquire := true) (strong := false)
        hk hg ha hspec hmode
      exact queues_goOn (hexec.trans (congrArg _ hgo)) hy hqueue hshape hpend
  · have hown : queueTrap s x f.a.toNat = some (trapOf cQUEUE) := by
      obtain ⟨l, hl, hlarge⟩ := hbad
      exact if_pos (List.any_eq_true.mpr ⟨l, mem_lanesOf.mpr hl, decide_eq_true hlarge⟩)
    intro i hi hissue hrow
    have hexec : exec i s = .next (trapHere s x (trapOf cQUEUE)) := by
      simp only [List.mem_cons, List.not_mem_nil, or_false] at hi
      rcases hi with rfl | rfl
      · exact issue_traps hissue hc hspec rfl (fun _ => hrow) hown
      · exact issue_traps hissue hc hspec rfl (fun _ => hrow) hown
    exact ⟨_, hexec, trapHere_enters hissue htvec hhandler (trapOf cQUEUE)⟩

/-- Settles O27: the lanes that name one descriptor or queue make one request, in the lane queue or on its way. -/
theorem appendsAndWorkQueues : Obligations.AppendsAndWorkQueues := ⟨appendRegions, workQueues⟩

end
end Sys2Proof.Proofs
end

section
/-! Copy commands as they are issued (R278 to R282), and the swizzle of a box's rows (R71). -/

namespace Sys2Proof.Proofs

open Sys2Proof.Machine Sys2Proof.Safety

section
variable {s : State} {x : Ctx}

/-! ### Issue of a copy command (R278 to R282) -/

theorem copyArgs_eq (op lead : Nat) (f : F3) (m : XM) : copyArgs s x op lead f m = Claims.operands s x op f m lead := by
  simp [copyArgs, Claims.operands]

theorem exec_copy {f : F3} {m : XM} {p : Instr × Nat × Bool} (hp : p ∈ Claims.copies f m) :
    exec p.1 s = copyOp p.1 p.2.1 f m p.2.2 s := by
  simp only [Claims.copies, List.mem_cons, List.not_mem_nil, or_false] at hp
  rcases hp with rfl | rfl | rfl | rfl | rfl | rfl | rfl <;> rfl

/-- CPHAND in a launch that may not hand over fails its first check (R281). -/
theorem copyTrap_hand {a : CopyArgs} (hop : a.op = 7) (hhand : x.l.rec_.hand = false) : copyTrap x a = some (trapOf cPRIVILEGE) :=
  if_pos ⟨hop, by rw [hhand]; rfl⟩

/-- The command an issue gives the engine. -/
def issued (s : State) (x : Ctx) (t : Nat) (a : CopyArgs) : CopyCmd :=
  { id := s.nextId, slot := x.slot, wg := x.g, tok := t, seq := (Claims.token x.w t).seq, args := a, rec_ := none, pos := 0
    pages := [], wait := .no, status := none, resume := 0, rowBad := none, werr := false, stale := false, staleAddr := 0
    writes := [], issued := x.k.cycle, phases := [], ahead := [], readAt := none, via := none }

theorem copyGo_issued {t : Nat} {a : CopyArgs} (hk : x.k = s.core x.core) :
    copyGo s x t a = copyRun (goOn { s with nextId := s.nextId + 1 } x { x.k with copies := x.k.copies ++ [issued s x t a] }
      { x.w with
        tokens := setAt x.w.tokens t
          { Claims.token x.w t with count := (Claims.token x.w t).count + 1, seq := ((Claims.token x.w t).seq + 1) % 256 } })
      x.core s.nextId := by
  unfold issued
  rw [hk]
  rfl

theorem copyCommands : Parts.CopyCommands := by
  intro f m p hp s x hi hc hspec
  obtain ⟨-, hk, -⟩ := ctxOf_fields hi.2
  have hgate : exec p.1 s = .next (gate s x (match lowLane x.act with
      | none => { live := true, next := goOn s x x.k x.w }
      | some lead =>
        { own := copyTrap x (copyArgs s x p.2.1 lead f m)
          live := true
          wait := if 63 ≤ (tokenOf x.w (copyTok m)).count then some .warp else none
          next := externally s x p.2.2 (copyGo s x (copyTok m) (copyArgs s x p.2.1 lead f m)) })) :=
    (exec_copy hp).trans (issue_warp hi)
  refine ⟨fun hact => ?_, fun lead hlead => ?_⟩
  · rw [show lowLane x.act = none by rw [hact]; rfl] at hgate
    exact completesOn_goOn (hgate.trans (congrArg _ (gate_next hc rfl nofun rfl (fun _ => hspec) rfl)))
  · rw [show lowLane x.act = some lead from hlead] at hgate
    dsimp only at hgate
    rw [copyArgs_eq] at hgate
    refine ⟨fun hown hcount hext => ?_, fun hop hhand htvec hhandler => ?_⟩
    · have hnext := hgate.trans (congrArg _ (gate_next hc rfl nofun hown (fun _ => hspec) (if_neg (Nat.not_le.mpr hcount))))
      rw [externally_go hext, copyGo_issued hk] at hnext
      exact ⟨_, issued s x (copyTok m) _, hnext, rfl, rfl, rfl, rfl, rfl, rfl, rfl, rfl, rfl, rfl, rfl, goOn_leaves ..⟩
    · have htrap := copyTrap_hand (x := x) (a := Claims.operands s x p.2.1 f m lead) hop hhand
      exact ⟨_, hgate.trans (congrArg _ (gate_traps hc hspec rfl nofun htrap)),
        trapHere_enters hi htvec hhandler (trapOf cPRIVILEGE)⟩

end

/-! ### The swizzle (R71) -/

theorem bits_dvd (l : Layout) : l.bits ∣ 128 := by
  have hfmt (f : Fmt) : f.bits ∣ 128 := by cases f <;> simp only [Fmt.bits] <;> decide
  have hity {n : Nat} {t : ITy} (h : ityOfCode n = some t) : t.bits ∣ 128 := by
    unfold ityOfCode at h
    split at h
    · obtain rfl := Option.some.inj h
      dsimp only
      split_ifs <;> decide
    · cases h
  unfold Layout.bits fmtBits
  split_ifs
  · decide
  · decide
  · split
    · exact hity ‹_›
    · exact hfmt _
    · decide

section
variable {w c d y n : Nat}

/-- A swizzled chunk stays in its row, whose chunks are a multiple of the swizzle's span. -/
theorem swizzle_lt (hw : w % 2 ^ n = 0) (hc : c < w) (hy : y < 2 ^ n) : c ^^^ y < w := by
  obtain ⟨q, rfl⟩ := Nat.dvd_of_mod_eq_zero hw
  have hhigh : (c ^^^ y) / 2 ^ n = c / 2 ^ n := by
    rw [Nat.xor_div_two_pow, Nat.div_eq_of_lt hy, Nat.xor_zero]
  rw [Nat.mul_comm, ← Nat.div_lt_iff_lt_mul (Nat.two_pow_pos n)] at hc ⊢
  rwa [hhigh]

/-- Two places of rows of equal length are one when the rows and the places in them are. -/
theorem row_inj {r r' : Nat} (hc : c < w) (hd : d < w) (h : r * w + c = r' * w + d) : r = r' ∧ c = d := by
  have hw : 0 < w := Nat.lt_of_le_of_lt (Nat.zero_le c) hc
  have hrow : r = r' := by
    have hdiv := congrArg (· / w) h
    simpa [Nat.add_div_of_dvd_right, Nat.mul_div_cancel _ hw, Nat.div_eq_of_lt hc, Nat.div_eq_of_lt hd] using hdiv
  subst hrow
  exact ⟨rfl, Nat.add_left_cancel h⟩

end

section
variable {j : Job} {a : CopyArgs} {k : Nat}

/-- Elements of a box row. -/
def rowLen (j : Job) : Nat := (j.lay.ext j.rows).getD 0 1

/-- Chunks of a box row. -/
def rowChunks (j : Job) : Nat := rowLen j * j.lay.bits / 128

/-- Chunk of its row at which an element's chunk stands. -/
def swizzled (j : Job) (a : CopyArgs) (k : Nat) : Nat :=
  if a.ops = true ∨ j.lay.swz = 0 then k % rowLen j * j.lay.bits / 128
  else k % rowLen j * j.lay.bits / 128 ^^^ (k / rowLen j % 2 ^ j.lay.swz)

/-- What the conditions on a record say of its rows. -/
theorem layoutOk_row (h : layoutOk j.lay a.origin j.rows = true) :
    rowLen j * j.lay.bits = 128 * rowChunks j ∧ (j.lay.swz = 0 ∨ rowChunks j % 2 ^ j.lay.swz = 0) := by
  simp only [layoutOk, Bool.and_eq_true, Bool.or_eq_true, decide_eq_true_eq] at h
  obtain ⟨⟨⟨⟨-, hrow⟩, -⟩, hswz⟩, -⟩ := h
  exact ⟨(Nat.mul_div_cancel' (Nat.dvd_of_mod_eq_zero hrow)).symm, hswz⟩

theorem dvd_foldl_mul (xs : List Nat) : ∀ m, m ∣ xs.foldl (· * ·) m := by
  induction xs with
  | nil => exact fun m => dvd_refl m
  | cons x xs ih => exact fun m => (dvd_mul_right m x).trans (ih (m * x))

/-- The box is rows of equal length. -/
theorem rowLen_dvd (j : Job) : rowLen j ∣ j.total :=
  (dvd_mul_left (rowLen j) 1).trans (dvd_foldl_mul (j.lay.ext j.rows).tail (1 * rowLen j))

/-- A chunk's place is its row's, and in it that of the swizzled chunk (R71). -/
theorem chunkPlace_eq (hrow : rowLen j * j.lay.bits = 128 * rowChunks j) :
    chunkPlace j a k = 16 * (k / rowLen j * rowChunks j + swizzled j a k) := by
  have hbytes : j.lay.rowBytes j.rows = 16 * rowChunks j := by
    have h : j.lay.rowBytes j.rows = 128 * rowChunks j / 8 := congrArg (· / 8) hrow
    omega
  unfold chunkPlace
  rw [hbytes, Nat.mul_add, Nat.mul_left_comm]
  rfl

theorem swizzled_lt (hk : k < j.total) (h : layoutOk j.lay a.origin j.rows = true) : swizzled j a k < rowChunks j := by
  obtain ⟨hrow, hswz⟩ := layoutOk_row h
  have hlen : 0 < rowLen j := Nat.pos_of_dvd_of_pos (rowLen_dvd j) (Nat.zero_lt_of_lt hk)
  have hbits : 0 < j.lay.bits := Nat.pos_of_dvd_of_pos (bits_dvd j.lay) (by decide)
  have hplain : k % rowLen j * j.lay.bits / 128 < rowChunks j := by
    rw [Nat.div_lt_iff_lt_mul (by decide), Nat.mul_comm (rowChunks j), ← hrow]
    exact Nat.mul_lt_mul_of_pos_right (Nat.mod_lt k hlen) hbits
  unfold swizzled
  split
  · exact hplain
  · rename_i hno
    exact swizzle_lt (hswz.resolve_left fun h0 => hno (.inr h0)) hplain (Nat.mod_lt _ (Nat.two_pow_pos _))

/-- The swizzle takes no two chunks of a row to one place. -/
theorem swizzled_inj {n : Nat} (hrows : k / rowLen j = n / rowLen j) (h : swizzled j a k = swizzled j a n) :
    k % rowLen j * j.lay.bits / 128 = n % rowLen j * j.lay.bits / 128 := by
  unfold swizzled at h
  rw [hrows] at h
  split at h
  · exact h
  · exact Nat.xor_left_injective h

/-- An element that begins a chunk is known by its row's chunk. -/
theorem chunk_start (hk : k % j.per = 0) (hrow : rowLen j * j.lay.bits = 128 * rowChunks j) :
    k % rowLen j = j.per * (k % rowLen j * j.lay.bits / 128) := by
  have hper : j.per * j.lay.bits = 128 := Nat.div_mul_cancel (bits_dvd j.lay)
  have hbits : 0 < j.lay.bits := Nat.pos_of_dvd_of_pos (bits_dvd j.lay) (by decide)
  have hlen : rowLen j = j.per * rowChunks j := by
    refine Nat.eq_of_mul_eq_mul_right hbits ?_
    rw [hrow, Nat.mul_right_comm, hper]
  have hstart : j.per ∣ k % rowLen j :=
    (Nat.dvd_mod_iff (hlen ▸ dvd_mul_right ..)).mpr (Nat.dvd_of_mod_eq_zero hk)
  obtain ⟨c, hc⟩ := hstart
  rw [hc, Nat.mul_right_comm, hper, Nat.mul_div_cancel_left _ (by decide)]

theorem swizzlePermutes : Parts.SwizzlePermutes := by
  intro j a hok k hk hstart
  obtain ⟨hrow, -⟩ := layoutOk_row hok
  rw [chunkPlace_eq hrow]
  refine ⟨?_, fun n hn hstart' hplace => ?_⟩
  · obtain ⟨q, hq⟩ := rowLen_dvd j
    have hbox : j.total * j.lay.bits / 8 = 16 * (q * rowChunks j) := by
      rw [hq, Nat.mul_right_comm, hrow, Nat.mul_assoc, Nat.mul_comm (rowChunks j)]
      omega
    have hle : (k / rowLen j + 1) * rowChunks j ≤ q * rowChunks j :=
      Nat.mul_le_mul_right _ (Nat.div_lt_of_lt_mul (hq ▸ hk))
    have hlt := swizzled_lt hk hok
    rw [Nat.add_mul, Nat.one_mul] at hle
    omega
  · rw [chunkPlace_eq hrow] at hplace
    obtain ⟨hrows, hchunk⟩ := row_inj (swizzled_lt hk hok) (swizzled_lt hn hok) (Nat.eq_of_mul_eq_mul_left (by decide) hplace)
    have hmod : k % rowLen j = n % rowLen j := by
      rw [chunk_start hstart hrow, chunk_start hstart' hrow, swizzled_inj hrows hchunk]
    rw [← Nat.div_add_mod k (rowLen j), ← Nat.div_add_mod n (rowLen j), hrows, hmod]

/-- Settles O29: a command joins the engine as it was issued, and a row's chunks change places within the row alone. -/
theorem copiesAndSwizzles : Obligations.CopiesAndSwizzles := ⟨copyCommands, swizzlePermutes⟩

end
end Sys2Proof.Proofs
end

section
/-! The state after power-on. -/

namespace Sys2Proof.Proofs

open Sys2Proof.Machine Sys2Proof.Safety

/-- Settles O8: no unit of the package stands in the state after power-on, so each reads as its reset value. -/
theorem resetState : Obligations.ResetState := by
  refine ⟨⟨rfl, rfl, rfl, rfl⟩, rfl, rfl, rfl, rfl, fun _ => ?_, fun _ _ => ⟨rfl, rfl, rfl, rfl⟩,
    fun _ => ⟨rfl, rfl, rfl, rfl, rfl, rfl⟩, rfl, rfl, rfl, rfl⟩
  exact ⟨rfl, rfl, rfl, rfl, rfl, rfl, rfl, fun _ => rfl⟩

end Sys2Proof.Proofs
end

section
/-! Reader sections entered and left lane by lane (R93, R266). -/

namespace Sys2Proof.Proofs

open Sys2Proof.Machine Sys2Proof.Safety

/-! ### A lane's depth and phase -/

theorem nodup_lanesOf (m : Word) : (lanesOf m).Nodup := List.nodup_range.filter _

theorem lt_of_mem_lanesOf {m : Word} {l : Nat} (h : l ∈ lanesOf m) : l < 32 := List.mem_range.mp (List.mem_filter.mp h).1

/-- A lane's depth written is read back; the others stay. -/
theorem getD_setAt {ds : List Nat} {l d j : Nat} (h : l < ds.length) :
    (setAt ds l d).getD j 0 = if j = l then d else ds.getD j 0 := by
  rw [setAt_eq_set, List.getD_eq_getElem?_getD, List.getD_eq_getElem?_getD]
  by_cases hj : j = l
  · rw [if_pos hj, hj, List.getElem?_set_self h]
    rfl
  · rw [if_neg hj, List.getElem?_set_ne (Ne.symm hj)]

/-- A lane's bit put in a mask, or taken out of it. -/
theorem hasLane_put {m : Word} {b : Prop} [Decidable b] {l j : Nat} (hl : l < 32) :
    hasLane (if b then m ||| BitVec.ofNat 32 (1 <<< l) else m &&& ~~~BitVec.ofNat 32 (1 <<< l)) j =
      if j = l then decide b else hasLane m j := by
  by_cases hj : j = l
  · subst hj
    split <;> simp_all [hasLane_or, hasLane_without, hasLane_bit]
  · split <;> simp [hasLane_or, hasLane_without, hasLane_bit, Ne.symm hj]

/-! ### Lanes enter -/

/-- Some lanes of a warp have entered a section: each is one deeper, and an outermost one counts for the core's phase. -/
structure Entered (k : Core) (w : Warp) (ls : List Nat) (r : Core × Warp) : Prop where
  core : r.1 = { k with
    cnt0 := k.cnt0 + if k.phase % 2 = 0 then (ls.filter fun l => decide (depthOf w l = 0)).length else 0
    cnt1 := k.cnt1 + if k.phase % 2 = 0 then 0 else (ls.filter fun l => decide (depthOf w l = 0)).length }
  warp : r.2 = { w with depth := r.2.depth, phase := r.2.phase }
  length : r.2.depth.length = w.depth.length
  depth : ∀ l, depthOf r.2 l = depthOf w l + if l ∈ ls then 1 else 0
  phase : ∀ l, hasLane r.2.phase l = if l ∈ ls ∧ depthOf w l = 0 then decide (k.phase % 2 = 1) else hasLane w.phase l

theorem addCnt_one (k : Core) (ph : Nat) :
    addCnt k ph 1 = { k with cnt0 := k.cnt0 + if ph = 0 then 1 else 0, cnt1 := k.cnt1 + if ph = 0 then 0 else 1 } := by
  unfold addCnt
  split <;> rfl

theorem addCnt_neg_one (k : Core) (ph : Nat) :
    addCnt k ph (-1) = { k with cnt0 := k.cnt0 - if ph = 0 then 1 else 0, cnt1 := k.cnt1 - if ph = 0 then 0 else 1 } := by
  unfold addCnt
  split <;> congr 1 <;> omega

section
variable {k : Core} {w : Warp} {ls : List Nat} {r : Core × Warp} {l : Nat}

theorem Entered.nil : Entered k w [] (k, w) :=
  { core := by simp, warp := rfl, length := rfl, depth := by simp, phase := by simp }

/-- One more lane enters. -/
theorem Entered.snoc (h : Entered k w ls r) (hl : l < 32) (hlen : w.depth.length = 32) (hnew : l ∉ ls) :
    Entered k w (ls ++ [l]) (enterLane r.1 r.2 l) := by
  have hin : l < r.2.depth.length := by rw [h.length, hlen]; exact hl
  have hdepth : depthOf r.2 l = depthOf w l := by rw [h.depth, if_neg hnew]; rfl
  have hphase : r.1.phase = k.phase := by rw [h.core]
  have hset (d j : Nat) : (setAt r.2.depth l d).getD j 0 = if j = l then d else depthOf r.2 j := getD_setAt hin
  unfold enterLane
  rw [hdepth]
  by_cases hout : depthOf w l = 0
  · rw [if_pos hout]
    exact {
      core := by
        rw [addCnt_one, hphase, h.core]
        simp [List.filter_append, hout]
        split <;> omega
      warp := by rw [h.warp]
      length := by rw [setAt_eq_set, List.length_set, h.length]
      depth := fun j => by
        refine (hset _ j).trans ?_
        by_cases hj : j = l
        · simp [hj, hout]
        · simp [hj, h.depth]
      phase := fun j => by
        refine (hasLane_put hl).trans ?_
        by_cases hj : j = l
        · simp [hj, hout, hphase]
        · simp [hj, h.phase] }
  · rw [if_neg hout]
    exact {
      core := by
        rw [h.core]
        simp [List.filter_append, hout]
      warp := by rw [h.warp]
      length := by rw [setAt_eq_set, List.length_set, h.length]
      depth := fun j => by
        refine (hset _ j).trans ?_
        by_cases hj : j = l
        · simp [hj]
        · simp [hj, h.depth]
      phase := fun j => by
        refine (h.phase j).trans ?_
        by_cases hj : j = l
        · simp [hj, hout]
        · simp [hj] }

theorem lanes_enter (hlen : w.depth.length = 32) : ∀ {ls : List Nat}, ls.Nodup → (∀ l ∈ ls, l < 32) →
    Entered k w ls (ls.foldl (fun p l => enterLane p.1 p.2 l) (k, w)) := by
  intro ls
  induction ls using List.reverseRecOn with
  | nil => exact fun _ _ => .nil
  | append_singleton ls l ih =>
    intro hnodup hlt
    obtain ⟨hls, -, hdisj⟩ := List.nodup_append.mp hnodup
    rw [List.foldl_append, List.foldl_cons, List.foldl_nil]
    exact (ih hls fun j hj => hlt j (List.mem_append_left _ hj)).snoc (hlt l (by simp)) hlen
      fun hl => hdisj l hl l (List.mem_singleton_self l) rfl

end

/-! ### Lanes leave -/

/-- Some lanes of a warp have left a section: each is one less deep, and an outermost one counts no longer for its phase. -/
structure Left (k : Core) (w : Warp) (ls : List Nat) (r : Core × Warp) : Prop where
  core : r.1 = { k with
    cnt0 := k.cnt0 - (ls.filter fun l => decide (depthOf w l = 1) && hasLane w.phase l == false).length
    cnt1 := k.cnt1 - (ls.filter fun l => decide (depthOf w l = 1) && hasLane w.phase l == true).length }
  warp : r.2 = { w with depth := r.2.depth }
  length : r.2.depth.length = w.depth.length
  depth : ∀ l, depthOf r.2 l = depthOf w l - if l ∈ ls then 1 else 0

section
variable {k : Core} {w : Warp} {ls : List Nat} {r : Core × Warp} {l : Nat}

theorem Left.nil : Left k w [] (k, w) :=
  { core := by simp, warp := rfl, length := rfl, depth := by simp }

/-- One more lane leaves. -/
theorem Left.snoc (h : Left k w ls r) (hl : l < 32) (hlen : w.depth.length = 32) (hnew : l ∉ ls) :
    Left k w (ls ++ [l]) (exitLane r.1 r.2 l) := by
  have hin : l < r.2.depth.length := by rw [h.length, hlen]; exact hl
  have hdepth : depthOf r.2 l = depthOf w l := by rw [h.depth, if_neg hnew]; rfl
  have hphase : phaseOf r.2 l = if hasLane w.phase l then 1 else 0 := by rw [phaseOf, h.warp]
  unfold exitLane
  rw [hdepth, hphase]
  exact {
    core := by
      rw [h.core]
      by_cases hout : depthOf w l = 1 <;> cases hp : hasLane w.phase l <;>
        simp [addCnt_neg_one, List.filter_append, hout, hp, Nat.sub_sub]
    warp := by rw [h.warp]
    length := by
      dsimp only
      rw [setAt_eq_set, List.length_set, h.length]
    depth := fun j => by
      refine (getD_setAt hin).trans ?_
      by_cases hj : j = l
      · simp [hj]
      · rw [if_neg hj]
        exact (h.depth j).trans (by simp [hj]) }

theorem lanes_leave (hlen : w.depth.length = 32) : ∀ {ls : List Nat}, ls.Nodup → (∀ l ∈ ls, l < 32) →
    Left k w ls (ls.foldl (fun p l => exitLane p.1 p.2 l) (k, w)) := by
  intro ls
  induction ls using List.reverseRecOn with
  | nil => exact fun _ _ => .nil
  | append_singleton ls l ih =>
    intro hnodup hlt
    obtain ⟨hls, -, hdisj⟩ := List.nodup_append.mp hnodup
    rw [List.foldl_append, List.foldl_cons, List.foldl_nil]
    exact (ih hls fun j hj => hlt j (List.mem_append_left _ hj)).snoc (hlt l (by simp)) hlen
      fun hl => hdisj l hl l (List.mem_singleton_self l) rfl

end

/-! ### RDENTER and RDEXIT -/

section
variable {s : State} {x : Ctx} {f : F3}

theorem lanes_entered (hlen : x.w.depth.length = 32) : Entered x.k x.w (lanesOf x.act) (eachLane x enterLane) :=
  lanes_enter hlen (nodup_lanesOf _) fun _ => lt_of_mem_lanesOf

theorem lanes_left (hlen : x.w.depth.length = 32) : Left x.k x.w (lanesOf x.act) (eachLane x exitLane) :=
  lanes_leave hlen (nodup_lanesOf _) fun _ => lt_of_mem_lanesOf

/-- With no lane at the depth that traps, a section's instruction has no check against it. -/
theorem sectionCheck_none {p : Nat → Bool} (h : ∀ l, hasLane x.act l = true → p l = false) :
    (if (lanesOf x.act).any p then some (trapOf cSECTION) else none) = none :=
  if_neg (by simpa using fun l hl => h l (mem_lanesOf.mp hl))

/-- One lane at the depth that traps is enough. -/
theorem sectionCheck_traps {p : Nat → Bool} {l : Nat} (hl : hasLane x.act l = true) (h : p l = true) :
    (if (lanesOf x.act).any p then some (trapOf cSECTION) else none) = some (trapOf cSECTION) :=
  if_pos (List.any_eq_true.mpr ⟨l, mem_lanesOf.mpr hl, h⟩)

theorem readerSections : Parts.ReaderSections := by
  intro f s x hc hlen outer
  refine ⟨fun hi hdepth => ?_, ?_, fun hspec htvec hhandler => ⟨fun hi hbad => ?_, fun hi hbad => ?_⟩⟩
  · have h := lanes_entered hlen
    have hexec : exec (.rdenter f) s = .next (goOn s x (eachLane x enterLane).1 (eachLane x enterLane).2) :=
      issue_passed hi hc rfl nofun (sectionCheck_none fun l hl => decide_eq_false (Nat.not_le.mpr (hdepth l hl))) nofun rfl
    refine ⟨_, _, completesOn_goOn hexec, fun l => ?_, fun l => ?_, h.warp, h.core⟩
    · simpa only [mem_lanesOf, depthOf] using h.depth l
    · simpa only [mem_lanesOf, depthOf] using h.phase l
  · intro hi hdepth hreads gone
    have h := lanes_left hlen
    have hexec : exec (.rdexit f) s = .next (goOn s x (eachLane x exitLane).1 (eachLane x exitLane).2) :=
      issue_passed hi hc rfl nofun (sectionCheck_none fun l hl => decide_eq_false (Nat.pos_iff_ne_zero.mp (hdepth l hl))) nofun
        (if_pos hreads)
    rw [h.core] at hexec
    refine ⟨_, completesOn_goOn hexec, fun l => ?_, h.warp⟩
    simpa only [mem_lanesOf, depthOf] using h.depth l
  · obtain ⟨l, hl, hdeep⟩ := hbad
    exact ⟨_, issue_traps hi hc hspec rfl nofun (sectionCheck_traps hl (decide_eq_true hdeep)),
      trapHere_enters hi htvec hhandler (trapOf cSECTION)⟩
  · obtain ⟨l, hl, hout⟩ := hbad
    exact ⟨_, issue_traps hi hc hspec rfl nofun (sectionCheck_traps hl (decide_eq_true hout)),
      trapHere_enters hi htvec hhandler (trapOf cSECTION)⟩

end
end Sys2Proof.Proofs
end

section
/-! GRACE's wait for its grace period (R96, R103), and the entries of a RETIRE (R100, R101, R267). -/

namespace Sys2Proof.Proofs

open Sys2Proof.Machine Sys2Proof.Safety

section
variable {s : State} {x : Ctx} {f : F3}

/-! ### GRACE -/

theorem graceWaits_iff : graceWaits x = true ↔
    ∃ pc tried, x.w.hold = .grace pc tried ∧ (pc = x.e.pc ∨ (pc = Claims.headerOf x ∧ pc + 4 = x.e.pc)) := by
  unfold graceWaits
  split
  · rename_i pc tried hhold
    simp only [decide_eq_true_eq, hhold, Hold.grace.injEq]
    exact ⟨fun h => ⟨pc, tried, ⟨rfl, rfl⟩, h⟩, fun ⟨_, _, ⟨h, _⟩, hat⟩ => h ▸ hat⟩
  · rename_i hno
    simp only [Bool.false_eq_true, false_iff]
    rintro ⟨pc, tried, hhold, -⟩
    exact hno pc tried hhold

/-- The warp that stands at a GRACE with a target, its entry with a mark. -/
def graceStanding (x : Ctx) (target mark : Option Nat) : Warp :=
  { x.w with
    hold := .grace x.e.pc true
    grace := target
    frontier := x.w.frontier.zipIdx.map fun p => if p.2 = x.ei then { p.1 with mark := mark } else p.1 }

/-- Once the grace period the warp waits for has completed, it goes on. -/
theorem graceGo_completed {g : Nat} (hhere : graceWaits x = true) (hg : x.w.grace = some g) (hge : serialGe x.k.c g = true) :
    graceGo s x = goOn s x x.k { x.w with grace := none, hold := .none } := by
  simp only [graceGo, hhere, hg, hge, if_true]

/-- Until then it stands. -/
theorem graceGo_waits {g : Nat} (hhere : graceWaits x = true) (hg : x.w.grace = some g) (hge : serialGe x.k.c g = false) :
    graceGo s x = s.setWarp x.core x.slot (graceStanding x (some g) none) := by
  simp only [graceGo, hhere, hg, hge, if_true, Bool.false_eq_true, if_false]
  rfl

/-- A GRACE that has no target yet takes one when the lane path is drained, and stands. -/
theorem graceGo_starts (h : graceWaits x = false ∨ x.w.grace = none) :
    graceGo s x = s.setWarp x.core x.slot
      (if lanePathDone s x then graceStanding x (some ((x.k.f + 2) % 2 ^ 32)) none
       else graceStanding x none (some (markOf s x))) := by
  have hnone : (if graceWaits x then x.w.grace else none) = none := by
    rcases h with h | h <;> simp [h]
  simp only [graceGo, hnone]
  split <;> rfl

/-- A warp that stands at a GRACE has its lanes there. -/
theorem graceStanding_stays {i : Instr} {target mark : Option Nat} (hi : Issues i s x)
    (hexec : exec i s = .next (s.setWarp x.core x.slot (graceStanding x target mark))) : Claims.Stays i s x := by
  obtain ⟨-, -, -, -, -, -, he, -⟩ := ctxOf_fields hi.2
  refine ⟨_, hexec, fun l hl => ⟨_, setWarp_warp .., .inl ?_⟩, rfl, rfl, rfl⟩
  have hin : (x.e, x.ei) ∈ x.w.frontier.zipIdx := List.mem_zipIdx_iff_getElem?.mpr he
  exact ⟨_, List.mem_map.mpr ⟨_, hin, rfl⟩, by rw [if_pos rfl]; exact hl, by rw [if_pos rfl]⟩

theorem graceWaitsForPeriod : Parts.GraceWaits := by
  intro f s x hi hc hspec hrow
  have hexec (hno : x.act ≠ 0 → anyInSection x.w = false) :
      exec (.grace f) s = .next (if x.act = 0 then goOn s x x.k x.w else graceGo s x) :=
    issue_passed hi hc rfl (fun _ => hrow) (if_neg fun h => by simp [hno h.1] at h) (fun _ => hspec) rfl
  refine ⟨fun ha => ?_, fun ha hout => ?_⟩
  · exact completesOn_goOn ((hexec fun h => absurd ha h).trans (congrArg _ (if_pos ha)))
  intro here
  have hno : anyInSection x.w = false := by
    simpa [anyInSection, mem_lanesOf, depthOf] using hout
  have hgo : exec (.grace f) s = .next (graceGo s x) := (hexec fun _ => hno).trans (congrArg _ (if_neg ha))
  have hstart (h : ¬ here ∨ x.w.grace = none) := hgo.trans (congrArg _ (graceGo_starts (s := s)
    (h.imp_left fun h => Bool.eq_false_iff.mpr fun hw => h (graceWaits_iff.mp hw))))
  refine ⟨fun g hhere hg hge => ?_, fun g hhere hg hge => ?_, fun h => ?_, fun h hdrained => ?_⟩
  · exact completesOn_goOn (hgo.trans (congrArg _ (graceGo_completed (graceWaits_iff.mpr hhere) hg (decide_eq_true hge))))
  · exact graceStanding_stays hi
      (hgo.trans (congrArg _ (graceGo_waits (graceWaits_iff.mpr hhere) hg (decide_eq_false hge))))
  · have hstarted := hstart h
    split at hstarted <;> exact graceStanding_stays hi hstarted
  · have hdone : lanePathDone s x = true := by
      obtain ⟨hreads, hlane⟩ := hdrained
      have := hlane (by decide)
      simp [lanePathDone, hreads, markOf, this]
    rw [if_pos hdone] at hstart
    exact ⟨_, _, hstart h, setWarp_warp .., rfl, rfl⟩

/-! ### RETIRE -/

theorem accept_pkg {r : Req} {spec : Bool} : (accept s r spec).pkg = s.pkg := by
  have hforward (t : State) : (hashForward t r).pkg = t.pkg := by
    unfold hashForward
    split
    · rfl
    · split
      · exact List.foldlRecOn (motive := fun u : State => u.pkg = t.pkg) _ _ rfl fun _ h _ _ => h
      · rfl
  have htrigger (t : State) (c before : Nat) : (occupancyTrigger t c before).pkg = t.pkg := by
    unfold occupancyTrigger
    dsimp only
    split <;> rfl
  exact (hforward _).trans (htrigger ..)

/-- A source reads the same in every state of one package. -/
theorem srcLane_pkg {t : State} (h : t.pkg = s.pkg) (n l : Nat) : srcLane t x n l = srcLane s x n l := by
  simp only [srcLane, idxOfCore, h]

theorem pairLane_pkg {t : State} (h : t.pkg = s.pkg) (n l : Nat) : pairLane t x n l = pairLane s x n l := by
  simp only [pairLane, srcLane_pkg h]

/-- Folds whose steps agree wherever an invariant of theirs holds. -/
theorem foldl_congr_of {σ α : Type} {P : σ → Prop} {f g : σ → α → σ} (h : ∀ t a, P t → f t a = g t a ∧ P (g t a))
    (as : List α) : ∀ {t : σ}, P t → as.foldl f t = as.foldl g t := by
  induction as with
  | nil => exact fun _ => rfl
  | cons a as ih =>
    intro t ht
    obtain ⟨hstep, hnext⟩ := h t a ht
    rw [List.foldl_cons, List.foldl_cons, hstep]
    exact ih hnext

/-- The operation of a lane's retire entry: its address, argument and size. -/
def retireOp (s : State) (x : Ctx) (f : F3) (m : XM) (l : Nat) : LaneOp :=
  { lane := l, at_ := 0, data := (pairLane s x f.b.toNat l).toNat, swap := (srcLane s x m.c.toNat l).toNat
    va := (pairLane s x f.a.toNat l).toNat, keep := 0 }

/-- A lane's request to the node of device k as state t makes it, its operands read in state s. -/
def retireReq (s : State) (x : Ctx) (f : F3) (m : XM) (act k id : Nat) (t : State) (l : Nat) : Req :=
  asExternal x true (mkReq t x .lane (.retire act) (.node k) 32 [retireOp s x f m l] (some id) none true (readsOf x))

/-- A RETIRE in plain mode accepts one entry per active lane and waits for their sequence numbers. -/
theorem retireGo_plain {m : XM} {act : Nat} (hk : x.k = s.core x.core) (hg : fget s.wgs x.g = some x.wg) (ha : x.act ≠ 0)
    (hmode : x.l.rec_.mode = 0) :
    ∃ i wgs y rs pend, retireGo s x f m act = goOn { s with nextId := i, wgs := wgs } x x.k { x.w with pend := pend } ∧
      fget wgs x.g = some y ∧ y.laneQ = x.wg.laneQ ++ rs ∧
      rs.map shape = ((lanesOf x.act).map fun l => (Target.node (devOfCore s x.core), [l])).map
        (fun p => (.retire act, p.1, 32, true, p.2.map fun l =>
          (l, (pairLane s x f.a.toNat l).toNat, (pairLane s x f.b.toNat l).toNat, (srcLane s x m.c.toNat l).toNat))) ∧
      Awaits s x (some (.group (destReg f.d) 4 false)) pend rs := by
  obtain ⟨i, wgs, y, rs, hfold, hy, hqueue, hmade⟩ := accepts_lane (g := x.g)
    (q := retireReq s x f m act (devOfCore s x.core) s.nextId) (s := { s with nextId := s.nextId + 1 })
    (fun _ _ => ⟨rfl, rfl, by simp [retireReq, asExternal, hmode]⟩) (lanesOf x.act) hg
  have hreq (t : State) (l : Nat) (ht : t.pkg = s.pkg) : retireReq t x f m act (devOfCore s x.core) s.nextId t l =
      retireReq s x f m act (devOfCore s x.core) s.nextId t l := by
    simp only [retireReq, retireOp, pairLane_pkg ht, srcLane_pkg ht]
  refine ⟨i, wgs, y, rs, x.w.pend ++ [mkPend s x (.group (destReg f.d) 4 false) none x.act [] false false []], ?_, hy, hqueue, ?_,
    _, rfl, rfl, rfl, rfl, rfl, hmade.all fun _ _ => rfl⟩
  · have haccepts := (foldl_congr_of (P := fun t : State => t.pkg = s.pkg)
      (fun t l ht => ⟨congrArg (accept t · false) (hreq t l ht), accept_pkg.trans ht⟩) (lanesOf x.act)
      (t := { s with nextId := s.nextId + 1 }) rfl).trans hfold
    unfold retireGo
    simp only [if_neg ha]
    refine (congrArg (fun t : State => finishReturning t x _) haccepts).trans ?_
    rw [finishReturning_waits ha, hk]
    rfl
  · rw [hmade.map (G := fun l => shape (retireReq s x f m act (devOfCore s x.core) s.nextId s l)) fun _ _ => rfl, List.map_map]
    rfl

theorem retireTrap_none {act : Nat} {arg : Nat → Nat}
    (harg : ∀ l, hasLane x.act l = true → (act = 1 → arg l % 8 = 0) ∧ (act = 0 → arg l < 4096))
    (hroom : laneCount x.act ≤ retireRoom s (devOfCore s x.core)) : retireTrap s x act arg = none := by
  unfold retireTrap
  split
  · rfl
  refine Option.or_eq_none_iff.mpr ⟨Option.or_eq_none_iff.mpr ⟨?_, ?_⟩, if_neg fun h => absurd hroom (Nat.not_le.mpr h.1)⟩
  · split
    · rename_i hact
      exact firstBad_none fun l hl => decide_eq_false (not_not.mpr ((harg l hl).1 hact))
    · rfl
  · refine if_neg ?_
    rintro ⟨hact, hany⟩
    obtain ⟨l, hl, hbad⟩ := List.any_eq_true.mp hany
    exact absurd ((harg l (mem_lanesOf.mp hl)).2 hact) (Nat.not_lt.mpr (of_decide_eq_true hbad))

theorem retireQueues : Parts.RetireQueues := by
  intro f m s x act arg hi hc ha hspec hrow hmode harg hroom hacquire hbrine
  obtain ⟨-, hk, -, -, -, -, -, -, hg, -⟩ := ctxOf_fields hi.2
  have hwait : queueWait s x (32 * laneCount x.act) (some 6) = none :=
    queueWait_none hacquire hbrine fun sc h hle => absurd (Option.some.inj h ▸ hle) (by decide)
  have hexec : exec (.retire f m) s = .next (retireGo s x f m act) := by
    refine (issue_passed hi hc rfl (fun _ => hrow) (retireTrap_none harg hroom) (fun _ => hspec) ?_).trans
      (congrArg _ (externally_go (.inr hmode)))
    have hshort : decide (retireRoom s (devOfCore s x.core) < laneCount x.act) = false :=
      decide_eq_false (Nat.not_lt.mpr hroom)
    simp only [if_neg ha, hshort, Bool.false_eq_true, if_false, hwait]
  obtain ⟨i, wgs, y, rs, pend, hgo, hy, hqueue, hshape, hpend⟩ := retireGo_plain (f := f) (m := m) (act := act) hk hg ha hmode
  exact queues_goOn (hexec.trans (congrArg _ hgo)) hy hqueue hshape hpend

end

/-- Settles O25: sections count their outermost lanes, GRACE waits at its target, RETIRE's entries are a release. -/
theorem sectionsGraceAndRetire : Obligations.SectionsGraceAndRetire :=
  ⟨readerSections, graceWaitsForPeriod, retireQueues⟩

end Sys2Proof.Proofs
end

section
/-! Grace periods in a domain of one device (R96 to R99): started, adopted, acknowledged, drained and complete. -/

namespace Sys2Proof.Proofs

open Sys2Proof.Machine Sys2Proof.Safety

/-! ### Dies and cores changed one after the other -/

theorem nodup_diesOfDev (mode k : Nat) : (diesOfDev mode k).Nodup := by
  unfold diesOfDev devDies
  split
  · exact List.nodup_range.map fun a b h => by simpa [dieAt, *] using h
  · split
    · exact List.nodup_range.map fun a b h => by simpa [dieAt, *] using h
    · simp

/-- Dies changed one after the other, each once. -/
theorem foldl_dies {F : State → Nat → State} {R : Die → Die → Prop} (hF : ∀ s d, ∃ y, R (s.die d) y ∧ F s d = s.setDie d y)
    {ds : List Nat} (hnodup : ds.Nodup) : ∀ s : State, ∃ dies, ds.foldl F s = { s with dies := dies } ∧
      (∀ d ∈ ds, R (s.die d) ((ds.foldl F s).die d)) ∧ ∀ d, d ∉ ds → (ds.foldl F s).die d = s.die d := by
  induction ds with
  | nil => exact fun s => ⟨s.dies, rfl, nofun, fun _ _ => rfl⟩
  | cons d ds ih =>
    intro s
    obtain ⟨hd, hds⟩ := List.nodup_cons.mp hnodup
    obtain ⟨y, hy, hF⟩ := hF s d
    obtain ⟨dies, hfold, hin, hout⟩ := ih hds (F s d)
    rw [List.foldl_cons]
    refine ⟨dies, by rw [hfold, hF]; rfl, fun e he => ?_, fun e he => ?_⟩
    · by_cases hed : e = d
      · rw [hed, hout d hd, hF, setDie_die]
        exact hy
      · have h := hin e ((List.mem_cons.mp he).resolve_left hed)
        rwa [hF, setDie_die_other s y hed, ← hF] at h
    · obtain ⟨hed, he⟩ := not_or.mp (List.mem_cons.not.mp he)
      rw [hout e he, hF, setDie_die_other s y hed]

/-- Cores changed one after the other by a change that made twice is made once. -/
theorem foldl_updCore {f : Core → Core} (hf : ∀ k, f (f k) = f k) (cs : List Nat) : ∀ s : State,
    ∃ cores, cs.foldl (fun s c => s.updCore c f) s = { s with cores := cores } ∧
      ∀ c ∈ cs, (cs.foldl (fun s c => s.updCore c f) s).core c = f (s.core c) := by
  have hkeeps (c : Nat) : ∀ (cs : List Nat) (s : State), f (s.core c) = s.core c →
      (cs.foldl (fun s c => s.updCore c f) s).core c = s.core c := by
    intro cs
    induction cs with
    | nil => exact fun _ _ => rfl
    | cons e cs ih =>
      intro s h
      have hnext : (s.updCore e f).core c = s.core c := by
        by_cases hc : c = e
        · rw [hc, updCore_core, ← hc, h]
        · exact setCore_core_other s _ hc
      rw [List.foldl_cons, ih _ (by rw [hnext, h]), hnext]
  induction cs with
  | nil => exact fun s => ⟨s.cores, rfl, nofun⟩
  | cons e cs ih =>
    intro s
    obtain ⟨cores, hfold, hin⟩ := ih (s.updCore e f)
    refine ⟨cores, hfold, fun c hc => ?_⟩
    rw [List.foldl_cons]
    by_cases hce : c = e
    · rw [hce, hkeeps e cs _ (by rw [updCore_core, hf]), updCore_core]
    · rw [hin c ((List.mem_cons.mp hc).resolve_left hce)]
      exact congrArg f (setCore_core_other s _ hce)

/-- A core reads the same while its die's clock stays. -/
theorem core_congr {s t : State} {c : Nat} (hcores : t.cores = s.cores)
    (hcycle : (t.die (c / 160)).cycle = (s.die (c / 160)).cycle) : t.core c = s.core c := by
  rw [core_eq_getD, core_eq_getD, hcores, hcycle]

/-! ### What a device tells other packages (R97) -/

/-- State t is state s but for what devices have told other packages. -/
structure Told (s t : State) : Prop where
  frame : t = { s with devs := t.devs, linkOut := t.linkOut }
  dev : ∀ k, ∃ told, t.dev k = { s.dev k with podTold := told }

theorem Told.refl (s : State) : Told s s := ⟨rfl, fun _ => ⟨_, rfl⟩⟩

theorem Told.trans {s t u : State} (h : Told s t) (g : Told t u) : Told s u where
  frame := by rw [g.frame, h.frame]
  dev k := by
    obtain ⟨told, ht⟩ := h.dev k
    obtain ⟨told', hu⟩ := g.dev k
    exact ⟨told', by rw [hu, ht]⟩

theorem Told.pkg {s t : State} (h : Told s t) : t.pkg = s.pkg := by rw [h.frame]

theorem Told.die {s t : State} (h : Told s t) (d : Nat) : t.die d = s.die d := by
  rw [h.frame]
  rfl

theorem podSend_told (s : State) (k n : Nat) (m : PodMsg) : Told s (podSend s k n m) := by
  unfold podSend
  split
  · exact .refl s
  · split
    · refine ⟨rfl, fun j => ?_⟩
      by_cases hj : j = k
      · rw [hj]
        exact ⟨_, setDev_dev ..⟩
      · exact ⟨_, setDev_dev_other _ _ hj⟩
    · exact .refl s

theorem outFar_told (s : State) (k : Nat) : Told s (outFar s k) := by
  unfold outFar
  split
  · exact .refl s
  · refine List.foldlRecOn (motive := Told s) _ _ (.refl s) fun t h p _ => h.trans ?_
    split
    · exact podSend_told ..
    · exact .refl t

theorem Told.wantsGrace {s t : State} (h : Told s t) (k c : Nat) : wantsGrace t k c = wantsGrace s k c := by
  obtain ⟨told, hdev⟩ := h.dev k
  have hretire : (t.dev k).retire = (s.dev k).retire := by rw [hdev]
  unfold Machine.wantsGrace devOfCore
  rw [hretire, h.frame]

/-! ### The nodes of a domain of one device -/

section
variable {s : State} {k d : Nat}

theorem rootOf_alone (h : (s.dev k).span = false) : rootOf s k = some (.dev k) := by
  simp [rootOf, h]

theorem isPodRoot_alone (h : (s.dev k).span = false) : isPodRoot s k = false := by
  simp [isPodRoot, h]

theorem farRoot_alone (h : (s.dev k).span = false) : farRoot s k = none := by
  simp [farRoot, h]

end

/-! ### A grace period starts (R98) -/

/-- The flip taken by the nodes of one device. -/
theorem sendFlip_alone (s : State) (k f : Nat) : ∃ dies,
    sendFlip (updVesper s (.dev k) (takeFlip f)) [k] f =
      { s.setDev k { s.dev k with vesper := takeFlip f (s.dev k).vesper } with dies := dies } ∧
    ∀ d ∈ diesOfDev s.pkg.mode k, (sendFlip (updVesper s (.dev k) (takeFlip f)) [k] f).die d = dieFlip f (s.die d) := by
  have hdev : updVesper (updVesper s (.dev k) (takeFlip f)) (.dev k) (takeFlip f) =
      s.setDev k { s.dev k with vesper := takeFlip f (s.dev k).vesper } := by
    simp [updVesper, State.updDev, State.setDev, State.dev, takeFlip]
  obtain ⟨dies, hfold, hin, -⟩ := foldl_dies (F := fun s d => s.updDie d (dieFlip f)) (R := fun x y => y = dieFlip f x)
    (fun s d => ⟨_, rfl, rfl⟩) (nodup_diesOfDev s.pkg.mode k) (s.setDev k { s.dev k with vesper := takeFlip f (s.dev k).vesper })
  have hsend : sendFlip (updVesper s (.dev k) (takeFlip f)) [k] f =
      (diesOfDev s.pkg.mode k).foldl (fun s d => s.updDie d (dieFlip f))
        (s.setDev k { s.dev k with vesper := takeFlip f (s.dev k).vesper }) := by
    rw [← hdev]
    rfl
  rw [hsend]
  exact ⟨dies, hfold, hin⟩

theorem gracePeriodStart_starts {s : State} {k : Nat} (hspan : (s.dev k).span = false)
    (hidle : (s.dev k).vesper.f = (s.dev k).vesper.c) (hwants : wantsGrace s k (s.dev k).vesper.c = true) :
    exec (.gracePeriodStart k) s = .next
      (sendFlip (updVesper (outFar s k) (.dev k) (takeFlip (((s.dev k).vesper.c + 1) % 2 ^ 32))) [k]
        (((s.dev k).vesper.c + 1) % 2 ^ 32)) := by
  have h := outFar_told s k
  obtain ⟨told, hdev⟩ := h.dev k
  have hvesper : ((outFar s k).dev k).vesper = (s.dev k).vesper := by rw [hdev]
  have hspan' : ((outFar s k).dev k).span = false := by rw [hdev, hspan]
  show execGracePeriodStart k s = _
  unfold execGracePeriodStart
  simp [hspan', vesperAt, domainDevs, hvesper, hidle, h.wantsGrace, hwants, flipFar]

/-! ### Acknowledgement and drain (R98, R99) -/

section
variable {s : State} {d : Nat}

theorem flipDone_alone {n : VNode} (hn : ∀ r, n ≠ .pod r) (h : (s.dev (nodeDev s n)).span = false) :
    flipDone s n = allAcked s (.dev (nodeDev s n)) := by
  unfold flipDone
  split
  · exact absurd rfl (hn _)
  · simp only [rootOf_alone h]

theorem allAcked_iff {n : VNode} : allAcked s n = true ↔ ∀ c ∈ childrenOf s n, c ∈ (vesperAt s n).acks := by
  simp [allAcked]

/-- A node hears the children that report the phase drained now, in a poll begun anew when something moved. -/
def hearChildren (now : List Nat) (v : Vesper) : Vesper :=
  let v := if v.poll = some v.moves then v else { v with poll := some v.moves, drained := [] }
  { v with drained := v.drained ++ now.filter fun c => !v.drained.contains c }

theorem hearChildren_of_none {now : List Nat} {v : Vesper} (h : v.poll = none) :
    hearChildren now v = { v with poll := some v.moves, drained := now } := by
  simp [hearChildren, h]

/-- A device node takes a die's report. -/
def takeReport (d : Nat) (v : Vesper) : Vesper :=
  { v with drained := if v.drained.contains d then v.drained else v.drained ++ [d] }

theorem mem_takeReport_self {d : Nat} {v : Vesper} : d ∈ (takeReport d v).drained := by
  unfold takeReport
  split
  · exact List.contains_iff_mem.mp ‹_›
  · exact List.mem_append_right _ (List.mem_singleton_self d)

theorem mem_takeReport {d e : Nat} {v : Vesper} (h : e ∈ v.drained) : e ∈ (takeReport d v).drained := by
  unfold takeReport
  split
  · exact h
  · exact List.mem_append_left _ h

/-- A die's node after its report. -/
def forgetPoll (v : Vesper) : Vesper := { v with poll := none, drained := [] }

/-- A die after its report. -/
def forgetPollOf (x : Die) : Die := { x with vesper := forgetPoll x.vesper }

theorem forgetPollOf_heard (x : Die) (p : Option Nat) (now : List Nat) :
    forgetPollOf { x with vesper := { x.vesper with poll := p, drained := now } } = forgetPollOf x := rfl

theorem forgetPoll_die (s : State) (d : Nat) : (updVesper s (.die d) forgetPoll).die d = forgetPollOf (s.die d) :=
  setDie_die ..

/-- A die whose poll has begun with its cores' counts of the phase before. -/
def polledDie (s : State) (d : Nat) : State :=
  updVesper s (.die d) (hearChildren (drainedNow s (.die d) (((s.die d).vesper.f + 2 ^ 32 - 1) % 2)))

section
variable (hfc : (s.die d).vesper.f ≠ (s.die d).vesper.c) (hdone : flipDone s (.die d) = true)
include hfc hdone

theorem pollGoes : ¬((vesperAt s (.die d)).f = (vesperAt s (.die d)).c ∨ (!flipDone s (.die d)) = true) := by
  simp [vesperAt, hfc, hdone]

/-- A die whose poll finds a core or a count of its own that is not 0 notes the cores that read 0. -/
theorem drainPoll_notes (hpoll : pollDone (polledDie s d) (.die d) = false) :
    exec (.drainPoll (.die d)) s = .next (polledDie s d) :=
  (if_neg (pollGoes hfc hdone)).trans (if_pos (congrArg (!·) hpoll))

/-- A die whose poll has drained it reports to its device node's poll. -/
theorem drainPoll_reports (hpoll : pollDone (polledDie s d) (.die d) = true)
    (hup : (s.dev (devOfDie s.pkg.mode d)).vesper.poll ≠ none) :
    exec (.drainPoll (.die d)) s = .next
      (updVesper (updVesper (polledDie s d) (.dev (devOfDie s.pkg.mode d)) (takeReport d)) (.die d) forgetPoll) := by
  refine (if_neg (pollGoes hfc hdone)).trans ((if_neg fun h => ?_).trans (if_neg fun h => hup (Option.isNone_iff_eq_none.mp h)))
  exact Bool.false_ne_true ((congrArg (!·) hpoll).symm.trans h)

end

/-- What a report leaves at the device node. -/
theorem reported_dev (s : State) (d k : Nat) :
    ((updVesper (updVesper (polledDie s d) (.dev k) (takeReport d)) (.die d) forgetPoll).dev k).vesper =
      takeReport d (s.dev k).vesper :=
  congrArg Dev.vesper (setDev_dev ..)

theorem polledDie_eq (hpoll : (s.die d).vesper.poll = none) :
    polledDie s d = s.setDie d { s.die d with vesper := { (s.die d).vesper with
      poll := some (s.die d).vesper.moves
      drained := drainedNow s (.die d) (((s.die d).vesper.f + 2 ^ 32 - 1) % 2) } } :=
  congrArg (fun v => s.setDie d { s.die d with vesper := v }) (hearChildren_of_none hpoll)

theorem polledDie_die (hpoll : (s.die d).vesper.poll = none) :
    (polledDie s d).die d = { s.die d with vesper := { (s.die d).vesper with
      poll := some (s.die d).vesper.moves
      drained := drainedNow s (.die d) (((s.die d).vesper.f + 2 ^ 32 - 1) % 2) } } := by
  rw [polledDie_eq hpoll]
  exact setDie_die ..

/-- What a report leaves at the die's node. -/
theorem reported_die (k : Nat) (hpoll : (s.die d).vesper.poll = none) :
    (updVesper (updVesper (polledDie s d) (.dev k) (takeReport d)) (.die d) forgetPoll).die d =
      { s.die d with vesper := forgetPoll (s.die d).vesper } :=
  (forgetPoll_die (updVesper (polledDie s d) (.dev k) (takeReport d)) d).trans
    ((congrArg forgetPollOf (polledDie_die hpoll)).trans (forgetPollOf_heard ..))

theorem ownDrained_die (ph : Nat) : ownDrained s (.die d) ph = decide
    (if ph = 0 then (s.die d).parked0 = 0 ∧ (s.die d).ck0 = 0 else (s.die d).parked1 = 0 ∧ (s.die d).ck1 = 0) := by
  unfold ownDrained
  by_cases h : ph = 0
  · simp only [if_pos h]
  · simp only [if_neg h]

/-- A die's poll has drained it when every core reads 0 and no record or checkpoint of the phase is left. -/
theorem pollDone_polledDie (hpoll : (s.die d).vesper.poll = none) :
    pollDone (polledDie s d) (.die d) = (ownDrained s (.die d) (((s.die d).vesper.f + 2 ^ 32 - 1) % 2) &&
      (List.range 160).all fun j => decide (cntOf s (d * 160 + j) (((s.die d).vesper.f + 2 ^ 32 - 1) % 2) = 0)) := by
  have hall : ((List.range 160).all fun j => (drainedNow s (.die d) (((s.die d).vesper.f + 2 ^ 32 - 1) % 2)).contains j) =
      (List.range 160).all fun j => decide (cntOf s (d * 160 + j) (((s.die d).vesper.f + 2 ^ 32 - 1) % 2) = 0) := by
    rw [Bool.eq_iff_iff]
    simp only [List.all_eq_true, drainedNow, List.contains_eq_mem, List.mem_filter, decide_eq_true_eq]
    exact forall₂_congr fun j hj => and_iff_right hj
  simp only [pollDone, ownDrained, vesperAt, childrenOf, polledDie_die hpoll, hall, decide_true, Bool.true_and]

end

/-! ### A grace period completes (R99) -/

/-- A node's completed period. -/
def complete (c : Nat) (v : Vesper) : Vesper := { v with c := c }

/-- A die completes the period, and its monitors sample how long it took. -/
def completeDie (c : Nat) (s : State) (d : Nat) : State :=
  updVesper (noteSample s d 4 none ((s.die d).cycle - (s.die d).flipAt)) (.die d) (complete c)

theorem completeDie_eq (c : Nat) (s : State) (d : Nat) : ∃ y : Die,
    y = { s.die d with vesper := complete c (s.die d).vesper, monitors := y.monitors } ∧ completeDie c s d = s.setDie d y := by
  unfold completeDie noteSample
  split
  · exact ⟨_, rfl, by simp [updVesper, State.updDie, State.setDie, State.die]; rfl⟩
  · exact ⟨_, rfl, rfl⟩

/-- The completed period of one device's nodes and cores. -/
theorem setComplete_alone (s : State) (k c : Nat) : ∃ dies cores,
    setComplete s [k] c = { updVesper s (.dev k) (complete c) with dies := dies, cores := cores } ∧
    (∀ d ∈ diesOfDev s.pkg.mode k, (setComplete s [k] c).die d =
      { s.die d with vesper := complete c (s.die d).vesper, monitors := ((setComplete s [k] c).die d).monitors }) ∧
    ∀ j ∈ coresOfDev s k, (setComplete s [k] c).core j = { s.core j with c := c } := by
  let s1 := updVesper s (.dev k) (complete c)
  let s2 := (diesOfDev s.pkg.mode k).foldl (completeDie c) s1
  obtain ⟨dies, hs2, hin, -⟩ := foldl_dies (R := fun x y => y = { x with vesper := complete c x.vesper, monitors := y.monitors })
    (completeDie_eq c) (nodup_diesOfDev s.pkg.mode k) s1
  obtain ⟨cores, hcores, hcore⟩ := foldl_updCore (f := fun x : Core => { x with c := c }) (fun _ => rfl) (coresOfDev s2 k) s2
  have hall : setComplete s [k] c = (coresOfDev s2 k).foldl (fun s j => s.updCore j fun x => { x with c := c }) s2 := rfl
  have hs2 : s2 = { s1 with dies := dies } := hs2
  have hcs : coresOfDev s2 k = coresOfDev s k := by rw [hs2]; rfl
  refine ⟨dies, cores, by rw [hall, hcores, hs2], fun d hd => ?_, fun j hj => ?_⟩
  · have hdie : (setComplete s [k] c).die d = s2.die d := by rw [hall, hcores]; rfl
    rw [hdie]
    exact hin d hd
  · rw [hall, hcore j (hcs ▸ hj)]
    obtain ⟨d, hd, hj⟩ := List.mem_flatMap.mp hj
    obtain ⟨i, hi, rfl⟩ := List.mem_map.mp hj
    have hdie : (d * 160 + i) / 160 = d := by have := List.mem_range.mp hi; omega
    have hsame : s2.core (d * 160 + i) = s.core (d * 160 + i) := by
      refine core_congr (by rw [hs2]; rfl) ?_
      rw [hdie]
      rw [show s2.die d = _ from hin d hd]
      rfl
    rw [hsame]

section
variable {s : State} {c d j k : Nat}

theorem flipAdopt_takes (hf : (s.core c).f ≠ (s.die (c / 160)).vesper.f) : exec (.flipAdopt c) s =
    if (s.die (c / 160)).stopped then .next s
    else .next (s.setCore c { s.core c with f := (s.die (c / 160)).vesper.f, phase := (s.die (c / 160)).vesper.f % 2 }) := by
  show execFlipAdopt c s = _
  unfold execFlipAdopt
  cases hstop : (s.die (c / 160)).stopped with
  | true => exact if_pos (.inr hstop)
  | false => exact if_neg (not_or.mpr ⟨hf, fun h => Bool.false_ne_true (hstop.symm.trans h)⟩)

/-- A node hears a child that stands in its list and has the flip. -/
theorem flipAck_hears {n : VNode} (hfc : (vesperAt s n).f ≠ (vesperAt s n).c) (hj : j ∈ childrenOf s n)
    (hnew : j ∉ (vesperAt s n).acks) (hacked : childAcked s n j = true) :
    exec (.flipAck n j) s = .next (ackFar (updVesper s n fun v => { v with acks := v.acks ++ [j] }) n) :=
  if_pos ⟨hfc, by simpa using hj, by simpa using hnew, hacked⟩

theorem ackFar_alone (h : (s.dev k).span = false) : ackFar s (.dev k) = s := by
  simp only [ackFar, farRoot_alone h]

end

/-- A node at the end of a grace period. -/
def endPeriod (c : Nat) (v : Vesper) : Vesper := { v with c := c, poll := none, drained := [] }

theorem gracePeriodComplete_completes {s : State} {k : Nat} (hfc : (s.dev k).vesper.f ≠ (s.dev k).vesper.c)
    (hspan : (s.dev k).span = false)
    (hall : ∀ d ∈ diesOfDev s.pkg.mode k, d ∈ (s.dev k).vesper.acks ∧ d ∈ (s.dev k).vesper.drained)
    (hpoll : (s.dev k).vesper.poll = some (s.dev k).vesper.moves) :
    exec (.gracePeriodComplete k) s =
      .next (setComplete (updVesper s (.dev k) (endPeriod (s.dev k).vesper.f)) [k] (s.dev k).vesper.f) := by
  have hdone : flipDone s (.dev k) = true :=
    (flipDone_alone (by simp) hspan).trans (allAcked_iff.mpr fun d hd => (hall d hd).1)
  have hpolled : pollDone s (.dev k) = true := by
    simpa [pollDone, ownDrained, vesperAt, childrenOf, hpoll] using fun d hd => (hall d hd).2
  show execGracePeriodComplete k s = _
  unfold execGracePeriodComplete
  simp only [isPodRoot_alone hspan, hspan, Bool.false_eq_true, if_false, false_and, vesperAt, hfc, hdone, hpolled,
    membersReached, Bool.not_true, or_self, domainDevs, completeFar]
  rfl

theorem gracePeriods : Parts.GracePeriods := by
  refine ⟨?starts, fun s c hf => flipAdopt_takes hf, ?dieAcks, ?devAcks, ?drains, ?completes⟩
  case starts =>
    intro s k hspan hidle hwants f
    have h := outFar_told s k
    obtain ⟨told, hdev⟩ := h.dev k
    obtain ⟨dies, hsend, hdies⟩ := sendFlip_alone (outFar s k) k f
    refine ⟨_, gracePeriodStart_starts hspan hidle hwants, ?_, ?_, fun d hd => ?_⟩
    · rw [hsend, h.frame]
      rfl
    · rw [hsend]
      exact (congrArg Dev.vesper (setDev_dev ..)).trans (by rw [hdev]; rfl)
    · have h' := hdies d (h.pkg ▸ hd)
      rw [h.die] at h'
      exact h'
  case dieAcks =>
    intro s d j v hfc hj hnew hf
    exact flipAck_hears (n := .die d) hfc (List.mem_range.mpr hj) hnew (decide_eq_true hf)
  case devAcks =>
    intro s k d v hspan hfc hd hnew hf hall
    have hacked : childAcked s (.dev k) d = true :=
      Bool.and_eq_true_iff.mpr ⟨decide_eq_true hf, allAcked_iff.mpr fun j hj => hall j (List.mem_range.mp hj)⟩
    refine (flipAck_hears (n := .dev k) hfc hd hnew hacked).trans (congrArg _ (ackFar_alone ?_))
    exact (congrArg Dev.span (setDev_dev ..)).trans hspan
  case drains =>
    intro s d v k ph hfc hspan hacks hpoll
    have hdone : flipDone s (.die d) = true := (flipDone_alone (by simp) hspan).trans (allAcked_iff.mpr hacks)
    refine ⟨fun ⟨j, hj, hcnt⟩ => ?_, fun hnone hown hup => ?_⟩
    · have hnot : pollDone (polledDie s d) (.die d) = false := by
        rw [pollDone_polledDie hpoll,
          List.all_eq_false.mpr ⟨j, List.mem_range.mpr hj, by rwa [decide_eq_true_eq]⟩, Bool.and_false]
      exact (drainPoll_notes hfc hdone hnot).trans (congrArg _ (polledDie_eq hpoll))
    · have hpolled : pollDone (polledDie s d) (.die d) = true := by
        rw [pollDone_polledDie hpoll, List.all_eq_true.mpr fun j hj => decide_eq_true (hnone j (List.mem_range.mp hj)),
          Bool.and_true, ownDrained_die]
        exact decide_eq_true hown
      refine ⟨_, drainPoll_reports hfc hdone hpolled hup, rfl, ?_, fun e he => ?_, ?_⟩
      · exact reported_dev s d k ▸ mem_takeReport_self
      · exact reported_dev s d k ▸ mem_takeReport he
      · exact reported_die k hpoll
  case completes =>
    intro s k v hfc hspan hall hpoll
    obtain ⟨dies, cores, hset, hdie, hcore⟩ := setComplete_alone (updVesper s (.dev k) (endPeriod v.f)) k v.f
    refine ⟨_, gracePeriodComplete_completes hfc hspan hall hpoll, ?_, ?_, hdie, hcore⟩
    · rw [hset]
      rfl
    · rw [hset]
      have hends := setDev_dev s k { s.dev k with vesper := endPeriod v.f v }
      exact (congrArg Dev.vesper (setDev_dev ..)).trans (congrArg (fun x : Dev => complete v.f x.vesper) hends)

end Sys2Proof.Proofs
end

section
/-! The entries of a retire queue, appended lane by lane and acted on in order (R100 to R102, Table 4.2). -/

namespace Sys2Proof.Proofs

open Sys2Proof.Machine Sys2Proof.Safety

section
variable {s : State} {k : Nat}

theorem physWrite_mem (s : State) (k pa n x : Nat) : ∃ m, physWrite s k pa n x = { s with mem := m } := by
  unfold physWrite
  split
  · exact ⟨_, rfl⟩
  · exact ⟨_, rfl⟩

/-! ### Entries appended (R100, R101) -/

/-- A device whose retire queue has taken these entries. -/
def queued (es : List RetireEntry) (d : Dev) : Dev := { d with rqtotal := d.rqtotal + es.length, retire := d.retire ++ es }

theorem queued_nil (d : Dev) : queued [] d = d := by
  simp [queued]

theorem queued_queued (e : RetireEntry) (es : List RetireEntry) (d : Dev) : queued es (queued [e] d) = queued (e :: es) d := by
  simp only [queued, List.append_assoc, List.singleton_append, List.length_cons, List.length_nil, Nat.add_assoc, Nat.add_comm 1,
    Nat.zero_add]

theorem retireEntry_queued (es : List RetireEntry) (d : Dev) : retireEntry (queued es d) = retireEntry d := rfl

theorem retirePush_eq (s : State) (k : Nat) (e : RetireEntry) : ∃ m, retirePush s k e =
    { s.setDev k (queued [e] (s.dev k)) with mem := m } := by
  obtain ⟨m, hm⟩ := physWrite_mem s k ((s.dev k).rqbase + 32 * ((s.dev k).rqtotal % 2 ^ (s.dev k).rqlog2n)) 32 (retireWords e)
  exact ⟨m, congrArg (fun t : State => t.updDev k (queued [e])) hm⟩

/-- A lane's entry joins the queue and its GSEQ the answer. -/
def appendLane (k space act : Nat) (p : State × List (Nat × Nat)) (o : LaneOp) : State × List (Nat × Nat) :=
  let e := retireEntry (p.1.dev k) space act o
  (retirePush p.1 k e, p.2 ++ [(o.lane, e.gseq)])

theorem appendLanes (k space act : Nat) (os : List LaneOp) : ∀ (t : State) (vs : List (Nat × Nat)),
    ∃ devs mem, os.foldl (appendLane k space act) (t, vs) =
        ({ t with devs := devs, mem := mem }, vs ++ os.map fun o => (o.lane, gseqOf (t.dev k))) ∧
      (os.foldl (appendLane k space act) (t, vs)).1.dev k = queued (os.map (retireEntry (t.dev k) space act)) (t.dev k) := by
  induction os with
  | nil => exact fun t vs => ⟨t.devs, t.mem, by simp, (queued_nil _).symm⟩
  | cons o os ih =>
    intro t vs
    let e := retireEntry (t.dev k) space act o
    obtain ⟨m, hpush⟩ := retirePush_eq t k e
    obtain ⟨devs, mem, hfold, hdev⟩ := ih (retirePush t k e) (vs ++ [(o.lane, e.gseq)])
    have hk : (retirePush t k e).dev k = queued [e] (t.dev k) := by
      rw [hpush]
      exact setDev_dev ..
    rw [hk, retireEntry_queued, queued_queued] at hdev
    refine ⟨devs, mem, hfold.trans (Prod.ext ?_ ?_), hdev⟩
    · rw [hpush]
      rfl
    · rw [hk]
      exact List.append_assoc ..

theorem retireEntryAppend_appends {r : Req} {act : Nat} (h : arrived s r.id = some r) (hkind : r.kind = .retire act)
    (htarget : r.target = .node k) :
    exec (.retireEntryAppend r.id) s = .next (sendBack (r.lanes.foldl (appendLane k r.space act) (takeNet s r.id, [])).1 r
      { values := (r.lanes.foldl (appendLane k r.space act) (takeNet s r.id, [])).2 }) := by
  show execRetireEntryAppend r.id s = _
  unfold execRetireEntryAppend
  simp only [h, hkind, htarget]
  rfl

/-- GSEQ of an entry appended now. -/
theorem gseqOf_eq (d : Dev) : gseqOf d = (d.vesper.f + (if d.span = true ∧ d.rootdev ≠ d.devnum then 2 else 1)) % 2 ^ 32 := by
  unfold gseqOf
  split
  · rfl
  · rfl

end

theorem retireAppends (s : State) (r : Req) (act k : Nat) (h : arrived s r.id = some r) (hkind : r.kind = .retire act)
    (htarget : r.target = .node k) :
    ∃ t, exec (.retireEntryAppend r.id) s = .next t ∧
      t = { s with devs := t.devs, mem := t.mem, net := s.net.filter fun q => decide (q.id ≠ r.id), msgs := t.msgs } ∧
      t.dev k = queued (r.lanes.map (retireEntry (s.dev k) r.space act)) (s.dev k) ∧
      Claims.answered s t r (r.lanes.map fun o => (o.lane, gseqOf (s.dev k))) [] ∧
      ∀ o a, r.lanes = [o] → apOf s k ((s.dev k).rqbase + 32 * ((s.dev k).rqtotal % 2 ^ (s.dev k).rqlog2n)) = some a →
        t.mem = memWriteNat s.mem a 32 (retireWords (retireEntry (s.dev k) r.space act o)) := by
  obtain ⟨devs, mem, hfold, hdev⟩ := appendLanes k r.space act r.lanes (takeNet s r.id) []
  obtain ⟨ms, hback⟩ := sendBack_adds (r.lanes.foldl (appendLane k r.space act) (takeNet s r.id, [])).1 r
    { values := (r.lanes.foldl (appendLane k r.space act) (takeNet s r.id, [])).2 }
  refine ⟨_, retireEntryAppend_appends h hkind htarget, ?_, ?_, ?_, fun o a hone hap => ?_⟩
  · rw [hback, hfold]
    rfl
  · rw [hback]
    exact hdev
  · rw [hfold]
    exact sendBack_answered rfl rfl rfl rfl
  · rw [hback, hone]
    exact congrArg (fun t : State => t.mem) (physWrite_at (s := takeNet s r.id) hap)

/-! ### Entries acted on (R101, R102, Table 4.2) -/

section
variable {s : State} {k : Nat} {e : RetireEntry} {rest : List RetireEntry}

/-- A device whose oldest entry has left its retire queue. -/
def dequeued (d : Dev) : Dev := { d with retire := d.retire.drop 1 }

/-- The record that notifies an entry's end. -/
def retireRecord (sub : Nat) (e : RetireEntry) : FaultRec :=
  { addr := e.addr, launch := 0, space := e.space, core := 0xFFFF, info := e.arg, access := 0, sub := sub, kind := 7,
    entry := some (retireWords e) }

/-- A disabled fault queue takes nothing. -/
theorem fqDrainGo_disabled {s : State} {k : Nat} (h : (s.dev k).fqen = false) (n : Nat) : fqDrainGo s k n = s := by
  cases n with
  | zero => rfl
  | succ n =>
    unfold fqDrainGo
    cases hwait : (s.dev k).fqwait with
    | nil => simp only [hwait]
    | cons r rest => simp only [hwait, h, Bool.not_false, Bool.true_or, if_true]

/-- An entry that is notified waits for room in the fault queue and leaves the retire queue. -/
theorem retireNotify_waits (hretire : (s.dev k).retire = e :: rest) (hfqen : (s.dev k).fqen = false) (sub : Nat) :
    retireNotify s k sub e =
      s.setDev k { s.dev k with fqwait := (s.dev k).fqwait ++ [retireRecord sub e], retire := rest } := by
  have hpost : postFault s k (retireRecord sub e) =
      s.setDev k { s.dev k with fqwait := (s.dev k).fqwait ++ [retireRecord sub e] } := by
    refine fqDrainGo_disabled ?_ _
    exact (congrArg Dev.fqen (setDev_dev ..)).trans hfqen
  show retireNext (postFault s k (retireRecord sub e)) k = _
  rw [hpost]
  unfold retireNext State.updDev
  rw [setDev_dev]
  simp only [hretire, List.drop_one, List.tail_cons, State.setDev, fput_fput]

section
variable (hretire : (s.dev k).retire = e :: rest) (hdone : serialGe (s.dev k).vesper.c e.gseq = true)
include hretire hdone

theorem retireAction_item (h : e.act = 0) : exec (.retireAction k) s = .next (retireQueueItem s k e) := by
  show execRetireAction k s = _
  unfold execRetireAction
  rw [hretire]
  simp only [hdone, h, Bool.not_true, Bool.false_eq_true, if_false, if_true]

theorem retireAction_notifies (h : e.act = 2 ∨ e.act = 3) : exec (.retireAction k) s = .next (retireNotify s k 3 e) := by
  have h0 : e.act ≠ 0 := by omega
  have h1 : e.act ≠ 1 := by omega
  show execRetireAction k s = _
  unfold execRetireAction
  rw [hretire]
  simp only [hdone, h0, h1, Bool.not_true, Bool.false_eq_true, if_false]

theorem retireAction_stores {s1 : State} {pa a : Nat} (h : e.act = 1)
    (hx : awayXlate s k (dieAt s.pkg.mode k 0) none 0 e.space e.arg true 2 = (s1, .ok pa)) (hap : apOf s1 k pa = some a) :
    exec (.retireAction k) s = .next { s1.setDev k (dequeued (s1.dev k)) with mem := memWriteNat s1.mem a 8 1 } := by
  show execRetireAction k s = _
  unfold execRetireAction
  rw [hretire]
  simp only [hdone, h, Bool.not_true, Bool.false_eq_true, if_false, if_true, hx, physWrite_at hap]
  rfl

end

/-! ### An item pushed by an entry (R102) -/

theorem retireQueueItem_bad (h : wqOkDesc (wqDesc s k (e.arg % 4096)) = false ∨
    2 ^ (wqDesc s k (e.arg % 4096)).log2n ≤ wqCount (wqDesc s k (e.arg % 4096))) :
    retireQueueItem s k e = retireNotify s k 0 e := by
  unfold retireQueueItem
  exact if_pos (by simpa using h)

/-- A queue where nobody waits settles as it stands. -/
theorem queueSettle_none {q : Nat} (h : fget (s.dev k).wq q = none) : queueSettle s k q = s := by
  have hlanes : wqLanes s k q = 0 := by
    simp [wqLanes, wqWaiting, h]
  unfold queueSettle
  rw [hlanes]
  rfl

/-- An item at its place in memory, with the queue's new tail. -/
def pushedItem (m : Mem) (a b addr size tail : Nat) : Mem :=
  memWriteNat (memWriteNat (memWriteNat m a 8 addr) (a + 8) 8 size) b 8 tail

theorem pushedItem_reads {m : Mem} {a b addr size tail : Nat} (hwf : memWf m = true) (hab : a + 16 ≤ b ∨ b + 8 ≤ a) :
    memNat (pushedItem m a b addr size tail) a 8 = addr % 256 ^ 8 ∧
      memNat (pushedItem m a b addr size tail) (a + 8) 8 = size % 256 ^ 8 ∧
      memNat (pushedItem m a b addr size tail) b 8 = tail % 256 ^ 8 ∧
      ∀ c, (c < a ∨ a + 16 ≤ c) → (c < b ∨ b + 8 ≤ c) → memRead (pushedItem m a b addr size tail) c = memRead m c := by
  have hitem : memWf (memWriteNat (memWriteNat m a 8 addr) (a + 8) 8 size) = true :=
    memWf_memWriteNat _ _ _ (memWf_memWriteNat _ _ _ hwf)
  have hout := outside_memWriteNat (a := b) (n := 8) (v := tail) hitem
  obtain ⟨haddr, hsize, hrest⟩ := memWriteNat_apart (n := 8) (k := 8) (v := addr) (w := size) hwf (Or.inl (Nat.le_refl (a + 8)))
  refine ⟨?_, ?_, memNat_memWriteNat hitem, fun c hca hcb => ?_⟩
  · exact (memNat_congr fun i hi => hout _ (by omega)).trans haddr
  · exact (memNat_congr fun i hi => hout _ (by omega)).trans hsize
  · exact (hout c hcb).trans (hrest c (by omega) (by omega))

theorem physWrites_item {pa pb a b x y z : Nat} (ha : apOf s k pa = some a) (ha8 : apOf s k (pa + 8) = some (a + 8))
    (hb : apOf s k pb = some b) :
    physWrite (physWrite (physWrite s k pa 8 x) k (pa + 8) 8 y) k pb 8 z = { s with mem := pushedItem s.mem a b x y z } := by
  rw [physWrite_at ha, physWrite_at (s := { s with mem := memWriteNat s.mem a 8 x }) ha8,
    physWrite_at (s := { s with mem := memWriteNat (memWriteNat s.mem a 8 x) (a + 8) 8 y }) hb]
  rfl

theorem retireQueueItem_pushes {s1 : State} {pa a b : Nat} {d : WqDesc} (hd : wqDesc s k (e.arg % 4096) = d)
    (hok : wqOkDesc d = true) (hroom : wqCount d < 2 ^ d.log2n)
    (hx : awayXlate s k (homeCore s k d.at_ / 160) (some (homeCore s k d.at_)) 0 d.space (wqSlot d d.tail) true 2 = (s1, .ok pa))
    (ha : apOf s1 k pa = some a) (ha8 : apOf s1 k (pa + 8) = some (a + 8)) (hb : apOf s1 k (d.at_ + 24) = some b)
    (hwq : fget (s1.dev k).wq (e.arg % 4096) = none) :
    retireQueueItem s k e = { s1.setDev k (dequeued (s1.dev k)) with
      mem := pushedItem s1.mem a b e.addr e.size ((d.tail + 1) % 2 ^ 64) } := by
  have hgo : ¬(!wqOkDesc d || decide (2 ^ d.log2n ≤ wqCount d)) = true := by simp [hok, hroom]
  unfold retireQueueItem
  simp only [hd, if_neg hgo, dieOf, hx, physWrites_item ha ha8 hb]
  exact congrArg (retireNext · k)
    (queueSettle_none (s := { s1 with mem := pushedItem s1.mem a b e.addr e.size ((d.tail + 1) % 2 ^ 64) }) hwq)

end

theorem retireMoves : Parts.RetireMoves := by
  refine ⟨?appends, ?acts⟩
  case appends =>
    intro s r act k h hkind htarget g entry
    have hg : g = gseqOf (s.dev k) := (gseqOf_eq _).symm
    have hentry : entry = retireEntry (s.dev k) r.space act := by
      funext o
      unfold retireEntry
      rw [← hg]
    obtain ⟨t, hexec, hframe, hdev, ⟨-, hanswer⟩, hone⟩ := retireAppends s r act k h hkind htarget
    refine ⟨t, hexec, hframe, ?_, ?_, fun hwg => ?_, fun o a hl hwf hap => ?_⟩
    · rw [hdev, hentry]
      rfl
    · rw [hdev]
      exact congrArg ((s.dev k).rqtotal + ·) (List.length_map _)
    · rw [if_neg hwg] at hanswer
      obtain ⟨n, sr, fl, hmsgs⟩ := hanswer
      exact ⟨_, hmsgs, by rw [hg], rfl, rfl, rfl⟩
    · rw [hone o a hl hap, ← hentry]
      exact ⟨memNat_memWriteNat hwf, outside_memWriteNat hwf⟩
  case acts =>
    intro s k e rest hretire hdone d home
    refine ⟨fun hact hfqen => ?_, fun hact hbad hfqen => ?_, fun s1 pa a hact hx hap hwf => ?_,
      fun s1 pa a b hact hok hroom hx ha ha8 hb hab hwf hwq => ?_⟩
    · exact ⟨retireRecord 3 e,
        (retireAction_notifies hretire hdone hact).trans (congrArg _ (retireNotify_waits hretire hfqen 3)),
        rfl, rfl, rfl, rfl, rfl, nofun⟩
    · rw [retireAction_item hretire hdone hact, retireQueueItem_bad hbad]
      exact ⟨retireRecord 0 e, congrArg _ (retireNotify_waits hretire hfqen 0), rfl, rfl, rfl, rfl, rfl, nofun⟩
    · exact ⟨_, retireAction_stores hretire hdone hact hx hap, memNat_memWriteNat hwf, outside_memWriteNat hwf⟩
    · rw [retireAction_item hretire hdone hact]
      obtain ⟨haddr, hsize, htail, hrest⟩ :=
        pushedItem_reads (addr := e.addr) (size := e.size) (tail := (d.tail + 1) % 2 ^ 64) hwf hab
      exact ⟨_, congrArg _ (retireQueueItem_pushes rfl hok hroom hx ha ha8 hb hwq), haddr, hsize,
        htail.trans (Nat.mod_mod ..), hrest⟩

/-- Settles O42: a grace period flips, drains and completes; a retire queue appends in lane order and acts on its oldest. -/
theorem graceAndRetireMoves : Obligations.GraceAndRetireMoves := ⟨gracePeriods, retireMoves⟩

end Sys2Proof.Proofs
end

section
/-! PREEMPT of a plain workgroup (R104, R384): what it has waiting is withdrawn, and it stops with its units set aside. -/

namespace Sys2Proof.Proofs

open Sys2Proof.Machine Sys2Proof.Safety

/-! ### A workgroup saved alone -/

/-- A workgroup of plain mode that is saved with no other: no persistent launch, no cluster group, no twin. -/
structure SavedAlone (s : State) (g : Nat) (x : Wg) (l : Launch) : Prop where
  wg : fget s.wgs g = some x
  launch : fget s.launches x.launch = some l
  kind : l.rec_.kind = 0
  mode : l.rec_.mode = 0
  cg : x.cg = none
  twin : x.twin = none
  third : x.third = none

section
variable {s : State} {g : Nat} {x : Wg} {l : Launch}

theorem groupOf_alone (hwg : fget s.wgs g = some x) (hcg : x.cg = none) : groupOf s g = [g] := by
  simp only [groupOf, hwg, hcg]

theorem SavedAlone.saveSet (h : SavedAlone s g x l) : saveSet s g = [g] := by
  have hkind : l.rec_.kind ≠ 1 := by rw [h.kind]; decide
  have hset : twinSet s g = [g] := by
    simp only [twinSet, h.wg, groupOf_alone h.wg h.cg, copiesOf, h.twin, h.third, List.filterMap_cons, List.filterMap_nil,
      List.flatMap_cons, List.flatMap_nil, Option.toList_none, List.append_nil]
    exact List.filter_cons_of_pos (by rw [h.wg]; rfl)
  simp only [Machine.saveSet, h.wg, h.launch, if_neg hkind, hset]

theorem SavedAlone.modeOf (h : SavedAlone s g x l) : modeOf s x = 0 := by
  simp only [Machine.modeOf, h.launch, h.mode]

theorem SavedAlone.saveUnits (h : SavedAlone s g x l) : saveUnitsOf s g x =
    (4096 + 2048 * ((wgWarps s x g).map fun p => p.2.base + p.2.ext).sum + x.size + 65535) / 65536 := by
  simp [saveUnitsOf, h.cg]

end

/-! ### What waits at work queues is withdrawn (R274) -/

theorem writeV_rows (k : Core) (sl : Nat) (w : Warp) (d : Nat) (m : Word) (f : Nat → Word) :
    ∃ rows, writeV k sl w d m f = { k with rows := rows } := by
  unfold writeV
  split
  · exact ⟨_, rfl⟩
  · exact ⟨_, rfl⟩

theorem writeGroup_rows (k : Core) (sl : Nat) (w : Warp) (m : Word) (d : Option Nat) (n : Nat) (signed : Bool) (f : Nat → Nat) :
    ∃ rows, writeGroup k sl w m d n signed f = { k with rows := rows } := by
  unfold writeGroup
  split
  · exact ⟨_, rfl⟩
  · split
    · exact writeV_rows ..
    · refine List.foldlRecOn (motive := fun j : Core => ∃ rows, j = { k with rows := rows }) _ _ ⟨_, rfl⟩ ?_
      rintro j ⟨rows, rfl⟩ i -
      exact writeV_rows ..

theorem writeGroup_copies (k : Core) (sl : Nat) (w : Warp) (m : Word) (d : Option Nat) (n : Nat) (signed : Bool) (f : Nat → Nat) :
    (writeGroup k sl w m d n signed f).copies = k.copies := by
  obtain ⟨rows, hrows⟩ := writeGroup_rows k sl w m d n signed f
  rw [hrows]

/-- A workgroup's waiting operations change only queues, that workgroup and its core, which keeps its copy commands. -/
structure Withdrawn (g : Nat) (s t : State) : Prop where
  frame : t = { s with devs := t.devs, wgs := t.wgs, cores := t.cores }
  used : ∀ k, (t.dev k).saveUsed = (s.dev k).saveUsed
  wg : ∀ x, fget s.wgs g = some x → ∃ y, fget t.wgs g = some y ∧ y.core = x.core ∧ y.launch = x.launch
  copies : ∀ c, (t.core c).copies = (s.core c).copies

namespace Withdrawn

section
variable {g : Nat} {s t u : State}

theorem refl (g : Nat) (s : State) : Withdrawn g s s := ⟨rfl, fun _ => rfl, fun x h => ⟨x, h, rfl, rfl⟩, fun _ => rfl⟩

theorem trans (h : Withdrawn g s t) (h' : Withdrawn g t u) : Withdrawn g s u where
  frame := by rw [h'.frame, h.frame]
  used k := (h'.used k).trans (h.used k)
  wg x hx := by
    obtain ⟨y, hy, hcore, hlaunch⟩ := h.wg x hx
    obtain ⟨z, hz, hcore', hlaunch'⟩ := h'.wg y hy
    exact ⟨z, hz, hcore'.trans hcore, hlaunch'.trans hlaunch⟩
  copies c := (h'.copies c).trans (h.copies c)

theorem updWg {f : Wg → Wg} (hf : ∀ x, (f x).core = x.core ∧ (f x).launch = x.launch) (s : State) :
    Withdrawn g s (s.updWg g f) :=
  ⟨rfl, fun _ => rfl, fun x hx => ⟨f x, by rw [State.updWg, fget_fupd_self, hx]; rfl, hf x⟩, fun _ => rfl⟩

theorem setCore {c : Nat} {k : Core} (hk : k.copies = (s.core c).copies) : Withdrawn g s (s.setCore c k) := by
  refine ⟨rfl, fun _ => rfl, fun x hx => ⟨x, hx, rfl, rfl⟩, fun d => ?_⟩
  by_cases hd : d = c
  · rw [hd, setCore_core, hk]
  · rw [setCore_core_other _ _ hd]

theorem setWarp {c sl : Nat} {w : Warp} : Withdrawn g s (s.setWarp c sl w) := setCore rfl

theorem settle {c sl : Nat} : Withdrawn g s (settle s c sl) := by
  unfold Machine.settle
  split
  · exact refl g s
  · exact setWarp

theorem completePend {c sl : Nat} {w : Warp} {p : Pending} : Withdrawn g s (completePend s c sl w p) := by
  unfold Machine.completePend
  cases p.dest with
  | group d n signed => exact (setCore (writeGroup_copies ..)).trans setWarp
  | scalar d => exact setWarp

/-- A request of the workgroup goes from those it has left. -/
theorem again (s : State) (g id : Nat) :
    Withdrawn g s (extAgain (s.updWg g fun x => { x with left := x.left.filter fun q => decide (q.id ≠ id) }) g) := by
  refine (updWg ?_ s).trans (updWg ?_ _) <;> exact fun _ => ⟨rfl, rfl⟩

theorem withdrawPop (s : State) (r : Req) : Withdrawn r.wg s (withdrawPop s r) := by
  unfold Machine.withdrawPop
  cases fget s.wgs r.wg with
  | none => exact refl ..
  | some x =>
    dsimp only
    refine (again s r.wg r.id).trans ?_
    generalize extAgain _ _ = t
    split
    · exact refl ..
    · split
      · exact refl ..
      · have hgot (p : Pending) : Withdrawn r.wg t (if p.got ≠ [] then
            t.updWg r.wg fun x => { x with ck := { x.ck with popped := decide (modeOf t x ≠ 0) } } else t) := by
          split
          · refine updWg ?_ t
            exact fun _ => ⟨rfl, rfl⟩
          · exact refl ..
        split
        · exact (hgot _).trans (completePend.trans settle)
        · exact (hgot _).trans (setWarp.trans settle)

theorem withdrawPush (s : State) (r : Req) : Withdrawn r.wg s (withdrawPush s r) := by
  unfold Machine.withdrawPush
  cases fget s.wgs r.wg with
  | none => exact refl ..
  | some x =>
    dsimp only
    split
    · refine updWg ?_ s
      exact fun _ => ⟨rfl, rfl⟩
    · refine (again s r.wg r.id).trans ?_
      split
      · exact refl ..
      · split
        · exact setWarp.trans settle
        · exact refl ..

/-- A device's queues without what a workgroup has waiting there. -/
def keptQueues (g : Nat) (kept : Req → Bool) (d : Dev) : Dev :=
  let keep (rs : List Req) := rs.filter fun r => decide (r.wg ≠ g) || kept r
  { d with wq := d.wq.map fun q => (q.1, { pops := keep q.2.pops, pushes := keep q.2.pushes }) }

theorem withdrawWq (s : State) (g : Nat) (kept : Req → Bool) : Withdrawn g s (withdrawWq s g kept) := by
  refine ⟨rfl, fun k => ?_, fun x h => ⟨x, h, rfl, rfl⟩, fun _ => rfl⟩
  have hdev : fget (Machine.withdrawWq s g kept).devs k = (fget s.devs k).map (keptQueues g kept) :=
    fget_map s.devs (fun _ => keptQueues g kept) k
  rw [State.dev, State.dev, hdev]
  cases fget s.devs k <;> rfl

theorem withdrawWaiting (s : State) (g : Nat) : Withdrawn g s (withdrawWaiting s g) := by
  refine List.foldlRecOn (motive := Withdrawn g s) _ _ (withdrawWq s g _) fun t ht r hr => ht.trans ?_
  obtain rfl : r.wg = g := of_decide_eq_true (List.mem_filter.mp hr).2
  split
  · exact withdrawPop t r
  · exact withdrawPush t r

theorem withdrawRegacq (s : State) (g : Nat) : Withdrawn g s (withdrawRegacq s g) := by
  unfold Machine.withdrawRegacq
  split
  · exact refl ..
  · exact setCore rfl

end

end Withdrawn

/-! ### PREEMPT -/

section
variable {s : State} {g : Nat} {x : Wg} {l : Launch}

/-- Without a running round nothing of a workgroup is squashed. -/
theorem squashAll_none (hwg : fget s.wgs g = some x)
    (hrounds : ∀ p ∈ (s.core x.core).warps, p.2.wg = g → p.2.round.st ≠ .running ∧ p.2.round.ist ≠ .speculative) :
    squashAll s g = s := by
  have hheads : roundHeads s g x = [] := by
    simp only [roundHeads, wgWarps, List.map_eq_nil_iff, List.filter_eq_nil_iff, List.mem_filter, decide_eq_true_eq]
    exact fun p ⟨hp, hg⟩ ⟨hst, _⟩ => (hrounds p hp hg).1 hst
  simp only [squashAll, hwg, hheads, List.foldl_nil]

theorem squashReady_none
    (hrounds : ∀ p ∈ (s.core x.core).warps, p.2.wg = g → p.2.round.st ≠ .running ∧ p.2.round.ist ≠ .speculative) :
    squashReady s g x = true := by
  have hspec : (wgWarps s x g).filter (fun p => decide (p.2.round.ist = .speculative)) = [] := by
    simp only [wgWarps, List.filter_eq_nil_iff, List.mem_filter, decide_eq_true_eq]
    exact fun p ⟨hp, hg⟩ hist => (hrounds p hp hg).2 hist
  simp only [squashReady, hspec, List.length_nil, gensReady]

/-- A workgroup without copy commands has none under HOLD to end. -/
theorem endHolds_none (hwg : fget s.wgs g = some x) (hcopies : (s.core x.core).copies = []) :
    endHolds s g = s.setCore x.core (s.core x.core) := by
  simp only [endHolds, hwg, State.updCore, copies_none hcopies]
  exact copyResume_none (by rw [setCore_core, hcopies])

end

/-- A workgroup as it stops for its save. -/
def stopFor (s : State) (units : Nat) (y : Wg) : Wg :=
  { y with
    phase := .stopping
    saveUnits := units
    ck := { y.ck with
      pendingSave := decide (modeOf s y ≠ 0)
      extAt := if y.ck.extBusy then y.ck.extAt else 0
      ready := y.ck.ready && y.ck.extBusy } }

/-- A workgroup stops, with the units of its device's save pool set aside. -/
def stoppedFor (s : State) (g k units : Nat) : State :=
  (s.updDev k fun d => { d with saveUsed := d.saveUsed + units }).updWg g (stopFor s units)

theorem stoppedFor_used (s : State) (g k units : Nat) :
    ((stoppedFor s g k units).dev k).saveUsed = (s.dev k).saveUsed + units :=
  congrArg Dev.saveUsed (setDev_dev ..)

theorem preempts {s : State} {g : Nat} {x : Wg} {l : Launch} (h : SavedAlone s g x l) (hphase : x.phase = .resident)
    (hrestoring : x.ck.restoring = false) (hcopies : (s.core x.core).copies = [])
    (hrounds : ∀ p ∈ (s.core x.core).warps, p.2.wg = g → p.2.round.st ≠ .running ∧ p.2.round.ist ≠ .speculative)
    (hroom : (s.dev (devOfCore s x.core)).saveUsed + saveUnitsOf s g x ≤ (s.dev (devOfCore s x.core)).savesize) :
    ∃ t y, exec (.preempt g) s = .next t ∧ t.mem = s.mem ∧ fget t.wgs g = some y ∧ y.phase = .stopping ∧
      y.saveUnits = saveUnitsOf s g x ∧
      (t.dev (devOfCore s x.core)).saveUsed = (s.dev (devOfCore s x.core)).saveUsed + saveUnitsOf s g x := by
  have hexec : exec (.preempt g) s = .next (preemptOne s g) := by
    show execPreempt g s = _
    unfold execPreempt
    simp only [h.saveSet, List.filter_cons, List.filter_nil, h.wg, reduceCtorEq, ne_eq, not_false_eq_true,
      List.foldl_cons, List.foldl_nil, squashAll_none h.wg hrounds, allWgs, List.all_cons, List.all_nil,
      squashReady_none hrounds, hphase, hrestoring, List.filterMap_cons, List.filterMap_nil, Option.map_some, List.sum_cons,
      List.sum_nil, Nat.add_zero, hroom, decide_true, Bool.not_false, Bool.and_true, if_true]
  let t := Machine.withdrawRegacq (Machine.withdrawWaiting s g) g
  have ht : Withdrawn g s t :=
    (Withdrawn.withdrawWaiting s g).trans (Withdrawn.withdrawRegacq _ g)
  obtain ⟨y, hy, hcore, -⟩ := ht.wg x h.wg
  have hk : devOfCore t x.core = devOfCore s x.core := by rw [ht.frame]; rfl
  have hstopped : fget (stoppedFor t g (devOfCore t x.core) (saveUnitsOf s g x)).wgs g =
      some (stopFor t (saveUnitsOf s g x) y) :=
    (fget_fupd_self ..).trans (congrArg (Option.map (stopFor t (saveUnitsOf s g x))) hy)
  have hone : preemptOne s g = (stoppedFor t g (devOfCore t x.core) (saveUnitsOf s g x)).setCore x.core (t.core x.core) := by
    have hmode : modeOf (stoppedFor t g (devOfCore t x.core) (saveUnitsOf s g x)) x = 0 := by
      have hlaunches : t.launches = s.launches := by rw [ht.frame]
      rw [← h.modeOf]
      exact congrArg (fun m : FMap Launch => match fget m x.launch with | some l => l.rec_.mode | none => 0) hlaunches
    simp only [preemptOne, h.wg, squashAll_none h.wg hrounds]
    have hycore : (stopFor t (saveUnitsOf s g x) y).core = x.core := hcore
    refine (if_pos hmode).trans ((endHolds_none hstopped ?_).trans ?_)
    · rw [hycore]
      exact (ht.copies x.core).trans hcopies
    · rw [hycore]
      rfl
  rw [hone] at hexec
  refine ⟨_, _, hexec, ?_, hstopped, rfl, rfl, ?_⟩
  · show t.mem = s.mem
    rw [ht.frame]
  · rw [← ht.used, ← hk]
    exact stoppedFor_used t g _ _

end Sys2Proof.Proofs
end

section
/-! CONTEXT_SAVE of a plain workgroup (R104, R116): its image holds its warps with their valid rows and granules. -/

namespace Sys2Proof.Proofs

open Sys2Proof.Machine Sys2Proof.Safety

/-! ### What an image holds (R116, Table 7.2) -/

theorem rising_core {s : State} (h : orderedMaps s = true) (c : Nat) : risingFrom 0 (s.core c).warps = true := by
  simp only [orderedMaps, Bool.and_eq_true, List.all_eq_true] at h
  unfold State.core
  split
  · exact h.2 _ (mem_of_fget ‹_›)
  · rfl

/-- Numbered parts of a range, those that pass a test. -/
def numbered {α : Type} (p : Nat → Prop) [DecidablePred p] (f : Nat → α) (lo n : Nat) : FMap α :=
  (List.range' lo n).filterMap fun i => if p i then some (i, f i) else none

section
variable {α : Type} {p : Nat → Prop} [DecidablePred p] {f : Nat → α}

theorem rising_numbered (n : Nat) : ∀ lo, risingFrom lo (numbered p f lo n) = true := by
  induction n with
  | zero => exact fun _ => rfl
  | succ n ih =>
    intro lo
    unfold numbered at ih ⊢
    rw [List.range'_succ, List.filterMap_cons]
    by_cases h : p lo
    · simpa [h, risingFrom] using ih (lo + 1)
    · simpa [h] using rising_mono (Nat.le_succ lo) (ih (lo + 1))

theorem mem_numbered {lo n i : Nat} {x : α} : (i, x) ∈ numbered p f lo n ↔ i ∈ List.range' lo n ∧ p i ∧ x = f i := by
  simp only [numbered, List.mem_filterMap]
  constructor
  · rintro ⟨j, hj, h⟩
    split at h
    · rename_i hp
      obtain ⟨rfl, rfl⟩ := Prod.mk.inj (Option.some.inj h)
      exact ⟨hj, hp, rfl⟩
    · cases h
  · rintro ⟨hi, hp, rfl⟩
    exact ⟨i, hi, if_pos hp⟩

theorem fget_numbered {n i : Nat} {x : α} : fget (numbered p f 0 n) i = some x ↔ i < n ∧ p i ∧ x = f i := by
  have hmem : fget (numbered p f 0 n) i = some x ↔ (i, x) ∈ numbered p f 0 n :=
    ⟨mem_of_fget, fun h => fget_of_mem (rising_numbered n 0) h⟩
  rw [hmem, mem_numbered, List.mem_range'_1]
  simp only [Nat.zero_le, Nat.zero_add, true_and]

end

section
variable {k : Core} {s : State} {g c sl r n base size gen : Nat} {x : Wg} {w : Warp}

/-- A captured granule is a valid one of the range. -/
theorem fget_validGrans {bs : List Byte} : fget (validGrans k base size gen) n = some bs ↔
    n < (size + 63) / 64 ∧ granTag k (base / 64 + n) = gen ∧ bs = memBytes k.data (base + 64 * n) 64 := by
  have h : validGrans k base size gen = numbered (fun i => granTag k (base / 64 + i) = gen)
      (fun i => memBytes k.data (base + 64 * i) 64) 0 ((size + 63) / 64) := by
    rw [numbered, ← List.range_eq_range']
    rfl
  rw [h, fget_numbered]

/-- A captured row is a valid one of the warp. -/
theorem mem_validRows {sl' : Nat} {data : List Word} : (sl', r, data) ∈ validRows k sl w ↔
    sl' = sl ∧ r < 16 * (w.base + w.ext) ∧ (rowAt k (rowKey sl w r)).tag = rowGen w r ∧ data = (rowAt k (rowKey sl w r)).data := by
  simp only [validRows, List.mem_filterMap, List.mem_range]
  constructor
  · rintro ⟨i, hi, h⟩
    split at h
    · rename_i htag
      obtain ⟨rfl, hrow⟩ := Prod.mk.inj (Option.some.inj h)
      obtain ⟨rfl, rfl⟩ := Prod.mk.inj hrow
      exact ⟨rfl, hi, htag, rfl⟩
    · cases h
  · rintro ⟨rfl, hr, htag, rfl⟩
    exact ⟨r, hr, if_pos htag⟩

section
variable (hphase : x.phase ≠ .ended)
include hphase

theorem captureWg_grans : (captureWg s g x).grans = validGrans (s.core x.core) x.base x.size x.gen := by
  simp only [captureWg, if_neg hphase]

/-- A captured warp is one of the workgroup's, as an image keeps it. -/
theorem captureWg_warp (hm : risingFrom 0 (s.core x.core).warps = true) (hw : s.warp? x.core sl = some w) (hg : w.wg = g) :
    fget (captureWg s g x).warps sl = some (savedWarp x (s.core x.core).cycle w) := by
  simp only [captureWg, if_neg hphase, wgWarps]
  rw [fget_map _ (fun _ => savedWarp x (s.core x.core).cycle), fget_filter hm, show fget (s.core x.core).warps sl = some w from hw]
  simp [Option.filter, hg]

/-- A captured row of a warp of the workgroup is a valid one of it. -/
theorem mem_captureWg_rows {data : List Word} (hm : risingFrom 0 (s.core x.core).warps = true) (hw : s.warp? x.core sl = some w)
    (hg : w.wg = g) : (sl, r, data) ∈ (captureWg s g x).rows ↔ r < 16 * (w.base + w.ext) ∧
      (rowAt (s.core x.core) (rowKey sl w r)).tag = rowGen w r ∧ data = (rowAt (s.core x.core) (rowKey sl w r)).data := by
  simp only [captureWg, if_neg hphase, wgWarps, List.mem_flatMap, List.mem_filter, decide_eq_true_eq]
  constructor
  · rintro ⟨p, ⟨hp, -⟩, h⟩
    obtain ⟨rfl, hrow⟩ := mem_validRows.mp h
    obtain rfl : p.2 = w := Option.some.inj ((fget_of_mem hm hp).symm.trans hw)
    exact hrow
  · exact fun h => ⟨(sl, w), ⟨mem_of_fget hw, hg⟩, mem_validRows.mpr ⟨rfl, h⟩⟩

end

/-- A quiet warp in its image keeps everything but its entries' waits, its hold and its round. -/
theorem savedWarp_quiet {cycle : Nat} (h : w.pend = []) : savedWarp x cycle w = { w with
    frontier := (savedWarp x cycle w).frontier, held := (savedWarp x cycle w).held, hold := (savedWarp x cycle w).hold
    pend := [], waitCount := 0, lastIssue := 0, round := (savedWarp x cycle w).round } := by
  simp [savedWarp, h]

theorem savedWarp_frontier {cycle : Nat} :
    (savedWarp x cycle w).frontier.map (fun e => (e.pc, e.mask)) = w.frontier.map fun e => (e.pc, e.mask) := by
  simp only [savedWarp, List.map_map]
  rfl

end

/-! ### The warps of a saved workgroup leave their core -/

section
variable {s : State} {c g : Nat}

/-- State t is state s without the warps of some slots of a core. -/
structure Stripped (c : Nat) (slots : List Nat) (s t : State) : Prop where
  frame : ∃ cores, t = { s with cores := cores }
  rising : risingFrom 0 (t.core c).warps = true
  warps : ∀ p ∈ (t.core c).warps, p ∈ (s.core c).warps ∧ p.1 ∉ slots

theorem dropWarp_stripped (hm : risingFrom 0 (s.core c).warps = true) (sl : Nat) : Stripped c [sl] s (dropWarp s c sl) := by
  unfold dropWarp
  cases hw : s.warp? c sl with
  | none =>
    refine ⟨⟨_, rfl⟩, hm, fun p hp => ⟨hp, fun hsl => ?_⟩⟩
    rw [← List.mem_singleton.mp hsl, State.warp?, fget_of_mem hm hp] at hw
    cases hw
  | some w =>
    refine ⟨⟨_, rfl⟩, ?_, ?_⟩
    · rw [updCore_core]
      exact rising_fdel hm
    · rw [updCore_core]
      exact fun p hp => ⟨(mem_fdel hm hp).1, fun hsl => (mem_fdel hm hp).2 (List.mem_singleton.mp hsl)⟩

theorem dropWarps_stripped (slots : List Nat) : ∀ {s : State}, risingFrom 0 (s.core c).warps = true →
    Stripped c slots s (slots.foldl (fun s sl => dropWarp s c sl) s) := by
  induction slots with
  | nil => exact fun hm => ⟨⟨_, rfl⟩, hm, fun p hp => ⟨hp, nofun⟩⟩
  | cons sl slots ih =>
    intro s hm
    obtain ⟨⟨cores, hframe⟩, hrising, hwarps⟩ := dropWarp_stripped hm sl
    obtain ⟨⟨cores', hframe'⟩, hrising', hwarps'⟩ := ih hrising
    refine ⟨⟨cores', hframe'.trans (by rw [hframe])⟩, hrising', fun p hp => ?_⟩
    obtain ⟨hp', hnot⟩ := hwarps' p hp
    obtain ⟨hp'', hnot'⟩ := hwarps p hp'
    exact ⟨hp'', fun h => (List.mem_cons.mp h).elim (fun h => hnot' (h ▸ List.mem_singleton_self _)) hnot⟩

/-- A stripped workgroup has no warp left in its core, and the others stand as they did. -/
theorem stripWarps_leaves {x : Wg} (hwg : fget s.wgs g = some x) (hm : risingFrom 0 (s.core x.core).warps = true) :
    (∃ cores, stripWarps s g = { s with cores := cores }) ∧
      ∀ sl w, (stripWarps s g).warp? x.core sl = some w → w.wg ≠ g ∧ s.warp? x.core sl = some w := by
  obtain ⟨⟨cores, hframe⟩, -, hwarps⟩ := dropWarps_stripped (wgSlots (s.core x.core) g) hm
  simp only [stripWarps, hwg]
  refine ⟨?_, fun sl w hw => ?_⟩
  · rw [hframe]
    exact ⟨_, rfl⟩
  · rw [State.warp?, updCore_core] at hw
    obtain ⟨hmem, hslot⟩ := hwarps _ (mem_of_fget hw)
    refine ⟨fun hg => hslot ?_, fget_of_mem hm hmem⟩
    exact List.mem_map.mpr ⟨_, List.mem_filter.mpr ⟨hmem, decide_eq_true hg⟩, rfl⟩

end

/-! ### CONTEXT_SAVE -/

/-- A core reads the same beside a change of a die that keeps its clock. -/
theorem updDie_core {s : State} {d : Nat} {f : Die → Die} (hf : ∀ x, (f x).cycle = x.cycle) (c : Nat) :
    (s.updDie d f).core c = s.core c := by
  refine core_congr rfl ?_
  by_cases hd : c / 160 = d
  · rw [hd, updDie_die, hf]
  · exact congrArg Die.cycle (setDie_die_other s _ hd)

theorem addMove_core (s : State) (d c : Nat) : (addMove s d).core c = s.core c := by
  refine updDie_core ?_ c
  exact fun _ => rfl

section
variable {s : State} {g : Nat} {x : Wg} {l : Launch}

/-- With nothing waiting at work queues, only the queues' lists are gone over. -/
theorem withdrawWaiting_none (h : ∀ p ∈ s.devs, ∀ q ∈ p.2.wq, ∀ r ∈ q.2.pops ++ q.2.pushes, r.wg ≠ g) :
    withdrawWaiting s g = withdrawWq s g fun _ => false := by
  have hmine : (s.devs.flatMap fun p => p.2.wq.flatMap fun q => q.2.pops ++ q.2.pushes).filter
      (fun r => decide (r.wg = g)) = [] := by
    simp only [List.filter_eq_nil_iff, List.mem_flatMap, decide_eq_true_eq]
    exact fun r ⟨p, hp, q, hq, hr⟩ => h p hp q hq r hr
  simp only [withdrawWaiting, hmine, List.foldl_nil]

theorem saveReady_alone (h : SavedAlone s g x l) (hphase : x.phase = .stopping) (hcopies : (s.core x.core).copies = [])
    (hquiet : ∀ p ∈ wgWarps s x g, p.2.pend = [] ∧ ∀ t ∈ p.2.tokens, t.count = 0) : saveReady s g x = true := by
  have hwarps : (wgWarps s x g).all (fun p => p.2.pend.isEmpty && p.2.tokens.all fun t => decide (t.count = 0)) = true := by
    refine List.all_eq_true.mpr fun p hp => ?_
    obtain ⟨hpend, htokens⟩ := hquiet p hp
    simpa [hpend] using htokens
  simp [saveReady, hphase, hwarps, hcopies, h.modeOf, h.cg]

/-- A workgroup saved under its image. -/
def savedAs (im : WgImage) (x : Wg) : Wg := { x with phase := .saved, image := some im }

/-- Saving one workgroup captures it and takes its warps from its core. -/
theorem saveOne_saves (hwg : fget s.wgs g = some x) (hm : risingFrom 0 (s.core x.core).warps = true) :
    (saveOne s g).mem = s.mem ∧ fget (saveOne s g).wgs g = some (savedAs (captureWg s g x) x) ∧
      ∀ sl w, (saveOne s g).warp? x.core sl = some w → w.wg ≠ g ∧ s.warp? x.core sl = some w := by
  let s1 := s.updDie (dieOf x.core) fun y => { y with
    parked0 := y.parked0 + imageSections (captureWg s g x) 0, parked1 := y.parked1 + imageSections (captureWg s g x) 1 }
  have hcore : s1.core x.core = s.core x.core := by
    refine updDie_core ?_ _
    exact fun _ => rfl
  obtain ⟨⟨cores, hframe⟩, hleft⟩ := stripWarps_leaves (s := s1) hwg (hcore.symm ▸ hm)
  have hone : saveOne s g = (addMove (stripWarps s1 g) (dieOf x.core)).updWg g (savedAs (captureWg s g x)) := by
    simp only [saveOne, hwg]
    rfl
  refine ⟨?_, ?_, fun sl w hw => ?_⟩
  · rw [hone, hframe]
    rfl
  · rw [hone, hframe]
    exact (fget_fupd_self ..).trans (congrArg (Option.map (savedAs (captureWg s g x))) hwg)
  · have hin : (stripWarps s1 g).warp? x.core sl = some w := by
      rw [State.warp?, ← addMove_core _ (dieOf x.core)]
      rwa [hone] at hw
    obtain ⟨hne, hw'⟩ := hleft sl w hin
    exact ⟨hne, by rwa [State.warp?, hcore] at hw'⟩

/-- A quiet workgroup that has stopped is saved as it stands. -/
theorem contextSave_saves (h : SavedAlone s g x l) (hphase : x.phase = .stopping) (hcopies : (s.core x.core).copies = [])
    (hquiet : ∀ p ∈ wgWarps s x g, p.2.pend = [] ∧ ∀ t ∈ p.2.tokens, t.count = 0)
    (hqueues : ∀ p ∈ s.devs, ∀ q ∈ p.2.wq, ∀ r ∈ q.2.pops ++ q.2.pushes, r.wg ≠ g)
    (hordered : orderedMaps s = true) :
    exec (.contextSave g) s = .next (saveOne ((withdrawWq s g fun _ => false).setCore x.core (s.core x.core)) g) := by
  let t := (withdrawWq s g fun _ => false).setCore x.core (s.core x.core)
  have ht : SavedAlone t g x l := { h with }
  have hcore : t.core x.core = s.core x.core := setCore_core ..
  have hm : risingFrom 0 (t.core x.core).warps = true := hcore ▸ rising_core hordered _
  have hends : endHolds (withdrawWaiting s g) g = t := by
    rw [withdrawWaiting_none hqueues]
    exact endHolds_none h.wg hcopies
  have hready : saveReady t g x = true := by
    refine saveReady_alone ht hphase (by rw [hcore, hcopies]) ?_
    rw [wgWarps, hcore]
    exact hquiet
  have hended : saveEnded t g = t := by
    simp only [saveEnded, ht.wg, hphase, reduceCtorEq, false_and, if_false]
  have hleaves : leaveCluster (saveOne t g) g = saveOne t g := by
    obtain ⟨-, hsaved, -⟩ := saveOne_saves ht.wg hm
    simp only [leaveCluster, hsaved, savedAs, h.cg, Option.isSome_none, Bool.false_eq_true, if_false]
  show execContextSave g s = _
  unfold execContextSave
  simp only [h.saveSet, List.filter_cons, List.filter_nil, h.wg, hphase, reduceCtorEq, ne_eq, not_false_eq_true, decide_true,
    if_true, List.isEmpty_cons, Bool.not_false, allWgs, List.all_cons, List.all_nil, Bool.and_true, List.foldl_cons,
    List.foldl_nil, hends, ht.wg, hready, Bool.not_true, Bool.or_self, Bool.false_eq_true, if_false, ht.saveSet, hended, hleaves]
  rfl


end

end Sys2Proof.Proofs
end

section
/-! CONTEXT_RESTORE of a plain workgroup (R33, R113, R116): its warps take free slots and blocks and read the rows of the image. -/

namespace Sys2Proof.Proofs

open Sys2Proof.Machine Sys2Proof.Safety

/-! ### A place for a warp of an image (R33) -/

theorem freeSlots_free {k : Core} {q sl : Nat} (h : sl ∈ freeSlots k q) : sl ∉ usedSlots k ∧ quadOf sl = q := by
  obtain ⟨hmem, hfree⟩ := List.mem_filter.mp h
  obtain ⟨i, hi, rfl⟩ := List.mem_map.mp hmem
  refine ⟨by simpa using hfree, ?_⟩
  simp only [quadOf, Config.slotsPerQuad, List.mem_range] at hi ⊢
  omega

theorem freeBlocks_free {k : Core} {q b : Nat} (h : b ∈ freeBlocks k q) : b < 24 ∧ b ∉ usedBlocks k q := by
  obtain ⟨hlt, hfree⟩ := List.mem_filter.mp h
  exact ⟨List.mem_range.mp hlt, by simpa using hfree⟩

/-- A free slot of a core with so many free blocks of its quadrant. -/
structure FreePlace (k : Core) (need sl : Nat) (blocks : List Nat) : Prop where
  slot : sl ∉ usedSlots k
  length : blocks.length = need
  nodup : blocks.Nodup
  blocks : ∀ b ∈ blocks, b < 24 ∧ b ∉ usedBlocks k (quadOf sl)

theorem placeFor_free {k : Core} {old sl : Nat} {w : Warp} {blocks : List Nat} (h : placeFor k old w = some (sl, blocks)) :
    FreePlace k (w.base + w.ext) sl blocks := by
  obtain ⟨q, -, hq⟩ := List.exists_of_findSome?_eq_some h
  dsimp only at hq
  split at hq
  · rename_i sl' hslot
    have hmem : sl' ∈ freeSlots k q := by
      split at hslot
      · rename_i hold
        obtain rfl := Option.some.inj hslot
        exact List.contains_iff_mem.mp hold
      · exact List.mem_of_mem_head? hslot
    split at hq
    · rename_i hlen
      obtain ⟨rfl, rfl⟩ := Prod.mk.inj (Option.some.inj hq)
      obtain ⟨hfree, hquad⟩ := freeSlots_free hmem
      refine ⟨hfree, by rw [List.length_take, Nat.min_eq_left hlen], ?_, fun b hb => ?_⟩
      · exact (List.nodup_range.filter _).sublist (List.take_sublist ..)
      · rw [hquad]
        exact freeBlocks_free (List.mem_of_mem_take hb)
    · cases hq
  · cases hq

/-! ### Rows of an image in a core -/

section
variable {k : Core} {sl r r' key : Nat} {w : Warp} {data : List Word}

/-- The registers of a warp's blocks stand in rows of their own. -/
theorem rowKey_inj (hnodup : w.blocks.Nodup) (hr : r < 16 * w.blocks.length) (hr' : r' < 16 * w.blocks.length)
    (h : rowKey sl w r = rowKey sl w r') : r = r' := by
  have hi : r / 16 < w.blocks.length := by omega
  have hi' : r' / 16 < w.blocks.length := by omega
  unfold rowKey at h
  have hblock : w.blocks.getD (r / 16) 0 = w.blocks.getD (r' / 16) 0 := by omega
  rw [List.getD_eq_getElem _ _ hi, List.getD_eq_getElem _ _ hi'] at hblock
  have := (hnodup.getElem_inj_iff (hi := hi) (hj := hi')).mp hblock
  omega

theorem installRows_cons (k : Core) (sl : Nat) (w : Warp) (p : Nat × Nat × List Word) (rs : List (Nat × Nat × List Word)) :
    installRows k sl w (p :: rs) = installRows { k with
      rows := fput k.rows (rowKey sl w p.2.1) { tag := rowGen w p.2.1, data := p.2.2, dirty := false } } sl w rs := rfl

/-- Rows installed leave the others. -/
theorem rowAt_installRows_other (rs : List (Nat × Nat × List Word)) : ∀ {k : Core},
    (∀ p ∈ rs, key ≠ rowKey sl w p.2.1) → rowAt (installRows k sl w rs) key = rowAt k key := by
  induction rs with
  | nil => exact fun _ => rfl
  | cons p rs ih =>
    intro k h
    rw [installRows_cons, ih fun q hq => h q (List.mem_cons_of_mem _ hq)]
    simp only [rowAt, fget_fput_other _ _ (h p List.mem_cons_self)]

/-- A row installed is read under its warp's generation. -/
theorem rowAt_installRows {rs : List (Nat × Nat × List Word)} (hnodup : (rs.map fun p => rowKey sl w p.2.1).Nodup)
    {p : Nat × Nat × List Word} (hp : p ∈ rs) : ∀ {k : Core},
    rowAt (installRows k sl w rs) (rowKey sl w p.2.1) = { tag := rowGen w p.2.1, data := p.2.2, dirty := false } := by
  induction rs with
  | nil => cases hp
  | cons q rs ih =>
    intro k
    obtain ⟨hnot, hnodup⟩ := List.nodup_cons.mp hnodup
    rw [installRows_cons]
    rcases List.mem_cons.mp hp with rfl | hp
    · rw [rowAt_installRows_other rs fun q hq heq => hnot (List.mem_map.mpr ⟨q, hq, heq.symm⟩)]
      simp only [rowAt, fget_fput_same, Option.getD_some]
    · exact ih hnodup hp

theorem installRows_rows (rs : List (Nat × Nat × List Word)) :
    ∀ k : Core, ∃ rows, installRows k sl w rs = { k with rows := rows } := by
  induction rs with
  | nil => exact fun k => ⟨k.rows, rfl⟩
  | cons p rs ih => exact fun k => ih _

theorem installGrans_eq (base gen : Nat) (gs : FMap (List Byte)) : ∀ k : Core,
    ∃ tags data, installGrans k base gen gs = { k with tags := tags, data := data } := by
  induction gs with
  | nil => exact fun k => ⟨k.tags, k.data, rfl⟩
  | cons p gs ih => exact fun k => ih _

theorem enterSections_eq (k : Core) (w : Warp) : ∃ cnt0 cnt1, enterSections k w = { k with cnt0 := cnt0, cnt1 := cnt1 } :=
  ⟨_, _, rfl⟩

end

/-! ### A warp put back -/

/-- A warp of an image as it stands in a slot of a core: its registers, and the rows of the image under new generations. -/
structure Restored (im : WgImage) (g : Nat) (k : Core) (old : Nat) (w : Warp) (sl : Nat) (v : Warp) : Prop where
  place : fget k.warps sl = some v
  wg : v.wg = g
  idx : v.idx = w.idx
  live : v.live = w.live
  sregs : v.sregs = w.sregs
  preds : v.preds = w.preds
  length : v.blocks.length = w.base + w.ext
  blocks : ∀ b ∈ v.blocks, b < 24
  reads : ∀ r data, (old, r, data) ∈ im.rows → r < 16 * (w.base + w.ext) ∧
    (rowAt k (rowKey sl v r)).tag = rowGen v r ∧ (rowAt k (rowKey sl v r)).data = data

section
variable {im : WgImage} {g old sl : Nat} {k j : Core} {w v : Warp}

theorem Restored.of_rows (h : Restored im g k old w sl v) (hplace : fget j.warps sl = fget k.warps sl)
    (hrows : ∀ r, r < 16 * (w.base + w.ext) → rowAt j (rowKey sl v r) = rowAt k (rowKey sl v r)) : Restored im g j old w sl v :=
  { h with
    place := hplace.trans h.place
    reads := fun r data hr => by
      obtain ⟨hlt, hread⟩ := h.reads r data hr
      rw [hrows r hlt]
      exact ⟨hlt, hread⟩ }

/-- Its entries and its round are not what is read of a warp put back. -/
theorem Restored.tended (h : Restored im g k old w sl v) {fr : List Entry} {rd : Round}
    (hplace : fget j.warps sl = some { v with frontier := fr, round := rd }) (hrows : ∀ key, rowAt j key = rowAt k key) :
    Restored im g j old w sl { v with frontier := fr, round := rd } :=
  { h with
    place := hplace
    reads := fun r data hr => by
      obtain ⟨hlt, hread⟩ := h.reads r data hr
      rw [hrows]
      exact ⟨hlt, hread⟩ }

theorem Restored.readV (h : Restored im g k old w sl v) {r n : Nat} {data : List Word} (hr : (old, r, data) ∈ im.rows) :
    readV k sl v r n = data.getD n 0 := by
  obtain ⟨-, htag, hdata⟩ := h.reads r data hr
  rw [Machine.readV, rowStale, htag, hdata]
  simp

/-- The first register of a block held. -/
theorem Restored.block (h : Restored im g k old w sl v) {r : Nat} (hr : r < 16 * (w.base + w.ext)) :
    v.blocks.getD (r / 16) 0 ∈ v.blocks := by
  have hi : r / 16 < v.blocks.length := by rw [h.length]; omega
  rw [List.getD_eq_getElem _ _ hi]
  exact List.getElem_mem hi

end

theorem fget_fupd_other {α : Type} {m : FMap α} {i j : Nat} {f : α → α} (h : j ≠ i) : fget (fupd m i f) j = fget m j := by
  unfold fupd
  split
  · exact fget_fput_other _ _ h
  · rfl

/-- State t is state s but for one warp of a core, whose entries and round may have changed. -/
structure Tended (c sl : Nat) (s t : State) : Prop where
  frame : ∃ cores, t = { s with cores := cores }
  rows : (t.core c).rows = (s.core c).rows
  others : ∀ i, i ≠ sl → fget (t.core c).warps i = fget (s.core c).warps i
  self : ∀ w, s.warp? c sl = some w → ∃ fr rd, t.warp? c sl = some { w with frontier := fr, round := rd }

namespace Tended

section
variable {c sl : Nat} {s t u : State}

theorem refl (c sl : Nat) (s : State) : Tended c sl s s :=
  ⟨⟨_, rfl⟩, rfl, fun _ _ => rfl, fun w h => ⟨w.frontier, w.round, h⟩⟩

theorem trans (h : Tended c sl s t) (h' : Tended c sl t u) : Tended c sl s u where
  frame := by
    obtain ⟨cores, h⟩ := h.frame
    obtain ⟨cores', h'⟩ := h'.frame
    exact ⟨cores', h'.trans (by rw [h])⟩
  rows := h'.rows.trans h.rows
  others i hi := (h'.others i hi).trans (h.others i hi)
  self w hw := by
    obtain ⟨fr, rd, hw⟩ := h.self w hw
    obtain ⟨fr', rd', hw⟩ := h'.self _ hw
    exact ⟨fr', rd', hw⟩

/-- The warp's entries or round are written. -/
theorem setWarp {w : Warp} {fr : List Entry} {rd : Round} (hw : s.warp? c sl = some w) :
    Tended c sl s (s.setWarp c sl { w with frontier := fr, round := rd }) := by
  have hcore : (s.setWarp c sl { w with frontier := fr, round := rd }).core c =
      { s.core c with warps := fput (s.core c).warps sl { w with frontier := fr, round := rd } } := setCore_core ..
  refine ⟨⟨_, rfl⟩, by rw [hcore], fun i hi => by rw [hcore, fget_fput_other _ _ hi], fun w' hw' => ⟨fr, rd, ?_⟩⟩
  obtain rfl := Option.some.inj (hw.symm.trans hw')
  rw [State.warp?, hcore, fget_fput_same]

theorem settle (s : State) (c sl : Nat) : Tended c sl s (settle s c sl) := by
  unfold Machine.settle
  cases hw : s.warp? c sl with
  | none => exact refl ..
  | some w => exact setWarp hw

theorem reserveClones (c sl psize : Nat) (n : Nat) : ∀ s : State, Tended c sl s (reserveClones s c sl psize n) := by
  induction n with
  | zero => exact fun s => refl ..
  | succ n ih =>
    intro s
    rw [Machine.reserveClones]
    cases hone : reserveOne s c sl psize with
    | none => exact refl ..
    | some t =>
      refine trans ?_ (ih t)
      unfold reserveOne at hone
      cases hw : s.warp? c sl with
      | none => simp [hw] at hone
      | some w =>
        simp only [hw] at hone
        split at hone
        · split at hone
          · obtain rfl := Option.some.inj hone
            exact setWarp hw
          · cases hone
        · cases hone

theorem updWarp {f : Warp → Warp} (hf : ∀ w, ∃ rd, f w = { w with round := rd }) (s : State) :
    Tended c sl s (s.updWarp c sl f) := by
  have hcore : (s.updWarp c sl f).core c = { s.core c with warps := fupd (s.core c).warps sl f } := setCore_core ..
  refine ⟨⟨_, rfl⟩, by rw [hcore], fun i hi => by rw [hcore, fget_fupd_other hi], fun w hw => ?_⟩
  obtain ⟨rd, hrd⟩ := hf w
  refine ⟨w.frontier, rd, ?_⟩
  rw [State.warp?, hcore, fget_fupd_self, show fget (s.core c).warps sl = some w from hw, Option.map_some, hrd]

theorem reserveAgain (s : State) (c sl : Nat) (w : Warp) : Tended c sl s (reserveAgain s c sl w) := by
  unfold Machine.reserveAgain
  split
  · exact refl ..
  · refine (reserveClones ..).trans (updWarp ?_ _)
    exact fun _ => ⟨_, rfl⟩

end

end Tended

section
variable {im : WgImage} {g c : Nat}

/-- A core takes a warp into a free place with its rows. -/
def placedCore (k : Core) (sl : Nat) (w : Warp) (rs : List (Nat × Nat × List Word)) (priv : Nat) (gs : FMap (List Byte)) : Core :=
  installGrans (installRows (enterSections { k with warps := fput k.warps sl w } w) sl w rs) priv w.round.privGen gs

theorem placedCore_warps (k : Core) (sl : Nat) (w : Warp) (rs : List (Nat × Nat × List Word)) (priv : Nat)
    (gs : FMap (List Byte)) : (placedCore k sl w rs priv gs).warps = fput k.warps sl w := by
  obtain ⟨tags, data, hgrans⟩ := installGrans_eq priv w.round.privGen gs
    (installRows (enterSections { k with warps := fput k.warps sl w } w) sl w rs)
  obtain ⟨rows, hrows⟩ := installRows_rows (sl := sl) (w := w) rs (enterSections { k with warps := fput k.warps sl w } w)
  obtain ⟨cnt0, cnt1, henter⟩ := enterSections_eq { k with warps := fput k.warps sl w } w
  rw [placedCore, hgrans, hrows, henter]

theorem placedCore_row (k : Core) (sl : Nat) (w : Warp) (rs : List (Nat × Nat × List Word)) (priv : Nat) (gs : FMap (List Byte))
    (key : Nat) : rowAt (placedCore k sl w rs priv gs) key =
      rowAt (installRows (enterSections { k with warps := fput k.warps sl w } w) sl w rs) key := by
  obtain ⟨tags, data, hgrans⟩ := installGrans_eq priv w.round.privGen gs
    (installRows (enterSections { k with warps := fput k.warps sl w } w) sl w rs)
  rw [placedCore, hgrans]
  rfl

section
variable {k : Core} {sl priv : Nat} {w v : Warp} {rs : List (Nat × Nat × List Word)} {gs : FMap (List Byte)}

/-- Rows outside those installed stay. -/
theorem placedCore_row_other {key : Nat} (h : ∀ p ∈ rs, key ≠ rowKey sl v p.2.1) :
    rowAt (placedCore k sl v rs priv gs) key = rowAt k key :=
  (placedCore_row ..).trans (rowAt_installRows_other rs h)

/-- A warp in a free place leaves those put back before. -/
theorem placedCore_keeps {old' sl' : Nat} {w' v' : Warp} (hfree : FreePlace k (w.base + w.ext) sl v.blocks)
    (hrs : ∀ p ∈ rs, p.2.1 < 16 * (w.base + w.ext)) (h : Restored im g k old' w' sl' v') :
    sl' ≠ sl ∧ Restored im g (placedCore k sl v rs priv gs) old' w' sl' v' := by
  have hne : sl' ≠ sl := fun heq => hfree.slot (heq ▸ mem_usedSlots h.place)
  refine ⟨hne, h.of_rows (by rw [placedCore_warps, fget_fput_other _ _ hne]) fun r hr => placedCore_row_other fun p hp => ?_⟩
  have hblock : v.blocks.getD (p.2.1 / 16) 0 ∈ v.blocks := by
    have hi : p.2.1 / 16 < v.blocks.length := by have := hrs p hp; rw [hfree.length]; omega
    rw [List.getD_eq_getElem _ _ hi]
    exact List.getElem_mem hi
  obtain ⟨hlt, hunused⟩ := hfree.blocks _ hblock
  refine rowKey_apart (h.blocks _ (h.block hr)) hlt fun hq hb => hunused ?_
  rw [← hb, ← hq]
  exact mem_usedBlocks h.place (h.block hr)

/-- A warp in a free place reads the rows installed for it. -/
theorem placedCore_reads (hfree : FreePlace k (w.base + w.ext) sl v.blocks) (hrs : ∀ p ∈ rs, p.2.1 < 16 * (w.base + w.ext))
    (hnodup : (rs.map fun p => p.2.1).Nodup) {p : Nat × Nat × List Word} (hp : p ∈ rs) :
    rowAt (placedCore k sl v rs priv gs) (rowKey sl v p.2.1) = { tag := rowGen v p.2.1, data := p.2.2, dirty := false } := by
  rw [placedCore_row]
  refine rowAt_installRows ?_ hp
  have hkeys : ((rs.map fun p => p.2.1).map (rowKey sl v)).Nodup := by
    refine List.Nodup.map_on (fun r hr r' hr' h => ?_) hnodup
    obtain ⟨q, hq, rfl⟩ := List.mem_map.mp hr
    obtain ⟨q', hq', rfl⟩ := List.mem_map.mp hr'
    exact rowKey_inj hfree.nodup (hfree.length ▸ hrs q hq) (hfree.length ▸ hrs q' hq') h
  rwa [List.map_map] at hkeys

end

/-- Generations are taken from a core's counter alone. -/
theorem takeGens_counts (c n : Nat) : ∀ s : State, ∃ cores gen,
    (takeGens s c n).1 = { s with cores := cores } ∧ (takeGens s c n).1.core c = { s.core c with gen := gen } := by
  induction n with
  | zero => exact fun s => ⟨s.cores, (s.core c).gen, rfl, rfl⟩
  | succ n ih =>
    intro s
    obtain ⟨cores, gen, hframe, hcore⟩ := ih (s.updCore c fun k => { k with gen := nextGen (s.core c) })
    refine ⟨cores, gen, hframe, hcore.trans ?_⟩
    rw [updCore_core]

/-- The rows of one warp of an image. -/
def rowsOf (im : WgImage) (old : Nat) : List (Nat × Nat × List Word) := im.rows.filter fun r => decide (r.1 = old)

theorem mem_rowsOf {old : Nat} {p : Nat × Nat × List Word} : p ∈ rowsOf im old ↔ p ∈ im.rows ∧ p.1 = old := by
  rw [rowsOf, List.mem_filter, decide_eq_true_eq]

/-- Each register of a warp stands in its rows once. -/
theorem rowsOf_nodup (hnodup : (im.rows.map fun r => (r.1, r.2.1)).Nodup) (old : Nat) :
    ((rowsOf im old).map fun p => p.2.1).Nodup := by
  refine List.Nodup.of_map (fun r => (old, r)) ?_
  rw [List.map_map]
  have hsub : ((rowsOf im old).map fun p => (p.1, p.2.1)).Nodup := hnodup.sublist ((List.filter_sublist ..).map _)
  rwa [List.map_congr_left fun p hp => by rw [(mem_rowsOf.mp hp).2]] at hsub

/-- A warp of an image as it is put in a place. -/
def placedAs (g : Nat) (w : Warp) (blocks : List Nat) (genBase genExt : Nat) (hold : Hold) (round : Round) : Warp :=
  { w with wg := g, blocks := blocks, genBase := genBase, genExt := genExt, hold := hold, round := round }

/-- A warp put back takes generations and a free place, and settles there with its clones reserved. -/
theorem placeWarp_takes {s t : State} {old sl : Nat} {w : Warp} (h : placeWarp s c g im old w = some (t, sl)) :
    ∃ n blocks genBase genExt hold round priv gs, FreePlace (s.core c) (w.base + w.ext) sl blocks ∧
      Tended c sl ((takeGens s c n).1.updCore c fun k =>
        placedCore k sl (placedAs g w blocks genBase genExt hold round) (rowsOf im old) priv gs) t := by
  unfold placeWarp at h
  dsimp only at h
  split at h
  · rename_i sl' blocks priv hplace hpriv
    obtain ⟨rfl, rfl⟩ := Prod.mk.inj (Option.some.inj h)
    refine ⟨_, _, _, _, _, _, _, _, placeFor_free hplace, (Tended.reserveAgain ..).trans (Tended.settle ..)⟩
  · cases h

/-- A warp put back leaves those put back before and reads its rows. -/
theorem placeWarp_restores {s t : State} {old sl : Nat} {w : Warp} (hnodup : (im.rows.map fun r => (r.1, r.2.1)).Nodup)
    (hrows : ∀ r data, (old, r, data) ∈ im.rows → r < 16 * (w.base + w.ext)) (h : placeWarp s c g im old w = some (t, sl)) :
    (∃ cores, t = { s with cores := cores }) ∧
      (∀ old' w' sl' v', Restored im g (s.core c) old' w' sl' v' → Restored im g (t.core c) old' w' sl' v') ∧
      ∃ v, Restored im g (t.core c) old w sl v := by
  obtain ⟨n, blocks, genBase, genExt, hold, round, priv, gs, hfree, ht⟩ := placeWarp_takes h
  obtain ⟨cores, gen, hframe, hcore⟩ := takeGens_counts c n s
  let v := placedAs g w blocks genBase genExt hold round
  let k : Core := { s.core c with gen := gen }
  have hK : ((takeGens s c n).1.updCore c fun k => placedCore k sl v (rowsOf im old) priv gs).core c =
      placedCore k sl v (rowsOf im old) priv gs := by
    rw [updCore_core, hcore]
  have hk : FreePlace k (w.base + w.ext) sl v.blocks := { hfree with }
  have hrs (p : Nat × Nat × List Word) (hp : p ∈ rowsOf im old) : p.2.1 < 16 * (w.base + w.ext) := by
    obtain ⟨hmem, rfl⟩ := mem_rowsOf.mp hp
    exact hrows p.2.1 p.2.2 hmem
  have htrows (key : Nat) : rowAt (t.core c) key = rowAt (placedCore k sl v (rowsOf im old) priv gs) key :=
    congrArg (fun rows : FMap Row => (fget rows key).getD { tag := 0, data := List.replicate 32 0, dirty := false })
      (ht.rows.trans (congrArg Core.rows hK))
  refine ⟨?_, fun old' w' sl' v' h' => ?_, ?_⟩
  · obtain ⟨cores', hcores'⟩ := ht.frame
    exact ⟨cores', hcores'.trans (by rw [hframe]; rfl)⟩
  · have hk' : Restored im g k old' w' sl' v' := { h' with }
    obtain ⟨hne, hkeeps⟩ := placedCore_keeps (priv := priv) (gs := gs) hk hrs hk'
    exact hkeeps.of_rows ((ht.others sl' hne).trans (congrArg (fun k : Core => fget k.warps sl') hK)) fun r _ => htrows _
  · have hnew : Restored im g (placedCore k sl v (rowsOf im old) priv gs) old w sl v := by
      refine ⟨by rw [placedCore_warps, fget_fput_same], rfl, rfl, rfl, rfl, rfl, hfree.length, fun b hb => (hfree.blocks b hb).1,
        fun r data hr => ?_⟩
      have hrow := placedCore_reads (priv := priv) (gs := gs) hk hrs (rowsOf_nodup hnodup old) (mem_rowsOf.mpr ⟨hr, rfl⟩)
      exact ⟨hrows r data hr, congrArg Row.tag hrow, congrArg Row.data hrow⟩
    obtain ⟨fr, rd, hv⟩ := ht.self v ((congrArg (fun k : Core => fget k.warps sl) hK).trans hnew.place)
    exact ⟨_, hnew.tended hv htrows⟩

/-- Every warp of an image put back reads its rows. -/
theorem placeWarps_restores (hnodup : (im.rows.map fun r => (r.1, r.2.1)).Nodup) : ∀ (ws : List (Nat × Warp)) {s t : State}
    {m : List (Nat × Nat)}, (∀ p ∈ ws, ∀ r data, (p.1, r, data) ∈ im.rows → r < 16 * (p.2.base + p.2.ext)) →
    placeWarps c g im ws s = some (t, m) →
    (∃ cores, t = { s with cores := cores }) ∧
      (∀ old w sl v, Restored im g (s.core c) old w sl v → Restored im g (t.core c) old w sl v) ∧
      ∀ p ∈ ws, ∃ sl v, Restored im g (t.core c) p.1 p.2 sl v
  | [], s, t, m, _, h => by
    rw [placeWarps] at h
    obtain ⟨rfl, -⟩ := Prod.mk.inj (Option.some.inj h)
    exact ⟨⟨s.cores, rfl⟩, fun _ _ _ _ h => h, fun _ hp => absurd hp List.not_mem_nil⟩
  | (old, w) :: ws, s, t, m, hrows, h => by
    rw [placeWarps] at h
    split at h
    · cases h
    · rename_i u sl hone
      obtain ⟨⟨t', m'⟩, hrest, heq⟩ := Option.map_eq_some_iff.mp h
      obtain ⟨rfl, -⟩ := Prod.mk.inj heq
      obtain ⟨⟨cores, hframe⟩, hkeeps, v, hv⟩ := placeWarp_restores hnodup (hrows (old, w) List.mem_cons_self) hone
      obtain ⟨⟨cores', hframe'⟩, hkeeps', hall⟩ :=
        placeWarps_restores hnodup ws (fun p hp => hrows p (List.mem_cons_of_mem _ hp)) hrest
      refine ⟨⟨cores', hframe'.trans (by rw [hframe])⟩, fun _ _ _ _ h => hkeeps' _ _ _ _ (hkeeps _ _ _ _ h), fun p hp => ?_⟩
      rcases List.mem_cons.mp hp with rfl | hp
      · exact ⟨sl, v, hkeeps' _ _ _ _ hv⟩
      · exact hall p hp

end

/-! ### CONTEXT_RESTORE -/

/-- What a workgroup that is back no longer takes: its share of a die's parked readers and of its device's save pool. -/
def paidBack (s : State) (c d k : Nat) (im : WgImage) (units : Nat) : State :=
  let s := (addMove s d).updDie d fun y =>
    { y with parked0 := y.parked0 - imageSections im 0, parked1 := y.parked1 - imageSections im 1 }
  s.updDev k fun y =>
    { y with
      saveUsed := y.saveUsed - units
      vesper := if dieOf c = d then y.vesper else { y.vesper with moves := y.vesper.moves + 1 } }

/-- A workgroup stands in a core again, with its warps. -/
structure Back (mem : Mem) (im : WgImage) (g c base : Nat) (s : State) : Prop where
  mem : s.mem = mem
  wg : ∃ y, fget s.wgs g = some y ∧ y.phase = .resident ∧ y.core = c ∧ y.base = base ∧ y.image = none
  warps : ∀ p ∈ im.warps, ∃ sl v, Restored im g (s.core c) p.1 p.2 sl v

namespace Back

section
variable {mem : Mem} {im : WgImage} {g c base : Nat} {s : State}

theorem beside {t : State} (h : Back mem im g c base s) (hmem : t.mem = s.mem) (hwgs : t.wgs = s.wgs)
    (hcore : t.core c = s.core c) : Back mem im g c base t :=
  ⟨hmem.trans h.mem, hwgs ▸ h.wg, hcore ▸ h.warps⟩

theorem updWg {f : Wg → Wg} (h : Back mem im g c base s)
    (hf : ∀ y, (f y).phase = y.phase ∧ (f y).core = y.core ∧ (f y).base = y.base ∧ (f y).image = y.image) :
    Back mem im g c base (s.updWg g f) := by
  obtain ⟨y, hy, hphase, hcore, hbase, himage⟩ := h.wg
  obtain ⟨hphase', hcore', hbase', himage'⟩ := hf y
  exact ⟨h.mem, ⟨f y, (fget_fupd_self ..).trans (congrArg (Option.map f) hy), hphase'.trans hphase, hcore'.trans hcore,
    hbase'.trans hbase, himage'.trans himage⟩, h.warps⟩

theorem updDie {d : Nat} {f : Die → Die} (h : Back mem im g c base s) (hf : ∀ x, (f x).cycle = x.cycle) :
    Back mem im g c base (s.updDie d f) := h.beside rfl rfl (updDie_core hf c)

theorem addMove {d : Nat} (h : Back mem im g c base s) : Back mem im g c base (addMove s d) := h.beside rfl rfl (addMove_core ..)

/-- A change of the core that leaves its warps and rows. -/
theorem updCore {f : Core → Core} (h : Back mem im g c base s) (hf : ∀ k, (f k).warps = k.warps ∧ (f k).rows = k.rows) :
    Back mem im g c base (s.updCore c f) := by
  obtain ⟨hwarps, hrows⟩ := hf (s.core c)
  refine ⟨h.mem, h.wg, fun p hp => ?_⟩
  obtain ⟨sl, v, hv⟩ := h.warps p hp
  rw [updCore_core]
  exact ⟨sl, v, hv.of_rows (by rw [hwarps]) fun r _ => by rw [rowAt, rowAt, hrows]⟩

theorem paidBack (d k : Nat) (im' : WgImage) (units : Nat) (h : Back mem im g c base s) :
    Back mem im g c base (paidBack s c d k im' units) := by
  have hdie : Back mem im g c base ((Machine.addMove s d).updDie d fun y =>
      { y with parked0 := y.parked0 - imageSections im' 0, parked1 := y.parked1 - imageSections im' 1 }) := by
    refine h.addMove.updDie ?_
    exact fun _ => rfl
  exact hdie.beside rfl rfl rfl

theorem putSeq (m : List (Nat × Nat)) (im' : WgImage) (h : Back mem im g c base s) :
    Back mem im g c base (putSeq s g c im' m) := by
  unfold Machine.putSeq
  split
  · exact h
  · exact h.beside rfl rfl rfl

theorem moveReqs (m : List (Nat × Nat)) (h : Back mem im g c base s) : Back mem im g c base (moveReqs s g m) := by
  refine updWg (s := { s with net := _, aside := _, msgs := _ }) (h.beside rfl rfl rfl) ?_
  exact fun _ => ⟨rfl, rfl, rfl, rfl⟩

theorem sendAgain (m : List (Nat × Nat)) (h : Back mem im g c base s) : Back mem im g c base (sendAgain s g m) := by
  unfold Machine.sendAgain
  split
  · have hsent : Back mem im g c base (s.updWg g fun y => { y with reissue := [] }) := by
      refine h.updWg ?_
      exact fun _ => ⟨rfl, rfl, rfl, rfl⟩
    exact hsent.beside rfl rfl rfl
  · exact h

end

end Back

/-- An image put back brings its workgroup back. -/
theorem putImage_back {s t : State} {g c base : Nat} {im : WgImage} {y : Wg} {m : List (Nat × Nat)}
    (hnodup : (im.rows.map fun r => (r.1, r.2.1)).Nodup)
    (hrows : ∀ old w r data, (old, w) ∈ im.warps → (old, r, data) ∈ im.rows → r < 16 * (w.base + w.ext))
    (hy : fget s.wgs g = some y) (hphase : y.phase = .resident) (himage : y.image = none)
    (h : putImage s g c base im = some (t, m)) : Back s.mem im g c base t := by
  unfold putImage at h
  dsimp only at h
  split at h
  · cases h
  · obtain ⟨⟨u, m'⟩, hplaced, heq⟩ := Option.map_eq_some_iff.mp h
    obtain ⟨rfl, -⟩ := Prod.mk.inj heq
    obtain ⟨cores, gen, hframe, -⟩ := takeGens_counts c 1 s
    obtain ⟨⟨cores', hframe'⟩, -, hall⟩ :=
      placeWarps_restores hnodup im.warps (fun p hp r data => hrows p.1 p.2 r data hp) hplaced
    have hwg : fget (((takeGens s c 1).1.updWg g fun x =>
        { x with core := c, base := base, gen := (takeGens s c 1).2.getD 0 0, bars := im.bars })).wgs g =
          some { y with core := c, base := base, gen := (takeGens s c 1).2.getD 0 0, bars := im.bars } := by
      refine (fget_fupd_self ..).trans ?_
      rw [hframe, hy]
      rfl
    have hback : Back s.mem im g c base u := by
      refine ⟨?_, ⟨_, (congrArg (fun t : State => fget t.wgs g) hframe').trans hwg, hphase, rfl, rfl, himage⟩, hall⟩
      rw [hframe', hframe]
      rfl
    have hgrans (base' gen' : Nat) : Back s.mem im g c base (u.updCore c fun k => installGrans k base' gen' im.grans) := by
      refine hback.updCore fun k => ?_
      obtain ⟨tags, data, hk⟩ := installGrans_eq base' gen' im.grans k
      rw [hk]
      exact ⟨rfl, rfl⟩
    refine Back.addMove ?_
    split
    · exact hgrans ..
    · exact (hgrans ..).updCore fun k => ⟨rfl, rfl⟩

theorem restorePlace_alone {s : State} {x : Wg} (hcg : x.cg = none) (htwin : x.twin = none) (hthird : x.third = none)
    (hpool : x.pool = false) (c : Nat) : restorePlace s x c = true := by
  simp [restorePlace, standsApart, copiesOf, hcg, htwin, hthird, hpool]

section
variable {s : State} {g c base : Nat} {x : Wg} {l : Launch} {im : WgImage}

/-- A saved workgroup with a core as it comes back to it, before its image is put back. -/
def returned (s : State) (g c space base : Nat) : State :=
  (clearMatrix s c space false).updWg g fun y => { y with phase := .resident, image := none, base := base, core := c }

/-- A saved workgroup comes back where there is room. -/
theorem restoreOne_back (h : SavedAlone s g x l) (hpool : x.pool = false) (hphase : x.phase = .saved) (himage : x.image = some im)
    (hrun : l.phase = .running) (hdev : devOfCore s c = l.dev) (hmatrix : matrixFree s c l.rec_.space = true)
    (hroom : findRoom s c x.size = some base) (hnodup : (im.rows.map fun r => (r.1, r.2.1)).Nodup)
    (hrows : ∀ old w r data, (old, w) ∈ im.warps → (old, r, data) ∈ im.rows → r < 16 * (w.base + w.ext))
    (hput : putImage (returned s g c l.rec_.space base) g c base im ≠ none) :
    ∃ t, restoreOne s g c = some t ∧ Back s.mem im g c base t ∧ ∃ y, fget t.wgs g = some y ∧ y.saveUnits = 0 := by
  obtain ⟨⟨u, m⟩, hput⟩ := Option.ne_none_iff_exists'.mp hput
  have hgo : ¬(x.phase ≠ .saved ∨ l.phase ≠ .running ∨ devOfCore s c ≠ l.dev ∨ (!restorePlace s x c) = true ∨
      (!matrixFree s c l.rec_.space) = true) := by
    simp [hphase, hrun, hdev, restorePlace_alone h.cg h.twin h.third hpool, hmatrix]
  have hput' : putImage ((clearMatrix s c l.rec_.space false).updWg g fun y =>
      { y with phase := .resident, image := none, base := base, core := c }) g c base im = some (u, m) := hput
  unfold restoreOne
  simp only [h.wg, himage, h.launch, if_neg hgo, hroom, h.cg, Option.isSome_none, Bool.false_eq_true, if_false, hput']
  have hreturned : fget (returned s g c l.rec_.space base).wgs g =
      some { x with phase := .resident, image := none, base := base, core := c } := by
    refine (fget_fupd_self ..).trans ?_
    rw [show fget (clearMatrix s c l.rec_.space false).wgs g = some x from h.wg]
    rfl
  have hu : Back s.mem im g c base u := putImage_back (s := returned s g c l.rec_.space base) hnodup hrows hreturned rfl rfl hput
  have hsent := ((hu.putSeq m im).moveReqs m).sendAgain m
  have hinner := hsent.paidBack (dieOf x.core) l.dev im x.saveUnits
  obtain ⟨y, hy, -⟩ := hinner.wg
  refine ⟨_, rfl, hinner.updWg ?_, _, (fget_fupd_self ..).trans (congrArg (Option.map _) hy), rfl⟩
  exact fun _ => ⟨rfl, rfl, rfl, rfl⟩

/-- A workgroup that is back is not restored again with its group. -/
theorem restoreMembers_resident {t : State} {y : Wg} (hy : fget t.wgs g = some y) (hphase : y.phase = .resident) (cl : Nat) :
    restoreMembers cl [g] t = some t := by
  simp only [restoreMembers, hy, hphase, reduceCtorEq, ne_eq, not_false_eq_true, if_true]

theorem contextRestore_restores {t : State} {y : Wg} (h : SavedAlone s g x l) (hone : restoreOne s g c = some t)
    (hy : fget t.wgs g = some y) (hphase : y.phase = .resident) : exec (.contextRestore g c) s = .next t := by
  have hteam : restoreTeam s g c = some t := by
    simp only [restoreTeam, hone, groupOf_alone h.wg h.cg, Option.bind_some, restoreMembers_resident hy hphase]
  have hkind : l.rec_.kind ≠ 1 := by rw [h.kind]; decide
  show execContextRestore g c s = _
  unfold execContextRestore
  simp only [h.wg, h.launch, if_neg hkind, hteam, Option.bind_some, restoreRest]

end

/-- Settles O49: what waits is withdrawn as the workgroup stops; its image holds its warps with their valid rows and granules;
each warp takes a free place, where a row of the image stands under its new generations. -/
theorem contextMoves : Obligations.ContextMoves := by
  intro s g x l hwg hlaunch hkind hmode hpool hcg htwin hthird hordered warps
  have h : SavedAlone s g x l := ⟨hwg, hlaunch, hkind, hmode, hcg, htwin, hthird⟩
  refine ⟨?preempt, ?save, ?restore⟩
  case preempt =>
    intro units hphase hrestoring hcopies hrounds hroom
    have hunits : saveUnitsOf s g x = units := h.saveUnits
    rw [← hunits] at hroom ⊢
    exact preempts h hphase hrestoring hcopies hrounds hroom
  case save =>
    intro hphase hcopies hquiet hqueues
    let t := (withdrawWq s g fun _ => false).setCore x.core (s.core x.core)
    have hcore : t.core x.core = s.core x.core := setCore_core ..
    have hm : risingFrom 0 (t.core x.core).warps = true := hcore ▸ rising_core hordered _
    have hended : x.phase ≠ .ended := by rw [hphase]; decide
    obtain ⟨hmem, hsaved, hleft⟩ := saveOne_saves (s := t) h.wg hm
    have hwarp (sl : Nat) : t.warp? x.core sl = s.warp? x.core sl := congrArg (fun k : Core => fget k.warps sl) hcore
    refine ⟨saveOne t g, _, captureWg t g x, contextSave_saves h hphase hcopies hquiet hqueues hordered, hmem, hsaved, rfl, rfl,
      fun sl w hw => ?_, fun sl w hw hg => ⟨⟨_, captureWg_warp hended hm ((hwarp sl).trans hw) hg, savedWarp_frontier,
        savedWarp_quiet ?_⟩, fun r data => ?_⟩, fun n bs => ?_⟩
    · rw [← hwarp]
      exact hleft sl w hw
    · exact (hquiet (sl, w) (List.mem_filter.mpr ⟨mem_of_fget hw, decide_eq_true hg⟩)).1
    · rw [mem_captureWg_rows hended hm ((hwarp sl).trans hw) hg, hcore]
    · rw [captureWg_grans hended, fget_validGrans, hcore]
  case restore =>
    intro c base im hphase himage hrun hdev hmatrix hroom hnodup hrows hput
    obtain ⟨t, hone, hback, y, hy, hunits⟩ :=
      restoreOne_back h hpool hphase himage hrun hdev hmatrix hroom hnodup (fun _ _ _ _ => hrows _ _ _ _) hput
    obtain ⟨hmem, ⟨y', hy', hresident, hcore, hbase, hnone⟩, hwarps⟩ := hback
    obtain rfl := Option.some.inj (hy.symm.trans hy')
    refine ⟨t, y, contextRestore_restores h hone hy hresident, hmem, hy, hresident, hcore, hbase, hnone, hunits,
      fun old w hw => ?_⟩
    obtain ⟨sl, v, hv⟩ := hwarps (old, w) hw
    exact ⟨sl, v, hv.place, hv.wg, hv.idx, hv.live, hv.sregs, hv.preds, hv.length, fun r data hr n => hv.readV hr⟩

end Sys2Proof.Proofs
end
